-- ==== Sys2Proof/Word.lean ====
section
/-! DEFINITION. The plainest data types of the module: bytes, 64-byte lines, sparse tables in one canonical form,
and page ranges. -/

set_option Elab.async false

namespace Sys2Proof

/-- One byte (R12). -/
abbrev Byte := BitVec 8

/-- One 64-byte line, byte i in bits 8i+7 .. 8i (R12, R173). -/
abbrev Line := BitVec 512

/-- A sparse table: keys strictly rising, no entry equal to the default an unlisted key reads as. -/
abbrev Tab (α : Type) := List (Nat × α)

/-- Reads key `k`; an unlisted key reads as `d`. -/
def Tab.get {α : Type} (d : α) : Tab α → Nat → α
  | [], _ => d
  | (j, v) :: t, k => if k = j then v else Tab.get d t k

/-- Removes key `k`. -/
def Tab.erase {α : Type} (t : Tab α) (k : Nat) : Tab α := t.filter fun e => decide (e.1 ≠ k)

/-- Lists key `k` with value `v`. -/
def Tab.insert {α : Type} : Tab α → Nat → α → Tab α
  | [], k, v => [(k, v)]
  | (j, w) :: t, k, v =>
    if k = j then (k, v) :: t else if k < j then (k, v) :: (j, w) :: t else (j, w) :: Tab.insert t k v

/-- Writes key `k`, keeping the canonical form: writing the default removes the entry. -/
def Tab.set {α : Type} [DecidableEq α] (d : α) (t : Tab α) (k : Nat) (v : α) : Tab α :=
  if v = d then Tab.erase t k else Tab.insert t k v

/-- Gives every listed key a new value, in canonical form. -/
def Tab.mapVals {α : Type} [DecidableEq α] (d : α) (f : Nat → α → α) (t : Tab α) : Tab α :=
  t.foldr (fun e u => Tab.set d u e.1 (f e.1 e.2)) []

/-- Removes every key from `lo` up to but not including `hi`. -/
def Tab.eraseRange {α : Type} (t : Tab α) (lo hi : Nat) : Tab α :=
  t.filter fun e => decide (e.1 < lo ∨ hi ≤ e.1)

/-- Every key of `t` lies above `b`, and the keys rise strictly. -/
def Tab.sortedFrom {α : Type} : Nat → Tab α → Bool
  | _, [] => true
  | b, (j, _) :: t => decide (b ≤ j) && Tab.sortedFrom (j + 1) t

/-- The canonical form: keys strictly rising, no default value listed. -/
def Tab.wf {α : Type} [DecidableEq α] (d : α) (t : Tab α) : Bool :=
  Tab.sortedFrom 0 t && t.all fun e => decide (e.2 ≠ d)

/-- Disjoint page ranges, each (first, count). -/
abbrev Ranges := List (Nat × Nat)

/-- Is page `p` in one of the ranges? -/
def Ranges.has (r : Ranges) (p : Nat) : Bool :=
  r.any fun x => decide (x.1 ≤ p ∧ p < x.1 + x.2)

/-- Takes the pages `lo` .. `lo + n - 1` out. -/
def Ranges.remove (r : Ranges) (lo n : Nat) : Ranges :=
  r.flatMap fun x =>
    let a := x.1
    let b := x.1 + x.2
    let left := if a < lo then [(a, min b lo - a)] else []
    let right := if lo + n < b then [(max a (lo + n), b - max a (lo + n))] else []
    if b ≤ lo ∨ lo + n ≤ a then [x] else left ++ right

/-- Puts the pages `lo` .. `lo + n - 1` in. -/
def Ranges.add (r : Ranges) (lo n : Nat) : Ranges :=
  if n = 0 then r else (lo, n) :: r.remove lo n

/-- The number of pages listed. -/
def Ranges.size (r : Ranges) : Nat := (r.map (·.2)).foldl (· + ·) 0

end Sys2Proof
end

