-- ==== Sys2Proof/Syntax.lean ====
section
/-! DEFINITION. The commands of the module: one constructor per row of spec/opcode_table.json, with the operands the
spec gives it. Numbers are plain naturals; what the manual treats as bits is a bit vector. Operands that name what only
the outside can know (a sample, a physical outcome, the error pattern on a stored line) are plain data of the command. -/

set_option Elab.async false

namespace Sys2Proof

/-- An error pattern on a stored line: (stored byte 0..71, bits flipped) (R317, R319). -/
abbrev Err := List (Nat × Byte)

/-- The header of a fabric message as received (R154), with its arrival port, the ns offset of its arrival within the
epoch, the journal index it carries (R366), and, when ENC is set, its security block (R399). -/
structure ReqHdr where
  port : Nat
  dst : Nat
  src : Nat
  tag : Nat
  msgLen : Nat
  flags : BitVec 8
  resv : BitVec 8
  cktId : Nat
  opData : BitVec 32
  jidx : Nat
  atNs : Nat
  sess : Nat
  deriving DecidableEq, Repr

/-- An RSL command frame (R412, R416): port, CMD_TAG, HOST and TENANT of R416, the reserved bytes as one number. -/
structure RslCmd where
  port : Nat
  tag : Nat
  host : Nat
  tenant : Nat
  resv : Nat
  deriving DecidableEq, Repr

/-- How a class-3 command arrives: over the fabric, over the RSL (R416), or in a CH_CMD envelope (R406). -/
inductive Via where
  | fabric (h : ReqHdr)
  | rsl (c : RslCmd)
  | ch (c : RslCmd) (session : Nat)
  deriving DecidableEq, Repr

/-- The acknowledgement and credit return in a flit header (R128, R134). -/
structure FlitHdr where
  ackValid : Bool
  ackSeq : Nat
  crdClass : Nat
  crdCount : Nat
  deriving DecidableEq, Repr

/-- A flit as a port's decoder hands it over (R126, R127): its bytes, and how many uncorrectable codewords it overlaps. -/
structure RawFlit where
  bytes : List Byte
  fecBad : Nat
  deriving DecidableEq, Repr

/-- LINK_PARAM (R148), with the port number that the far end's training pattern carried. -/
structure LinkParam where
  patternPort : Nat
  gen : Nat
  peerGen : Nat
  es : Nat
  portNum : Nat
  mode : Nat
  width : Nat
  resv : Nat
  initCrd : List Nat
  deriving DecidableEq, Repr

/-- The arguments of RING_ARM (R238). -/
structure RingArgs where
  base : Nat
  s1Root : Nat
  log2Size : Nat
  onFault : Nat
  s1Enable : Nat
  maxEngines : Nat
  resv : Nat
  deriving DecidableEq, Repr

/-- The argument line of RED_OPEN (R275). -/
structure RedArgs where
  winBase : Nat
  resBase : Nat
  accBase : Nat
  winLen : Nat
  alpha : Nat
  seed : Nat
  elemFmt : Nat
  accFmt : Nat
  resFmt : Nat
  op : Nat
  rmode : Nat
  mode : Nat
  home : Nat
  contributors : Nat
  resv : Nat
  deriving DecidableEq, Repr

/-- A lease record as SET_DELTA carries it (R183, R199). -/
structure LeaseRec where
  host : Nat
  assigned : Bool
  lstate : Nat
  tenant : Nat
  endEpoch : Nat
  deriving DecidableEq, Repr

/-- An order of SET_CMD (R199, R200), the domain records and bindings of R228, what else an extent entry holds when a
member receives the full tables, and the last order of those tables (R202). -/
inductive SetOrder where
  | place (ext kind tenant owner lenGran rights mask : Nat)
  | grant (ext host rights : Nat)
  | release (ext host : Nat)
  | withdraw (ext force : Nat)
  | assign (host tenant assign : Nat)
  | domain (d st tenant cause dgen : Nat) (slots : List (Nat × Nat))
  | bind (ext : Nat) (domain : Option Nat)
  | entry (ext : Nat) (isSealed damaged owned : Bool) (key : Nat) (region : Option Nat)
  | tablesEnd
  deriving DecidableEq, Repr

/-- The command inside a CH_CMD envelope (R406). -/
inductive ChInner where
  | rw (addr len dir : Nat) (data : List Line)
  | leaseRenew
  | extAlloc (kind rights lenGran resv : Nat)
  | extGrant (ext host rights resv : Nat)
  | extRelease (ext host resv : Nat)
  | extWithdraw (ext force resv : Nat)
  | setInfo
  | ringArm (a : RingArgs)
  | ringStop (ring mode : Nat)
  | faultResolve (fid gen action resv : Nat)
  | redOpen (a : RedArgs)
  | redReset (buf seed resv : Nat)
  | redClose (buf : Nat)
  | redQuery (buf : Nat)
  | barrier (bar count lead resv : Nat)
  | launch (ring epoch resv : Nat)
  | pubCreate (sealed : Nat)
  | publish (region expected srcExt resv : Nat)
  | pubMap (region : Nat)
  | pubRelease (region version : Nat)
  | pubDelete (region : Nat)
  | pubQuery (region : Nat)
  | accessDump (ext first count dst : Nat)
  | attest (nonce dst scope resv : Nat)
  | certGet (dst resv : Nat)
  | sealQuery (slot dst resv : Nat)
  | sessOpen (helloAddr outAddr resv : Nat)
  | sessProve (sid evidAddr evidLen resv : Nat)
  | sessClose (sid : Nat)
  | sealImport (dstExt stageExt stageOffset resv : Nat)
  | ctrRead (group count index dst : Nat)
  | objQuery (obj index dst : Nat)
  | undefined (opcode : Nat)
  deriving DecidableEq, Repr

/-- A reply of an obeying die to a token message (R28). -/
inductive TokReply where
  | granted
  | heldBy (die : Nat) (expiry : Nat)
  | released
  deriving DecidableEq, Repr

/-- What a control die sends an obeying die (R27). -/
inductive OdKind where
  | command
  | statusRead
  | commitRead
  deriving DecidableEq, Repr

/-- The commands, in the order of the opcode table. Dies: 0 CD-A, 1 CD-B, 2 HD-0, 3 HD-1, 4 PD. Obeying dies: 0 HD-0,
1 HD-1, 2 PD. Link-layer ports: 0 to 63 the Corxel ports, 64 and 65 the RSL ports 0 and 1. -/
inductive Instr where
  | vinTurnOn (mv : Nat)
  | vinTurnOff (dipUs : Nat)
  | inputLowEntry (mv : Nat)
  | inputHighEntry (mv : Nat)
  | overvoltageCutoff (mv : Nat)
  | restartAfterCutoff (belowMs mv : Nat)
  | inputReversal (mv : Nat)
  | modRstN (lowNs : Nat)
  | svcRstN (lowNs : Nat)
  | moduleResetRelease
  | softStartDone
  | railGroupEnable (inWindow : BitVec 18)
  | railEnableTimeout (rail : Nat)
  | porRelease (oscDly setIndex : BitVec 3)
  | oscStartDelayEnd (xaAmp : Bool) (xaCount : Nat) (xbAmp : Bool) (xbCount : Nat)
  | imageChoiceDone (bReadsA bReadsB : Bool)
  | dieFirmwareDone (die : Nat)
  | configCheckDone (die : Nat)
  | cdBClaimWaitEnd
  | loadStageDone
  | stackCalDone (stack : Nat) (pass : Bool)
  | wipeRangeDone
  | efuseOpen (rail deciAmps mv : Nat)
  | senseLineOpen (rail : Nat)
  | railOutOfRange (rail mv : Nat)
  | cableFitted (fab identity : Nat)
  | cableRemoved (fab : Nat)
  | cableFault (fab : Nat)
  | debugAccess (inputs : Nat)
  | thermalStepUndo (part : Nat)
  | tripInputOff
  | thermalComparator (sensor : Nat)
  | powerAverageUpdate (avgW : Nat)
  | powerClockStep
  | powerStepUndo
  | crystalMissingEdge (xb : Bool)
  | crystalFrequencyFlag (xb : Bool) (count : Nat)
  | crystalHoldEnd
  | loopLockLoss (die : Nat) (ports : List Nat)
  | monitorSample (mon : Nat) (value : BitVec 16) (fault : Bool)
  | epochBoundary (markToA markToB : Bool)
  | hubEpochBoundary (hub : Nat) (mark : Bool)
  | tokenClaim (od die : Nat)
  | tokenRenew (od die : Nat)
  | tokenRelease (od die : Nat)
  | tokenExpiry (od : Nat)
  | obeyingDieCommand (od die : Nat) (kind : OdKind)
  | tokenReply (die od : Nat) (reply : TokReply)
  | renewalSilence
  | d2dCrcError (link : Nat) (retry : Bool)
  | d2dLinkFail (link : Nat)
  | flitTx (port atNs : Nat)
  | dataFlitRx (port : Nat) (f : RawFlit) (marks : List (Nat × Nat))
  | idle (port : Nat) (f : RawFlit)
  | nak (port : Nat) (f : RawFlit)
  | creditSync (port : Nat) (f : RawFlit)
  | time (port : Nat) (f : RawFlit) (arrival : Nat)
  | timeProbe (port : Nat) (f : RawFlit) (t2 : Nat)
  | timeEcho (port : Nat) (f : RawFlit) (t4 : Nat)
  | linkParam (port : Nat) (f : RawFlit) (patternPort : Nat)
  | laneSwap (port : Nat) (f : RawFlit)
  | malformedControlFlit (port : Nat) (f : RawFlit)
  | replayTimerExpiry (port atNs : Nat)
  | linkSilenceTimeout (port : Nat)
  | laneLockLoss (port : Nat) (lanes : BitVec 5)
  | laneFecFault (port lane : Nat) (corrected : List Nat)
  | trainingStart (port : Nat) (bad : BitVec 5)
  | trainingDone (port : Nat)
  | trainingTimeout (port : Nat)
  | trainingRetry (port : Nat)
  | laneSwapDone (port : Nat)
  | ingressSlotRelease (port cls : Nat)
  | messageBind
  | gateBurstStart (port kind cls offsetNs : Nat)
  | routeDrained (version : Nat)
  | circuitActivate (ckt : Nat)
  | circuitRemove (ckt : Nat)
  | undefinedOpcode (v : Via) (cls opcode : Nat)
  | rdNc (h : ReqHdr) (addr maskOrDomain : Nat) (err : Err)
  | rdShared (h : ReqHdr) (addr maskOrDomain : Nat)
  | rdOwn (h : ReqHdr) (addr maskOrDomain : Nat)
  | wrNc (h : ReqHdr) (addr : Nat) (mask : BitVec 64) (data : Line) (err : Err)
  | wbDirty (h : ReqHdr) (addr : Nat) (mask : BitVec 64) (data : Line)
  | evict (h : ReqHdr) (addr maskOrDomain : Nat)
  | atomic (h : ReqHdr) (addr maskOrDomain : Nat) (operand : BitVec 256) (err : Err)
  | snpAck (h : ReqHdr)
  | snpData (h : ReqHdr) (addr domain dgen resv : Nat) (data : Line)
  | grantAck (h : ReqHdr)
  | homeLineReadDone (tracker : Nat) (err : Err)
  | hubWriteAccepted (hub : Nat)
  | starvationEntryTimeout (line : Nat)
  | cohDeadlineExpiry (tracker : Nat)
  | cohDownReport (h : ReqHdr) (setGen domain dgen cause : Nat)
  | cohDomainCreate (c : RslCmd) (tenant : Nat)
  | cohMemberAdd (c : RslCmd) (domain index host : Nat)
  | cohMemberRemove (c : RslCmd) (domain index : Nat)
  | cohExtBind (c : RslCmd) (ext domain : Nat)
  | cohExtUnbind (c : RslCmd) (ext : Nat)
  | cohDomainDown (c : RslCmd) (domain : Nat)
  | cohDomainReset (c : RslCmd) (domain : Nat)
  | cohDomainFree (c : RslCmd) (domain : Nat)
  | cohDomainQuery (c : RslCmd) (domain : Nat)
  | leaseRenew (v : Via)
  | extAlloc (v : Via) (kind rights lenGran resv : Nat)
  | extGrant (v : Via) (ext host rights resv : Nat)
  | extRelease (v : Via) (ext host resv : Nat)
  | extWithdraw (v : Via) (ext force resv : Nat)
  | setInfo (v : Via)
  | hostAssign (c : RslCmd) (host tenant assign : Nat)
  | tenantSet (c : RslCmd) (tenant quota : Nat)
  | extQuery (c : RslCmd) (ext : Nat)
  | leaseQuery (c : RslCmd) (host : Nat)
  | setMaster (c : RslCmd) (newMaster : Nat) (lostMask : BitVec 8) (setGen : Nat)
  | leaseEnd (host : Nat)
  | graceEnd (host : Nat)
  | reclaimDone (host : Nat)
  | extentFree (ext : Nat)
  | setDelta (h : ReqHdr) (setGen epoch : Nat) (recs : List LeaseRec)
  | setAck (h : ReqHdr) (setGen epoch : Nat)
  | setCmd (h : ReqHdr) (setGen : Nat) (order : SetOrder)
  | setDone (h : ReqHdr) (setGen : Nat) (code : Nat)
  | setJoin (h : ReqHdr) (setGen size digest : Nat)
  | setJoinAck (h : ReqHdr) (setGen index size code : Nat)
  | setJoinSend
  | setFormationEnd
  | setMemberLoss (index : Nat)
  | setMasterLoss
  | ringArm (v : Via) (a : RingArgs)
  | ringStop (v : Via) (ring mode : Nat)
  | faultResolve (v : Via) (fid gen action resv : Nat)
  | ringQuery (c : RslCmd) (ring : Nat)
  | faultQuery (c : RslCmd) (fid : Nat)
  | invalidate (c : RslCmd) (tenant scope src len s1Root : Nat)
  | walkDone (ring index : Nat) (err : Err)
  | engineDispatch (engine : Nat)
  | coachAck (h : ReqHdr)
  | descriptorComplete (ring index : Nat) (errAt : Option Nat) (err : Err)
  | faultRecordExpiry (fid : Nat)
  | redOpen (v : Via) (a : RedArgs)
  | redReset (v : Via) (buf seed resv : Nat)
  | redClose (v : Via) (buf : Nat)
  | redQuery (v : Via) (buf : Nat)
  | redWr (h : ReqHdr) (addr contrib resv : Nat) (scales : List Byte) (lines : List Line)
  | redLineCombine (jidx : Nat) (err : Err)
  | laneGroupFault (group : Nat)
  | barrier (v : Via) (bar count lead resv : Nat)
  | barrierTimeout (bar : Nat)
  | launch (v : Via) (ring epoch resv : Nat)
  | launchFire (ring : Nat)
  | pairedCheck (c : RslCmd) (on : Nat)
  | pairedEntryDone
  | pairedMismatch (unit : Nat)
  | pubCreate (v : Via) (sealed : Nat)
  | publish (v : Via) (region expected srcExt resv : Nat)
  | publishJudge
  | pubMap (v : Via) (region : Nat)
  | pubRelease (v : Via) (region version : Nat)
  | pubDelete (v : Via) (region : Nat)
  | pubQuery (v : Via) (region : Nat)
  | ceBucketLeak
  | stackOvfHalve
  | openSweepDone (ppn : Nat)
  | ladleOverwriteDone (ppn : Nat)
  | ladleScrubRead (ppn line : Nat) (err : Err) (endsPass : Bool)
  | rdmRefresh (stack row activations : Nat)
  | calibrationSlot (channel : Nat)
  | pageMoveCopyDone (ppn : Nat)
  | stackFail (stack : Nat)
  | stackRemove (c : RslCmd) (stack : Nat)
  | stackReturn (c : RslCmd) (stack : Nat)
  | stackReset (c : RslCmd) (stack : Nat)
  | stackResetDone (stack : Nat) (pass : Bool)
  | accessDump (v : Via) (ext first count dst : Nat)
  | sramCorrectable (die array row : Nat)
  | sramUncorrectable (die array index : Nat)
  | ceLogRead (c : RslCmd)
  | cutAck (epoch : Nat)
  | cutLagTimeout
  | tenderReady
  | resyncStart
  | commitListRead (hub : Nat) (ok : Bool)
  | tenderLinkRetrain (ok : Bool)
  | failNotice (fromTender : Bool)
  | activeSelfFault
  | silentDetect
  | tokenExpiryIndication
  | claimTimeout
  | twinSwitch (c : RslCmd)
  | handover
  | dieReset (c : RslCmd) (die : Nat)
  | dieReady (die : Nat) (checksPass : Bool)
  | portReset (c : RslCmd) (port : Nat)
  | portResetIdleEnd (port : Nat)
  | moduleReset (c : RslCmd)
  | bootStatus (c : RslCmd)
  | imageWrite (c : RslCmd) (flash final offset len : Nat) (data : List Byte)
  | lcAdvance (c : RslCmd) (target : Nat)
  | provision (c : RslCmd) (tokenOk : Bool)
  | secMinRaise (c : RslCmd) (value : Nat)
  | debugOpen (c : RslCmd) (tokenOk : Bool)
  | cfgWrite (c : RslCmd) (fieldId value : Nat)
  | cfgRead (c : RslCmd) (fieldId : Nat)
  | statusRead (c : RslCmd) (word count index : Nat)
  | timeRelock (c : RslCmd)
  | timeSourceIneligible (port : Nat)
  | holdoverExpiry
  | evAck (c : RslCmd) (seq : Nat)
  | rslEcho (c : RslCmd) (echo : Nat)
  | routeLoad (c : RslCmd) (version first : Nat) (entries : List (BitVec 32))
  | routeCommit (c : RslCmd) (version : Nat)
  | policerSet (c : RslCmd) (host cls enable cir pir cbs pbs : Nat)
  | cktSetup (c : RslCmd) (host port direction startEpoch : Nat) (windows : List (Nat × Nat))
  | cktTeardown (c : RslCmd) (ckt endEpoch : Nat)
  | ctrRead (v : Via) (group count index dst : Nat)
  | objQuery (v : Via) (obj index dst : Nat)
  | rslFrameInvalid (port frameLen : Nat)
  | rslCommandRepeat (port tag cmd : Nat)
  | evBucketRefill
  | attest (v : Via) (nonce dst scope resv : Nat)
  | attestSign
  | certGet (v : Via) (dst resv : Nat)
  | sessOpen (v : Via) (helloAddr outAddr resv : Nat)
  | sessProve (v : Via) (sid evidAddr evidLen resv : Nat)
  | sessClose (v : Via) (sid : Nat)
  | sessionPendingTimeout (sid : Nat)
  | encryptedMessageRx (h : ReqHdr) (opcode sid resv seq : Nat) (cipher tag : List Byte)
  | sealImport (v : Via) (dstExt stageExt stageOffset resv : Nat)
  | sealImportDone (slot : Nat)
  | sealQuery (v : Via) (slot dst resv : Nat)
  | keystoreChangeAck
  | chOpen (c : RslCmd) (host : Nat) (hello : List Byte)
  | chCmd (c : RslCmd) (sid resv seq : Nat) (cipher tag : List Byte) (inner : ChInner)
  | moduleResetBegin
  | inputReversalEnd
  deriving DecidableEq, Repr

end Sys2Proof
end

