-- ==== Sys2Proof/Decode.lean ====
section
/-! DEFINITION. The command that a word of the table's bits spells. No row of the opcode table gives bits (each is a
step of the module, not an encoding), so no word spells a command. -/

set_option Elab.async false

namespace Sys2Proof

/-- No row of the table gives bits: every word spells none. [DESIGN CHOICE, log 6: safe] -/
def decodeTableWord (_nbits _w : Nat) : Option Instr := none

end Sys2Proof
end

