-- ==== Sys2Proof/Config.lean ====
section
/-! DEFINITION. What the spec leaves open: free values, as constants with no body. Nothing in Lean can evaluate one or
prove a value of it. The counter `fresh` of the state, or the operands named, pick the value used. -/

set_option Elab.async false

namespace Sys2Proof.Config

/-- Does a reset pulse of 1 to 10 us, of this length in ns, reset the module (R47 leaves it open)?
[DESIGN CHOICE, log 20: safe] -/
opaque pulseResets : Nat → Nat → Bool

/-- The inflow, in GB/s, that the power loop paces to next (R65 gives the direction and the floor, no amount).
[DESIGN CHOICE, log 21: unsafe] -/
opaque pacedInflow : Nat → Nat → Nat

/-- A word of the root of trust's DRBG or of a port's generation draw (R148, R381, R387, R395).
[DESIGN CHOICE, log 22: safe] -/
opaque drawn : Nat → Nat

/-- The value DBG_TDO takes when debug is open and served (R48 gives no function of the inputs).
[DESIGN CHOICE, log 23: safe] -/
opaque debugOut : Nat → Nat → Bool

/-- The line that an uncorrectable error of five or more symbols, taken for a correctable one, is decoded to (R318
bounds detection at four symbols). [DESIGN CHOICE, log 24: safe] -/
opaque miscorrected : Nat → Nat → Line

/-- The private half of IDK.S, as a number, from the identity seed (R382 names no derivation).
[DESIGN CHOICE, log 25: safe] -/
opaque signingKey : Nat → Nat

/-- The private half of IDK.E, as a number, from the sealing secret (R382 names no derivation).
[DESIGN CHOICE, log 25: safe] -/
opaque agreementKey : Nat → Nat

/-- Certificate 0 to 3 of the certificate store, for the public key it holds (R383 gives the profile and the order, no
contents). [DESIGN CHOICE, log 25: safe] -/
opaque certificate : Nat → List Byte → List Byte

/-- The signed temperature correction of a process reading to 85 degrees (R93 gives no formula).
[DESIGN CHOICE, log 27: safe] -/
opaque processCorrected : Nat → Nat → Nat → Nat

/-- The fused baseline, in MHz, of a process monitor (R93). [DESIGN CHOICE, log 27: safe] -/
opaque processBaseline : Nat → Nat

/-- A byte of a bundle that lies on another member of the pool set (R176, R402), at a pool address.
[DESIGN CHOICE, log 26: safe] -/
opaque remoteByte : Nat → Nat → Byte

/-- The rate correction, in parts per billion, that steers the counter against an offset (R84 bounds it).
[DESIGN CHOICE, log 28: safe] -/
opaque rateCorrection : Int → Int → Int

/-- The port die's choice of the ns at which a step of fabric time takes effect (R87).
[DESIGN CHOICE, log 29: safe] -/
opaque stepInstant : Nat → Nat → Nat

/-- The module-chosen TAG of the n-th snoop (R208: "from the module's own tag space"; R232 keeps 0x8000-0xBFFF out).
[DESIGN CHOICE, log 30: unsafe] -/
opaque snoopTag : Nat → Nat

/-- Which of the pins that tie for the most corrected symbols is named at a channel's n-th overflow (R328): channel, n.
[DESIGN CHOICE, log 31: safe] -/
opaque tiePin : Nat → Nat → Nat

/-- Where line `l` of item `i` of pantry partition `p` lies, as a line key before remap (R25 gives the partitions' sizes,
no layout). [DESIGN CHOICE, log 111: safe] -/
opaque pantryLine : Nat → Nat → Nat → Nat

/-- The cause that EV_PORT_DOWN gives when a port goes down for its lost replay spill (R326; R147 numbers no such cause).
[DESIGN CHOICE, log 111: safe] -/
opaque replayLostCause : Nat → Nat

/-- The stored byte that a correctable error in key storage lies in (R329 logs it; the event names only the row).
[DESIGN CHOICE, log 185: safe] -/
opaque keySymbol : Nat → Nat

end Sys2Proof.Config
end

