-- ==== Sys2Proof/Machine/State.lean ====
section
/-! DEFINITION. The state of the module: every register, table, queue, buffer, counter, mode and pin the spec gives it,
as plain data. Large tables are sparse (Tab): what an unlisted key reads as is the entry's `empty` value. -/

set_option Elab.async false

namespace Sys2Proof.Machine
open Sys2Proof

/-- Reasons to stop. Nothing in the spec stops the module as a machine: a failed request is a completion code, a failed
module is a state. No command faults, so there is no constructor; safe. -/
inductive Fault where
  deriving DecidableEq, Repr

/-- Reasons to refuse a command. -/
inductive Refusal where
  /-- Raised by an arm of `exec` whose command has no meaning yet; safe. -/
  | notModelled (mnemonic : String)
  deriving DecidableEq, Repr

/-! ## Messages the module sends -/

/-- A fabric message the module sends (R154): destination, tag, opcode, class (0 REQ, 1 SNP, 2 RSP, 3 DAT), OP_DATA,
body bytes, the journal index and the arrival port of the request it answers, its session when it goes encrypted, its
circuit, whether it is a notice (R195), a publish fan-out message (R171), or has been counted as held (R157), and whether its body is
sealed: the security block, the ciphertext and the tag (R399). -/
structure OutMsg where
  dst : Nat
  tag : Nat
  opcode : Nat
  cls : Nat
  opData : Nat
  body : List Byte
  jidx : Option Nat
  port : Option Nat
  sess : Nat
  ckt : Option Nat
  notice : Bool
  fanOut : Bool
  counted : Bool
  sealed : Bool
  deriving DecidableEq, Repr

/-- A completion frame the module sends on the RSL (R412). -/
structure RslCpl where
  cmd : Nat
  tag : Nat
  code : Nat
  value : Nat
  data : List Byte
  port : Nat
  deriving DecidableEq, Repr

/-- A completion of a class-3 command that a state change still holds back: who sent it. -/
abbrev Owed := Via

/-- A completion made and held back: the sender, the command and response opcodes, CODE, VALUE, body and what follows
the body on the service link. -/
structure HeldCpl where
  via : Via
  cmd : Nat
  rsp : Nat
  code : Nat
  value : Nat
  body : List Byte
  extra : List Byte
  deriving DecidableEq, Repr

/-- An event (R422). -/
structure Ev where
  seq : Nat
  code : Nat
  severity : Nat
  die : Nat
  suppressed : Nat
  epoch : Nat
  detail : List Byte
  deriving DecidableEq, Repr

/-! ## Module, power and thermal state (02_module_power_connectors) -/

/-- The input voltage range of R50. -/
inductive InputRange where
  | normal | low | high
  deriving DecidableEq, Repr

/-- Where a rail stands (R53, R54). -/
inductive RailState where
  | off | enabled | inWindow | fuseOpen
  deriving DecidableEq, Repr

/-- One output rail: its state and an open sense line (R56). -/
structure Rail where
  st : RailState
  senseOpen : Bool
  deriving DecidableEq, Repr

def Rail.empty : Rail := ⟨.off, false⟩

/-- One fabric connector FABk (R43). -/
structure Cable where
  present : Bool
  power : Bool
  fault : Bool
  identity : Nat
  /-- what the port die has read from the cable's identity memory -/
  readId : Option Nat
  deriving DecidableEq, Repr

def Cable.empty : Cable := ⟨false, false, false, 0, none⟩

/-- A part with temperature thresholds (R67): thresholds now in force, for the first and the second the epoch since which
it has stayed 5 degrees below, and whether no working sensor is left (R92). Parts: 0 to 4 the dies, 5 + n stack n. -/
structure Part where
  level : Nat
  cool1 : Option Nat
  cool2 : Option Nat
  noSensor : Bool
  deriving DecidableEq, Repr

def Part.empty : Part := ⟨0, none, none, false⟩

/-- One monitor (R90, R91). -/
structure Monitor where
  valid : Bool
  fault : Bool
  isOver : Bool
  value : BitVec 16
  warned : Bool
  deriving DecidableEq, Repr

def Monitor.empty : Monitor := ⟨false, false, false, 0, false⟩

structure Power where
  inputOn : Bool
  softStart : Bool
  cutOff : Bool
  reversed : Bool
  inFaultLow : Bool
  range : InputRange
  trip : Bool
  tripOff : Bool
  modRstLow : Bool
  svcRstLow : Bool
  inReset : Bool
  modPg : Bool
  dbgTdo : Bool
  railGroup : Nat
  rails : Tab Rail
  cables : Tab Cable
  parts : Tab Part
  monitors : Tab Monitor
  avgW : Nat
  inflow : Nat
  floorSince : Option Nat
  belowSince : Option Nat
  arithPwr : Nat
  deriving DecidableEq, Repr

/-! ## Clocks and fabric time (03_clocks_and_fabric_time) -/

/-- The fabric-time state (R85). -/
inductive TimeState where
  | start | locked | holdover | lost
  deriving DecidableEq, Repr

structure Clocks where
  running : Bool
  oscDelay : Bool
  xaFlag : Bool
  xbFlag : Bool
  bothHold : Bool
  txIdle : Bool
  /-- dies whose loops take the other crystal (R75): bit 0 the XA-fed loops, bit 1 the XB-fed loops -/
  xaRefOnXb : Bool
  xbRefOnXa : Bool
  loopFault : Tab Bool
  /-- fabric time in ns (R10) -/
  now : Nat
  tstate : TimeState
  source : Option Nat
  /-- the last port chosen as source (R83) -/
  lastSource : Option Nat
  hops : Nat
  offset : Int
  okRun : Nat
  badRun : Nat
  rate : Int
  holdSince : Nat
  /-- after a step: the epoch number of the next boundary (R87) -/
  stepTo : Option Nat
  deriving DecidableEq, Repr

/-! ## Start-up, images, configuration and life cycle (04_startup_configuration_lifecycle) -/

structure Boot where
  oscDly : BitVec 3
  setIndex : BitVec 3
  por : Bool
  stage : Nat
  runB : Bool
  firstB : Bool
  chosen : Bool
  fallback : Bool
  aOk : Bool
  bOk : Bool
  aFailed : Bool
  bFailed : Bool
  lc : Nat
  cause : Nat
  /-- the bytes written to FLASH_A and FLASH_B since each was erased, from byte 0 on; the rest reads as erased -/
  flashA : List Byte
  flashB : List Byte
  /-- the write-protect inputs of FLASH_A and FLASH_B are asserted (R62) -/
  wpA : Bool
  wpB : Bool
  fwA : Bool
  fwB : Bool
  readyA : Bool
  readyB : Bool
  heldB : Bool
  readyEpochB : Nat
  tokenEpoch : Option Nat
  loaded : Bool
  calDone : Tab Bool
  wipeRange : Nat
  wipeStart : Option Nat
  poolReady : Option Nat
  recovery : Bool
  portTrained : Tab Bool
  /-- epoch at which a commanded module reset begins (R419), and its cause -/
  resetAt : Option Nat
  resetCause : Nat
  lcTarget : Option Nat
  lcOwed : List Owed
  dbgOpenRun : Bool
  dieResetOf : Option Nat
  dieResetOwed : List Owed
  stackResetOwed : Tab (List Owed)
  portResetOwed : Tab (List Owed)
  deriving DecidableEq, Repr

structure Cfg where
  /-- values given by the CONFIG section or a write; absent: the field's value at reset -/
  vals : Tab (Option Nat)
  shadow : Tab (Option Nat)
  /-- CFG_WRITEs accepted, completion not yet sent: who, and the apply epoch (R111) -/
  held : List (Owed × Nat)
  deriving DecidableEq, Repr

/-! ## The pool token and the die-to-die links (01_package_and_dies) -/

/-- The token record of one obeying die (R28), its own epoch counter (R29) and the epoch of the last renewal. -/
structure ObDie where
  holder : Option Nat
  expiry : Nat
  epoch : Nat
  renewedAt : Option Nat
  deriving DecidableEq, Repr

def ObDie.empty : ObDie := ⟨none, 0, 0, none⟩

/-- What a control die sends an obeying die about the token (R28). -/
inductive TokKind where
  | claim | renew | release
  deriving DecidableEq, Repr

/-- A token message on its way: kind, the control die it comes from, the obeying die it goes to. -/
structure TokMsg where
  kind : TokKind
  die : Nat
  od : Nat
  deriving DecidableEq, Repr

/-- A reply on its way: the control die it goes to, the obeying die it comes from, what it says. -/
structure TokAns where
  die : Nat
  od : Nat
  reply : TokReply
  deriving DecidableEq, Repr

structure Token where
  dies : Tab ObDie
  /-- the epoch counters of CD-A and CD-B (R34) -/
  cdEpochA : Nat
  cdEpochB : Nat
  /-- token messages and replies on their way, oldest first -/
  sent : List TokMsg
  replies : List TokAns
  /-- obeying dies whose token-expiry indication the port die has yet to forward (R28, R367) -/
  expired : List Nat
  active : Option Nat
  /-- obeying dies that answered the latest renewal; successive boundaries without all of them (R30) -/
  granted : List Nat
  missed : Nat
  silent : Bool
  /-- a claimant, the obeying dies that have granted it, the epoch it began (R31, R370) and the cause (R367) -/
  claimant : Option Nat
  claimGrants : List Nat
  claimSince : Nat
  claimCause : Nat
  hubLost : Tab Bool
  pdLost : Bool
  /-- successive failed retries of the transfer now on a die-to-die link (R21) -/
  retries : Tab Nat
  linkDown : Tab Bool
  fatal : Option Nat
  deriving DecidableEq, Repr

/-! ## Ports (05_corxel_link_layer, 06_fabric_traffic_control) -/

/-- The port state (R150, R152). -/
inductive PortState where
  | down | training | up | swap | fault
  deriving DecidableEq, Repr

/-- A control flit due for transmission (R130). -/
inductive Ctl where
  | nak (seq : Nat)
  | creditSync (totals : List Nat)
  | timeProbe (id : Nat)
  | timeEcho (id t2 t3 : Nat)
  | linkParam (q : LinkParam)
  | laneSwap (op lane : Nat)
  | idle
  deriving DecidableEq, Repr

/-- A data flit queued or in the replay store: class, messages, the route version and kind (0 best effort, 1 + circuit)
it was bound with. -/
structure TxFlit where
  cls : Nat
  kind : Nat
  version : Nat
  msgs : List OutMsg
  deriving DecidableEq, Repr

/-- A flit in the replay store (R141). -/
structure Stored where
  seq : Nat
  flit : TxFlit
  pantry : Bool
  /-- when it was last transmitted, in local ns (R137) -/
  sentAt : Nat
  deriving DecidableEq, Repr

/-- What a port last transmitted (R132). -/
inductive TxRec where
  | ctl (c : Ctl) (ackValid : Bool) (ack crdClass crdCount : Nat)
  | data (f : Stored) (replay : Bool) (ackValid : Bool) (ack crdClass crdCount : Nat)
  deriving DecidableEq, Repr

/-- A replay under way: where it began, the next sequence number and the end (R138, R140). -/
structure Replay where
  start : Nat
  pos : Nat
  stop : Nat
  deriving DecidableEq, Repr

/-- A gate window (R164). -/
structure Window where
  ckt : Nat
  startNs : Nat
  lenNs : Nat
  deriving DecidableEq, Repr

/-- One received flit's slot in the ingress buffer: class, messages not yet passed on, and all the requests it brought
(R144, R145). -/
structure Slot where
  cls : Nat
  jidxs : List Nat
  reqs : List Nat
  deriving DecidableEq, Repr

structure Port where
  st : PortState
  x2 : Bool
  timeoutMode : Bool
  spareFor : Option Nat
  badLanes : BitVec 5
  newBad : Bool
  fresh : Bool
  attempt : Bool
  testing : Bool
  swapLane : Option Nat
  goSent : Bool
  goRcvd : Bool
  probing : Bool
  probeId : Nat
  /-- the far end's LINK_PARAM of this training has been taken (R150) -/
  paramSeen : Bool
  /-- the module's own LINK_PARAM of this training has been sent (R150) -/
  paramSent : Bool
  next : Nat
  oldest : Nat
  es : Nat
  accepted : Bool
  nakPending : Bool
  store : List Stored
  replay : Option Replay
  oldestReplays : Nat
  due : List Ctl
  fifos : Tab (List TxFlit)
  sending : List TxFlit
  slots : List Slot
  init : Tab Nat
  sent : Tab Nat
  returned : Tab Nat
  released : Tab Nat
  waiting : Tab Nat
  turn : Nat
  gen : Nat
  peerGen : Nat
  delay : Option Nat
  measured : Bool
  rttWarned : Bool
  probeAt : Nat
  timeEpoch : Option Nat
  timeHops : Nat
  timeOffset : Int
  timeRejected : Bool
  throttled : Bool
  throttledEpoch : Bool
  stalledEpoch : Bool
  windows : List Window
  overrunTo : Nat
  starve : Tab Nat
  /-- flits of the burst at the head of each FIFO once it has waited, and whether the wait was counted (R165, R172) -/
  formed : Tab (Nat × Bool)
  resetIdle : Bool
  lost : Bool
  lastTx : Option TxRec
  /-- the bytes of the flit last transmitted (R127) -/
  lastFlit : List Byte
  /-- message bits of the transmit stream not yet in a codeword, how many, and the symbols of the last codeword (R126) -/
  bits : Nat
  bitCount : Nat
  code : List Nat
  deriving DecidableEq, Repr

def Port.empty : Port where
  st := .down
  x2 := false
  timeoutMode := false
  spareFor := none
  badLanes := 0
  newBad := false
  fresh := false
  attempt := false
  testing := false
  swapLane := none
  goSent := false
  goRcvd := false
  probing := false
  probeId := 0
  paramSeen := false
  paramSent := false
  next := 0
  oldest := 0
  es := 0
  accepted := false
  nakPending := false
  store := []
  replay := none
  oldestReplays := 0
  due := []
  fifos := []
  sending := []
  slots := []
  init := []
  sent := []
  returned := []
  released := []
  waiting := []
  turn := 0
  gen := 0
  peerGen := 0
  delay := none
  measured := false
  rttWarned := false
  probeAt := 0
  timeEpoch := none
  timeHops := 0
  timeOffset := 0
  timeRejected := false
  throttled := false
  throttledEpoch := false
  stalledEpoch := false
  windows := []
  overrunTo := 0
  starve := []
  formed := []
  resetIdle := false
  lost := false
  lastTx := none
  lastFlit := []
  bits := 0
  bitCount := 0
  code := []

/-- The route version states (R158). -/
inductive RouteState where
  | free | loading | pending | current | draining
  deriving DecidableEq, Repr

/-- One policer (R161, R162). Bucket levels are kept in 1/1,024 byte. -/
structure Policer where
  enable : Bool
  cir : Nat
  pir : Nat
  cbs : Nat
  pbs : Nat
  tc : Nat
  tp : Nat
  last : Nat
  deriving DecidableEq, Repr

def Policer.empty : Policer := ⟨false, 0, 0, 0, 0, 0, 0, 0⟩

/-- The circuit states (R169). -/
inductive CktState where
  | free | armed | active | tearing
  deriving DecidableEq, Repr

structure Circuit where
  st : CktState
  host : Nat
  port : Nat
  dir : Nat
  startEpoch : Nat
  endEpoch : Nat
  windows : List (Nat × Nat)
  deriving DecidableEq, Repr

def Circuit.empty : Circuit := ⟨.free, 0, 0, 0, 0, 0, []⟩

structure Fabric where
  routes0 : Tab (BitVec 32)
  routes1 : Tab (BitVec 32)
  rst0 : RouteState
  rst1 : RouteState
  inflight0 : Nat
  inflight1 : Nat
  commitOwed : List Owed
  /-- credit-bearing slots released in this epoch, while the power loop paces inflow (R65, R145) -/
  paced : Nat
  heard : Tab (Option Nat)
  policers : Tab Policer
  circuits : Tab Circuit
  leaseGone : Tab Bool
  /-- circuit windows send nothing until the next epoch (R169) -/
  gatesOff : Bool
  /-- messages made and not yet bound to a port (R157), oldest first -/
  unbound : List OutMsg
  deriving DecidableEq, Repr

/-! ## The pool (07_pool_space_extents_leases) -/

/-- The extent states (R174, R189). -/
inductive ExtState where
  | free | active | withdrawing
  deriving DecidableEq, Repr

/-- An extent map entry (R174). GRANT_COUNT and HOLD_COUNT are counted from the grant table and the holders. -/
structure Ext where
  st : ExtState
  shared : Bool
  sealed : Bool
  domain : Option Nat
  tenant : Nat
  owner : Nat
  hasOwner : Bool
  region : Option Nat
  key : Nat
  damaged : Bool
  mask : BitVec 8
  base : Nat
  localGran : Nat
  lenGran : Nat
  deriving DecidableEq, Repr

def Ext.empty : Ext := ⟨.free, false, false, none, 0, 0, false, none, 0, false, 0, 0, 0, 0⟩

/-- The lease states (R183, R184). -/
inductive LState where
  | none | live | grace | reclaim
  deriving DecidableEq, Repr

structure Lease where
  assigned : Bool
  st : LState
  tenant : Nat
  endEpoch : Nat
  deriving DecidableEq, Repr

def Lease.empty : Lease := ⟨false, .none, 0, 0⟩

/-- A pool-set member as the master keeps it (R203). -/
inductive MemberState where
  | absent | joined | lost
  deriving DecidableEq, Repr

structure Member where
  st : MemberState
  ackEpoch : Nat
  lastAckAt : Nat
  deriving DecidableEq, Repr

def Member.empty : Member := ⟨.absent, 0, 0⟩

/-- An order sent to a member and not yet answered. -/
structure Sent where
  member : Nat
  tag : Nat
  order : SetOrder
  deriving DecidableEq, Repr

/-- A command that waits for the members' SET_DONEs (R200): what it ordered first, the orders not yet answered, the
members that refused a PLACE, and the completion it holds. -/
structure SetOrderRec where
  order : SetOrder
  waiting : List Sent
  refused : List Nat
  held : Option HeldCpl
  deriving DecidableEq, Repr

structure Pool where
  exts : Tab Ext
  /-- rights by extent * 4096 + host: bit 0 R, bit 1 W, bit 2 A; 0 no grant (R179) -/
  grants : Tab Nat
  leases : Tab Lease
  quotas : Tab Nat
  /-- those that wait for an extent to be FREE, each with its command (R193) -/
  withdrawers : Tab (List (Owed × Nat))
  /-- at a member: the master's WITHDRAW orders not yet answered, by extent: TAG and journal index -/
  masterTags : Tab (List (Nat × Nat))
  forced : Tab Bool
  /-- pages freed and not yet overwritten by the ladle (R192) -/
  freed : Ranges
  setGen : Nat
  master : Nat
  members : Tab Member
  formEnded : Bool
  degraded : Bool
  refusedByPeer : Bool
  /-- this module has been judged lost and still runs (R203) -/
  lostHere : Bool
  masterPending : Option (Nat × BitVec 8 × Nat)
  lastDelta : Nat
  lastDeltaAt : Nat
  changed : List Nat
  orders : List SetOrderRec
  orderTag : Nat
  /-- at a member: the tables of R202 have been received -/
  ready : Bool
  /-- hosts in RECLAIM whose reclaim waits for the members' acknowledgement of that epoch (R201) -/
  reclaimWait : List (Nat × Nat)
  deriving DecidableEq, Repr

/-! ## Coherence (08_coherence) -/

/-- The domain states (R225). -/
inductive DomState where
  | free | up | down
  deriving DecidableEq, Repr

structure Domain where
  st : DomState
  tenant : Nat
  cause : Nat
  dgen : Nat
  slots : Tab (Option Nat)
  deriving DecidableEq, Repr

def Domain.empty : Domain := ⟨.free, 0, 0, 0, []⟩

/-- The request kinds that open a home transaction (R213). -/
inductive HomeReq where
  | rdNc | rdShared | rdOwn | wrNc | wbDirty | evict | atomic
  deriving DecidableEq, Repr

/-- The tracker states (R215). -/
inductive TrkState where
  | read | snoop | write | waitAck
  deriving DecidableEq, Repr

/-- A snoop owed an answer (R215, R227). -/
structure Snoop where
  member : Nat
  host : Nat
  tag : Nat
  share : Bool
  answered : Bool
  wbPending : Bool
  boundAt : Option Nat
  deriving DecidableEq, Repr

/-- A home transaction (R214, R215). `line` is POOL_ADDR / 64, `pa` the byte address of the line before remapping. -/
structure Tracker where
  id : Nat
  line : Nat
  ext : Nat
  domain : Nat
  kind : HomeReq
  hdr : ReqHdr
  st : TrkState
  mask : BitVec 64
  data : Line
  operand : BitVec 256
  off : Nat
  snoops : List Snoop
  cur : Option Line
  /-- a snooped member has given the line's current value -/
  fromMember : Bool
  dir : BitVec 10
  reserve : Nat
  /-- journal indices of the answers that belong to it (R229) -/
  answers : List Nat
  ackBoundAt : Option Nat
  deriving DecidableEq, Repr

/-- A starvation entry (R221). -/
structure Starve where
  line : Nat
  host : Nat
  lastRetry : Nat
  deriving DecidableEq, Repr

structure Coh where
  trackers : List Tracker
  nextTracker : Nat
  nextSnoop : Nat
  starve : List Starve
  domains : Tab Domain
  deriving DecidableEq, Repr

/-! ## Coach engines (09_coaches_rings_translation) -/

/-- The ring states (R240). -/
inductive RingState where
  | free | armed | paused | stopping
  deriving DecidableEq, Repr

structure Ring where
  st : RingState
  onFault : Bool
  s1 : Bool
  stopCause : Nat
  log2 : Nat
  maxEngines : Nat
  tenant : Nat
  owner : Nat
  pauseFault : Nat
  base : Nat
  s1Root : Nat
  cplCount : Nat
  fetchIdx : Nat
  line1Dirty : Bool
  launch : Option (Nat × Owed)
  held : Bool
  stopOwed : List Owed
  deriving DecidableEq, Repr

def Ring.empty : Ring := ⟨.free, false, false, 0, 0, 0, 0, 0, 0, 0, 0, 0, 0, false, none, false, []⟩

/-- The descriptor states (R250). -/
inductive DescState where
  | walking | paused | queued | running | done
  deriving DecidableEq, Repr

/-- A page-list entry (R249). -/
structure PageEnt where
  ppn : Nat
  paLine : Nat
  tvaLine : Nat
  lines : Nat
  dst : Bool
  deriving DecidableEq, Repr

/-- An open fabric write of an engine (R253). -/
structure OpenWr where
  tag : Nat
  pos : Nat
  lines : Nat
  deriving DecidableEq, Repr

/-- What a descriptor's engine holds of a line of its sides: one it has read and not yet used, or the home agent's answer
for a line of a bound extent (R223). `place` numbers the lines of a side. -/
structure LineAns where
  place : Nat
  write : Bool
  code : Nat
  data : Line
  deriving DecidableEq, Repr

/-- A fetched descriptor (R243, R249, R250). -/
structure Desc where
  ring : Nat
  idx : Nat
  op : Nat
  flags : BitVec 8
  cktId : Nat
  dstFid : Nat
  len : Nat
  src : Nat
  dst : Nat
  args : Nat
  cookie : Nat
  malformed : Bool
  st : DescState
  pages : List PageEnt
  hosts : List (Nat × Nat)
  fault : Option Nat
  faultAddr : Nat
  engine : Option Nat
  pos : Nat
  resume : Nat
  openWr : List OpenWr
  endCode : Nat
  lines : List LineAns
  /-- the wait of its next write for an open-page entry has been counted (R323) -/
  waited : Bool
  deriving DecidableEq, Repr

structure Engine where
  lastRing : Nat
  job : Option (Nat × Nat)
  deriving DecidableEq, Repr

def Engine.empty : Engine := ⟨0, none⟩

/-- A fault record (R256). -/
structure FaultRec where
  valid : Bool
  stage : Nat
  kind : Nat
  need : Nat
  tenant : Nat
  gen : Nat
  waiters : Nat
  s1Root : Nat
  page : Nat
  firstEpoch : Nat
  idleSince : Option Nat
  noticed : List Nat
  deriving DecidableEq, Repr

def FaultRec.empty : FaultRec := ⟨false, 0, 0, 0, 0, 0, 0, 0, 0, 0, none, []⟩

/-- An open INVALIDATE (R259, R260): its waits, what it holds, its count, and its ring slot or RSL sender. -/
structure Inval where
  waits : List (Nat × Nat)
  exts : List Nat
  count : Nat
  ring : Option (Nat × Nat)
  owed : Option Owed
  deriving DecidableEq, Repr

structure Coach where
  rings : Tab Ring
  scanPos : Nat
  descs : List Desc
  engines : Tab Engine
  frecs : Tab FaultRec
  invals : List Inval
  stallEpoch : Bool
  deriving DecidableEq, Repr

/-! ## Stockpot (10_stockpot_arithmetic, 11_reproducibility_and_publication) -/

/-- The buffer states (R278, R279). -/
inductive BufState where
  | free | opened | done | lost
  deriving DecidableEq, Repr

structure Buf where
  st : BufState
  mode : Nat
  memory : Bool
  rmode : Nat
  op : Nat
  demoted : Bool
  elemFmt : Nat
  resFmt : Nat
  accFmt : Nat
  n : Nat
  tenant : Nat
  owner : Nat
  alpha : Nat
  seed : Nat
  gen : Nat
  winBase : Nat
  resBase : Nat
  accBase : Nat
  blocks : Nat
  doneBlocks : Nat
  storeBlocks : Nat
  failedBlocks : Nat
  firstFail : Nat
  digest : Nat
  resGone : Bool
  closing : List Owed
  stageSlots : Nat
  pantryBytes : Nat
  storeBytes : Nat
  deriving DecidableEq, Repr

def Buf.empty : Buf where
  st := .free
  mode := 0
  memory := false
  rmode := 0
  op := 0
  demoted := false
  elemFmt := 0
  resFmt := 0
  accFmt := 0
  n := 0
  tenant := 0
  owner := 0
  alpha := 0
  seed := 0
  gen := 0
  winBase := 0
  resBase := 0
  accBase := 0
  blocks := 0
  doneBlocks := 0
  storeBlocks := 0
  failedBlocks := 0
  firstFail := 0
  digest := 0
  resGone := false
  closing := []
  stageSlots := 0
  pantryBytes := 0
  storeBytes := 0

/-- The block states (R279). -/
inductive BlkState where
  | empty | filling | complete | failed | lost
  deriving DecidableEq, Repr

/-- A block: state, NEXT (R293), and for one in the store its accumulators and the count of its tag (R267, R282). -/
structure Blk where
  st : BlkState
  count : Nat
  next : Nat
  acc : List Nat
  deriving DecidableEq, Repr

def Blk.empty : Blk := ⟨.empty, 0, 0, []⟩

/-- A staging slot (R295). -/
structure Staged where
  buf : Nat
  blk : Nat
  contrib : Nat
  line : Line
  scales : List Byte
  deriving DecidableEq, Repr

/-- An accepted RED_WR whose lines are still to be combined (R281); `waited`: the next one's wait for an open-page entry
is counted (R323). -/
structure RedJob where
  hdr : ReqHdr
  buf : Nat
  contrib : Nat
  lines : List (Nat × Line × List Byte)
  bad : Bool
  waited : Bool
  deriving DecidableEq, Repr

/-- An accumulator line in the pantry's stockpot spill partition, with its directory bits (R25, R282). -/
structure SpillLine where
  data : Line
  dir : BitVec 10
  deriving DecidableEq, Repr

def SpillLine.empty : SpillLine := ⟨0, 0⟩

structure Stock where
  bufs : Tab Buf
  blks : Tab Blk
  /-- by buffer, block and line of the block -/
  spill : Tab SpillLine
  staged : List Staged
  jobs : List RedJob
  /-- lane groups withdrawn on CD-A and on CD-B (R265, R343) -/
  groupBadA : Tab Bool
  groupBadB : Tab Bool
  deriving DecidableEq, Repr

/-- A barrier (R301): FREE when it has no arrivals. -/
structure Barrier where
  count : Nat
  lead : Nat
  tenant : Nat
  first : Nat
  arrivals : List (Nat × Owed)
  deriving DecidableEq, Repr

def Barrier.empty : Barrier := ⟨0, 0, 0, 0, []⟩

/-- The region states (R308). -/
inductive RegState where
  | free | live | deleting
  deriving DecidableEq, Repr

/-- A live version: VERSION, EXT_ID and the hosts that map it (R308). -/
structure Version where
  version : Nat
  ext : Nat
  readers : List Nat
  deriving DecidableEq, Repr

structure Region where
  st : RegState
  sealed : Bool
  tenant : Nat
  version : Nat
  curExt : Nat
  lastEpoch : Nat
  versions : List Version
  deleteOwed : List Owed
  deriving DecidableEq, Repr

def Region.empty : Region := ⟨.free, false, 0, 0, 0, 0, [], []⟩

/-- A PUBLISH held for judgement (R310, R311). -/
structure PubHeld where
  owed : Owed
  host : Nat
  region : Nat
  expected : Nat
  srcExt : Nat
  epoch : Nat
  deriving DecidableEq, Repr

/-- Paired check (R305, R306). -/
inductive Paired where
  | off
  | entryAt (epoch : Nat) (owed : List Owed)
  | on
  | exitAt (epoch : Nat) (owed : List Owed)
  deriving DecidableEq, Repr

structure Repro where
  barriers : Tab Barrier
  paired : Paired
  regions : Tab Region
  pubs : List PubHeld
  deriving DecidableEq, Repr

/-! ## Memory and its integrity (12_memory_integrity_and_wear) -/

/-- The metadata of a stored line (R317); CHECK follows from the stored bytes. -/
structure LineMeta where
  valid : Bool
  poison : Bool
  dir : BitVec 10
  deriving DecidableEq, Repr

def LineMeta.empty : LineMeta := ⟨false, false, 0⟩

/-- A memory channel (R328, R340): bucket, corrected symbols by pin since the last overflow, spare pins in use, the pins
due for repair, and whether the ladle owes it a pass. -/
structure Channel where
  bucket : Nat
  pins : Tab Nat
  spared : Nat
  repair : List Nat
  needPass : Bool
  deriving DecidableEq, Repr

def Channel.empty : Channel := ⟨0, [], 0, [], false⟩

/-- The stack states (R345). -/
inductive StackState where
  | inUse | migrating | out | failed
  deriving DecidableEq, Repr

structure Stack where
  st : StackState
  degraded : Bool
  ovf : Nat
  spareUsed : Nat
  queuedMigration : Bool
  lowWarned : Bool
  /-- the hub doubles the stack's refresh rate; it halves its command rate (R67, R92) -/
  refresh2 : Bool
  halfRate : Bool
  deriving DecidableEq, Repr

def Stack.empty : Stack := ⟨.inUse, false, 0, 0, false, false, false, false⟩

/-- A page on the move (R341, R362). -/
structure Move where
  target : Nat
  copied : Bool
  retire : Bool
  deriving DecidableEq, Repr

/-- A logged correctable error (R329). -/
structure CeEntry where
  epoch : Nat
  place : Nat
  line : Nat
  symbol : Nat
  region : Nat
  source : Nat
  deriving DecidableEq, Repr

/-- A write in a hub's write queue (R38): what it writes and whom it completes. -/
inductive HubWrite where
  /-- a store of the masked bytes at a line (PA line before remap) for request `h` of extent `ext` -/
  | store (h : ReqHdr) (ext pline : Nat) (mask : BitVec 64) (data : Line) (err : Err)
  /-- the write of tracker `id` -/
  | home (id : Nat) (pline : Nat) (data : Line) (dir : BitVec 10)
  /-- an atomic of an unbound line -/
  | atomic (h : ReqHdr) (ext pline off : Nat) (operand : BitVec 256) (err : Err)
  deriving DecidableEq, Repr

/-- A commit-record entry (R363). -/
structure Commit where
  jidx : Nat
  src : Nat
  tag : Nat
  code : Nat
  blockDone : Bool
  coach : Bool
  value : Nat
  deriving DecidableEq, Repr

structure Mem where
  /-- the stored data bytes by physical byte address, after correction and decryption -/
  cells : List Host.Cell
  lines : Tab LineMeta
  /-- pages whose page-valid bit is 0 (R323) -/
  closed : Ranges
  /-- open-page entries: page -> lines written (R323) -/
  openPages : Tab (List Nat)
  remap : Tab (Option Nat)
  moving : Tab (Option Move)
  retired : Tab Bool
  /-- read and write counts by physical page (R335) -/
  counts : Tab (Nat × Nat)
  channels : Tab Channel
  stackTab : Tab Stack
  ceLog : List CeEntry
  /-- lines with a correctable error at the last pass: hub, ppn * 1024 + line, symbol (R342) -/
  repeats : List (Nat × Nat × Nat)
  sramRows : Tab (List Nat)
  rowSpares : Tab Nat
  sparesWaiting : List (Nat × Nat × Nat)
  retireWaiting : List Nat
  hubQueue0 : List HubWrite
  hubQueue1 : List HubWrite
  commit0 : List Commit
  commit1 : List Commit
  prev0 : List Commit
  prev1 : List Commit
  keyGen : Tab Nat
  /-- the key table: two 256-bit keys by index, where one is loaded; and PKEY (R386, R387) -/
  keys : Tab (Option Nat)
  pkey : Option Nat
  level : Nat
  degradeWord : BitVec 64
  /-- whose turn it is among the stacks to give a target page, and pages of given-up granules not yet used (R346) -/
  migTurn : Nat
  givenPages : List Nat
  deriving DecidableEq, Repr

/-! ## Twin control dies (13_twin_control_failover) -/

/-- The tender states (R354, R355). -/
inductive TenderState where
  | absent | resetting | resync | synced | paired | held
  deriving DecidableEq, Repr

/-- A state-copy journal entry (R358): kind, item index, body length, request and epoch; a CPL entry keeps the completion. -/
structure JEntry where
  kind : Nat
  index : Nat
  len : Nat
  jidx : Option Nat
  epoch : Nat
  deriving DecidableEq, Repr

/-- An entry of the port die's request journal (R366). `held`: the port die has yet to forward it to an active die (R33);
`renew`: it is a LEASE_RENEW (R187). -/
structure JReq where
  jidx : Nat
  port : Nat
  epoch : Nat
  src : Nat
  tag : Nat
  answer : Bool
  replay : Bool
  held : Bool
  renew : Bool
  deriving DecidableEq, Repr

/-- The copied tables (R359) as one cut holds them. -/
structure Tables where
  exts : Tab Ext
  grants : Tab Nat
  leases : Tab Lease
  quotas : Tab Nat
  remap : Tab (Option Nat)
  moving : Tab (Option Move)
  closed : Ranges
  rings : Tab Ring
  domains : Tab Domain
  bufs : Tab Buf
  regions : Tab Region
  policers : Tab Policer
  circuits : Tab Circuit
  barriers : Tab Barrier
  vals : Tab (Option Nat)
  shadow : Tab (Option Nat)
  ceLog : List CeEntry
  invals : List Inval
  ctrs : Tab Nat
  setGen : Nat
  members : Tab Member
  lastDelta : Nat
  deriving DecidableEq, Repr

structure Twin where
  tender : TenderState
  lastCause : Nat
  autoResets : Nat
  switchovers : Nat
  ackEpoch : Nat
  /-- the boundary at which resynchronisation is to begin, and that at which it began (R378) -/
  resyncAt : Option Nat
  resyncFrom : Option Nat
  /-- cuts sent and not yet acknowledged: the epoch, and the tables as the cut holds them -/
  cuts : List (Nat × Tables)
  /-- the tender's copy of the tables: those of the last cut that it has applied and acknowledged (R19, R361) -/
  copy : Option Tables
  /-- the active die's FAIL_NOTICE is on the tender link (R368) -/
  failSent : Bool
  journal : List JEntry
  cpls : List (Nat × OutMsg)
  mirror0 : List (List Commit)
  mirror1 : List (List Commit)
  mirrorGood : Nat
  readThis : Tab Bool
  reqs : List JReq
  nextJidx : Nat
  fullEpoch : Bool
  detectedAt : Option Nat
  handoverAt : Option Nat
  handoverOwed : List Owed
  handoverReset : Bool
  released : List Nat
  paused : Bool
  keyStoreSent : Bool
  deriving DecidableEq, Repr

/-! ## Security (14_security_and_isolation) -/

/-- The pending image states (R393). -/
inductive PendState where
  | none | writing | staged | failed
  deriving DecidableEq, Repr

/-- The session states (R395). -/
inductive SessState where
  | pending | established
  deriving DecidableEq, Repr

/-- A link session (R395 to R401) or CH session (R406). -/
structure Session where
  id : Nat
  host : Nat
  st : SessState
  ch : Bool
  opened : Nat
  measure : Nat
  root : Nat
  proven : Bool
  mask : List Nat
  /-- SEQ values in the receive window: accepted or pending, and the highest seen (R400) -/
  seen : List Nat
  high : Nat
  sendSeq : Nat
  fails : Nat
  /-- TH (R395), and the keys for host to pool and for pool to host (R398) -/
  th : List Byte
  keyHp : List Byte
  keyPh : List Byte
  /-- journal indices of the messages whose tag has checked (R400) -/
  passed : List Nat
  deriving DecidableEq, Repr

/-- The sealed-slot states (R403). -/
inductive SlotState where
  | free | importing | sealed
  deriving DecidableEq, Repr

/-- A sealed slot: its extent and tenant, the bundle's header (R402), the bundle key while it is needed, who waits, and
where the bundle lies. -/
structure SealSlot where
  st : SlotState
  ext : Nat
  tenant : Nat
  header : List Byte
  key : List Byte
  owed : List Owed
  stageExt : Nat
  stageOffset : Nat
  deriving DecidableEq, Repr

def SealSlot.empty : SealSlot := ⟨.free, 0, 0, [], [], [], 0, 0⟩

/-- What a root passes to the tender's root (R384): its ESTABLISHED sessions and its sealed slots. -/
structure KeyStore where
  sessions : List Session
  slots : Tab SealSlot
  deriving DecidableEq, Repr

def KeyStore.empty : KeyStore := ⟨[], []⟩

/-- An ATTEST awaiting its boundary or its signature (R389, R392); `report` is empty until its boundary has come. -/
structure AttReq where
  owed : Owed
  nonce : Nat
  dst : Nat
  scope : Nat
  tenant : Nat
  epoch : Nat
  report : List Byte
  deriving DecidableEq, Repr

structure Sec where
  /-- the fused Uruiler key digest (R381), and the image signing key that it is the digest of, as little-endian numbers -/
  signerDigest : Nat
  signerKey : Nat
  /-- the fused secrets: pairing key, identity seed, sealing secret (R381) -/
  pairKey : Nat
  idSeed : Nat
  sealSecret : Nat
  identity : Bool
  sealDead : Bool
  minSec : Nat
  dbgLock : Bool
  dbgReopen : Bool
  pend : PendState
  pendNext : Nat
  /-- the device that the staged image is on -/
  pendFlash : Nat
  sessions : List Session
  /-- session IDs drawn since the start: none is used again (R395) -/
  usedIds : List Nat
  slots : Tab SealSlot
  attests : List AttReq
  /-- key-store changes not yet acknowledged by the tender root, oldest first: the store after each, and the completions
  that it holds back (R384) -/
  changes : List (KeyStore × List HeldCpl)
  /-- the key store that the tender's root holds (R384) -/
  tenderStore : KeyStore
  deriving DecidableEq, Repr

/-! ## The service link (15_service_link_and_events) -/

/-- An open RSL command (R414, R415), the journal index and epoch of its receipt (R366), whether the port die has yet to
forward it to an active die (R371, R374), and the host whose lease it renews, if it is a LEASE_RENEW (R187). -/
structure RslOpen where
  cmd : Nat
  tag : Nat
  port : Nat
  jidx : Nat
  epoch : Nat
  replay : Bool
  renews : Option Nat
  deriving DecidableEq, Repr

structure Rsl where
  opens : List RslOpen
  kept : List RslCpl
  /-- completion frames made and still to be sent, oldest first -/
  out : List RslCpl
  deriving DecidableEq, Repr

structure Events where
  nextSeq : Nat
  started : Bool
  held : List Ev
  queue : List Ev
  /-- event frames still to be sent, each with the port it must take, if any -/
  out : List (Ev × Option Nat)
  /-- tokens spent and not refilled, by code -/
  spent : Tab Nat
  suppressed : Tab Nat
  deriving DecidableEq, Repr

/-- The whole module. -/
structure State where
  pending : List Instr
  power : Power
  clk : Clocks
  boot : Boot
  cfg : Cfg
  tok : Token
  ports : Tab Port
  fab : Fabric
  pool : Pool
  coh : Coh
  coach : Coach
  stock : Stock
  repro : Repro
  mem : Mem
  twin : Twin
  sec : Sec
  rsl : Rsl
  evs : Events
  /-- every 64-bit counter of R421, by (group, object, counter) as `ctrKey` numbers them -/
  ctrs : Tab Nat
  /-- the model's own: how many free values have been drawn -/
  fresh : Nat
  deriving DecidableEq, Repr

/-! ## The state right after reset -/

/-- [DESIGN CHOICE, log 18: unsafe] -/
def Power.reset : Power where
  inputOn := false
  softStart := false
  cutOff := false
  reversed := false
  inFaultLow := false
  range := .normal
  trip := false
  tripOff := false
  modRstLow := false
  svcRstLow := false
  inReset := false
  modPg := false
  dbgTdo := false
  railGroup := 0
  rails := []
  cables := []
  parts := []
  monitors := []
  avgW := 0
  inflow := 6400
  floorSince := none
  belowSince := none
  arithPwr := 0

def Clocks.reset : Clocks where
  running := false
  oscDelay := false
  xaFlag := false
  xbFlag := false
  bothHold := false
  txIdle := false
  xaRefOnXb := false
  xbRefOnXa := false
  loopFault := []
  now := 0
  tstate := .start
  source := none
  lastSource := none
  hops := 0
  offset := 0
  okRun := 0
  badRun := 0
  rate := 0
  holdSince := 0
  stepTo := none

/-- [DESIGN CHOICE, log 15: unsafe] [DEDUCED, log 16: unsafe] [DESIGN CHOICE, log 17: unsafe] -/
def Boot.reset : Boot where
  oscDly := 4
  setIndex := 0
  por := false
  stage := 0
  runB := false
  firstB := false
  chosen := false
  fallback := false
  aOk := false
  bOk := false
  aFailed := false
  bFailed := false
  lc := 1
  cause := 1
  flashA := []
  flashB := []
  wpA := true
  wpB := true
  fwA := false
  fwB := false
  readyA := false
  readyB := false
  heldB := false
  readyEpochB := 0
  tokenEpoch := none
  loaded := false
  calDone := []
  wipeRange := 0
  wipeStart := none
  poolReady := none
  recovery := false
  portTrained := []
  resetAt := none
  resetCause := 0
  lcTarget := none
  lcOwed := []
  dbgOpenRun := false
  dieResetOf := none
  dieResetOwed := []
  stackResetOwed := []
  portResetOwed := []

def Cfg.reset : Cfg := ⟨[], [], []⟩

def Token.reset : Token where
  dies := []
  cdEpochA := 0
  cdEpochB := 0
  sent := []
  replies := []
  expired := []
  active := none
  granted := []
  missed := 0
  silent := false
  claimant := none
  claimGrants := []
  claimSince := 0
  claimCause := 0
  hubLost := []
  pdLost := false
  retries := []
  linkDown := []
  fatal := none

def Fabric.reset : Fabric where
  routes0 := []
  routes1 := []
  rst0 := .current
  rst1 := .free
  inflight0 := 0
  inflight1 := 0
  commitOwed := []
  paced := 0
  heard := []
  policers := []
  circuits := []
  leaseGone := []
  gatesOff := false
  unbound := []

def Pool.reset : Pool where
  exts := []
  grants := []
  leases := []
  quotas := []
  withdrawers := []
  masterTags := []
  forced := []
  freed := []
  setGen := 1
  master := 0
  members := []
  formEnded := false
  degraded := false
  refusedByPeer := false
  lostHere := false
  masterPending := none
  lastDelta := 0
  lastDeltaAt := 0
  changed := []
  orders := []
  orderTag := 0
  ready := false
  reclaimWait := []

def Coh.reset : Coh := ⟨[], 0, 0, [], []⟩

def Coach.reset : Coach := ⟨[], 0, [], [], [], [], false⟩

def Stock.reset : Stock := ⟨[], [], [], [], [], [], []⟩

def Repro.reset : Repro := ⟨[], .off, [], []⟩

/-- The page count of the module (R22). -/
def allPages : Nat := 15728640

def Mem.reset : Mem where
  cells := []
  lines := []
  closed := [(0, allPages)]
  openPages := []
  remap := []
  moving := []
  retired := []
  counts := []
  channels := []
  stackTab := []
  ceLog := []
  repeats := []
  sramRows := []
  rowSpares := []
  sparesWaiting := []
  retireWaiting := []
  hubQueue0 := []
  hubQueue1 := []
  commit0 := []
  commit1 := []
  prev0 := []
  prev1 := []
  keyGen := []
  keys := []
  pkey := none
  level := 0
  degradeWord := 0
  migTurn := 0
  givenPages := []

def Twin.reset : Twin where
  tender := .resetting
  lastCause := 0
  autoResets := 0
  switchovers := 0
  ackEpoch := 0
  resyncAt := none
  resyncFrom := none
  cuts := []
  copy := none
  failSent := false
  journal := []
  cpls := []
  mirror0 := []
  mirror1 := []
  mirrorGood := 0
  readThis := []
  reqs := []
  nextJidx := 0
  fullEpoch := false
  detectedAt := none
  handoverAt := none
  handoverOwed := []
  handoverReset := false
  released := []
  paused := false
  keyStoreSent := false

/-- The fuses of a module as it leaves Uruiler, in PROVISIONED (R116, R385); the rest cleared.
[DESIGN CHOICE, log 14: unsafe] The image signing key is the one whose private half is 1. [DESIGN CHOICE, log 163: unsafe] -/
def Sec.reset : Sec where
  signerDigest :=
    0x6b36f46e385e98d339da8dcafbca306cc657dc792eb8d970c7597084f8ce27319ee64fc2b6c8dbc24a43434c202d8e6e
  signerKey :=
    0x3617de4a96262c6f5d9e98bf9292dc29f8f41dbd289a147ce9da3113b5f0b8c00a60b1ce1d7e819d7a431d7c90ea0e5f * 2 ^ 384 +
    0xaa87ca22be8b05378eb1c71ef320ad746e1d3b628ba79b9859f741e082542a385502f25dbf55296c3a545e3872760ab7
  pairKey := 0
  idSeed := 0
  sealSecret := 0
  identity := true
  sealDead := false
  minSec := 0
  dbgLock := true
  dbgReopen := false
  pend := .none
  pendNext := 0
  pendFlash := 0
  sessions := []
  usedIds := []
  slots := []
  attests := []
  changes := []
  tenderStore := KeyStore.empty

def Rsl.reset : Rsl := ⟨[], [], []⟩

def Events.reset : Events := ⟨1, false, [], [], [], [], []⟩

/-- The module with no power yet applied: the input stage off, everything cleared, the fuses as they leave Uruiler. -/
def State.reset : State where
  pending := []
  power := Power.reset
  clk := Clocks.reset
  boot := Boot.reset
  cfg := Cfg.reset
  tok := Token.reset
  ports := []
  fab := Fabric.reset
  pool := Pool.reset
  coh := Coh.reset
  coach := Coach.reset
  stock := Stock.reset
  repro := Repro.reset
  mem := Mem.reset
  twin := Twin.reset
  sec := Sec.reset
  rsl := Rsl.reset
  evs := Events.reset
  ctrs := []
  fresh := 0

end Sys2Proof.Machine
end

