-- ==== Sys2Proof/Machine/Ops.lean ====
section
/-! DEFINITION. Shared operations of every chapter: completion codes, numbers, dies, counters, events, configuration
fields, outgoing messages and the service link's frames. -/

set_option Elab.async false

namespace Sys2Proof.Machine
open Sys2Proof

/-- What a meaning answers. -/
abbrev Out := Host.Outcome State Fault Refusal

/-! ## Completion codes (R15) -/

def cOk : Nat := 0x00
def cPoison : Nat := 0x01
def cRevoked : Nat := 0x02
def cLeaseEnded : Nat := 0x03
def cRefusedRate : Nat := 0x04
def cStaleVersion : Nat := 0x05
def cXlateFault : Nat := 0x06
def cXlateStale : Nat := 0x07
def cRights : Nat := 0x08
def cBusy : Nat := 0x09
def cLocked : Nat := 0x0A
def cDomainDown : Nat := 0x0B
def cFatal : Nat := 0x0C
def cMalformed : Nat := 0x0D
def cUnsupported : Nat := 0x0E

/-! ## Numbers -/

/-- `n` little-endian bytes of `v` (R12). -/
def leBytes : Nat → Nat → List Byte
  | 0, _ => []
  | n + 1, v => BitVec.ofNat 8 v :: leBytes n (v / 256)

/-- The number that little-endian bytes spell (R12). -/
def ofLe : List Byte → Nat
  | [] => 0
  | b :: bs => b.toNat + 256 * ofLe bs

/-- `n` zero bytes. -/
def zeros (n : Nat) : List Byte := List.replicate n 0

/-- Bit `i` of `n`. -/
def bitOf (n i : Nat) : Bool := n.testBit i

def b2n (b : Bool) : Nat := if b then 1 else 0

/-- Bits `hi` down to `lo` of `n`. -/
def bitsOf (n hi lo : Nat) : Nat := (n >>> lo) % 2 ^ (hi + 1 - lo)

/-- The fields (value, lowest bit) put together into one word. -/
def pack (fs : List (Nat × Nat)) : Nat := (fs.map fun f => f.1 * 2 ^ f.2).foldl (· + ·) 0

def sumOf (l : List Nat) : Nat := l.foldl (· + ·) 0

/-- The last `n` entries of a list. -/
def lastN {α : Type} (n : Nat) (l : List α) : List α := l.drop (l.length - n)

/-- Puts `x` before the first entry that it is not above. -/
def insertBy {α : Type} (le : α → α → Bool) (x : α) : List α → List α
  | [] => [x]
  | y :: ys => if le x y then x :: y :: ys else y :: insertBy le x ys

/-- Sorts a list; entries that compare equal keep their order. -/
def sortBy {α : Type} (le : α → α → Bool) (l : List α) : List α := l.foldr (insertBy le) []

def two64 : Nat := 0x10000000000000000
def two32 : Nat := 0x100000000

/-- An integer as the low `n` bytes of its two's complement. -/
def sBytes (n : Nat) (v : Int) : List Byte := leBytes n (v % (256 ^ n : Nat)).toNat

/-! ## Dies, stacks and pages (R18, R22, R23) -/

def dieCdA : Nat := 0
def dieCdB : Nat := 1
def dieHd0 : Nat := 2
def dieHd1 : Nat := 3
def diePd : Nat := 4

/-- The obeying die's place in the token table: HD-0, HD-1, PD. -/
def odPd : Nat := 2

def odOfHub (hub : Nat) : Nat := hub

/-- The die number of obeying die `od`. -/
def odDie (od : Nat) : Nat := od + 2

/-- STACK_ORDER (R22). -/
def stackOrder (i : Nat) : Nat := if i % 2 = 0 then i / 2 else i / 2 + 6

/-- Where a stack stands in STACK_ORDER. -/
def stackPos (n : Nat) : Nat := if n < 6 then 2 * n else 2 * (n - 6) + 1

/-- The stack of a physical page. -/
def stackOf (ppn : Nat) : Nat := stackOrder (ppn % 12)

/-- The page within its stack. -/
def pwsOf (ppn : Nat) : Nat := ppn / 12

/-- The hub that serves a stack. -/
def hubOfStack (n : Nat) : Nat := if n < 6 then 0 else 1

def hubOf (ppn : Nat) : Nat := hubOfStack (stackOf ppn)

/-- The channel, stack * 32 + channel, of line `line` of a page (R23). -/
def channelOf (ppn line : Nat) : Nat := stackOf ppn * 32 + (line / 4 + pwsOf ppn) % 32

def userPages : Nat := 14745600
def spareEnd : Nat := 15532032

/-- Is this page in the pantry? -/
def isPantry (ppn : Nat) : Bool := decide (spareEnd ≤ ppn ∧ ppn < allPages)

/-- The page at page-within-stack `pws` of stack `n`. -/
def ppnAt (n pws : Nat) : Nat := 12 * pws + stackPos n

/-- How many pages of `base` .. `base + n - 1` lie on the stack whose place in STACK_ORDER is `pos`. -/
def pagesOnStack (base n pos : Nat) : Nat :=
  let f := fun x => x / 12 + (if pos < x % 12 then 1 else 0)
  f (base + n) - f base

/-! ## Epochs (R10) -/

def epochNs : Nat := 4096

def State.epoch (s : State) : Nat := s.clk.now / 4096

/-! ## Counters (R421) -/

/-- The key of counter `c` of object `o` of group `g`, in the order of CTR_READ. [DESIGN CHOICE, log 10: unsafe] -/
def ctrKey (g o c : Nat) : Nat := 64 * (65536 * g + o) + c

/-- Raises a 64-bit counter by `n`. -/
def State.bump (s : State) (g o c n : Nat) : State :=
  let k := ctrKey g o c
  { s with ctrs := Tab.set 0 s.ctrs k ((Tab.get 0 s.ctrs k + n) % two64) }

def State.ctr (s : State) (g o c : Nat) : Nat := Tab.get 0 s.ctrs (ctrKey g o c)

/-- The group and object of a link-layer port's counters: 64 and 65 are the RSL ports (R421). -/
def portGroup (p : Nat) : Nat × Nat := if p < 64 then (1, p) else (11, p - 64)

def State.bumpPort (s : State) (p c n : Nat) : State := s.bump (portGroup p).1 (portGroup p).2 c n

/-! ## Free values -/

/-- Draws one word nobody has chosen. -/
def State.draw (s : State) : State × Nat := ({ s with fresh := s.fresh + 1 }, Config.drawn s.fresh)

/-- The two 256-bit keys of a draw (R386). -/
def keyPair (w : Nat) : Nat := w % 2 ^ 512

/-! ## Configuration fields (R106 to R111, R436) -/

/-- One configuration field: block and number, bytes, how many indices, range, step, value at reset, and whether it is
runtime-changeable (R109). -/
structure CfgField where
  id : Nat
  len : Nat
  count : Nat
  lo : Nat
  hi : Nat
  step : Nat
  reset : Nat
  rw : Bool
  deriving DecidableEq, Repr

def fld (id len count lo hi reset : Nat) : CfgField := ⟨id, len, count, lo, hi, 1, reset, false⟩

def fSscDepth : Nat := 0x01001000
def fSscRate : Nat := 0x01002000
def fTimeMask : Nat := 0x02001000
def fTimeDomain : Nat := 0x02002000
def fLimitW : Nat := 0x03001000
def fAdminDown : Nat := 0x04001000
def fRtt : Nat := 0x04002000
def fRecovery : Nat := 0x04003000
def fCrd (cls : Nat) : Nat := 0x04004000 + cls * 0x1000
def fFabricId : Nat := 0x05001000
def fRouteHost : Nat := 0x05002000
def fRouteMember : Nat := 0x05003000
def fGateBurst : Nat := 0x05004000
def fThrottleHi : Nat := 0x05005000
def fThrottleLo : Nat := 0x05006000
def fLeasePeriod : Nat := 0x06001000
def fSetSize : Nat := 0x07001000
def fMemberId : Nat := 0x07002000
def fLossEpochs : Nat := 0x07003000
def fFormEpochs : Nat := 0x07004000
def fResponse : Nat := 0x08001000
def fNakBase : Nat := 0x08002000
def fNakMax : Nat := 0x08003000
def fStarveRetries : Nat := 0x08004000
def fFetchMax : Nat := 0x09001000
def fFetchTotal : Nat := 0x09002000
def fFaultHold : Nat := 0x09003000
def fAccHome : Nat := 0x0A001000
def fStoreReserve : Nat := 0x0A002000
def fLadleShare : Nat := 0x0B001000
def fCeBucket : Nat := 0x0B002000
def fCeLeak : Nat := 0x0B003000
def fDegradeOvf : Nat := 0x0B004000
def fHotLines : Nat := 0x0B005000
def fColdLines : Nat := 0x0B006000
def fRdm : Nat := 0x0B007000
def fMigrateShare : Nat := 0x0B008000
def fAutoRemove : Nat := 0x0B009000
def fAutoReset : Nat := 0x0C001000
def fResetLimit : Nat := 0x0C002000
def fLag : Nat := 0x0C003000
def fEvBurst : Nat := 0x0E001000
def fEvRefill : Nat := 0x0E002000
def fEvPrimary : Nat := 0x0E003000

/-- The fields of blocks 0x01 to 0x06. -/
def cfgFieldsA : List CfgField :=
  [ fld fSscDepth 1 1 0 10 0, fld fSscRate 1 1 30 63 32, fld fTimeMask 8 1 0 (two64 - 1) (two64 - 1),
    fld fTimeDomain 2 1 0 65535 0, ⟨fLimitW, 2, 1, 1000, 1700, 10, 1700, true⟩,
    ⟨fAdminDown, 8, 1, 0, two64 - 1, 1, 0, true⟩, fld fRtt 4 64 100 100000 1000, fld fRecovery 1 64 0 1 0,
    fld (fCrd 0) 2 64 64 5952 1536, fld (fCrd 1) 2 64 64 5952 512, fld (fCrd 2) 2 64 64 5952 1024,
    fld (fCrd 3) 2 64 64 5952 3072, fld fFabricId 2 1 0x1000 0xFFFE 0x1000,
    fld fRouteHost 4 4096 0 (two32 - 1) 0, fld fRouteMember 4 8 0 (two32 - 1) 0, fld fGateBurst 1 64 1 64 64,
    fld fThrottleHi 2 64 64 512 384, fld fThrottleLo 2 64 0 448 128,
    ⟨fLeasePeriod, 4, 1, 245, 14648437, 1, 244141, true⟩ ]

/-- The fields of blocks 0x07 to 0x0E. -/
def cfgFieldsB : List CfgField :=
  [ fld fSetSize 1 1 1 8 1, fld fMemberId 2 8 0x1000 0xFFFE 0, fld fLossEpochs 2 1 16 4096 256,
    fld fFormEpochs 4 1 0 1000000 24414, fld fResponse 2 1 4 4096 64,
    ⟨fNakBase, 2, 1, 16, 4096, 16, 256, false⟩, ⟨fNakMax, 4, 1, 16, 1048560, 16, 16384, false⟩,
    fld fStarveRetries 1 1 4 64 16, fld fFetchMax 2 1 1 256 32, fld fFetchTotal 2 1 64 4096 2048,
    fld fFaultHold 4 1 16 1000000 1024, fld fAccHome 1 1 0 1 0, fld fStoreReserve 1 1024 0 160 0,
    ⟨fLadleShare, 1, 1, 1, 20, 1, 5, true⟩, fld fCeBucket 2 1 16 65535 256, fld fCeLeak 4 1 1 1000000 2441,
    fld fDegradeOvf 2 1 1 1024 16, fld fHotLines 2 1 2 65535 4096, fld fColdLines 2 1 1 65535 16,
    fld fRdm 2 1 512 16384 4096, fld fMigrateShare 1 1 5 50 20, fld fAutoRemove 1 1 0 1 1,
    fld fAutoReset 1 1 0 1 1, fld fResetLimit 1 1 0 8 3, fld fLag 2 1 4 256 16, fld fEvBurst 1 1 1 64 8,
    fld fEvRefill 4 1 1 1048576 2048, fld fEvPrimary 1 1 0 1 0 ]

def cfgFields : List CfgField := cfgFieldsA ++ cfgFieldsB

/-- The field that a FIELD_ID names: its block and number, with an index the field has (R436). -/
def fieldOf (id : Nat) : Option CfgField :=
  cfgFields.find? fun f => decide (f.id / 4096 = id / 4096 ∧ id % 4096 < f.count)

/-- Does a value lie within the field's range (R106, R109)? -/
def CfgField.inRange (f : CfgField) (v : Nat) : Bool :=
  decide (f.lo ≤ v ∧ v ≤ f.hi ∧ v % f.step = 0)

/-- The current value of field `id` (the index in its low 12 bits). -/
def State.cfgAt (s : State) (id : Nat) : Nat :=
  match Tab.get none s.cfg.vals id with
  | some v => v
  | none => match fieldOf id with
    | some f => f.reset
    | none => 0

/-- Field `id` of index `i`. -/
def State.cfgIx (s : State) (id i : Nat) : Nat := s.cfgAt (id + i)

def State.fabricId (s : State) : Nat := s.cfgAt fFabricId

/-! ## Ports -/

def State.port (s : State) (p : Nat) : Port := Tab.get Port.empty s.ports p

def State.setPort (s : State) (p : Nat) (x : Port) : State := { s with ports := Tab.set Port.empty s.ports p x }

def State.portUp (s : State) (p : Nat) : Bool := decide ((s.port p).st = .up ∨ (s.port p).st = .swap)

/-- Are both RSL ports UP? -/
def State.rslBothUp (s : State) : Bool := s.portUp 64 && s.portUp 65

/-! ## Events (R422 to R425) -/

def sevInfo : Nat := 0
def sevNotice : Nat := 1
def sevWarning : Nat := 2
def sevFatal : Nat := 3

/-- EV_SEQ after `n` (R423). -/
def nextEvSeq (n : Nat) : Nat := if two32 - 1 ≤ n then 1 else n + 1

/-- Counts an event of this code as not sent; the count saturates (R422). -/
def Events.suppress (e : Events) (code : Nat) : Events :=
  { e with suppressed := Tab.set 0 e.suppressed code (min (Tab.get 0 e.suppressed code + 1) (two32 - 1)) }

/-- Numbers an event, gives it the code's SUPPRESSED count, and queues it for sending; a FATAL one goes out on both
ports when both are UP, ahead of the others (R423). -/
def Events.enqueue (e : Events) (bothUp : Bool) (v : Ev) : Events :=
  let v := { v with seq := e.nextSeq, suppressed := Tab.get 0 e.suppressed v.code }
  { e with
    nextSeq := nextEvSeq e.nextSeq
    queue := e.queue ++ [v]
    out := if v.severity ≠ sevFatal then e.out ++ [(v, none)]
      else
        let ahead := e.out.filter fun x => decide (x.1.severity = sevFatal)
        let rest := e.out.filter fun x => decide (x.1.severity ≠ sevFatal)
        ahead ++ (if bothUp then [(v, some 0), (v, some 1)] else [(v, none)]) ++ rest
    suppressed := Tab.set 0 e.suppressed v.code 0 }

/-- Takes out the oldest event that is not FATAL. -/
def dropOldest : List Ev → List Ev
  | [] => []
  | v :: vs => if v.severity = sevFatal then v :: dropOldest vs else vs

/-- The event displaced by a FATAL one, if any is not FATAL. -/
def oldestMild (q : List Ev) : Option Ev := q.find? fun v => decide (v.severity ≠ sevFatal)

def evSuppressed : Nat := 0x0801

/-- Queues one event under R424 and R425. [DEDUCED, log 140: unsafe] -/
def State.queueEv (s : State) (v : Ev) : State :=
  let both := s.rslBothUp
  if v.severity = sevFatal then
    if s.evs.queue.length < 1024 then { s with evs := s.evs.enqueue both v }
    else match oldestMild s.evs.queue with
      | some old =>
        let e := { s.evs with
          queue := dropOldest s.evs.queue
          out := s.evs.out.filter fun x => decide (x.1.seq ≠ old.seq) }
        { s with evs := (e.suppress old.code).enqueue both v }
      | none => ({ s with evs := s.evs.suppress v.code }).bump 10 0 31 1
  else if 1024 ≤ s.evs.queue.length then ({ s with evs := s.evs.suppress v.code }).bump 10 0 31 1
  else if v.code = evSuppressed then { s with evs := s.evs.enqueue both v }
  else if Tab.get 0 s.evs.spent v.code < s.cfgAt fEvBurst then
    let e := { s.evs with spent := Tab.set 0 s.evs.spent v.code (Tab.get 0 s.evs.spent v.code + 1) }
    { s with evs := e.enqueue both v }
  else ({ s with evs := s.evs.suppress v.code }).bump 10 0 30 1

/-- Raises an event: held before EV_START is sent, queued after (R423). -/
def State.raise (s : State) (code sev die : Nat) (detail : List Byte) : State :=
  let v : Ev := ⟨0, code, sev, die, 0, s.epoch, detail⟩
  if s.evs.started then s.queueEv v else { s with evs := { s.evs with held := s.evs.held ++ [v] } }

/-- The die that acts for the pool: the token holder, CD-A where none holds it. -/
def State.actDie (s : State) : Nat := s.tok.active.getD dieCdA

/-! ## Outgoing fabric messages (R154) -/

/-- Message classes. -/
def clsReq : Nat := 0
def clsSnp : Nat := 1
def clsRsp : Nat := 2
def clsDat : Nat := 3

/-- Hands a message to the port die; it waits unbound until MESSAGE_BIND (R157). -/
def State.send (s : State) (m : OutMsg) : State := { s with fab := { s.fab with unbound := s.fab.unbound ++ [m] } }

/-- An answer to request `h`. -/
def answerOf (h : ReqHdr) (opcode cls opData : Nat) (body : List Byte) : OutMsg :=
  { dst := h.src, tag := h.tag, opcode := opcode, cls := cls, opData := opData, body := body, jidx := some h.jidx,
    port := some h.port, sess := h.sess, ckt := none, notice := false, fanOut := false, counted := false, sealed := false }

/-- An unsolicited message to fabric ID `dst`. -/
def messageTo (dst tag opcode cls opData : Nat) (body : List Byte) : OutMsg :=
  { dst := dst, tag := tag, opcode := opcode, cls := cls, opData := opData, body := body, jidx := none,
    port := none, sess := 0, ckt := none, notice := false, fanOut := false, counted := false,
    sealed := false }

/-- A notice: held, and dropped at binding when the host's LEASE_GONE bit is set (R195). -/
def State.notice (s : State) (dst opcode : Nat) (body : List Byte) : State :=
  s.send { messageTo dst 0 opcode clsRsp 0 body with notice := true }

/-! ## The state copy (R26, R357, R358, R361) -/

/-- Does the tender take the state copy? -/
def State.copying (s : State) : Bool := decide (s.twin.tender = .resync ∨ s.twin.tender = .synced)

/-- Writes a state-copy entry for a change, while the tender takes the copy. [DESIGN CHOICE, log 11: unsafe] -/
def State.logChange (s : State) (kind index len : Nat) (jidx : Option Nat) : State :=
  if s.copying then
    { s with twin := { s.twin with journal := s.twin.journal ++ [⟨kind, index, len, jidx, s.epoch⟩] } }
  else s

/-- Bytes of a journal entry (R358). [DEDUCED, log 51: unsafe] -/
def JEntry.bytes (j : JEntry) : Nat := 16 + j.len

/-- Partitions of the pantry (R25). -/
inductive PantryPart where
  | linkReplay | descriptors | stockpotSpill | accessCounters | faultRecords | journal | serviceCores
  deriving DecidableEq, Repr

/-- The size of a partition, in MiB (R25). -/
def PantryPart.mib : PantryPart → Nat
  | .linkReplay => 256
  | .descriptors => 4096
  | .stockpotSpill => 7168
  | .accessCounters => 64
  | .faultRecords => 64
  | .journal => 256
  | .serviceCores => 384

def PantryPart.bytes (p : PantryPart) : Nat := p.mib * 1048576

/-- Bytes of the state-copy journal partition in use: every entry is written twice (R326, R357). -/
def State.journalUsed (s : State) : Nat := 2 * sumOf (s.twin.journal.map JEntry.bytes)

/-- Is there no room for the longest entry in the journal partition? Writers then wait (R26, R361).
[DESIGN CHOICE, log 144: safe] -/
def State.copyFull (s : State) : Bool :=
  s.copying && decide (PantryPart.journal.bytes < s.journalUsed + 2 * 4096)

/-! ## Completions on the service link (R412 to R416) -/

/-- The commands that change no state (R414). -/
def rslReadOnly (cmd : Nat) : Bool :=
  cmd ∈ [0x104, 0x111, 0x112, 0x116, 0x133, 0x134, 0x148, 0x151, 0x152, 0x65, 0x75, 0x87, 0x88, 0x89, 0x85, 0x80,
    0x4F]

/-- The port a completion leaves on: the copy's port when UP, else the other when UP, else the copy's own (held). -/
def State.cplPort (s : State) (p : Nat) : Nat × Bool :=
  if s.portUp (64 + p) then (p, false) else if s.portUp (64 + (1 - p)) then (1 - p, true) else (p, false)

/-- Sends a completion frame; for a command that changes state, its CPL entry comes first and the frame is kept (R357,
R413, R414). -/
def State.rslDone (s : State) (cmd tag port code value : Nat) (data : List Byte) : State :=
  let openOf := s.rsl.opens.find? fun o => decide (o.tag = tag)
  let port := match openOf with
    | some o => o.port
    | none => port
  let s := if rslReadOnly cmd then s else s.logChange 0x0013 tag (32 + (data.length + 15) / 16 * 16) (openOf.map (·.jidx))
  let (p, moved) := s.cplPort port
  let f : RslCpl := ⟨cmd, tag, code, value, data, p⟩
  let kept := if rslReadOnly cmd then s.rsl.kept
    else lastN 1024 ((s.rsl.kept.filter fun k => decide (k.tag ≠ tag)) ++ [f])
  let s := { s with rsl :=
    { s.rsl with opens := s.rsl.opens.filter fun o => decide (o.tag ≠ tag), kept := kept, out := s.rsl.out ++ [f] } }
  if moved then s.bump 10 0 28 1 else s

/-- What a copied or new command finds (R414). A command is open until its completion is sent (R415). -/
inductive TagFound where
  | opened | replayed | keptSame (f : RslCpl) | new
  deriving DecidableEq, Repr

def State.tagFound (s : State) (tag cmd : Nat) : TagFound :=
  match s.rsl.opens.find? fun o => decide (o.tag = tag) with
  | some o => if o.replay ∧ o.cmd = cmd then .replayed else .opened
  | none =>
    if s.rsl.out.any fun f => decide (f.tag = tag) then .opened
    else match s.rsl.kept.find? fun k => decide (k.tag = tag ∧ k.cmd = cmd) with
      | some f => .keptSame f
      | none => .new

/-- The open commands: those that have no completion yet, or whose completion is still to be sent (R415). -/
def State.openCommands (s : State) : Nat := s.rsl.opens.length + s.rsl.out.length

/-- Handles a command that repeats a tag: discards it, or sends the kept completion again. -/
def State.rslRepeat (s : State) (tag port : Nat) : TagFound → State
  | .opened =>
    let opens := s.rsl.opens.map fun (o : RslOpen) => if o.tag = tag then { o with port := port } else o
    let out := s.rsl.out.map fun (f : RslCpl) => if f.tag = tag then { f with port := port } else f
    ({ s with rsl := { s.rsl with opens := opens, out := out } }).bump 10 0 27 1
  | .keptSame f =>
    let (p, moved) := s.cplPort port
    let s := ({ s with rsl := { s.rsl with out := s.rsl.out ++ [{ f with port := p }] } }).bump 10 0 26 1
    if moved then s.bump 10 0 28 1 else s
  | .replayed => s
  | .new => s

/-- Opens a new command; a kept completion of another CMD with its tag is dropped (R414). Every RSL command takes a
journal index (R366). -/
def State.rslOpen (s : State) (tag port cmd : Nat) : State :=
  { s with
    rsl := { s.rsl with opens := s.rsl.opens ++ [⟨cmd, tag, port, s.twin.nextJidx, s.epoch, false, none⟩],
                        kept := s.rsl.kept.filter fun k => decide (k.tag ≠ tag) }
    twin := { s.twin with nextJidx := (s.twin.nextJidx + 1) % two32 } }

/-- The token record of an obeying die (R28). -/
def State.ob (s : State) (od : Nat) : ObDie := Tab.get ObDie.empty s.tok.dies od

def State.setOb (s : State) (od : Nat) (x : ObDie) : State :=
  { s with tok := { s.tok with dies := Tab.set ObDie.empty s.tok.dies od x } }

/-- The epoch that an obeying die counts (R29): a hub's own counter, or the port die's. -/
def State.odEpoch (s : State) (od : Nat) : Nat := if od = odPd then s.epoch else (s.ob od).epoch

/-- Who holds the token at an obeying die: no one from the boundary of the expiry on (R28). [DEDUCED, log 47: safe] -/
def State.odHolder (s : State) (od : Nat) : Option Nat :=
  if s.odEpoch od < (s.ob od).expiry then (s.ob od).holder else none

/-- Does the active die hold the token at obeying die `od` (R18, R27)? -/
def State.obeys (s : State) (od : Nat) : Bool := s.tok.active.isSome && decide (s.odHolder od = s.tok.active)

/-- Does any die hold the token at the port die? -/
def State.tokenHeld (s : State) : Bool := (s.odHolder odPd).isSome

/-- From its boundary on, a handover takes no further request (R376). -/
def State.handingOver (s : State) : Bool :=
  match s.twin.handoverAt with
  | some e => decide (e ≤ s.epoch)
  | none => false

/-- Whether the module serves commands in the recovery form (R105). -/
def recoveryCmd (cmd : Nat) : Bool := cmd ∈ [0x100, 0x104, 0x105, 0x116]

/-- Is a paired-check entry under way (R306)? -/
def State.pairedEntry (s : State) : Option Nat :=
  match s.repro.paired with
  | .entryAt e _ => if e ≤ s.epoch then some e else none
  | _ => none

/-- What a new service-link command meets before its handling: BUSY_RETRY while no die holds the token (R33) and until
paired-check entry ends (R306), UNSUPPORTED in recovery (R105), MALFORMED for a reserved byte (R412). -/
def State.rslJudge (s : State) (c : RslCmd) (cmd : Nat) (resv : Bool) (k : State → State) : State :=
  if ¬ s.tokenHeld then s.rslDone cmd c.tag c.port cBusy (s.epoch + 4) []
  else if s.pairedEntry.isSome then s.rslDone cmd c.tag c.port cBusy (s.pairedEntry.getD 0 + 64) []
  else if s.boot.recovery ∧ ¬ recoveryCmd cmd then s.rslDone cmd c.tag c.port cUnsupported 0 []
  else if resv ∨ c.resv ≠ 0 then s.rslDone cmd c.tag c.port cMalformed 0 []
  else k s

/-- The port die has forwarded a command to the active die, or has yet to (R371, R374). -/
def State.setReplay (s : State) (tag : Nat) (b : Bool) : State :=
  { s with rsl := { s.rsl with
    opens := s.rsl.opens.map fun (o : RslOpen) => if o.tag = tag then { o with replay := b } else o } }

/-- Must a service-link command wait at the port die? Its outputs are held (R374), the module refused by its set serves
nothing but MODULE_RESET (R206), or the journal partition is full and the command may change state (R26, R361).
[DESIGN CHOICE, log 174: unsafe] -/
def State.rslWaits (s : State) (cmd : Nat) : Bool :=
  ((s.twin.paused || s.handingOver) && s.tokenHeld) || (s.pool.refusedByPeer && decide (cmd ≠ 0x100)) ||
    (s.copyFull && !rslReadOnly cmd)

/-! ## Requests whose effect is still under way -/

/-- The service-link TAG of a command that came there. -/
def viaTag : Via → Option Nat
  | .fabric _ => none
  | .rsl c => some c.tag
  | .ch c _ => some c.tag

/-- The journal index of a command that came over the fabric. -/
def viaJidx : Via → Option Nat
  | .fabric h => some h.jidx
  | _ => none

/-- The commands that an effect under way still has to complete: withdrawals, stops, armed LAUNCHes, arrivals at
barriers, INVALIDATEs, PUBLISHes, PUB_DELETEs, route commits, handovers and resets. -/
def State.waiters (s : State) : List Via :=
  (s.pool.withdrawers.flatMap fun e => e.2.map (·.1)) ++ s.fab.commitOwed ++
  (s.coach.rings.flatMap fun r => r.2.stopOwed ++ (r.2.launch.map (·.2)).toList) ++
  s.coach.invals.filterMap (·.owed) ++ (s.repro.barriers.flatMap fun b => b.2.arrivals.map (·.2)) ++
  s.repro.pubs.map (·.owed) ++ (s.repro.regions.flatMap fun r => r.2.deleteOwed) ++
  s.twin.handoverOwed ++ s.boot.dieResetOwed ++ (s.boot.stackResetOwed.flatMap (·.2)) ++
  (s.boot.portResetOwed.flatMap (·.2))

/-- Does a replayed service-link command find its effect under way, so that it joins it (R159, R193, R302, R373)?
[DEDUCED, log 179: unsafe] -/
def State.joinsTag (s : State) (tag : Nat) : Bool := s.waiters.any fun v => decide (viaTag v = some tag)

/-- Does a replayed fabric request find its effect under way? [DEDUCED, log 179: unsafe] -/
def State.joinsJidx (s : State) (j : Nat) : Bool := s.waiters.any fun v => decide (viaJidx v = some j)

/-- Runs a service-link command: counts it, handles a repeated tag, and brings it to `k`, when it comes or, where it must
wait, when the port die forwards it from its journal (R366, R374). 1,024 open commands hold further ones back (R415). -/
def State.rslGate (s : State) (c : RslCmd) (cmd : Nat) (resv : Bool) (k : State → State) : State :=
  if ¬ s.boot.por then s
  else match s.tagFound c.tag cmd with
  | .opened => (s.bump 10 0 25 1).rslRepeat c.tag c.port .opened
  | .keptSame f => (s.bump 10 0 25 1).rslRepeat c.tag c.port (.keptSame f)
  | .replayed =>
    if s.rslWaits cmd then s
    else if s.joinsTag c.tag then s.setReplay c.tag false
    else (s.setReplay c.tag false).rslJudge c cmd resv k
  | .new =>
    if 1024 ≤ s.openCommands then s
    else if s.rslWaits cmd then ((s.bump 10 0 25 1).rslOpen c.tag c.port cmd).setReplay c.tag true
    else ((s.bump 10 0 25 1).rslOpen c.tag c.port cmd).rslJudge c cmd resv k

/-- Answers the command that is being carried out. -/
def State.rslAnswer (s : State) (c : RslCmd) (cmd code value : Nat) (data : List Byte) : State :=
  s.rslDone cmd c.tag c.port code value data

end Sys2Proof.Machine
end

