-- ==== Sys2Proof/Machine/Crypto.lean ====
section
/-! DEFINITION. The public algorithms that the roots of trust, the link sessions and the stockpot digests name: SHA-256,
SHA-384, HMAC and HKDF over SHA-384, ECDSA and ECDH on P-384, AES-256 in GCM and XTS modes (R299, R382, R383, R386, R398,
R399, R402). The manual names the algorithms and does not repeat them. [PRESUMED, log 141: unsafe] -/

set_option Elab.async false

namespace Sys2Proof.Machine
open Sys2Proof

/-- `k n`, with `n` worked out before `k` uses it. The order of evaluation is all it settles. -/
def worked {α : Type} (n : Nat) (k : Nat → α) : α :=
  match n with
  | 0 => k 0
  | m + 1 => k (m + 1)

/-! ## SHA-256 and SHA-384 -/

/-- One member of the SHA-2 family: bits of a word, rounds, and the shifts of its four mixing functions. -/
structure Sha2 where
  bits : Nat
  rounds : Nat
  sumA : Nat × Nat × Nat
  sumE : Nat × Nat × Nat
  near : Nat × Nat × Nat
  far : Nat × Nat × Nat

def sha256Kind : Sha2 := ⟨32, 64, (2, 13, 22), (6, 11, 25), (7, 18, 3), (17, 19, 10)⟩

def sha384Kind : Sha2 := ⟨64, 80, (28, 34, 39), (14, 18, 41), (1, 8, 7), (19, 61, 6)⟩

/-- 64 bits of the fractional parts of the cube roots of the first 80 primes, the first root lowest. -/
def cubeRoots : Nat :=
  0x240ca1cc77ac9c650fc19dc68b8cd5b5efbe4786384f25e3e49b69c19ef14ad2c19bf174cf6926949bdc06a725c7123580deb1fe3b1696b172be5d74f27b896f550c7dc3d5ffb4e2243185be4ee4b28c12835b0145706fbed807aa98a3030242ab1c5ed5da6d8118923f82a4af194f9b59f111f1b605d0193956c25bf348b538e9b5dba58189dbbcb5c0fbcfec4d3b2f7137449123ef65cd428a2f98d728ae22
  + 0x92722c851482353b81c2c92e47edaee6766a0abb3c77b2a8650a73548baf63de53380d139d95b3df4d2c6dfc5ac42aed2e1b21385c26c92627b70a8546d22ffc142929670a0e6e7006ca6351e003826fd5a79147930aa725c6e00bf33da88fc2bf597fc7beef0ee4b00327c898fb213fa831c66d2db43210983e5152ee66dfab76f988da831153b55cb0a9dcbd41fbd44a7484aa6ea6e4832de92c6f592b0275
      <<< 1280
  + 0x8cc702081a6439ec84c87814a1f0ab7278a5636f43172f60748f82ee5defb2fc682e6ff3d6b2b8a35b9cca4f7763e3734ed8aa4ae3418acb391c0cb3c5c95a6334b0bcb5e19b48a82748774cdf8eeb991e376c085141ab5319a4c116b8d2d0c8106aa07032bbd1b8f40e35855771202ad69906245565a910d192e819d6ef5218c76c51a30654be30c24b8b70d0f89791a81a664bbc423001a2bfe8a14cf10364
      <<< 2560
  + 0x6c44198c4a4758175fcb6fab3ad6faec597f299cfc657e2a4cc5d4becb3e42b6431d67c49c100d4c3c9ebe0a15c9bebc32caab7b40c7249328db77f523047d841b710b35131c471b113f9804bef90dae0a637dc5a2c898a606f067aa72176fbaf57d4f7fee6ed178eada7dd6cde0eb1ed186b8c721c0c207ca273eceea26619cc67178f2e372532bbef9a3f7b2c67915a4506cebde82bde990befffa23631e28
      <<< 3840

/-- 64 bits of the fractional parts of the square roots of the first 16 primes, the first root lowest. -/
def squareRoots : Nat :=
  0x47b5481dbefa4fa4db0c2e0d64f98fa78eb44a876858151167332667ffc00b31152fecd8f70e59399159015a3070dd17629a292a367cd507cbbb9d5dc1059ed85be0cd19137e21791f83d9abfb41bd6b9b05688c2b3e6c1f510e527fade682d1a54ff53a5f1d36f13c6ef372fe94f82bbb67ae8584caa73b6a09e667f3bcc908

/-- Word `i` of the words put together in `x`, the first lowest. -/
def Sha2.word (a : Sha2) (x i : Nat) : Nat := (x >>> (a.bits * i)) % 2 ^ a.bits

/-- Turns a word right by `n` bits. -/
def Sha2.turn (a : Sha2) (n x : Nat) : Nat := x >>> n + (x % 2 ^ n) <<< (a.bits - n)

/-- Three turns of a word, folded. -/
def Sha2.fold3 (a : Sha2) (t : Nat × Nat × Nat) (x : Nat) : Nat := a.turn t.1 x ^^^ a.turn t.2.1 x ^^^ a.turn t.2.2 x

/-- Two turns of a word and a shift, folded. -/
def Sha2.fold2 (a : Sha2) (t : Nat × Nat × Nat) (x : Nat) : Nat := a.turn t.1 x ^^^ a.turn t.2.1 x ^^^ x >>> t.2.2

/-- Round `i` on the eight working words in `h`, with the 16 schedule words in `m`: every word moves up one place, and the
fifth and the first take up the two sums. -/
def Sha2.round (a : Sha2) (i h m : Nat) : Nat :=
  let e := a.word h 4
  let x := a.word h 0
  let root := ((cubeRoots >>> (64 * i)) % 2 ^ 64) >>> (64 - a.bits)
  let t := a.word h 7 + a.fold3 a.sumE e + (e &&& a.word h 5 ||| (2 ^ a.bits - 1 - e) &&& a.word h 6) + root + a.word m 0
  let u := a.fold3 a.sumA x + (x &&& a.word h 1 ||| (x ||| a.word h 1) &&& a.word h 2)
  let up := (h <<< a.bits) % 2 ^ (8 * a.bits) - a.word h 3 <<< (4 * a.bits)
  up + ((a.word h 3 + t) % 2 ^ a.bits) <<< (4 * a.bits) + (t + u) % 2 ^ a.bits

/-- The 16 schedule words one place on. -/
def Sha2.next (a : Sha2) (m : Nat) : Nat :=
  let w := a.word m 0 + a.fold2 a.near (a.word m 1) + a.word m 9 + a.fold2 a.far (a.word m 14)
  m >>> a.bits + (w % 2 ^ a.bits) <<< (15 * a.bits)

/-- The last `n` rounds. -/
def Sha2.run (a : Sha2) : Nat → Nat → Nat → Nat
  | 0, h, _ => h
  | n + 1, h, m => worked (a.round (a.rounds - (n + 1)) h m) fun h2 => worked (a.next m) fun m2 => a.run n h2 m2

/-- The number that big-endian bytes spell. -/
def ofBe (l : List Byte) : Nat := l.foldl (fun acc b => acc * 256 + b.toNat) 0

/-- `n` big-endian bytes of `v`. -/
def beBytes (n v : Nat) : List Byte := (leBytes n v).reverse

/-- The 16 words of one block. -/
def Sha2.load (a : Sha2) (m : List Byte) : Nat :=
  let w := a.bits / 8
  (List.range 16).foldl (fun acc i => acc + ofBe ((m.drop (w * i)).take w) <<< (a.bits * i)) 0

/-- Adds two groups of eight words, word by word. -/
def Sha2.join (a : Sha2) (x y : Nat) : Nat :=
  (List.range 8).foldl (fun acc i => acc + ((a.word x i + a.word y i) % 2 ^ a.bits) <<< (a.bits * i)) 0

/-- Takes in `n` blocks. -/
def Sha2.blocks (a : Sha2) : Nat → Nat → List Byte → Nat
  | 0, h, _ => h
  | n + 1, h, m =>
    worked (a.load m) fun w => worked (a.run a.rounds h w) fun r => worked (a.join h r) fun h2 =>
      a.blocks n h2 (m.drop (2 * a.bits))

/-- What is added to a message of `n` bytes to fill whole blocks: a one bit, zeros, the length in bits. -/
def Sha2.tail (a : Sha2) (n : Nat) : List Byte :=
  let b := 2 * a.bits
  [0x80#8] ++ zeros ((2 * b - 1 - b / 8 - n % b) % b) ++ beBytes (b / 8) (8 * n)

/-- The hash of a message from the eight words of `start`, `n` words of it. -/
def Sha2.hash (a : Sha2) (start n : Nat) (m : List Byte) : List Byte :=
  let p := m ++ a.tail m.length
  let h := a.blocks (p.length / (2 * a.bits)) start p
  (List.range n).flatMap fun i => beBytes (a.bits / 8) (a.word h i)

/-- The first 32 bits of eight 64-bit roots. -/
def halfRoots (x : Nat) : Nat :=
  (List.range 8).foldl (fun acc i => acc + ((x >>> (64 * i + 32)) % 2 ^ 32) <<< (32 * i)) 0

/-- SHA-256, 32 bytes. -/
def sha256 (m : List Byte) : List Byte := sha256Kind.hash (halfRoots squareRoots) 8 m

/-- SHA-384, 48 bytes. -/
def sha384 (m : List Byte) : List Byte := sha384Kind.hash (squareRoots >>> 512) 6 m

/-! ## HMAC and HKDF over SHA-384 -/

/-- HMAC-SHA-384 of `m` under `key`. -/
def hmac384 (key m : List Byte) : List Byte :=
  let k := if 128 < key.length then sha384 key else key
  let k := k ++ zeros (128 - k.length)
  sha384 (k.map (· ^^^ 0x5C#8) ++ sha384 (k.map (· ^^^ 0x36#8) ++ m))

/-- The blocks of the expansion, the last one made being `t`. -/
def hkdfBlocks (prk info : List Byte) : Nat → Nat → List Byte → List Byte
  | 0, _, _ => []
  | n + 1, i, t =>
    let t := hmac384 prk (t ++ info ++ [BitVec.ofNat 8 i])
    t ++ hkdfBlocks prk info n (i + 1) t

/-- HKDF-SHA-384: `len` bytes from the input key `ikm`, the salt and the info. -/
def hkdf384 (ikm salt info : List Byte) (len : Nat) : List Byte :=
  (hkdfBlocks (hmac384 salt ikm) info ((len + 47) / 48) 1 []).take len

/-- The bytes of an ASCII string. -/
def ascii (s : String) : List Byte := s.toList.map fun c => BitVec.ofNat 8 c.toNat

/-! ## P-384: ECDSA and ECDH -/

/-- The field prime of P-384. -/
def fieldP : Nat := 2 ^ 384 - 2 ^ 128 - 2 ^ 96 + 2 ^ 32 - 1

/-- The order of its group. -/
def orderN : Nat :=
  0xffffffffffffffffffffffffffffffffffffffffffffffffc7634d81f4372ddf581a0db248b0a77aecec196accc52973

/-- The constant of its curve y^2 = x^3 - 3x + b. -/
def curveB : Nat :=
  0xb3312fa7e23ee7e4988e056be3f82d19181d9c6efe8141120314088f5013875ac656398d8a2ed19d2a85c8edd3ec2aef

/-- The base point. -/
def baseX : Nat :=
  0xaa87ca22be8b05378eb1c71ef320ad746e1d3b628ba79b9859f741e082542a385502f25dbf55296c3a545e3872760ab7

def baseY : Nat :=
  0x3617de4a96262c6f5d9e98bf9292dc29f8f41dbd289a147ce9da3113b5f0b8c00a60b1ce1d7e819d7a431d7c90ea0e5f

/-- A point as (x, y, z), standing for (x / z^2, y / z^3); the neutral point has z = 0. -/
structure Point where
  x : Nat
  y : Nat
  z : Nat
  deriving DecidableEq, Repr

def Point.zero : Point := ⟨1, 1, 0⟩

def Point.base : Point := ⟨baseX, baseY, 1⟩

/-- `a - b` modulo the field prime. -/
def subP (a b : Nat) : Nat := (a + fieldP - b % fieldP) % fieldP

/-- Twice a point. -/
def Point.dbl (p : Point) : Point :=
  worked (p.y * p.y % fieldP) fun yy => worked (p.z * p.z % fieldP) fun zz =>
  worked (4 * p.x * yy % fieldP) fun s => worked (3 * subP p.x zz * (p.x + zz) % fieldP) fun m =>
  worked (subP (m * m) (2 * s)) fun x => worked (subP (m * subP s x) (8 * yy * yy)) fun y =>
  worked (2 * p.y * p.z % fieldP) fun z => ⟨x, y, z⟩

/-- The sum of two points. -/
def Point.add (p q : Point) : Point :=
  if p.z = 0 then q
  else if q.z = 0 then p
  else
    worked (p.z * p.z % fieldP) fun pp => worked (q.z * q.z % fieldP) fun qq =>
    worked (p.x * qq % fieldP) fun u => worked (p.y * q.z * qq % fieldP) fun v =>
    worked (subP (q.x * pp) u) fun h => worked (subP (q.y * p.z * pp) v) fun r =>
    if h = 0 then (if r = 0 then p.dbl else Point.zero)
    else
      worked (h * h % fieldP) fun hh => worked (u * hh % fieldP) fun w =>
      worked (subP (r * r) (h * hh + 2 * w)) fun x => worked (subP (r * subP w x) (v * h * hh)) fun y =>
      worked (h * p.z * q.z % fieldP) fun z => ⟨x, y, z⟩

/-- `a p + b q`, from the low `n` bits of `a` and `b`. -/
def Point.combine (p q pq : Point) (a b : Nat) : Nat → Point → Point
  | 0, acc => acc
  | n + 1, acc =>
    let acc := acc.dbl
    let acc := match a.testBit n, b.testBit n with
      | true, true => acc.add pq
      | true, false => acc.add p
      | false, true => acc.add q
      | false, false => acc
    Point.combine p q pq a b n acc

/-- `k p`. -/
def Point.times (k : Nat) (p : Point) : Point := Point.combine p Point.zero p k 0 384 Point.zero

/-- `a ^ e` modulo `m`, from the low `n` bits of `e`. -/
def powModBits (a e m : Nat) : Nat → Nat → Nat
  | 0, acc => acc
  | n + 1, acc => worked (if e.testBit n then acc * acc % m * a % m else acc * acc % m) fun r => powModBits a e m n r

/-- The inverse of `a` modulo the prime `m` of at most 384 bits. -/
def invMod (a m : Nat) : Nat := powModBits (a % m) (m - 2) m 384 1

/-- The x-coordinate of a point. -/
def Point.affX (p : Point) : Nat := worked (invMod p.z fieldP) fun i => p.x * (i * i % fieldP) % fieldP

/-- The y-coordinate of a point. -/
def Point.affY (p : Point) : Nat := worked (invMod p.z fieldP) fun i => p.y * (i * i % fieldP * i % fieldP) % fieldP

/-- The 96 bytes of a public key: X, then Y (R383). -/
def keyBytes (p : Point) : List Byte := leBytes 48 p.affX ++ leBytes 48 p.affY

/-- The point that 96 bytes name, when it lies on the curve. -/
def keyPoint (b : List Byte) : Option Point :=
  let x := ofLe (b.take 48)
  let y := ofLe ((b.drop 48).take 48)
  if x < fieldP ∧ y < fieldP ∧ (y * y + 3 * x) % fieldP = (x * x % fieldP * x + curveB) % fieldP then some ⟨x, y, 1⟩
  else none

/-- The public half of a key pair. -/
def publicOf (d : Nat) : Point := Point.base.times d

/-- Does the signature in 96 bytes, r then s (R383), verify for the message `m` under the key in `key`? -/
def verifies (key m sig : List Byte) : Bool :=
  let r := ofLe (sig.take 48)
  let s := ofLe ((sig.drop 48).take 48)
  match keyPoint key with
  | none => false
  | some q =>
    decide (0 < r ∧ r < orderN ∧ 0 < s ∧ s < orderN ∧ sig.length = 96 ∧ key.length = 96) &&
      worked (invMod s orderN) fun w =>
        let e := ofBe (sha384 m)
        let u := Point.combine Point.base q (Point.base.add q) (e * w % orderN) (r * w % orderN) 384 Point.zero
        decide (u.z ≠ 0) && decide (u.affX % orderN = r)

/-- The signature that the private key `d` makes of the message `m` with the secret number `k` of this signature. -/
def signWith (d k : Nat) (m : List Byte) : List Byte :=
  worked ((publicOf k).affX % orderN) fun r =>
    leBytes 48 r ++ leBytes 48 ((ofBe (sha384 m) + r * d) * invMod k orderN % orderN)

/-- The shared secret of ECDH: the 48 bytes of the x-coordinate, most significant first; none where the other side's key
is no point of the curve. -/
def sharedSecret (d : Nat) (key : List Byte) : Option (List Byte) :=
  (keyPoint key).map fun q => beBytes 48 (q.times d).affX

/-! ## AES-256 -/

/-- Twice an element of the byte field. -/
def xtime (a : Nat) : Nat := if a < 128 then 2 * a else (2 * a) ^^^ 0x11B

/-- A product in the byte field, over the low `n` bits of `b`. -/
def mulByte (a b : Nat) : Nat → Nat
  | 0 => 0
  | n + 1 => xtime (mulByte a (b / 2) n) ^^^ (if b % 2 = 1 then a else 0)

/-- The byte substitution as one number, entry `a` in bits 8a + 7 to 8a: the inverse in the byte field, then the affine
map of the cipher. -/
def subTable : Nat :=
  0x16bb54b00f2d99416842e6bf0d89a18cdf2855cee9871e9b948ed9691198f8e19e1dc186b95735610ef6034866b53e708a8bbd4b1f74dde8c6b4a61c2e2578ba08ae7a65eaf4566ca94ed58d6d37c8e779e4959162acd3c25c2406490a3a32e0db0b5ede14b8ee4688902a22dc4f816073195d643d7ea7c41744975fec130ccdd2f3ff1021dab6bcf5389d928f40a351a89f3c507f02f94585334d43fbaaefd0cf584c4a39becb6a5bb1fc20ed00d153842fe329b3d63b52a05a6e1b1a2c830975b227ebe28012079a059618c323c7041531d871f1e5a534ccf73f362693fdb7c072a49cafa2d4adf04759fa7dc982ca76abd7fe2b670130c56f6bf27b777c63

/-- The table of the inverse substitution. -/
def unsubTable : Nat :=
  0x7d0c2155631469e126d677ba7e042b17619953833cbbebc8b0f52aae4d3be0a0ef9cc9939f7ae52d0d4ab519a97f51605fec8027591012b131c7078833a8dd1ff45acd78fec0db9a2079d2c64b3e56fc1bbe18aa0e62b76f89c5291d711af1476edf751ce837f9e28535ade72274ac9673e6b4f0cecff297eadc674f4111913a6b8a130103bdafc1020f3fca8f1e2cd00645b3b80558e4f70ad3bc8c00abd890849d8da75746155edab9edfd5048706c92b6655dcc5ca4d41698688664f6f87225d18b6d49a25b76b224d92866a12e084ec3fa420b954cee3d23c2a632947b54cbe9dec444438e3487ff2f9b8239e37cfbd7f3819ea340bf38a53630d56a0952

def subByte (a : Nat) : Nat := (subTable >>> (8 * a)) % 256

def unsubByte (a : Nat) : Nat := (unsubTable >>> (8 * a)) % 256

/-- Word `i` of the key schedule from the eight words before it, newest first. -/
def nextKeyWord (i : Nat) (w : List (List Nat)) : List Nat :=
  let old := w.getD 7 []
  let t := w.getD 0 []
  let t := if i % 8 = 0 then
      let r := (t.drop 1 ++ t.take 1).map subByte
      (r.take 1).map (· ^^^ 2 ^ (i / 8 - 1)) ++ r.drop 1
    else if i % 8 = 4 then t.map subByte
    else t
  List.zipWith (· ^^^ ·) old t

/-- The key words from word `i` on, `n` of them, newest first on top of `w`. -/
def keyWords : Nat → Nat → List (List Nat) → List (List Nat)
  | 0, _, w => w
  | n + 1, i, w => keyWords n (i + 1) (nextKeyWord i w :: w)

/-- The 15 round keys of a 32-byte key, 16 bytes each. -/
def roundKeys (key : List Byte) : List (List Nat) :=
  let k := key.map BitVec.toNat
  let first := (List.range 8).map fun i => (k.drop (4 * i)).take 4
  let w := (keyWords 52 8 first.reverse).reverse
  (List.range 15).map fun r => ((w.drop (4 * r)).take 4).flatten

/-- Rows turned left by their number; byte 4c + r stands in row r of column c. -/
def shiftRows (s : List Nat) : List Nat := (List.range 16).map fun i => s.getD ((i + 4 * (i % 4)) % 16) 0

def unshiftRows (s : List Nat) : List Nat := (List.range 16).map fun i => s.getD ((i + 12 * (i % 4)) % 16) 0

/-- Each column times the circulant with the coefficients `c`. -/
def mixWith (c s : List Nat) : List Nat :=
  (List.range 16).map fun i =>
    (List.range 4).foldl (fun acc j => acc ^^^ mulByte (s.getD (i / 4 * 4 + j) 0) (c.getD ((j + 4 - i % 4) % 4) 0) 4) 0

def xorList (a b : List Nat) : List Nat := List.zipWith (· ^^^ ·) a b

/-- The rounds of encryption after the first key. -/
def aesRounds : List (List Nat) → List Nat → List Nat
  | [], s => s
  | [k], s => xorList k (shiftRows (s.map subByte))
  | k :: k2 :: ks, s => aesRounds (k2 :: ks) (xorList k (mixWith [2, 3, 1, 1] (shiftRows (s.map subByte))))

/-- AES-256 of one 16-byte block. -/
def aes (key blk : List Byte) : List Byte :=
  match roundKeys key with
  | [] => []
  | k :: ks => (aesRounds ks (xorList k (blk.map BitVec.toNat))).map (BitVec.ofNat 8)

/-- The rounds of decryption, the keys in falling order. -/
def unaesRounds : List (List Nat) → List Nat → List Nat
  | [], s => s
  | [k], s => xorList k s
  | k :: ks, s =>
    unaesRounds ks ((unshiftRows (match ks.length with
      | 14 => xorList k s
      | _ => mixWith [14, 11, 13, 9] (xorList k s))).map unsubByte)

/-- The inverse of AES-256 on one block. -/
def unaes (key blk : List Byte) : List Byte :=
  (unaesRounds (roundKeys key).reverse (blk.map BitVec.toNat)).map (BitVec.ofNat 8)

/-! ## GCM -/

/-- The product of the GCM field of 128 bits, the most significant bit first, over the low `n` bits. -/
def ghashMul (x : Nat) : Nat → Nat → Nat → Nat
  | 0, _, acc => acc
  | n + 1, v, acc =>
    worked (if x.testBit n then acc ^^^ v else acc) fun acc2 =>
    worked (if v % 2 = 1 then v / 2 ^^^ 0xE1 <<< 120 else v / 2) fun v2 => ghashMul x n v2 acc2

/-- Takes the blocks of a message into a hash under `h`, `n` blocks. -/
def ghashBlocks (h : Nat) : Nat → Nat → List Byte → Nat
  | 0, y, _ => y
  | n + 1, y, m =>
    worked (ofBe (m.take 16 ++ zeros (16 - (m.take 16).length))) fun b =>
    worked (ghashMul (y ^^^ b) 128 h 0) fun y2 => ghashBlocks h n y2 (m.drop 16)

/-- The counter mode: encrypts or decrypts `n` blocks from counter `c`. -/
def ctrMode (key nonce : List Byte) : Nat → Nat → List Byte → List Byte
  | 0, _, _ => []
  | n + 1, c, m =>
    List.zipWith (· ^^^ ·) (m.take 16) (aes key (nonce ++ beBytes 4 c)) ++ ctrMode key nonce n (c + 1) (m.drop 16)

/-- The tag over additional data and ciphertext. -/
def gcmTag (key nonce aad c : List Byte) : List Byte :=
  worked (ofBe (aes key (zeros 16))) fun h =>
  worked (ghashBlocks h ((aad.length + 15) / 16) 0 aad) fun y =>
  worked (ghashBlocks h ((c.length + 15) / 16) y c) fun y =>
  worked (y ^^^ ofBe (beBytes 8 (8 * aad.length) ++ beBytes 8 (8 * c.length))) fun x =>
  worked (ghashMul x 128 h 0) fun y =>
    List.zipWith (· ^^^ ·) (beBytes 16 y) (aes key (nonce ++ beBytes 4 1))

/-- AES-256-GCM: the ciphertext and its 16-byte tag, under a 12-byte nonce. -/
def gcmSeal (key nonce aad m : List Byte) : List Byte × List Byte :=
  let c := ctrMode key nonce ((m.length + 15) / 16) 2 m
  (c, gcmTag key nonce aad c)

/-- Opens a ciphertext: none where the tag fails. -/
def gcmOpen (key nonce aad c tag : List Byte) : Option (List Byte) :=
  if gcmTag key nonce aad c = tag then some (ctrMode key nonce ((c.length + 15) / 16) 2 c) else none

/-! ## XTS -/

/-- Block `n` of a data unit: its mask, `n` doublings of the encrypted tweak. -/
def xtsMask (t : Nat) : Nat → Nat
  | 0 => t
  | n + 1 =>
    let u := xtsMask t n
    if u.testBit 127 then (2 * u) % 2 ^ 128 ^^^ 0x87 else 2 * u

/-- AES-256-XTS on a 64-byte line with the given tweak number (R386); `f` is `aes` or `unaes`. -/
def xtsLine (f : List Byte → List Byte → List Byte) (key key2 : List Byte) (tweak : Nat) (m : List Byte) : List Byte :=
  let t := ofLe (aes key2 (leBytes 16 tweak))
  (List.range 4).flatMap fun i =>
    let mask := leBytes 16 (xtsMask t i)
    List.zipWith (· ^^^ ·) (f key (List.zipWith (· ^^^ ·) ((m.drop (16 * i)).take 16) mask)) mask

end Sys2Proof.Machine
end

