-- ==== Sys2Proof/Machine/Flit.lean ====
section
/-! DEFINITION. The bytes on a port's lanes: the flit of R127 with its header word (R128), its CRC-32C (R129), the control
flit types of R130, the form of R131, the message header of R154, and the RS(544,514) codewords of R126. -/

set_option Elab.async false

namespace Sys2Proof.Machine
open Sys2Proof

/-! ## The header word (R128) -/

/-- The fields of a flit header. -/
structure FlitWord where
  kind : Nat
  typ : Nat
  hdr : FlitHdr
  seq : Nat
  len : Nat
  resv : Nat
  deriving DecidableEq, Repr

/-- The 64-bit word that the fields make. -/
def FlitWord.num (f : FlitWord) : Nat :=
  pack [(f.kind, 62), (f.typ, 58), (b2n f.hdr.ackValid, 57), (f.hdr.crdClass, 55), (f.hdr.crdCount, 48),
    (f.hdr.ackSeq, 32), (f.seq, 16), (f.len, 8), (f.resv, 0)]

/-- The fields that a 64-bit word holds. -/
def flitWord (w : Nat) : FlitWord where
  kind := bitsOf w 63 62
  typ := bitsOf w 61 58
  hdr := ⟨bitOf w 57, bitsOf w 47 32, bitsOf w 56 55, bitsOf w 54 48⟩
  seq := bitsOf w 31 16
  len := bitsOf w 15 8
  resv := bitsOf w 7 0

/-! ## CRC-32C (R129) -/

/-- Divides `n` bits, least significant first, by the Castagnoli polynomial in reflected form. -/
def crcBits : Nat → Nat → Nat
  | 0, c => c
  | n + 1, c => worked (if c % 2 = 1 then c / 2 ^^^ 0x82F63B78 else c / 2) fun d => crcBits n d

/-- Takes bytes into the remainder. -/
def crcBytes (c : Nat) : List Byte → Nat
  | [] => c
  | b :: bs => worked (crcBits 8 (c ^^^ b.toNat)) fun d => crcBytes d bs

def crc32c (bs : List Byte) : Nat := crcBytes 0xFFFFFFFF bs ^^^ 0xFFFFFFFF

/-! ## The flit (R127) -/

def payloadBytes : Nat := 244

/-- The 256 bytes of a flit. -/
def flitBytes (f : FlitWord) (payload : List Byte) : List Byte :=
  let b := leBytes 8 f.num ++ (payload ++ zeros payloadBytes).take payloadBytes
  b ++ leBytes 4 (crc32c b)

/-- The header of a received flit. -/
def rawWord (r : RawFlit) : FlitWord := flitWord (ofLe (r.bytes.take 8))

/-- The payload of a received flit, as far as LEN uses it. -/
def rawPayload (r : RawFlit) : List Byte := ((r.bytes.drop 8).take payloadBytes).take (rawWord r).len

/-- The little-endian field of `n` bytes at an offset of the payload. -/
def rawField (r : RawFlit) (off n : Nat) : Nat := ofLe (((rawPayload r).drop off).take n)

/-- Is the flit bad: it overlaps an uncorrectable codeword (R126), or its CRC does not match (R129)? -/
def rawBad (r : RawFlit) : Bool :=
  decide (r.fecBad ≠ 0 ∨ r.bytes.length ≠ 256 ∨ ofLe (r.bytes.drop 252) ≠ crc32c (r.bytes.take 252))

/-! ## Control flits (R130) -/

def typIdle : Nat := 0
def typNak : Nat := 1
def typCreditSync : Nat := 2
def typTime : Nat := 3
def typTimeProbe : Nat := 4
def typTimeEcho : Nat := 5
def typLinkParam : Nat := 6
def typLaneSwap : Nat := 7

/-- The LEN of a control type; none for the reserved ones. -/
def ctlLen (typ : Nat) : Option Nat := [0, 2, 16, 16, 8, 24, 32, 2][typ]?

/-- Are all the bytes beyond LEN zero? -/
def rawTailZero (r : RawFlit) : Bool :=
  (((r.bytes.drop 8).take payloadBytes).drop (rawWord r).len).all fun b => decide (b = 0)

/-- Is a flit that passed its CRC well-formed, as far as R131 goes by its header and padding? -/
def rawFormed (r : RawFlit) : Bool :=
  let w := rawWord r
  decide (w.resv = 0) && rawTailZero r &&
    (if w.kind = 0 then decide (w.typ < 4 ∧ 1 ≤ w.len ∧ w.len ≤ payloadBytes)
     else decide (w.kind = 1 ∧ w.seq = 0 ∧ ctlLen w.typ = some w.len))

/-- The payload of a LANE_SWAP is one operation 0 or 1 and one lane 0 to 3. -/
def rawSwapFormed (r : RawFlit) : Bool := decide (rawField r 0 1 ≤ 1 ∧ rawField r 1 1 ≤ 3)

/-- The type and the payload of a control flit. -/
def Ctl.parts : Ctl → Nat × List Byte
  | .idle => (typIdle, [])
  | .nak q => (typNak, leBytes 2 q)
  | .creditSync t => (typCreditSync, (List.range 4).flatMap fun i => leBytes 4 (t.getD i 0))
  | .timeProbe id => (typTimeProbe, leBytes 8 id)
  | .timeEcho id t2 t3 => (typTimeEcho, leBytes 8 id ++ leBytes 8 t2 ++ leBytes 8 t3)
  | .linkParam q => (typLinkParam, leBytes 4 q.gen ++ leBytes 4 q.peerGen ++ leBytes 2 q.es ++ leBytes 1 q.portNum ++
      leBytes 1 q.mode ++ leBytes 2 q.width ++ leBytes 2 0 ++ ((List.range 4).flatMap fun i =>
        leBytes 2 (q.initCrd.getD i 0)) ++ leBytes 8 0)
  | .laneSwap op lane => (typLaneSwap, leBytes 1 op ++ leBytes 1 lane)

/-- The bytes of a control flit. -/
def ctlBytes (x : Ctl) (h : FlitHdr) : List Byte :=
  let p := x.parts
  flitBytes ⟨1, p.1, h, 0, p.2.length, 0⟩ p.2

/-- LINK_PARAM as a flit's payload holds it (R148). -/
def rawParam (r : RawFlit) (patternPort : Nat) : LinkParam where
  patternPort := patternPort
  gen := rawField r 0 4
  peerGen := rawField r 4 4
  es := rawField r 8 2
  portNum := rawField r 10 1
  mode := rawField r 11 1
  width := rawField r 12 2
  resv := rawField r 14 2 + rawField r 24 8
  initCrd := (List.range 4).map fun i => rawField r (16 + 2 * i) 2

/-! ## Messages in a data flit (R154) -/

/-- The header of a message that arrived on port `n` as journal index `mark.1` at ns `mark.2` of its epoch. An encrypted
message names its session in the four bytes behind the header (R399). -/
def parseHdr (n : Nat) (mark : Nat × Nat) (m : List Byte) : ReqHdr :=
  let f := fun off k => ofLe ((m.drop off).take k)
  let flags := BitVec.ofNat 8 (f 8 1)
  { port := n, dst := f 0 2, src := f 2 2, tag := f 4 2, msgLen := f 7 1, flags := flags, resv := BitVec.ofNat 8 (f 9 1),
    cktId := f 10 2, opData := BitVec.ofNat 32 (f 12 4), jidx := mark.1, atNs := mark.2,
    sess := if flags.getLsbD 2 then f 16 4 else 0 }

/-- The messages packed in a payload: none where a MSG_LEN is 0 or the lengths do not add up to it (R155). At most `k`
messages. -/
def splitMsgs : Nat → List Byte → Option (List (List Byte))
  | 0, b => if b = [] then some [] else none
  | k + 1, b =>
    if b = [] then some []
    else
      let n := 16 * ((b.drop 7).headD 0).toNat
      if n = 0 ∨ b.length < n then none
      else (splitMsgs k (b.drop n)).map fun ms => b.take n :: ms

/-- The message headers of a data flit. -/
def rawHeaders (r : RawFlit) (n : Nat) (marks : List (Nat × Nat)) : Option (List ReqHdr) :=
  (splitMsgs 15 (rawPayload r)).map fun ms => (List.range ms.length).map fun i =>
    parseHdr n (marks.getD i (0, 0)) (ms.getD i [])

/-- The 16 bytes of a message header. -/
def headerBytes (dst src tag opcode units flags resv cktId opData : Nat) : List Byte :=
  leBytes 2 dst ++ leBytes 2 src ++ leBytes 2 tag ++ leBytes 1 opcode ++ leBytes 1 units ++ leBytes 1 flags ++ leBytes 1 resv ++
    leBytes 2 cktId ++ leBytes 4 opData

/-- Bytes filled up with zeros to whole units of 16. -/
def padUnits (b : List Byte) : List Byte := b ++ zeros ((16 - b.length % 16) % 16)

/-- 16-byte units of a message, with the security block and the tag that an encrypted one is still to get (R154, R399). -/
def OutMsg.units (m : OutMsg) : Nat :=
  1 + (m.body.length + 15) / 16 + (if m.sess = 0 ∨ m.sealed = true then 0 else 2)

/-- FLAGS of a message sent: RT_VER, CKT and ENC (R399). -/
def OutMsg.flagBits (m : OutMsg) (version : Nat) (ckt : Bool) : Nat :=
  pack [(version % 2, 0), (b2n ckt, 1), (b2n m.sealed, 2)]

/-- The header of a message sent by fabric ID `src`, bound with route version `version`; `inWindow` tells whether it goes
in a circuit window (R170). That of a sealed message is fixed when it is sealed. [DESIGN CHOICE, log 166: unsafe] -/
def OutMsg.header (m : OutMsg) (src version : Nat) (inWindow : Bool) : List Byte :=
  let ckt := if m.sealed then m.ckt.isSome else inWindow
  headerBytes m.dst src m.tag m.opcode m.units (m.flagBits version ckt) 0 (if ckt then m.ckt.getD 0 else 0) m.opData

/-- The bytes of a message. -/
def OutMsg.bytes (m : OutMsg) (src version : Nat) (inWindow : Bool) : List Byte :=
  m.header src version inWindow ++ padUnits m.body

/-! ## Encrypted messages (R399) -/

/-- The 12-byte nonce of a message. -/
def sessNonce (sid seq : Nat) : List Byte := leBytes 4 sid ++ leBytes 8 seq

/-- The security block, which is also the head of an envelope (R406). -/
def securityBlock (sid resv seq : Nat) : List Byte := leBytes 4 sid ++ leBytes 4 resv ++ leBytes 8 seq

/-- A message with its body encrypted under a session's K_PH: the security block, the ciphertext and the tag. The
additional data is the header as sent and the security block. -/
def OutMsg.seal (m : OutMsg) (x : Session) (src version : Nat) : OutMsg :=
  let block := securityBlock x.id 0 x.sendSeq
  let aad := (({ m with sealed := true, body := block ++ padUnits m.body ++ zeros 16 } : OutMsg).header src version false) ++ block
  let (c, tag) := gcmSeal x.keyPh (sessNonce x.id x.sendSeq) aad (padUnits m.body)
  { m with sealed := true, body := block ++ c ++ tag }

/-! ## Codewords (R126) -/

/-- Twice a symbol, modulo x^10 + x^3 + 1. [PRESUMED, log 152: unsafe] -/
def symDouble (a : Nat) : Nat := if a < 512 then 2 * a else (2 * a) ^^^ 0x409

/-- A product of symbols, over the low `n` bits of `b`. -/
def symMul (a b : Nat) : Nat → Nat
  | 0 => 0
  | n + 1 => symDouble (symMul a (b / 2) n) ^^^ (if b % 2 = 1 then a else 0)

/-- The product of (x - alpha^j) for j below `n`, highest power first without the leading 1; `root` is alpha^0. -/
def rsGenerator : Nat → List Nat × Nat
  | 0 => ([], 1)
  | n + 1 =>
    let (g, root) := rsGenerator n
    let low := (1 :: g).map fun c => symMul c root 10
    (List.zipWith (· ^^^ ·) (g ++ [0]) low, symDouble root)

/-- Takes one message symbol into the 30 parity symbols, highest power first. -/
def rsStep (g parity : List Nat) (m : Nat) : List Nat :=
  worked (m ^^^ parity.headD 0) fun f => List.zipWith (fun p c => p ^^^ symMul f c 10) (parity.drop 1 ++ [0]) g

/-- The 544 symbols of the codeword of 5,140 message bits, in the order sent. [PRESUMED, log 152: unsafe] -/
def codeword (bits : Nat) : List Nat :=
  let msg := (List.range 514).map fun i => (bits >>> (10 * i)) % 1024
  let g := (rsGenerator 30).1
  msg ++ msg.foldl (rsStep g) (List.replicate 30 0)

/-- The symbols that data lane `lane` of `w` sends. -/
def laneSymbols (code : List Nat) (w lane : Nat) : List Nat :=
  ((List.range code.length).filter fun i => decide (i % w = lane)).map fun i => code.getD i 0

/-- One flit joins the continuous bit stream of a port; each 5,140 bits make the next codeword. -/
def Port.stream (p : Port) (bytes : List Byte) : Port :=
  let v := p.bits + ofLe bytes <<< p.bitCount
  let n := p.bitCount + 2048
  if n < 5140 then { p with lastFlit := bytes, bits := v, bitCount := n }
  else { p with lastFlit := bytes, bits := v >>> 5140, bitCount := n - 5140, code := codeword (v % 2 ^ 5140) }

end Sys2Proof.Machine
end

