-- ==== Sys2Proof/Machine/Layout.lean ====
section
/-! DEFINITION. The status words that the service link reads (R61, R86, R91, R99, R152, R159, R164, R350, R351, R355,
R420), as their field maps lay them out, and the image on a flash device. -/

set_option Elab.async false

namespace Sys2Proof.Machine
open Sys2Proof

/-! ## Images as the flash devices hold them (R62, R100, R101) -/

/-- `n` bytes from offset `off` of a device; an erased byte reads as 0xFF. [PRESUMED, log 164: unsafe] -/
def flashRead (f : List Byte) (off n : Nat) : List Byte :=
  let b := (f.drop off).take n
  b ++ List.replicate (n - b.length) 0xFF

/-- A little-endian field of the image on a device. -/
def imageField (f : List Byte) (off n : Nat) : Nat := ofLe (flashRead f off n)

def imageHeader (f : List Byte) : List Byte := flashRead f 0 2048

def imageVersion (f : List Byte) : Nat := imageField f 8 4

def imageSecVersion (f : List Byte) : Nat := imageField f 12 4

/-- The image on flash device 0 (A) or 1 (B). -/
def State.flash (s : State) (b : Bool) : List Byte := if b then s.boot.flashB else s.boot.flashA

/-- The running image, or the one chosen. -/
def State.runImage (s : State) : List Byte := s.flash s.boot.runB

/-- An entry of the section table (R101), every byte of it. -/
structure Section where
  typ : Nat
  resv : Nat
  offset : Nat
  length : Nat
  resv2 : Nat
  digest : List Byte
  deriving DecidableEq, Repr

/-- Entry `i` of the section table. -/
def sectionAt (f : List Byte) (i : Nat) : Section :=
  let g := fun off n => imageField f (72 + 64 * i + off) n
  ⟨g 0 2, g 2 2, g 4 4, g 8 4, g 12 4, flashRead f (72 + 64 * i + 16) 48⟩

/-- The entries in use. -/
def imageSections (f : List Byte) : List Section := (List.range 6).map (sectionAt f)

/-- The section of a type. -/
def sectionOf (f : List Byte) (t : Nat) : Option Section := (imageSections f).find? fun x => decide (x.typ = t)

/-! ## Status words -/

/-- BOOT_STATUS (R99). -/
def bootStatus (s : State) : Nat :=
  pack [(s.boot.stage, 28), (b2n s.boot.runB, 27), (b2n s.boot.fallback, 26), (b2n s.boot.aOk, 25),
    (b2n s.boot.bOk, 24), (s.boot.lc, 22), (b2n (s.tok.active = some dieCdB), 21), (s.boot.cause, 0)]

/-- STRAP_LATCH (R61). -/
def strapLatch (s : State) : Nat := pack [(s.boot.setIndex.toNat, 3), (s.boot.oscDly.toNat, 0)]

/-- The number of a time state (R86). -/
def TimeState.num : TimeState → Nat
  | .start => 0
  | .locked => 1
  | .holdover => 2
  | .lost => 3

/-- An offset as 16 bits of two's complement, saturating at 32,767 either way (R86). -/
def offset16 (o : Int) : Nat := ((max (-32767) (min 32767 o)) % 65536).toNat

/-- TIME_STATUS (R86). -/
def timeStatus (s : State) : Nat :=
  pack [(s.clk.tstate.num, 30), (s.clk.source.getD 0, 24), (b2n s.clk.source.isSome, 23), (b2n (!s.clk.xaFlag), 22),
    (b2n (!s.clk.xbFlag), 21), (min s.clk.hops 15, 16), (offset16 s.clk.offset, 0)]

/-- MON_READING (R91). -/
def monWord (m : Monitor) : Nat := pack [(b2n m.valid, 31), (b2n m.fault, 30), (b2n m.isOver, 29), (m.value.toNat, 0)]

def State.mon (s : State) (i : Nat) : Monitor := Tab.get Monitor.empty s.power.monitors i

def PortState.num : PortState → Nat
  | .down => 0
  | .training => 1
  | .up => 2
  | .swap => 3
  | .fault => 4

/-- Outstanding data flits: sent and not yet acknowledged (R133). -/
def Port.outstanding (p : Port) : Nat := (p.next + 65536 - p.oldest) % 65536

/-- PORT_STATUS (R152). -/
def portStatus (p : Port) : Nat :=
  pack [(p.st.num, 29), (b2n p.x2, 28), (b2n p.timeoutMode, 27), (b2n p.spareFor.isSome, 26),
    (p.spareFor.getD 0, 24), (p.badLanes.toNat, 19), (b2n p.fresh, 18), (p.outstanding, 0)]

/-- Which RSL port carries event frames (R423). -/
def State.eventPort (s : State) : Nat :=
  let p := s.cfgAt fEvPrimary
  if s.portUp (64 + p) then p else 1 - p

/-- RSL_STATUS (R420) of RSL port `r`. -/
def rslStatus (s : State) (r : Nat) : Nat :=
  let p := s.port (64 + r)
  let st := match p.st with
    | .training => 1
    | .up => 2
    | .swap => 2
    | .down => 0
    | .fault => 0
  pack [(st, 30), (p.badLanes.toNat % 4, 28), (b2n (st = 2 ∧ s.eventPort = r), 27), (b2n p.fresh, 26),
    (p.outstanding, 0)]

def RouteState.num : RouteState → Nat
  | .free => 0
  | .loading => 1
  | .pending => 2
  | .current => 3
  | .draining => 4

/-- ROUTE_STATUS (R159). -/
def routeStatus (s : State) : Nat :=
  pack [(s.fab.rst1.num, 61), (s.fab.rst0.num, 58), (s.fab.inflight1, 24), (s.fab.inflight0, 0)]

/-- GATE_WINDOW of one slot (R164). -/
def gateWindow (p : Port) (slot : Nat) : Nat :=
  match p.windows[slot]? with
  | some w => pack [(1, 63), (w.ckt, 48), (w.lenNs, 16), (w.startNs, 0)]
  | none => 0

def TenderState.num : TenderState → Nat
  | .absent => 0
  | .resetting => 1
  | .resync => 2
  | .synced => 3
  | .paired => 4
  | .held => 5

/-- TWIN_STATUS (R355). -/
def twinStatus (s : State) : Nat :=
  pack [(b2n (s.tok.active = some dieCdB), 63), (s.twin.tender.num, 60), (s.twin.lastCause, 57),
    (min s.twin.autoResets 15, 44), (min s.twin.switchovers 4095, 32), (s.twin.ackEpoch % two32, 0)]

/-! ## Stacks and the degradation ladder -/

def State.stack (s : State) (n : Nat) : Stack := Tab.get Stack.empty s.mem.stackTab n

def State.setStack (s : State) (n : Nat) (x : Stack) : State :=
  { s with mem := { s.mem with stackTab := Tab.set Stack.empty s.mem.stackTab n x } }

def State.channel (s : State) (c : Nat) : Channel := Tab.get Channel.empty s.mem.channels c

def State.setChannel (s : State) (c : Nat) (x : Channel) : State :=
  { s with mem := { s.mem with channels := Tab.set Channel.empty s.mem.channels c x } }

/-- Is a hub lost: its rail open or its loop faulted (R30, R55, R77)? -/
def State.hubGone (s : State) (hub : Nat) : Bool := Tab.get false s.tok.hubLost hub

def StackState.num : StackState → Nat
  | .inUse => 0
  | .migrating => 1
  | .out => 2
  | .failed => 3

/-- The physical page that now holds page `ppn` (R24, R339). -/
def State.phys (s : State) (ppn : Nat) : Nat := (Tab.get none s.mem.remap ppn).getD ppn

/-- The page whose remap entry leads to physical page `ppn`. -/
def State.logical (s : State) (ppn : Nat) : Nat :=
  match s.mem.remap.find? fun e => decide (e.2 = some ppn) with
  | some e => e.1
  | none => ppn

/-- Does page `ppn`, before remap, belong to an allocated extent or to the pantry? -/
def State.inUse (s : State) (ppn : Nat) : Bool :=
  isPantry ppn || s.pool.exts.any fun e => decide (e.2.base ≤ ppn ∧ ppn < e.2.base + e.2.localGran * 32)

/-- Pages of the stack that belong to an allocated extent or to the pantry, still on the stack (R346). -/
def State.pagesPlaced (s : State) (n : Nat) : Nat :=
  let pos := stackPos n
  let ext := sumOf (s.pool.exts.map fun e => pagesOnStack e.2.base (e.2.localGran * 32) pos)
  let moved := s.mem.remap.filter fun e => s.inUse e.1
  let gone := (moved.filter fun e => decide (stackOf e.1 = n ∧ e.2.map stackOf ≠ some n)).length
  let come := (moved.filter fun e => decide (stackOf e.1 ≠ n ∧ e.2.map stackOf = some n)).length
  ext + 16384 + come - gone

/-- Spare pages free on a stack (R351). -/
def State.spareLeft (s : State) (n : Nat) : Nat := 65536 - (s.stack n).spareUsed

/-- Spare pins in use on a stack. -/
def State.pinsSpared (s : State) (n : Nat) : Nat :=
  sumOf ((List.range 32).map fun c => (s.channel (n * 32 + c)).spared)

/-- STACK_STATUS (R351). -/
def stackStatus (s : State) (n : Nat) : Nat :=
  let k := s.stack n
  let left := if k.st = .migrating then s.pagesPlaced n else 0
  pack [(k.st.num, 62), (b2n k.degraded, 61), (s.pinsSpared n, 52), (min k.ovf 2047, 41), (s.spareLeft n, 24),
    (left, 3)]

/-- Ports of the fabric at x2 (R350). -/
def State.portsX2 (s : State) : Nat :=
  ((List.range 64).filter fun p => s.portUp p && (s.port p).x2).length

/-- The arithmetic clock step: 0 1.3 GHz, 1 1.0 GHz, 2 0.65 GHz (R350). -/
def State.arithStep (s : State) : Nat :=
  let d := Tab.get Part.empty s.power.parts s.actDie
  let thermal := if 2 ≤ d.level then 2 else d.level
  max s.power.arithPwr thermal

/-- The lane groups withdrawn on the active die (R265). -/
def State.groupBad (s : State) : Tab Bool := if s.actDie = dieCdB then s.stock.groupBadB else s.stock.groupBadA

/-- Lane groups out of use on the active die beyond its 8 spares (R343, R350). -/
def State.groupsLost (s : State) : Nat := s.groupBad.length - 8

/-- One bit per stack for which `f` holds. -/
def stackMask (s : State) (f : Stack → Bool) : Nat :=
  sumOf ((List.range 12).map fun n => if f (s.stack n) then 2 ^ n else 0)

/-- DEGRADE_STATUS (R350), with LEVEL as given. -/
def degradeWordOf (s : State) (level : Nat) : Nat :=
  pack [(level, 62), (s.portsX2, 55), (s.arithStep, 53), (stackMask s fun k => decide (k.st ≠ .inUse), 41),
    (stackMask s fun k => decide (k.st = .failed), 29), (b2n (s.hubGone 0), 27), (b2n (s.hubGone 1), 28),
    (s.groupsLost, 18)]

/-- The level that the conditions of R349 give. -/
def State.levelNow (s : State) : Nat :=
  let out := ((List.range 12).filter fun n => decide ((s.stack n).st ≠ .inUse)).length
  if 2 ≤ out ∨ s.hubGone 0 ∨ s.hubGone 1 ∨ 8 < s.groupsLost then 3
  else if out = 1 ∨ s.arithStep = 2 then 2
  else if 0 < s.portsX2 ∨ s.arithStep = 1 ∨ 0 < s.groupsLost then 1
  else 0

/-- DEGRADE_STATUS as it stands (R350). -/
def degradeStatus (s : State) : Nat := degradeWordOf s s.mem.level

end Sys2Proof.Machine
end

