-- ==== Sys2Proof/Machine/MemOps.lean ====
section
/-! DEFINITION. What a hub does with a line: the symbol code of R318, reads and writes of R320 to R325, the counts of
R335, errors of R328 and R329, the page-valid bitmap of R323, retirement and moves of R341 and R342. -/

set_option Elab.async false

namespace Sys2Proof.Machine
open Sys2Proof

/-! ## The Reed-Solomon code over GF(2^8) (R318) -/

/-- Times alpha = 0x02, modulo x^8 + x^4 + x^3 + x^2 + 1. -/
def gfDouble (a : Byte) : Byte := if a.msb then (a <<< 1) ^^^ 0x1D#8 else a <<< 1

/-- Times alpha^n. -/
def gfTimesAlpha : Nat → Byte → Byte
  | 0, a => a
  | n + 1, a => gfTimesAlpha n (gfDouble a)

/-- The value at alpha^i of the polynomial whose coefficients, highest power first, are the bytes. -/
def gfEval (i : Nat) (bs : List Byte) : Byte := bs.foldl (fun acc b => gfTimesAlpha i acc ^^^ b) 0

/-- The five syndromes of a received word or of an error pattern. -/
def syndromes (bs : List Byte) : List Byte := (List.range 5).map fun i => gfEval i bs

/-- The 72-byte error pattern that a list of (stored byte, bits) spells. -/
def errBytes (err : Err) : List Byte :=
  (List.range 72).map fun j => (err.filter fun e => decide (e.1 = j)).foldl (fun acc e => acc ^^^ e.2) 0

/-- The single symbol whose error of value `s0` gives the syndromes, if any. -/
def locate (syn : List Byte) : Option Nat :=
  let s0 := syn.headD 0
  if s0 = 0 then none
  else (List.range 72).find? fun j =>
    decide (syn = (List.range 5).map fun i => gfTimesAlpha (i * (71 - j)) s0)

/-- What the decoder makes of a stored line: the symbol it corrected, whether the line is uncorrectable, and what is
left wrong in the word it uses (nothing, unless five symbols or more were in error). -/
structure Decoded where
  sym : Option Nat
  bad : Bool
  resid : List Byte
  deriving DecidableEq, Repr

/-- Are the reserved META bits, bits 23 to 12, wrong (R320)? -/
def reservedBad (resid : List Byte) : Bool :=
  decide ((resid.getD 65 0).toNat / 16 ≠ 0 ∨ resid.getD 66 0 ≠ 0)

/-- Decodes a stored line that carries this error pattern (R318, R320). [DEDUCED, log 8: unsafe] -/
def decodeLine (err : Err) : Decoded :=
  let e := errBytes err
  let syn := syndromes e
  if syn.all fun x => decide (x = 0) then ⟨none, reservedBad e, e⟩
  else match locate syn with
    | none => ⟨none, true, e⟩
    | some j =>
      let r := e.set j (e.getD j 0 ^^^ syn.headD 0)
      ⟨some j, reservedBad r, r⟩

/-! ## Stored bytes -/

/-- Byte `i` of a line. -/
def lineByte (l : Line) (i : Nat) : Byte := BitVec.ofNat 8 (l.toNat / 256 ^ i)

/-- The bytes of a line. -/
def lineBytes (l : Line) : List Byte := leBytes 64 l.toNat

/-- The line that 64 bytes spell. -/
def lineOf (bs : List Byte) : Line := BitVec.ofNat 512 (ofLe (bs.take 64))

/-- One byte of memory, as a hub's stack holds it. [PRESUMED, log 9: unsafe] -/
def readByte (mem : List Host.Cell) (a : Nat) : Byte := Tab.get 0 mem a

/-- Writes one byte of memory. -/
def writeByte (mem : List Host.Cell) (a : Nat) (b : Byte) : List Host.Cell := Tab.set 0 mem a b

/-- Writes bytes at successive addresses. -/
def writeBytes : List Host.Cell → Nat → List Byte → List Host.Cell
  | mem, _, [] => mem
  | mem, a, b :: bs => writeBytes (writeByte mem a b) (a + 1) bs

/-- `n` bytes from address `a`. -/
def readBytes (mem : List Host.Cell) (a n : Nat) : List Byte := (List.range n).map fun i => readByte mem (a + i)

/-- The byte address of line `line` of physical page `ppn` (R22). -/
def lineAddr (ppn line : Nat) : Nat := 65536 * ppn + 64 * line

def lineKey (ppn line : Nat) : Nat := 1024 * ppn + line

/-- The data bytes stored at a line. -/
def storedLine (mem : List Host.Cell) (ppn line : Nat) : Line := lineOf (readBytes mem (lineAddr ppn line) 64)

/-- Puts a line's data bytes in store. -/
def storeLine (mem : List Host.Cell) (ppn line : Nat) (d : Line) : List Host.Cell :=
  writeBytes mem (lineAddr ppn line) (lineBytes d)

/-- The bytes of `new` where the mask is set, of `old` elsewhere. -/
def mergeLine (mask : BitVec 64) (new old : Line) : Line :=
  lineOf ((List.range 64).map fun i => if mask.getLsbD i then lineByte new i else lineByte old i)

def fullMask : BitVec 64 := BitVec.allOnes 64

def State.lineMeta (s : State) (ppn line : Nat) : LineMeta := Tab.get LineMeta.empty s.mem.lines (lineKey ppn line)

def State.setMeta (s : State) (ppn line : Nat) (m : LineMeta) : State :=
  { s with mem := { s.mem with lines := Tab.set LineMeta.empty s.mem.lines (lineKey ppn line) m } }

/-! ## The page-valid bitmap and the open-page table (R321, R323) -/

/-- Is the page's bit 1? -/
def State.pageValid (s : State) (ppn : Nat) : Bool := !s.mem.closed.has ppn

/-- Has a line of a page whose bit is 0 been written since the page was opened? -/
def State.opened (s : State) (ppn line : Nat) : Bool := decide (line ∈ Tab.get [] s.mem.openPages ppn)

/-- Does the line read as zeros without a stack access (R321, first case)? -/
def State.readsClosed (s : State) (ppn line : Nat) : Bool := !s.pageValid ppn && !s.opened ppn line

/-- Logical wipe of pages: bits to 0, open entries dropped, counts zeroed (R189, R323, R335). -/
def State.wipePages (s : State) (ppn n : Nat) : State :=
  ({ s with mem := { s.mem with
      closed := s.mem.closed.add ppn n
      openPages := Tab.eraseRange s.mem.openPages ppn (ppn + n)
      counts := Tab.eraseRange s.mem.counts ppn (ppn + n) } }).logChange 0x0006 ppn 32 none

/-- Physical overwrite of pages: every line zero data, VALID 0, and the bit 1 (R323, R330). -/
def State.overwritePages (s : State) (ppn n : Nat) : State :=
  ({ s with mem := { s.mem with
      closed := s.mem.closed.remove ppn n
      openPages := Tab.eraseRange s.mem.openPages ppn (ppn + n)
      cells := Tab.eraseRange s.mem.cells (65536 * ppn) (65536 * (ppn + n))
      lines := Tab.eraseRange s.mem.lines (1024 * ppn) (1024 * (ppn + n)) } }).logChange 0x0006 ppn 32 none

/-- How many open-page entries a hub holds. -/
def State.openCount (s : State) (hub : Nat) : Nat := (s.mem.openPages.filter fun e => decide (hubOf e.1 = hub)).length

/-- Must a write to this page wait for an open-page entry (R323)? -/
def State.openFull (s : State) (ppn : Nat) : Bool :=
  !s.pageValid ppn && !(s.mem.openPages.any fun e => decide (e.1 = ppn)) && decide (16384 ≤ s.openCount (hubOf ppn))

/-! ## Access counts (R335) -/

/-- Adds reads and writes to a page's counts, saturating. -/
def State.countAccess (s : State) (ppn r w : Nat) : State :=
  let c := Tab.get (0, 0) s.mem.counts ppn
  let c' := (min (c.1 + r) 65535, min (c.2 + w) 65535)
  { s with mem := { s.mem with counts := Tab.set (0, 0) s.mem.counts ppn c' } }

/-- Reads plus writes of a page (R336). -/
def State.heat (s : State) (ppn : Nat) : Nat :=
  let c := Tab.get (0, 0) s.mem.counts ppn
  c.1 + c.2

def State.coldPage (s : State) (ppn : Nat) : Bool := decide (s.heat ppn < s.cfgAt fColdLines)

/-- The sum of access counts of a stack's pages. -/
def State.stackHeat (s : State) (n : Nat) : Nat :=
  sumOf ((s.mem.counts.filter fun e => decide (stackOf e.1 = n)).map fun e => e.2.1 + e.2.2)

/-! ## Degrade, spares and retirement (R340, R342, R345, R346) -/

/-- EV_STACK_STATE for stack `n`. -/
def State.raiseStack (s : State) (n : Nat) : State :=
  s.raise 0x0609 sevWarning (odDie (hubOfStack n)) (leBytes 1 n ++ leBytes 8 (stackStatus s n))

/-- Is some stack MIGRATING with its migration under way? -/
def State.migrating (s : State) : Bool :=
  (List.range 12).any fun n => decide ((s.stack n).st = .migrating) && !(s.stack n).queuedMigration

/-- Takes a stack out of the interleave: MIGRATING, behind a migration already under way (R345, R348). -/
def State.startMigration (s : State) (n : Nat) : State :=
  (s.setStack n { s.stack n with st := .migrating, queuedMigration := s.migrating }).raiseStack n

/-- A degrade condition of R346 is met. [DEDUCED, log 108: unsafe] -/
def State.degradeStack (s : State) (n : Nat) : State :=
  if (s.stack n).st = .inUse then
    let s := s.setStack n { s.stack n with degraded := true }
    if s.cfgAt fAutoRemove = 1 then s.startMigration n else s.raiseStack n
  else s

/-- Takes the next spare page of a stack; EV_SPARE_LOW and the degrade condition when fewer than 4,096 are left. -/
def State.takeSpare (s : State) (n : Nat) : State :=
  let s := s.setStack n { s.stack n with spareUsed := (s.stack n).spareUsed + 1 }
  if s.spareLeft n < 4096 ∧ (s.stack n).lowWarned = false then
    let s := s.setStack n { s.stack n with lowWarned := true }
    (s.raise 0x0606 sevWarning s.actDie (leBytes 1 n ++ leBytes 4 (s.spareLeft n))).degradeStack n
  else s

/-- The next free spare page of a stack: spare pages are taken in ascending page within stack (R22). -/
def State.nextSpare (s : State) (n : Nat) : Nat := ppnAt n (1228800 + (s.stack n).spareUsed)

/-- IN stacks with a spare page left, in STACK_ORDER. -/
def State.spareStacks (s : State) (keep : Nat) : List Nat :=
  ((List.range 12).map stackOrder).filter fun n => decide ((s.stack n).st = .inUse ∧ keep < s.spareLeft n)

/-- The first stack of least value in a list. -/
def leastBy (f : Nat → Nat) : List Nat → Option Nat
  | [] => none
  | n :: ns => match leastBy f ns with
    | some m => if f m < f n then some m else some n
    | none => some n

/-- The stack whose spare page replaces page `ppn`; of stacks that tie for the lowest count, the first in STACK_ORDER
(R342). [DESIGN CHOICE, log 183: unsafe] -/
def State.retireTarget (s : State) (ppn : Nat) : Option Nat :=
  let own := stackOf ppn
  if s.coldPage ppn ∧ (s.stack own).st = .inUse ∧ 0 < s.spareLeft own then some own
  else leastBy s.stackHeat (s.spareStacks 0)

def remapLimit : Nat := 2097152

/-- Marks page `ppn` MOVING to `target` (R341, R362). -/
def State.markMoving (s : State) (ppn target : Nat) (retire : Bool) : State :=
  ({ s with mem := { s.mem with moving := Tab.set none s.mem.moving ppn (some ⟨target, false, retire⟩) } }).logChange
    0x0005 ppn 16 none

/-- Starts the retirement of physical page `ppn` (R342); with no spare or no remap entry it waits (R433). -/
def State.retirePage (s : State) (ppn : Nat) : State :=
  if Tab.get none s.mem.moving ppn ≠ none ∨ Tab.get false s.mem.retired ppn = true ∨ ppn ∈ s.mem.retireWaiting then s
  else match s.retireTarget ppn with
    | none => { s with mem := { s.mem with retireWaiting := s.mem.retireWaiting ++ [ppn] } }
    | some n =>
      if remapLimit ≤ s.mem.remap.length ∧ Tab.get none s.mem.remap (s.logical ppn) = none then
        { s with mem := { s.mem with retireWaiting := s.mem.retireWaiting ++ [ppn] } }
      else
        let target := s.nextSpare n
        (s.takeSpare n).markMoving ppn target true

/-! ## Errors (R325, R328, R329) -/

/-- The pin with the most corrected symbols, and how many; `tie` settles which of those that tie.
[DESIGN CHOICE, log 31: safe] -/
def topPin (pins : Tab Nat) (tie : Nat) : Nat × Nat :=
  let most := pins.foldl (fun n e => max n e.2) 0
  let those := pins.filter fun e => decide (e.2 = most)
  (those[tie % those.length]?).getD (0, 0)

/-- Where the number of the spared pins of a channel must stay (R338). -/
def sparePins : Nat := 2

/-- A correctable error on symbol `sym` of channel `ch` (R328, R340). [DEDUCED, log 113: unsafe] -/
def State.countCe (s : State) (ch sym : Nat) : State :=
  let s := s.bump 8 ch 0 1
  let c := s.channel ch
  let pins := Tab.set 0 c.pins sym (Tab.get 0 c.pins sym + 1)
  let depth := s.cfgAt fCeBucket
  if c.bucket + 1 ≤ depth then s.setChannel ch { c with bucket := c.bucket + 1, pins := pins }
  else
    let top := topPin pins (Config.tiePin ch (s.ctr 8 ch 2))
    let total := sumOf (pins.map (·.2))
    let heavy := decide (3 * total ≤ 4 * top.2)
    let n := ch / 32
    -- a pin due for repair takes one of the spare pins
    let used := c.spared + c.repair.length
    let worn := heavy && !c.repair.contains top.1
    let repair := if worn ∧ used < sparePins then c.repair ++ [top.1] else c.repair
    let s := s.setChannel ch
      { c with bucket := depth / 2, pins := [], repair := repair, needPass := true }
    let s := (s.raise 0x0602 sevNotice (odDie (hubOfStack n)) (leBytes 2 ch ++ leBytes 1 top.1)).bump 8 ch 2 1
    let s := s.setStack n { s.stack n with ovf := (s.stack n).ovf + 1 }
    if s.cfgAt fDegradeOvf ≤ (s.stack n).ovf ∨ (worn ∧ sparePins ≤ used) then s.degradeStack n else s

/-- Logs a correctable error of a privileged line (R329). -/
def State.logCe (s : State) (e : CeEntry) : State :=
  if 64 ≤ s.mem.ceLog.length then s.bump 10 0 13 1
  else
    let s := ({ s with mem := { s.mem with ceLog := s.mem.ceLog ++ [e] } }).logChange 0x000E s.mem.ceLog.length 32 none
    let n := s.mem.ceLog.length
    if n = 48 ∨ n = 64 then s.raise 0x0603 sevNotice s.actDie (leBytes 1 n) else s

/-- The hub finds a line uncorrectable: it is rewritten with POISON 1, counted, reported, and its page retired (R325). -/
def State.lineLost (s : State) (ppn line : Nat) : State :=
  let m := s.lineMeta ppn line
  let s := (s.setMeta ppn line { m with valid := true, poison := true }).bump 8 (channelOf ppn line) 1 1
  (s.raise 0x0601 sevWarning (odDie (hubOf ppn)) (leBytes 3 ppn ++ leBytes 2 line)).retirePage ppn

/-! ## Reading a line (R320, R321, R324) -/

/-- Who reads: a foreground access, the translation walker, or the ladle. -/
inductive Reader where
  | front | walker | ladle
  deriving DecidableEq, Repr

/-- What a hub's read answers: data with directory bits, or POISON; `lost` when this read found the line
uncorrectable. -/
structure ReadAns where
  poison : Bool
  lost : Bool
  data : Line
  dir : BitVec 10
  deriving DecidableEq, Repr

def zeroAns : ReadAns := ⟨false, false, 0, 0⟩
def poisonAns : ReadAns := ⟨true, false, 0, 0⟩

/-- A page before remap seen as the line its physical page holds. -/
def State.pline (s : State) (l : Nat) : Nat := lineKey (s.phys (l / 1024)) (l % 1024)

def State.writeWaits (s : State) (ppn line : Nat) : Bool :=
  (s.mem.hubQueue0 ++ s.mem.hubQueue1).any fun w => match w with
    | .store _ _ p _ _ _ => decide (s.pline p = lineKey ppn line)
    | .home _ p _ _ => decide (s.pline p = lineKey ppn line)
    | .atomic _ _ p _ _ _ => decide (s.pline p = lineKey ppn line)

/-- Is a stack unable to serve: FAILED, or its hub lost (R196)? -/
def State.stackDown (s : State) (n : Nat) : Bool := decide ((s.stack n).st = .failed) || s.hubGone (hubOfStack n)

/-- Reads line `line` of physical page `ppn`, whose stored word carries the error pattern `err`. `dirRead`: a directory
read of a bound extent's line, on which DIR STATE 3 is an error (R212, R320). -/
def State.hubRead (s : State) (ppn line : Nat) (err : Err) (who : Reader) (dirRead : Bool) : State × ReadAns :=
  if s.stackDown (stackOf ppn) then (s, poisonAns)
  else
    let s := if who = .ladle then s else s.countAccess ppn 1 0
    if s.readsClosed ppn line then (s, zeroAns)
    else
      let d := decodeLine err
      let m := s.lineMeta ppn line
      let r64 := (d.resid.getD 64 0).toNat
      let r65 := (d.resid.getD 65 0).toNat
      let valid := xor m.valid (bitOf r64 0)
      let poison := xor m.poison (bitOf r64 1)
      let dir := m.dir ^^^ BitVec.ofNat 10 (r64 / 4 + r65 % 16 * 64)
      if d.bad ∨ (dirRead ∧ valid ∧ dir.toNat / 256 = 3) then (s.lineLost ppn line, { poisonAns with lost := true })
      else
        let s := match d.sym with
          | none => s
          | some j =>
            let s := s.countCe (channelOf ppn line) j
            let s := if s.writeWaits ppn line then s.bump 9 (stackOf ppn) 1 1 else s
            let l := s.logical ppn
            if isPantry l then s.logCe ⟨s.epoch, l, line, j, 0, if who = .ladle then 1 else 0⟩
            else if who = .walker then s.logCe ⟨s.epoch, ppn, line, j, 1, 0⟩
            else s
        if !valid then (s, zeroAns)
        else if poison then (s, poisonAns)
        else if (d.resid.take 64).all fun b => decide (b = 0) then
          (s, ⟨false, false, storedLine s.mem.cells ppn line, dir⟩)
        else
          ({ s with fresh := s.fresh + 1 }, ⟨false, false, Config.miscorrected s.fresh (lineKey ppn line), dir⟩)

/-! ## Writing a line (R322, R323, R324, R341) -/

/-- Opens the page if its bit is 0, and marks the line written (R323). [DESIGN CHOICE, log 7: unsafe] -/
def State.openLine (s : State) (ppn line : Nat) : State :=
  if s.pageValid ppn then s
  else
    let l := Tab.get [] s.mem.openPages ppn
    let l' := if line ∈ l then l else l ++ [line]
    let s := if l = [] then
      { s with mem := { s.mem with
          cells := Tab.eraseRange s.mem.cells (65536 * ppn) (65536 * (ppn + 1))
          lines := Tab.eraseRange s.mem.lines (1024 * ppn) (1024 * (ppn + 1)) } } else s
    { s with mem := { s.mem with openPages := Tab.set [] s.mem.openPages ppn l' } }

/-- Stores a whole line with VALID 1 and POISON as given at one physical place. -/
def State.putLine (s : State) (ppn line : Nat) (data : Line) (dir : BitVec 10) (poison : Bool) : State :=
  let s := s.openLine ppn line
  let s := { s with mem := { s.mem with cells := storeLine s.mem.cells ppn line data } }
  s.setMeta ppn line ⟨true, poison, dir⟩

/-- Stores a whole line, and its copy when the page is MOVING (R341). -/
def State.putBoth (s : State) (ppn line : Nat) (data : Line) (dir : BitVec 10) (poison : Bool) : State :=
  let s := s.putLine ppn line data dir poison
  match Tab.get none s.mem.moving ppn with
  | some mv => s.putLine mv.target line data dir poison
  | none => s

/-- Writes the masked bytes of a line (R322, R324). The answer is the read that a partial write makes first: POISON
leaves the line as it is. `dir`: new directory bits, or those stored. -/
def State.hubWrite (s : State) (ppn line : Nat) (mask : BitVec 64) (data : Line) (dir : Option (BitVec 10))
    (err : Err) : State × ReadAns :=
  if s.stackDown (stackOf ppn) then (s, poisonAns)
  else if mask = fullMask then
    let old := if s.readsClosed ppn line then (0 : BitVec 10) else
      if (s.lineMeta ppn line).valid then (s.lineMeta ppn line).dir else 0
    ((s.countAccess ppn 0 1).putBoth ppn line data (dir.getD old) false, zeroAns)
  else
    let before := s.mem.counts
    let (s, a) := s.hubRead ppn line err .front false
    let s := { s with mem := { s.mem with counts := before } }
    if a.poison then (s, a)
    else ((s.countAccess ppn 0 1).putBoth ppn line (mergeLine mask data a.data) (dir.getD a.dir) false, a)

/-- Reads `n` lines from POOL page list order: line keys before remap. -/
def State.readLine (s : State) (l : Nat) (err : Err) (who : Reader) (dirRead : Bool) : State × ReadAns :=
  s.hubRead (s.phys (l / 1024)) (l % 1024) err who dirRead

/-- Writes at a line key before remap. -/
def State.writeLine (s : State) (l : Nat) (mask : BitVec 64) (data : Line) (dir : Option (BitVec 10)) (err : Err) :
    State × ReadAns :=
  s.hubWrite (s.phys (l / 1024)) (l % 1024) mask data dir err

/-! ## Hub queues and commit records (R38, R363) -/

/-- The hub that serves line key `l`. -/
def State.hubOfLine (s : State) (l : Nat) : Nat := hubOf (s.phys (l / 1024))

def State.hubQueue (s : State) (hub : Nat) : List HubWrite := if hub = 0 then s.mem.hubQueue0 else s.mem.hubQueue1

def State.setHubQueue (s : State) (hub : Nat) (q : List HubWrite) : State :=
  if hub = 0 then { s with mem := { s.mem with hubQueue0 := q } } else { s with mem := { s.mem with hubQueue1 := q } }

/-- Puts a write in the write queue of the line's hub; a write that needs a free open-page entry is counted (R323). -/
def State.queueWrite (s : State) (l : Nat) (w : HubWrite) : State :=
  let hub := s.hubOfLine l
  let s := if s.openFull (s.phys (l / 1024)) then s.bump 9 (stackOf (s.phys (l / 1024))) 3 1 else s
  s.setHubQueue hub (s.hubQueue hub ++ [w])

/-- Enters a keyed command in a hub's commit record; a full list takes none (R363). -/
def State.commit (s : State) (hub : Nat) (c : Commit) : State :=
  if hub = 0 then { s with mem := { s.mem with commit0 := s.mem.commit0 ++ [c] } }
  else { s with mem := { s.mem with commit1 := s.mem.commit1 ++ [c] } }

/-- May the hub's current list take one more entry (R363)? -/
def State.commitRoom (s : State) (hub : Nat) : Bool :=
  decide ((if hub = 0 then s.mem.commit0 else s.mem.commit1).length < 524288)

end Sys2Proof.Machine
end

