-- ==== Sys2Proof/Machine/PoolOps.lean ====
section
/-! DEFINITION. The pool's tables and the way into them: the request journal and the colander (R154 to R163, R366,
R438), answers, the access check of R180, grants and leases (R179, R183, R184), holders (R190) and notices (R194). -/

set_option Elab.async false

namespace Sys2Proof.Machine
open Sys2Proof

/-! ## The pool set (R198) -/

/-- Do the strap and the configuration disagree (R198)? A MEMBER_ID that is not given reads 0, which is no fabric ID.
[DEDUCED, log 77: unsafe] -/
def State.setMismatch (s : State) : Bool :=
  let i := s.boot.setIndex.toNat
  decide (s.cfgAt fSetSize ≤ i ∨ s.cfgIx fMemberId i ≠ s.fabricId)

/-- Modules in the set: one, where the strap and the configuration disagree. -/
def State.setSize (s : State) : Nat := if s.setMismatch then 1 else s.cfgAt fSetSize

/-- SET_INDEX, or 0 where the module runs as a set of one. -/
def State.setIndex (s : State) : Nat := if s.setSize = 1 then 0 else s.boot.setIndex.toNat

def State.isMaster (s : State) : Bool := decide (s.pool.master = s.setIndex)

/-- The fabric ID of member `i`. [DEDUCED, log 77: unsafe] -/
def State.memberId (s : State) (i : Nat) : Nat := if s.setSize = 1 then s.fabricId else s.cfgIx fMemberId i

/-- The member whose fabric ID is `src`, other than this module. -/
def State.memberOf (s : State) (src : Nat) : Option Nat :=
  (List.range s.setSize).find? fun i => decide (s.memberId i = src ∧ i ≠ s.setIndex)

/-! ## Extents and grants (R174, R179) -/

def State.ext (s : State) (e : Nat) : Ext := Tab.get Ext.empty s.pool.exts e

def State.setExt (s : State) (e : Nat) (x : Ext) : State :=
  ({ s with pool := { s.pool with exts := Tab.set Ext.empty s.pool.exts e x } }).logChange 0x0002 e 48 none

def grantKey (e h : Nat) : Nat := 4096 * e + h

/-- The rights of a grant: bit 0 R, bit 1 W, bit 2 A; 0 no grant. -/
def State.grant (s : State) (e h : Nat) : Nat := Tab.get 0 s.pool.grants (grantKey e h)

/-- The hosts with a grant on extent `e`, ascending. -/
def State.grantees (s : State) (e : Nat) : List Nat :=
  (s.pool.grants.filter fun g => decide (g.1 / 4096 = e)).map fun g => g.1 % 4096

/-- The extents on which host `h` holds a grant, ascending. -/
def State.grantsOf (s : State) (h : Nat) : List Nat :=
  (s.pool.grants.filter fun g => decide (g.1 % 4096 = h)).map fun g => g.1 / 4096

def State.lease (s : State) (h : Nat) : Lease := Tab.get Lease.empty s.pool.leases h

def State.setLease (s : State) (h : Nat) (l : Lease) : State :=
  ({ s with pool := { s.pool with
      leases := Tab.set Lease.empty s.pool.leases h l
      changed := if h ∈ s.pool.changed then s.pool.changed else s.pool.changed ++ [h] } }).logChange 0x0004 h 32 none

def State.setLeaseGone (s : State) (h : Nat) (b : Bool) : State :=
  { s with fab := { s.fab with leaseGone := Tab.set false s.fab.leaseGone h b } }

def State.gone (s : State) (h : Nat) : Bool := Tab.get false s.fab.leaseGone h

/-- Makes a grant or replaces its rights; the first one starts the lease (R184). -/
def State.makeGrant (s : State) (e h rights epoch : Nat) : State :=
  let s := ({ s with pool := { s.pool with grants := Tab.set 0 s.pool.grants (grantKey e h) rights } }).logChange
    0x0003 (grantKey e h) 32 none
  let l := s.lease h
  if l.st = .none then
    (s.setLease h { l with st := .live, endEpoch := epoch + s.cfgAt fLeasePeriod }).setLeaseGone h false
  else s

/-- Removes a grant; with the last one a LIVE or GRACE lease ends (R184). -/
def State.dropGrant (s : State) (e h : Nat) : State :=
  let s := ({ s with pool := { s.pool with grants := Tab.set 0 s.pool.grants (grantKey e h) 0 } }).logChange
    0x0003 (grantKey e h) 32 none
  let l := s.lease h
  if s.grantsOf h = [] ∧ (l.st = .live ∨ l.st = .grace) then s.setLease h { l with st := .none, endEpoch := 0 }
  else s

/-- The extent that holds physical page `ppn` before remap. -/
def State.extOfPage (s : State) (ppn : Nat) : Option Nat :=
  (s.pool.exts.find? fun e => decide (e.2.base ≤ ppn ∧ ppn < e.2.base + e.2.localGran * 32)).map (·.1)

def State.extHasPage (s : State) (e ppn : Nat) : Bool :=
  let x := s.ext e
  decide (x.base ≤ ppn ∧ ppn < x.base + x.localGran * 32)

/-- The port of a home transaction that a coach engine opened (R223): no fabric message answers it.
[DEDUCED, log 84: unsafe] -/
def coachPort : Nat := 255

def Tracker.byCoach (t : Tracker) : Bool := decide (t.hdr.port = coachPort)

/-- HOLD_COUNT of extent `e` (R174, R190): each holder once, and so not a coach's own transactions beside its
descriptor. -/
def State.holdCount (s : State) (e : Nat) : Nat :=
  let trk := (s.coh.trackers.filter fun t => decide (t.ext = e ∧ t.st ≠ .waitAck) && !t.byCoach).length
  let hub := ((s.mem.hubQueue0 ++ s.mem.hubQueue1).filter fun w => match w with
    | .store _ x _ _ _ _ => decide (x = e)
    | .home _ _ _ _ => false
    | .atomic _ x _ _ _ _ => decide (x = e)).length
  let desc := (s.coach.descs.filter fun d => decide (d.st ≠ .done ∧ d.st ≠ .walking) &&
    d.pages.any fun p => s.extHasPage e p.ppn).length
  let buf := (s.stock.bufs.filter fun b => decide (b.2.st ≠ .free) && b.2.memory &&
    decide (bitsOf b.2.accBase 56 43 = e)).length
  let job := (s.stock.jobs.filter fun j =>
    decide (bitsOf (Tab.get Buf.empty s.stock.bufs j.buf).winBase 56 43 = e)).length
  let inv := (s.coach.invals.filter fun i => decide (e ∈ i.exts)).length
  trk + hub + desc + buf + job + inv

/-- GRANT_COUNT of extent `e` (R174). -/
def State.grantCount (s : State) (e : Nat) : Nat := (s.grantees e).length

def ExtState.num : ExtState → Nat
  | .free => 0
  | .active => 1
  | .withdrawing => 2

/-- The 32 bytes of an extent map entry (R174). -/
def extEntry (s : State) (e : Nat) : Nat :=
  let x := s.ext e
  pack [(x.st.num, 254), (b2n x.shared, 253), (b2n x.sealed, 252), (b2n x.domain.isSome, 251), (x.domain.getD 0, 240),
    (x.tenant, 230), (x.owner, 218), (x.key, 206), (s.grantCount e, 193), (b2n x.damaged, 192), (x.mask.toNat, 128),
    (x.base, 104), (x.localGran, 85), (x.lenGran, 63), (s.holdCount e, 39)]

def LState.num : LState → Nat
  | .none => 0
  | .live => 1
  | .grace => 2
  | .reclaim => 3

/-- The 16 bytes of a lease record (R183). -/
def leaseRecord (s : State) (h : Nat) : Nat :=
  let l := s.lease h
  pack [(b2n l.assigned, 127), (l.st.num, 125), (l.tenant, 115), ((s.grantsOf h).length, 100), (l.endEpoch, 0)]

/-! ## Requests: the journal, the colander, the form (R37, R155, R161, R366, R438) -/

def State.journaled (s : State) (j : Nat) : Option JReq := s.twin.reqs.find? fun r => decide (r.jidx = j)

/-- The epoch at which a request is judged: that of its receipt (R187). -/
def State.receipt (s : State) (h : ReqHdr) : Nat := match s.journaled h.jidx with
  | some r => r.epoch
  | none => s.epoch

/-- Are messages passed to an active die now: one that holds the token at the port die, and has not stopped (R18, R33,
R374)? -/
def State.attended (s : State) : Bool := s.obeys odPd && !s.twin.paused && !s.tok.silent

/-- May the active die command both hubs: does each that is not lost obey it (R18, R27)? -/
def State.hubsObey (s : State) : Bool := [0, 1].all fun hub => s.hubGone hub || s.obeys hub

/-- The hubs that discard the active die's commands count them (R27). -/
def State.hubsRefuse (s : State) : State :=
  ([0, 1].filter fun hub => !s.hubGone hub && !s.obeys hub).foldl (fun (s : State) hub => s.bump 10 0 (21 + hub) 1) s

/-- Are requests answered now (R202, R206, R306)? -/
def State.serving (s : State) : Bool := s.attended && !s.handingOver && s.pairedEntry.isNone && !s.pool.refusedByPeer && (s.isMaster || s.pool.ready)

/-- Takes a request into the journal (R366). -/
def State.journalIn (s : State) (h : ReqHdr) (answer : Bool) : State :=
  { s with
    twin := { s.twin with
      reqs := s.twin.reqs ++ [⟨h.jidx, h.port, s.epoch, h.src, h.tag, answer, false, !s.serving, false⟩]
      nextJidx := (max s.twin.nextJidx (h.jidx + 1)) % two32 }
    fab := { s.fab with heard := Tab.set none s.fab.heard h.src (some h.port) } }

/-- Is an earlier entry still to be forwarded to the active die (R33)? -/
def State.mustWait (s : State) (j : Nat) : Bool :=
  (s.twin.reqs.takeWhile fun r => decide (r.jidx ≠ j)).any fun r => r.held

/-- The entry is forwarded to the active die. -/
def State.forward (s : State) (j : Nat) : State :=
  { s with twin := { s.twin with reqs := s.twin.reqs.map fun (r : JReq) =>
    if r.jidx = j then { r with held := false } else r } }

/-- Ends a journal entry (R365). -/
def State.journalOut (s : State) (j : Nat) : State :=
  { s with twin := { s.twin with reqs := s.twin.reqs.filter fun r => decide (r.jidx ≠ j) } }

/-- Is SRC a host ID or a member's fabric ID (R155)? -/
def State.srcAdmitted (s : State) (src : Nat) : Bool := decide (src < 4096) || (s.memberOf src).isSome

/-- Does the request belong to an ACTIVE circuit (R170)? -/
def State.onCircuit (s : State) (h : ReqHdr) : Bool :=
  let c := Tab.get Circuit.empty s.fab.circuits h.cktId
  h.flags.getLsbD 1 && decide (c.st = .active ∧ c.host = h.src ∧ c.port = h.port ∧ (c.dir = 0 ∨ c.dir = 2))

def State.timeless (s : State) : Bool := decide (s.clk.tstate = .start ∨ s.clk.tstate = .lost)

/-- Fabric time of a request's arrival. [DEDUCED, log 143: unsafe] -/
def State.timeOf (s : State) (h : ReqHdr) : Nat := 4096 * s.epoch + h.atNs

/-- A mark of the two-rate three-colour marker. -/
inductive Colour where
  | green | yellow | red
  deriving DecidableEq, Repr

/-- One request of `b` bytes at fabric time `t` (R161). Levels are in 1/1,024 byte; a rate of 1 MB/s fills 1,024/1,000
of them in a ns. -/
def Policer.mark (p : Policer) (t b : Nat) : Policer × Colour :=
  if !p.enable then (p, .green)
  else
    let dt := t - p.last
    let tc := min (p.tc + p.cir * dt * 1024 / 1000) (p.cbs * 1024)
    let tp := min (p.tp + p.pir * dt * 1024 / 1000) (p.pbs * 1024)
    let p := { p with tc := tc, tp := tp, last := t }
    if tp < b * 1024 then (p, .red)
    else if tc < b * 1024 then ({ p with tp := tp - b * 1024 }, .yellow)
    else ({ p with tp := tp - b * 1024, tc := tc - b * 1024 }, .green)

/-- The colander at stage 2 (R161, R170): the new state, and whether the request is refused. -/
def State.police (s : State) (h : ReqHdr) (cls : Nat) : State × Bool :=
  let s := if h.flags.getLsbD 1 && !s.onCircuit h then s.bumpPort h.port 32 1 else s
  if 4096 ≤ h.src then (s, false)
  else if s.onCircuit h ∧ ¬ s.timeless then (s, false)
  else
    let ix := h.src * 4 + cls
    let b := h.msgLen * 16
    let (p, c) := (Tab.get Policer.empty s.fab.policers ix).mark (s.timeOf h) b
    let s := { s with fab := { s.fab with policers := Tab.set Policer.empty s.fab.policers ix p } }
    match c with
    | .green => (s.bump 2 ix 0 b, false)
    | .yellow => (s.bump 2 ix 1 b, false)
    | .red => ((s.bump 2 ix 2 1).bump 2 ix 3 b, true)

/-- The form of a request (R438): reserved header bits, OP_DATA bits outside `mask`, and MSG_LEN one of `lens` (two
more when it came encrypted, R399). [DESIGN CHOICE, log 74: unsafe] A request with CKT 1 and a CKT_ID of 512 or more, which no case of R438 names, is MALFORMED too.
[DESIGN CHOICE, log 168: unsafe] -/
def formOk (h : ReqHdr) (lens : List Nat) (mask : BitVec 32) : Bool :=
  decide (h.flags.toNat < 8 ∧ h.resv = 0 ∧ (if h.flags.getLsbD 1 then h.cktId < 512 else h.cktId = 0) ∧
    h.opData &&& ~~~mask = 0 ∧
    (if h.sess = 0 then h.msgLen else h.msgLen - 2) ∈ lens)

/-- A session by its number. -/
def State.session (s : State) (id : Nat) : Option Session := s.sec.sessions.find? fun x => decide (x.id = id)

/-- Has the tag of this message checked in the session it names (R400)? -/
def State.isOpened (s : State) (h : ReqHdr) : Bool := match s.session h.sess with
  | some x => x.passed.contains h.jidx
  | none => false

/-- A message's tag has checked. -/
def State.openMessage (s : State) (sid jidx : Nat) : State :=
  { s with sec := { s.sec with sessions := s.sec.sessions.map fun (x : Session) =>
    if x.id = sid then { x with passed := x.passed ++ [jidx] } else x } }

/-- Is this request replayed, with its effect still under way (R373)? -/
def State.rejoins (s : State) (j : Nat) : Bool :=
  (match s.journaled j with
    | some r => r.replay
    | none => false) && s.joinsJidx j

/-- A request arrives: discards of R155, the journal of R366, then the active die's stages, `k`, when one is serving.
`wait`: it must stay in the journal for now. One that names an ended session, or whose tag has not checked in it, is
discarded (R400, R401). In a failed pool every request completes FATAL (R197).
[DESIGN CHOICE, log 5: unsafe] -/
def State.arrive (s : State) (h : ReqHdr) (wait : Bool) (refuse : State → Nat → Nat → State) (k : State → State) : State :=
  let known := (s.journaled h.jidx).isSome
  if h.flags.getLsbD 2 ≠ decide (h.sess ≠ 0) then s
  else if !known ∧ h.dst ≠ s.fabricId then s.bumpPort h.port 30 1
  else if !known ∧ !s.srcAdmitted h.src then s.bumpPort h.port 31 1
  else if !known ∧ 262144 ≤ s.twin.reqs.length then { s with twin := { s.twin with fullEpoch := true } }
  else
    let s := if known then s else s.journalIn h false
    if !s.serving || s.mustWait h.jidx || wait then s
    else
    let s := s.forward h.jidx
    if h.sess ≠ 0 ∧ s.isOpened h = false then s.journalOut h.jidx
    else if s.rejoins h.jidx then s
    else if s.tok.fatal.isSome then refuse s cFatal 0
    else k s

/-- A request passes the colander; red is refused with REFUSED_RATE (R161). -/
def State.colander (s : State) (h : ReqHdr) (cls : Nat) (refuse : State → Nat → Nat → State) (k : State → State) :
    State :=
  let (s, red) := s.police h cls
  if red then refuse s cRefusedRate 0 else k s

/-! ## Answers -/

/-- Counts a request completed POISON to its host's tenant (R352). -/
def State.countPoison (s : State) (host code : Nat) : State :=
  if code = cPoison ∧ (s.lease host).assigned then s.bump 6 (s.lease host).tenant 9 1 else s

/-- The host for which a class-3 command acts (R406, R416). -/
def State.viaHost (s : State) : Via → Nat
  | .fabric h => h.src
  | .rsl c => c.host
  | .ch _ sid => match s.session sid with
    | some x => x.host
    | none => 0

/-- Does the command act with the operator's authority (R417)? [DEDUCED, log 139: unsafe] -/
def viaOperator : Via → Bool
  | .rsl _ => true
  | _ => false

/-- Did the command come encrypted? -/
def viaEnc : Via → Bool
  | .fabric h => decide (h.sess ≠ 0)
  | .rsl _ => false
  | .ch _ _ => true

/-- What becomes of an unbound answer to a request of an ended session (R401): there is no key any more, and so it goes
plain. [DEDUCED, log 137: unsafe] -/
def endedAnswer (m : OutMsg) : OutMsg :=
  let m := { m with sess := 0 }
  if m.opcode = 0x20 then { m with opcode := 0x1B, cls := clsRsp, opData := cRights, body := [] }
  else if m.opcode = 0x1C ∧ m.opData = cOk then { m with opData := cRights, body := zeros 16 }
  else m

/-- A session's next SEQ is used (R400). -/
def State.useSeq (s : State) (id : Nat) : State :=
  { s with sec := { s.sec with sessions := s.sec.sessions.map fun (x : Session) =>
    if x.id = id then { x with sendSeq := x.sendSeq + 1 } else x } }

/-- An answer to a request that came encrypted is encrypted as it is bound, for a circuit if it belongs to one; one that
would become too long goes plain (R399). -/
def State.sealMsg (s : State) (version kind : Nat) (m : OutMsg) : State × OutMsg :=
  if m.sess = 0 ∨ m.sealed then (s, m)
  else match s.session m.sess with
    | none => (s, endedAnswer m)
    | some x =>
      if 15 < m.units then (s, { m with sess := 0 })
      else (s.useSeq x.id, ({ m with ckt := if kind = 0 then none else m.ckt } : OutMsg).seal x s.fabricId version)

/-- The envelope in which a completion goes back on a confidential channel, under K_PH (R406). -/
def envelope (x : Session) (plain : List Byte) : List Byte :=
  let head := securityBlock x.id 0 x.sendSeq
  let (c, tag) := gcmSeal x.keyPh (sessNonce x.id x.sendSeq) head plain
  head ++ c ++ tag

/-- Completes a class-3 command: response opcode `rsp` with `body` on the fabric; CODE, VALUE and `body` followed by
`extra` on the service link (R416); the same in an envelope of the session on a confidential channel (R406). A
completion that may reveal a change of copied state is journaled first (R357, R359). [DEDUCED, log 12: unsafe] -/
def State.finish (s : State) (v : Via) (cmd rsp code value : Nat) (body extra : List Byte) : State :=
  let s := s.countPoison (s.viaHost v) code
  match v with
  | .fabric h =>
    let m := answerOf h rsp clsRsp 0 body
    let s := if rslReadOnly cmd then s else
      let s := s.logChange 0x0013 h.jidx (16 + body.length) (some h.jidx)
      { s with twin := { s.twin with cpls := s.twin.cpls ++ [(h.jidx, m)] } }
    s.send m
  | .rsl c => s.rslDone cmd c.tag c.port code value (body ++ extra)
  | .ch c sid =>
    match s.session sid with
    | some x => (s.useSeq sid).rslDone 0x171 c.tag c.port cOk 0 (envelope x (body ++ extra))
    | none => s.rslDone 0x171 c.tag c.port cRights 0 []

/-- EXT_CPL (R182). -/
def extCplBody (code mask ext value : Nat) (members : List Byte) : List Byte :=
  leBytes 1 code ++ leBytes 1 mask ++ leBytes 2 ext ++ zeros 4 ++ leBytes 8 value ++ members

def State.extCpl (s : State) (v : Via) (cmd code mask ext value : Nat) : State :=
  s.finish v cmd 0x46 code value (extCplBody code mask ext value (zeros 16)) []

/-- Counts a replayed request that is answered from a record (R380). -/
def State.countRecorded (s : State) : State := s.bump 10 0 18 1

/-- The completion a replayed request that changed copied state gets again (R373). -/
def State.replayed (s : State) (h : ReqHdr) : Option OutMsg :=
  match s.journaled h.jidx with
  | some r => if r.replay then (s.twin.cpls.find? fun c => decide (c.1 = h.jidx)).map (·.2) else none
  | none => none

/-- The recorded completion of a replayed store or atomic (R373). -/
def State.recorded (s : State) (h : ReqHdr) : Option Commit :=
  match s.journaled h.jidx with
  | some r =>
    if r.replay then
      (s.mem.commit0 ++ s.mem.commit1 ++ s.mem.prev0 ++ s.mem.prev1 ++ s.twin.mirror0.flatten ++
        s.twin.mirror1.flatten).find? fun c => decide (c.jidx = h.jidx ∧ ¬ c.coach)
    else none
  | none => none

/-- Brings a class-3 command to its handling table. `cmd` its opcode, `lens` and `mask` its form, `resv` whether one of
its reserved argument bits is set, `no` its refusal. One that may change state waits while the journal partition is full
(R26, R361). Requests are policed in class 3 (R160); CH commands are not
(R406); service-link commands pass the link's gate. -/
def State.classThree (s : State) (v : Via) (cmd : Nat) (lens : List Nat) (mask : BitVec 32) (resv : Bool)
    (no : State → Nat → Nat → State) (k : State → State) : State :=
  match v with
  | .fabric h => s.arrive h (s.copyFull && !rslReadOnly cmd) no fun s =>
      match s.replayed h with
      | some m => s.countRecorded.send m
      | none => s.colander h 3 no fun s => if !formOk h lens mask || resv then no s cMalformed 0 else k s
  | .rsl c => s.rslGate c cmd (resv || (decide (cmd ≠ 0x41) && decide (c.tenant ≠ 0))) fun s => if s.tok.fatal.isSome then no s cFatal 0 else k s
  | .ch _ _ => if resv then no s cMalformed 0 else k s

/-! ## Notices and loss (R194 to R197) -/

def LState.alive (l : LState) : Bool := decide (l = .live ∨ l = .grace)

/-- POOL_NOTICE to one host (R194). -/
def State.poolNotice (s : State) (host kind ext : Nat) : State :=
  s.notice host 0x47 (leBytes 1 kind ++ leBytes 1 (if kind = 2 then cFatal else cOk) ++ leBytes 2 ext ++ zeros 4 ++
    leBytes 8 s.epoch)

/-- The hosts whose lease is LIVE or GRACE, ascending. -/
def State.leaseholders (s : State) : List Nat :=
  (s.pool.leases.filter fun e => e.2.st.alive).map (·.1)

/-- POOL_NOTICE of one kind to every leaseholder. -/
def State.noticeAll (s : State) (kind : Nat) : State :=
  s.leaseholders.foldl (fun s h => s.poolNotice h kind 0) s

/-- Marks extent `e` DAMAGED and tells each host with a grant on it and a LIVE or GRACE lease (R196). -/
def State.damage (s : State) (e : Nat) : State :=
  let s := s.setExt e { s.ext e with damaged := true }
  (s.grantees e).foldl (fun s h => if (s.lease h).st.alive then s.poolNotice h 1 e else s) s

/-- Does extent `e` hold a page on stack `n`? -/
def State.extOnStack (s : State) (e n : Nat) : Bool :=
  let x := s.ext e
  let here := pagesOnStack x.base (x.localGran * 32) (stackPos n)
  let gone := (s.mem.remap.filter fun r => s.extHasPage e r.1 &&
    decide (stackOf r.1 = n ∧ r.2.map stackOf ≠ some n)).length
  let come := s.mem.remap.any fun r => s.extHasPage e r.1 && decide (stackOf r.1 ≠ n ∧ r.2.map stackOf = some n)
  decide (gone < here) || come

/-- The whole module has failed: notices to every leaseholder, once; later requests complete FATAL (R197). `cause` is
that of EV_POOL_FATAL, or 0 where another event reports the failure. -/
def State.poolFatal (s : State) (cause : Nat) : State :=
  if s.tok.fatal.isSome then s
  else
    let s := { s with tok := { s.tok with fatal := some cause } }
    let s := if cause = 0 then s else s.raise 0x0706 sevFatal s.actDie (leBytes 1 cause)
    s.noticeAll 2

/-! ## The access check (R173, R176, R180) -/

def addrExt (a : Nat) : Nat := bitsOf a 56 43
def addrOff (a : Nat) : Nat := a % 2 ^ 43

/-- The set bits of a mask, ascending. -/
def maskBits (m : BitVec 8) : List Nat := (List.range 8).filter fun i => m.getLsbD i

/-- The member on which granule `g` of extent `e` lies (R176). -/
def granMember (x : Ext) (e g : Nat) : Option Nat :=
  let bs := maskBits x.mask
  bs[(g + e) % bs.length]?

/-- The line key, before remap, of byte `off` of an extent (R176). -/
def lineOfOff (x : Ext) (off : Nat) : Nat :=
  let g := off / 2 ^ 21
  lineKey (x.base + 32 * (g / (maskBits x.mask).length) + bitsOf off 20 16) (bitsOf off 15 6)

/-- Rights a request needs: bit 0 R, bit 1 W, bit 2 A. -/
def needR : Nat := 1
def needW : Nat := 2
def needA : Nat := 4

/-- What the access check answers. -/
inductive Access where
  | ok (ext line : Nat)
  | fail (code check : Nat)
  deriving DecidableEq, Repr

/-- Checks 1 and 4 to 8 of R180 for `host`; checks 2 and 3 as well, unless the operator's authority waives what names a
host's own standing. -/
def State.access (s : State) (host addr need : Nat) : Access :=
  let e := addrExt addr
  let x := s.ext e
  let g := addrOff addr / 2 ^ 21
  let l := s.lease host
  if 2 ^ 57 ≤ addr then .fail cMalformed 1
  else if !l.assigned then .fail cRights 2
  else if l.st = .grace ∨ l.st = .reclaim then .fail cLeaseEnded 3
  else if x.st ≠ .active then .fail cRevoked 4
  else if s.grant e host &&& need ≠ need then .fail cRights 5
  else if x.lenGran ≤ g then .fail cRights 6
  else if granMember x e g ≠ some s.setIndex then .fail cMalformed 7
  else
    let ln := lineOfOff x (addrOff addr)
    if s.pool.lostHere || s.stackDown (stackOf (s.phys (ln / 1024))) then .fail cPoison 8 else .ok e ln

/-- Counts a failed access check (R207). -/
def State.countAccessFail (s : State) (host check : Nat) : State :=
  if check = 3 then s.bump 3 host 3 1
  else if check = 4 then s.bump 3 host 4 1
  else if check = 2 ∨ check = 5 ∨ check = 6 then s.bump 3 host 5 1
  else if check = 7 then s.bump 10 0 0 1
  else s

/-! ## Sessions named by requests (R401, R404) -/

/-- Has an owner, as R186 uses the word. -/
def Ext.ownedBy (x : Ext) (h : Nat) : Bool := x.hasOwner && decide (x.owner = h)

/-! ## Free runs (R175, R347) -/

/-- Do pages `lo` .. `hi - 1` include one on a stack that works? -/
def State.anyWorking (s : State) (lo hi : Nat) : Bool :=
  decide (lo < hi) && (List.range 12).any fun n =>
    !s.stackDown n && decide (0 < pagesOnStack lo (hi - lo) (stackPos n))

/-- User pages that stand in for others: remap and move targets, and pages of given-up granules (R346). -/
def State.givenUp (s : State) : List Nat :=
  ((s.mem.remap.filterMap fun (r : Nat × Option Nat) => r.2) ++
    (s.mem.moving.filterMap fun (m : Nat × Option Move) => m.2.map fun (v : Move) => v.target) ++
    s.mem.givenPages).filter fun p => decide (p < userPages)

/-- Is the run of `n` granules from `g` free and wiped: in no extent's share, no granule given to migration, and no
page freed and not yet overwritten, in place or where it is remapped to? A freed page on a stack that has failed does
not hold it back (R192). -/
def State.runFree (s : State) (g n : Nat) : Bool :=
  let lo := g * 32
  let hi := (g + n) * 32
  !(s.pool.exts.any fun e => decide (e.2.base < hi ∧ lo < e.2.base + e.2.localGran * 32)) &&
  !(s.pool.freed.any fun r => s.anyWorking (max lo r.1) (min hi (r.1 + r.2))) &&
  !(s.mem.remap.any fun r => decide (lo ≤ r.1 ∧ r.1 < hi) && match r.2 with
    | some p => s.pool.freed.has p && !s.stackDown (stackOf p)
    | none => false) &&
  !(s.givenUp.any fun p => decide (lo ≤ p ∧ p < hi))

/-- The lowest-numbered run of `n` free granules, tried from candidate starts: 0 and the granule after each extent's
share, each freed range and each granule given to migration; the granule in which a freed range ends may itself be free,
when all its freed pages lie on failed stacks. -/
def State.freeRun (s : State) (n : Nat) : Option Nat :=
  let starts := 0 :: (s.pool.exts.map fun e => (e.2.base + e.2.localGran * 32) / 32) ++
    (s.pool.freed.flatMap fun r => [(r.1 + r.2 + 31) / 32, (r.1 + r.2) / 32]) ++ (s.givenUp.map fun p => p / 32 + 1) ++
    (s.mem.remap.map fun r => r.1 / 32 + 1)
  let ok := starts.filter fun g => decide (g + n ≤ userPages / 32) && s.runFree g n
  ok.foldl (fun best g => match best with
    | none => some g
    | some b => some (min b g)) none

/-! ## Targets of moved and remapped pages (R346, R347) -/

/-- The topmost free granule, tried from the top of the user range and below each thing in use. -/
def State.topGranule (s : State) : Option Nat :=
  let tries := (userPages / 32 - 1) :: (s.pool.exts.map fun e => e.2.base / 32 - 1) ++
    (s.pool.freed.flatMap fun r => [r.1 / 32 - 1, r.1 / 32]) ++ (s.givenUp.map fun p => p / 32 - 1) ++
    (s.mem.remap.map fun r => r.1 / 32 - 1)
  let ok := tries.filter fun g => decide (g < userPages / 32) && s.runFree g 1
  ok.foldl (fun best g => match best with
    | none => some g
    | some b => some (max b g)) none

/-- The next target page: a spare page of the IN stacks in turn, above each one's reserve of 4,096, then a page of a
given-up granule on an IN stack. -/
def State.nextTarget (s : State) : Option (State × Nat) :=
  let ready := s.spareStacks 4096
  let after := ready.filter fun n => decide (s.mem.migTurn ≤ stackPos n)
  match (after ++ ready).head? with
  | some n =>
    let p := s.nextSpare n
    let s := s.takeSpare n
    some ({ s with mem := { s.mem with migTurn := (stackPos n + 1) % 12 } }, p)
  | none => match s.mem.givenPages with
    | p :: ps => some ({ s with mem := { s.mem with givenPages := ps } }, p)
    | [] => match s.topGranule with
      | none => none
      | some g =>
        let pages := ((List.range 32).map (g * 32 + ·)).filter fun p => decide ((s.stack (stackOf p)).st = .inUse)
        match pages with
        | p :: ps => some ({ s with mem := { s.mem with givenPages := ps } }, p)
        | [] => none

/-- Remaps pages to targets, one each; `none` when the targets or the remap entries run out (R347, R433). -/
def State.remapAll (s : State) : List Nat → Option State
  | [] => some s
  | p :: ps =>
    if remapLimit ≤ s.mem.remap.length ∧ Tab.get none s.mem.remap p = none then none
    else match s.nextTarget with
      | none => none
      | some (s, t) =>
        State.remapAll { s with mem := { s.mem with remap := Tab.set none s.mem.remap p (some t) } } ps

/-- The pages of `n` granules from granule `g` that fall on a stack that is not IN. -/
def State.offPages (s : State) (g n : Nat) : List Nat :=
  ((List.range (n * 32)).map (g * 32 + ·)).filter fun p => decide ((s.stack (stackOf (s.phys p))).st ≠ .inUse)

/-- Places a share of `n` granules: the lowest free run, with what lies on stacks that are not IN remapped (R175,
R347). -/
def State.placeShare (s : State) (n : Nat) : Option (State × Nat) :=
  if n = 0 then some (s, 0)
  else match s.freeRun n with
    | none => none
    | some g => (s.remapAll (s.offPages g n)).map fun s => (s, g * 32)

/-! ## Tenants, life cycle and start-up (R116, R121, R177) -/

/-- The tenant of an assigned host. -/
def State.tenantOf (s : State) (h : Nat) : Option Nat :=
  if (s.lease h).assigned then some (s.lease h).tenant else none

/-- The pool's functions are not provided in DECOMMISSIONED (R116). [DEDUCED, log 82: unsafe] -/
def State.decommissioned (s : State) : Bool := decide (s.boot.lc = 3)

/-- The epoch at which the user-page wipe will be done (R120, R121): before the pass has begun, as if it began now.
[DESIGN CHOICE, log 181: unsafe] -/
def State.wipeEndEpoch (s : State) : Nat := (s.boot.wipeStart.getD s.epoch) + 9963

/-- The lowest number not in a rising list that begins at `n` or above. -/
def lowestFree : Nat → List Nat → Nat
  | n, [] => n
  | n, k :: ks => if k = n then lowestFree (n + 1) ks else n

/-! ## Held completions -/

/-- Sends a completion that was held back. -/
def State.release (s : State) (h : HeldCpl) : State := s.finish h.via h.cmd h.rsp h.code h.value h.body h.extra

def State.releaseAll (s : State) (hs : List HeldCpl) : State := hs.foldl State.release s

/-! ## Set messages (R199, R200) -/

/-- The members the master holds JOINED. -/
def State.joined (s : State) : List Nat :=
  (List.range s.setSize).filter fun i => decide (i ≠ s.setIndex) &&
    decide ((Tab.get Member.empty s.pool.members i).st = .joined)

/-- Bytes of an order of SET_CMD: its kind, then its arguments. [DESIGN CHOICE, log 75: unsafe] -/
def orderBytes : SetOrder → List Byte
  | .place e k t o n r m => [1] ++ leBytes 2 e ++ leBytes 1 k ++ leBytes 2 t ++ leBytes 2 o ++ leBytes 4 n ++
      leBytes 1 r ++ leBytes 1 m
  | .grant e h r => [2] ++ leBytes 2 e ++ leBytes 2 h ++ leBytes 1 r
  | .release e h => [3] ++ leBytes 2 e ++ leBytes 2 h
  | .withdraw e f => [4] ++ leBytes 2 e ++ leBytes 1 f
  | .assign h t a => [5] ++ leBytes 2 h ++ leBytes 2 t ++ leBytes 1 a
  | .domain d st t c g slots => [6] ++ leBytes 2 d ++ leBytes 1 st ++ leBytes 2 t ++ leBytes 1 c ++ leBytes 2 g ++
      (slots.flatMap fun m => leBytes 1 m.1 ++ leBytes 2 m.2)
  | .bind e d => [7] ++ leBytes 2 e ++ leBytes 2 (d.getD 0xFFFF)
  | .entry e x d o k r => [8] ++ leBytes 2 e ++ leBytes 1 (b2n x + 2 * b2n d + 4 * b2n o) ++ leBytes 2 k ++
      leBytes 2 (r.getD 0xFFFF)
  | .tablesEnd => [9]

/-- A set message to member `i`, with SET_GEN first. -/
def State.setMsg (s : State) (i tag opcode cls opData : Nat) (body : List Byte) : State :=
  s.send (messageTo (s.memberId i) tag opcode cls opData (leBytes 4 s.pool.setGen ++ body))

/-- The answer to a set message of member `i`; its journal entry, if any, ends with it (R366). -/
def State.setReply (s : State) (i tag opcode : Nat) (jidx : Option Nat) (body : List Byte) : State :=
  s.send { messageTo (s.memberId i) tag opcode clsRsp 0 (leBytes 4 s.pool.setGen ++ body) with jidx := jidx }

/-- Sends one order to one member; the TAG it took. -/
def State.sendOrder (s : State) (i : Nat) (o : SetOrder) : State × Nat :=
  let tag := s.pool.orderTag
  let s := s.setMsg i tag 0x4A clsReq 0 (orderBytes o)
  ({ s with pool := { s.pool with orderTag := (tag + 1) % 0x8000 } }, tag)

/-- Sends orders to members; what they wait for. -/
def State.sendOrders (s : State) : List (Nat × SetOrder) → State × List Sent
  | [] => (s, [])
  | (i, o) :: rest =>
    let (s, tag) := s.sendOrder i o
    let (s, w) := State.sendOrders s rest
    (s, ⟨i, tag, o⟩ :: w)

/-- Orders every joined member of `mask` (the first order first); the completion waits for their SET_DONEs (R200). -/
def State.orderMask (s : State) (mask : BitVec 8) (first : SetOrder) (more : List SetOrder) (held : Option HeldCpl) :
    State :=
  let targets := s.joined.filter fun i => mask.getLsbD i
  if targets = [] ∨ ¬ s.isMaster then s.releaseAll held.toList
  else
    let (s, w) := s.sendOrders (targets.flatMap fun i => (first :: more).map fun o => (i, o))
    { s with pool := { s.pool with orders := s.pool.orders ++ [SetOrderRec.mk first w [] held] } }

/-- Every joined member. -/
def allMembers : BitVec 8 := BitVec.allOnes 8

end Sys2Proof.Machine
end

