-- ==== Sys2Proof/Machine/CohOps.lean ====
section
/-! DEFINITION. The home agent's shared operations: answers of R208 and R439, the directory of R211, trackers and
starvation entries (R214, R221), the transitions of R213, and taking a domain down (R227). -/

set_option Elab.async false

namespace Sys2Proof.Machine
open Sys2Proof

/-! ## Answers (R208, R210, R439) -/

/-- The retry body of R439. -/
def retryBody (code value : Nat) : List Byte := if code = cBusy then leBytes 8 value ++ zeros 8 else []

def State.cohCpl (s : State) (h : ReqHdr) (code value : Nat) : State :=
  (s.countPoison h.src code).send (answerOf h 0x1B clsRsp code (retryBody code value))

/-- AT_CPL: always 16 bytes of body (R439). -/
def State.atCpl (s : State) (h : ReqHdr) (code value : Nat) : State :=
  let body := if code = cOk then leBytes 16 value else if code = cBusy then leBytes 8 value ++ zeros 8 else zeros 16
  (s.countPoison h.src code).send (answerOf h 0x1C clsRsp code body)

/-- RD_DATA: GRANTED 0 no copy kept, 1 shared, 2 owned (R210). The response to a request that named the circuit, from its
host and on its port, belongs to a circuit of the outward direction (R170). [DEDUCED, log 63: unsafe] -/
def State.rdData (s : State) (h : ReqHdr) (granted : Nat) (data : Line) : State :=
  let c := Tab.get Circuit.empty s.fab.circuits h.cktId
  let ckt := if h.flags.getLsbD 1 ∧ c.st = .active ∧ c.host = h.src ∧ c.port = h.port ∧ (c.dir = 1 ∨ c.dir = 2) then some h.cktId else none
  s.send { answerOf h 0x20 clsDat (granted * 256) (lineBytes data) with ckt := ckt }

/-- The completion of a request of the home agent that is refused: AT_CPL for ATOMIC, COH_CPL for the others. -/
def State.homeCpl (s : State) (kind : HomeReq) (h : ReqHdr) (code value : Nat) : State :=
  if kind = .atomic then s.atCpl h code value else s.cohCpl h code value

/-- WAIT of a COH_NAK, in units of 16 ns (R220). -/
def State.nakWait (s : State) (retry : Nat) (holder : Bool) : Nat :=
  if holder then s.cfgAt fNakBase / 16 else min (s.cfgAt fNakBase * 2 ^ min retry 16) (s.cfgAt fNakMax) / 16

/-- RETRY of a request (R210). -/
def retryOf (h : ReqHdr) : Nat := h.opData.toNat % 256

def State.cohNak (s : State) (h : ReqHdr) (reason : Nat) (holder : Bool) : State :=
  s.send (answerOf h 0x1A clsRsp (retryOf h + reason * 256 + s.nakWait (retryOf h) holder * 65536) [])

/-! ## The directory (R211) -/

def dirState (d : BitVec 10) : Nat := d.toNat / 256
def dirVec (d : BitVec 10) : Nat := d.toNat % 256
def dirUncached : BitVec 10 := 0
def dirOwned (m : Nat) : BitVec 10 := BitVec.ofNat 10 (512 + m)
def dirShared (vec : Nat) : BitVec 10 := BitVec.ofNat 10 (256 + vec % 256)
def groupBit (m : Nat) : Nat := 2 ^ (m / 8)

/-! ## Domains (R225) -/

def State.domain (s : State) (d : Nat) : Domain := Tab.get Domain.empty s.coh.domains d

def State.setDomain (s : State) (d : Nat) (x : Domain) : State :=
  ({ s with coh := { s.coh with domains := Tab.set Domain.empty s.coh.domains d x } }).logChange 0x0008 d 160 none

/-- The filled slots of a domain: (index, host), ascending. -/
def Domain.members (x : Domain) : List (Nat × Nat) := x.slots.filterMap fun e => e.2.map fun h => (e.1, h)

/-- The slot that a host fills. -/
def Domain.slotOf (x : Domain) (host : Nat) : Option Nat := (x.members.find? fun m => decide (m.2 = host)).map (·.1)

/-- Extents bound to domain `d`. -/
def State.boundExts (s : State) (d : Nat) : List Nat :=
  (s.pool.exts.filter fun e => decide (e.2.domain = some d)).map (·.1)

/-- The 8 bytes of a domain record (R225). -/
def domainRecord (s : State) (d : Nat) : Nat :=
  let x := s.domain d
  let st := match x.st with
    | .free => 0
    | .up => 1
    | .down => 2
  pack [(st, 62), (x.tenant, 52), (x.members.length, 45), (x.cause, 42), (x.dgen, 26), ((s.boundExts d).length, 11)]

/-- The 64 host IDs of a member list, 0xFFFF in an empty slot (R225). -/
def memberList (x : Domain) : List Byte :=
  (List.range 64).flatMap fun i => leBytes 2 ((Tab.get none x.slots i).getD 0xFFFF)

/-- DGEN after `g` (R225). -/
def nextDgen (g : Nat) : Nat := if 65535 ≤ g then 1 else g + 1

/-- The payload of DOMAIN_NOTICE (R227). -/
def domainNotice (s : State) (d kind cause : Nat) : List Byte :=
  leBytes 1 kind ++ leBytes 1 cause ++ leBytes 2 d ++ leBytes 2 (s.domain d).dgen ++ zeros 2 ++ leBytes 8 s.epoch

/-- DOMAIN_NOTICE to every member whose LEASE_GONE bit is clear. -/
def State.domainNotices (s : State) (d kind cause : Nat) : State :=
  (s.domain d).members.foldl
    (fun s m => if s.gone m.2 then s else s.notice m.2 0x1D (domainNotice s d kind cause)) s

/-! ## Descriptors (R243) -/

def State.desc (s : State) (r i : Nat) : Option Desc :=
  s.coach.descs.find? fun d => decide (d.ring = r ∧ d.idx = i)

def State.setDesc (s : State) (d : Desc) : State :=
  { s with coach := { s.coach with descs := s.coach.descs.map fun x =>
      if x.ring = d.ring ∧ x.idx = d.idx then d else x } }

/-! ## Trackers (R214, R215) -/

/-- The header of a home transaction for line `place` of a coach descriptor (R223): no fabric request stands behind it.
[DEDUCED, log 84: unsafe] -/
def coachHdr (owner : Nat) (d : Desc) (place : Nat) : ReqHdr :=
  ⟨coachPort, d.ring, owner, d.idx, 1, 0, 0, 0, BitVec.ofNat 32 place, 0xFFFFFFFF, 0, 0⟩

def State.tracker (s : State) (id : Nat) : Option Tracker := s.coh.trackers.find? fun t => decide (t.id = id)

def State.lineBusy (s : State) (l : Nat) : Bool := s.coh.trackers.any fun t => decide (t.line = l)

def State.setTracker (s : State) (t : Tracker) : State :=
  { s with coh := { s.coh with trackers := s.coh.trackers.map fun x => if x.id = t.id then t else x } }

def State.freeTracker (s : State) (id : Nat) : State :=
  { s with coh := { s.coh with trackers := s.coh.trackers.filter fun x => decide (x.id ≠ id) } }

/-- Trackers taken from reserve `r`: 0 the common ones, 1 the starvation reserve, 2 the reserve of WB_DIRTY and EVICT. -/
def State.reserveUsed (s : State) (r : Nat) : Nat := (s.coh.trackers.filter fun t => decide (t.reserve = r)).length

/-- Gives a coach engine the home agent's answer for a line (R223). -/
def State.answerCoach (s : State) (t : Tracker) (code : Nat) (data : Line) : State :=
  match s.desc t.hdr.dst t.hdr.tag with
  | some d => s.setDesc { d with lines := d.lines ++ [⟨t.hdr.opData.toNat, decide (t.kind = .wrNc), code, data⟩] }
  | none => s

/-- Completes a tracker's request with a code. -/
def State.trkCpl (s : State) (t : Tracker) (code value : Nat) : State :=
  if t.byCoach then s.answerCoach t code 0 else s.homeCpl t.kind t.hdr code value

/-- Journaled answers of R229 whose transaction has ended leave the journal. -/
def State.retireAnswers (s : State) (t : Tracker) : State := t.answers.foldl State.journalOut s

/-- A domain goes down (R227, R228): every open transaction on its lines completes DOMAIN_DOWN, its starvation entries
go, and the master orders the members, on whose answers `held` waits. A member that meets the cause itself (`report`)
tells the master. [DEDUCED, log 89: unsafe] -/
def State.domainFalls (s : State) (d cause : Nat) (report : Bool) (held : Option HeldCpl) : State :=
  if (s.domain d).st ≠ .up then s
  else
    let s := (s.setDomain d { s.domain d with st := .down, cause := cause }).bump 4 d 4 1
    let hit := s.coh.trackers.filter fun t => decide (t.domain = d)
    let s := { s with coh := { s.coh with
      trackers := s.coh.trackers.filter fun t => decide (t.domain ≠ d)
      starve := s.coh.starve.filter fun e => decide ((s.ext (addrExt (e.line * 64))).domain ≠ some d) } }
    let s := hit.foldl (fun s t =>
      let s := s.retireAnswers t
      if t.st = .waitAck then s else s.trkCpl t cDomainDown 0) s
    let s := if s.isMaster then
        let x := s.domain d
        (s.domainNotices d 1 cause).orderMask allMembers (.domain d 2 x.tenant cause x.dgen x.members) [] held
      else if !report then s
      else s.send (messageTo (s.memberId s.pool.master) 0 0x4E clsReq
        (d + (s.domain d).dgen * 2 ^ 11 + cause * 2 ^ 27) (leBytes 4 s.pool.setGen))
    s.raise 0x0501 sevNotice s.actDie (domainNotice s d 1 cause)

/-- A domain goes down on a cause that this module has met (R227). -/
def State.domainDown (s : State) (d cause : Nat) : State := s.domainFalls d cause true none

/-- A line of extent `e` reads POISON or is found uncorrectable: a bound extent's domain goes down (R227). -/
def State.dataLost (s : State) (e : Nat) : State :=
  match (s.ext e).domain with
  | some d => s.domainDown d 4
  | none => s

/-- The same for a page. -/
def State.dataLostPage (s : State) (ppn : Nat) : State :=
  match s.extOfPage ppn with
  | some e => s.dataLost e
  | none => s

/-! ## Atomics (R222) -/

/-- The new value of an atomic on `n` bytes: AOP 0 ADD, 1 AND, 2 OR, 3 XOR, 4 SWAP, 5 CAS. -/
def aopResult (aop n old op cmp : Nat) : Nat :=
  match aop with
  | 0 => (old + op) % 256 ^ n
  | 1 => old &&& op
  | 2 => old ||| op
  | 3 => old ^^^ op
  | 4 => op
  | _ => if old = op then cmp else old

def aopOf (h : ReqHdr) : Nat := bitsOf h.opData.toNat 11 8
def aopSize (h : ReqHdr) : Nat := if h.opData.getLsbD 12 then 16 else 8

/-- The old value of an atomic at byte `off` of a line. -/
def atomicOld (h : ReqHdr) (off : Nat) (cur : Line) : Nat :=
  (cur.toNat / 256 ^ (off % 64)) % 256 ^ aopSize h

/-- The line an atomic leaves. -/
def atomicNew (h : ReqHdr) (off : Nat) (operand : BitVec 256) (cur : Line) : Line :=
  let n := aopSize h
  let old := atomicOld h off cur
  let new := aopResult (aopOf h) n old (operand.toNat % 256 ^ n) (operand.toNat / 256 ^ 16 % 256 ^ n)
  lineOf ((List.range 64).map fun i =>
    if off % 64 ≤ i ∧ i < off % 64 + n then BitVec.ofNat 8 (new / 256 ^ (i - off % 64)) else lineByte cur i)

/-! ## The transitions of R213 -/

/-- The members a request must snoop, and whether with SNP_SHARE (R213). `r` is the requester's slot. -/
def snoopsFor (kind : HomeReq) (dir : BitVec 10) (r : Option Nat) (members : List (Nat × Nat)) : List (Nat × Nat) :=
  let o := dirVec dir % 64
  let owner := members.filter fun m => decide (m.1 = o)
  let groups := members.filter fun m => (dirVec dir).testBit (m.1 / 8)
  match dirState dir, kind with
  | 2, .rdNc => owner
  | 2, .rdShared => if r = some o then [] else owner
  | 2, .rdOwn => if r = some o then [] else owner
  | 2, .wrNc => owner
  | 2, .atomic => owner
  | 1, .rdOwn => groups.filter fun m => decide (some m.1 ≠ r)
  | 1, .wrNc => groups
  | 1, .atomic => groups
  | _, _ => []

/-- Is the snoop of this request a SNP_SHARE? -/
def snoopShares (kind : HomeReq) : Bool := decide (kind = .rdNc ∨ kind = .rdShared)

/-- The directory after a request (R213). -/
def dirAfter (kind : HomeReq) (dir : BitVec 10) (r : Nat) : BitVec 10 :=
  let o := dirVec dir % 64
  match kind with
  | .rdNc => if dirState dir = 2 then dirShared (groupBit o) else dir
  | .rdShared =>
    if dirState dir = 2 then (if o = r then dir else dirShared (groupBit o ||| groupBit r))
    else if dirState dir = 1 then dirShared (dirVec dir ||| groupBit r)
    else dirShared (groupBit r)
  | .rdOwn => dirOwned r
  | .wrNc => dirUncached
  | .atomic => dirUncached
  | .wbDirty => dirUncached
  | .evict => if dirState dir = 2 ∧ o = r then dirUncached else dir

/-- GRANTED of the RD_DATA (R210, R213). -/
def grantedOf (kind : HomeReq) (dir : BitVec 10) (r : Nat) : Nat :=
  match kind with
  | .rdShared => if dirState dir = 2 ∧ dirVec dir % 64 = r then 2 else 1
  | .rdOwn => 2
  | _ => 0

/-- The data a transaction leaves in its line. -/
def Tracker.result (t : Tracker) (cur : Line) : Line :=
  match t.kind with
  | .wrNc => mergeLine t.mask t.data cur
  | .wbDirty => t.data
  | .atomic => atomicNew t.hdr t.off t.operand cur
  | _ => cur

end Sys2Proof.Machine
end

