-- ==== Sys2Proof/Machine/CoachOps.lean ====
section
/-! DEFINITION. Rings, descriptors, translation and fault records: the shared operations of the coach chapter
(R235 to R262). -/

set_option Elab.async false

namespace Sys2Proof.Machine
open Sys2Proof

/-! ## Rings (R235 to R237) -/

def State.ring (s : State) (r : Nat) : Ring := Tab.get Ring.empty s.coach.rings r

def State.setRing (s : State) (r : Nat) (x : Ring) : State :=
  ({ s with coach := { s.coach with rings := Tab.set Ring.empty s.coach.rings r x } }).logChange 0x0007 r 48 none

def RingState.num : RingState → Nat
  | .free => 0
  | .armed => 1
  | .paused => 2
  | .stopping => 3

def Ring.size (x : Ring) : Nat := 2 ^ x.log2

/-- Where slot `n` mod SIZE lies (R235). -/
def Ring.slotAddr (x : Ring) (n : Nat) : Nat := x.base + 256 + 128 * (n % x.size)

/-- Where completion entry `n` mod SIZE lies (R235). -/
def Ring.cplAddr (x : Ring) (n : Nat) : Nat := x.base + 256 + 128 * x.size + 32 * (n % x.size)

/-- The 32 bytes of a ring table entry (R237). -/
def ringEntry (x : Ring) : Nat :=
  pack [(x.st.num, 254), (b2n x.onFault, 253), (b2n x.s1, 252), (x.stopCause, 244), (x.log2, 240),
    (x.maxEngines - 1, 234), (x.tenant, 224), (x.owner, 212), (x.pauseFault, 198), (x.base / 4096, 147),
    (x.s1Root / 4096, 102), (x.cplCount, 32), (x.fetchIdx, 0)]

/-- The line key, before remap, of a pool address of this module's own structures. -/
def State.lineAt (s : State) (addr : Nat) : Nat := lineOfOff (s.ext (addrExt addr)) (addrOff addr)

/-- Writes bytes at a pool address, within one line. -/
def State.writePool (s : State) (addr : Nat) (bytes : List Byte) : State :=
  let off := addr % 64
  let mask := BitVec.ofNat 64 ((2 ^ bytes.length - 1) * 2 ^ off)
  let data := lineOf (zeros off ++ bytes ++ zeros (64 - off - bytes.length))
  (s.writeLine (s.lineAt addr) mask data none []).1

/-- Reads the line at a pool address. -/
def State.readPool (s : State) (addr : Nat) (err : Err) (who : Reader) : State × ReadAns :=
  s.readLine (s.lineAt addr) err who false

/-- Does a pool address lie in an extent that is not FREE, in a granule that this module holds? -/
def State.poolHere (s : State) (addr : Nat) : Bool :=
  let x := s.ext (addrExt addr)
  let g := addrOff addr / 2 ^ 21
  decide (x.st ≠ .free ∧ g < x.lenGran ∧ granMember x (addrExt addr) g = some s.setIndex)

/-- Writes line 1 of the ring header, while its memory is still an extent's (R236). -/
def State.writeLine1 (s : State) (r : Nat) : State :=
  let x := s.ring r
  let s := s.setRing r { x with line1Dirty := false }
  if !s.poolHere x.base then s
  else
    let f := Tab.get FaultRec.empty s.coach.frecs x.pauseFault
    let paused := decide (x.st = .paused)
    s.writePool (x.base + 64) (leBytes 4 x.fetchIdx ++ leBytes 4 x.cplCount ++ leBytes 1 x.st.num ++
      leBytes 1 x.stopCause ++ leBytes 2 (if paused then x.pauseFault else 0xFFFF) ++
      leBytes 2 (if paused then f.gen else 0) ++ zeros 2 ++ leBytes 8 s.epoch ++ zeros 40)

/-- COACH_NOTICE (R262). -/
def State.coachNotice (s : State) (host kind code ring fid gen : Nat) : State :=
  s.notice host 0x52 (leBytes 1 kind ++ leBytes 1 code ++ leBytes 2 ring ++ leBytes 2 fid ++ leBytes 2 gen ++
    leBytes 8 s.epoch)

/-- COACH_CPL (R238). -/
def State.coachCpl (s : State) (v : Via) (cmd code ring value : Nat) : State :=
  s.finish v cmd 0x56 code value (leBytes 1 code ++ zeros 1 ++ leBytes 2 ring ++ zeros 4 ++ leBytes 8 value) []

/-! ## Descriptors (R243, R250) -/

def State.descsOf (s : State) (r : Nat) : List Desc := s.coach.descs.filter fun d => decide (d.ring = r)

/-- Bytes a descriptor takes in the pantry's translated-descriptor partition (R249). -/
def Desc.pantryBytes (d : Desc) : Nat := 128 + 16 * d.pages.length

def State.pantryDescs (s : State) : Nat := sumOf (s.coach.descs.map Desc.pantryBytes)

def descPartition : Nat := 4096 * 2 ^ 20

/-- The fault record `f` (R256). -/
def State.frec (s : State) (f : Nat) : FaultRec := Tab.get FaultRec.empty s.coach.frecs f

def State.setFrec (s : State) (f : Nat) (x : FaultRec) : State :=
  ({ s with coach := { s.coach with frecs := Tab.set FaultRec.empty s.coach.frecs f x } }).logChange 0x000E f 48 none

/-- The 32 bytes of a fault record (R256). -/
def faultRecord (x : FaultRec) : Nat :=
  pack [(b2n x.valid, 255), (x.stage, 254), (x.kind, 252), (x.need, 249), (x.tenant, 239), (x.gen, 223),
    (x.waiters, 206), (x.s1Root / 4096, 147), (x.page, 102), (x.firstEpoch, 0)]

/-- A descriptor leaves its fault record. -/
def State.leaveFault (s : State) (d : Desc) : State :=
  match d.fault with
  | some f =>
    let x := s.frec f
    let w := x.waiters - 1
    s.setFrec f { x with waiters := w, idleSince := if w = 0 then some s.epoch else x.idleSince }
  | none => s

/-- A PAUSED ring none of whose descriptors waits on a fault is ARMED again; of those that wait, the lowest names PAUSE_FAULT (R236, R240). -/
def State.resumeRing (s : State) (r : Nat) : State :=
  let x := s.ring r
  if x.st = .paused then
    match (s.descsOf r).find? fun d => decide (d.st = .paused) with
    | none => (s.setRing r { x with st := .armed }).writeLine1 r
    | some d => s.setRing r { x with pauseFault := d.fault.getD x.pauseFault }
  else s

/-- PHASE of index `n` (R255). -/
def Ring.phase (x : Ring) (n : Nat) : Nat := (n / x.size + 1) % 2

/-- Writes a completion entry and takes the descriptor out (R255). -/
def State.descDone (s : State) (d : Desc) (code done fid gen detail : Nat) (s2 : Bool) : State :=
  let x := s.ring d.ring
  let s := s.leaveFault d
  let s := { s with coach := { s.coach with
    descs := s.coach.descs.filter fun y => !decide (y.ring = d.ring ∧ y.idx = d.idx)
    engines := s.coach.engines.map fun (e : Nat × Engine) =>
      if e.2.job = some (d.ring, d.idx) then (e.1, { e.2 with job := none }) else e
    invals := s.coach.invals.map fun (v : Inval) => { v with waits := v.waits.filter fun w => decide (w ≠ (d.ring, d.idx)) } } }
  let s :=
    if (s.ext (addrExt x.base)).st ≠ .active then s.bump 10 0 8 1
    else
      let entry := leBytes 1 code ++ leBytes 1 (x.phase d.idx + 2 * b2n s2) ++ leBytes 2 fid ++ leBytes 2 gen ++
        zeros 2 ++ leBytes 8 d.cookie ++ leBytes 8 done ++ leBytes 8 detail
      let s := s.writePool (x.cplAddr d.idx) entry
      s.setRing d.ring { s.ring d.ring with cplCount := ((s.ring d.ring).cplCount + 1) % two32, line1Dirty := true }
  let s := if code = cOk then s.bump 5 d.ring 1 1 else if code = cXlateStale then s.bump 5 d.ring 2 1 else s
  s.resumeRing d.ring

/-- A change of the open INVALIDATEs enters the state copy (R263, R359). -/
def State.logInvals (s : State) : State := s.logChange 0x000E s.coach.invals.length 32 none

/-- INVALIDATE_DONE (R260): every open INVALIDATE with nothing left to wait for completes. -/
def State.settleInvals (s : State) : State :=
  let done := s.coach.invals.filter fun v => decide (v.waits = [])
  let s := if done = [] then s
    else ({ s with coach := { s.coach with invals := s.coach.invals.filter fun v => decide (v.waits ≠ []) } }).logInvals
  done.foldl (fun s v =>
    let s := match v.ring with
      | some (r, i) => match s.desc r i with
        | some d => s.descDone d cOk 0 0xFFFF 0 v.count false
        | none => s
      | none => s
    match v.owed with
    | some (.rsl c) => s.rslDone 0x0150 c.tag c.port cOk v.count []
    | _ => s) s

/-- RING_STOP_DONE (R240): a STOPPING ring with every descriptor DONE is FREE, and its held RING_STOPs complete. -/
def State.settleRing (s : State) (r : Nat) : State :=
  let x := s.ring r
  if x.st = .stopping ∧ s.descsOf r = [] then
    let s := (s.setRing r { x with st := .free }).writeLine1 r
    let s := s.setRing r { Ring.empty with fetchIdx := 0 }
    x.stopOwed.foldl (fun s v => s.coachCpl v 0x54 cOk r 0) s
  else s

/-- What follows when descriptors have ended. -/
def State.settle (s : State) : State :=
  let s := s.settleInvals
  (s.coach.rings.map (·.1)).foldl (fun s r => s.settleRing r) s

/-- Ends a descriptor that has moved nothing. -/
def State.endDesc (s : State) (d : Desc) (code : Nat) : State := s.descDone d code 0 0xFFFF 0 0 false

def Desc.unstarted (d : Desc) : Bool := decide (d.st = .walking ∨ d.st = .paused ∨ d.st = .queued)

/-- Descriptors in ascending ring number; within a ring they stand in the order of their fetch, which is index order. -/
def descLe (a b : Desc) : Bool := decide (a.ring ≤ b.ring)

/-- Ends every unstarted descriptor that `p` picks with `code`. -/
def State.endUnstarted (s : State) (p : Desc → Bool) (code : Nat) : State :=
  (sortBy descLe (s.coach.descs.filter fun d => d.unstarted && p d)).foldl (fun s d => s.endDesc d code) s

/-- A LAUNCH armed on a ring is cancelled with `code` (R303); the ring keeps its hold (R302). -/
def State.cancelLaunch (s : State) (r code value : Nat) : State :=
  let x := s.ring r
  match x.launch with
  | some (_, v) =>
    let s := (s.setRing r { x with launch := none }).logChange 0x000C r 32 none
    s.finish v 0x69 0x6A code value
      (leBytes 1 code ++ zeros 1 ++ leBytes 2 r ++ zeros 4 ++ leBytes 8 value) []
  | none => s

/-- A ring stops (R240): STOPPING with the cause; MODE 1 ends what has not started with REVOKED. -/
def State.stopRing (s : State) (r cause : Nat) (mode1 : Bool) : State :=
  let s := s.cancelLaunch r cRevoked 0
  let s := (s.setRing r { s.ring r with st := .stopping, stopCause := cause, held := false }).writeLine1 r
  if mode1 then s.endUnstarted (fun d => decide (d.ring = r)) cRevoked else s

/-- A stop cause of R241: the owner and the operator are told. -/
def State.stopForCause (s : State) (r cause : Nat) : State :=
  let x := s.ring r
  if x.st = .armed ∨ x.st = .paused then
    let s := s.stopRing r cause true
    let s := s.coachNotice x.owner 2 cause r 0xFFFF 0
    let s := s.raise 0x0502 sevNotice s.actDie (leBytes 1 2 ++ leBytes 1 cause ++ leBytes 2 r ++ leBytes 2 0xFFFF ++
      leBytes 2 0 ++ leBytes 8 s.epoch)
    s.settle
  else s

/-- The rings of a host whose lease is reclaimed stop with LEASE_ENDED (R261). -/
def State.stopRingsOf (s : State) (h : Nat) : State :=
  ((s.coach.rings.filter fun r => decide (r.2.owner = h)).map (·.1)).foldl
    (fun s r => s.stopForCause r cLeaseEnded) s

/-- EXT_WITHDRAW with FORCE 1 of extent `e`: what has not started and holds its pages ends REVOKED (R191). -/
def State.cancelDescs (s : State) (e : Nat) : State :=
  (s.endUnstarted (fun d => d.pages.any fun p => s.extHasPage e p.ppn) cRevoked).settle

/-! ## Translation (R245 to R249) -/

/-- What a step of translation finds. -/
inductive Xlate where
  | ok (pa : Nat) (room : Nat) (merge : Nat)
  | fault (kind stage page addr need : Nat)
  | fail (code : Nat)
  deriving DecidableEq, Repr

/-- Stage 2 on a pool address with the owner's rights (R248). -/
def State.stage2 (s : State) (owner addr need : Nat) : Xlate :=
  match s.access owner addr need with
  | .fail c k =>
    if k = 5 then .fault 2 1 (bitsOf addr 56 12) addr need
    else if k = 6 then .fault 3 1 (bitsOf addr 56 12) addr need
    else .fail c
  | .ok e _ =>
    if (s.ext e).sealed then .fail cRights
    else match (s.ext e).domain with
      | some d => if (s.domain d).st = .up then .ok addr (65536 - addr % 65536) 0 else .fail cDomainDown
      | none => .ok addr (65536 - addr % 65536) 0

/-- Reads 8 bytes at a pool address for the walker. -/
def State.walkRead (s : State) (addr : Nat) (err : Err) : State × Option Nat :=
  let (s, a) := s.readPool addr err .walker
  if a.poison then (s, none) else (s, some (a.data.toNat / 256 ^ (addr % 64) % two64))

/-- Bits of the block that a leaf at level `lvl` maps. -/
def leafBits (lvl : Nat) (g64 : Bool) : Nat :=
  if lvl = 1 then 30 else if lvl = 2 then 21 else if g64 then 16 else 12

/-- One stage-1 entry (R247, R248): the next table, a leaf, or why the walk ends. -/
inductive S1Entry where
  | table (addr : Nat)
  | leaf (oa bits : Nat)
  | missing
  | noRight
  | malformed
  deriving DecidableEq, Repr

def s1Decode (lvl need w : Nat) : S1Entry :=
  let leaf := bitOf w 1
  let g64 := bitOf w 7
  let rights := bitsOf w 6 4
  let oa := bitsOf w 56 12 * 4096
  if !bitOf w 0 then .missing
  else if bitsOf w 63 57 ≠ 0 ∨ bitsOf w 11 8 ≠ 0 ∨ bitsOf w 3 2 ≠ 0 then .malformed
  else if leaf then
    if lvl = 0 ∨ (g64 ∧ lvl ≠ 3) ∨ oa % 2 ^ leafBits lvl g64 ≠ 0 then .malformed
    else if rights &&& need ≠ need then .noRight
    else .leaf oa (leafBits lvl g64)
  else if lvl = 3 ∨ g64 ∨ rights ≠ 0 then .malformed
  else .table oa

/-- Walks stage 1 from level `lvl` (fuel: the levels left); the error pattern is on the first table line read. -/
def State.walkS1 (s : State) (owner tva need : Nat) : Nat → Nat → Nat → Err → State × Xlate
  | 0, _, _, _ => (s, .fail cMalformed)
  | fuel + 1, lvl, table, err =>
    let addr := table + 8 * bitsOf tva (47 - 9 * lvl) (39 - 9 * lvl)
    match s.stage2 owner addr needR with
    | .fault k st p a n => (s, .fault k st p a n)
    | .fail c => (s, .fail c)
    | .ok _ _ _ =>
      match s.walkRead addr err with
      | (s, none) => (s, .fail cPoison)
      | (s, some w) =>
        match s1Decode lvl need w with
        | .missing => (s, .fault 0 0 (bitsOf tva 47 12) tva need)
        | .noRight => (s, .fault 1 0 (bitsOf tva 47 12) tva need)
        | .malformed => (s, .fail cMalformed)
        | .table t => State.walkS1 s owner tva need fuel (lvl + 1) t []
        | .leaf oa bits =>
          let pa := oa + tva % 2 ^ bits
          let room := if bits ≤ 16 then 4096 - tva % 4096 else 65536 - tva % 65536
          (s, .ok pa (min room (65536 - pa % 65536)) (oa + 1))

/-- Translates one address for the right `need`: stage 1 when enabled, then stage 2 (R248). -/
def State.translate (s : State) (x : Ring) (addr need : Nat) (err : Err) : State × Xlate :=
  if !x.s1 then (s, s.stage2 x.owner addr need)
  else match s.walkS1 x.owner addr need 4 0 x.s1Root err with
    | (s, .ok pa room m) => match s.stage2 x.owner pa need with
      | .ok _ _ _ => (s, .ok pa room m)
      | o => (s, o)
    | (s, o) => (s, o)

/-- What the walk of a range gives: its page-list entries with the leaf each lies in, or why it ends and, at a fault, the
entries before it. `need`: the right that was missing (R256). -/
inductive Walk where
  | ok (pages : List (PageEnt × Nat))
  | fault (kind stage page addr need : Nat) (pages : List (PageEnt × Nat))
  | fail (code : Nat)
  deriving DecidableEq, Repr

/-- Adds a run to a page list, joining it to the run before when both lie in one leaf and one page (R249). -/
def addRun (l : List (PageEnt × Nat)) (p : PageEnt) (leaf : Nat) : List (PageEnt × Nat) :=
  match l.getLast? with
  | some (q, f) =>
    if f = leaf ∧ leaf ≠ 0 ∧ q.ppn = p.ppn ∧ q.dst = p.dst ∧ q.paLine + q.lines = p.paLine ∧
        q.tvaLine + q.lines = p.tvaLine then
      l.dropLast ++ [({ q with lines := q.lines + p.lines }, leaf)]
    else l ++ [(p, leaf)]
  | none => [(p, leaf)]

/-- Walks `len` bytes from `addr`; fuel bounds the runs. -/
def State.walkRange (s : State) (x : Ring) (need : Nat) (dst : Bool) :
    Nat → Nat → Nat → Err → List (PageEnt × Nat) → State × Walk
  | 0, _, len, _, acc => (s, if len = 0 then .ok acc else .fail cMalformed)
  | fuel + 1, addr, len, err, acc =>
    if len = 0 then (s, .ok acc)
    else match s.translate x addr need err with
      | (s, .fail c) => (s, .fail c)
      | (s, .fault k st p a n) => (s, .fault k st p a n acc)
      | (s, .ok pa room leaf) =>
        let n := min len room
        let ent : PageEnt :=
          ⟨s.lineAt pa / 1024, pa / 64, if x.s1 then addr / 64 else 0, (n + 63) / 64, dst⟩
        State.walkRange s x need dst fuel (addr + n) (len - n) [] (addRun acc ent leaf)

/-- The fuel a range of `len` bytes needs: one run per 4 KiB, and two for the ends. -/
def rangeFuel (len : Nat) : Nat := len / 4096 + 2

/-- Walks several ranges in order. -/
def State.walkRanges (s : State) (x : Ring) (need : Nat) (dst : Bool) :
    List (Nat × Nat) → List (PageEnt × Nat) → Err → State × Walk
  | [], acc, _ => (s, .ok acc)
  | (a, n) :: rs, acc, err => match s.walkRange x need dst (rangeFuel n) a n err acc with
    | (s, .ok acc) => State.walkRanges s x need dst rs acc []
    | (s, w) => (s, w)

/-- Reads `n` list entries of 16 bytes from `addr` (R244): the ranges, or why the walk ends; a reserved byte set, an
address or length that is no multiple of 64 is MALFORMED (R245). `host`: the entries are HADDR values, which bits [63:48]
of no TVA bind. [DESIGN CHOICE, log 176: unsafe] -/
def State.readList (s : State) (x : Ring) (host : Bool) :
    Nat → Nat → Err → List (Nat × Nat) → State × (List (Nat × Nat) ⊕ Walk)
  | 0, _, _, acc => (s, .inl acc.reverse)
  | n + 1, addr, err, acc =>
    match s.translate x addr needR err with
    | (s, .fail c) => (s, .inr (.fail c))
    | (s, .fault k st p a n) => (s, .inr (.fault k st p a n []))
    | (s, .ok pa _ _) =>
      match s.readPool pa [] .walker with
      | (s, a) =>
        if a.poison then (s, .inr (.fail cPoison))
        else
          let w := a.data.toNat / 256 ^ (pa % 64) % 256 ^ 16
          let ea := w % two64
          let el := bitsOf w 95 64
          if ea % 64 ≠ 0 ∨ el % 64 ≠ 0 ∨ bitsOf w 127 96 ≠ 0 ∨ (x.s1 ∧ host = false ∧ 2 ^ 48 ≤ ea) then
            (s, .inr (.fail cMalformed))
          else State.readList s x host n (addr + 16) [] ((ea, el) :: acc)

/-- Do two runs of pool lines meet? -/
def runsMeet (p q : PageEnt) : Bool := decide (p.paLine < q.paLine + q.lines ∧ q.paLine < p.paLine + p.lines)

/-- LIST_COUNT of a GATHER or SCATTER (R244). -/
def Desc.listCount (d : Desc) : Nat := d.args % two32

def opCopy : Nat := 1
def opFill : Nat := 2
def opGather : Nat := 3
def opScatter : Nat := 4
def opReduce : Nat := 5
def opInvalidate : Nat := 6

/-- DST_FABRIC (R243). -/
def Desc.fabric (d : Desc) : Bool := d.flags.getLsbD 1

/-- Does the block of scales of a REDUCE of MX elements follow its source (R284)? One byte per run of 32 elements. -/
def mxScaleBytes (elemFmt len : Nat) (mx : Bool) : Nat :=
  if mx then (if elemFmt = 0 then len / 32 else len / 16) else 0

/-- The walk of a descriptor (R244 to R249): list first, then its source, then its destination. `scales`: bytes of MX
scales after a REDUCE source. -/
def State.walkDesc (s : State) (x : Ring) (d : Desc) (scales : Nat) (err : Err) :
    State × Walk × List (Nat × Nat) :=
  let listed := decide (d.op = opGather ∨ d.op = opScatter)
  let listAt := if d.op = opGather then d.src else d.dst
  let (s, lst) := if listed then s.readList x (d.fabric && decide (d.op = opScatter)) d.listCount listAt err [] else (s, .inl [])
  let err := if listed then [] else err
  match lst with
  | .inr w => (s, w, [])
  | .inl rs =>
    if listed ∧ sumOf (rs.map (·.2)) ≠ d.len then (s, .fail cMalformed, [])
    else
      let srcs := if d.op = opGather then rs else if d.op = opFill then [] else [(d.src, d.len + scales)]
      let dsts := if d.op = opScatter then rs else if d.op = opReduce then [] else [(d.dst, d.len)]
      match s.walkRanges x needR false srcs [] err with
      | (s, .ok acc) =>
        if d.fabric then (s, .ok acc, dsts)
        else match s.walkRanges x needW true dsts acc (if srcs = [] then err else []) with
          | (s, .ok acc) =>
            let ps := acc.map (·.1)
            let clash := (ps.filter fun p => !p.dst).any fun p => (ps.filter fun q => q.dst).any fun q => runsMeet p q
            if (d.op = opCopy ∨ d.op = opScatter) ∧ clash then (s, .fail cMalformed, []) else (s, .ok acc, [])
          | (s, w) => (s, w, [])
      | (s, w) => (s, w, [])

/-! ## Submission faults (R256, R257) -/

/-- The valid record of a key among the tenant's 16, or its lowest free one. -/
def State.faultSlot (s : State) (tenant stage root page : Nat) : Option (Nat × Bool) :=
  let own := (List.range 16).map fun i => tenant * 16 + i
  match own.find? fun f =>
    let x := s.frec f
    decide (x.valid = true ∧ x.stage = stage ∧ x.s1Root = root ∧ x.page = page) with
  | some f => some (f, true)
  | none => (own.find? fun f => !(s.frec f).valid).map fun f => (f, false)

/-- A walk fault of descriptor `d`, with the page list built so far (R249, R250, R256, R257). -/
def State.submissionFault (s : State) (d : Desc) (kind stage page addr need : Nat) (pages : List PageEnt) : State :=
  let x := s.ring d.ring
  let root := if stage = 0 then x.s1Root else 0
  let s := s.bump 5 d.ring 3 1
  match s.faultSlot x.tenant stage root page with
  | none => ((s.bump 6 x.tenant 0 1).descDone d cXlateFault 0 0xFFFF 0 addr (stage = 1)).settle
  | some (f, joined) =>
    let old := s.frec f
    let r : FaultRec := if joined then { old with need := old.need ||| need }
      else { valid := true, stage := stage, kind := kind, need := need, tenant := x.tenant, gen := (old.gen + 1) % 65536,
             waiters := 0, s1Root := root, page := page, firstEpoch := s.epoch, idleSince := some s.epoch, noticed := [] }
    if x.onFault then
      let s := s.setFrec f r
      (s.descDone d cXlateFault 0 f r.gen addr (stage = 1)).settle
    else
      let first := !(d.ring ∈ r.noticed)
      let s := s.setFrec f { r with waiters := r.waiters + 1, idleSince := none,
                                    noticed := if first then r.noticed ++ [d.ring] else r.noticed }
      let s := s.setDesc { d with st := .paused, fault := some f, faultAddr := addr, pages := pages }
      let lowest := (s.descsOf d.ring).filter fun y => decide (y.st = .paused)
      let pf := match lowest.head? with
        | some y => y.fault.getD f
        | none => f
      let st : RingState := if x.st = .armed then .paused else x.st
      let s := s.setRing d.ring { x with st := st, pauseFault := pf }
      let s := if st = x.st then s else s.writeLine1 d.ring
      if first then s.coachNotice x.owner 1 cXlateFault d.ring f r.gen else s

/-! ## Invalidation (R259, R260) -/

/-- Is a page-list entry in the scope of an INVALIDATE? -/
def inScope (s : State) (d : Desc) (scope src len root : Nat) (p : PageEnt) : Bool :=
  match scope with
  | 0 => decide ((s.ring d.ring).s1 = true ∧ (s.ring d.ring).s1Root = root ∧
      p.tvaLine * 64 < src + len ∧ src < (p.tvaLine + p.lines) * 64)
  | 1 => decide (p.paLine * 64 < src + len ∧ src < (p.paLine + p.lines) * 64)
  | _ => true

/-- An accepted INVALIDATE acts on the tenant's descriptors, and opens its wait (R259). `slot` is its own descriptor. -/
def State.invalidateAct (s : State) (tenant scope src len root : Nat) (slot : Option (Nat × Nat)) (owed : Option Owed) :
    State :=
  let mine := fun (d : Desc) => decide ((s.ring d.ring).tenant = tenant ∧ slot ≠ some (d.ring, d.idx) ∧
    d.op ≠ opInvalidate)
  let hit := fun (d : Desc) => d.pages.any (inScope s d scope src len root)
  let stale := s.coach.descs.filter fun d => mine d && (decide (d.st = .walking) ||
    (decide (d.st = .paused ∨ d.st = .queued) && hit d))
  let wait := s.coach.descs.filter fun d => mine d && decide (d.st = .running) && hit d
  let exts := (wait.flatMap fun d => (d.pages.filter (inScope s d scope src len root)).map fun p =>
    bitsOf (p.paLine * 64) 56 43).eraseDups
  let s := (sortBy descLe stale).foldl (fun s d => s.endDesc d cXlateStale) s
  let s := ({ s with coach := { s.coach with invals := s.coach.invals ++
    [Inval.mk (wait.map fun (d : Desc) => (d.ring, d.idx)) exts stale.length slot owed] } }).logInvals
  s.settle

/-- The arguments of an INVALIDATE are in range (R259). -/
def invalArgsOk (scope src len : Nat) : Bool :=
  if scope = 2 then decide (src = 0 ∧ len = 0)
  else decide (scope < 2 ∧ len % 4096 = 0 ∧ 4096 ≤ len ∧ len ≤ 2 ^ 48 ∧ src % 4096 = 0)

/-- SCOPE 1 names a range within one extent of the tenant (R259). -/
def State.invalRights (s : State) (tenant scope src len : Nat) : Bool :=
  decide (scope ≠ 1 ∨ (addrExt src = addrExt (src + len - 1) ∧ src + len ≤ 2 ^ 57 ∧
    (s.ext (addrExt src)).st ≠ .free ∧ (s.ext (addrExt src)).tenant = tenant ∧
    addrOff src + len ≤ 2 ^ 21 * (s.ext (addrExt src)).lenGran))

/-! ## Fetching (R241, R245) -/

/-- The descriptor in 128 bytes (R243), with whether a check of R245 that needs no translation fails. -/
def parseDesc (x : Ring) (ring idx w : Nat) : Desc :=
  let op := bitsOf w 7 0
  let flags := BitVec.ofNat 8 (bitsOf w 15 8)
  let ckt := bitsOf w 31 16
  let fid := bitsOf w 47 32
  let len := bitsOf w 127 64
  let src := bitsOf w 191 128
  let dst := bitsOf w 255 192
  let args := bitsOf w 511 256
  let cookie := bitsOf w 575 512
  let isInv := decide (op = opInvalidate)
  let fabric := flags.getLsbD 1
  let cktOn := flags.getLsbD 2
  let listed := decide (op = opGather ∨ op = opScatter)
  let hostDst := fabric
  let argBad :=
    if op = opFill then decide (2 ^ 64 ≤ args)
    else if listed then decide (2 ^ 32 ≤ args)
    else if op = opReduce then decide (2 ^ 128 ≤ args)
    else if isInv then decide (2 ^ 8 ≤ args)
    else decide (args ≠ 0)
  let addrBad := fun (a : Nat) (host : Bool) => decide (a % 64 ≠ 0 ∨ (x.s1 = true ∧ host = false ∧ 2 ^ 48 ≤ a))
  let listAddrBad := fun (a : Nat) => decide (a % 64 ≠ 0 ∨ (x.s1 = true ∧ 2 ^ 48 ≤ a))
  let bad :=
    decide (op = 0 ∨ 6 < op ∨ 8 ≤ flags.toNat ∨ bitsOf w 63 48 ≠ 0 ∨ bitsOf w 1023 576 ≠ 0) || argBad ||
    (!isInv && decide (len = 0 ∨ len % 64 ≠ 0 ∨ 2 ^ 30 < len)) ||
    (decide (op = opFill) && decide (src ≠ 0)) ||
    (decide (op = opReduce ∨ op = opInvalidate) && decide (dst ≠ 0)) ||
    (fabric && decide (op = opReduce ∨ op = opInvalidate)) || (cktOn && !fabric) ||
    (if cktOn then decide (512 ≤ ckt) else decide (ckt ≠ 0)) ||
    (if fabric then decide (4096 ≤ fid) else decide (fid ≠ 0)) ||
    (!isInv && decide (op ≠ opFill) && (if op = opGather then listAddrBad src else addrBad src false)) ||
    (decide (op = opCopy ∨ op = opFill ∨ op = opGather) && addrBad dst hostDst) ||
    (decide (op = opScatter) && listAddrBad dst) ||
    (isInv && decide (x.s1 = true ∧ args % 256 = 0 ∧ 2 ^ 48 ≤ src)) ||
    (listed && decide (args % two32 = 0 ∨ 65536 < args % two32))
  { ring := ring, idx := idx, op := op, flags := flags, cktId := ckt, dstFid := fid, len := len, src := src, dst := dst,
    args := args, cookie := cookie, malformed := bad, st := .walking, pages := [], hosts := [], fault := none, faultAddr := 0,
    engine := none, pos := 0, resume := 0, openWr := [], endCode := cOk, lines := [], waited := false }

/-- Fetches the descriptor at FETCH_IDX of ring `r` (R241, R250, R259); `false` when the fetch stops at this slot. -/
def State.fetchOne (s : State) (r : Nat) : State × Bool :=
  let x := s.ring r
  let a := x.slotAddr x.fetchIdx
  let (s, l0) := s.readPool a [] .front
  let (s, l1) := s.readPool (a + 64) [] .front
  let d := parseDesc x r x.fetchIdx (l0.data.toNat + l1.data.toNat <<< 512)
  if d.op = opInvalidate ∧ 64 ≤ s.coach.invals.length then (s, false)
  else if descPartition < s.pantryDescs + 128 then
    ({ s with coach := { s.coach with stallEpoch := true } }, false)
  else
    let s := s.setRing r { s.ring r with fetchIdx := (x.fetchIdx + 1) % two32, line1Dirty := true }
    let s := ({ s with coach := { s.coach with descs := s.coach.descs ++ [d] } }).bump 5 r 0 1
    if l0.poison ∨ l1.poison then ((s.endDesc d cPoison).settle, true)
    else if d.malformed then ((s.endDesc d cMalformed).settle, true)
    else if d.op = opInvalidate then
      let scope := d.args % 256
      if !invalArgsOk scope d.src d.len then ((s.endDesc d cMalformed).settle, true)
      else if !s.invalRights x.tenant scope d.src d.len then ((s.endDesc d cRights).settle, true)
      else
        let s := s.setDesc { d with st := .running }
        (s.invalidateAct x.tenant scope d.src d.len x.s1Root (some (r, d.idx)) none, true)
    else if d.fabric ∧ s.tenantOf d.dstFid ≠ some x.tenant then ((s.endDesc d cRights).settle, true)
    else (s, true)

/-- Fetches up to `n` descriptors; answers how many it took. -/
def State.fetchMany (s : State) (r : Nat) : Nat → Nat → State × Nat
  | 0, k => (s, k)
  | n + 1, k => if (s.fetchOne r).2 then State.fetchMany (s.fetchOne r).1 r n (k + 1) else ((s.fetchOne r).1, k)

/-- The scan of a ring with `want` descriptors ready for it: the budget after it. -/
def State.scanFetch (s : State) (r budget want : Nat) : State × Nat :=
  let p := s.fetchMany r (min want budget) 0
  let s := if budget < want then p.1.bump 10 0 6 (want - budget) else p.1
  let s := if (s.ring r).line1Dirty then s.writeLine1 r else s
  (s, budget - p.2)

/-- The scan of a ring of `size` descriptors of which `n` are submitted and not fetched: the budget after it. -/
def State.scanCount (s : State) (r budget size n : Nat) : State × Nat :=
  if size < n then (s.stopForCause r cMalformed, budget)
  else s.scanFetch r budget (min n (s.cfgAt fFetchMax))

/-- The scan of ring record `x`, whose header's line 0 is read: the budget after it. -/
def State.scanHeader (s : State) (r budget : Nat) (x : Ring) (l0 : ReadAns) : State × Nat :=
  if l0.poison then (s.stopForCause r cPoison, budget)
  else if l0.data.toNat / two32 ≠ 0 then (s.stopForCause r cMalformed, budget)
  else s.scanCount r budget x.size ((l0.data.toNat % two32 + two32 - x.fetchIdx) % two32)

/-- The scan of one ring with `budget` descriptors left (R241): the budget after it. A PAUSED ring is not read, but the
causes that lie outside it stop it too (R240). [DEDUCED, log 177: unsafe] -/
def State.scanRing (s : State) (r budget : Nat) : State × Nat :=
  let x := s.ring r
  let e := addrExt x.base
  let l := s.lease x.owner
  if x.st ≠ .armed ∧ x.st ≠ .paused then (s, budget)
  else if l.st = .grace then (s, budget)
  else if l.st = .reclaim then (s.stopForCause r cLeaseEnded, budget)
  else if s.grant e x.owner &&& 3 ≠ 3 then (s.stopForCause r cRights, budget)
  else if (s.ext e).st ≠ .active then (s.stopForCause r cRevoked, budget)
  else if x.st = .paused then (s, budget)
  else
    let p := s.readPool x.base [] .front
    p.1.scanHeader r budget x p.2

/-- Visits rings in order while budget is left; answers the ring to begin after, when the budget ran out. -/
def State.scanFrom (s : State) : List Nat → Nat → State × Option Nat
  | [], _ => (s, none)
  | r :: rs, budget =>
    let (s, b) := s.scanRing r budget
    if b = 0 then (s, some r) else State.scanFrom s rs b

/-- RING_SCAN, step 7 of R35 (R241). [DEDUCED, log 95: unsafe] -/
def State.ringScan (s : State) : State :=
  if !s.hubsObey then s.hubsRefuse else
  let keys := s.coach.rings.map (·.1)
  let start := s.coach.scanPos
  let order := (keys.filter fun r => decide (start ≤ r)) ++ (keys.filter fun r => decide (r < start))
  let (s, last) := s.scanFrom order (s.cfgAt fFetchTotal)
  let pos := match last with
    | some r => (r + 1) % 4096
    | none => 0
  { s with coach := { s.coach with scanPos := pos } }

end Sys2Proof.Machine
end

