-- ==== Sys2Proof/Machine/Float.lean ====
section
/-! DEFINITION. The stockpot's number formats (R268 to R274), exact arithmetic, rounding (R285), the Philox 4x32-10
generator (R286) and the MX rescaling (R271). -/

set_option Elab.async false

namespace Sys2Proof.Machine
open Sys2Proof

/-! ## Formats (R268) -/

/-- FMT codes. -/
def fmtFp64 : Nat := 0x0
def fmtFp32 : Nat := 0x1
def fmtFp19 : Nat := 0x2
def fmtFp16 : Nat := 0x3
def fmtBf16 : Nat := 0x4
def fmtE4m3 : Nat := 0x5
def fmtE5m2 : Nat := 0x6
def fmtE3m2 : Nat := 0x7
def fmtE2m3 : Nat := 0x8
def fmtE2m1 : Nat := 0x9
def fmtInt32 : Nat := 0xA
def fmtInt8 : Nat := 0xB

/-- CODE of an FMT byte, and its MX bit. -/
def fmtCode (f : Nat) : Nat := f % 16
def fmtMx (f : Nat) : Bool := bitOf f 4

/-- How a format shows infinity and NaN. -/
inductive Specials where
  | ieee | e4m3 | none
  deriving DecidableEq, Repr

/-- A floating-point format: container bits, the bit where its value starts, exponent and mantissa bits, bias. -/
structure Fmt where
  bits : Nat
  low : Nat
  ebits : Nat
  mbits : Nat
  bias : Nat
  sp : Specials
  deriving DecidableEq, Repr

/-- The table of R268. -/
def fmtOf (code : Nat) : Fmt :=
  match code with
  | 0 => ⟨64, 0, 11, 52, 1023, .ieee⟩
  | 1 => ⟨32, 0, 8, 23, 127, .ieee⟩
  | 2 => ⟨32, 13, 8, 10, 127, .ieee⟩
  | 3 => ⟨16, 0, 5, 10, 15, .ieee⟩
  | 4 => ⟨16, 0, 8, 7, 127, .ieee⟩
  | 5 => ⟨8, 0, 4, 3, 7, .e4m3⟩
  | 6 => ⟨8, 0, 5, 2, 15, .ieee⟩
  | 7 => ⟨6, 0, 3, 2, 3, .none⟩
  | 8 => ⟨6, 0, 2, 3, 1, .none⟩
  | 9 => ⟨4, 0, 2, 1, 1, .none⟩
  | 10 => ⟨32, 0, 0, 0, 0, .none⟩
  | _ => ⟨8, 0, 0, 0, 0, .none⟩

def isIntFmt (code : Nat) : Bool := decide (code = fmtInt32 ∨ code = fmtInt8)

/-- Elements in a 64-byte line (R265, R269). -/
def elemsPerLine (code : Nat) : Nat :=
  match code with
  | 7 => 64
  | 8 => 64
  | 9 => 128
  | c => 512 / (fmtOf c).bits

/-- The exact value of a number: m * 2^e with a sign, an infinity or a NaN. -/
inductive FVal where
  | nan (neg : Bool)
  | inf (neg : Bool)
  | fin (neg : Bool) (m : Nat) (e : Int)
  deriving DecidableEq, Repr

/-- The value that a container's bits spell. -/
def fdecode (code w : Nat) : FVal :=
  let f := fmtOf code
  let v := w / 2 ^ f.low
  let man := v % 2 ^ f.mbits
  let ex := v / 2 ^ f.mbits % 2 ^ f.ebits
  let neg := bitOf v (f.mbits + f.ebits)
  let top := decide (ex = 2 ^ f.ebits - 1)
  let special := match f.sp with
    | .ieee => top
    | .e4m3 => top && decide (man = 7)
    | .none => false
  if special then
    if f.sp = .ieee ∧ man = 0 then .inf neg else .nan neg
  else if ex = 0 then .fin neg man (1 - (f.bias : Int) - f.mbits)
  else .fin neg (man + 2 ^ f.mbits) ((ex : Int) - f.bias - f.mbits)

/-- The canonical NaN (R272), with the sign bit for the 8-bit results. -/
def fnan (code : Nat) (neg : Bool) : Nat :=
  match code with
  | 0 => 0x7FF8000000000000
  | 1 => 0x7FC00000
  | 2 => 0x7FC00000
  | 3 => 0x7E00
  | 4 => 0x7FC0
  | 5 => 0x7F + b2n neg * 0x80
  | 6 => 0x7E + b2n neg * 0x80
  | _ => 0

/-- The bits of magnitude a * 2^q, already representable, in a format. -/
def fpack (f : Fmt) (neg : Bool) (a : Nat) (q : Int) : Nat :=
  let sign := b2n neg * 2 ^ (f.mbits + f.ebits)
  let body :=
    if a < 2 ^ f.mbits then a
    else
      let up := Nat.log2 a - f.mbits
      let ex := (q + up + f.mbits + f.bias).toNat
      ex * 2 ^ f.mbits + (a / 2 ^ up - 2 ^ f.mbits)
  (sign + body) * 2 ^ f.low

/-- The largest finite magnitude: (a, q) for a * 2^q. -/
def fmax (f : Fmt) : Nat × Int :=
  match f.sp with
  | .ieee => (2 ^ (f.mbits + 1) - 1, (2 ^ f.ebits : Nat) - 2 - f.bias - f.mbits)
  | .e4m3 => (2 ^ (f.mbits + 1) - 2, (2 ^ f.ebits : Nat) - 1 - f.bias - f.mbits)
  | .none => (2 ^ (f.mbits + 1) - 1, (2 ^ f.ebits : Nat) - 1 - f.bias - f.mbits)

/-- a * 2^q against b * 2^r. -/
def magLt (a : Nat) (q : Int) (b : Nat) (r : Int) : Bool :=
  let m := min q r
  decide (a * 2 ^ (q - m).toNat < b * 2 ^ (r - m).toNat)

/-- Rounding modes (R275): 0 nearest even, 1 toward zero, 2 stochastic. -/
def roundUp (rmode a rem sh rnd : Nat) : Bool :=
  match rmode with
  | 0 => decide (2 ^ sh < 2 * rem ∨ (2 * rem = 2 ^ sh ∧ a % 2 = 1))
  | 1 => false
  | _ => decide (two32 ≤ rem * two32 / 2 ^ sh + rnd)

/-- Rounds the exact value to a format (R272, R285): its bits, and whether it overflowed or saturated. `rnd` is the
32-bit word of R286. -/
def fround (code rmode rnd : Nat) (v : FVal) : Nat × Bool :=
  let f := fmtOf code
  let narrow := decide (5 ≤ code)
  let mx := fmax f
  match v with
  | .nan neg => (fnan code neg, false)
  | .inf neg =>
    if code = fmtE4m3 ∨ f.sp = .none then (fpack f neg mx.1 mx.2, true)
    else ((b2n neg * 2 ^ (f.mbits + f.ebits) + (2 ^ f.ebits - 1) * 2 ^ f.mbits) * 2 ^ f.low, false)
  | .fin neg 0 _ => (b2n neg * 2 ^ (f.mbits + f.ebits) * 2 ^ f.low, false)
  | .fin neg m e =>
    let top : Int := Nat.log2 m + e
    let q : Int := max (top - f.mbits) (1 - (f.bias : Int) - f.mbits)
    let (a, rem, sh) :=
      if q ≤ e then (m * 2 ^ (e - q).toNat, 0, 0)
      else (m / 2 ^ (q - e).toNat, m % 2 ^ (q - e).toNat, (q - e).toNat)
    let a := if sh ≠ 0 ∧ roundUp rmode a rem sh rnd then a + 1 else a
    if narrow then
      if magLt mx.1 mx.2 m e then (fpack f neg mx.1 mx.2, true) else (fpack f neg a q, false)
    else if magLt mx.1 mx.2 a q then
      if rmode = 1 then (fpack f neg mx.1 mx.2, true)
      else ((b2n neg * 2 ^ (f.mbits + f.ebits) + (2 ^ f.ebits - 1) * 2 ^ f.mbits) * 2 ^ f.low, true)
    else (fpack f neg a q, false)

/-- The exact sum (R272): an exact zero of opposite signs is +0. -/
def fadd (x y : FVal) : FVal :=
  match x, y with
  | .nan _, _ => .nan false
  | _, .nan _ => .nan false
  | .inf a, .inf b => if a = b then .inf a else .nan false
  | .inf a, .fin _ _ _ => .inf a
  | .fin _ _ _, .inf b => .inf b
  | .fin a m e, .fin b n g =>
    let l := min e g
    let sx : Int := (if a then -1 else 1) * (m * 2 ^ (e - l).toNat : Nat)
    let sy : Int := (if b then -1 else 1) * (n * 2 ^ (g - l).toNat : Nat)
    let s := sx + sy
    if s = 0 then .fin (a && b && decide (m = 0 ∧ n = 0)) 0 0 else .fin (decide (s < 0)) s.natAbs l

/-- The exact product. -/
def fmul (x y : FVal) : FVal :=
  match x, y with
  | .nan _, _ => .nan false
  | _, .nan _ => .nan false
  | .inf a, .inf b => .inf (xor a b)
  | .inf a, .fin b n _ => if n = 0 then .nan false else .inf (xor a b)
  | .fin a m _, .inf b => if m = 0 then .nan false else .inf (xor a b)
  | .fin a m e, .fin b n g => .fin (xor a b) (m * n) (e + g)

/-- Is x below y, with -0 below +0 (R272)? -/
def flt (x y : FVal) : Bool :=
  match x, y with
  | .inf a, .inf b => a && !b
  | .inf a, .fin _ _ _ => a
  | .fin _ _ _, .inf b => !b
  | .fin a m e, .fin b n g =>
    if a && !b then true
    else if !a && b then false
    else if a then magLt n g m e else magLt m e n g
  | _, _ => false

def FVal.isNan : FVal → Bool
  | .nan _ => true
  | _ => false

def FVal.isInf : FVal → Bool
  | .inf _ => true
  | _ => false

/-- MAX or MIN (R272, R274). -/
def fpick (big : Bool) (x y : FVal) : FVal :=
  if x.isNan || y.isNan then .nan false else if (if big then flt x y else flt y x) then y else x

/-! ## Integers -/

/-- A two's complement value of `bits` bits. -/
def sval (bits w : Nat) : Int := if w % 2 ^ bits < 2 ^ (bits - 1) then (w % 2 ^ bits : Nat) else (w % 2 ^ bits : Nat) - 2 ^ bits

/-- The bits of an integer saturated to `bits` bits, and whether it saturated. -/
def ssat (bits : Nat) (v : Int) : Nat × Bool :=
  let hi : Int := 2 ^ (bits - 1) - 1
  let lo : Int := -(2 ^ (bits - 1))
  let c := max lo (min hi v)
  ((c % 2 ^ bits).toNat, decide (c ≠ v))

/-! ## Philox 4x32-10 (R286) -/

/-- One round on (c0, c1, c2, c3) with key (k0, k1). -/
def philoxRound (c : Nat × Nat × Nat × Nat) (k : Nat × Nat) : Nat × Nat × Nat × Nat :=
  let p0 := 0xD2511F53 * c.1
  let p1 := 0xCD9E8D57 * c.2.2.1
  ((p1 / two32) ^^^ c.2.1 ^^^ k.1, p1 % two32, (p0 / two32) ^^^ c.2.2.2 ^^^ k.2, p0 % two32)

/-- `n` rounds, the key advanced after each. -/
def philoxRounds : Nat → Nat × Nat × Nat × Nat → Nat × Nat → Nat × Nat × Nat × Nat
  | 0, c, _ => c
  | n + 1, c, k => philoxRounds n (philoxRound c k) ((k.1 + 0x9E3779B9) % two32, (k.2 + 0xBB67AE85) % two32)

/-- The word drawn for element `k` at step `step` (R286, R297); `c2` is BUF_ID in fast mode and zero in MODE 1. -/
def philoxWord (seed k step c2 gen : Nat) : Nat :=
  let d := k / 4
  let out := philoxRounds 10 (d % two32, d / two32 % 65536 + step * 65536, c2 % 8192, gen)
    (seed % two32, seed / two32 % two32)
  match k % 4 with
  | 0 => out.1
  | 1 => out.2.1
  | 2 => out.2.2.1
  | _ => out.2.2.2

/-! ## MX (R270, R271) -/

/-- An element's value with its E8M0 scale: 0xFF is NaN. -/
def mxValue (scale : Nat) (v : FVal) : FVal :=
  if scale = 0xFF then .nan false
  else match v with
    | .fin n m e => .fin n m (e + scale - 127)
    | o => o

/-- EMAX of an MX element format. -/
def mxEmax (code : Nat) : Int :=
  match code with
  | 5 => 8
  | 7 => 4
  | _ => 2

/-- The largest exponent of the non-zero magnitudes. -/
def maxExp : List FVal → Option Int
  | [] => none
  | v :: vs =>
    let r := maxExp vs
    match v with
    | .fin _ m e =>
      if m = 0 then r
      else
        let t : Int := Nat.log2 m + e
        match r with
        | some x => some (max x t)
        | none => some t
    | _ => r

/-- Rescales a run of values (R271): the scale byte, the element bits, and how many were saturated. `rnd i` is the word
of element i of the run. -/
def mxRescale (code rmode : Nat) (rnd : List Nat) (vs : List FVal) : Nat × List Nat × Nat :=
  let f := fmtOf code
  if vs.any fun v => v.isNan || v.isInf then (0xFF, vs.map fun _ => 0, 0)
  else match maxExp vs with
    | none => (0, vs.map fun v => match v with
      | .fin neg _ _ => b2n neg * 2 ^ (f.mbits + f.ebits)
      | _ => 0, 0)
    | some t =>
      let s : Int := max 0 (min 254 (t - mxEmax code + 127))
      let x := s - 127
      let out := (vs.zip rnd).map fun p => fround code rmode p.2 (match p.1 with
        | .fin n m e => .fin n m (e - x)
        | o => o)
      (s.toNat, out.map (·.1), (out.filter (·.2)).length)

end Sys2Proof.Machine
end

