-- ==== Sys2Proof/Machine/StockOps.lean ====
section
/-! DEFINITION. Reduction buffers: records, residence, contributions, combining and completing blocks, the guard of
R283, digests and notices (R275 to R299). -/

set_option Elab.async false

namespace Sys2Proof.Machine
open Sys2Proof

/-! ## Formats of a buffer (R273 to R275) -/

/-- Container bytes of an accumulator format. -/
def accBytes (code : Nat) : Nat := (fmtOf code).bits / 8

/-- Result bytes of a block's element plane. -/
def resBytes (elem res : Nat) : Nat := elemsPerLine (fmtCode elem) * (fmtOf (fmtCode res)).bits / 8

/-- Is the FMT byte's MX bit allowed (R268)? -/
def mxOk (f : Nat) : Bool :=
  let c := fmtCode f
  if fmtMx f then decide (c = 5 ∨ c = 7 ∨ c = 8 ∨ c = 9) else !decide (c = 7 ∨ c = 8 ∨ c = 9)

/-- An FMT byte with a defined code and no reserved bit. -/
def fmtDefined (f : Nat) : Bool := decide (f < 32 ∧ fmtCode f < 12)

/-- Set F (R273). -/
def setF (res : Nat) : Bool := res ∈ [0x1, 0x2, 0x3, 0x4, 0x5, 0x6, 0x15, 0x17, 0x18, 0x19]

/-- The narrow and the wide ACC_FMT of an ELEM_FMT (R273). -/
def accFmts (elem : Nat) : Nat × Nat :=
  match elem with
  | 0x0 => (0, 0)
  | 0x1 => (1, 0)
  | 0x2 => (2, 1)
  | 0x3 => (3, 1)
  | 0x4 => (4, 1)
  | 0xA => (0xA, 0xA)
  | 0xB => (0xA, 0xA)
  | _ => (4, 1)

/-- Do the three formats form a row of R273? -/
def rowOk (elem acc res : Nat) : Bool :=
  let a := accFmts elem
  decide (acc = a.1 ∨ acc = a.2) &&
  match elem with
  | 0x0 => res ∈ [0x0, 0x1]
  | 0x1 => (res ∈ [0x1, 0x2, 0x3, 0x4, 0x5, 0x6]) || decide (res = 0 ∧ acc = 0)
  | 0x2 => res ∈ [0x1, 0x2, 0x3, 0x4, 0x5, 0x6]
  | 0xA => res ∈ [0xA, 0xB]
  | 0xB => res ∈ [0xA, 0xB]
  | 0x3 => setF res
  | 0x4 => setF res
  | 0x5 => setF res
  | 0x6 => setF res
  | 0x15 => setF res
  | 0x17 => setF res
  | 0x18 => setF res
  | 0x19 => setF res
  | _ => false

/-! ## Buffers and blocks (R278, R279) -/

def State.buf (s : State) (b : Nat) : Buf := Tab.get Buf.empty s.stock.bufs b

def State.setBuf (s : State) (b : Nat) (x : Buf) : State :=
  ({ s with stock := { s.stock with bufs := Tab.set Buf.empty s.stock.bufs b x } }).logChange 0x0009 b 80 none

def blkKey (b k : Nat) : Nat := 2 ^ 33 * b + k

def State.blk (s : State) (b k : Nat) : Blk := Tab.get Blk.empty s.stock.blks (blkKey b k)

def State.setBlk (s : State) (b k : Nat) (x : Blk) : State :=
  { s with stock := { s.stock with blks := Tab.set Blk.empty s.stock.blks (blkKey b k) x } }

def BufState.num : BufState → Nat
  | .free => 0
  | .opened => 1
  | .done => 2
  | .lost => 3

def Buf.elems (x : Buf) : Nat := elemsPerLine (fmtCode x.elemFmt)
def Buf.abytes (x : Buf) : Nat := x.elems * accBytes x.accFmt
def Buf.rbytes (x : Buf) : Nat := resBytes x.elemFmt x.resFmt

/-- The 64 bytes of a buffer record (R278). -/
def bufRecord (x : Buf) : Nat :=
  pack [(x.st.num, 509), (x.mode, 508), (b2n x.memory, 507), (x.rmode, 505), (x.op, 502), (b2n x.demoted, 501),
    (x.elemFmt, 496), (x.resFmt, 491), (x.accFmt, 487), (x.n, 477), (x.tenant, 467), (x.owner, 455), (x.alpha, 384),
    (x.seed, 320), (x.gen, 288), (x.winBase / 64, 237), (x.resBase / 64, 186), (x.accBase / 65536, 145),
    (x.blocks, 112), (x.doneBlocks, 79), (x.storeBlocks, 57), (min x.failedBlocks (two32 - 1), 25), (x.firstFail, 17)]

/-- RED_CPL of a buffer that stands as `x` (R280). -/
def State.redCplOf (s : State) (x : Buf) (v : Via) (cmd code buf value : Nat) (extra : List Byte) : State :=
  s.finish v cmd 0x66 code value (leBytes 1 code ++ leBytes 1 (x.st.num + 8 * b2n x.demoted) ++ leBytes 2 buf ++
    leBytes 4 x.gen ++ leBytes 8 value) extra

def State.redCpl (s : State) (v : Via) (cmd code buf value : Nat) (extra : List Byte) : State :=
  s.redCplOf (s.buf buf) v cmd code buf value extra

/-- RED_ACK (R280, R439). -/
def State.redAck (s : State) (h : ReqHdr) (code value : Nat) : State :=
  (s.countPoison h.src code).send (answerOf h 0x61 clsRsp code (retryBody code value))

/-- RED_NOTICE (R289). -/
def State.redNotice (s : State) (b kind : Nat) : State :=
  let x := s.buf b
  s.notice x.owner 0x67 (leBytes 1 kind ++ leBytes 1 x.firstFail ++ leBytes 2 b ++ leBytes 4 x.gen ++
    leBytes 8 s.epoch ++ leBytes 16 (if kind = 1 then x.digest else 0))

/-! ## Store and pantry space (R265, R277, R295) -/

def storeTotal : Nat := 160 * 2 ^ 20
def spillTotal : Nat := 7168 * 2 ^ 20

def State.reserveOf (s : State) (t : Nat) : Nat := s.cfgIx fStoreReserve t * 2 ^ 20

def State.storeUsed (s : State) (t : Nat) : Nat :=
  sumOf ((s.stock.bufs.filter fun b => decide (b.2.tenant = t ∧ b.2.st ≠ .free)).map fun b => b.2.storeBytes)

/-- Tenants with a reserve or with store space in use. -/
def State.storeTenants (s : State) : List Nat :=
  ((s.stock.bufs.map fun (b : Nat × Buf) => b.2.tenant) ++ (s.cfg.vals.filterMap fun (e : Nat × Option Nat) =>
    if e.1 / 4096 = fStoreReserve / 4096 then some (e.1 % 4096) else none)).eraseDups

/-- Store bytes a tenant's new buffer may take: what is left of its reserve, then the space left unreserved.
[DEDUCED, log 99: unsafe] -/
def State.storeFree (s : State) (t : Nat) : Nat :=
  let reserved := sumOf (s.storeTenants.map s.reserveOf)
  let isOver := sumOf (s.storeTenants.map fun u => s.storeUsed u - s.reserveOf u)
  (s.reserveOf t - s.storeUsed t) + (storeTotal - reserved - isOver)

/-- Bytes of the stockpot spill partition in use. -/
def State.spillUsed (s : State) : Nat :=
  sumOf ((s.stock.bufs.filter fun b => decide (b.2.st ≠ .free)).map fun b => b.2.pantryBytes + b.2.stageSlots * 80)

/-- Is block `k` in the store, in the pantry, or in user pages (R277)? -/
inductive Home where
  | store | pantry | memory
  deriving DecidableEq, Repr

def Buf.home (x : Buf) (k : Nat) : Home :=
  if x.memory then .memory else if k < x.storeBlocks then .store else .pantry

/-- Bytes of an accumulator region, whole pages (R275). -/
def accLen (x : Buf) : Nat := if x.memory then (x.blocks * x.abytes + 65535) / 65536 * 65536 else 0

/-! ## The guard of R283 -/

/-- The blocks of a buffer that write bytes `lo` .. `lo + 63` of a plane in which each block has `w` bytes. -/
def planeBlocks (x : Buf) (base w lo : Nat) : List Nat :=
  if w = 0 ∨ lo + 64 ≤ base ∨ base + x.blocks * w ≤ lo then []
  else
    let first := (lo - base) / w
    let last := min ((lo + 63 - base) / w) (x.blocks - 1)
    (List.range (last + 1 - first)).map (first + ·)

/-- Where a buffer's scale plane begins, and its bytes for each block (R270). -/
def Buf.scaleBase (x : Buf) : Nat := x.resBase + x.blocks * x.rbytes
def Buf.runs (x : Buf) : Nat := if fmtMx x.resFmt then x.elems / 32 else 0

/-- The blocks that write into the line at `addr`. -/
def Buf.resultBlocks (x : Buf) (addr : Nat) : List Nat :=
  let lo := addr / 64 * 64
  planeBlocks x x.resBase x.rbytes lo ++ planeBlocks x x.scaleBase x.runs lo

/-- The buffers that guard their regions: OPEN or LOST. -/
def State.guards (s : State) : Tab Buf := s.stock.bufs.filter fun b => decide (b.2.st = .opened ∨ b.2.st = .lost)

/-- What the guard of the result regions answers for an access to the line at `addr`: POISON, BUSY_RETRY, or nothing.
[DEDUCED, log 91: unsafe] -/
def State.guardedResult (s : State) (addr : Nat) : Option Nat :=
  let hits := s.guards.map fun b => (b, b.2.resultBlocks addr)
  let lost := hits.any fun p => p.2.any fun k =>
    decide ((s.blk p.1.1 k).st = .lost ∨ (s.blk p.1.1 k).st = .failed)
  let open_ := hits.any fun p => p.2.any fun k =>
    decide ((s.blk p.1.1 k).st = .empty ∨ (s.blk p.1.1 k).st = .filling)
  if lost then some cPoison else if open_ then some cBusy else none

/-- What the guard answers a host's access to the line at `addr`: that of the result regions, and BUSY_RETRY in an
accumulator region. -/
def State.guarded (s : State) (addr : Nat) : Option Nat :=
  let acc := s.guards.any fun b => b.2.memory && decide (b.2.accBase ≤ addr ∧ addr < b.2.accBase + accLen b.2)
  (s.guardedResult addr).or (if acc then some cBusy else none)

/-! ## Bytes in pool memory -/

/-- Writes bytes at a pool address across lines; fuel bounds the lines. -/
def State.writePoolBytes (s : State) : Nat → Nat → List Byte → State
  | 0, _, _ => s
  | fuel + 1, addr, bs =>
    if bs = [] then s
    else
      let n := 64 - addr % 64
      State.writePoolBytes (s.writePool addr (bs.take n)) fuel (addr + n) (bs.drop n)

/-- Writes any number of bytes at a pool address. -/
def State.putPool (s : State) (addr : Nat) (bs : List Byte) : State := s.writePoolBytes (bs.length / 64 + 2) addr bs

/-- A number from bit fields of `w` bits, first lowest (R269). -/
def packBits (w : Nat) : List Nat → Nat
  | [] => 0
  | v :: vs => v + packBits w vs * 2 ^ w

/-! ## Combining (R274, R281, R282) -/

/-- The values of a contribution line (R269, R270): scales one byte per run of 32. -/
def lineValues (elem : Nat) (l : Line) (scales : List Byte) : List FVal :=
  let c := fmtCode elem
  let w := (fmtOf c).bits
  (List.range (elemsPerLine c)).map fun i =>
    let v := fdecode c (l.toNat / 2 ^ (w * i) % 2 ^ w)
    if fmtMx elem then mxValue (scales.getD (i / 32) 0).toNat v else v

/-- The integers of a contribution line. -/
def lineInts (elem : Nat) (l : Line) : List Int :=
  let c := fmtCode elem
  let w := (fmtOf c).bits
  (List.range (elemsPerLine c)).map fun i => sval w (l.toNat / 2 ^ (w * i) % 2 ^ w)

/-- What one combine does to an accumulator: its new bits, and whether it became NaN, overflowed or saturated. -/
structure Comb where
  acc : Nat
  nan : Bool
  isOver : Bool
  sat : Bool
  deriving DecidableEq, Repr

/-- One step of R274 on a floating-point accumulator; `first` the first contribution, `rnd` the word of R286. -/
def combFloat (op accFmt rmode rnd alpha : Nat) (first : Bool) (acc : Nat) (x : FVal) : Comb :=
  let a := fdecode accFmt acc
  let ax := if op = 3 then fmul (fdecode fmtFp64 alpha) x else x
  let v :=
    if first then (if op = 0 ∨ op = 3 then ax else if x.isNan then .nan false else x)
    else match op with
      | 1 => fpick true a x
      | 2 => fpick false a x
      | _ => fadd a ax
  let v := match v with
    | .nan _ => .nan false
    | o => o
  let r := fround accFmt rmode rnd v
  ⟨r.1, v.isNan && (first || !a.isNan), r.2, false⟩

/-- One step of R274 on an INT32 accumulator. -/
def combInt (op : Nat) (first : Bool) (acc : Nat) (x : Int) : Comb :=
  let a := sval 32 acc
  let v := if first then x else match op with
    | 1 => max a x
    | 2 => min a x
    | _ => a + x
  let r := ssat 32 v
  ⟨r.1, false, false, r.2⟩

/-- Combines a line into a block's accumulators: STEP `step` of the draw (R286, R297). -/
def combineLine (x : Buf) (bufId k step : Nat) (first : Bool) (acc : List Nat) (l : Line) (scales : List Byte) :
    List Comb :=
  let accs := if first then List.replicate x.elems 0 else acc
  if isIntFmt x.accFmt then
    (accs.zip (lineInts x.elemFmt l)).map fun p => combInt x.op first p.1 p.2
  else
    let c2 := if x.mode = 1 then 0 else bufId
    ((accs.zip (lineValues x.elemFmt l scales)).zip (List.range x.elems)).map fun p =>
      let rnd := if x.rmode = 2 then philoxWord x.seed (k * x.elems + p.2) step c2 x.gen else 0
      combFloat x.op x.accFmt x.rmode rnd x.alpha first p.1.1 p.1.2

/-- The result of a complete block: element-plane bytes, scale bytes, overflows and saturations (R271, R272, R274). -/
def blockResult (x : Buf) (bufId k : Nat) (acc : List Nat) : List Byte × List Byte × Nat × Nat :=
  let code := fmtCode x.resFmt
  let w := (fmtOf code).bits
  let c2 := if x.mode = 1 then 0 else bufId
  let rnd := fun i => if x.rmode = 2 then philoxWord x.seed (k * x.elems + i) 0xFFFF c2 x.gen else 0
  if isIntFmt code then
    let rs := acc.map fun a => ssat w (sval 32 a)
    (leBytes x.rbytes (packBits w (rs.map (·.1))), [], 0, (rs.filter (·.2)).length)
  else if fmtMx x.resFmt then
    let vs := acc.map (fdecode x.accFmt)
    let runs := (List.range x.runs).map fun r =>
      mxRescale code x.rmode ((List.range 32).map fun i => rnd (r * 32 + i)) ((vs.drop (r * 32)).take 32)
    (leBytes x.rbytes (packBits w (runs.flatMap fun r => r.2.1)), runs.map fun r => BitVec.ofNat 8 r.1,
      sumOf (runs.map fun r => r.2.2), 0)
  else
    let rs := (acc.zip (List.range x.elems)).map fun p => fround code x.rmode (rnd p.2) (fdecode x.accFmt p.1)
    (leBytes x.rbytes (packBits w (rs.map (·.1))), [], (rs.filter (·.2)).length, 0)

/-- d_b of R299. -/
def blockDigest (k : Nat) (bytes : List Byte) : Nat := ofLe ((sha256 (leBytes 8 k ++ bytes)).take 16)

/-- Lines of a block's accumulators. -/
def Buf.accLines (x : Buf) : Nat := x.abytes / 64

/-- Where line `i` of block `k`'s accumulators lies in a MEMORY home. -/
def Buf.accAddr (x : Buf) (k i : Nat) : Nat := x.accBase + k * x.abytes + 64 * i

/-- A line of a block's accumulators in the pantry, by buffer, block and line of the block. Where in the stockpot spill
partition it lies the spec leaves open. [DESIGN CHOICE, log 178: unsafe] -/
def spillKey (b k i : Nat) : Nat := (blkKey b k) * 16 + i

def State.spillLine (s : State) (b k i : Nat) : SpillLine := Tab.get SpillLine.empty s.stock.spill (spillKey b k i)

/-- Reads one accumulator line of a block that is not in the store; the error pattern is on its stored word. -/
def State.readAccLine (s : State) (b : Nat) (x : Buf) (k i : Nat) (err : Err) : State × ReadAns :=
  match x.home k with
  | .pantry =>
    let y := s.spillLine b k i
    (s, if (decodeLine err).bad then poisonAns else ⟨false, false, y.data, y.dir⟩)
  | _ => s.readPool (x.accAddr k i) err .front

/-- The accumulators in one line. -/
def accVals (x : Buf) (l : Line) : List Nat :=
  let w := (fmtOf x.accFmt).bits
  (List.range (512 / w)).map fun j => l.toNat / 2 ^ (w * j) % 2 ^ w

/-- The accumulators of a block as its lines hold them; none when one reads POISON. [DEDUCED, log 102: unsafe] -/
def State.readAcc (s : State) (b : Nat) (x : Buf) (k : Nat) (err : Err) : State × Option (List Nat) :=
  (List.range x.accLines).foldl (fun (p : State × Option (List Nat)) i =>
    let (s, a) := p.1.readAccLine b x k i (if i = 0 then err else [])
    (s, if a.poison then none else p.2.map fun acc => acc ++ accVals x a.data)) (s, some [])

/-- Writes one accumulator line of a block that is not in the store. -/
def State.writeAccLine (s : State) (b : Nat) (x : Buf) (k i : Nat) (data : Line) (dir : BitVec 10) : State :=
  match x.home k with
  | .pantry => { s with stock := { s.stock with spill := Tab.set SpillLine.empty s.stock.spill (spillKey b k i) ⟨data, dir⟩ } }
  | _ => (s.writeLine (s.lineAt (x.accAddr k i)) fullMask data (some dir) []).1

/-- Writes the accumulators of a block, with its count in the first line's directory bits (R282). -/
def State.writeAcc (s : State) (b : Nat) (x : Buf) (k count : Nat) (acc : List Nat) : State :=
  let w := (fmtOf x.accFmt).bits
  (List.range x.accLines).foldl (fun s i =>
    let vals := (acc.drop (i * (512 / w))).take (512 / w)
    s.writeAccLine b x k i (BitVec.ofNat 512 (packBits w vals)) (BitVec.ofNat 10 (if i = 0 then count else 0))) s

/-- The directory bits of a line as it is stored. -/
def State.storedDir (s : State) (l : Nat) : Nat :=
  let ppn := s.phys (l / 1024)
  let m := s.lineMeta ppn (l % 1024)
  if s.readsClosed ppn (l % 1024) || !m.valid then 0 else m.dir.toNat

/-- The count of a block (R282): in the store's tag array, or in the directory bits of its first accumulator line. -/
def State.blkCount (s : State) (b k : Nat) : Nat :=
  let x := s.buf b
  match x.home k with
  | .store => (s.blk b k).count
  | .pantry => (s.spillLine b k 0).dir.toNat
  | .memory => s.storedDir (s.lineAt (x.accAddr k 0))

/-- BUFFER_DONE (R279): an OPEN buffer all of whose blocks are done is DONE. -/
def State.bufferDone (s : State) (b : Nat) : State :=
  let x := s.buf b
  if x.st = .opened ∧ x.doneBlocks = x.blocks then (s.setBuf b { x with st := .done }).redNotice b 1 else s

/-- A block ends without a result: FAILED, counted once (R281, R282). -/
def State.failBlock (s : State) (b k code : Nat) : State :=
  let x := s.buf b
  let y := s.blk b k
  let s := s.setBlk b k { y with st := .failed }
  (s.setBuf b { x with doneBlocks := x.doneBlocks + 1, failedBlocks := x.failedBlocks + 1,
                       firstFail := if x.firstFail = cOk then code else x.firstFail }).bufferDone b

/-- BLOCK_COMPLETE (R282): results written, digest updated, counted; no result once the result region is withdrawn. -/
def State.blockComplete (s : State) (b k : Nat) (acc : List Nat) : State :=
  let x := s.buf b
  if x.resGone then s.failBlock b k cRevoked
  else
    let (el, sc, isOver, sat) := blockResult x b k acc
    let s := s.putPool (x.resBase + k * x.rbytes) el
    let s := if sc = [] then s else s.putPool (x.scaleBase + k * x.runs) sc
    let s := if isOver = 0 then s else s.bump 6 x.tenant 4 isOver
    let s := if sat = 0 then s else s.bump 6 x.tenant 5 sat
    let s := s.setBlk b k { s.blk b k with st := .complete }
    let dig := (x.digest + blockDigest k (el ++ sc)) % 2 ^ 128
    (s.setBuf b { x with doneBlocks := x.doneBlocks + 1, digest := dig }).bufferDone b

/-- The commit-record entry of an accumulator write-back (R363): keyed by JIDX, or by a coach key. -/
structure CommitKey where
  jidx : Nat
  src : Nat
  tag : Nat
  coach : Bool
  value : Nat
  deriving DecidableEq, Repr

/-- The accumulators of block `k` so far, from where they lie; none when they read POISON. The first contribution needs no
read (R282), but its lines must not lie on a failed part (R196). -/
def State.oldAcc (s : State) (b : Nat) (x : Buf) (k count : Nat) (err : Err) : State × Option (List Nat) :=
  if x.memory && (List.range x.accLines).any fun i => s.stackDown (stackOf (s.phys (s.lineAt (x.accAddr k i) / 1024))) then
    (s, none)
  else if count = 0 then (s, some [])
  else match x.home k with
    | .store => (s, some (s.blk b k).acc)
    | _ => s.readAcc b x k err

/-- The hub that accepts a block's accumulators. -/
def State.accHub (s : State) (x : Buf) (k : Nat) : Nat :=
  match x.home k with
  | .memory => s.hubOfLine (s.lineAt (x.accAddr k 0))
  | _ => 0

/-- Puts a block's accumulators and its count back where they lie: in the store with its tag, or through a hub, which
enters the contribution in its commit record (R281, R282). `full`: this contribution completes the block. -/
def State.putAcc (s : State) (b : Nat) (x : Buf) (k count : Nat) (acc : List Nat) (full : Bool) (key : CommitKey) : State :=
  match x.home k with
  | .store => s.setBlk b k { s.blk b k with acc := acc, count := count }
  | _ => (s.writeAcc b x k count acc).commit (s.accHub x k)
      ⟨key.jidx, key.src, key.tag, cOk, full, key.coach, key.value⟩

/-- Counts what a combine met (R272, R298). -/
def State.countComb (s : State) (tenant : Nat) (out : List Comb) : State :=
  let s := s.bump 6 tenant 1 1
  let nans := (out.filter (·.nan)).length
  let overs := (out.filter (·.isOver)).length
  let sats := (out.filter (·.sat)).length
  let s := if nans = 0 then s else s.bump 6 tenant 3 nans
  let s := if overs = 0 then s else s.bump 6 tenant 4 overs
  if sats = 0 then s else s.bump 6 tenant 5 sats

/-- Combines one line of contributor `c` into block `k` now (R274, R282): `false` when the accumulator read POISON and
the block FAILED. -/
def State.combineOne (s : State) (b k c : Nat) (l : Line) (scales : List Byte) (err : Err) (key : CommitKey) :
    State × Bool :=
  let x := s.buf b
  let count := s.blkCount b k
  match s.oldAcc b x k count err with
  | (s, none) => (s.failBlock b k cPoison, false)
  | (s, some acc) =>
    let out := combineLine x b k (if x.mode = 1 then c else count) (decide (count = 0)) acc l scales
    let acc' := out.map (·.acc)
    let full := decide (count + 1 = x.n)
    let s := (s.countComb x.tenant out).putAcc b x k (count + 1) acc' full key
    let y := s.blk b k
    let s := s.setBlk b k { y with st := .filling, next := if x.mode = 1 then c + 1 else y.next }
    if full then (s.blockComplete b k acc', true) else (s, true)

/-- Combines staged lines of the new NEXT one after another (R293); fuel bounds them. -/
def State.drainStaged (s : State) (b k : Nat) : Nat → State
  | 0 => s
  | fuel + 1 =>
    let nx := (s.blk b k).next
    match s.stock.staged.find? fun g => decide (g.buf = b ∧ g.blk = k ∧ g.contrib = nx) with
    | none => s
    | some g =>
      let rest := s.stock.staged.filter fun (y : Staged) => !decide (y.buf = b ∧ y.blk = k ∧ y.contrib = nx)
      let s := { s with stock := { s.stock with staged := rest } }
      if (s.blk b k).st = .failed then s
      else State.drainStaged (s.combineOne b k nx g.line g.scales [] ⟨0xFFFFFFFF, (s.buf b).owner, 0, false, 0⟩).1 b k fuel

/-- A line of contributor `c` reaches stage 6 (R39, R293): combined, or staged when a lower contributor is missing. -/
def State.takeLine (s : State) (b k c : Nat) (l : Line) (scales : List Byte) (err : Err) (key : CommitKey) :
    State × Bool :=
  let x := s.buf b
  if x.mode = 1 ∧ (s.blk b k).next < c then
    let s := { s with stock := { s.stock with staged := s.stock.staged ++ [Staged.mk b k c l scales] } }
    ((s.bump 6 x.tenant 7 1).commit 0 ⟨key.jidx, key.src, key.tag, cOk, false, key.coach, key.value⟩, true)
  else
    let (s, ok) := s.combineOne b k c l scales err key
    (if ok ∧ x.mode = 1 then s.drainStaged b k x.n else s, ok)

/-! ## Closing (R279, R191) -/

/-- Frees a buffer: record, blocks and staging slots. -/
def State.freeBuf (s : State) (b : Nat) : State :=
  let s := s.setBuf b Buf.empty
  { s with stock := { s.stock with
      blks := Tab.eraseRange s.stock.blks (blkKey b 0) (blkKey (b + 1) 0)
      spill := Tab.eraseRange s.stock.spill (spillKey b 0 0) (spillKey (b + 1) 0 0)
      staged := s.stock.staged.filter fun g => decide (g.buf ≠ b) } }

/-- RED_CLOSE_DONE (R279): a closing buffer with no contribution left to combine is freed, and its closers complete. -/
def State.closeDone (s : State) (b : Nat) : State :=
  let x := s.buf b
  if x.closing ≠ [] ∧ (s.stock.jobs.find? fun j => decide (j.buf = b)) = none then
    let s := s.freeBuf b
    x.closing.foldl (fun s v => s.redCplOf { x with st := .free } v 0x64 cOk b 0 []) s
  else s

/-- A buffer is closed by force: contributions not yet combined complete REVOKED (R191, R279). -/
def State.forceClose (s : State) (b : Nat) : State :=
  let x := s.buf b
  if x.st = .free then s
  else
    let hit := s.stock.jobs.filter fun j => decide (j.buf = b)
    let s := { s with stock := { s.stock with jobs := s.stock.jobs.filter fun j => decide (j.buf ≠ b) } }
    let s := hit.foldl (fun s j => s.redAck j.hdr cRevoked 0) s
    let s := s.freeBuf b
    x.closing.foldl (fun s v => s.redCplOf { x with st := .free } v 0x64 cOk b 0 []) s

/-- The buffers for which `p` holds, ascending. -/
def State.bufsWhere (s : State) (p : Buf → Bool) : List Nat := (s.stock.bufs.filter fun b => p b.2).map (·.1)

/-! ## The checks of R281 -/

/-- The buffer whose window holds `n` bytes from `addr`, OPEN or LOST and not closing. -/
def State.windowOf (s : State) (addr n : Nat) : Option Nat :=
  (s.stock.bufs.find? fun b => decide ((b.2.st = .opened ∨ b.2.st = .lost) ∧ b.2.closing = [] ∧ b.2.winBase ≤ addr ∧
    addr + n ≤ b.2.winBase + b.2.blocks * 64)).map (·.1)

/-- Lines of contributor `c` (or of any, in fast mode) accepted for block `k` and not yet combined or staged. -/
def State.pendingLines (s : State) (b k : Nat) (c : Option Nat) : Nat :=
  sumOf ((s.stock.jobs.filter fun j => decide (j.buf = b ∧ (c = none ∨ c = some j.contrib))).map fun j =>
    (j.lines.filter fun l => decide (l.1 = k)).length)

def State.stagedLines (s : State) (b k : Nat) (c : Option Nat) : Nat :=
  (s.stock.staged.filter fun g => decide (g.buf = b ∧ g.blk = k ∧ (c = none ∨ c = some g.contrib))).length

/-- FP6 bytes 48 to 63 of a line are zero (R269). -/
def fp6Ok (elem : Nat) (l : Line) : Bool :=
  decide ((fmtCode elem ≠ 7 ∧ fmtCode elem ≠ 8) ∨ l.toNat < 2 ^ 192 * 2 ^ 192)

/-- What the checks on a contribution's lines answer. -/
inductive RedCheck where
  | ok
  | fail (code : Nat)
  | excess
  deriving DecidableEq, Repr

/-- Checks 2 to 6 of R281 on the lines (block, data) of contributor `c`. -/
def State.redCheck (s : State) (b c : Nat) (lines : List (Nat × Line)) (scalesOk : Bool) : RedCheck :=
  let x := s.buf b
  if !scalesOk || lines.any (fun l => !fp6Ok x.elemFmt l.2) then .fail cMalformed
  else if x.n ≤ c then .fail cMalformed
  else if lines.any fun l => decide ((s.blk b l.1).st = .complete ∨
      x.n ≤ s.blkCount b l.1 + s.pendingLines b l.1 none + s.stagedLines b l.1 none) then .excess
  else if x.mode = 1 ∧ lines.any (fun l => decide (c < (s.blk b l.1).next ∨ 0 < s.stagedLines b l.1 (some c) ∨
      0 < s.pendingLines b l.1 (some c))) then .excess
  else if lines.any fun l => decide ((s.blk b l.1).st = .lost ∨ (s.blk b l.1).st = .failed) then .fail cPoison
  else .ok

/-- Staging slots of a buffer in use. -/
def State.slotsUsed (s : State) (b : Nat) : Nat := (s.stock.staged.filter fun g => decide (g.buf = b)).length

/-- Would these lines need more staging slots than are free (R296)? -/
def State.stageFull (s : State) (b c : Nat) (blocks : List Nat) : Bool :=
  let x := s.buf b
  let need := (blocks.filter fun k => decide ((s.blk b k).next < c)).length
  let held := sumOf ((s.stock.jobs.filter fun j => decide (j.buf = b)).map fun j => j.lines.length)
  decide (x.mode = 1 ∧ 0 < need ∧ x.stageSlots < s.slotsUsed b + held + need)

/-! ## What a combine waits for -/

/-- The pages of the first and the last of `n` bytes at a pool address. -/
def State.spanPages (s : State) (addr n : Nat) : List Nat :=
  if n = 0 then [] else [s.phys (s.lineAt addr / 1024), s.phys (s.lineAt (addr + n - 1) / 1024)]

/-- The pages that the next line of block `k` writes: its accumulators in memory, and with the last contribution its
results in both planes. -/
def State.combinePages (s : State) (b k : Nat) : List Nat :=
  let x := s.buf b
  (if x.memory then s.spanPages (x.accAddr k 0) x.abytes else []) ++
    (if s.blkCount b k + 1 = x.n then
      s.spanPages (x.resBase + k * x.rbytes) x.rbytes ++ s.spanPages (x.scaleBase + k * x.runs) x.runs
    else [])

/-- The first of these pages for which writes to them all wait: its hub has too few open-page entries (R323). -/
def State.openWait (s : State) (ps : List Nat) : Option Nat :=
  let need := ps.eraseDups.filter fun p => !s.pageValid p && !(s.mem.openPages.any fun e => decide (e.1 = p))
  need.find? fun p =>
    decide (16384 < s.openCount (hubOf p) + (need.filter fun q => decide (hubOf q = hubOf p)).length)

/-- Must the next line of a contribution wait: no open-page entry for a page it writes (R323), or no room in the hub's
commit record (R363)? -/
def State.combineWaits (s : State) (b k : Nat) : Bool :=
  let x := s.buf b
  (s.openWait (s.combinePages b k)).isSome || (decide (x.home k ≠ .store) && !s.commitRoom (s.accHub x k))

/-- A wait for an open-page entry is counted in OPEN_WAITS once; `waited`: it has been (R323). -/
def State.countOpenWait (s : State) (b k : Nat) (waited : Bool) : State :=
  match s.openWait (s.combinePages b k) with
  | some p => if waited then s else s.bump 9 (stackOf p) 3 1
  | none => s

end Sys2Proof.Machine
end

