-- ==== Sys2Proof/Machine/SecOps.lean ====
section
/-! DEFINITION. The active root's shared operations: key-store changes and the completions they hold (R384), sessions
(R397, R399, R401), sealed slots and the limits on sealed extents (R403, R404). -/

set_option Elab.async false

namespace Sys2Proof.Machine
open Sys2Proof

/-! ## Held completions and key-store changes (R384) -/

/-- Does a completion wait for the tender root's acknowledgement? -/
def State.rootWaits (s : State) : Bool := decide (s.twin.tender = .resync ∨ s.twin.tender = .synced)

/-- The active root's key store, as it goes to the tender's root (R384). -/
def State.keyStore (s : State) : KeyStore :=
  ⟨s.sec.sessions.filter fun x => decide (x.st = .established), s.sec.slots⟩

/-- The key store changes; the completions that depend on it wait for the tender's root. [DEDUCED, log 138: unsafe] -/
def State.keyChange (s : State) (hs : List HeldCpl) : State :=
  if s.rootWaits then { s with sec := { s.sec with changes := s.sec.changes ++ [(s.keyStore, hs)] } } else s.releaseAll hs

/-- A completion of a command that exists on the service link only. -/
def heldRsl (c : RslCmd) (cmd code value : Nat) (data : List Byte) : HeldCpl :=
  ⟨.rsl c, cmd, 0, code, value, data, []⟩

/-- SEC_CPL (R388). -/
def secBody (code value : Nat) : List Byte := leBytes 1 code ++ zeros 7 ++ leBytes 8 value

def heldSec (v : Via) (cmd code value : Nat) (extra : List Byte) : HeldCpl :=
  ⟨v, cmd, 0x86, code, value, secBody code value, extra⟩

def State.secCpl (s : State) (v : Via) (cmd code value : Nat) (extra : List Byte) : State :=
  s.release (heldSec v cmd code value extra)

/-! ## Memory keys (R386, R387) -/

/-- Loads a fresh key at an index. -/
def State.loadKey (s : State) (k : Nat) : State :=
  let (s, w) := s.draw
  { s with mem := { s.mem with
      keyGen := Tab.set 0 s.mem.keyGen k ((Tab.get 0 s.mem.keyGen k + 1) % 65536)
      keys := Tab.set none s.mem.keys k (some (keyPair w)) } }

def State.zeroKey (s : State) (k : Nat) : State :=
  { s with mem := { s.mem with keys := Tab.set none s.mem.keys k none } }

/-- The key pair that encrypts the line key `l`, before remapping: that of its extent's KEY_INDEX, or PKEY (R386). -/
def State.lineCipherKey (s : State) (l : Nat) : Option Nat :=
  match s.extOfPage (l / 1024) with
  | some e => Tab.get none s.mem.keys (s.ext e).key
  | none => s.mem.pkey

/-- The 64 bytes that the stack holds for a line key: its data under AES-256-XTS, with the line's number before remapping
as the tweak (R386). None where no key is loaded. -/
def State.cipherLine (s : State) (l : Nat) : Option (List Byte) :=
  let ppn := s.phys (l / 1024)
  (s.lineCipherKey l).map fun k =>
    xtsLine aes (leBytes 32 k) (leBytes 32 (k / 2 ^ 256)) l (lineBytes (storedLine s.mem.cells ppn (l % 1024)))

/-! ## Sessions (R395 to R401) -/

/-- A session ends: its keys are zeroised, unbound data answers become RIGHTS, and `hs` complete with the change. -/
def State.closeSession (s : State) (id : Nat) (hs : List HeldCpl) : State :=
  match s.session id with
  | none => s
  | some _ =>
    let rest := s.sec.sessions.filter fun x => decide (x.id ≠ id)
    let out := s.fab.unbound.map fun (m : OutMsg) => if m.sess = id ∧ id ≠ 0 then endedAnswer m else m
    ({ s with sec := { s.sec with sessions := rest }, fab := { s.fab with unbound := out } }).keyChange hs

def State.endSession (s : State) (id : Nat) : State := s.closeSession id []

/-- Ends every session for which `p` holds. -/
def State.endSessions (s : State) (p : Session → Bool) : State :=
  ((s.sec.sessions.filter p).map (·.id)).foldl State.endSession s

/-! ## Policies (R397) -/

/-- The digests in use of a policy: `n` from offset `off`, 48 bytes each. -/
def policyDigests (p : List Byte) (off n : Nat) : List Nat :=
  (List.range n).map fun i => ofLe ((p.drop (off + 48 * i)).take 48)

/-- N_ROOTS and N_MEAS. -/
def policyRoots (p : List Byte) : Nat := ofLe (p.take 1)

def policyMeas (p : List Byte) : Nat := ofLe ((p.drop 1).take 1)

/-- Does a session meet the policy in 592 bytes? -/
def Session.meets (x : Session) (p : List Byte) : Bool :=
  x.proven && decide (x.root ∈ policyDigests p 16 (policyRoots p) ∧ x.measure ∈ policyDigests p 208 (policyMeas p))

/-! ## Sealed slots (R403, R404) -/

def State.slot (s : State) (n : Nat) : SealSlot := Tab.get SealSlot.empty s.sec.slots n

def State.setSlot (s : State) (n : Nat) (x : SealSlot) : State :=
  { s with sec := { s.sec with slots := Tab.set SealSlot.empty s.sec.slots n x } }

/-- The policy that came in the slot's bundle (R402). -/
def SealSlot.policy (x : SealSlot) : List Byte := (x.header.drop 256).take 592

/-- POLICY_DIGEST; zero of a FREE slot. -/
def SealSlot.policyDigest (x : SealSlot) : List Byte := if x.st = .free then zeros 48 else sha384 x.policy

/-- BUNDLE_DIGEST; zero of a FREE slot. -/
def SealSlot.bundleDigest (x : SealSlot) : List Byte := if x.st = .free then zeros 48 else sha384 x.header

/-- The slot of a sealed extent. -/
def State.slotOfExt (s : State) (e : Nat) : Option Nat :=
  (s.sec.slots.find? fun x => decide (x.2.ext = e ∧ x.2.st ≠ .free)).map (·.1)

/-- Is a bundle being imported into this extent (R403)? -/
def State.importing (s : State) (e : Nat) : Bool :=
  s.sec.slots.any fun x => decide (x.2.ext = e ∧ x.2.st = .importing)

/-- The slots whose policy a session meets. -/
def State.maskFor (s : State) (x : Session) : List Nat :=
  (s.sec.slots.filter fun e => decide (e.2.st = .sealed) && x.meets e.2.policy).map (·.1)

/-- A slot becomes FREE and its key is zeroised. -/
def State.freeSlot (s : State) (n : Nat) (hs : List HeldCpl) : State :=
  ((s.setSlot n SealSlot.empty).zeroKey (3072 + n)).keyChange hs

/-- May this request read or write a sealed extent (R404): encrypted, in an ESTABLISHED session of its SRC whose mask
holds the slot? -/
def State.sealMet (s : State) (host sess e : Nat) : Bool :=
  match s.session sess, s.slotOfExt e with
  | some x, some n => decide (sess ≠ 0 ∧ x.host = host ∧ x.st = .established ∧ n ∈ x.mask)
  | _, _ => false

/-- The access check of R180 with what sealing adds after check 5 (R404): UNSUPPORTED once the sealing secret is gone,
BUSY_RETRY during an import, RIGHTS for what sealing forbids. `sess` 0: not encrypted; `never`: the operation is never
allowed on a sealed extent. -/
def State.accessSealed (s : State) (host sess addr need : Nat) (never : Bool) : Access :=
  let e := addrExt addr
  let a := s.access host addr need
  let past := match a with
    | .ok _ _ => true
    | .fail _ k => decide (5 < k)
  if past && (s.ext e).sealed then
    if s.sec.sealDead then .fail cUnsupported 9
    else if s.importing e then .fail cBusy 9
    else if never || !s.sealMet host sess e then .fail cRights 9
    else a
  else a

end Sys2Proof.Machine
end

