-- ==== Sys2Proof/Machine/LeaseOps.lean ====
section
/-! DEFINITION. What ends an extent, a grant or a lease: set orders (R199, R200), withdrawal (R189 to R193), region
versions (R312 to R315), the life-cycle withdrawal (R118, R385), lease accounting and reclaim (R184, R187, R188, R301,
R401). -/

set_option Elab.async false

namespace Sys2Proof.Machine
open Sys2Proof

/-! ## Withdrawal (R189, R191) -/

/-- Does a WITHDRAW order for extent `e` still wait for a member? -/
def State.withdrawOrdered (s : State) (e : Nat) : Bool :=
  s.pool.orders.any fun r => match r.order with
    | .withdraw x _ => decide (x = e ∧ r.waiting ≠ [])
    | _ => false

/-- Cancels what FORCE 1 may end of extent `e`'s holders (R191). -/
def State.cancelHolders (s : State) (e : Nat) : State :=
  let s := s.cancelDescs e
  (s.bufsWhere fun b => decide (b.st ≠ .free) && b.memory && decide (addrExt b.accBase = e)).foldl State.forceClose s

/-- A buffer whose result region lies in the extent records that it is withdrawn (R282). -/
def State.loseResults (s : State) (e : Nat) : State :=
  (s.bufsWhere fun b => decide (b.st ≠ .free ∧ addrExt b.resBase = e)).foldl
    (fun s b => s.setBuf b { s.buf b with resGone := true }) s

/-- EXT_WITHDRAW, reclaim or LC_ADVANCE of an extent that is not FREE: WITHDRAWING, the holders cancelled with FORCE 1,
the members ordered, and one more sender waiting. -/
def State.withdraw (s : State) (e : Nat) (force : Bool) (who : Option (Owed × Nat)) : State :=
  let x := s.ext e
  let fresh := decide (x.st = .active)
  let s := match who with
    | some w => { s with pool := { s.pool with
        withdrawers := Tab.set [] s.pool.withdrawers e (Tab.get [] s.pool.withdrawers e ++ [w]) } }
    | none => s
  let s := if fresh then (s.setExt e { x with st := .withdrawing }).loseResults e else s
  let s := if force then s.cancelHolders e else s
  let again := force && !(Tab.get false s.pool.forced e)
  let s := if force then { s with pool := { s.pool with forced := Tab.set false s.pool.forced e true } } else s
  if fresh ∨ again then s.orderMask x.mask (.withdraw e (b2n force)) [] none else s

/-- Removes a grant everywhere (R186, R200). -/
def State.ungrant (s : State) (e h : Nat) (held : Option HeldCpl) : State :=
  let x := s.ext e
  (s.dropGrant e h).orderMask x.mask (.release e h) [] held

/-! ## Region versions (R308, R312 to R315) -/

def State.region (s : State) (r : Nat) : Region := Tab.get Region.empty s.repro.regions r

def State.setRegion (s : State) (r : Nat) (x : Region) : State :=
  ({ s with repro := { s.repro with regions := Tab.set Region.empty s.repro.regions r x } }).logChange 0x000A r 176 none

/-- Versions with no readers that are not current (or, in a region that is being deleted, any) leave the table and
their extents are withdrawn with FORCE 0. -/
def State.trimRegion (s : State) (r : Nat) : State :=
  let x := s.region r
  let dead := x.versions.filter fun v => v.readers.isEmpty && decide (v.version ≠ x.version ∨ x.st = .deleting)
  if dead = [] then s
  else
    let s := s.setRegion r { x with versions := x.versions.filter fun v => !dead.contains v }
    dead.foldl (fun s v => s.withdraw v.ext false none) s

/-- Is extent `e` a live version of some region (R310, R312)? -/
def State.isVersion (s : State) (e : Nat) : Bool :=
  s.repro.regions.any fun r => r.2.versions.any fun v => decide (v.ext = e)

/-- PUB_RELEASE of a version by a reader (R314). `held`: the completion that carries the readers left, sent when every
member has released the grant (R200). -/
def State.unmap (s : State) (r version host : Nat) (held : Nat → Option HeldCpl) : State :=
  let x := s.region r
  match x.versions.find? fun v => decide (v.version = version ∧ host ∈ v.readers) with
  | none => s.releaseAll (held 0).toList
  | some v =>
    let left := v.readers.filter fun h => decide (h ≠ host)
    let s := s.ungrant v.ext host (held left.length)
    let s := s.setRegion r { x with versions := x.versions.map fun (y : Version) =>
      if y.version = version then { y with readers := left } else y }
    s.trimRegion r

/-- PUB_CPL (R309). -/
def pubBody (code mask ext value : Nat) : List Byte :=
  leBytes 1 code ++ leBytes 1 mask ++ leBytes 2 ext ++ zeros 4 ++ leBytes 8 value

def heldPub (v : Via) (cmd code mask ext value : Nat) : HeldCpl := ⟨v, cmd, 0x76, code, value, pubBody code mask ext value, []⟩

def State.pubCpl (s : State) (v : Via) (cmd code mask ext value : Nat) : State :=
  s.release (heldPub v cmd code mask ext value)

/-- A DELETING region whose versions have left the table and whose extents are FREE becomes FREE (R315). -/
def State.settleRegion (s : State) (r : Nat) : State :=
  let x := s.region r
  if x.st = .deleting ∧ x.versions = [] ∧ ¬ s.pool.exts.any (fun e => decide (e.2.region = some r)) then
    x.deleteOwed.foldl (fun s v => s.pubCpl v 0x74 cOk 0 0 0) (s.setRegion r Region.empty)
  else s

/-- PUB_DELETE (R315). -/
def State.deleteRegion (s : State) (r : Nat) (owed : List Owed) : State :=
  let x := s.region r
  ((s.setRegion r { x with st := .deleting, deleteOwed := x.deleteOwed ++ owed }).trimRegion r).settleRegion r

/-! ## The life-cycle withdrawal (R118, R382, R385) -/

/-- [DEDUCED, log 123: unsafe] -/
def State.lcRunning (s : State) : Bool := s.boot.lcTarget.isSome || s.boot.dbgOpenRun

/-- When the last extent is FREE, the fuse is blown, the command completes OK and the module reset follows. -/
def State.settleLc (s : State) : State :=
  if s.lcRunning ∧ s.pool.exts = [] then
    let t := s.boot.lcTarget
    let dead := s.boot.dbgOpenRun || decide (t = some 3)
    let cmd := if t.isSome then 0x106 else 0x109
    let owed := s.boot.lcOwed
    let s := { s with
      sec := { s.sec with
        sealDead := s.sec.sealDead || dead, sealSecret := if dead then 2 ^ 384 - 1 else s.sec.sealSecret
        dbgReopen := s.sec.dbgReopen || s.boot.dbgOpenRun }
      boot := { s.boot with lc := t.getD s.boot.lc, lcTarget := none, dbgOpenRun := false, lcOwed := [],
                            resetAt := some s.epoch, resetCause := if t.isSome then 6 else 5 } }
    owed.foldl (fun s v => match v with
      | .rsl c => s.rslDone cmd c.tag c.port cOk 0 []
      | _ => s) s
  else s

/-- Releases every mapped version, deletes every region and withdraws every extent with FORCE 1, after taking every UP
domain down (R118); sessions end (R401). -/
def State.withdrawAll (s : State) : State :=
  let ups := (s.coh.domains.filter fun d => decide (d.2.st = .up)).map (·.1)
  let s := ups.foldl (fun s d => s.domainDown d 5) s
  let maps := s.repro.regions.flatMap fun r => r.2.versions.flatMap fun v => v.readers.map fun h => (r.1, v.version, h)
  let s := maps.foldl (fun s m => s.unmap m.1 m.2.1 m.2.2 fun _ => none) s
  let s := (s.repro.regions.map (·.1)).foldl (fun s r => s.deleteRegion r []) s
  let s := s.endSessions fun _ => true
  (s.pool.exts.map (·.1)).foldl (fun s e => s.withdraw e true none) s

/-! ## An extent becomes FREE (R189, R192, R193) -/

/-- May extent `e` become FREE: no holder here, and every member ordered has answered? -/
def State.extDrained (s : State) (e : Nat) : Bool :=
  decide ((s.ext e).st = .withdrawing ∧ s.holdCount e = 0) && !s.withdrawOrdered e

/-- The remap entries of pages `lo` .. `hi - 1`: those of retired pages are kept. -/
def State.freeRemaps (s : State) (lo hi : Nat) : State :=
  let mine := s.mem.remap.filter fun r => decide (lo ≤ r.1 ∧ r.1 < hi)
  let targets := mine.filterMap fun (r : Nat × Option Nat) => r.2
  let s := targets.foldl (fun s p => s.wipePages p 1) s
  let freed := targets.foldl (fun f p => Ranges.add f p 1) s.pool.freed
  let kept := mine.filter fun r => Tab.get false s.mem.retired r.1
  let freed := kept.foldl (fun f r => Ranges.remove f r.1 1) freed
  { s with
    pool := { s.pool with freed := freed }
    mem := { s.mem with
      remap := s.mem.remap.filter fun r => !decide (lo ≤ r.1 ∧ r.1 < hi) || Tab.get false s.mem.retired r.1
      moving := s.mem.moving.filter fun m => !(decide (lo ≤ m.1 ∧ m.1 < hi) || targets.contains m.1) || (match m.2 with
        | some v => v.retire
        | none => false) } }

/-- The extent's pages are wiped and given to the ladle. -/
def State.freePages (s : State) (x : Ext) : State :=
  let n := x.localGran * 32
  let s := s.wipePages x.base n
  let s := { s with pool := { s.pool with freed := Ranges.add s.pool.freed x.base n } }
  s.freeRemaps x.base (x.base + n)

/-- EXTENT_FREE: grants go, pages are wiped, the entry is cleared, and every withdrawer is told (R189). -/
def State.extentFree (s : State) (e : Nat) : State :=
  let x := s.ext e
  let s := (s.grantees e).foldl (fun s h => s.dropGrant e h) s
  let s := s.freePages x
  let s := s.setExt e Ext.empty
  let who := Tab.get [] s.pool.withdrawers e
  let tags := Tab.get [] s.pool.masterTags e
  let s := { s with pool := { s.pool with
    withdrawers := Tab.set [] s.pool.withdrawers e []
    masterTags := Tab.set [] s.pool.masterTags e []
    forced := Tab.set false s.pool.forced e false } }
  let done := who.map fun w => HeldCpl.mk w.1 w.2 0x46 cOk 0 (extCplBody cOk 0 e 0 (zeros 16)) []
  let s := match s.slotOfExt e with
    | some n =>
      let late := (s.slot n).owed.map fun v => heldSec v 0x84 cRevoked 0 []
      s.freeSlot n (late ++ done)
    | none => s.releaseAll done
  let s := tags.foldl (fun s t => s.setReply s.pool.master t.1 0x4B (some t.2) (leBytes 1 cOk)) s
  let s := match x.region with
    | some r => s.settleRegion r
    | none => s
  s.settleLc

/-! ## Barriers (R301) -/

/-- REPRO_CPL (R300). -/
def reproBody (code id value : Nat) : List Byte :=
  leBytes 1 code ++ zeros 1 ++ leBytes 2 id ++ zeros 4 ++ leBytes 8 value

def State.reproCpl (s : State) (v : Via) (cmd code id value : Nat) : State :=
  s.finish v cmd 0x6A code value (reproBody code id value) []

/-- A barrier ends: every held arrival completes, and it is FREE. -/
def State.endBarrier (s : State) (b code value : Nat) : State :=
  let x := Tab.get Barrier.empty s.repro.barriers b
  let s := ({ s with repro := { s.repro with barriers := Tab.set Barrier.empty s.repro.barriers b Barrier.empty } }).logChange
    0x000C b 32 none
  x.arrivals.foldl (fun s a => s.reproCpl a.2 0x68 code b value) s

/-! ## Leases (R184, R187, R188) -/

/-- A new grant for host `h` waits or fails for its lease? In RECLAIM it is BUSY_RETRY (R184). -/
def State.inReclaim (s : State) (h : Nat) : Bool := decide ((s.lease h).st = .reclaim)

/-- The shared extents that host `h` owns have no owner any more (R188). -/
def State.disown (s : State) (h : Nat) : State :=
  let own := (s.pool.exts.filter fun e => e.2.ownedBy h && e.2.shared).map (·.1)
  own.foldl (fun s e => s.setExt e { s.ext e with hasOwner := false }) s

/-- Reclaim of host `h` (R188): grants on shared extents released, private extents withdrawn with FORCE 1, shared extents
left without an owner. Versions of regions keep their owner, the region. The host's rings stop (R261). -/
def State.reclaim (s : State) (h : Nat) : State :=
  let mapped := s.repro.regions.flatMap fun r => (r.2.versions.filter fun v => v.readers.contains h).map fun v =>
    (r.1, v.version)
  let s := mapped.foldl (fun s m => s.unmap m.1 m.2 h fun _ => none) s
  let shared := (s.grantsOf h).filter fun e => (s.ext e).shared
  let s := shared.foldl (fun s e => s.ungrant e h none) s
  let priv := (s.pool.exts.filter fun e => e.2.ownedBy h && !e.2.shared).map (·.1)
  let s := priv.foldl (fun s e => s.withdraw e true none) s
  (s.disown h).stopRingsOf h

/-- Host `h` enters RECLAIM at the boundary of its END_EPOCH (R184): LEASE_GONE, its domains down (R227), barriers it
waits at (R301), its buffers (R279), its sessions (R401) and the event. Reclaim itself waits for the set's members
(R201). -/
def State.enterReclaim (s : State) (h : Nat) : State :=
  let s := (s.setLease h { s.lease h with st := .reclaim }).setLeaseGone h true
  let s := s.bump 3 h 2 1
  let doms := (s.coh.domains.filter fun d => decide (d.2.st = .up) && (d.2.slotOf h).isSome).map (·.1)
  let s := doms.foldl (fun s d => s.domainDown d 2) s
  let bars := (s.repro.barriers.filter fun b => b.2.arrivals.any fun a => decide (a.1 = h)).map (·.1)
  let s := bars.foldl (fun s b => s.endBarrier b cLeaseEnded 0) s
  let s := (s.bufsWhere fun b => decide (b.st ≠ .free ∧ b.owner = h)).foldl State.forceClose s
  let s := s.endSessions fun x => decide (x.host = h)
  let s := s.raise 0x0401 sevNotice s.actDie (leBytes 2 h)
  if s.isMaster ∧ s.joined ≠ [] then
    { s with pool := { s.pool with reclaimWait := s.pool.reclaimWait ++ [(h, s.epoch)] } }
  else s.reclaim h

/-- LEASE_END: a LIVE lease whose END_EPOCH has come enters GRACE. -/
def State.leaseEnd (s : State) (h : Nat) : State :=
  let l := s.lease h
  if l.st = .live ∧ l.endEpoch ≤ s.epoch then s.setLease h { l with st := .grace, endEpoch := l.endEpoch + 8 } else s

/-- GRACE_END: a GRACE lease whose END_EPOCH has come enters RECLAIM. -/
def State.graceEnd (s : State) (h : Nat) : State :=
  let l := s.lease h
  if l.st = .grace ∧ l.endEpoch ≤ s.epoch then s.enterReclaim h else s

/-- RECLAIM_DONE: no grant left, and no private extent owned (R184). -/
def State.reclaimDone (s : State) (h : Nat) : State :=
  let l := s.lease h
  let owns := s.pool.exts.any fun e => e.2.ownedBy h && !e.2.shared
  if l.st = .reclaim ∧ s.grantsOf h = [] ∧ ¬ owns ∧ ¬ s.pool.reclaimWait.any (fun w => decide (w.1 = h)) then
    (s.setLease h { l with st := .none, endEpoch := 0 }).raise 0x0402 sevInfo s.actDie (leBytes 2 h)
  else s

/-- Lease accounting, step 4 of R35, in ascending host ID: the master, or a member of a degraded set (R187, R205); not a
former master that its set refuses (R206). -/
def State.leaseAccounting (s : State) : State :=
  if (s.isMaster ∨ s.pool.degraded) ∧ ¬ s.pool.refusedByPeer then
    (s.pool.leases.map (·.1)).foldl (fun s h =>
      if (s.lease h).st = .live then s.leaseEnd h else s.graceEnd h) s
  else s

/-- Reclaims whose SET_DELTA every joined member has acknowledged begin (R201). -/
def State.startReclaims (s : State) : State :=
  let acked := fun (e : Nat) => s.joined.all fun i => decide (e ≤ (Tab.get Member.empty s.pool.members i).ackEpoch)
  let go := s.pool.reclaimWait.filter fun w => acked w.2
  let s := { s with pool := { s.pool with reclaimWait := s.pool.reclaimWait.filter fun w => !acked w.2 } }
  go.foldl (fun s w => s.reclaim w.1) s

end Sys2Proof.Machine
end

