-- ==== Sys2Proof/Machine/Pool.lean ====
section
/-! DEFINITION. The extent and lease commands (R174 to R193): leases, allocation, grants, withdrawal, assignment, quotas
and the operator's queries. -/

set_option Elab.async false

namespace Sys2Proof.Machine
open Sys2Proof

/-- The refusals of R181 and R205 that come before every row of a command's table. [DESIGN CHOICE, log 72: unsafe] -/
def State.poolGuard (s : State) (no : State → Nat → Nat → State) (k : State → State) : State :=
  if s.pool.degraded then no s cBusy (s.epoch + 256)
  else if ¬ s.isMaster then no s cUnsupported 0
  else k s

/-- The epoch at which a class-3 command is judged (R187). -/
def State.viaEpoch (s : State) : Via → Nat
  | .fabric h => s.receipt h
  | .rsl c | .ch c _ => match s.rsl.opens.find? fun o => decide (o.tag = c.tag) with
    | some o => o.epoch
    | none => s.epoch

/-! ## Leases -/

/-- LEASE_RENEW under R184 and R187. -/
def leaseRenewAct (v : Via) (s : State) : State :=
  let h := s.viaHost v
  let e := s.viaEpoch v
  let l := s.lease h
  if l.st = .live ∨ l.st = .grace then
    let s := if l.st = .grace ∧ l.endEpoch ≤ e + 8 then s.bump 3 h 1 1 else s
    let n := e + s.cfgAt fLeasePeriod
    let s := (s.setLease h { l with st := .live, endEpoch := n }).bump 3 h 0 1
    s.extCpl v 0x40 cOk 0 0 n
  else s.extCpl v 0x40 cLeaseEnded 0 0 0

/-- The journal's entry of a LEASE_RENEW that stays open says so: a new active die judges its lease by it (R187). -/
def State.noteRenew (s : State) : Via → State
  | .fabric h => { s with twin := { s.twin with
      reqs := s.twin.reqs.map fun (r : JReq) => if r.jidx = h.jidx then { r with renew := true } else r } }
  | .rsl c => { s with rsl := { s.rsl with
      opens := s.rsl.opens.map fun (o : RslOpen) => if o.tag = c.tag then { o with renews := some c.host } else o } }
  | .ch _ _ => s

/-- LEASE_RENEW (R184). -/
def execLeaseRenew (v : Via) (s : State) : Out :=
  let no := fun (s : State) c x => s.extCpl v 0x40 c 0 0 x
  .next ((s.classThree v 0x40 [1] 0 false no fun s => s.poolGuard no fun s =>
    if 4096 ≤ s.viaHost v ∧ viaOperator v then no s cMalformed 0 else leaseRenewAct v s).noteRenew v)

/-- LEASE_END: step 4 of R35 for one LIVE lease. [DESIGN CHOICE, log 3: unsafe] -/
def execLeaseEnd (host : Nat) (s : State) : Out := .next (s.leaseEnd host)

/-- GRACE_END: step 4 of R35 for one lease in GRACE. -/
def execGraceEnd (host : Nat) (s : State) : Out := .next (s.graceEnd host)

/-- RECLAIM_DONE (R184, R188). -/
def execReclaimDone (host : Nat) (s : State) : Out := .next (s.reclaimDone host)

/-! ## Allocation (R185) -/

/-- Granules of an extent of `len` granules that lie on the member at position `p` of `m` (R176). -/
def shareGran (e len m p : Nat) : Nat :=
  let f := fun x => x / m + (if p < x % m then 1 else 0)
  f (e + len) - f e

/-- The position of member `i` in a mask. -/
def maskPos (m : BitVec 8) (i : Nat) : Nat := ((maskBits m).filter fun b => decide (b < i)).length

/-- The granules of extent `e` that fall on this module. -/
def State.localShare (s : State) (e len : Nat) (mask : BitVec 8) : Nat :=
  if mask.getLsbD s.setIndex then shareGran e len (maskBits mask).length (maskPos mask s.setIndex) else 0

/-- Enters an ACTIVE extent, its share placed (R174, R175); `none` when there is no room. [DEDUCED, log 79: unsafe] -/
def State.place (s : State) (e kind tenant owner len : Nat) (mask : BitVec 8) : Option State :=
  let n := s.localShare e len mask
  (s.placeShare n).map fun p => p.1.setExt e
    { Ext.empty with st := .active, shared := decide (kind = 1), tenant := tenant, owner := owner, hasOwner := true,
                     key := tenant, mask := mask, base := p.2, localGran := n, lenGran := len }

/-- Granules a tenant holds (R178). -/
def State.tenantGran (s : State) (t : Nat) : Nat :=
  sumOf ((s.pool.exts.filter fun e => decide (e.2.tenant = t)).map fun e => e.2.lenGran)

/-- A new extent's members: this module and every JOINED one. -/
def State.allocMask (s : State) : BitVec 8 :=
  BitVec.ofNat 8 (sumOf ((s.setIndex :: s.joined).map fun i => 2 ^ i))

/-- EXT_ALLOC under R185. -/
def extAllocAct (v : Via) (kind rights len resv : Nat) (s : State) : State :=
  let no := fun (s : State) c x => s.extCpl v 0x41 c 0 0 x
  let owner := s.viaHost v
  let tenant := match v with
    | .rsl c => some c.tenant
    | _ => s.tenantOf owner
  if 1 < kind ∨ rights = 0 ∨ 7 < rights ∨ len = 0 ∨ resv ≠ 0 ∨ 1023 < tenant.getD 0 ∨ 4095 < owner then no s cMalformed 0
  else if s.decommissioned then no s cUnsupported 0
  else if s.tenantOf owner = none ∨ s.tenantOf owner ≠ tenant then no s cRights 0
  else
    let t := tenant.getD 0
    if Tab.get 0 s.pool.quotas t < s.tenantGran t + len then no s cRights 0
    else if s.boot.poolReady = none then no s cBusy s.wipeEndEpoch
    else if s.lcRunning ∨ (1 < s.setSize ∧ ¬ s.pool.formEnded) then no s cBusy (s.epoch + 256)
    else if s.inReclaim owner then no s cBusy (s.epoch + 8)
    else
      let e := lowestFree 0 (s.pool.exts.map (·.1))
      let mask := s.allocMask
      if 16383 < e ∨ 65536 ≤ s.pool.grants.length then no s cBusy (s.epoch + 256)
      else match s.place e kind t owner len mask with
        | none => no s cBusy (s.epoch + 256)
        | some s =>
          (s.makeGrant e owner rights s.epoch).orderMask mask (.place e kind t owner len rights mask.toNat) []
            (some ⟨v, 0x41, 0x46, cOk, 0, extCplBody cOk mask.toNat e 0 (zeros 16), []⟩)

/-- EXT_ALLOC (R185). -/
def execExtAlloc (v : Via) (kind rights lenGran resv : Nat) (s : State) : Out :=
  let no := fun (s : State) c x => s.extCpl v 0x41 c 0 0 x
  .next (s.classThree v 0x41 [1, 5] (BitVec.allOnes 32) false no fun s => s.poolGuard no fun s =>
    extAllocAct v kind rights lenGran resv s)

/-! ## Grants (R186) -/

/-- Is the sender without the standing that a fabric sender needs (R417)? -/
def State.notOwner (s : State) (v : Via) (x : Ext) : Bool := !viaOperator v && !x.ownedBy (s.viaHost v)

/-- EXT_GRANT under R186. [DEDUCED, log 81: unsafe] -/
def extGrantAct (v : Via) (ext host rights resv : Nat) (s : State) : State :=
  let no := fun (s : State) c x => s.extCpl v 0x42 c 0 (if ext < 16384 then ext else 0) x
  let x := s.ext ext
  if 16383 < ext ∨ 4095 < host ∨ rights = 0 ∨ 7 < rights ∨ resv ≠ 0 then no s cMalformed 0
  else if s.decommissioned then no s cUnsupported 0
  else if s.lcRunning then no s cBusy (s.epoch + 256)
  else if s.boot.poolReady = none then no s cBusy s.wipeEndEpoch
  else if x.st ≠ .active then no s cRevoked 0
  else if s.notOwner v x then no s cRights 0
  else if !x.shared || s.isVersion ext then no s cUnsupported 0
  else if s.tenantOf host ≠ some x.tenant ∨ (x.sealed ∧ bitOf rights 2) then no s cRights 0
  else if s.inReclaim host then no s cBusy (s.epoch + 8)
  else if s.grant ext host = 0 ∧ 65536 ≤ s.pool.grants.length then no s cBusy (s.epoch + 256)
  else
    (s.makeGrant ext host rights s.epoch).orderMask x.mask (.grant ext host rights) []
      (some ⟨v, 0x42, 0x46, cOk, 0, extCplBody cOk x.mask.toNat ext 0 (zeros 16), []⟩)

/-- EXT_GRANT (R186). -/
def execExtGrant (v : Via) (ext host rights resv : Nat) (s : State) : Out :=
  let no := fun (s : State) c x => s.extCpl v 0x42 c 0 0 x
  .next (s.classThree v 0x42 [1, 5] (BitVec.allOnes 32) false no fun s => s.poolGuard no fun s =>
    extGrantAct v ext host rights resv s)

/-- EXT_RELEASE under R186. -/
def extReleaseAct (v : Via) (ext host resv : Nat) (s : State) : State :=
  let fin := fun (s : State) c => s.extCpl v 0x43 c 0 (if ext < 16384 then ext else 0) 0
  let x := s.ext ext
  if 16383 < ext ∨ 4095 < host ∨ resv ≠ 0 then fin s cMalformed
  else if x.st = .free then fin s cRevoked
  else if s.notOwner v x ∧ s.viaHost v ≠ host then fin s cRights
  else if s.isVersion ext then fin s cUnsupported
  else if s.grant ext host = 0 then fin s cOk
  else if !x.shared then (s.ungrant ext host none).withdraw ext false (some (v, 0x43))
  else s.ungrant ext host (some ⟨v, 0x43, 0x46, cOk, 0, extCplBody cOk 0 ext 0 (zeros 16), []⟩)

/-- EXT_RELEASE (R186). -/
def execExtRelease (v : Via) (ext host resv : Nat) (s : State) : Out :=
  let no := fun (s : State) c x => s.extCpl v 0x43 c 0 0 x
  .next (s.classThree v 0x43 [1, 5] (BitVec.allOnes 32) false no fun s => s.poolGuard no fun s =>
    extReleaseAct v ext host resv s)

/-! ## Withdrawal (R189, R193, R226) -/

/-- Is the extent bound to an UP domain? -/
def State.boundUp (s : State) (x : Ext) : Bool :=
  match x.domain with
  | some d => decide ((s.domain d).st = .up)
  | none => false

/-- EXT_WITHDRAW under R181, R189 and R226. [DEDUCED, log 73: unsafe] -/
def extWithdrawAct (v : Via) (ext force resv : Nat) (s : State) : State :=
  let fin := fun (s : State) c => s.extCpl v 0x44 c 0 (if ext < 16384 then ext else 0) 0
  let x := s.ext ext
  if 16383 < ext ∨ 1 < force ∨ resv ≠ 0 then fin s cMalformed
  else if x.st = .free then fin s cRevoked
  else if s.notOwner v x ∨ (force = 1 ∧ ¬ viaOperator v) then fin s cRights
  else if s.isVersion ext ∨ s.boundUp x then fin s cUnsupported
  else s.withdraw ext (decide (force = 1)) (some (v, 0x44))

/-- EXT_WITHDRAW (R189). -/
def execExtWithdraw (v : Via) (ext force resv : Nat) (s : State) : Out :=
  let no := fun (s : State) c x => s.extCpl v 0x44 c 0 0 x
  .next (s.classThree v 0x44 [1, 5] (BitVec.allOnes 32) false no fun s => s.poolGuard no fun s =>
    extWithdrawAct v ext force resv s)

/-- EXTENT_FREE: HOLD_COUNT of a WITHDRAWING extent has reached 0 here and at every member (R189).
[DEDUCED, log 80: unsafe] -/
def execExtentFree (ext : Nat) (s : State) : Out := .next (if s.extDrained ext then s.extentFree ext else s)

/-! ## The set, assignment, quotas and queries (R174, R177, R178, R182, R183) -/

/-- SET_INFO (R182), served by any member. -/
def execSetInfo (v : Via) (s : State) : Out :=
  let no := fun (s : State) c x => s.extCpl v 0x45 c 0 0 x
  .next (s.classThree v 0x45 [1] 0 false no fun s =>
    let value := s.pool.setGen + s.pool.master * two32
    let ids := (List.range 8).flatMap fun i => leBytes 2 (if i < s.setSize then s.memberId i else 0)
    s.finish v 0x45 0x46 cOk value (extCplBody cOk 0 0 value ids) [])

/-- HOST_ASSIGN under R177. -/
def hostAssignAct (c : RslCmd) (host tenant assign : Nat) (s : State) : State :=
  let l := s.lease host
  if 4095 < host ∨ 1023 < tenant ∨ 1 < assign then s.rslAnswer c 0x130 cMalformed 0 []
  else if assign = 1 ∧ s.tenantOf host = some tenant then s.rslAnswer c 0x130 cOk 0 []
  else if assign = 0 ∧ s.tenantOf host ≠ some tenant then s.rslAnswer c 0x130 cUnsupported 0 []
  else if l.st ≠ .none then s.rslAnswer c 0x130 cUnsupported 0 []
  else
    let s := s.endSessions fun x => decide (x.host = host)
    let s := s.setLease host { l with assigned := decide (assign = 1), tenant := if assign = 1 then tenant else 0 }
    s.orderMask allMembers (.assign host tenant assign) [] (some (heldRsl c 0x130 cOk 0 []))

/-- HOST_ASSIGN (R177). -/
def execHostAssign (c : RslCmd) (host tenant assign : Nat) (s : State) : Out :=
  .next (s.rslGate c 0x130 false fun s => hostAssignAct c host tenant assign s)

/-- TENANT_SET (R178). -/
def execTenantSet (c : RslCmd) (tenant quota : Nat) (s : State) : Out :=
  .next (s.rslGate c 0x131 false fun s =>
    if 1023 < tenant ∨ 3686400 < quota then s.rslAnswer c 0x131 cMalformed 0 []
    else
      let s := ({ s with pool := { s.pool with quotas := Tab.set 0 s.pool.quotas tenant quota } }).logChange 0x0004
        tenant 32 none
      s.rslAnswer c 0x131 cOk 0 [])

/-- EXT_QUERY (R174). -/
def execExtQuery (c : RslCmd) (ext : Nat) (s : State) : Out :=
  .next (s.rslGate c 0x133 false fun s =>
    if 16383 < ext then s.rslAnswer c 0x133 cMalformed 0 []
    else s.rslAnswer c 0x133 cOk 0 (leBytes 32 (extEntry s ext)))

/-- LEASE_QUERY (R183). -/
def execLeaseQuery (c : RslCmd) (host : Nat) (s : State) : Out :=
  .next (s.rslGate c 0x134 false fun s =>
    if 4095 < host then s.rslAnswer c 0x134 cMalformed 0 []
    else s.rslAnswer c 0x134 cOk 0 (leBytes 16 (leaseRecord s host)))

end Sys2Proof.Machine
end

