-- ==== Sys2Proof/Machine/PoolSet.lean ====
section
/-! DEFINITION. The pool set's messages and events (R198 to R206, R228): forming, orders, deltas, loss of a member or of
the master, and a new master. -/

set_option Elab.async false

namespace Sys2Proof.Machine
open Sys2Proof

/-! ## Admission (R199) -/

/-- Is SET_GEN `g` newer than `now`? It wraps past 0xFFFF_FFFF (R199). [DEDUCED, log 173: unsafe] -/
def genNewer (g now : Nat) : Bool := decide (g ≠ now ∧ (g + two32 - now) % two32 < 0x80000000)

/-- A pool-set message reaches the module: one whose DST is wrong is misrouted (R155), one whose SRC is no member or
whose SET_GEN is not current is discarded and counted. `k` takes the member's index. -/
def State.setCheck (s : State) (h : ReqHdr) (gen : Nat) (k : State → Nat → State) : State :=
  if h.dst ≠ s.fabricId then s.bumpPort h.port 30 1
  else match s.memberOf h.src with
    | none => s.bump 10 0 1 1
    | some i =>
      if gen ≠ s.pool.setGen then
        let s := s.bump 10 0 1 1
        -- a former master learns of the newer SET_GEN (R206)
        if s.isMaster ∧ genNewer gen s.pool.setGen ∧ 1 < s.setSize then
          ({ s with pool := { s.pool with refusedByPeer := true } }).raise 0x0403 sevWarning s.actDie
            (leBytes 2 h.src ++ leBytes 4 gen)
        else s
      else k s i

/-- A member's response: while no die takes messages it stays in the ingress buffer, to be given again (R374). -/
def State.setIn (s : State) (h : ReqHdr) (gen : Nat) (k : State → Nat → State) : State :=
  s.setCheck h gen fun s i => if s.attended then k s i else s

/-- A member's request takes a journal entry, and is carried out when a die takes messages, in its turn (R33, R366). -/
def State.setReq (s : State) (h : ReqHdr) (gen : Nat) (k : State → Nat → State) : State :=
  s.setCheck h gen fun s i =>
    let known := (s.journaled h.jidx).isSome
    if !known ∧ 262144 ≤ s.twin.reqs.length then { s with twin := { s.twin with fullEpoch := true } }
    else
      let s := if known then s else s.journalIn h false
      if !s.attended || s.handingOver || s.pairedEntry.isSome || s.serving && s.mustWait h.jidx then s else k (s.forward h.jidx) i

def State.member (s : State) (i : Nat) : Member := Tab.get Member.empty s.pool.members i

def State.setMember (s : State) (i : Nat) (m : Member) : State :=
  ({ s with pool := { s.pool with members := Tab.set Member.empty s.pool.members i m } }).logChange 0x0011 i 32 none

/-! ## Orders (R200, R201) -/

/-- An order's answer: SET_DONE with the order's TAG. -/
def State.orderDone (s : State) (h : ReqHdr) (code : Nat) : State :=
  s.send { messageTo h.src h.tag 0x4B clsRsp 0 (leBytes 4 s.pool.setGen ++ leBytes 1 code) with jidx := some h.jidx }

/-- Clears the page-valid bits of an extent's pages, and of the page that each MOVING one is being copied to (R341). -/
def State.clearValid (s : State) (e : Nat) : State :=
  let x := s.ext e
  (List.range (x.localGran * 32)).foldl (fun s i =>
    let p := s.phys (x.base + i)
    let s := s.wipePages p 1
    match Tab.get none s.mem.moving p with
    | some mv => s.wipePages mv.target 1
    | none => s) s

/-- A member carries out an order on receipt (R200): the state after it, and the code of its SET_DONE, none while a
withdrawal runs. -/
def State.carryOut (s : State) (h : ReqHdr) : SetOrder → State × Option Nat
  | .place e kind t owner len rights mask =>
    match s.place e kind t owner len (BitVec.ofNat 8 mask) with
    | none => (s, some cBusy)
    | some s =>
      (({ s with pool := { s.pool with grants := Tab.set 0 s.pool.grants (grantKey e owner) rights } }).logChange
        0x0003 (grantKey e owner) 32 none, some cOk)
  | .grant e o r =>
    (({ s with pool := { s.pool with grants := Tab.set 0 s.pool.grants (grantKey e o) r } }).logChange
      0x0003 (grantKey e o) 32 none, some cOk)
  | .release e o =>
    (({ s with pool := { s.pool with grants := Tab.set 0 s.pool.grants (grantKey e o) 0 } }).logChange
      0x0003 (grantKey e o) 32 none, some cOk)
  | .withdraw e f =>
    if (s.ext e).st = .free then (s, some cOk)
    else
      let mine := Tab.get [] s.pool.masterTags e
      let s := if mine.any fun t => decide (t.2 = h.jidx) then s else { s with pool := { s.pool with
        masterTags := Tab.set [] s.pool.masterTags e (mine ++ [(h.tag, h.jidx)]) } }
      (s.withdraw e (decide (f = 1)) none, none)
  | .assign o t a =>
    let s := s.endSessions fun x => decide (x.host = o)
    (s.setLease o { s.lease o with assigned := decide (a = 1), tenant := if a = 1 then t else 0 }, some cOk)
  | .domain d st t c g slots =>
    let old := s.domain d
    if st = 2 ∧ old.st = .up then (s.domainFalls d c false none, some cOk)
    else
      let now : DomState := if st = 0 then .free else if st = 1 then .up else .down
      let s := s.setDomain d { st := now, tenant := t, cause := c, dgen := g,
                               slots := slots.foldl (fun t (m : Nat × Nat) => Tab.set none t m.1 (some m.2)) [] }
      let s := if st = 1 ∧ old.dgen ≠ g then (s.boundExts d).foldl State.clearValid s else s
      (if st = 1 ∧ old.dgen ≠ g then s.loadKey (1024 + d) else if st = 0 then s.zeroKey (1024 + d) else s, some cOk)
  | .bind e d =>
    let x := s.ext e
    if d.isSome ∧ s.holdCount e ≠ 0 then (s, some cBusy)
    else
    let s := s.setExt e { x with domain := d, key := match d with
      | some n => 1024 + n
      | none => x.tenant }
    (s.clearValid e, some cOk)
  | .entry e x d o k r =>
    (s.setExt e { s.ext e with sealed := x, damaged := d, hasOwner := o, key := k, region := r }, some cOk)
  | .tablesEnd => ({ s with pool := { s.pool with ready := true, lastDeltaAt := s.epoch } }, some cOk)

/-- SET_CMD: an order of the master (R199, R200); from another member it is not accepted (R206). -/
def execSetCmd (h : ReqHdr) (setGen : Nat) (order : SetOrder) (s : State) : Out :=
  .next (s.setReq h setGen fun s i =>
    if i ≠ s.pool.master then s.journalOut h.jidx
    else match s.carryOut h order with
      | (s, some code) => s.orderDone h code
      | (s, none) => s)

/-- The bits of the members in a list. -/
def memberBits (l : List Nat) : BitVec 8 := BitVec.ofNat 8 (l.eraseDups.foldl (fun n i => n + 2 ^ i) 0)

/-- Undoes a placement that a member refused, at the members that placed (R185, R200). -/
def State.unplace (s : State) (e : Nat) (refused : List Nat) : State :=
  let x := s.ext e
  let s := (s.grantees e).foldl (fun s h => s.dropGrant e h) s
  let s := s.setExt e { x with st := .withdrawing }
  let s := s.orderMask (x.mask &&& ~~~memberBits refused) (.withdraw e 1) [] none
  if s.extDrained e then s.extentFree e else s

/-- Undoes a binding that a member with holders refused (R226): the members that made it undo it, and the command is to
be tried again. -/
def State.unbind (s : State) (e : Nat) (refused : List Nat) : State :=
  let x := s.ext e
  let s := (s.setExt e { x with domain := none, key := x.tenant }).clearValid e
  s.orderMask (x.mask &&& ~~~memberBits refused) (.bind e none) [] none

/-- What an order whose last answer has come completes. -/
def State.orderEnd (s : State) (r : SetOrderRec) : State :=
  match r.order, r.refused with
  | .place e _ _ _ _ _ _, i :: is =>
    let s := s.unplace e (i :: is)
    match r.held with
    | some hc => s.extCpl hc.via 0x41 cBusy 0 0 (s.epoch + 256)
    | none => s
  | .bind e (some _), i :: is =>
    let s := s.unbind e (i :: is)
    match r.held with
    | some hc => s.release { hc with code := cBusy, value := s.epoch + 1 }
    | none => s
  | _, _ => s.releaseAll r.held.toList

/-- Completes every order that waits for nobody. -/
def State.settleOrders (s : State) : State :=
  let done := s.pool.orders.filter fun r => decide (r.waiting = [])
  let s := { s with pool := { s.pool with orders := s.pool.orders.filter fun r => decide (r.waiting ≠ []) } }
  done.foldl State.orderEnd s

/-- May a member refuse this order: a PLACE that finds no room, a binding of an extent that has holders (R185, R226)? -/
def orderRefusable : SetOrder → Bool
  | .place _ _ _ _ _ _ _ => true
  | .bind _ d => d.isSome
  | _ => false

/-- Puts new orders in the place of an order that waits: `who` has refused it, unless it answered OK. -/
def State.answerOrder (s : State) (w : Sent) (more : List Sent) (who : List Nat) : State :=
  let now := fun (r : SetOrderRec) =>
    if r.waiting.contains w then
      { r with waiting := (r.waiting.filter fun y => decide (y ≠ w)) ++ more, refused := r.refused ++ who }
    else r
  { s with pool := { s.pool with orders := s.pool.orders.map now } }

/-- SET_DONE: a member's answer to an order (R200). A command completes only when every member has answered OK, and so an
order that no member may refuse is sent again. [DESIGN CHOICE, log 171: unsafe] -/
def execSetDone (h : ReqHdr) (setGen : Nat) (code : Nat) (s : State) : Out :=
  .next (s.setIn h setGen fun s i =>
    match (s.pool.orders.flatMap (·.waiting)).find? fun w => decide (w.member = i ∧ w.tag = h.tag) with
    | none => s
    | some w =>
      if code = cOk then (s.answerOrder w [] []).settleOrders
      else if orderRefusable w.order then (s.answerOrder w [] [i]).settleOrders
      else
        let (s, tag) := s.sendOrder i w.order
        s.answerOrder w [⟨i, tag, w.order⟩] [])

/-! ## Deltas (R201, R204) -/

/-- A lease record as SET_DELTA carries it: host, then the 16 bytes of R183. -/
def deltaRecord (s : State) (h : Nat) : List Byte := leBytes 2 h ++ leBytes 16 (leaseRecord s h)

/-- Cuts a list into pieces of at most `n + 1`. -/
def chunks {α : Type} (n : Nat) : Nat → List α → List (List α)
  | 0, _ => []
  | fuel + 1, l => if l.length ≤ n + 1 then [l] else l.take (n + 1) :: chunks n fuel (l.drop (n + 1))

/-- SET_DELTA for epoch `e` to every joined member, at step 4 of R35: the records changed, the last message marked. -/
def State.sendDeltas (s : State) (e : Nat) : State :=
  let recs := s.pool.changed.map (deltaRecord s)
  let parts := chunks 10 (recs.length + 1) recs
  let s := if ¬ s.isMaster then s else s.joined.foldl (fun s i =>
    ((parts.zip (List.range parts.length)).foldl (fun s p =>
      s.setMsg i 0 0x48 clsReq (b2n (decide (p.2 + 1 = parts.length))) (leBytes 8 e ++ p.1.flatten)) s)) s
  { s with pool := { s.pool with changed := [], lastDelta := if s.isMaster then e else s.pool.lastDelta } }

/-- The lease state that a record's number names. -/
def lstateOf (n : Nat) : LState :=
  match n with
  | 1 => .live
  | 2 => .grace
  | 3 => .reclaim
  | _ => .none

/-- A member applies one lease record, and sets or clears the LEASE_GONE bit as it requires (R201). -/
def State.applyRecord (s : State) (r : LeaseRec) : State :=
  let st := lstateOf r.lstate
  let old := s.lease r.host
  let s := s.setLease r.host ⟨r.assigned, st, r.tenant, r.endEpoch⟩
  let s := if st = .reclaim then s.setLeaseGone r.host true
    else if st = .live then s.setLeaseGone r.host false else s
  if st = .reclaim ∧ old.st ≠ .reclaim then
    let doms := (s.coh.domains.filter fun d => decide (d.2.st = .up) && (d.2.slotOf r.host).isSome).map (·.1)
    let s := doms.foldl (fun s d => s.domainDown d 2) s
    let bars := (s.repro.barriers.filter fun b => b.2.arrivals.any fun a => decide (a.1 = r.host)).map (·.1)
    let s := bars.foldl (fun s b => s.endBarrier b cLeaseEnded 0) s
    let s := (s.bufsWhere fun b => decide (b.st ≠ .free ∧ b.owner = r.host)).foldl State.forceClose s
    let s := (s.disown r.host).stopRingsOf r.host
    s.endSessions fun x => decide (x.host = r.host)
  else s

/-- SET_DELTA at a member (R201): applied in epoch order; the last message of one is acknowledged. One from another member
than the master, or of an epoch already passed, is not applied. [DEDUCED, log 78: unsafe] -/
def execSetDelta (h : ReqHdr) (setGen epoch : Nat) (recs : List LeaseRec) (s : State) : Out :=
  .next (s.setReq h setGen fun s i =>
    if i ≠ s.pool.master ∨ s.isMaster ∨ epoch < s.pool.lastDelta then s.journalOut h.jidx
    else
      let s := recs.foldl State.applyRecord s
      let s := { s with pool := { s.pool with changed := [], lastDeltaAt := s.epoch } }
      if h.opData.getLsbD 0 then
        let s := ({ s with pool := { s.pool with lastDelta := epoch } }).logChange 0x0011 8 32 none
        s.setReply i 0 0x49 (some h.jidx) (leBytes 8 epoch)
      else s.journalOut h.jidx)

/-- SET_ACK at the master (R201, R203): reclaims that waited for it begin. -/
def execSetAck (h : ReqHdr) (setGen epoch : Nat) (s : State) : Out :=
  .next (s.setIn h setGen fun s i =>
    if (s.member i).st = .joined then
      (s.setMember i { s.member i with ackEpoch := epoch, lastAckAt := s.epoch }).startReclaims
    else s)

/-! ## Formation (R202, R203) -/

/-- The running image's digest. -/
def State.runDigest (s : State) : Nat := ofLe (sha384 (imageHeader s.runImage))

/-- SET_JOIN_SEND: every 16 epochs from EV_POOL_READY, to each member that has not joined (R202). -/
def execSetJoinSend (s : State) : Out :=
  .next (match s.boot.poolReady with
  | none => s
  | some e =>
    if ¬ s.isMaster ∨ s.setSize = 1 ∨ (s.epoch - e) % 16 ≠ 0 ∨ ¬ s.serving then s
    else
      let targets := (List.range s.setSize).filter fun i => decide (i ≠ s.setIndex ∧ (s.member i).st = .absent)
      targets.foldl (fun s i => s.setMsg i 0 0x4C clsReq 0 (leBytes 1 s.setSize ++ leBytes 48 s.runDigest)) s)

/-- SET_JOIN at a member: it answers only the fabric ID SET.MEMBER_ID[0] (R202). -/
def execSetJoin (h : ReqHdr) (setGen size digest : Nat) (s : State) : Out :=
  .next (s.setReq h setGen fun s i =>
    if h.src ≠ s.cfgIx fMemberId 0 then s.journalOut h.jidx
    else
      let code := if size = s.setSize ∧ digest = s.runDigest then cOk else cUnsupported
      s.setReply i h.tag 0x4D (some h.jidx) (leBytes 1 s.setIndex ++ leBytes 1 s.setSize ++ leBytes 1 code))

/-- A domain's record as an order (R228). -/
def Domain.order (d : Nat) (x : Domain) : SetOrder :=
  .domain d (match x.st with
    | .free => 0
    | .up => 1
    | .down => 2) x.tenant x.cause x.dgen x.members

/-- An extent entry as orders: its placement, its binding, what else it holds, and its withdrawal. -/
def State.extOrders (s : State) (e : Nat) (x : Ext) : List SetOrder :=
  [.place e (b2n x.shared) x.tenant x.owner x.lenGran (s.grant e x.owner) x.mask.toNat] ++
  (match x.domain with
    | some d => [.bind e (some d)]
    | none => []) ++
  [.entry e x.sealed x.damaged x.hasOwner x.key x.region] ++
  (if x.st = .withdrawing then [.withdraw e (b2n (Tab.get false s.pool.forced e))] else [])

/-- The full tables as orders, for a member's first join (R202): assignments, domains, extents, grants, and the last
order. [DESIGN CHOICE, log 75: unsafe] -/
def State.tableOrders (s : State) : List SetOrder :=
  ((s.pool.leases.filter fun l => l.2.assigned).map fun l => SetOrder.assign l.1 l.2.tenant 1) ++
  (s.coh.domains.map fun d => d.2.order d.1) ++
  (s.pool.exts.flatMap fun e => s.extOrders e.1 e.2) ++
  (s.pool.grants.map fun g => SetOrder.grant (g.1 / 4096) (g.1 % 4096) g.2) ++ [.tablesEnd]

/-- Formation ends when every member has joined (R202). -/
def State.settleFormation (s : State) : State :=
  if (List.range s.setSize).all fun i => decide (i = s.setIndex) || decide ((s.member i).st = .joined) then
    { s with pool := { s.pool with formEnded := true } }
  else s

/-- SET_JOIN_ACK at the master (R203). -/
def execSetJoinAck (h : ReqHdr) (setGen index size code : Nat) (s : State) : Out :=
  .next (s.setIn h setGen fun s i =>
    if (s.member i).st ≠ .absent then s
    else if code = cOk ∧ index = i ∧ size = s.setSize then
      let s := s.setMember i ⟨.joined, 0, s.epoch⟩
      let s := (s.sendOrders (s.tableOrders.map fun o => (i, o))).1
      let all := s.pool.leases.map (·.1)
      ({ s with pool := { s.pool with changed := all } }).settleFormation
    else s.raise 0x0403 sevWarning s.actDie (leBytes 2 h.src ++ leBytes 4 setGen))

/-- SET_FORMATION_END: SET.FORM_EPOCHS have passed since EV_POOL_READY (R202). -/
def execSetFormationEnd (s : State) : Out :=
  .next (match s.boot.poolReady with
  | some e =>
    if s.isMaster ∧ e + s.cfgAt fFormEpochs ≤ s.epoch then { s with pool := { s.pool with formEnded := true } } else s
  | none => s)

/-! ## Loss (R203, R205) and a new master (R206) -/

/-- SET_MEMBER_LOSS: no SET_ACK from a JOINED member for SET.LOSS_EPOCHS epochs (R203). -/
def execSetMemberLoss (index : Nat) (s : State) : Out :=
  .next (
    let m := s.member index
    if s.isMaster ∧ index ≠ s.setIndex ∧ m.st = .joined ∧ m.lastAckAt + s.cfgAt fLossEpochs ≤ s.epoch then
      let s := s.setMember index { m with st := .lost }
      let hit := (s.pool.exts.filter fun e => decide (e.2.st ≠ .free) && e.2.mask.getLsbD index).map (·.1)
      let s := hit.foldl State.damage s
      let s := s.raise 0x0404 sevWarning s.actDie (leBytes 1 index)
      let orders := s.pool.orders.map fun (r : SetOrderRec) => { r with waiting := r.waiting.filter fun w => decide (w.member ≠ index) }
      (({ s with pool := { s.pool with orders := orders } }).settleOrders).startReclaims
    else s)

/-- SET_MASTER_LOSS: no SET_DELTA for SET.LOSS_EPOCHS epochs at a member (R205). -/
def execSetMasterLoss (s : State) : Out :=
  .next (
    if ¬ s.isMaster ∧ s.pool.ready ∧ ¬ s.pool.degraded ∧ s.pool.lastDeltaAt + s.cfgAt fLossEpochs ≤ s.epoch then
      let s := ({ s with pool := { s.pool with degraded := true } }).logChange 0x0011 8 32 none
      (s.raise 0x0405 sevWarning s.actDie (leBytes 1 s.pool.master ++ leBytes 4 s.pool.setGen)).noticeAll 3
    else s)

/-- SET_GEN after `g`. -/
def nextSetGen (g : Nat) : Nat := if two32 - 1 ≤ g then 1 else g + 1

/-- SET_MASTER (R206): checked now, applied at the next boundary. A NEW_MASTER at or above SET.SIZE is taken like any
other. [DESIGN CHOICE, log 172: unsafe] -/
def execSetMaster (c : RslCmd) (newMaster : Nat) (lostMask : BitVec 8) (setGen : Nat) (s : State) : Out :=
  .next (s.rslGate c 0x132 false fun s =>
    if 7 < newMaster ∨ setGen ≠ nextSetGen s.pool.setGen ∨ lostMask.getLsbD newMaster then
      s.rslAnswer c 0x132 cMalformed 0 []
    else if s.pool.masterPending.isSome then s.rslAnswer c 0x132 cBusy (s.epoch + 256) []
    else
      let s := { s with pool := { s.pool with masterPending := some (newMaster, lostMask, setGen) } }
      s.rslAnswer c 0x132 cOk 0 [])

/-- At the boundary after an accepted SET_MASTER (R206). A module that LOST_MASK names has been judged lost: from then on
it answers its lines POISON (R196, R203). [DESIGN CHOICE, log 170: unsafe] -/
def State.applyMaster (s : State) : State :=
  match s.pool.masterPending with
  | none => s
  | some (m, lost, gen) =>
    let me := decide (m = s.setIndex)
    let members : Tab Member := if me then (List.range s.setSize).filterMap fun i =>
        if i = s.setIndex then none
        else some (i, ⟨if lost.getLsbD i then .lost else .joined, 0, s.epoch⟩)
      else []
    let s := ({ s with pool := { s.pool with
      masterPending := none, master := m, setGen := gen, degraded := false, members := members, formEnded := true,
      lastDeltaAt := s.epoch, lostHere := s.pool.lostHere || lost.getLsbD s.setIndex } }).logChange 0x0011 8 32 none
    let hit := (s.pool.exts.filter fun e => decide (e.2.st ≠ .free) &&
      decide (e.2.mask &&& lost ≠ 0)).map (·.1)
    let s := if me then hit.foldl State.damage s else s
    s.noticeAll 4

end Sys2Proof.Machine
end

