-- ==== Sys2Proof/Machine/HomeOps.lean ====
section
/-! DEFINITION. The home agent at work: admission (R214), snoops (R208, R213), applying a request and answering it
(R215), and what unbound lines do at the hubs (R38, R213, R222). -/

set_option Elab.async false

namespace Sys2Proof.Machine
open Sys2Proof

/-! ## Form and access of loads and stores (R180, R209, R210, R404) -/

/-- The access check of a load, store or atomic, with the counters of R207 and what a bound extent adds: a line on a
failed part takes an UP domain down (R196, R227); after the checks, a DOWN domain answers DOMAIN_DOWN. `member`: only
domain members may send it, and only to a bound extent (R213). -/
def State.homeAccess (s : State) (kind : HomeReq) (h : ReqHdr) (addr need : Nat) (member : Bool)
    (k : State → Nat → Nat → State) : State :=
  let never := decide (kind ≠ .rdNc ∧ kind ≠ .wrNc)
  let e := addrExt addr
  let dom := (s.ext e).domain
  let outsider := member && (match dom with
    | some d => ((s.domain d).slotOf h.src).isNone
    | none => false)
  match s.accessSealed h.src h.sess addr need never with
  | .fail code check =>
    if 5 < check ∧ check < 9 ∧ outsider then s.homeCpl kind h cRights 0
    else
      let s := s.countAccessFail h.src check
      let up := decide (check = 8) && s.boundUp (s.ext e)
      let s := s.homeCpl kind h code (s.epoch + 1)
      if up then s.dataLost e else s
  | .ok _ line =>
    if member && dom.isNone then s.homeCpl kind h cUnsupported 0
    else if outsider then s.homeCpl kind h cRights 0
    else if dom.isSome && !s.boundUp (s.ext e) then s.homeCpl kind h cDomainDown 0
    else k s e line

/-- The guard of R283 on a load, store or atomic. -/
def State.pastGuard (s : State) (kind : HomeReq) (h : ReqHdr) (addr : Nat) (k : State → State) : State :=
  match s.guarded addr with
  | some c => s.homeCpl kind h c (s.epoch + 1)
  | none => k s

/-! ## Starvation entries and admission (R214, R220, R221) -/

/-- [DEDUCED, log 88: unsafe] -/
def State.starveEntry (s : State) (line : Nat) : Option Starve := s.coh.starve.find? fun e => decide (e.line = line)

/-- A retry of a starvation entry's holder has arrived (R221). -/
def State.noteRetry (s : State) (line : Nat) : State :=
  let l := s.coh.starve.map fun (x : Starve) => if x.line = line then { x with lastRetry := s.epoch } else x
  { s with coh := { s.coh with starve := l } }

/-- COH_NAK with REASON 0: a request retried often enough is given the line's entry, and its holder's retry is noted. -/
def State.nakBusy (s : State) (h : ReqHdr) (line d : Nat) : State :=
  let s := s.bump 4 d 1 1
  match s.starveEntry line with
  | some e =>
    if e.host = h.src then (s.noteRetry line).cohNak h 0 true
    else s.cohNak h 0 false
  | none =>
    if retryOf h < s.cfgAt fStarveRetries then s.cohNak h 0 false
    else if 256 ≤ s.coh.starve.length then (s.bump 10 0 3 1).cohNak h 0 false
    else
      let l := s.coh.starve ++ [Starve.mk line h.src s.epoch]
      (({ s with coh := { s.coh with starve := l } }).bump 10 0 2 1).cohNak h 0 true

/-- Does admitting this request clear a starvation entry: is it its holder's (R221)? -/
def Tracker.clears (t : Tracker) (e : Starve) : Bool :=
  decide (e.line = t.line ∧ e.host = t.hdr.src ∧ t.kind ≠ .wbDirty ∧ t.kind ≠ .evict) && !t.byCoach

/-- Opens a tracker in state READ. -/
def State.openTracker (s : State) (t : Tracker) : State :=
  let s := { s with coh := { s.coh with
    trackers := s.coh.trackers ++ [{ t with id := s.coh.nextTracker }]
    nextTracker := s.coh.nextTracker + 1
    starve := s.coh.starve.filter fun e => !t.clears e } }
  s.bump 4 t.domain 0 1

/-- A tracker for a request, before it has a number. -/
def newTracker (kind : HomeReq) (h : ReqHdr) (addr ext d : Nat) (mask : BitVec 64) (data : Line)
    (operand : BitVec 256) (reserve : Nat) (answers : List Nat) : Tracker :=
  { id := 0, line := addr / 64, ext := ext, domain := d, kind := kind, hdr := h, st := .read, mask := mask, data := data,
    operand := operand, off := addr % 64, snoops := [], cur := none, fromMember := false, dir := 0, reserve := reserve, answers := answers,
    ackBoundAt := none }

/-- Admits a request that opens a transaction on a bound line, or answers COH_NAK (R214). -/
def State.admitHome (s : State) (kind : HomeReq) (h : ReqHdr) (addr ext d : Nat) (mask : BitVec 64) (data : Line)
    (operand : BitVec 256) : State :=
  let line := addr / 64
  let entry := s.starveEntry line
  let mine := match entry with
    | some e => decide (e.host = h.src)
    | none => false
  if s.lineBusy line || (entry.isSome && !mine) then s.nakBusy h line d
  else
    let t := newTracker kind h addr ext d mask data operand
    if mine ∧ s.reserveUsed 1 < 256 then s.openTracker (t 1 [])
    else if s.reserveUsed 0 < 15872 then s.openTracker (t 0 [])
    else ((if mine then s.noteRetry line else s).bump 4 d 2 1).cohNak h 1 mine

/-! ## Snoops (R208, R209) -/

/-- The address block of a snoop: POOL_ADDR, DOMAIN, DGEN. -/
def snoopBody (line d dgen : Nat) : List Byte := leBytes 8 (line * 64) ++ leBytes 2 d ++ leBytes 2 dgen ++ zeros 4

/-- The first number from `t` on that no open snoop uses. -/
def freeTag (used : List Nat) : Nat → Nat → Nat
  | 0, t => t
  | fuel + 1, t => if t ∈ used then freeTag used fuel ((t + 1) % 0x8000) else t

/-- Sends one snoop of a tracker, under a TAG of the module's own (R208, R232). -/
def State.sendSnoop (s : State) (t : Tracker) (share : Bool) (m : Nat × Nat) : State × Snoop :=
  let used := s.coh.trackers.flatMap fun x => x.snoops.map fun n => n.tag
  let tag := freeTag used (used.length + 1) (Config.snoopTag s.coh.nextSnoop % 0x8000)
  let s := { s with coh := { s.coh with nextSnoop := s.coh.nextSnoop + 1 } }
  let s := s.send (messageTo m.2 tag (if share then 0x11 else 0x10) clsSnp 0
    (snoopBody t.line t.domain (s.domain t.domain).dgen))
  (s.bump 4 t.domain 3 1, ⟨m.1, m.2, tag, share, false, false, none⟩)

/-- Sends the snoops of a tracker, and holds it in SNOOP with the line as read. -/
def State.snoopAll (s : State) (t : Tracker) (share : Bool) : List (Nat × Nat) → State
  | [] => s
  | m :: ms =>
    let (s, n) := s.sendSnoop t share m
    let t := { t with snoops := t.snoops ++ [n] }
    State.snoopAll (s.setTracker t) t share ms

/-! ## Answering a transaction (R213, R215) -/

/-- The requester's member index, or 64 for one that fills no slot. -/
def State.reqSlot (s : State) (t : Tracker) : Nat := ((s.domain t.domain).slotOf t.hdr.src).getD 64

/-- The response of a transaction; RD_SHARED and RD_OWN wait for GRANT_ACK, the others are over. -/
def State.respond (s : State) (t : Tracker) (data : Line) : State :=
  if t.byCoach then (s.answerCoach t cOk data).freeTracker t.id
  else match t.kind with
  | .rdNc => (s.rdData t.hdr 0 data).freeTracker t.id
  | .rdShared => (s.rdData t.hdr (grantedOf .rdShared t.dir (s.reqSlot t)) data).setTracker { t with st := .waitAck }
  | .rdOwn => (s.rdData t.hdr 2 data).setTracker { t with st := .waitAck }
  | .atomic => (s.atCpl t.hdr cOk (atomicOld t.hdr t.off (t.cur.getD 0))).freeTracker t.id
  | .wrNc => (s.cohCpl t.hdr cOk 0).freeTracker t.id
  | .wbDirty => (s.cohCpl t.hdr cOk 0).freeTracker t.id
  | .evict => (s.cohCpl t.hdr cOk 0).freeTracker t.id

/-- Does the request write its line (R213)? `fromMember`: a snooped member gave the data. -/
def writesLine (t : Tracker) (fromMember : Bool) (dir' : BitVec 10) : Bool :=
  match t.kind with
  | .wrNc => true
  | .atomic => true
  | .wbDirty => true
  | _ => fromMember || decide (dir' ≠ t.dir)

/-- Applies a request to the line's current value `cur` (R215): a line write through the hub first, or the answer. -/
def State.applyHome (s : State) (t : Tracker) (cur : Line) (fromMember : Bool) : State :=
  let dir' := dirAfter t.kind t.dir (s.reqSlot t)
  let data := t.result cur
  let t := { t with cur := some cur }
  if writesLine t fromMember dir' then
    let l := s.lineAt (t.line * 64)
    (s.setTracker { t with st := .write }).queueWrite l (.home t.id l data dir')
  else (s.retireAnswers t).respond { t with answers := [] } data

/-- Applies a tracker whose snoops are all answered and whose announced WB_DIRTYs are all taken. -/
def State.snoopsDone (s : State) (id : Nat) : State :=
  match s.tracker id with
  | some t =>
    if t.st = .snoop ∧ t.snoops.all fun n => n.answered && !n.wbPending then
      s.applyHome t (t.cur.getD 0) t.fromMember
    else s
  | none => s

/-- WB_DIRTY outside R213 and R216: it completes DOMAIN_DOWN, writes nothing, and the domain goes down (R227). -/
def State.protocolError (s : State) (d : Nat) : State := s.domainDown d 3

end Sys2Proof.Machine
end

