-- ==== Sys2Proof/Machine/Coherence.lean ====
section
/-! DEFINITION. Loads, stores, atomics and the coherence messages (R208 to R230), the hubs' acceptance of writes (R38,
R363) and the domain commands (R226). -/

set_option Elab.async false

namespace Sys2Proof.Machine
open Sys2Proof

/-! ## Requests -/

/-- A load, store or atomic on its way to the access check: arrival, colander, form (R37, R438). -/
def State.homeRequest (s : State) (kind : HomeReq) (h : ReqHdr) (cls : Nat) (lens : List Nat) (mask : BitVec 32)
    (bad : Bool) (k : State → State) : State :=
  let no := fun (s : State) c v => s.homeCpl kind h c v
  s.arrive h false no fun s =>
    match s.recorded h with
    | some c => s.countRecorded.homeCpl kind h c.code c.value
    | none => s.colander h cls no fun s =>
      if !formOk h lens mask || bad then no s cMalformed 0
      else if s.decommissioned then no s cUnsupported 0
      else k s

/-- The domain number of an extent bound to one. -/
def State.domainOf (s : State) (e : Nat) : Nat := (s.ext e).domain.getD 0

/-- RD_NC (R213). [DEDUCED, log 83: unsafe] -/
def execRdNc (h : ReqHdr) (addr maskOrDomain : Nat) (err : Err) (s : State) : Out :=
  .next (s.homeRequest .rdNc h 0 [2] 0xFF (decide (addr % 64 ≠ 0 ∨ maskOrDomain ≠ 0)) fun s =>
    s.homeAccess .rdNc h addr needR false fun s e line =>
      s.pastGuard .rdNc h addr fun s =>
        if (s.ext e).domain.isSome then s.admitHome .rdNc h addr e (s.domainOf e) 0 0 0
        else if !s.hubGone (s.hubOfLine line) && !s.obeys (s.hubOfLine line) then s.bump 10 0 (21 + s.hubOfLine line) 1
        else match s.readLine line err .front false with
          | (s, a) => if a.poison then s.cohCpl h cPoison 0 else s.rdData h 0 a.data)

/-- RD_SHARED (R213). -/
def execRdShared (h : ReqHdr) (addr maskOrDomain : Nat) (s : State) : Out :=
  .next (s.homeRequest .rdShared h 0 [2] 0xFF (decide (addr % 64 ≠ 0 ∨ maskOrDomain ≠ 0)) fun s =>
    s.homeAccess .rdShared h addr needR true fun s e _ =>
      s.pastGuard .rdShared h addr fun s => s.admitHome .rdShared h addr e (s.domainOf e) 0 0 0)

/-- RD_OWN (R180, R213): it needs R and W. -/
def execRdOwn (h : ReqHdr) (addr maskOrDomain : Nat) (s : State) : Out :=
  .next (s.homeRequest .rdOwn h 0 [2] 0xFF (decide (addr % 64 ≠ 0 ∨ maskOrDomain ≠ 0)) fun s =>
    s.homeAccess .rdOwn h addr (needR + needW) true fun s e _ =>
      s.pastGuard .rdOwn h addr fun s => s.admitHome .rdOwn h addr e (s.domainOf e) 0 0 0)

/-- WR_NC (R213): an unbound line's write goes to its hub's queue. -/
def execWrNc (h : ReqHdr) (addr : Nat) (mask : BitVec 64) (data : Line) (err : Err) (s : State) : Out :=
  .next (s.homeRequest .wrNc h 1 [6] 0xFF (decide (addr % 64 ≠ 0 ∨ mask = 0)) fun s =>
    s.homeAccess .wrNc h addr needW false fun s e line =>
      s.pastGuard .wrNc h addr fun s =>
        if (s.ext e).domain.isSome then s.admitHome .wrNc h addr e (s.domainOf e) mask data 0
        else s.queueWrite line (.store h e line mask data err))

/-- Is an ATOMIC's form broken (R209, R210, R222)? -/
def atomicBad (h : ReqHdr) (addr maskOrDomain : Nat) (operand : BitVec 256) : Bool :=
  let n := aopSize h
  let lo := operand.toNat % 2 ^ 128
  let hi := operand.toNat / 2 ^ 128
  decide (maskOrDomain ≠ 0 ∨ addr % n ≠ 0 ∨ 5 < aopOf h ∨ 256 ^ n ≤ lo ∨ 256 ^ n ≤ hi ∨ (aopOf h ≠ 5 ∧ hi ≠ 0))

/-- ATOMIC (R222). -/
def execAtomic (h : ReqHdr) (addr maskOrDomain : Nat) (operand : BitVec 256) (err : Err) (s : State) : Out :=
  .next (s.homeRequest .atomic h 1 [4] 0x1FFF (atomicBad h addr maskOrDomain operand) fun s =>
    s.homeAccess .atomic h addr needA false fun s e line =>
      s.pastGuard .atomic h addr fun s =>
        if (s.ext e).domain.isSome then s.admitHome .atomic h addr e (s.domainOf e) 0 0 operand
        else s.queueWrite line (.atomic h e line (addr % 64) operand err))

/-! ## Write-backs and evictions (R213, R216) -/

/-- Checks 1, 7 and 8 of R180 and the member check of R216, for WB_DIRTY and EVICT. A host that fills no member slot
changes nothing, and so that check comes before check 8. -/
def State.answerAccess (s : State) (kind : HomeReq) (h : ReqHdr) (addr : Nat) (k : State → Nat → Nat → State) : State :=
  let e := addrExt addr
  let x := s.ext e
  let g := addrOff addr / 2 ^ 21
  if 2 ^ 57 ≤ addr then s.homeCpl kind h cMalformed 0
  else match x.domain with
    | none => s.homeCpl kind h cUnsupported 0
    | some d =>
      if ((s.domain d).slotOf h.src).isNone then s.homeCpl kind h cRights 0
      else if x.lenGran ≤ g ∨ granMember x e g ≠ some s.setIndex then (s.bump 10 0 0 1).homeCpl kind h cMalformed 0
      else if s.pool.lostHere || s.stackDown (stackOf (s.phys (lineOfOff x (addrOff addr) / 1024))) then
        (s.homeCpl kind h cPoison 0).dataLost e
      else if (s.domain d).st ≠ .up then s.homeCpl kind h cDomainDown 0
      else k s e d

/-- A WB_DIRTY or EVICT arrives: never policed, and in the journal as an answer (R216, R229). -/
def State.answerRequest (s : State) (kind : HomeReq) (h : ReqHdr) (lens : List Nat) (bad : Bool) (k : State → State) :
    State :=
  let no := fun (s : State) c v => s.homeCpl kind h c v
  s.arrive h false no fun s => if !formOk h lens 0 || bad then no s cMalformed 0 else k s

/-- Marks a journal entry as an answer of R229. -/
def State.markAnswer (s : State) (j : Nat) : State :=
  { s with twin := { s.twin with reqs := s.twin.reqs.map fun (r : JReq) => if r.jidx = j then { r with answer := true } else r } }

/-- The transaction that waits for this member's announced WB_DIRTY. -/
def State.awaiting (s : State) (line host : Nat) : Option Tracker :=
  s.coh.trackers.find? fun t => decide (t.line = line ∧ t.st = .snoop) &&
    t.snoops.any fun n => decide (n.host = host) && n.wbPending

/-- A WB_DIRTY that a transaction waits for joins it (R216). [DEDUCED, log 86: unsafe] -/
def State.joinWb (s : State) (t : Tracker) (h : ReqHdr) (data : Option Line) : State :=
  let t := { t with
    cur := match data with
      | some d => some d
      | none => t.cur
    fromMember := t.fromMember || data.isSome
    answers := t.answers ++ [h.jidx]
    snoops := t.snoops.map fun (n : Snoop) => if n.host = h.src then { n with wbPending := false } else n }
  ((s.setTracker t).cohCpl h cOk 0).snoopsDone t.id

/-- WB_DIRTY (R213, R216): joins the transaction that waits for it, waits while the line is open, and otherwise opens its
own. [DEDUCED, log 87: unsafe] -/
def execWbDirty (h : ReqHdr) (addr : Nat) (mask : BitVec 64) (data : Line) (s : State) : Out :=
  .next (s.answerRequest .wbDirty h [6] (decide (addr % 64 ≠ 0 ∨ mask ≠ fullMask)) fun s =>
    let line := addr / 64
    match s.recorded h with
    | some c => match s.awaiting line h.src with
      | some t => s.countRecorded.joinWb t h none
      | none => s.countRecorded.cohCpl h c.code 0
    | none =>
      s.answerAccess .wbDirty h addr fun s e d =>
        let s := s.markAnswer h.jidx
        match s.awaiting line h.src with
        | some t => s.joinWb t h (some data)
        | none =>
          if s.lineBusy line ∨ 256 ≤ s.reserveUsed 2 then s
          else s.openTracker (newTracker .wbDirty h addr e d mask data 0 2 [h.jidx]))

/-- EVICT (R213, R216). -/
def execEvict (h : ReqHdr) (addr maskOrDomain : Nat) (s : State) : Out :=
  .next (s.answerRequest .evict h [2] (decide (addr % 64 ≠ 0 ∨ maskOrDomain ≠ 0)) fun s =>
    s.answerAccess .evict h addr fun s e d =>
      if s.lineBusy (addr / 64) ∨ 256 ≤ s.reserveUsed 2 then s
      else s.openTracker (newTracker .evict h addr e d 0 0 0 2 []))

/-! ## Answers to snoops and grants (R215, R216, R230) -/

/-- An answer arrives (R155, R229): misrouted and foreign ones are discarded; while no active die serves it stays in the
journal. -/
def State.answerIn (s : State) (h : ReqHdr) (k : State → State) : State :=
  let known := (s.journaled h.jidx).isSome
  if h.flags.getLsbD 2 ≠ decide (h.sess ≠ 0) then s
  else if !known ∧ h.dst ≠ s.fabricId then s.bumpPort h.port 30 1
  else if !known ∧ !s.srcAdmitted h.src then s.bumpPort h.port 31 1
  else
    let s := if known then s else s.journalIn h true
    if !s.attended || s.mustWait h.jidx then s else k (s.forward h.jidx)

/-- An answer that names no open snoop or tracker (R216). [DEDUCED, log 85: unsafe] -/
def State.staleAnswer (s : State) (h : ReqHdr) : State := (s.journalOut h.jidx).bump 10 0 4 1

/-- The tracker with an unanswered snoop of this TAG to this host. -/
def State.snooped (s : State) (h : ReqHdr) : Option Tracker :=
  s.coh.trackers.find? fun t => t.snoops.any fun n => decide (n.tag = h.tag ∧ n.host = h.src) && !n.answered

/-- Is a reserved header field of an answer set? -/
def answerBad (h : ReqHdr) (lens : List Nat) (mask : BitVec 32) : Bool := !formOk h lens mask

/-- Marks a snoop answered. -/
def Tracker.answer (t : Tracker) (h : ReqHdr) (wb : Bool) : Tracker :=
  { t with
    answers := t.answers ++ [h.jidx]
    snoops := t.snoops.map fun (n : Snoop) =>
      if n.tag = h.tag ∧ n.host = h.src then { n with answered := true, wbPending := wb } else n }

/-- SNP_ACK (R210, R215). -/
def execSnpAck (h : ReqHdr) (s : State) : Out :=
  .next (s.answerIn h fun s => match s.snooped h with
    | none => s.staleAnswer h
    | some t =>
      if answerBad h [1] 0x3 then (s.journalOut h.jidx).protocolError t.domain
      else (s.setTracker (t.answer h (h.opData.getLsbD 1))).snoopsDone t.id)

/-- Data of a line's owner whose snoop the new active die does not know is written to the line (R230). -/
def State.orphanData (s : State) (h : ReqHdr) (addr domain : Nat) (data : Line) : State :=
  let e := addrExt addr
  let x := s.ext e
  let line := lineOfOff x (addrOff addr)
  let replay := match s.journaled h.jidx with
    | some r => r.replay
    | none => false
  let m := s.lineMeta (s.phys (line / 1024)) (line % 1024)
  let owner := decide (m.valid ∧ dirState m.dir = 2 ∧ (s.domain domain).slotOf h.src = some (dirVec m.dir % 64))
  if replay && h.opData.getLsbD 0 && decide (x.domain = some domain) && owner && !s.readsClosed (s.phys (line / 1024)) (line % 1024) then
    let s := (s.writeLine line fullMask data (some (dirShared (groupBit (dirVec m.dir % 64)))) []).1
    (s.journalOut h.jidx).bump 10 0 5 1
  else s.staleAnswer h

/-- SNP_DATA (R213, R215, R230). -/
def execSnpData (h : ReqHdr) (addr domain dgen resv : Nat) (data : Line) (s : State) : Out :=
  .next (s.answerIn h fun s => match s.snooped h with
    | none => s.orphanData h addr domain data
    | some t =>
      if answerBad h [6] 0x1 || decide (resv ≠ 0 ∨ addr % 64 ≠ 0 ∨ 2 ^ 57 ≤ addr) then (s.journalOut h.jidx).protocolError t.domain
      else if addr / 64 ≠ t.line ∨ domain ≠ t.domain ∨ dgen ≠ (s.domain domain).dgen then s.staleAnswer h
      else
        (s.setTracker { t.answer h false with cur := some data, fromMember := true }).snoopsDone t.id)

/-- GRANT_ACK (R215, R229). -/
def execGrantAck (h : ReqHdr) (s : State) : Out :=
  .next (s.answerIn h fun s =>
    match s.coh.trackers.find? fun t => decide (t.st = .waitAck ∧ t.hdr.src = h.src ∧ t.hdr.tag = h.tag) with
    | none => s.staleAnswer h
    | some t =>
      let s := s.journalOut h.jidx
      if answerBad h [1] 0 then s.protocolError t.domain else s.freeTracker t.id)

/-! ## Steps of a transaction (R212, R213, R215) -/

/-- A line of a transaction reads POISON, or lies on a part that fails: the request completes so when it has not been
answered, then the domain goes down (R215, R227). -/
def State.homePoison (s : State) (t : Tracker) : State :=
  let s := s.retireAnswers t
  let s := if t.st = .waitAck then s else s.trkCpl t cPoison 0
  (s.freeTracker t.id).dataLost t.ext

/-- HOME_LINE_READ_DONE: the hub has read a transaction's line, directory included. -/
def execHomeLineReadDone (tracker : Nat) (err : Err) (s : State) : Out :=
  .next (match s.tracker tracker with
  | none => s
  | some t =>
    let hub := s.hubOfLine (s.lineAt (t.line * 64))
    if t.st ≠ .read ∨ !s.attended then s
    else if !s.hubGone hub && !s.obeys hub then s.bump 10 0 (21 + hub) 1
    else match s.readLine (s.lineAt (t.line * 64)) err .front true with
      | (s, a) =>
        if a.poison then s.homePoison t
        else
          let t := { t with dir := a.dir }
          let slot := (s.domain t.domain).slotOf t.hdr.src
          let owns := decide (dirState a.dir = 2 ∧ slot = some (dirVec a.dir % 64))
          match t.kind, owns with
          | .wbDirty, false => (s.setTracker t).protocolError t.domain
          | _, _ =>
            match snoopsFor t.kind a.dir slot (s.domain t.domain).members with
            | [] => s.applyHome t a.data false
            | ms =>
              let t := { t with st := .snoop, cur := some a.data }
              (s.setTracker t).snoopAll t (snoopShares t.kind) ms)

/-- The completion of a write that a hub has accepted or found POISON (R38, R363). -/
def State.accepted (s : State) (hub : Nat) (h : ReqHdr) (code value : Nat) : State :=
  s.commit hub ⟨h.jidx, h.src, h.tag, code, false, false, value⟩

/-- A write at the head of a hub's queue is carried out (R38). -/
def State.acceptWrite (s : State) (hub : Nat) : HubWrite → State
  | .store h _ l mask data err =>
    match s.writeLine l mask data none err with
    | (s, a) =>
      let code := if a.poison then cPoison else cOk
      (s.accepted hub h code 0).cohCpl h code 0
  | .atomic h _ l off operand err =>
    match s.readLine l err .front false with
    | (s, a) =>
      if a.poison then (s.accepted hub h cPoison 0).atCpl h cPoison 0
      else
        let old := atomicOld h off a.data
        let s := (s.writeLine l fullMask (atomicNew h off operand a.data) none []).1
        (s.accepted hub h cOk old).atCpl h cOk old
  | .home id l data dir =>
    match s.tracker id with
    | none => s
    | some t =>
      match s.writeLine l fullMask data (some dir) [] with
      | (s, a) =>
        if a.poison then s.homePoison t
        else
          let keyed := decide (t.kind = .wrNc ∨ t.kind = .atomic ∨ t.kind = .wbDirty) && !t.byCoach
          let old := if t.kind = .atomic then atomicOld t.hdr t.off (t.cur.getD 0) else 0
          let s := if keyed then s.accepted hub t.hdr cOk old else s
          (s.retireAnswers t).respond { t with answers := [] } data

/-- May the head of a hub's queue be taken now (R323, R363)? -/
def State.mayAccept (s : State) (hub : Nat) (w : HubWrite) : Bool :=
  let l := match w with
    | .store _ _ l _ _ _ => l
    | .atomic _ _ l _ _ _ => l
    | .home _ l _ _ => l
  s.commitRoom hub && !s.openFull (s.phys (l / 1024))

/-- What a hub has carried out reaches an active die that has not stopped; of one that has, the hub's part alone stands
(R30, R38, R374). -/
def State.hubOnly (s t : State) : State := if s.tok.silent then { s with mem := t.mem } else t

/-- The hub takes the oldest write of its queue, if it may now. -/
def State.takeWrite (s : State) (hub : Nat) : State :=
  match s.hubQueue hub with
  | [] => s
  | w :: ws =>
    if s.mayAccept hub w then
      let s := s.setHubQueue hub ws
      s.hubOnly (s.acceptWrite hub w)
    else s

/-- The hub finishes the commands that it holds (R28). -/
def State.drainHub (s : State) (hub : Nat) : State :=
  (s.hubQueue hub).foldl (fun (s : State) _ => s.takeWrite hub) s

/-- HUB_WRITE_ACCEPTED: the hub takes the oldest write of its queue (R38); from a die that does not hold the token there
it discards the command and counts it (R27). -/
def execHubWriteAccepted (hub : Nat) (s : State) : Out :=
  .next (
    if 1 < hub ∨ s.hubQueue hub = [] then s
    else if !s.hubGone hub && !s.obeys hub then
      (s.setHubQueue hub ((s.hubQueue hub).drop 1)).bump 10 0 (21 + hub) 1
    else s.takeWrite hub)

/-- STARVATION_ENTRY_TIMEOUT (R221). -/
def execStarvationEntryTimeout (line : Nat) (s : State) : Out :=
  let quiet := (s.cfgAt fNakMax + 4095) / 4096 + 2
  .next { s with coh := { s.coh with
    starve := s.coh.starve.filter fun e => !decide (e.line = line ∧ e.lastRetry + quiet ≤ s.epoch) } }

/-- COH_DEADLINE_EXPIRY: an answer is owed for COH.RESPONSE_EPOCHS epochs (R227). -/
def execCohDeadlineExpiry (tracker : Nat) (s : State) : Out :=
  .next (match s.tracker tracker with
  | none => s
  | some t =>
    let due := fun (b : Option Nat) => match b with
      | some e => decide (e + s.cfgAt fResponse ≤ s.epoch)
      | none => false
    let owed := t.snoops.any (fun n => (!n.answered || n.wbPending) && due n.boundAt) ||
      (decide (t.st = .waitAck) && due t.ackBoundAt)
    if owed then s.domainDown t.domain 1 else s)

/-! ## Domain commands (R226, R228) -/

/-- COH_DOWN_REPORT at the master (R228). It has no answer. -/
def execCohDownReport (h : ReqHdr) (setGen domain dgen cause : Nat) (s : State) : Out :=
  .next (s.setReq h setGen fun s _ =>
    let s := s.journalOut h.jidx
    if s.isMaster ∧ (s.domain domain).dgen = dgen then s.domainDown domain cause else s)

/-- A domain command in its set (R205, R228). -/
def State.domainCmd (s : State) (c : RslCmd) (cmd : Nat) (k : State → State) : State :=
  s.rslGate c cmd false fun s => s.poolGuard (fun s code v => s.rslAnswer c cmd code v []) k

/-- Orders a domain's record to the members, then completes; a key change holds the completion too (R228, R384).
[DEDUCED, log 76: unsafe] -/
def State.domainOrder (s : State) (d : Nat) (keyed : Bool) (held : HeldCpl) : State :=
  let x := s.domain d
  let st := match x.st with
    | .free => 0
    | .up => 1
    | .down => 2
  if s.joined = [] then (if keyed then s.keyChange [held] else s.release held)
  else
    let s := if keyed then s.keyChange [] else s
    s.orderMask allMembers (.domain d st x.tenant x.cause x.dgen x.members) [] (some held)

/-- COH_DOMAIN_CREATE. -/
def execCohDomainCreate (c : RslCmd) (tenant : Nat) (s : State) : Out :=
  .next (s.domainCmd c 0x140 fun s =>
    let d := lowestFree 0 (s.coh.domains.map (·.1))
    if 1023 < tenant then s.rslAnswer c 0x140 cMalformed 0 []
    else if 2047 < d then s.rslAnswer c 0x140 cBusy (s.epoch + 256) []
    else
      let s := (s.setDomain d { Domain.empty with st := .up, tenant := tenant, dgen := 1 }).loadKey (1024 + d)
      s.domainOrder d true (heldRsl c 0x140 cOk d []))

/-- COH_MEMBER_ADD. -/
def execCohMemberAdd (c : RslCmd) (domain index host : Nat) (s : State) : Out :=
  .next (s.domainCmd c 0x141 fun s =>
    let x := s.domain domain
    if 2047 < domain ∨ 63 < index ∨ 4095 < host then s.rslAnswer c 0x141 cMalformed 0 []
    else if Tab.get none x.slots index ≠ none ∨ (x.slotOf host).isSome ∨ x.st = .free then
      s.rslAnswer c 0x141 cUnsupported 0 []
    else if s.tenantOf host ≠ some x.tenant then s.rslAnswer c 0x141 cRights 0 []
    else
      let s := s.setDomain domain { x with slots := Tab.set none x.slots index (some host) }
      s.domainOrder domain false (heldRsl c 0x141 cOk 0 []))

/-- COH_MEMBER_REMOVE. -/
def execCohMemberRemove (c : RslCmd) (domain index : Nat) (s : State) : Out :=
  .next (s.domainCmd c 0x142 fun s =>
    let x := s.domain domain
    if 2047 < domain ∨ 63 < index then s.rslAnswer c 0x142 cMalformed 0 []
    else if x.st ≠ .down then s.rslAnswer c 0x142 cUnsupported 0 []
    else
      let s := s.setDomain domain { x with slots := Tab.set none x.slots index none }
      s.domainOrder domain false (heldRsl c 0x142 cOk 0 []))

/-- COH_EXT_BIND. -/
def execCohExtBind (c : RslCmd) (ext domain : Nat) (s : State) : Out :=
  .next (s.domainCmd c 0x143 fun s =>
    let x := s.ext ext
    let d := s.domain domain
    if 16383 < ext ∨ 2047 < domain then s.rslAnswer c 0x143 cMalformed 0 []
    else if x.st ≠ .active ∨ x.shared = false ∨ x.sealed ∨ x.domain.isSome ∨ x.tenant ≠ d.tenant ∨ d.st ≠ .up then
      s.rslAnswer c 0x143 cUnsupported 0 []
    else if s.holdCount ext ≠ 0 then s.rslAnswer c 0x143 cBusy (s.epoch + 1) []
    else
      let s := (s.setExt ext { x with domain := some domain, key := 1024 + domain }).clearValid ext
      s.orderMask x.mask (.bind ext (some domain)) [] (some (heldRsl c 0x143 cOk 0 [])))

/-- COH_EXT_UNBIND. -/
def execCohExtUnbind (c : RslCmd) (ext : Nat) (s : State) : Out :=
  .next (s.domainCmd c 0x144 fun s =>
    let x := s.ext ext
    let down := match x.domain with
      | some d => decide ((s.domain d).st = .down)
      | none => false
    if 16383 < ext then s.rslAnswer c 0x144 cMalformed 0 []
    else if x.st = .free ∨ !down then s.rslAnswer c 0x144 cUnsupported 0 []
    else
      let s := (s.setExt ext { x with domain := none, key := x.tenant }).clearValid ext
      s.orderMask x.mask (.bind ext none) [] (some (heldRsl c 0x144 cOk 0 [])))

/-- COH_DOMAIN_DOWN. -/
def execCohDomainDown (c : RslCmd) (domain : Nat) (s : State) : Out :=
  .next (s.domainCmd c 0x145 fun s =>
    if 2047 < domain then s.rslAnswer c 0x145 cMalformed 0 []
    else if (s.domain domain).st ≠ .up then s.rslAnswer c 0x145 cUnsupported 0 []
    else s.domainFalls domain 5 true (some (heldRsl c 0x145 cOk 0 [])))

/-- COH_DOMAIN_RESET. -/
def execCohDomainReset (c : RslCmd) (domain : Nat) (s : State) : Out :=
  .next (s.domainCmd c 0x146 fun s =>
    let x := s.domain domain
    if 2047 < domain then s.rslAnswer c 0x146 cMalformed 0 []
    else if x.st ≠ .down then s.rslAnswer c 0x146 cUnsupported 0 []
    else
      let s := (s.setDomain domain { x with st := .up, dgen := nextDgen x.dgen }).loadKey (1024 + domain)
      let s := (s.boundExts domain).foldl State.clearValid s
      (s.domainNotices domain 2 0).domainOrder domain true (heldRsl c 0x146 cOk 0 []))

/-- COH_DOMAIN_FREE. -/
def execCohDomainFree (c : RslCmd) (domain : Nat) (s : State) : Out :=
  .next (s.domainCmd c 0x147 fun s =>
    let x := s.domain domain
    if 2047 < domain then s.rslAnswer c 0x147 cMalformed 0 []
    else if x.st ≠ .down ∨ x.members ≠ [] ∨ s.boundExts domain ≠ [] then s.rslAnswer c 0x147 cUnsupported 0 []
    else
      let s := (s.setDomain domain Domain.empty).zeroKey (1024 + domain)
      s.domainOrder domain true (heldRsl c 0x147 cOk 0 []))

/-- COH_DOMAIN_QUERY (R225). -/
def execCohDomainQuery (c : RslCmd) (domain : Nat) (s : State) : Out :=
  .next (s.rslGate c 0x148 false fun s =>
    if 2047 < domain then s.rslAnswer c 0x148 cMalformed 0 []
    else s.rslAnswer c 0x148 cOk 0 (leBytes 8 (domainRecord s domain) ++ memberList (s.domain domain)))

end Sys2Proof.Machine
end

