-- ==== Sys2Proof/Machine/EngineOps.lean ====
section
/-! DEFINITION. Coach engines at work: single lines read and written under R223, R252 and R283, REDUCE lines (R284),
and COACH_WR (R253). -/

set_option Elab.async false

namespace Sys2Proof.Machine
open Sys2Proof

/-! ## Single lines (R223, R252, R283) -/

/-- What an engine's access to one line gives: data, done, wait for something else, or the code that ends the
descriptor. -/
inductive LineRes where
  | data (l : Line)
  | wait
  | fail (code : Nat)
  deriving DecidableEq, Repr

/-- Changes a descriptor as the engine holds it now. -/
def State.updDesc (s : State) (d : Desc) (f : Desc → Desc) : State :=
  match s.desc d.ring d.idx with
  | some x => s.setDesc (f x)
  | none => s

/-- What the engine holds for line `place` of one of its sides. -/
def State.heldLine (s : State) (d : Desc) (place : Nat) (write : Bool) : Option LineAns :=
  match s.desc d.ring d.idx with
  | some x => x.lines.find? fun a => decide (a.place = place ∧ a.write = write)
  | none => none

/-- The engine keeps a source line that it cannot use yet. -/
def State.keepLine (s : State) (d : Desc) (place : Nat) (data : Line) : State :=
  s.updDesc d fun x => { x with lines := x.lines ++ [⟨place, false, cOk, data⟩] }

/-- The engine has used what it held for a line. -/
def State.useLine (s : State) (d : Desc) (place : Nat) (write : Bool) : State :=
  s.updDesc d fun x => { x with lines := x.lines.filter fun a => !decide (a.place = place ∧ a.write = write) }

def LineAns.res (a : LineAns) : LineRes := if a.code = cOk then .data a.data else .fail a.code

/-- Does an earlier request still wait at the channel of a line, so that a coach line waits behind it (R233)? -/
def State.channelBusy (s : State) (key : Nat) : Bool :=
  let at_ := fun (k : Nat) => channelOf (s.phys (k / 1024)) (k % 1024)
  (s.mem.hubQueue0 ++ s.mem.hubQueue1).any fun w => match w with
    | .store _ _ p _ _ _ => decide (at_ p = at_ key)
    | .home _ p _ _ => decide (at_ p = at_ key)
    | .atomic _ _ p _ _ _ => decide (at_ p = at_ key)

/-- A coach line at its hub: `k` when it is its turn there and the hub obeys the active die (R27, R233). -/
def State.atHub (s : State) (key : Nat) (k : State → State × LineRes) : State × LineRes :=
  let hub := s.hubOfLine key
  if s.channelBusy key then (s, .wait)
  else if !s.hubGone hub && !s.obeys hub then (s.bump 10 0 (21 + hub) 1, .wait)
  else k s

/-- A coach line of a bound extent enters the home agent as RD_NC or WR_NC (R223): it waits, and is not NAK'd, while it
is not admitted (R214). -/
def State.coachEnter (s : State) (kind : HomeReq) (owner : Nat) (d : Desc) (place pa key dom : Nat) (data : Line) :
    State × LineRes :=
  if (s.domain dom).st ≠ .up then
    (s, .fail (if s.stackDown (stackOf (s.phys (key / 1024))) then cPoison else cDomainDown))
  else if s.lineBusy pa ∨ (s.starveEntry pa).isSome ∨ 15872 ≤ s.reserveUsed 0 then (s, .wait)
  else
    (s.openTracker (newTracker kind (coachHdr owner d place) (pa * 64) (addrExt (pa * 64)) dom fullMask data 0 0 []), .wait)

/-- Reads line `place` of a source side: POOL_ADDR / 64 is `pa`, and its line key before remap `key`. -/
def State.coachRead (s : State) (owner : Nat) (d : Desc) (place pa key : Nat) (err : Err) : State × LineRes :=
  match s.heldLine d place false with
  | some a => (s.useLine d place false, a.res)
  | none => match s.guardedResult (pa * 64) with
    | some c => (s, if c = cPoison then .fail cPoison else .wait)
    | none => match (s.ext (addrExt (pa * 64))).domain with
      | some dom => s.coachEnter .rdNc owner d place pa key dom 0
      | none => s.atHub key fun s =>
        let (s, a) := s.readLine key err .front false
        (s, if a.poison then .fail cPoison else .data a.data)

/-- Writes line `place` of the destination side; the answer's data is what was written. -/
def State.coachWrite (s : State) (owner : Nat) (d : Desc) (place pa key : Nat) (data : Line) : State × LineRes :=
  match s.heldLine d place true with
  | some a => (s.useLine d place true, a.res)
  | none => match s.guardedResult (pa * 64) with
    | some c => (s, if c = cPoison then .fail cPoison else .wait)
    | none => match (s.ext (addrExt (pa * 64))).domain with
      | some dom => s.coachEnter .wrNc owner d place pa key dom data
      | none =>
        let ppn := s.phys (key / 1024)
        if s.openFull ppn then
          (if ((s.desc d.ring d.idx).getD d).waited then s
            else (s.updDesc d fun x => { x with waited := true }).bump 9 (stackOf ppn) 3 1, .wait)
        else s.atHub key fun s =>
          let (s, a) := s.writeLine key fullMask data none []
          (s.updDesc d fun x => { x with waited := false }, if a.poison then .fail cPoison else .data data)

/-! ## A descriptor's lines -/

/-- (line, key) of each line of one side of a page list, in order. -/
def sideLines (pages : List PageEnt) (dst : Bool) : List (Nat × Nat) :=
  (pages.filter fun p => p.dst == dst).flatMap fun p =>
    (List.range p.lines).map fun i => (p.paLine + i, lineKey p.ppn ((p.paLine + i) % 1024))

/-- The line a FILL writes (R244). -/
def fillLine (d : Desc) : Line := lineOf ((List.range 8).flatMap fun _ => leBytes 8 d.args)

/-- The error pattern on the line at position `pos`, when the command names that line. -/
def errOn (errAt : Option Nat) (err : Err) (pos : Nat) : Err := if errAt = some pos then err else []

/-- Counts bytes an engine has read or written for a ring (R264). -/
def State.countMoved (s : State) (ring rd wr : Nat) : State := (s.bump 5 ring 4 rd).bump 5 ring 5 wr

/-- Moves lines inside the pool from position `pos` on: the position reached, and the code when the moving has ended
(R252). A pair is a source (none for FILL) and a destination. -/
def State.moveLines (s : State) (owner : Nat) (d : Desc) (errAt : Option Nat) (err : Err) :
    List (Option (Nat × Nat) × (Nat × Nat)) → Nat → State × Nat × Option Nat
  | [], pos => (s, pos, some cOk)
  | (src, dst) :: rest, pos =>
    let (s, r) := match src with
      | some p => s.coachRead owner d pos p.1 p.2 (errOn errAt err pos)
      | none => (s, LineRes.data (fillLine d))
    match r with
    | .wait => (s, pos, none)
    | .fail c => (s, pos, some c)
    | .data v => match s.coachWrite owner d pos dst.1 dst.2 v with
      | (s, .wait) => (if src.isSome then s.keepLine d pos v else s, pos, none)
      | (s, .fail c) => (s, pos, some c)
      | (s, .data _) =>
        State.moveLines (s.countMoved d.ring (if src.isSome then 64 else 0) 64) owner d errAt err rest (pos + 1)

/-- The pairs of lines that a COPY, FILL, GATHER or SCATTER moves. -/
def Desc.pairs (d : Desc) : List (Option (Nat × Nat) × (Nat × Nat)) :=
  let dsts := sideLines d.pages true
  if d.op = opFill then dsts.map fun x => (none, x) else (sideLines d.pages false).map some |>.zip dsts

/-! ## REDUCE lines (R284) -/

/-- BUF_ID, CONTRIB and FIRST_ELEM of a REDUCE (R244). -/
def Desc.redBuf (d : Desc) : Nat := bitsOf d.args 31 0
def Desc.redContrib (d : Desc) : Nat := bitsOf d.args 63 32
def Desc.redFirst (d : Desc) : Nat := bitsOf d.args 127 64

/-- Scale bytes for each line of an MX element format: one for each run of 32 elements. -/
def Buf.runsPerLine (x : Buf) : Nat := if fmtMx x.elemFmt then x.elems / 32 else 0

/-- The coach key of a REDUCE line in a commit record (R363). -/
def coachKeyValue (d : Desc) (pos : Nat) : Nat := d.ring + d.idx * 2 ^ 16 + pos * 2 ^ 48

/-- Is this REDUCE line already in a commit record or in the mirror (R372)? -/
def State.coachDone (s : State) (value : Nat) : Bool :=
  (s.mem.commit0 ++ s.mem.commit1 ++ s.mem.prev0 ++ s.mem.prev1 ++ s.twin.mirror0.flatten ++
    s.twin.mirror1.flatten).any fun c => c.coach && decide (c.value = value)

/-- The line of scales of element line `j` of a REDUCE, as its number among the source lines (R284).
[DEDUCED, log 97: unsafe] -/
def scalePlace (d : Desc) (per j : Nat) : Nat := d.len / 64 + per * j / 64

/-- The scale bytes of line `j` of a REDUCE: they follow its LEN bytes of elements in its source. The engine reads a line
of scales once, and keeps it while it serves further lines. -/
def State.reduceScales (s : State) (owner : Nat) (d : Desc) (lines : List (Nat × Nat)) (per j : Nat) :
    State × LineRes :=
  if per = 0 then (s, .data 0)
  else
    let place := scalePlace d per j
    match lines[place]? with
    | none => (s, .fail cPoison)
    | some p => s.coachRead owner d place p.1 p.2 []

/-- What the checks on a REDUCE line at position `pos` find (R281, R284): the block it feeds, or the code that ends the
descriptor. The owner's right A on the line comes before what stage 4 checks. -/
def State.reduceBlock (s : State) (owner : Nat) (d : Desc) (pos : Nat) : Nat ⊕ Nat :=
  let x := s.buf d.redBuf
  let k := d.redFirst / x.elems + pos
  if x.st = .free then .inr cUnsupported
  else if d.redFirst % x.elems ≠ 0 then .inr cMalformed
  else match s.accessSealed owner 0 (x.winBase + 64 * k) needA true with
    | .fail c _ => .inr c
    | .ok e _ =>
      if (s.ext e).domain.isSome then .inr cUnsupported
      else if x.st = .done ∨ x.closing ≠ [] ∨ x.blocks ≤ k then .inr cMalformed
      else .inl k

/-- Issues the REDUCE line at position `pos` whose data is `l`: it waits, ends the descriptor with a code, or is done. -/
def State.reduceLine (s : State) (owner : Nat) (d : Desc) (l : Line) (scales : List Byte) (pos : Nat) :
    State × LineRes :=
  let b := d.redBuf
  let x := s.buf b
  match s.reduceBlock owner d pos with
  | .inr c => (s, .fail c)
  | .inl k =>
    if s.coachDone (coachKeyValue d pos) then (s, .data l)
    else match s.redCheck b d.redContrib [(k, l)] true with
      | .fail c => (s, .fail c)
      | .excess => (s.bump 6 x.tenant 2 1, .fail cMalformed)
      | .ok =>
        if s.stageFull b d.redContrib [k] then (s.bump 6 x.tenant 8 1, .fail cBusy)
        else if s.combineWaits b k then
          let was := ((s.desc d.ring d.idx).getD d).waited
          let w := was || (s.openWait (s.combinePages b k)).isSome
          ((s.updDesc d fun x => { x with waited := w }).countOpenWait b k was, .wait)
        else
          let (s, ok) := s.takeLine b k d.redContrib l scales [] ⟨0xFFFFFFFF, owner, 0, true, coachKeyValue d pos⟩
          (s.updDesc d fun x => { x with waited := false }, if ok then .data l else .fail cPoison)

/-- One source line of a REDUCE with its scales, read and issued; what it read is kept while it waits. -/
def State.reduceStep (s : State) (owner : Nat) (d : Desc) (all : List (Nat × Nat)) (p : Nat × Nat) (err : Err)
    (pos : Nat) : State × LineRes :=
  let per := (s.buf d.redBuf).runsPerLine
  match s.coachRead owner d pos p.1 p.2 err with
  | (s, .data l) => match s.reduceScales owner d all per pos with
    | (s, .data sc) =>
      match s.reduceLine owner d l (((lineBytes sc).drop (per * pos % 64)).take per) pos with
      | (s, .wait) => ((s.keepLine d pos l).keepLine d (scalePlace d per pos) sc, .wait)
      | (s, .data _) =>
        -- the line of scales serves the next line too
        (if per ≠ 0 ∧ scalePlace d per (pos + 1) = scalePlace d per pos then s.keepLine d (scalePlace d per pos) sc else s,
          .data l)
      | (s, r) => (s, r)
    | (s, .wait) => (s.keepLine d pos l, .wait)
    | (s, r) => (s, r)
  | (s, r) => (s, r)

/-- Counts a REDUCE line: read, written to its buffer, and with the first of a line of scales that line too (R264). -/
def State.countReduced (s : State) (d : Desc) (pos : Nat) : State :=
  let per := (s.buf d.redBuf).runsPerLine
  s.countMoved d.ring (if per ≠ 0 ∧ per * pos % 64 = 0 then 128 else 64) 64

/-- Issues the REDUCE lines from position `pos` on (R252, R284). -/
def State.reduceLines (s : State) (owner : Nat) (d : Desc) (all : List (Nat × Nat)) (errAt : Option Nat) (err : Err) :
    List (Nat × Nat) → Nat → State × Nat × Option Nat
  | [], pos => (s, pos, some cOk)
  | p :: rest, pos => match s.reduceStep owner d all p (errOn errAt err pos) pos with
    | (s, .wait) => (s, pos, none)
    | (s, .fail c) => (s, pos, some c)
    | (s, .data _) => State.reduceLines (s.countReduced d pos) owner d all errAt err rest (pos + 1)

/-! ## Output to the fabric (R253, R254) -/

/-- The host address at a byte position of a descriptor's destination ranges, and the bytes left in its range. -/
def hostAt : List (Nat × Nat) → Nat → Nat × Nat
  | [], _ => (0, 0)
  | (a, n) :: rest, pos => if pos < n then (a + pos, n - pos) else hostAt rest (pos - n)

/-- Reads up to `n` source lines from position `pos` on for one COACH_WR: the lines read, and what stopped the reading. -/
def State.readSome (s : State) (owner : Nat) (d : Desc) :
    List (Nat × Nat) → Nat → Nat → State × List Line × LineRes
  | _, _, 0 => (s, [], .wait)
  | [], pos, n + 1 =>
    if d.op = opFill then
      let (s, ls, r) := State.readSome s owner d [] (pos + 1) n
      (s, fillLine d :: ls, r)
    else (s, [], .wait)
  | p :: ps, pos, n + 1 => match s.coachRead owner d pos p.1 p.2 [] with
    | (s, .data l) =>
      let (s, ls, r) := State.readSome s owner d ps (pos + 1) n
      (s, l :: ls, r)
    | (s, r) => (s, [], r)

/-- The lowest TAG slot of an engine that no open write holds. -/
def freeSlotTag (d : Desc) (engine : Nat) : Nat :=
  0x8000 + 256 * engine + lowestFree 0 ((List.range 256).filter fun i =>
    d.openWr.any fun w => decide (w.tag = 0x8000 + 256 * engine + i))

/-- A descriptor whose destination's lease has ended treats every open write as ended (R253); one that had stopped for
another reason keeps that code. [DESIGN CHOICE, log 175: unsafe] -/
def Desc.leaseEnded (d : Desc) : Desc :=
  if d.openWr = [] ∧ (d.endCode ≠ cOk ∨ d.len ≤ d.pos * 64) then d
  else { d with endCode := if d.endCode = cOk then cLeaseEnded else d.endCode, openWr := [] }

/-- Sends COACH_WR messages while TAGs and lines are left; fuel bounds them. -/
def State.coachSend (s : State) (owner engine : Nat) (d : Desc) : Nat → State × Desc
  | 0 => (s, d)
  | fuel + 1 =>
    if s.gone d.dstFid then (s, d.leaseEnded)
    else if d.endCode ≠ cOk ∨ d.len ≤ d.pos * 64 ∨ 256 ≤ d.openWr.length then (s, d)
    else
      let (addr, room) := hostAt d.hosts (d.pos * 64)
      let n := min 3 (min room (d.len - d.pos * 64) / 64)
      let (s, ls, why) := s.readSome owner d ((sideLines d.pages false).drop d.pos) d.pos n
      let d := { d with lines := ((s.desc d.ring d.idx).getD d).lines }
      let stop := match why with
        | .fail c => if ls.length < n then c else cOk
        | _ => cOk
      if ls = [] then (s, { d with endCode := stop })
      else
        let tag := freeSlotTag d engine
        let m := { messageTo d.dstFid tag 0x50 clsDat ls.length (leBytes 8 addr ++ zeros 8 ++ ls.flatMap lineBytes) with
          ckt := if d.flags.getLsbD 2 then some d.cktId else none }
        let s := (s.send m).countMoved d.ring (if d.op = opFill then 0 else 64 * ls.length) (64 * ls.length)
        let d := { d with pos := d.pos + ls.length, openWr := d.openWr ++ [⟨tag, d.pos, ls.length⟩], endCode := stop }
        State.coachSend s owner engine d fuel

/-- The messages an engine can send now. -/
def State.coachOutput (s : State) (d : Desc) : State :=
  match d.engine with
  | some e =>
    let (s, d) := s.coachSend (s.ring d.ring).owner e d 256
    s.setDesc d
  | none => s

end Sys2Proof.Machine
end

