-- ==== Sys2Proof/Machine/Coach.lean ====
section
/-! DEFINITION. The coach commands and steps: rings, fault records, invalidation, walks, engines and completions
(R235 to R262). -/

set_option Elab.async false

namespace Sys2Proof.Machine
open Sys2Proof

/-! ## Rings (R238 to R240) -/

/-- Is an argument of RING_ARM out of range (R235, R238, R239)? -/
def ringArgsBad (a : RingArgs) : Bool :=
  decide (a.log2Size < 4 ∨ 13 < a.log2Size ∨ 1 < a.onFault ∨ 1 < a.s1Enable ∨ a.maxEngines = 0 ∨ 64 < a.maxEngines ∨
    a.resv ≠ 0 ∨ a.base % 4096 ≠ 0 ∨ 2 ^ 21 < a.base % 2 ^ 21 + 256 + 160 * 2 ^ a.log2Size ∨
    (a.s1Enable = 0 ∧ a.s1Root ≠ 0))

/-- The code and the check with which an access check fails, if it does. -/
def accessCode (a : Access) : Option (Nat × Nat) :=
  match a with
  | .fail c k => some (c, k)
  | .ok _ _ => none

/-- RING_ARM under R239. [DEDUCED, log 92: unsafe] -/
def ringArmAct (v : Via) (a : RingArgs) (s : State) : State :=
  let fin := fun (s : State) c r x => s.coachCpl v 0x53 c r x
  let owner := s.viaHost v
  let e := addrExt a.base
  if ringArgsBad a ∨ 4095 < owner then fin s cMalformed 0 0
  else if s.decommissioned then fin s cUnsupported 0 0
  else match accessCode (s.access owner a.base (needR + needW)) with
  | some (c, k) => fin (s.countAccessFail owner k) c 0 0
  | none =>
    if (s.ext e).sealed ∨ (s.ext e).domain.isSome then fin s cUnsupported 0 0
    else if a.s1Enable = 1 ∧ a.s1Root % 4096 ≠ 0 then fin s cMalformed 0 0
    else match if a.s1Enable = 1 then accessCode (s.access owner a.s1Root needR) else none with
    | some (_, k) => fin (s.countAccessFail owner k) cRights 0 0
    | none => match s.readPool a.base [] .front with
    | (s, l0) =>
      if l0.poison then fin s cPoison 0 0
      else if l0.data.toNat / two32 ≠ 0 then fin s cMalformed 0 0
      else
        let r := lowestFree 0 (s.coach.rings.map (·.1))
        if 4095 < r then fin s cBusy 0 (s.epoch + 256)
        else
          let x : Ring := { Ring.empty with
            st := .armed, onFault := decide (a.onFault = 1), s1 := decide (a.s1Enable = 1), log2 := a.log2Size,
            maxEngines := a.maxEngines, tenant := (s.tenantOf owner).getD 0, owner := owner, base := a.base,
            s1Root := a.s1Root, fetchIdx := l0.data.toNat % two32 }
          fin ((s.setRing r x).writeLine1 r) cOk r 0

/-- RING_ARM (R239). -/
def execRingArm (v : Via) (a : RingArgs) (s : State) : Out :=
  let no := fun (s : State) c x => s.coachCpl v 0x53 c 0 x
  .next (s.classThree v 0x53 [5] 0 false no fun s => ringArmAct v a s)

/-- RING_STOP under R240. -/
def ringStopAct (v : Via) (ring mode : Nat) (s : State) : State :=
  let fin := fun (s : State) c => s.coachCpl v 0x54 c (if ring < 4096 then ring else 0) 0
  let x := s.ring ring
  if 4095 < ring ∨ 1 < mode then fin s cMalformed
  else if s.decommissioned then fin s cUnsupported
  else if x.st = .free then fin s cUnsupported
  else if !viaOperator v ∧ x.owner ≠ s.viaHost v then fin s cRights
  else if x.st = .stopping then s.setRing ring { x with stopOwed := x.stopOwed ++ [v] }
  else
    let s := s.stopRing ring cOk (decide (mode = 1))
    (s.setRing ring { s.ring ring with stopOwed := [v] }).settle

/-- RING_STOP (R240). -/
def execRingStop (v : Via) (ring mode : Nat) (s : State) : Out :=
  let no := fun (s : State) c x => s.coachCpl v 0x54 c 0 x
  .next (s.classThree v 0x54 [1] 0x1FFF false no fun s => ringStopAct v ring mode s)

/-! ## Fault records (R256 to R258) -/

/-- Releases a fault record; GEN stays (R257). [DEDUCED, log 94: unsafe] -/
def State.releaseFault (s : State) (f : Nat) : State :=
  s.setFrec f { FaultRec.empty with gen := (s.frec f).gen }

/-- The descriptors that wait on a record, in ascending ring number and index. -/
def State.waitersOf (s : State) (f : Nat) : List Desc :=
  sortBy descLe (s.coach.descs.filter fun d => decide (d.st = .paused ∧ d.fault = some f))

/-- A waiter walks again from the start (R250). -/
def State.retryDesc (s : State) (d : Desc) : State :=
  (s.setDesc { d with st := .walking, fault := none, faultAddr := 0, pages := [], hosts := [] }).resumeRing d.ring

/-- FAULT_RESOLVE under R258. -/
def faultResolveAct (v : Via) (fid gen action resv : Nat) (s : State) : State :=
  let fin := fun (s : State) c n => s.coachCpl v 0x55 c 0 n
  if 16383 < fid ∨ 65535 < gen ∨ 1 < action ∨ resv ≠ 0 then fin s cMalformed 0
  else if s.decommissioned then fin s cUnsupported 0
  else if !viaOperator v ∧ s.tenantOf (s.viaHost v) ≠ some (fid / 16) then fin s cRights 0
  else
    let f := s.frec fid
    if !f.valid ∨ f.gen ≠ gen then fin s cOk 0
    else
      let ws := s.waitersOf fid
      let s := ws.foldl (fun s d =>
        if action = 0 then s.retryDesc d
        else s.descDone d cXlateFault 0 fid gen d.faultAddr (decide (f.stage = 1))) s
      let s := s.releaseFault fid
      fin s.settle cOk f.waiters

/-- FAULT_RESOLVE (R258). -/
def execFaultResolve (v : Via) (fid gen action resv : Nat) (s : State) : Out :=
  let no := fun (s : State) c x => s.coachCpl v 0x55 c 0 x
  .next (s.classThree v 0x55 [2] 0 false no fun s => faultResolveAct v fid gen action resv s)

/-- RING_QUERY (R237). -/
def execRingQuery (c : RslCmd) (ring : Nat) (s : State) : Out :=
  .next (s.rslGate c 0x151 false fun s =>
    if 4095 < ring then s.rslAnswer c 0x151 cMalformed 0 []
    else s.rslAnswer c 0x151 cOk 0 (leBytes 32 (if (s.ring ring).st = .free then 0 else ringEntry (s.ring ring))))

/-- FAULT_QUERY (R256). -/
def execFaultQuery (c : RslCmd) (fid : Nat) (s : State) : Out :=
  .next (s.rslGate c 0x152 false fun s =>
    if 16383 < fid then s.rslAnswer c 0x152 cMalformed 0 []
    else s.rslAnswer c 0x152 cOk 0 (leBytes 32 (faultRecord (s.frec fid))))

/-- INVALIDATE over the service link (R259, R260). [DEDUCED, log 96: unsafe] -/
def execInvalidate (c : RslCmd) (tenant scope src len s1Root : Nat) (s : State) : Out :=
  .next (s.rslGate c 0x150 false fun s =>
    if 1023 < tenant ∨ !invalArgsOk scope src len then s.rslAnswer c 0x150 cMalformed 0 []
    else if s.decommissioned then s.rslAnswer c 0x150 cUnsupported 0 []
    else if !s.invalRights tenant scope src len then s.rslAnswer c 0x150 cRights 0 []
    else if 64 ≤ s.coach.invals.length then s.rslAnswer c 0x150 cBusy (s.epoch + 1) []
    else s.invalidateAct tenant scope src len s1Root none (some (.rsl c)))

/-! ## Walks (R248 to R250) -/

/-- Bytes of scales that follow a REDUCE source, in whole lines; why the REDUCE ends before its walk, if it does. -/
def State.reduceShape (s : State) (d : Desc) : Nat × Option Nat :=
  if d.op ≠ opReduce then (0, none)
  else if 8191 < d.redBuf then (0, some cMalformed)
  else
    let x := s.buf d.redBuf
    if x.st = .free then (0, some cUnsupported)
    else ((d.len / 64 * x.runsPerLine + 63) / 64 * 64, none)

/-- Has the translated-descriptor partition no room for the page list that a walk has built (R249)? -/
def State.pantryFull (s : State) (d : Desc) : Bool := decide (descPartition < s.pantryDescs + 16 * d.pages.length)

/-- WALK_DONE (R248): a walk ends QUEUED, in a fault, or with a failure code; it waits while the partition is full. -/
def execWalkDone (ring index : Nat) (err : Err) (s : State) : Out :=
  .next (match s.desc ring index with
  | none => s
  | some d =>
    if d.st ≠ .walking ∨ ¬ s.attended then s
    else if !s.hubsObey then s.hubsRefuse
    else match s.reduceShape d with
      | (_, some c) => (s.endDesc d c).settle
      | (scales, none) => match s.walkDesc (s.ring ring) d scales err with
        | (s, .ok acc, hosts) =>
          let d := { d with st := .queued, pages := acc.map (·.1), hosts := hosts }
          if s.pantryFull d then { s with coach := { s.coach with stallEpoch := true } } else s.setDesc d
        | (s, .fault kind stage page addr need acc, _) =>
          let pages := acc.map (·.1)
          if s.pantryFull { d with pages := pages } then { s with coach := { s.coach with stallEpoch := true } }
          else s.submissionFault d kind stage page addr need pages
        | (s, .fail c, _) => (s.endDesc d c).settle)

/-! ## Engines (R251 to R254) -/

/-- The descriptor of ring `r` that an engine may take: the first QUEUED one, when everything below it has started,
fewer than the ring's limit run, and FENCE allows it (R251). -/
def State.eligible (s : State) (r : Nat) : Option Desc :=
  let x := s.ring r
  let all := s.descsOf r
  let before := all.takeWhile fun d => decide (d.st ≠ .queued)
  match (all.drop before.length).head? with
  | none => none
  | some d =>
    let running := (all.filter fun y => decide (y.st = .running ∧ y.op ≠ opInvalidate)).length
    if x.held ∨ before.any (fun y => decide (y.st ≠ .running)) ∨ x.maxEngines ≤ running ∨
        (d.flags.getLsbD 0 ∧ before ≠ []) ∨ before.any (fun y => y.flags.getLsbD 0) then none
    else some d

/-- The first ring, in round-robin order after `last`, with a descriptor to take. -/
def State.pickDesc (s : State) (last : Nat) : Option Desc :=
  let keys := s.coach.rings.map (·.1)
  let order := (keys.filter fun r => decide (last < r)) ++ (keys.filter fun r => decide (r ≤ last))
  order.findSome? s.eligible

/-- ENGINE_DISPATCH (R251): a free engine takes a descriptor; one with a fabric destination begins its output.
[DEDUCED, log 90: unsafe] -/
def execEngineDispatch (engine : Nat) (s : State) : Out :=
  .next (
    let e := Tab.get Engine.empty s.coach.engines engine
    if 63 < engine ∨ e.job.isSome ∨ ¬ s.attended then s
    else match s.pickDesc e.lastRing with
      | none => s
      | some d =>
        let d := { d with st := .running, engine := some engine }
        let s := { s with coach := { s.coach with
          engines := Tab.set Engine.empty s.coach.engines engine ⟨d.ring, some (d.ring, d.idx)⟩ } }
        let s := s.setDesc d
        if d.fabric then s.coachOutput d else s)

/-- The running descriptor of an engine. -/
def State.engineDesc (s : State) (engine : Nat) : Option Desc :=
  match (Tab.get Engine.empty s.coach.engines engine).job with
  | some (r, i) => s.desc r i
  | none => none

/-- COACH_ACK (R232, R253): it ends its open write; a code other than OK stops the engine. -/
def execCoachAck (h : ReqHdr) (s : State) : Out :=
  .next (s.answerIn h fun s =>
    let s := s.journalOut h.jidx
    let engine := (h.tag - 0x8000) / 256
    let stale := s.bump 10 0 9 1
    if h.tag < 0x8000 ∨ 0xC000 ≤ h.tag then s.bump 10 0 4 1
    else match s.engineDesc engine with
      | none => stale
      | some d => match d.openWr.find? fun w => decide (w.tag = h.tag) with
        | none => stale
        | some w =>
          if d.dstFid ≠ h.src then stale
          else
            let code := h.opData.toNat % 256
            let d := { d with openWr := d.openWr.filter fun y => decide (y.tag ≠ h.tag) }
            let d := if code = cOk then d
              else { d with endCode := if d.endCode = cOk then code else d.endCode, pos := min d.pos w.pos }
            (s.setDesc d).coachOutput d)

/-- Completes a running descriptor with a code at line position `pos` (R255). -/
def State.runDone (s : State) (d : Desc) (code pos : Nat) : State :=
  (s.descDone d code (64 * pos) 0xFFFF 0 0 false).settle

/-- DESCRIPTOR_COMPLETE (R252, R255): the lines of a descriptor whose destination lies in the pool are moved, as far as
they can be now; one with a fabric destination is done when its output and its open writes are. -/
def execDescriptorComplete (ring index : Nat) (errAt : Option Nat) (err : Err) (s : State) : Out :=
  .next (match s.desc ring index with
  | none => s
  | some d =>
    let owner := (s.ring ring).owner
    if d.st ≠ .running ∨ d.op = opInvalidate ∨ ¬ s.attended then s
    else if !s.hubsObey then s.hubsRefuse
    else if d.fabric then
      let d := if s.gone d.dstFid then d.leaseEnded else d
      if d.openWr = [] ∧ (d.endCode ≠ cOk ∨ d.len ≤ d.pos * 64) then s.runDone d d.endCode d.pos
      else s.coachOutput d
    else if d.endCode ≠ cOk then s.runDone d d.endCode d.pos
    else
      let srcs := sideLines d.pages false
      let (s, pos, fin) :=
        if d.op = opReduce then
          s.reduceLines owner d srcs errAt err ((srcs.take (d.len / 64)).drop d.pos) d.pos
        else s.moveLines owner d errAt err (d.pairs.drop d.pos) d.pos
      match fin with
      | some code => s.runDone d code pos
      | none => s.updDesc d fun x => { x with pos := pos })

/-- FAULT_RECORD_EXPIRY (R257): COACH.FAULT_HOLD_EPOCHS have passed with no waiter. -/
def execFaultRecordExpiry (fid : Nat) (s : State) : Out :=
  .next (
    let f := s.frec fid
    match f.idleSince with
    | some e => if f.valid ∧ f.waiters = 0 ∧ e + s.cfgAt fFaultHold ≤ s.epoch then s.releaseFault fid else s
    | none => s)

end Sys2Proof.Machine
end

