-- ==== Sys2Proof/Machine/Stockpot.lean ====
section
/-! DEFINITION. The reduction-buffer commands and contributions (R275 to R296), and withdrawn lane groups (R343). -/

set_option Elab.async false

namespace Sys2Proof.Machine
open Sys2Proof

/-! ## RED_OPEN (R275 to R277, R295) -/

/-- Is an FP64 value finite? -/
def finite64 (w : Nat) : Bool := decide (w / 2 ^ 52 % 2 ^ 11 ≠ 2047)

/-- HOME with 2 resolved against STOCK.ACC_HOME (R275): is the buffer MEMORY-homed? -/
def State.redInMemory (s : State) (a : RedArgs) : Bool :=
  decide ((if a.home = 2 then s.cfgAt fAccHome else a.home) = 1)

/-- Bytes of a result region: element plane, then scale plane (R270). -/
def resLen (x : Buf) : Nat := x.blocks * x.rbytes + x.blocks * x.runs

/-- The record that RED_OPEN's arguments ask for. -/
def redRecord (a : RedArgs) (memory : Bool) (owner tenant : Nat) : Buf :=
  { Buf.empty with
    st := .opened, mode := a.mode, memory := memory, rmode := a.rmode, op := a.op, elemFmt := a.elemFmt,
    resFmt := a.resFmt, accFmt := a.accFmt, n := a.contributors, tenant := tenant, owner := owner, alpha := a.alpha,
    seed := a.seed, gen := 1, winBase := a.winBase, resBase := a.resBase, accBase := a.accBase,
    blocks := a.winLen / 64, firstFail := cOk,
    stageSlots := if a.mode = 1 then 1024 * (a.contributors - 1) else 0 }

/-- Do bytes `base` .. `base + len - 1` leave the EXT_ID of their base? -/
def leavesExt (base len : Nat) : Bool := decide (0 < len ∧ base / 2 ^ 43 ≠ (base + len - 1) / 2 ^ 43)

/-- The first row of R276. -/
def redArgsBad (a : RedArgs) (x : Buf) : Bool :=
  decide (a.winBase % 64 ≠ 0 ∨ a.resBase % 64 ≠ 0 ∨ (if x.memory then a.accBase % 65536 ≠ 0 else a.accBase ≠ 0) ∨
    a.winLen % 64 ≠ 0 ∨ a.winLen < 64 ∨ 2 ^ 38 < a.winLen ∨ 3 < a.op ∨ 2 < a.rmode ∨ 1 < a.mode ∨ 2 < a.home ∨
    a.resv ≠ 0 ∨ a.contributors = 0 ∨ 1023 < a.contributors) ||
  !fmtDefined a.elemFmt || !fmtDefined a.accFmt || !fmtDefined a.resFmt ||
  (if a.op = 3 then !finite64 a.alpha else decide (a.alpha ≠ 0)) ||
  leavesExt a.winBase a.winLen || leavesExt a.resBase (resLen x) || leavesExt a.accBase (accLen x)

/-- The second row of R276. -/
def redFormatsBad (a : RedArgs) : Bool :=
  !mxOk a.elemFmt || !mxOk a.accFmt || !mxOk a.resFmt || !rowOk a.elemFmt a.accFmt a.resFmt ||
  (isIntFmt (fmtCode a.elemFmt) && decide (a.op = 3 ∨ a.rmode ≠ 0))

/-- Is one of a buffer's formats FP64? -/
def Buf.anyFp64 (x : Buf) : Bool :=
  decide (fmtCode x.elemFmt = fmtFp64 ∨ x.accFmt = fmtFp64 ∨ fmtCode x.resFmt = fmtFp64)

/-- At level D3 a wide ACC_FMT is narrowed (R276, R279). [DEDUCED, log 101: unsafe] -/
def State.narrowed (s : State) (x : Buf) : Buf :=
  let a := (accFmts x.elemFmt).1
  if s.mem.level = 3 ∧ x.accFmt ≠ a then { x with accFmt := a, demoted := true } else x

/-- One address in each page of a range, in ascending order. -/
def rangePages (base len : Nat) : List Nat :=
  (List.range ((base % 65536 + len + 65535) / 65536)).map fun i => if i = 0 then base else (base / 65536 + i) * 65536

/-- The first check of R180 that fails on a range. -/
def State.rangeCode (s : State) (owner base len need : Nat) : Option Nat :=
  (rangePages base len).findSome? fun a => match s.access owner a need with
    | .fail c _ => some c
    | .ok _ _ => none

/-- The extents that a buffer's regions lie in. -/
def Buf.regionExts (x : Buf) : List Nat :=
  [addrExt x.winBase, addrExt x.resBase] ++ (if x.memory then [addrExt x.accBase] else [])

def overlap (a la b lb : Nat) : Bool := decide (0 < la ∧ 0 < lb ∧ a < b + lb ∧ b < a + la)

/-- The sixth row of R276: `x` the new buffer, `y` one that is open. [DEDUCED, log 98: unsafe] -/
def redClash (x y : Buf) : Bool :=
  overlap x.winBase (x.blocks * 64) y.winBase (y.blocks * 64) ||
  overlap x.resBase (resLen x) y.resBase (resLen y) || overlap x.resBase (resLen x) y.accBase (accLen y) ||
  overlap x.accBase (accLen x) y.winBase (y.blocks * 64) || overlap x.accBase (accLen x) y.resBase (resLen y)

/-- The sixth and seventh rows of R276 on a buffer's own regions. -/
def redSelfClash (x : Buf) : Bool :=
  overlap x.accBase (accLen x) x.winBase (x.blocks * 64) || overlap x.accBase (accLen x) x.resBase (resLen x) ||
  (overlap x.resBase (resLen x) x.winBase (x.blocks * 64) &&
    (decide (x.resBase ≠ x.winBase ∨ x.rbytes ≠ 64) || fmtMx x.resFmt))

/-- Clears the page-valid bits of a MEMORY-homed buffer's accumulator region (R276, R279). -/
def State.wipeAcc (s : State) (x : Buf) : State :=
  if x.memory then
    (rangePages x.accBase (accLen x)).foldl (fun s a =>
      let p := s.phys (s.lineAt a / 1024)
      let s := s.wipePages p 1
      match Tab.get none s.mem.moving p with
      | some m => s.wipePages m.target 1
      | none => s) s
  else s

/-- Residence of a HOME 0 buffer (R277): as many blocks in the store as its free space takes, the rest in the pantry. -/
def State.settleHome (s : State) (x : Buf) : Buf :=
  if x.memory then x
  else
    let sb := if x.abytes = 0 then 0 else min x.blocks (s.storeFree x.tenant / x.abytes)
    { x with storeBlocks := sb, storeBytes := sb * x.abytes, pantryBytes := (x.blocks - sb) * x.abytes }

/-- RED_OPEN under R276. -/
def redOpenAct (v : Via) (a : RedArgs) (s : State) : State :=
  let fin := fun (s : State) c x => s.redCpl v 0x62 c 0 x []
  let owner := s.viaHost v
  let x := redRecord a (s.redInMemory a) owner ((s.tenantOf owner).getD 0)
  if redArgsBad a x ∨ 4095 < owner then fin s cMalformed 0
  else if redFormatsBad a ∨ s.decommissioned ∨ (s.mem.level = 3 ∧ x.anyFp64) then fin s cUnsupported 0
  else
    let x := s.narrowed x
    let code := (s.rangeCode owner x.winBase a.winLen needA).or ((s.rangeCode owner x.resBase (resLen x) needW).or
      (if x.memory then s.rangeCode owner x.accBase (accLen x) needW else none))
    match code with
    | some c => fin s c 0
    | none =>
      let others := (s.stock.bufs.filter fun b => decide (b.2.st ≠ .free)).map (·.2)
      if x.regionExts.any (fun e => (s.ext e).sealed || (s.ext e).domain.isSome) then fin s cUnsupported 0
      else if others.any (redClash x) ∨ redSelfClash x then fin s cUnsupported 0
      else
        let b := lowestFree 0 (s.stock.bufs.map (·.1))
        let x := s.settleHome x
        if 8191 < b then fin s cBusy (s.epoch + 256)
        else if spillTotal < s.spillUsed + x.stageSlots * 80 + x.pantryBytes then fin s cBusy (s.epoch + 256)
        else
          let s := if 0 < x.pantryBytes then s.bump 10 0 10 1 else s
          let s := (s.wipeAcc x).setBuf b x
          s.redCpl v 0x62 cOk b x.storeBlocks []

/-- RED_OPEN (R276). -/
def execRedOpen (v : Via) (a : RedArgs) (s : State) : Out :=
  let no := fun (s : State) c x => s.redCpl v 0x62 c 0 x []
  .next (s.classThree v 0x62 [5] 0 false no fun s => redOpenAct v a s)

/-! ## RED_RESET, RED_CLOSE, RED_QUERY (R279, R280) -/

/-- What comes before the buffer's state is judged (R280). -/
def State.redNamed (s : State) (v : Via) (cmd buf : Nat) (resv : Bool) (right : Buf → Bool) (k : Buf → State) : State :=
  let x := s.buf buf
  if 8191 < buf ∨ resv then s.redCpl v cmd cMalformed 0 0 []
  else if x.st = .free then s.redCpl v cmd cUnsupported buf 0 []
  else if !viaOperator v && !right x then s.redCpl v cmd cRights buf 0 []
  else k x

/-- Contributions accepted and not yet combined complete with a code. -/
def State.dropJobs (s : State) (b code : Nat) : State :=
  let hit := s.stock.jobs.filter fun j => decide (j.buf = b)
  let s := { s with stock := { s.stock with
    jobs := s.stock.jobs.filter fun j => decide (j.buf ≠ b)
    staged := s.stock.staged.filter fun g => decide (g.buf ≠ b) } }
  hit.foldl (fun s j => s.redAck j.hdr code 0) s

/-- RED_RESET under R279. [DEDUCED, log 100: unsafe] -/
def redResetAct (v : Via) (buf seed resv : Nat) (s : State) : State :=
  s.redNamed v 0x63 buf (decide (resv ≠ 0 ∨ two64 ≤ seed)) (fun x => decide (x.owner = s.viaHost v)) fun x =>
    if x.st = .opened ∨ x.closing ≠ [] ∨ (s.mem.level = 3 ∧ x.anyFp64) then s.redCpl v 0x63 cUnsupported buf 0 []
    else
      let s := s.dropJobs buf cPoison
      let x := s.narrowed { x with
        st := .opened, gen := (x.gen + 1) % two32, seed := if seed = 0 then x.seed else seed, doneBlocks := 0,
        failedBlocks := 0, firstFail := cOk, digest := 0 }
      let s := { s with stock := { s.stock with
        blks := Tab.eraseRange s.stock.blks (blkKey buf 0) (blkKey (buf + 1) 0)
        spill := Tab.eraseRange s.stock.spill (spillKey buf 0 0) (spillKey (buf + 1) 0 0) } }
      ((s.wipeAcc x).setBuf buf x).redCpl v 0x63 cOk buf 0 []

/-- RED_RESET (R279). -/
def execRedReset (v : Via) (buf seed resv : Nat) (s : State) : Out :=
  let no := fun (s : State) c x => s.redCpl v 0x63 c 0 x []
  .next (s.classThree v 0x63 [2] 0 false no fun s => redResetAct v buf seed resv s)

/-- RED_CLOSE (R279): it completes when the contributions already accepted have. -/
def execRedClose (v : Via) (buf : Nat) (s : State) : Out :=
  let no := fun (s : State) c x => s.redCpl v 0x64 c 0 x []
  .next (s.classThree v 0x64 [1] 0x1FFF false no fun s =>
    s.redNamed v 0x64 buf false (fun x => decide (x.owner = s.viaHost v)) fun x =>
      (s.setBuf buf { x with closing := x.closing ++ [v] }).closeDone buf)

/-- RED_QUERY (R278, R280): the service link also gets the record. [DEDUCED, log 107: unsafe] -/
def execRedQuery (v : Via) (buf : Nat) (s : State) : Out :=
  let no := fun (s : State) c x => s.redCpl v 0x65 c 0 x []
  .next (s.classThree v 0x65 [1] 0x1FFF false no fun s =>
    s.redNamed v 0x65 buf false (fun x => decide (s.tenantOf (s.viaHost v) = some x.tenant)) fun x =>
      s.redCpl v 0x65 cOk buf x.doneBlocks (if viaOperator v then leBytes 64 (bufRecord x) else []))

/-! ## Contributions (R280, R281) -/

/-- The scale bytes of each line of a RED_WR, when they follow R280: `none` where they do not. -/
def redScales (x : Buf) (all : List Byte) (n : Nat) : Option (List (List Byte)) :=
  let per := x.runsPerLine
  if 8 < per * n ∨ (all.drop (per * n)).any (fun b => decide (b ≠ 0)) then none
  else some ((List.range n).map fun i => (all.drop (per * i)).take per)

/-- The access check of every line of a RED_WR: the first that fails (R180, R281, R404). -/
def State.redAccess (s : State) (h : ReqHdr) (addr n : Nat) : Option (Nat × Nat) :=
  (List.range n).findSome? fun i => match s.accessSealed h.src h.sess (addr + 64 * i) needA true with
    | .fail c k => some (c, k)
    | .ok _ _ => none

/-- A replayed RED_WR whose blocks are store-resident and COMPLETE (R373). -/
def State.replayDone (s : State) (h : ReqHdr) (b : Nat) (blocks : List Nat) : Bool :=
  (match s.journaled h.jidx with
    | some r => r.replay
    | none => false) &&
  blocks.all fun k => decide ((s.buf b).home k = .store ∧ (s.blk b k).st = .complete)

/-- RED_WR at stage 4 (R281, R296): taken for combining, or refused whole. -/
def redWrAct (h : ReqHdr) (addr contrib : Nat) (scales : List Byte) (lines : List Line) (s : State) : State :=
  match s.windowOf addr (64 * lines.length) with
  | none => s.redAck h cMalformed 0
  | some b =>
    let x := s.buf b
    let ks := (List.range lines.length).map fun i => (addr - x.winBase) / 64 + i
    let sc := redScales x (leBytes 4 h.opData.toNat ++ (scales ++ zeros 4).take 4) lines.length
    match s.redCheck b contrib (ks.zip lines) sc.isSome with
    | .fail c => s.redAck h c 0
    | .excess => if s.replayDone h b ks then s.redAck h cOk 0 else (s.bump 6 x.tenant 2 1).redAck h cMalformed 0
    | .ok =>
      if s.stageFull b contrib ks then (s.bump 6 x.tenant 8 1).redAck h cBusy (s.epoch + 1)
      else
        let job : RedJob := ⟨h, b, contrib, (ks.zip lines).zip (sc.getD []) |>.map fun p => (p.1.1, p.1.2, p.2), false, false⟩
        { s with stock := { s.stock with jobs := s.stock.jobs ++ [job] } }

/-- RED_WR (R280, R281). SCALE_HI is `scales`; OP_DATA holds the first four scale bytes. -/
def execRedWr (h : ReqHdr) (addr contrib resv : Nat) (scales : List Byte) (lines : List Line) (s : State) : Out :=
  let no := fun (s : State) c x => s.redAck h c x
  let n := lines.length
  .next (s.arrive h s.copyFull no fun s =>
    match s.recorded h with
    | some c => s.countRecorded.redAck h c.code 0
    | none => s.colander h 2 no fun s =>
      if !formOk h (if n = 0 ∨ 3 < n then [] else [4 * n + 2]) (BitVec.allOnes 32) ∨ addr % 64 ≠ 0 ∨ resv ≠ 0 ∨
          4 < scales.length ∨ 2 ^ 57 ≤ addr then no s cMalformed 0
      else if s.decommissioned then no s cUnsupported 0
      else match s.redAccess h addr n with
        | some (c, k) => (s.countAccessFail h.src k).redAck h c (s.epoch + 1)
        | none =>
          if (s.ext (addrExt addr)).domain.isSome then no s cUnsupported 0 else redWrAct h addr contrib scales lines s)

/-- Changes the contribution that came under journal index `jidx`. -/
def State.updJob (s : State) (jidx : Nat) (f : RedJob → RedJob) : State :=
  let jobs := s.stock.jobs.map fun (y : RedJob) => if y.hdr.jidx = jidx then f y else y
  { s with stock := { s.stock with jobs := jobs } }

/-- RED_LINE_COMBINE (R281, R282): the next line of a contribution; RED_ACK after the last. -/
def execRedLineCombine (jidx : Nat) (err : Err) (s : State) : Out :=
  .next (match s.stock.jobs.find? fun j => decide (j.hdr.jidx = jidx) with
  | none => s
  | some j => match j.lines with
    | [] => s
    | (k, l, sc) :: rest =>
      if ¬ s.attended then s
      else if s.combineWaits j.buf k then
        let w := j.waited || (s.openWait (s.combinePages j.buf k)).isSome
        (s.countOpenWait j.buf k j.waited).updJob jidx fun y => { y with waited := w }
      else if !s.hubsObey then s.hubsRefuse
      else
        let dead := decide ((s.blk j.buf k).st = .failed ∨ (s.blk j.buf k).st = .lost)
        let (s, ok) := if dead then (s, false)
          else s.takeLine j.buf k j.contrib l sc err ⟨jidx, j.hdr.src, j.hdr.tag, false, 0⟩
        let bad := j.bad || !ok
        if rest = [] then
          let s := { s with stock := { s.stock with jobs := s.stock.jobs.filter fun y => decide (y.hdr.jidx ≠ jidx) } }
          (s.redAck j.hdr (if bad then cPoison else cOk) 0).closeDone j.buf
        else
          s.updJob jidx fun y => { y with lines := rest, bad := bad, waited := false })

end Sys2Proof.Machine
end

