-- ==== Sys2Proof/Machine/Repro.lean ====
section
/-! DEFINITION. Barriers, launches and paired check (R300 to R307). -/

set_option Elab.async false

namespace Sys2Proof.Machine
open Sys2Proof

/-! ## Barriers (R301) -/

def State.barrier (s : State) (b : Nat) : Barrier := Tab.get Barrier.empty s.repro.barriers b

def State.setBarrier (s : State) (b : Nat) (x : Barrier) : State :=
  ({ s with repro := { s.repro with barriers := Tab.set Barrier.empty s.repro.barriers b x } }).logChange 0x000C b 32 none

/-- BARRIER under R301. [DEDUCED, log 103: unsafe] -/
def barrierAct (v : Via) (bar count lead resv : Nat) (s : State) : State :=
  let fin := fun (s : State) c x => s.reproCpl v 0x68 c (bar % 65536) x
  let n := s.viaEpoch v
  let host := s.viaHost v
  let x := s.barrier bar
  if 255 < bar ∨ count < 2 ∨ 4096 < count ∨ lead < 2 ∨ 65536 < lead ∨ resv ≠ 0 then fin s cMalformed 0
  else if s.decommissioned then fin s cUnsupported 0
  else if s.timeless then fin s cBusy (n + 256)
  else match s.tenantOf host with
  | none => fin s cRights 0
  | some t =>
    if x.arrivals = [] then s.setBarrier bar ⟨count, lead, t, n, [(host, v)]⟩
    else if x.tenant ≠ t then fin s cRights 0
    else if x.count ≠ count ∨ x.lead ≠ lead ∨ x.arrivals.any (fun a => decide (a.1 = host)) then fin s cMalformed 0
    else
      let s := s.setBarrier bar { x with arrivals := x.arrivals ++ [(host, v)] }
      if x.arrivals.length + 1 = count then s.endBarrier bar cOk (n + lead) else s

/-- BARRIER (R301). -/
def execBarrier (v : Via) (bar count lead resv : Nat) (s : State) : Out :=
  let no := fun (s : State) c x => s.reproCpl v 0x68 c 0 x
  .next (s.classThree v 0x68 [2] 0 false no fun s => barrierAct v bar count lead resv s)

/-- BARRIER_TIMEOUT (R301): 65,536 epochs have passed since the first arrival. -/
def execBarrierTimeout (bar : Nat) (s : State) : Out :=
  .next (
    let x := s.barrier bar
    if x.arrivals ≠ [] ∧ x.first + 65536 ≤ s.epoch then s.endBarrier bar cBusy (s.epoch + 1) else s)

/-- Fabric time enters START or LOST: every barrier that gathers ends (R301). -/
def State.endBarriers (s : State) : State :=
  (s.repro.barriers.map (·.1)).foldl (fun s b => s.endBarrier b cBusy (s.epoch + 256)) s

/-! ## Launches (R302, R303) -/

/-- LAUNCH under R302. [DEDUCED, log 93: unsafe] -/
def launchAct (v : Via) (ring epoch resv : Nat) (s : State) : State :=
  let fin := fun (s : State) c x => s.reproCpl v 0x69 c (ring % 65536) x
  let n := s.viaEpoch v
  let x := s.ring ring
  if 4095 < ring ∨ resv ≠ 0 then fin s cMalformed 0
  else if s.decommissioned then fin s cUnsupported 0
  else if !viaOperator v ∧ (x.st = .free ∨ x.owner ≠ s.viaHost v) then fin s cRights 0
  else if x.st = .free ∨ x.st = .stopping ∨ x.launch.isSome then fin s cUnsupported 0
  else if s.timeless ∨ epoch < n + 2 then fin s cBusy (n + 256)
  else if n + 65536 < epoch then fin s cMalformed 0
  else (s.setRing ring { x with launch := some (epoch, v), held := true }).logChange 0x000C ring 32 none

/-- LAUNCH (R302). -/
def execLaunch (v : Via) (ring epoch resv : Nat) (s : State) : Out :=
  let no := fun (s : State) c x => s.reproCpl v 0x69 c 0 x
  .next (s.classThree v 0x69 [2] 0 false no fun s => launchAct v ring epoch resv s)

/-- Step 5 of R35 for one ring (R302, R303): the hold is lifted at EPOCH, or the LAUNCH is cancelled. -/
def State.launchFire (s : State) (ring : Nat) : State :=
  let x := s.ring ring
  match x.launch with
  | some (e, v) =>
    if s.epoch < e then s
    else if s.timeless ∨ e < s.epoch then s.cancelLaunch ring cBusy (s.epoch + 256)
    else
      let s := (s.setRing ring { x with launch := none, held := false }).logChange 0x000C ring 32 none
      s.reproCpl v 0x69 cOk ring e
  | none => s

/-- Every LAUNCH whose epoch has come, in ascending ring number. -/
def State.fireLaunches (s : State) : State := (s.coach.rings.map (·.1)).foldl State.launchFire s

/-- A step of fabric time cancels every armed LAUNCH (R303). -/
def State.cancelLaunches (s : State) : State :=
  (s.coach.rings.map (·.1)).foldl (fun s r => s.cancelLaunch r cBusy (s.epoch + 256)) s

/-- LAUNCH_FIRE (R302). -/
def execLaunchFire (ring : Nat) (s : State) : Out := .next (s.launchFire ring)

/-! ## Paired check (R305 to R307) -/

/-- Is paired check on (until its exit)? -/
def State.pairedOn (s : State) : Bool :=
  match s.repro.paired with
  | .on => true
  | .exitAt _ _ => true
  | _ => false

/-- PAIRED_CHECK under R305. [DEDUCED, log 104: unsafe] -/
def pairedCheckAct (c : RslCmd) (on : Nat) (s : State) : State :=
  let fin := fun (s : State) code x => s.rslAnswer c 0x10B code x []
  if 1 < on then fin s cMalformed 0
  else if on = 1 ∧ s.tok.active = some dieCdB then fin s cUnsupported 0
  else match s.repro.paired with
  | .off =>
    if on = 0 then fin s cOk 0
    else if s.twin.tender ≠ .synced ∨ s.boot.dieResetOf.isSome then fin s cBusy (s.epoch + 256)
    else { s with repro := { s.repro with paired := .entryAt (s.epoch + 1) [.rsl c] } }
  | .entryAt e owed =>
    if on = 1 then { s with repro := { s.repro with paired := .entryAt e (owed ++ [.rsl c]) } }
    else fin s cBusy (e + 64)
  | .on =>
    if on = 1 then fin s cOk 0
    else { s with repro := { s.repro with paired := .exitAt (s.epoch + 1) [.rsl c] } }
  | .exitAt e owed =>
    if on = 1 then fin s cOk 0
    else { s with repro := { s.repro with paired := .exitAt e (owed ++ [.rsl c]) } }

/-- PAIRED_CHECK (R305). -/
def execPairedCheck (c : RslCmd) (on : Nat) (s : State) : Out :=
  .next (s.rslGate c 0x10B false fun s => pairedCheckAct c on s)

/-- Completes the PAIRED_CHECKs that waited. -/
def State.pairedOwed (s : State) (owed : List Owed) : State :=
  owed.foldl (fun s v => match v with
    | .rsl c => s.rslDone 0x10B c.tag c.port cOk 0 []
    | _ => s) s

/-- Is a transaction open that a handover, or paired-check entry, must finish first (R306, R376)? [DEDUCED, log 53: unsafe] -/
def State.openWork (s : State) : Bool :=
  !s.coh.trackers.isEmpty || !s.stock.jobs.isEmpty || !s.mem.hubQueue0.isEmpty || !s.mem.hubQueue1.isEmpty

/-- PAIRED_ENTRY_DONE (R306): with every open transaction finished, and the die's state copied, lock-step begins. -/
def execPairedEntryDone (s : State) : Out :=
  .next (match s.repro.paired with
  | .entryAt e owed =>
    if s.epoch < e ∨ s.openWork ∨ !s.attended ∨ s.twin.tender ≠ .synced then s
    else
      let s := { s with repro := { s.repro with paired := .on }, twin := { s.twin with tender := .paired } }
      (s.raise 0x0503 sevInfo s.actDie []).pairedOwed owed
  | _ => s)

/-- The boundary at which paired check ends (R305): CD-B resynchronises as tender. -/
def State.pairedExit (s : State) : State :=
  match s.repro.paired with
  | .exitAt e owed =>
    if s.epoch < e then s
    else
      let s := { s with repro := { s.repro with paired := .off },
                        twin := { s.twin with tender := .resync, resyncAt := none, resyncFrom := none } }
      s.pairedOwed owed
  | _ => s

/-- PAIRED_MISMATCH (R307): the comparator finds the two dies' outputs different; fatal. -/
def execPairedMismatch (unit : Nat) (s : State) : Out :=
  .next (if s.pairedOn then
    (s.raise 0x0505 sevFatal dieCdA (leBytes 2 unit ++ leBytes 8 s.epoch)).poolFatal 0
  else s)

end Sys2Proof.Machine
end

