-- ==== Sys2Proof/Machine/Publish.lean ====
section
/-! DEFINITION. Versioned publication (R308 to R316, R405). -/

set_option Elab.async false

namespace Sys2Proof.Machine
open Sys2Proof

def RegState.num : RegState → Nat
  | .free => 0
  | .live => 1
  | .deleting => 2

/-- Readers of the current version (R308). -/
def Region.curReaders (x : Region) : Nat :=
  match x.versions.find? fun v => decide (v.version = x.version) with
  | some v => v.readers.length
  | none => 0

/-- The 32 bytes of a region record (R308). -/
def regionRecord (x : Region) : Nat :=
  pack [(x.st.num, 254), (b2n x.sealed, 253), (x.tenant, 240), (x.versions.length, 236), (x.curExt, 198),
    (x.curReaders, 185), (x.version, 64), (x.lastEpoch, 0)]

/-- The version table: eight entries of 16 bytes, VERSION, EXT_ID and READERS (R308). -/
def versionTable (x : Region) : List Byte :=
  (List.range 8).flatMap fun i => match x.versions[i]? with
    | some v => leBytes 8 v.version ++ leBytes 2 v.ext ++ leBytes 2 v.readers.length ++ zeros 4
    | none => zeros 16

/-- The ESTABLISHED session of a command that came encrypted (R399, R406). -/
def State.viaSession (s : State) (v : Via) : Option Session :=
  let id := match v with
    | .fabric h => h.sess
    | .ch _ i => i
    | .rsl _ => 0
  if id = 0 then none
  else match s.session id with
    | some x => if x.st = .established ∧ x.host = s.viaHost v then some x else none
    | none => none

/-- Does the sender's session mask hold the slot of extent `e` (R405)? -/
def State.maskHolds (s : State) (v : Via) (e : Nat) : Bool :=
  match s.viaSession v, s.slotOfExt e with
  | some x, some n => decide (n ∈ x.mask)
  | _, _ => false

/-- A command that names a region: MALFORMED, then what R309 says of the sender and the region's state.
[DEDUCED, log 105: unsafe] -/
def State.regionNamed (s : State) (v : Via) (cmd region : Nat) (bad deletingToo : Bool) (k : Region → State) : State :=
  let x := s.region region
  if bad ∨ 4095 < region then s.pubCpl v cmd cMalformed 0 0 0
  else if x.st = .free then s.pubCpl v cmd cRevoked 0 0 0
  else if !viaOperator v ∧ s.tenantOf (s.viaHost v) ≠ some x.tenant then s.pubCpl v cmd cRights 0 0 0
  else if x.st = .deleting ∧ !deletingToo then s.pubCpl v cmd cRevoked 0 0 0
  else k x

/-- A publication command on its way to its handling table (R309). -/
def State.pubCommand (s : State) (v : Via) (cmd : Nat) (k : State → State) : State :=
  let no := fun (s : State) c x => s.pubCpl v cmd c 0 0 x
  s.classThree v cmd [1, 5] (BitVec.allOnes 32) false no fun s => s.poolGuard no fun s =>
    if s.decommissioned then no s cUnsupported 0 else k s

/-- PUB_CREATE (R309, R405). -/
def execPubCreate (v : Via) (sealed : Nat) (s : State) : Out :=
  .next (s.pubCommand v 0x70 fun s =>
    let fin := fun (s : State) c x => s.pubCpl v 0x70 c 0 0 x
    let r := lowestFree 0 (s.repro.regions.map (·.1))
    if 1 < sealed then fin s cMalformed 0
    else if sealed = 1 ∧ s.boot.lc ≠ 2 then fin s cUnsupported 0
    else match s.tenantOf (s.viaHost v) with
    | none => fin s cRights 0
    | some t =>
      if 4095 < r then fin s cBusy (s.epoch + 256)
      else fin (s.setRegion r { Region.empty with st := .live, sealed := decide (sealed = 1), tenant := t }) cOk r)

/-- The checks of R310 and R405 on a region's source extent, after the region's own. -/
def publishAct (v : Via) (region expected src : Nat) (x : Region) (s : State) : State :=
  let fin := fun (s : State) c n => s.pubCpl v 0x71 c 0 0 n
  let e := s.ext src
  let cur := s.slotOfExt x.curExt
  let digest := fun (n : Option Nat) => n.bind fun k => some (s.slot k).policyDigest
  if e.st ≠ .active then fin s cRevoked 0
  else if !e.shared ∨ e.tenant ≠ x.tenant ∨ e.domain.isSome then fin s cUnsupported 0
  else if !viaOperator v ∧ !bitOf (s.grant src (s.viaHost v)) 1 then fin s cRights 0
  else if e.sealed ≠ x.sealed ∨ s.isVersion src then fin s cUnsupported 0
  else if s.timeless ∧ 1 < s.setSize then fin (s.bump 7 region 2 1) cBusy (s.epoch + 256)
  else if x.sealed ∧ !s.maskHolds v src then fin s cRights 0
  else if x.sealed ∧ x.version ≠ 0 ∧ digest (s.slotOfExt src) ≠ digest cur then fin s cUnsupported 0
  else { s with repro := { s.repro with pubs := s.repro.pubs ++
    [⟨v, s.viaHost v, region, expected, src, s.viaEpoch v⟩] } }

/-- PUBLISH (R310): held for judgement. -/
def execPublish (v : Via) (region expected srcExt resv : Nat) (s : State) : Out :=
  .next (s.pubCommand v 0x71 fun s =>
    s.regionNamed v 0x71 region (decide (16383 < srcExt ∨ resv ≠ 0 ∨ two64 ≤ expected)) false fun x =>
      publishAct v region expected srcExt x s)

/-- The orders that an applied PUBLISH sends, behind the first `n` unbound messages, are its fan-out (R171).
[DEDUCED, log 169: unsafe] -/
def State.markFanOut (s : State) (n : Nat) : State :=
  let ms := s.fab.unbound
  { s with fab := { s.fab with unbound := ms.take n ++ (ms.drop n).map fun (m : OutMsg) =>
    { m with fanOut := decide (m.opcode = 0x4A) } } }

/-- Applies a PUBLISH (R312): grants removed, the version entered, members ordered, and the former version left to its
readers. -/
def State.applyPublish (s : State) (p : PubHeld) : State :=
  let x := s.region p.region
  let n := x.version + 1
  let hs := s.grantees p.srcExt
  let s := hs.foldl (fun s h => s.dropGrant p.srcExt h) s
  let s := s.setExt p.srcExt { s.ext p.srcExt with region := some p.region, hasOwner := false }
  let s := s.setRegion p.region
    { x with version := n, curExt := p.srcExt, lastEpoch := p.epoch, versions := x.versions ++ [⟨n, p.srcExt, []⟩] }
  let s := (s.trimRegion p.region).bump 7 p.region 0 1
  let held := heldPub p.owed 0x71 cOk 0 0 n
  match hs.map fun h => SetOrder.release p.srcExt h with
  | [] => s.release held
  | o :: os =>
    let n := s.fab.unbound.length
    (s.orderMask (s.ext p.srcExt).mask o os (some held)).markFanOut n

/-- Judges one PUBLISH (R311). [DEDUCED, log 106: unsafe] -/
def State.judge (s : State) (p : PubHeld) : State :=
  let x := s.region p.region
  let e := s.ext p.srcExt
  let fin := fun (s : State) c n => s.pubCpl p.owed 0x71 c 0 0 n
  if x.st ≠ .live ∨ e.st ≠ .active then fin s cRevoked 0
  else if p.expected ≠ x.version then fin (s.bump 7 p.region 1 1) cStaleVersion x.version
  else if s.isVersion p.srcExt then fin s cUnsupported 0
  else if s.holdCount p.srcExt ≠ 0 then fin (s.bump 7 p.region 2 1) cBusy (s.epoch + 1)
  else if x.versions.length = 8 ∧ x.curReaders ≠ 0 then fin (s.bump 7 p.region 2 1) cBusy (s.epoch + 256)
  else s.applyPublish p

/-- PUBLISHes in the order of judgement: by epoch, then SRC, then arrival (R311). -/
def pubLe (p q : PubHeld) : Bool := decide (p.epoch < q.epoch ∨ p.epoch = q.epoch ∧ p.host ≤ q.host)

/-- PUBLISH_JUDGE (R311): every PUBLISH received before this epoch. -/
def State.publishJudge (s : State) : State :=
  let due := sortBy pubLe (s.repro.pubs.filter fun p => decide (p.epoch < s.epoch))
  let s := { s with repro := { s.repro with pubs := s.repro.pubs.filter fun p => !decide (p.epoch < s.epoch) } }
  due.foldl State.judge s

/-- PUBLISH_JUDGE (R311). -/
def execPublishJudge (s : State) : Out := .next (if s.attended ∧ s.isMaster then s.publishJudge else s)

/-- PUB_MAP of the current version under R313. -/
def pubMapAct (v : Via) (region : Nat) (x : Region) (s : State) : State :=
  let fin := fun (s : State) c mask ext n => s.pubCpl v 0x72 c mask ext n
  let host := s.viaHost v
  match x.versions.find? fun y => decide (y.version = x.version) with
  | none => fin s cOk 0 0 0
  | some y =>
    let mask := (s.ext y.ext).mask
    if x.sealed ∧ !s.maskHolds v y.ext then fin s cRights 0 0 0
    else if y.readers.contains host then fin s cOk mask.toNat y.ext x.version
    else if s.tenantOf host ≠ some x.tenant then fin s cRights 0 0 0
    else if s.inReclaim host then fin s cBusy 0 0 (s.epoch + 8)
    else if 65536 ≤ s.pool.grants.length then fin s cBusy 0 0 (s.epoch + 256)
    else
      let s := s.makeGrant y.ext host needR s.epoch
      let s := s.setRegion region { x with versions := x.versions.map fun (z : Version) =>
        if z.version = x.version then { z with readers := z.readers ++ [host] } else z }
      (s.bump 7 region 3 1).orderMask mask (.grant y.ext host needR) []
        (some (heldPub v 0x72 cOk mask.toNat y.ext x.version))

/-- PUB_MAP (R313). -/
def execPubMap (v : Via) (region : Nat) (s : State) : Out :=
  .next (s.pubCommand v 0x72 fun s => s.regionNamed v 0x72 region false false fun x => pubMapAct v region x s)

/-- PUB_RELEASE (R314). -/
def execPubRelease (v : Via) (region version : Nat) (s : State) : Out :=
  .next (s.pubCommand v 0x73 fun s => s.regionNamed v 0x73 region (decide (two64 ≤ version)) true fun _ =>
    s.unmap region version (s.viaHost v) fun left => some (heldPub v 0x73 cOk 0 0 left))

/-- PUB_DELETE (R315): it completes when the last version's extent is FREE. -/
def execPubDelete (v : Via) (region : Nat) (s : State) : Out :=
  .next (s.pubCommand v 0x74 fun s => s.regionNamed v 0x74 region false false fun _ => s.deleteRegion region [v])

/-- PUB_QUERY (R308, R309): the service link also gets the record and the version table. -/
def execPubQuery (v : Via) (region : Nat) (s : State) : Out :=
  .next (s.pubCommand v 0x75 fun s => s.regionNamed v 0x75 region false true fun x =>
    s.release ⟨v, 0x75, 0x76, cOk, x.version, pubBody cOk 0 x.curExt x.version,
      if viaOperator v then leBytes 32 (regionRecord x) ++ versionTable x else []⟩)

end Sys2Proof.Machine
end

