-- ==== Sys2Proof/Machine/Integrity.lean ====
section
/-! DEFINITION. Memory integrity and wear (R323 to R352): buckets, sweeps, scrubbing, page moves, stacks and spares, and
what a command writes at DST (R337, R389, R403, R418). -/

set_option Elab.async false

namespace Sys2Proof.Machine
open Sys2Proof

/-! ## Buckets and counts (R328) -/

/-- CE_BUCKET_LEAK: every bucket above 0 loses 1, at a multiple of SCRUB.CE_LEAK_EPOCHS. -/
def execCeBucketLeak (s : State) : Out :=
  .next (if s.epoch % s.cfgAt fCeLeak ≠ 0 then s else
    { s with mem := { s.mem with
      channels := Tab.mapVals Channel.empty (fun _ c => { c with bucket := c.bucket - 1 }) s.mem.channels } })

/-- STACK_OVF_HALVE: every stack's overflow count is halved, at a multiple of 65,536. -/
def execStackOvfHalve (s : State) : Out :=
  .next (if s.epoch % 65536 ≠ 0 then s else
    { s with mem := { s.mem with
      stackTab := Tab.mapVals Stack.empty (fun _ x => { x with ovf := x.ovf / 2 }) s.mem.stackTab } })

/-! ## Sweeps and the ladle (R323, R330, R332) -/

/-- OPEN_SWEEP_DONE (R323): the page's unwritten lines are VALID 0, its bit is 1, its entry free. -/
def execOpenSweepDone (ppn : Nat) (s : State) : Out :=
  .next (if Tab.get [] s.mem.openPages ppn = [] then s else
    ({ s with mem := { s.mem with
        closed := s.mem.closed.remove ppn 1
        openPages := Tab.set [] s.mem.openPages ppn [] } }).logChange 0x0006 ppn 32 none)

/-- LADLE_OVERWRITE_DONE (R192, R330): a page whose bit is 0 and that no write has opened is overwritten. -/
def execLadleOverwriteDone (ppn : Nat) (s : State) : Out :=
  .next (if s.pageValid ppn ∨ Tab.get [] s.mem.openPages ppn ≠ [] ∨ s.stackDown (stackOf ppn) then s
    else
      let s := s.overwritePages ppn 1
      { s with pool := { s.pool with freed := s.pool.freed.remove ppn 1 } })

/-- What the ladle remembers of lines with a correctable error: the last 4,096 of each hub (R342). -/
def State.rememberCe (s : State) (hub key sym : Nat) : State :=
  let rest := s.mem.repeats.filter fun r => decide (r.2.1 ≠ key)
  let mine := lastN 4096 ((rest.filter fun r => decide (r.1 = hub)) ++ [(hub, key, sym)])
  { s with mem := { s.mem with repeats := (rest.filter fun r => decide (r.1 ≠ hub)) ++ mine } }

/-- Has stack `n` a channel that the ladle owes a pass of its own (R330)? -/
def State.channelDue (s : State) (n : Nat) : Bool := (List.range 32).any fun c => (s.channel (n * 32 + c)).needPass

/-- The end of a pass of channel `ch`, if the ladle owed it one, or else of a scrub pass of its stack (R330). -/
def State.passEnds (s : State) (ch : Nat) : State :=
  if (s.channel ch).needPass then s.setChannel ch { s.channel ch with needPass := false } else s.bump 9 (ch / 32) 0 1

/-- RDM_REFRESH (R333): a row reaches SCRUB.RDM_THRESHOLD activations within one refresh window. -/
def execRdmRefresh (stack row activations : Nat) (s : State) : Out :=
  let _ := row
  .next (if 11 < stack ∨ activations < s.cfgAt fRdm ∨ s.stackDown stack then s else s.bump 9 stack 2 1)

/-- CALIBRATION_SLOT (R334, R340): the channel's timing is retrained, and the pin repairs due take place. -/
def execCalibrationSlot (channel : Nat) (s : State) : Out :=
  .next (
    let c := s.channel channel
    if 383 < channel ∨ s.stackDown (channel / 32) then s
    else
      let s := s.setChannel channel { c with repair := [], spared := c.spared + c.repair.length }
      c.repair.foldl (fun (s : State) pin =>
        s.raise 0x0604 sevNotice (odDie (hubOfStack (channel / 32))) (leBytes 2 channel ++ leBytes 1 pin)) s)

/-! ## Page moves (R341, R346, R362) -/

/-- Copies every line of a physical page to its target, POISON and directory bits with it. -/
def State.copyPage (s : State) (ppn target : Nat) : State :=
  let s := s.overwritePages target 1
  (List.range 1024).foldl (fun s i =>
    let m := s.lineMeta ppn i
    if s.readsClosed ppn i ∨ !m.valid then s
    else
      let s := { s with mem := { s.mem with cells := storeLine s.mem.cells target i (storedLine s.mem.cells ppn i) } }
      s.setMeta target i m) s

/-- Does a page still wait for the ladle's overwrite on a stack that works (R330, R331)? -/
def State.overwriteDue (s : State) : Bool :=
  (List.range 12).any fun n => !s.stackDown n &&
    decide ((s.mem.openPages.filter fun e => decide (stackOf e.1 = n)).length <
      sumOf (s.mem.closed.map fun r => pagesOnStack r.1 r.2 (stackPos n)))

/-- Is page `ppn` the next that a migration moves: on a MIGRATING stack, in use, with no hotter one left (R346)? -/
def State.nextToMigrate (s : State) (ppn : Nat) : Bool :=
  let n := stackOf ppn
  let here := fun (p : Nat) => decide (stackOf p = n) && s.inUse (s.logical p) && decide (s.phys (s.logical p) = p) &&
    decide (Tab.get none s.mem.moving p = none)
  decide ((s.stack n).st = .migrating) && !(s.stack n).queuedMigration && here ppn &&
    !(s.mem.counts.any fun e => decide (s.heat ppn < e.2.1 + e.2.2) && here e.1)

/-- PAGE_MOVE_COPY_DONE (R341): the last line of a page has been copied. A page of a migrating stack is marked MOVING by
the same step when it is the next to go and a target is left. [DEDUCED, log 109: unsafe] -/
def execPageMoveCopyDone (ppn : Nat) (s : State) : Out :=
  .next (match Tab.get none s.mem.moving ppn with
  | some mv =>
    if mv.copied ∨ s.stackDown (stackOf ppn) then s
    else
      let s := s.copyPage ppn mv.target
      { s with mem := { s.mem with moving := Tab.set none s.mem.moving ppn (some { mv with copied := true }) } }
  | none =>
    if !s.attended then s
    else if !s.hubsObey then s.hubsRefuse
    else if !s.nextToMigrate ppn ∨ (remapLimit ≤ s.mem.remap.length ∧ Tab.get none s.mem.remap (s.logical ppn) = none) then s
    else match s.nextTarget with
      | none => s
      | some (s, t) =>
        let s := (s.markMoving ppn t false).copyPage ppn t
        { s with mem := { s.mem with moving := Tab.set none s.mem.moving ppn (some ⟨t, true, false⟩) } })

/-- A MIGRATING stack with nothing left on it is OUT, and the next stack waiting to migrate begins (R345, R348). -/
def State.settleMigration (s : State) : State :=
  let done := (List.range 12).find? fun n =>
    decide ((s.stack n).st = .migrating ∧ s.pagesPlaced n = 0) && !(s.stack n).queuedMigration
  match done with
  | none => s
  | some n =>
    let s := (s.setStack n { s.stack n with st := .out }).raise 0x060A sevNotice s.actDie (leBytes 1 n)
    match (List.range 12).find? fun m => decide ((s.stack m).st = .migrating) with
    | some m => s.setStack m { s.stack m with queuedMigration := false }
    | none => s

/-- Switches the remap entry of a moved page; its counts move with it (R335, R341). -/
def State.switchPage (s : State) (ppn : Nat) (mv : Move) : State :=
  let l := s.logical ppn
  let c := Tab.get (0, 0) s.mem.counts ppn
  let s := { s with mem := { s.mem with
    remap := Tab.set none s.mem.remap l (some mv.target)
    moving := Tab.set none s.mem.moving ppn none
    openPages := Tab.set [] s.mem.openPages ppn []
    counts := Tab.set (0, 0) (Tab.set (0, 0) s.mem.counts ppn (0, 0)) mv.target c
    retired := if mv.retire then Tab.set false s.mem.retired ppn true else s.mem.retired } }
  if mv.retire then
    (s.raise 0x0605 sevNotice s.actDie (leBytes 3 ppn ++ leBytes 3 mv.target)).bump 10 0 11 1
  else s.bump 10 0 12 1

/-- REMAP_SWITCH, after the CUT of step 9 (R362): the switch of every copied page is journaled and made. -/
def State.remapSwitches (s : State) : State :=
  let ready := s.mem.moving.filterMap fun (e : Nat × Option Move) => match e.2 with
    | some mv => if mv.copied then some (e.1, mv) else none
    | none => none
  let s := ready.foldl (fun s e => (s.logChange 0x0005 e.1 16 none).switchPage e.1 e.2) s
  s.settleMigration

/-- Retirements that waited for a spare page or a remap entry are tried again (R433). -/
def State.retryRetire (s : State) : State :=
  let ps := s.mem.retireWaiting
  ps.foldl State.retirePage { s with mem := { s.mem with retireWaiting := [] } }

/-! ## Stacks (R112, R115, R196, R345) -/

/-- Stack `n` is FAILED, and moves to or from it end (R345, R348). [DEDUCED, log 110: unsafe] -/
def State.stackDead (s : State) (n : Nat) : State :=
  let wasMoving := decide ((s.stack n).st = .migrating) && !(s.stack n).queuedMigration
  let s := s.setStack n { s.stack n with st := .failed, queuedMigration := false }
  let lost := fun (e : Nat × Option Move) => decide (stackOf e.1 = n) || decide (e.2.map (fun m => stackOf m.target) = some n)
  let again := (s.mem.moving.filter fun e => lost e && decide (stackOf e.1 ≠ n) &&
    decide (e.2.map (·.retire) = some true)).map (·.1)
  let s := { s with mem := { s.mem with moving := s.mem.moving.filter fun e => !lost e } }
  let s := again.foldl State.retirePage s
  if wasMoving then
    match (List.range 12).find? fun m => decide ((s.stack m).st = .migrating) with
    | some m => s.setStack m { s.stack m with queuedMigration := false }
    | none => s
  else s

/-- STACK_REMOVE (R345). -/
def execStackRemove (c : RslCmd) (stack : Nat) (s : State) : Out :=
  .next (s.rslGate c 0x160 false fun s =>
    if 11 < stack then s.rslAnswer c 0x160 cMalformed 0 []
    else if (s.stack stack).st ≠ .inUse then s.rslAnswer c 0x160 cUnsupported 0 []
    else (s.startMigration stack).rslAnswer c 0x160 cOk 0 [])

/-- STACK_RETURN (R345). -/
def execStackReturn (c : RslCmd) (stack : Nat) (s : State) : Out :=
  .next (s.rslGate c 0x161 false fun s =>
    if 11 < stack then s.rslAnswer c 0x161 cMalformed 0 []
    else if (s.stack stack).st ≠ .out then s.rslAnswer c 0x161 cUnsupported 0 []
    else ((s.setStack stack { s.stack stack with st := .inUse }).raiseStack stack).rslAnswer c 0x161 cOk 0 [])

/-- STACK_RESET (R112). -/
def execStackReset (c : RslCmd) (stack : Nat) (s : State) : Out :=
  .next (s.rslGate c 0x103 false fun s =>
    let st := (s.stack stack).st
    if 11 < stack then s.rslAnswer c 0x103 cMalformed 0 []
    else if (st ≠ .out ∧ st ≠ .failed) ∨ s.hubGone (hubOfStack stack) then s.rslAnswer c 0x103 cUnsupported 0 []
    else if Tab.get [] s.boot.stackResetOwed stack ≠ [] then s.rslAnswer c 0x103 cBusy (s.epoch + 256) []
    else { s with boot := { s.boot with stackResetOwed := Tab.set [] s.boot.stackResetOwed stack [.rsl c] } })

/-- Every line of stack `n` is written as in the start-up wipe (R115). -/
def State.wipeStack (s : State) (n : Nat) : State :=
  let off := fun (r : Ranges) => r.flatMap fun x =>
    (((List.range x.2).map (x.1 + ·)).filter fun p => decide (stackOf p ≠ n)).map fun p => (p, 1)
  { s with
    pool := { s.pool with freed := off s.pool.freed }
    mem := { s.mem with
      cells := s.mem.cells.filter fun e => decide (stackOf (e.1 / 65536) ≠ n)
      lines := s.mem.lines.filter fun e => decide (stackOf (e.1 / 1024) ≠ n)
      openPages := s.mem.openPages.filter fun e => decide (stackOf e.1 ≠ n)
      closed := off s.mem.closed } }

/-- The pages of allocated extents that are still mapped to stack `n`. -/
def State.mappedOn (s : State) (n : Nat) : List Nat :=
  (s.pool.exts.flatMap fun e => (List.range (e.2.localGran * 32)).map fun i => s.phys (e.2.base + i)).filter
    fun p => decide (stackOf p = n)

/-- POISON 1 into every line of a page (R345). -/
def State.poisonPage (s : State) (ppn : Nat) : State :=
  (List.range 1024).foldl (fun s i => s.setMeta ppn i ⟨true, true, 0⟩) s

/-- STACK_RESET_DONE (R115, R345): PASS leaves the stack OUT, its mapped lines poisoned; FAIL leaves its state. -/
def execStackResetDone (stack : Nat) (pass : Bool) (s : State) : Out :=
  .next (
    let owed := Tab.get [] s.boot.stackResetOwed stack
    if owed = [] then s
    else
      let s := { s with boot := { s.boot with stackResetOwed := Tab.set [] s.boot.stackResetOwed stack [] } }
      let s := if pass then
          let s := (s.wipeStack stack).setStack stack { s.stack stack with st := .out }
          (s.mappedOn stack).foldl State.poisonPage s
        else s
      owed.foldl (fun s v => match v with
        | .rsl c => s.rslDone 0x103 c.tag c.port cOk (if pass then 0 else 1) []
        | _ => s) s)

/-! ## Bytes at a pool address of the sender (R337, R388, R389, R403, R418) -/

/-- Why `len` bytes at a pool address may not be used by the sender, if so: the checks of R180 for the right, never a
sealed extent, a bound extent UNSUPPORTED, and the guard of R283. With the code, the check of R180 that failed, or 0.
[DEDUCED, log 134: unsafe] -/
def State.argFail (s : State) (v : Via) (addr len need : Nat) : Option (Nat × Nat) :=
  (rangePages addr len).findSome? fun a => match s.accessSealed (s.viaHost v) 0 a need true with
    | .fail c k => some (c, k)
    | .ok e _ => if (s.ext e).domain.isSome then some (cUnsupported, 0) else (s.guarded a).map fun c => (c, 0)

/-- Refuses a command for what `State.argFail` found, and counts it (R207). -/
def State.argRefuse (s : State) (v : Via) (f : Nat × Nat) (no : State → Nat → Nat → State) : State :=
  no (s.countAccessFail (s.viaHost v) f.2) f.1 (if f.1 = cBusy then s.epoch + 1 else 0)

/-- Answers a command that returns bytes: written at DST on the fabric and in a session, returned after the response
body on the service link, where DST is zero (R416). `reply` completes with a code, VALUE and extra bytes. -/
def State.deliver (s : State) (v : Via) (dst : Nat) (bytes : List Byte)
    (reply : State → Nat → Nat → List Byte → State) : State :=
  match v with
  | .rsl _ => if dst ≠ 0 then reply s cMalformed 0 [] else reply s cOk bytes.length bytes
  | _ =>
    if dst % 64 ≠ 0 then reply s cMalformed 0 []
    else match s.argFail v dst bytes.length needW with
      | some f => s.argRefuse v f fun s c x => reply s c x []
      | none => reply (s.putPool dst bytes) cOk bytes.length []

/-! ## ACCESS_DUMP, the CE log, lane groups and SRAM rows (R329, R337, R343, R344) -/

/-- EXT_CPL of a command that writes at DST. -/
def State.dumpCpl (s : State) (v : Via) (cmd code ext value : Nat) (extra : List Byte) : State :=
  s.finish v cmd 0x46 code value (extCplBody code 0 ext value (zeros 16)) extra

/-- The counts of one page, as ACCESS_DUMP writes them. -/
def State.pageCounts (s : State) (ppn : Nat) : List Byte :=
  let c := Tab.get (0, 0) s.mem.counts (s.phys ppn)
  leBytes 2 c.1 ++ leBytes 2 c.2

/-- ACCESS_DUMP under R337. [DEDUCED, log 115: unsafe] -/
def accessDumpAct (v : Via) (ext first count dst : Nat) (s : State) : State :=
  let fin := fun (s : State) c n b => s.dumpCpl v 0x4F c (if ext < 16384 then ext else 0) n b
  let x := s.ext ext
  if 16383 < ext ∨ count = 0 ∨ 65536 < count ∨ (viaOperator v ∧ 16384 < count) then fin s cMalformed 0 []
  else if s.decommissioned then fin s cUnsupported 0 []
  else if !viaOperator v ∧ (x.st = .free ∨ s.tenantOf (s.viaHost v) ≠ some x.tenant) then fin s cRights 0 []
  else if x.localGran * 32 < first + count then fin s cMalformed 0 []
  else
    let bytes := (List.range count).flatMap fun i => s.pageCounts (x.base + first + i)
    s.deliver v dst bytes fun s c n b => fin s c (if c = cOk then count else n) b

/-- ACCESS_DUMP (R337). -/
def execAccessDump (v : Via) (ext first count dst : Nat) (s : State) : Out :=
  let no := fun (s : State) c x => s.dumpCpl v 0x4F c 0 x []
  .next (s.classThree v 0x4F [1, 5] (BitVec.allOnes 32) false no fun s => accessDumpAct v ext first count dst s)

/-- The 16 bytes of a CE log entry (R329). -/
def ceEntryBytes (e : CeEntry) : List Byte :=
  leBytes 8 e.epoch ++ leBytes 3 e.place ++ leBytes 2 e.line ++ leBytes 1 e.symbol ++ leBytes 1 e.region ++
    leBytes 1 e.source

/-- CE_LOG_READ (R329): it returns the entries and empties the log. -/
def execCeLogRead (c : RslCmd) (s : State) : Out :=
  .next (s.rslGate c 0x115 false fun s =>
    let l := s.mem.ceLog
    let s := ({ s with mem := { s.mem with ceLog := [] } }).logChange 0x000E 0 0 none
    s.rslAnswer c 0x115 cOk l.length (l.flatMap ceEntryBytes))

/-- LANE_GROUP_FAULT (R343): the group is withdrawn; the line is combined again elsewhere, so no line is lost. -/
def execLaneGroupFault (group : Nat) (s : State) : Out :=
  .next (if 135 < group ∨ Tab.get false s.groupBad group ∨ ¬ s.attended then s
    else
      let s := { s with stock := if s.actDie = dieCdB
        then { s.stock with groupBadB := Tab.set false s.stock.groupBadB group true }
        else { s.stock with groupBadA := Tab.set false s.stock.groupBadA group true } }
      (s.raise 0x0607 sevNotice s.actDie (leBytes 1 s.actDie ++ leBytes 1 group)).bump 10 0 14 1)

/-- A row's place in the table of SRAM rows: die, array and row. -/
def rowKey (die array row : Nat) : Nat := (die * 256 + array) * 2 ^ 20 + row

/-- Is this array key storage: a hub's key table, or the key store of a control die's root (R329, R344)?
[DESIGN CHOICE, log 58: unsafe] -/
def keyArray (die array : Nat) : Bool := decide ((die ≤ 1 ∧ array = 2) ∨ ((die = 2 ∨ die = 3) ∧ array = 3))

/-- A correctable error in key storage is logged with the key index, which is the row. Which stored byte it was is a free
value (R329). [DESIGN CHOICE, log 185: safe] -/
def State.logKeyCe (s : State) (row : Nat) : State :=
  { s with fresh := s.fresh + 1 }.logCe ⟨s.epoch, row, 0, Config.keySymbol s.fresh % 72, 2, 2⟩

/-- A row's correctable error: the second within 65,536 epochs has the row replaced at the next boundary (R344).
[DEDUCED, log 114: unsafe] -/
def State.rowError (s : State) (die array row : Nat) : State :=
  let k := rowKey die array row
  let recent := (Tab.get [] s.mem.sramRows k).filter fun e => decide (s.epoch ≤ e + 65536)
  if s.mem.sparesWaiting.contains (die, array, row) then s
  else if recent = [] then { s with mem := { s.mem with sramRows := Tab.set [] s.mem.sramRows k [s.epoch] } }
  else { s with mem := { s.mem with
    sramRows := Tab.set [] s.mem.sramRows k []
    sparesWaiting := s.mem.sparesWaiting ++ [(die, array, row)] } }

/-- SRAM_CORRECTABLE (R329, R344). -/
def execSramCorrectable (die array row : Nat) (s : State) : Out :=
  .next (
    if 4 < die then s
    else if keyArray die array then (s.logKeyCe row).rowError die array row
    else s.rowError die array row)

/-- Rows due are copied to spare rows at a boundary, two for each 512 rows (R338, R344). -/
def State.spareRows (s : State) : State :=
  let due := s.mem.sparesWaiting
  due.foldl (fun s r =>
    let k := rowKey r.1 r.2.1 (r.2.2 / 512)
    let used := Tab.get 0 s.mem.rowSpares k
    if 2 ≤ used then s
    else
      let s := { s with mem := { s.mem with rowSpares := Tab.set 0 s.mem.rowSpares k (used + 1) } }
      (s.raise 0x0608 sevInfo r.1 (leBytes 1 r.1 ++ leBytes 2 r.2.1)).bump 10 0 15 1)
    { s with mem := { s.mem with sparesWaiting := [] } }

/-! ## The degradation level (R349, R350) -/

/-- The level is judged at a boundary; EV_DEGRADE_LEVEL reports a change of it or of any field.
[DEDUCED, log 112: unsafe] -/
def State.judgeLevel (s : State) : State :=
  let level := s.levelNow
  let w := BitVec.ofNat 64 (degradeWordOf s level)
  let changed := decide (w ≠ s.mem.degradeWord)
  let s := { s with mem := { s.mem with level := level, degradeWord := w } }
  if changed then s.raise 0x060B sevWarning s.actDie (leBytes 8 w.toNat) else s

end Sys2Proof.Machine
end

