-- ==== Sys2Proof/Machine/TrafficOps.lean ====
section
/-! DEFINITION. What the port die does with outgoing messages: egress routes (R156, R157), the egress queue and its
throttle (R150, R165, R171), circuits and gate lists (R164, R166, R169, R170). -/

set_option Elab.async false

namespace Sys2Proof.Machine
open Sys2Proof

/-! ## Route versions (R156 to R159) -/

/-- The version that messages are bound with. -/
def State.currentVersion (s : State) : Nat := if s.fab.rst1 = .current then 1 else 0

def State.routeState (s : State) (v : Nat) : RouteState := if v = 0 then s.fab.rst0 else s.fab.rst1

def State.setRouteState (s : State) (v : Nat) (x : RouteState) : State :=
  if v = 0 then { s with fab := { s.fab with rst0 := x } } else { s with fab := { s.fab with rst1 := x } }

def State.routes (s : State) (v : Nat) : Tab (BitVec 32) := if v = 0 then s.fab.routes0 else s.fab.routes1

def State.setRoutes (s : State) (v : Nat) (t : Tab (BitVec 32)) : State :=
  if v = 0 then { s with fab := { s.fab with routes0 := t } } else { s with fab := { s.fab with routes1 := t } }

def State.inflight (s : State) (v : Nat) : Nat := if v = 0 then s.fab.inflight0 else s.fab.inflight1

def State.setInflight (s : State) (v n : Nat) : State :=
  if v = 0 then { s with fab := { s.fab with inflight0 := n } } else { s with fab := { s.fab with inflight1 := n } }

/-- The route table index of a destination: its host ID, or 4,096 + the SET_INDEX of a member. -/
def State.routeIndex (s : State) (dst : Nat) : Nat :=
  if dst < 4096 then dst
  else match s.memberOf dst with
    | some i => 4096 + i
    | none => 4104

/-- The ports an entry lists, in order. -/
def listedPorts (e : BitVec 32) : List Nat :=
  (List.range (bitsOf e.toNat 25 24 + 1)).map fun i => bitsOf e.toNat (6 * i + 5) (6 * i)

/-- Does an entry break R156: a reserved bit, or a port beyond COUNT, that is not zero? -/
def entryBad (e : BitVec 32) : Bool :=
  decide (bitsOf e.toNat 29 26 ≠ 0) ||
    (List.range 4).any fun i => decide (bitsOf e.toNat 25 24 < i ∧ bitsOf e.toNat (6 * i + 5) (6 * i) ≠ 0)

/-! ## The egress queue (R150, R165, R171) -/

/-- The most units a flit holds: 244 bytes in messages of whole units (R127, R154). -/
def flitUnits : Nat := 15

def fifoKey (kind cls : Nat) : Nat := kind * 4 + cls

def Port.fifo (p : Port) (key : Nat) : List TxFlit := Tab.get [] p.fifos key

/-- Flits in the egress queue. -/
def Port.queued (p : Port) : Nat := sumOf (p.fifos.map fun e => e.2.length)

/-- Puts a message in its FIFO: in the last flit when it fits there, that flit is for the same circuit and is not of a
formed burst, else in a new one. [DESIGN CHOICE, log 60: unsafe] -/
def Port.enqueue (p : Port) (kind version : Nat) (m : OutMsg) : Port :=
  let key := fifoKey kind m.cls
  let q := p.fifo key
  let fresh := q ++ [⟨m.cls, kind, version, [m]⟩]
  let q' := match q.getLast? with
    | none => fresh
    | some f =>
      if (Tab.get (0, false) p.formed key).1 < q.length ∧ f.version = version ∧ (f.msgs.all fun x => decide (x.ckt = m.ckt)) ∧
          sumOf (f.msgs.map OutMsg.units) + m.units ≤ flitUnits then
        q.dropLast ++ [{ f with msgs := f.msgs ++ [m] }]
      else fresh
  { p with fifos := Tab.set [] p.fifos key q' }

/-- Judges the throttle of a port after its queue has changed (R171). [DEDUCED, log 62: unsafe] -/
def State.judgeThrottle (s : State) (n : Nat) : State :=
  let p := s.port n
  if !p.throttled ∧ s.cfgIx fThrottleHi n ≤ p.queued then
    s.setPort n { p with throttled := true, throttledEpoch := true }
  else if p.throttled ∧ p.queued ≤ s.cfgIx fThrottleLo n then s.setPort n { p with throttled := false }
  else s

/-! ## Binding (R157, R170, R171, R195, R254) -/

/-- What becomes of a message at binding. -/
inductive BindAns where
  | port (n : Nat)
  /-- no candidate port is UP; the port that counts it, none when the destination was never heard from -/
  | noRoute (counter : Option Nat)
  /-- its port's queue is full, or throttles it -/
  | waits
  /-- a notice whose host's LEASE_GONE bit is set -/
  | dropped
  deriving DecidableEq, Repr

def opCoachWr : Nat := 0x50

/-- Whether the chosen port takes the message now: not when its queue is full, nor the pool's own injection when it is
throttled (R150, R171); a notice to a host whose LEASE_GONE bit is set at this moment is dropped (R195). -/
def State.portTakes (s : State) (p : Nat) (m : OutMsg) : BindAns :=
  if 512 ≤ (s.port p).queued then .waits
  else if (m.opcode = opCoachWr ∨ m.fanOut) ∧ (s.port p).throttled then .waits
  else if m.notice ∧ s.gone m.dst then .dropped
  else .port p

/-- The choice of R157. A port in SWAP is not in state UP. [DEDUCED, log 59: unsafe] -/
def State.chooseBind (s : State) (m : OutMsg) : BindAns :=
  let e := Tab.get 0 (s.routes s.currentVersion) (s.routeIndex m.dst)
  let isUp := fun p => decide ((s.port p).st = .up)
  if e.getLsbD 31 then
    let up := (listedPorts e).filter isUp
    let free := up.filter fun p => !(s.port p).throttled
    let cands := if e.getLsbD 30 then (if free = [] then up else free) else up.take 1
    match cands[m.tag % cands.length]? with
    | some p => s.portTakes p m
    | none => .noRoute (some ((listedPorts e).headD 0))
  else
    let from? := match m.port with
      | some p => some p
      | none => Tab.get none s.fab.heard m.dst
    match from? with
    | none => .noRoute none
    | some p => if isUp p then s.portTakes p m else .noRoute (some p)

/-- The kind of a message at port `p`: 1 + the circuit it belongs to, or 0 (R170, R254). [DEDUCED, log 63: unsafe] -/
def State.kindAt (s : State) (p : Nat) (m : OutMsg) : Nat :=
  match m.ckt with
  | none => 0
  | some c =>
    let x := Tab.get Circuit.empty s.fab.circuits c
    if c < 512 ∧ x.st = .active ∧ x.host = m.dst ∧ x.port = p ∧ (x.dir = 1 ∨ x.dir = 2) then 1 + c else 0

/-- A snoop or a grant has been bound: its deadline runs (R227). -/
def State.startDeadline (s : State) (m : OutMsg) : State :=
  if m.cls = clsSnp then
    { s with coh := { s.coh with trackers := s.coh.trackers.map fun (t : Tracker) =>
      { t with snoops := t.snoops.map fun (n : Snoop) =>
        if n.host = m.dst ∧ n.tag = m.tag ∧ n.boundAt = none then { n with boundAt := some s.epoch } else n } } }
  else if m.opcode = 0x20 ∧ m.opData ≠ 0 then
    { s with coh := { s.coh with trackers := s.coh.trackers.map fun (t : Tracker) =>
      if t.st = .waitAck ∧ t.hdr.src = m.dst ∧ t.hdr.tag = m.tag then { t with ackBoundAt := some s.epoch } else t } }
  else s

/-- The request that a bound response answers leaves the journal (R365, R366); answers of R229 leave it elsewhere.
[DEDUCED, log 71: unsafe] -/
def State.retire (s : State) (j : Nat) : State :=
  match s.journaled j with
  | some r => if r.answer then s else s.journalOut j
  | none => s

/-- Binds a message to port `p` with the current version. -/
def State.bindAt (s : State) (p : Nat) (m : OutMsg) : State :=
  let kind := s.kindAt p m
  let v := s.currentVersion
  let (s, m) := s.sealMsg v kind m
  let s := (s.setPort p ((s.port p).enqueue kind v m)).judgeThrottle p
  let s := (s.setInflight v (s.inflight v + 1)).startDeadline m
  match m.jidx with
  | some j => s.retire j
  | none => s

/-- Counts a message that finds no candidate port, once (R157). -/
def State.countNoRoute (s : State) (m : OutMsg) (c : Option Nat) : State × OutMsg :=
  if m.counted then (s, m)
  else match c with
    | some p => (s.bumpPort p 29 1, { m with counted := true })
    | none => (s.bump 10 0 24 1, { m with counted := true })

/-- Binds the first message of a list that can be bound, or drops it; `kept` are those before it, which stay. -/
def State.bindFirst (s : State) (kept : List OutMsg) : List OutMsg → State
  | [] => { s with fab := { s.fab with unbound := kept } }
  | m :: ms => match s.chooseBind m with
    | .port p => { s with fab := { s.fab with unbound := kept ++ ms } }.bindAt p m
    | .dropped => { s with fab := { s.fab with unbound := kept ++ ms } }
    | .waits => State.bindFirst s (kept ++ [m]) ms
    | .noRoute c =>
      let (s, m) := s.countNoRoute m c
      State.bindFirst s (kept ++ [m]) ms

/-! ## Circuits and gate lists (R164, R166, R169) -/

def State.circuit (s : State) (c : Nat) : Circuit := Tab.get Circuit.empty s.fab.circuits c

def State.setCircuit (s : State) (c : Nat) (x : Circuit) : State :=
  ({ s with fab := { s.fab with circuits := Tab.set Circuit.empty s.fab.circuits c x } }).logChange 0x000C c 96 none

/-- Step 6 of R35 for one circuit at its START_EPOCH: the windows enter the gate list. -/
def State.activateCircuit (s : State) (c : Nat) : State :=
  let x := s.circuit c
  if x.st = .armed ∧ x.startEpoch ≤ s.epoch then
    let p := s.port x.port
    (s.setPort x.port { p with windows := p.windows ++ x.windows.map fun (w : Nat × Nat) => ⟨c, w.1, w.2⟩ }).setCircuit c
      { x with st := .active }
  else s

/-- A circuit's queued flits go to the port's best-effort FIFOs, in order. -/
def Port.dropCircuit (p : Port) (c : Nat) : Port :=
  let move := fun (fs : Tab (List TxFlit)) (cls : Nat) =>
    let q := (Tab.get [] fs (fifoKey (1 + c) cls)).map fun (f : TxFlit) => { f with kind := 0 }
    Tab.set [] (Tab.set [] fs (fifoKey 0 cls) (Tab.get [] fs (fifoKey 0 cls) ++ q)) (fifoKey (1 + c) cls) []
  { p with
    windows := p.windows.filter fun w => decide (w.ckt ≠ c)
    fifos := [0, 1, 2, 3].foldl move p.fifos
    formed := Tab.eraseRange p.formed (fifoKey (1 + c) 0) (fifoKey (2 + c) 0) }

/-- Step 6 of R35 for one circuit at its END_EPOCH: a circuit torn down while ARMED ends at its START_EPOCH if that
comes later. -/
def State.removeCircuit (s : State) (c : Nat) : State :=
  let x := s.circuit c
  if x.st = .tearing ∧ max x.endEpoch x.startEpoch ≤ s.epoch then
    (s.setPort x.port ((s.port x.port).dropCircuit c)).setCircuit c Circuit.empty
  else s

/-- Step 6 of R35: the lists of the new epoch begin. -/
def State.stepCircuits (s : State) : State :=
  let ids := s.fab.circuits.map (·.1)
  let s := ids.foldl State.removeCircuit s
  let s := ids.foldl State.activateCircuit s
  { s with fab := { s.fab with gatesOff := s.timeless } }

/-- The flit time in ps (R122, R408). -/
def State.flitPs (s : State) (n : Nat) : Nat :=
  if 64 ≤ n then 19350 else if (s.port n).x2 then 4838 else 2419

/-- Do circuit windows send nothing now (R169)? -/
def State.windowsSilent (s : State) : Bool := s.timeless || s.fab.gatesOff

/-- The end of the stretch of time of a kind that holds offset `at`, none outside it. A stretch ends with its epoch, and
with its window: two windows of one circuit that touch are two stretches. While the circuit windows send nothing, circuit
bursts go in best-effort time. [DESIGN CHOICE, log 158: unsafe] -/
def State.stretchEnd (s : State) (n kind off : Nat) : Option Nat :=
  let ws := (s.port n).windows
  let mine := ws.find? fun w => decide (w.startNs ≤ off ∧ off < w.startNs + w.lenNs)
  if kind ≠ 0 ∧ !s.windowsSilent then
    match mine with
    | some w => if w.ckt + 1 = kind then some (w.startNs + w.lenNs) else none
    | none => none
  else match mine with
    | some _ => none
    | none => some ((ws.filter fun w => decide (off < w.startNs)).foldl (fun e w => min e w.startNs) 4096)

/-- Credits held for a class (R144). -/
def Port.avail (p : Port) (cls : Nat) : Nat :=
  Tab.get 0 p.init cls - (Tab.get 0 p.sent cls + two32 - Tab.get 0 p.returned cls) % two32

/-- The burst cap of a port (R165). -/
def State.burstCap (s : State) (n : Nat) : Nat :=
  let c := s.cfgIx fGateBurst n
  if (s.port n).x2 then (c + 1) / 2 else c

/-- The flits of the burst at the head of a FIFO. [DEDUCED, log 61: unsafe] -/
def State.burstLen (s : State) (n key : Nat) : Nat :=
  let p := s.port n
  let f := (Tab.get (0, false) p.formed key).1
  if f = 0 then min (s.burstCap n) (p.fifo key).length else f

/-- Whether a burst may start at an offset (R166). -/
inductive BurstAns where
  | starts (stretchEnd : Nat)
  | noTime
  | waits
  deriving DecidableEq, Repr

def State.judgeBurst (s : State) (n kind cls off : Nat) : BurstAns :=
  let k := s.burstLen n (fifoKey kind cls)
  if k = 0 then .waits
  else match s.stretchEnd n kind off with
    | none => .waits
    | some e =>
      if (e - off) * 1000 < k * s.flitPs n then .noTime
      else if (s.port n).avail cls < k then .waits
      else .starts e

def State.mayStart (s : State) (n kind cls off : Nat) : Bool :=
  match s.judgeBurst n kind cls off with
  | .starts _ => true
  | _ => false

/-- The best-effort class whose burst goes next: the lowest that has been passed over 16 times, else the highest of
DAT, RSP, SNP, REQ (R167). -/
def State.nextClass (s : State) (n off : Nat) : Option Nat :=
  let able := [0, 1, 2, 3].filter fun c => s.mayStart n 0 c off
  match able.find? fun c => decide (16 ≤ Tab.get 0 (s.port n).starve c) with
  | some c => some c
  | none => able.getLast?

/-- The kind of a queued flit as a burst is formed: that of coach output is chosen anew (R254). -/
def State.kindNow (s : State) (n : Nat) (f : TxFlit) : Nat :=
  match f.msgs.head? with
  | some m => if m.opcode = opCoachWr then s.kindAt n m else f.kind
  | none => f.kind

/-- Puts a flit at the end of the FIFO of its kind and class. -/
def Port.append (p : Port) (f : TxFlit) : Port :=
  let key := fifoKey f.kind f.cls
  { p with fifos := Tab.set [] p.fifos key (p.fifo key ++ [f]) }

/-- Coach output in a FIFO whose circuit takes it now, or no longer takes it, goes to the FIFO of its kind now (R254). -/
def State.rechoose (s : State) (n kind cls : Nat) : State :=
  let p := s.port n
  let key := fifoKey kind cls
  let moved := (p.fifo key).filter fun f => decide (s.kindNow n f ≠ kind)
  if moved = [] then s
  else
    let kept := (p.fifo key).filter fun f => decide (s.kindNow n f = kind)
    s.setPort n (moved.foldl (fun (q : Port) f => q.append { f with kind := s.kindNow n f })
      { p with fifos := Tab.set [] p.fifos key kept })

/-- Coach messages of flits that an assigned circuit does not take (R172, R254). -/
def strays (fs : List TxFlit) : Nat :=
  sumOf (fs.map fun f => (f.msgs.filter fun m => decide (m.opcode = opCoachWr) && m.ckt.isSome).length)

/-- Forms the burst at the head of a FIFO, unless one is formed there (R165, R254). -/
def State.formBurst (s : State) (n kind cls : Nat) : State :=
  let key := fifoKey kind cls
  if (Tab.get (0, false) (s.port n).formed key).1 ≠ 0 then s
  else
    let s := s.rechoose n kind cls
    let k := s.burstLen n key
    let p := s.port n
    let s := s.setPort n { p with formed := Tab.set (0, false) p.formed key (k, false) }
    let lost := if kind = 0 then strays ((p.fifo key).take k) else 0
    if lost = 0 then s else s.bumpPort n 32 lost

/-- Starts the burst at the head of a FIFO; the next burst is formed of the flits then queued behind it (R165). A lower
class that could not start at this moment neither gains nor loses in its run of 16. [DESIGN CHOICE, log 159: unsafe] -/
def State.startBurst (s : State) (n kind cls off stretch : Nat) : State :=
  let p := s.port n
  let key := fifoKey kind cls
  let k := s.burstLen n key
  let lower := if kind ≠ 0 then [] else [0, 1, 2, 3].filter fun c => decide (c < cls) && s.mayStart n 0 c off
  let starve := lower.foldl (fun (t : Tab Nat) c => Tab.set 0 t c (Tab.get 0 t c + 1))
    (if kind = 0 then Tab.set 0 p.starve cls 0 else p.starve)
  let rest := (p.fifo key).drop k
  ((s.setPort n { p with
    fifos := Tab.set [] p.fifos key rest
    sending := (p.fifo key).take k
    formed := Tab.set (0, false) p.formed key (0, false)
    starve := starve
    overrunTo := 4096 * s.epoch + stretch }).judgeThrottle n).formBurst n kind cls

/-- A burst that may not start is formed, and waits; one that waits for lack of time left is counted once (R165, R172). -/
def State.burstWaits (s : State) (n kind cls : Nat) (noTime : Bool) : State :=
  let p := s.port n
  let key := fifoKey kind cls
  let k := s.burstLen n key
  let was := (Tab.get (0, false) p.formed key).2
  let s := if noTime && !was then s.bumpPort n 26 1 else s
  s.setPort n { s.port n with formed := Tab.set (0, false) p.formed key (k, was || noTime) }

end Sys2Proof.Machine
end

