-- ==== Sys2Proof/Machine/Traffic.lean ====
section
/-! DEFINITION. The meanings of the traffic-control commands: binding, bursts, route versions, policers and circuits
(R155 to R172, R438). -/

set_option Elab.async false

namespace Sys2Proof.Machine
open Sys2Proof

/-- MESSAGE_BIND: the first message that has a port to go to is bound; those passed over stay unbound, in order. While
the outputs are held nothing is bound, save what a failed pool still sends (R157, R197, R374). -/
def execMessageBind (s : State) : Out :=
  .next (if s.twin.paused && s.tok.fatal.isNone then s else s.bindFirst [] s.fab.unbound)

/-- GATE_BURST_START: the burst at the head of a FIFO starts when time and credit allow, when no burst is being sent and,
for best effort, when it is its class's turn (R165 to R167). -/
def execGateBurstStart (port kind cls offsetNs : Nat) (s : State) : Out :=
  .next (
    let p := s.port port
    let key := fifoKey kind cls
    if !s.portUp port ∨ p.sending ≠ [] ∨ p.fifo key = [] ∨ 4 ≤ cls then s
    else
    let s := s.formBurst port kind cls
    match s.judgeBurst port kind cls offsetNs with
      | .noTime => s.burstWaits port kind cls true
      | .waits => s.burstWaits port kind cls false
      | .starts e =>
        if kind = 0 ∧ s.nextClass port offsetNs ≠ some cls then s.burstWaits port kind cls false
        else s.startBurst port kind cls offsetNs e)

/-- ROUTE_DRAINED: a DRAINING version with no message in flight becomes FREE (R158). -/
def execRouteDrained (version : Nat) (s : State) : Out :=
  .next (if s.routeState version = .draining ∧ s.inflight version = 0 ∧ version ≤ 1 then
      (s.setRouteState version .free).raise 0x0309 sevInfo diePd (leBytes 1 version)
    else s)

/-- CIRCUIT_ACTIVATE (R169). -/
def execCircuitActivate (ckt : Nat) (s : State) : Out := .next (s.activateCircuit ckt)

/-- CIRCUIT_REMOVE (R169). -/
def execCircuitRemove (ckt : Nat) (s : State) : Out := .next (s.removeCircuit ckt)

/-- The opcodes that a message to the module may have, by class (R181, R199, R208, R228, R238, R251, R273, R298, R309,
R337, R388, R418). -/
def definedOpcode (cls op : Nat) : Bool :=
  if cls = clsReq then
    decide (op ∈ [0x01, 0x02, 0x03, 0x04, 0x05, 0x06, 0x07, 0x40, 0x41, 0x42, 0x43, 0x44, 0x45, 0x48, 0x4A, 0x4C, 0x4E,
      0x4F, 0x53, 0x54, 0x55, 0x60, 0x62, 0x63, 0x64, 0x65, 0x68, 0x69, 0x70, 0x71, 0x72, 0x73, 0x74, 0x75, 0x80, 0x81,
      0x82, 0x83, 0x84, 0x85, 0x87, 0x88, 0x89])
  else if cls = clsRsp then decide (op ∈ [0x18, 0x19, 0x49, 0x4B, 0x4D, 0x51])
  else if cls = clsDat then decide (op = 0x21)
  else false

/-- The commands of the service link: the class-3 requests and those of R419. [DEDUCED, log 124: unsafe] -/
def definedCmd (cmd : Nat) : Bool :=
  decide (cmd ∈ [0x40, 0x41, 0x42, 0x43, 0x44, 0x45, 0x4F, 0x53, 0x54, 0x55, 0x62, 0x63, 0x64, 0x65, 0x68, 0x69, 0x70,
      0x71, 0x72, 0x73, 0x74, 0x75, 0x80, 0x81, 0x82, 0x83, 0x84, 0x85, 0x87, 0x88, 0x89, 0x148, 0x150, 0x151, 0x152,
      0x160, 0x161, 0x170, 0x171] ∨
    (0x100 ≤ cmd ∧ cmd ≤ 0x10B) ∨ (0x110 ≤ cmd ∧ cmd ≤ 0x116) ∨ (0x120 ≤ cmd ∧ cmd ≤ 0x124) ∨
    (0x130 ≤ cmd ∧ cmd ≤ 0x134) ∨ (0x140 ≤ cmd ∧ cmd ≤ 0x147))

/-- UNDEFINED_OPCODE: a REQ completes MALFORMED after the colander; any other message is a stale answer (R438). On the
service link an undefined CMD completes MALFORMED (R412). -/
def execUndefinedOpcode (v : Via) (cls opcode : Nat) (s : State) : Out :=
  .next (match v with
  | .fabric h =>
    if definedOpcode cls opcode then s
    else if cls = clsReq then
      let no := fun (s : State) c v => s.cohCpl h c v
      s.arrive h false no fun s => s.colander h 3 no fun s => no s cMalformed 0
    else if h.dst ≠ s.fabricId then s.bumpPort h.port 30 1
    else if !s.srcAdmitted h.src then s.bumpPort h.port 31 1
    else s.bump 10 0 4 1
  | .rsl c => if definedCmd opcode then s else s.rslGate c opcode true fun s => s
  | .ch _ _ => s)

/-! ## Route tables (R158, R159) -/

/-- ROUTE_LOAD writes its entries from FIRST on. -/
def writeRoutes (t : Tab (BitVec 32)) : Nat → List (BitVec 32) → Tab (BitVec 32)
  | _, [] => t
  | i, e :: es => writeRoutes (Tab.set 0 t i e) (i + 1) es

/-- ROUTE_LOAD: entries of a version that is FREE or LOADING are written from FIRST on (R158, R159). -/
def execRouteLoad (c : RslCmd) (version first : Nat) (entries : List (BitVec 32)) (s : State) : Out :=
  .next (s.rslGate c 0x0120 false fun s =>
    let fin := fun (s : State) code v => s.rslAnswer c 0x0120 code v []
    let n := entries.length
    if 1 < version ∨ n = 0 ∨ 256 < n ∨ 4104 < first + n ∨ entries.any entryBad then fin s cMalformed 0
    else match s.routeState version with
      | .free =>
        let t := writeRoutes (s.routes s.currentVersion) first entries
        fin ((s.setRoutes version t).setRouteState version .loading) cOk 0
      | .loading => fin (s.setRoutes version (writeRoutes (s.routes version) first entries)) cOk 0
      | .pending => fin s cBusy (s.epoch + 1)
      | .draining => fin s cBusy (s.epoch + 1)
      | .current => fin s cUnsupported 0)

/-- ROUTE_COMMIT: a LOADING version waits for the next boundary, and so does the completion. -/
def execRouteCommit (c : RslCmd) (version : Nat) (s : State) : Out :=
  .next (s.rslGate c 0x0121 false fun s =>
    let fin := fun (s : State) code v => s.rslAnswer c 0x0121 code v []
    if 1 < version then fin s cMalformed 0
    else match s.routeState version with
      | .loading =>
        let s := s.setRouteState version .pending
        { s with fab := { s.fab with commitOwed := s.fab.commitOwed ++ [.rsl c] } }
      | .pending => fin s cBusy (s.epoch + 1)
      | .draining => fin s cBusy (s.epoch + 1)
      | .current => fin s cUnsupported 0
      | .free => fin s cUnsupported 0)

/-- Step 3 of R35: a PENDING version becomes CURRENT, the other DRAINING, and the held completion goes out. -/
def State.routeSwitch (s : State) : State :=
  let go := fun v =>
    let s := (s.setRouteState (1 - v) .draining).setRouteState v .current
    let owed := s.fab.commitOwed
    owed.foldl (fun (s : State) o => s.release ⟨o, 0x0121, 0, cOk, s.epoch, [], []⟩)
      { s with fab := { s.fab with commitOwed := [] } }
  if s.fab.rst0 = .pending then go 0 else if s.fab.rst1 = .pending then go 1 else s

/-! ## Policers (R162) -/

/-- POLICER_SET: one policer gets its rates and sizes and full buckets (R162). -/
def execPolicerSet (c : RslCmd) (host cls enable cir pir cbs pbs : Nat) (s : State) : Out :=
  .next (s.rslGate c 0x0122 false fun s =>
    let bad := decide (4095 < host ∨ 3 < cls ∨ 1 < enable ∨ 6400000 < cir ∨ 6400000 < pir ∨ pir < cir ∨ cbs < 240 ∨
      16777216 < cbs ∨ pbs < cbs ∨ 16777216 < pbs)
    if bad then s.rslAnswer c 0x0122 cMalformed 0 []
    else
      let p : Policer := ⟨enable = 1, cir, pir, cbs, pbs, cbs * 1024, pbs * 1024, s.clk.now⟩
      let ix := host * 4 + cls
      let s := ({ s with fab := { s.fab with policers := Tab.set Policer.empty s.fab.policers ix p } }).logChange 0x000B
        ix 32 none
      s.rslAnswer c 0x0122 cOk 0 [])

/-! ## Circuits (R168) -/

/-- Windows reserved on a port by circuits that are not FREE. -/
def State.portWindows (s : State) (port : Nat) : List (Nat × Nat) :=
  (s.fab.circuits.filter fun e => decide (e.2.st ≠ .free ∧ e.2.port = port)).flatMap fun e => e.2.windows

def windowsMeet (a b : Nat × Nat) : Bool := decide (a.1 < b.1 + b.2 ∧ b.1 < a.1 + a.2)

/-- Do two windows of a list overlap? -/
def windowsClash : List (Nat × Nat) → Bool
  | [] => false
  | w :: ws => ws.any (windowsMeet w) || windowsClash ws

/-- CKT_SETUP: a circuit is ARMED with its windows until its start epoch (R168). The free CKT_ID chosen is the lowest.
[DESIGN CHOICE, log 167: unsafe] -/
def execCktSetup (c : RslCmd) (host port direction startEpoch : Nat) (windows : List (Nat × Nat)) (s : State) : Out :=
  .next (s.rslGate c 0x0123 false fun s =>
    let fin := fun (s : State) code v => s.rslAnswer c 0x0123 code v []
    let n := windows.length
    let short := s.cfgIx fGateBurst port * 5
    let bad := decide (4095 < host ∨ 63 < port ∨ 2 < direction ∨ 16 < n ∨ (n = 0 ∧ direction ≠ 0) ∨
      startEpoch < s.epoch + 2 ∨ s.epoch + 65536 < startEpoch) ||
      windows.any fun w => decide (4096 < w.1 + w.2 ∨ w.2 < short)
    let all := s.portWindows port ++ windows
    if bad then fin s cMalformed 0
    else if s.timeless then fin s cBusy (s.epoch + 256)
    else
      let id := lowestFree 0 (s.fab.circuits.map (·.1))
      if 512 ≤ id then fin s cBusy (s.epoch + 256)
      else if windowsClash all ∨ 64 < all.length ∨ 3072 < sumOf (all.map (·.2)) then fin s cUnsupported 0
      else fin (s.setCircuit id ⟨.armed, host, port, direction, startEpoch, 0, windows⟩) cOk id)

/-- CKT_TEARDOWN (R168). -/
def execCktTeardown (c : RslCmd) (ckt endEpoch : Nat) (s : State) : Out :=
  .next (s.rslGate c 0x0124 false fun s =>
    let fin := fun (s : State) code => s.rslAnswer c 0x0124 code 0 []
    let x := s.circuit ckt
    if 511 < ckt ∨ endEpoch < s.epoch + 2 ∨ s.epoch + 65536 < endEpoch then fin s cMalformed
    else if x.st = .free ∨ x.st = .tearing then fin s cUnsupported
    else fin (s.setCircuit ckt { x with st := .tearing, endEpoch := endEpoch }) cOk)

end Sys2Proof.Machine
end

