-- ==== Sys2Proof/Machine/LinkOps.lean ====
section
/-! DEFINITION. The link layer's shared operations (R122 to R153, R408 to R413): sequence numbers and acknowledgement,
credits, replay, link-down, training and the frames of the service link. Ports 64 and 65 are the RSL ports. -/

set_option Elab.async false

namespace Sys2Proof.Machine
open Sys2Proof

/-- [DEDUCED, log 68: unsafe] -/
def isRsl (n : Nat) : Bool := decide (64 ≤ n)

/-- `a - b` on sequence numbers (R133). -/
def seqDist (a b : Nat) : Nat := (a + 65536 - b % 65536) % 65536

/-- The cap on outstanding flits (R142, R143, R409). -/
def State.flitCap (s : State) (n : Nat) : Nat :=
  if isRsl n then 512 else if s.boot.wipeRange = 0 then 1024 else 16384

/-! ## Acknowledgement and credits (R134, R144, R145) -/

/-- Messages whose flits are freed leave the in-flight count of their version (R158). -/
def State.leaveFlight (s : State) (n : Nat) (fs : List TxFlit) : State :=
  if isRsl n then s
  else fs.foldl (fun (s : State) f => s.setInflight f.version (s.inflight f.version - f.msgs.length)) s

/-- Frees every flit from OLDEST up to but not including sequence number `upTo`. -/
def State.freeTo (s : State) (n upTo : Nat) : State :=
  let p := s.port n
  let k := seqDist upTo p.oldest
  if k = 0 then s
  else
    let gone := p.store.filter fun f => decide (seqDist f.seq p.oldest < k)
    let kept := p.store.filter fun f => decide (k ≤ seqDist f.seq p.oldest)
    (s.setPort n { p with store := kept, oldest := upTo % 65536, oldestReplays := 0 }).leaveFlight n
      (gone.map fun (f : Stored) => f.flit)

/-- The acknowledgement `a` that a good flit carries (R134). -/
def State.takeAck (s : State) (n a : Nat) : State :=
  let p := s.port n
  if seqDist (a + 1) p.oldest ≤ p.outstanding then s.freeTo n ((a + 1) % 65536) else s.bumpPort n 10 1

/-- Credits of a class come back. -/
def Port.addReturned (p : Port) (cls k : Nat) : Port :=
  { p with returned := Tab.set 0 p.returned cls ((Tab.get 0 p.returned cls + k) % two32) }

/-- The header of a good flit: its acknowledgement and its credit return. -/
def State.goodFlit (s : State) (n : Nat) (h : FlitHdr) : State :=
  let s := if h.ackValid then s.takeAck n h.ackSeq else s
  s.setPort n ((s.port n).addReturned h.crdClass h.crdCount)

/-- The class whose waiting credits go next, and how many: the classes take turns (R145). -/
def Port.creditTurn (p : Port) : Port × Nat × Nat :=
  let order := (List.range 4).map fun i => (p.turn + i) % 4
  match order.find? fun c => decide (0 < Tab.get 0 p.waiting c) with
  | none => (p, 0, 0)
  | some c =>
    let k := min (Tab.get 0 p.waiting c) 127
    ({ p with waiting := Tab.set 0 p.waiting c (Tab.get 0 p.waiting c - k), turn := (c + 1) % 4 }, c, k)

/-- A slot's credit is released (R145). -/
def Port.addReleased (p : Port) (cls : Nat) : Port :=
  { p with
    released := Tab.set 0 p.released cls ((Tab.get 0 p.released cls + 1) % two32)
    waiting := Tab.set 0 p.waiting cls (Tab.get 0 p.waiting cls + 1) }

/-- The four RELEASED_TOTALs. -/
def Port.totals (p : Port) : List Nat := [0, 1, 2, 3].map fun c => Tab.get 0 p.released c

/-! ## Bad flits and NAK (R135, R138, R140) -/

/-- A receiver in NAK mode asks once for each ES. -/
def Port.askReplay (p : Port) : Port :=
  if !p.timeoutMode ∧ !p.nakPending then { p with due := p.due ++ [.nak p.es], nakPending := true } else p

/-- A bad or malformed flit (R135). -/
def State.badFlit (s : State) (n : Nat) : State := (s.setPort n (s.port n).askReplay).bumpPort n 2 1

/-- Starts a replay from `q`; one under way is ended first (R138, R140). [DEDUCED, log 64: unsafe] -/
def State.startReplay (s : State) (n q : Nat) : State :=
  let p := s.port n
  if seqDist p.next q = 0 then s else s.setPort n { p with replay := some ⟨q, q, p.next⟩ }

/-! ## The service link's frames (R412, R422) -/

/-- The bytes of a completion frame. -/
def cplFrame (f : RslCpl) : List Byte :=
  leBytes 4 (32 + f.data.length) ++ leBytes 2 f.cmd ++ leBytes 1 f.code ++ zeros 1 ++ leBytes 4 f.tag ++ zeros 4 ++
    leBytes 8 f.value ++ zeros 8 ++ f.data

/-- The 64 bytes of an event frame. -/
def evFrame (v : Ev) : List Byte :=
  leBytes 4 64 ++ leBytes 2 v.code ++ leBytes 1 v.severity ++ leBytes 1 v.die ++ leBytes 4 v.seq ++
    leBytes 4 v.suppressed ++ leBytes 8 v.epoch ++ (v.detail ++ zeros 40).take 40

/-- Flits that a frame of `k` bytes takes. -/
def frameFlits (k : Nat) : Nat := (k + 243) / 244

/-- The flits of a completion frame, class 1. Each holds the completion and which part of the frame it carries. -/
def cplFlits (f : RslCpl) : List TxFlit :=
  (List.range (frameFlits (32 + f.data.length))).map fun i =>
    ⟨1, 0, 0, [{ messageTo f.code f.tag f.cmd 1 i f.data with jidx := some f.value, port := some f.port }]⟩

/-- The flit of an event frame, class 2. -/
def evFlits (v : Ev) : List TxFlit :=
  [⟨2, 0, 0, [messageTo 0 v.seq v.code 2 0 (evFrame v)]⟩]

/-- The payload of an RSL flit. -/
def rslPayload (m : OutMsg) : List Byte :=
  let all := if m.cls = 1 then cplFrame ⟨m.opcode, m.tag, m.dst, m.jidx.getD 0, m.body, 0⟩ else m.body
  (all.drop (m.opData * 244)).take 244

/-- The completion frames, each once, of which a flit of the list is a part. -/
def framesOf : List TxFlit → List RslCpl
  | [] => []
  | f :: fs =>
    let rest := framesOf fs
    match f.msgs with
    | m :: _ =>
      if m.cls = 1 ∧ ¬ (rest.any fun r => decide (r.tag = m.tag ∧ r.cmd = m.opcode)) then
        ⟨m.opcode, m.tag, m.dst, m.jidx.getD 0, m.body, m.port.getD 0⟩ :: rest
      else rest
    | [] => rest

/-- The event whose frame a message of class EVT carries (R422). -/
def evOf (m : OutMsg) : Ev :=
  ⟨m.tag, m.opcode, ofLe ((m.body.drop 6).take 1), ofLe ((m.body.drop 7).take 1), ofLe ((m.body.drop 12).take 4),
    ofLe ((m.body.drop 16).take 8), m.body.drop 24⟩

/-- The events whose frames the list carries. -/
def eventsOf (fs : List TxFlit) : List Ev :=
  fs.flatMap fun f => (f.msgs.filter fun m => decide (m.cls = 2)).map evOf

/-- Is the pool in a switch-over gap, in which no new event frame leaves (R374, R424)? -/
def State.eventsWait (s : State) : Bool := !s.attended && s.tok.fatal.isNone

/-- The next frame that RSL port `r` sends: completions first, then events. A held completion goes on the first port UP;
an event on the event port, or where it must, and none before the token stage has ended (R97, R413, R423) or in a
switch-over gap (R424). -/
def State.nextFrame (s : State) (r : Nat) : State × List TxFlit :=
  let mine := fun (f : RslCpl) => decide (f.port = r) || !s.portUp (64 + f.port)
  match s.rsl.out.find? mine with
  | some f => ({ s with rsl := { s.rsl with out := s.rsl.out.erase f } }, cplFlits f)
  | none =>
    let take := fun (e : Ev × Option Nat) => s.evs.started && !s.eventsWait && match e.2 with
      | some q => decide (q = r) || !s.portUp (64 + q)
      | none => decide (s.eventPort = r)
    match s.evs.out.find? take with
    | some e =>
      let out := s.evs.out.erase e
      let s := { s with evs := { s.evs with out := out } }
      let s := if out.any fun x => decide (x.1.seq = e.1.seq) then s else s.bump 10 0 29 1
      (s, evFlits e.1)
    | none => (s, [])

/-- A failed RSL port's unacknowledged frames go whole on the other port (R413). -/
def State.moveFrames (s : State) (r : Nat) : State :=
  let p := s.port (64 + r)
  if !s.portUp (64 + (1 - r)) then s
  else
    let fs := (p.store.map fun (f : Stored) => f.flit) ++ p.sending
    let cpls := (framesOf fs).map fun (f : RslCpl) => { f with port := 1 - r }
    let evs := eventsOf fs
    let moved := cpls.length + evs.length
    if moved = 0 then s
    else
      let s := s.setPort (64 + r) { p with
        store := [], sending := [], oldest := p.next, replay := none, peerGen := 0 }
      ({ s with
        rsl := { s.rsl with out := cpls ++ s.rsl.out }
        evs := { s.evs with out := (evs.map fun (v : Ev) => (v, (some (1 - r) : Option Nat))) ++ s.evs.out } }).bump
          10 0 28 moved

/-! ## Lanes (R123 to R125, R409) -/

/-- Lanes of a port: five, or two on an RSL port. -/
def laneCount (n : Nat) : Nat := if isRsl n then 2 else 5

def goodLanes (n : Nat) (p : Port) : List Nat := (List.range (laneCount n)).filter fun i => !p.badLanes.getLsbD i

/-- Is LS in standby: five good lanes? -/
def Port.standby (n : Nat) (p : Port) : Bool := !isRsl n && decide ((goodLanes n p).length = 5) && p.spareFor.isNone

/-- The lanes that carry data. -/
def dataLanes (n : Nat) (p : Port) : List Nat :=
  if isRsl n then [0, 1]
  else if p.x2 then (goodLanes n p).take 2
  else match p.spareFor with
    | some k => ([0, 1, 2, 3].filter fun i => decide (i ≠ k)) ++ [4]
    | none => [0, 1, 2, 3]

/-- Marks lanes bad. -/
def Port.markBad (p : Port) (m : BitVec 5) : Port := { p with badLanes := p.badLanes ||| m, newBad := true }

def laneBit (i : Nat) : BitVec 5 := BitVec.ofNat 5 (2 ^ (i % 5))

/-- The width and the spare's place that a training sets from the good lanes (R123, R152). -/
def Port.setWidth (n : Nat) (p : Port) : Port :=
  let g := goodLanes n p
  if isRsl n then { p with x2 := false, spareFor := none }
  else if g.length = 5 then { p with x2 := false, spareFor := none }
  else if g.length = 4 then { p with x2 := false, spareFor := [0, 1, 2, 3].find? fun i => decide (i ∉ g) }
  else { p with x2 := true, spareFor := if 4 ∈ g.take 2 then some 1 else none }

/-- Enough good lanes to train? -/
def Port.lanesOk (n : Nat) (p : Port) : Bool := decide (2 ≤ (goodLanes n p).length)

/-! ## Link-down and training (R147 to R150) -/

def State.cable (s : State) (k : Nat) : Cable := Tab.get Cable.empty s.power.cables k

/-- Is the port cabled and its admin bit clear (R150)? -/
def State.mayTrain (s : State) (n : Nat) : Bool :=
  if s.tok.pdLost ∨ Tab.get false s.clk.loopFault (16 + n) then false
  else if isRsl n then s.clk.running
  else s.boot.loaded && !s.boot.recovery && (s.cable (n / 8)).present && !(s.cable (n / 8)).fault &&
    !(s.cfgAt fAdminDown).testBit n

/-- What a port that leaves UP, or whose attempt ends, gives up: control flits due, the swap, the probe, the replay. A NAK
due and not yet sent is dropped with them while NAK_PENDING stays set, so after a resumption the replay timer of the far
end recovers the flit. [DESIGN CHOICE, log 155: unsafe] -/
def Port.quiet (p : Port) : Port :=
  { p with due := [], swapLane := none, goSent := false, goRcvd := false, probing := false, replay := none,
           paramSeen := false, paramSent := false, attempt := false, testing := false }

/-- A LINK_PARAM still to be filled in when it is sent. -/
def paramDue : LinkParam := ⟨0, 0, 0, 0, 0, 0, 0, 0, []⟩

/-- Begins a training attempt: LINK_PARAM becomes due; `test` for a lane test. A generation is drawn at the first one
after a module start (R148). [DEDUCED, log 67: unsafe] -/
def State.startAttempt (s : State) (n : Nat) (test : Bool) : State :=
  let (s, g) := if (s.port n).gen = 0 then s.draw else (s, 0)
  let p := s.port n
  let gen := if p.gen = 0 then max 1 (g % two32) else p.gen
  s.setPort n { p.quiet with
    st := .training, attempt := true, testing := test, gen := gen, rttWarned := false, due := [.linkParam paramDue] }

/-- A port's link goes down (R147, R150, R413). Case 8 is the loss of its replay spill (R326), which R147 does not number. -/
def State.linkDown (s : State) (n case : Nat) : State :=
  let p := s.port n
  if s.portUp n then
    let s := s.bumpPort n 20 1
    let next := if case = 5 ∨ case = 6 then PortState.down else .training
    let s := s.setPort n { p.quiet with st := next }
    let s := if isRsl n then (s.raise 0x030A sevWarning diePd (leBytes 1 (n - 64) ++ leBytes 4 (rslStatus s (n - 64)))).moveFrames (n - 64)
      else if case = 8 then
        ({ s with fresh := s.fresh + 1 }).raise 0x0302 sevNotice diePd (leBytes 1 n ++ leBytes 1 (Config.replayLostCause s.fresh))
      else s.raise 0x0302 sevNotice diePd (leBytes 1 n ++ leBytes 1 case)
    if case = 5 ∨ case = 6 ∨ case = 7 then s
    else if isRsl n ∧ !(s.port n).lanesOk n then s.setPort n { s.port n with st := .down }
    else s.startAttempt n (s.port n).newBad
  else if case = 5 ∨ case = 6 then s.setPort n { p.quiet with st := .down }
  else if p.st = .training ∧ case ≤ 4 then s.setPort n { p.quiet with testing := p.testing }
  else s

/-- EV_PORT_FAULT (R150, R344). -/
def State.raisePortFault (s : State) (n lost : Nat) : State :=
  s.raise 0x0303 sevWarning diePd (leBytes 1 n ++ leBytes 4 (portStatus (s.port n)) ++ leBytes 4 lost)

/-- The recovery mode a port chooses (R136). -/
def State.ownMode (s : State) (n : Nat) : Bool :=
  !isRsl n && decide (s.cfgIx fRecovery n = 1 ∨ 2000 < s.cfgIx fRtt n ∨ 2 < s.cfgAt fSetSize)

/-- The credits that the module grants a class (R144, R409): the four PORT.CRD fields divide the slots of a port. -/
def State.ownCrd (s : State) (n cls : Nat) : Nat :=
  if isRsl n then (if cls = 0 then 256 else 0) else s.cfgIx (fCrd cls) n

/-- The LINK_PARAM that the module sends (R148, R409). -/
def State.ownParam (s : State) (n : Nat) : LinkParam :=
  let p := s.port n
  { patternPort := n, gen := p.gen, peerGen := p.peerGen, es := p.es, portNum := if isRsl n then 0xF0 + (n - 64) else n
    mode := b2n (s.ownMode n), width := if isRsl n || (p.setWidth n).x2 then 2 else 4, resv := 0
    initCrd := (List.range 4).map (s.ownCrd n) }

/-- A trained port resumes (R149). How often the flit at OLDEST has been replayed is not cleared.
[DESIGN CHOICE, log 156: unsafe] -/
def State.resumePort (s : State) (n : Nat) (q : LinkParam) : State :=
  let s := s.takeAck n ((q.es + 65535) % 65536)
  let s := s.startReplay n (s.port n).oldest
  let p := s.port n
  s.setPort n { p with fresh := false, due := p.due ++ [.creditSync []] }

/-- A port makes a fresh start (R149): EV_PORT_FRESH but at the first training after a module start. -/
def State.freshPort (s : State) (n : Nat) (q : LinkParam) : State :=
  let p := s.port n
  let first := !Tab.get false s.boot.portTrained n
  let s := s.leaveFlight n (p.store.map fun (f : Stored) => f.flit)
  let init := ((List.range 4).map fun i => (i, q.initCrd.getD i 0)).filter fun e => decide (e.2 ≠ 0)
  let lost := p.store.length
  let s := s.setPort n { p with
    next := 0, oldest := 0, es := 0, accepted := false, nakPending := false, store := [], replay := none,
    oldestReplays := 0, slots := [], init := init, sent := [], returned := [], released := [], waiting := [],
    fresh := true }
  let s := s.bumpPort n 21 lost
  if first ∨ isRsl n then s else s.raise 0x0304 sevNotice diePd (leBytes 1 n ++ leBytes 4 lost)

/-! ## Sending (R132, R134, R140, R151) -/

/-- The LEASE_ENDED completion that takes the place of a response that carries data (R151). -/
def leaseEndedOf (m : OutMsg) : Option OutMsg :=
  let plain := { m with sess := 0, sealed := false, opData := cLeaseEnded }
  if m.opcode = 0x20 then some { plain with opcode := 0x1B, cls := clsRsp, body := [] }
  else if m.opcode = 0x1C ∧ m.opData = cOk then some { plain with body := zeros 16 }
  else none

/-- A data flit as it leaves: data responses to hosts whose LEASE_GONE bit is set are rewritten; how many.
[DEDUCED, log 157: unsafe] -/
def State.rewrite (s : State) (f : TxFlit) : TxFlit × Nat :=
  let go := fun (m : OutMsg) => if s.gone m.dst then leaseEndedOf m else none
  ({ f with msgs := f.msgs.map fun m => (go m).getD m }, (f.msgs.filter fun m => (go m).isSome).length)

/-- The payload of a data flit (R127, R154, R409). CKT and CKT_ID are set in messages that go in a circuit window, and in
no others (R170). -/
def State.dataPayload (s : State) (n : Nat) (f : TxFlit) : List Byte :=
  if isRsl n then f.msgs.flatMap rslPayload
  else
    let inWindow := decide (f.kind ≠ 0) && !s.windowsSilent
    f.msgs.flatMap fun m => m.bytes s.fabricId f.version inWindow

/-- Sends a data flit at local time `t` with a current acknowledgement and credit return; the store notes the time. -/
def State.sendData (s : State) (n : Nat) (f : Stored) (replay : Bool) (t : Nat) : State :=
  let (g, k) := if isRsl n then (f.flit, 0) else s.rewrite f.flit
  let (p, c, crd) := (s.port n).creditTurn
  let h : FlitHdr := ⟨p.accepted, seqDist p.es 1, c, crd⟩
  let pay := s.dataPayload n g
  let sent := p.store.map fun (x : Stored) => if x.seq = f.seq then { x with sentAt := t } else x
  let p := { p with store := sent, lastTx := some (.data { f with flit := g, sentAt := t } replay h.ackValid h.ackSeq c crd) }
  (s.setPort n (p.stream (flitBytes ⟨0, g.cls, h, f.seq, pay.length, 0⟩ pay))).bumpPort n 22 k

/-- Sends a control flit. -/
def State.sendCtl (s : State) (n : Nat) (x : Ctl) : State :=
  let (p, c, crd) := (s.port n).creditTurn
  let h : FlitHdr := ⟨p.accepted, seqDist p.es 1, c, crd⟩
  s.setPort n ({ p with lastTx := some (.ctl x h.ackValid h.ackSeq c crd) }.stream (ctlBytes x h))

/-- The first control flit that may go now: a GO waits for the end of a replay under way (R125), LINK_PARAM belongs to
training. -/
def Port.dueCtl (p : Port) : Option Ctl :=
  p.due.find? fun x => match x with
    | .laneSwap op _ => decide (op = 0) || p.replay.isNone
    | .linkParam _ => decide (p.st = .training)
    | _ => decide (p.st ≠ .training)

/-- A control flit is built and sent at local time `t`. -/
def State.sendDue (s : State) (n : Nat) (x : Ctl) (t : Nat) : State :=
  let p := s.port n
  let p := { p with due := p.due.erase x }
  match x with
  | .timeProbe id =>
    (s.setPort n { p with probing := true, probeAt := t, probeId := id }).sendCtl n x
  | .timeEcho id t2 _ => (s.setPort n p).sendCtl n (.timeEcho id t2 t)
  | .creditSync _ => (s.setPort n p).sendCtl n (.creditSync p.totals)
  | .linkParam _ => (s.setPort n { p with paramSent := true }).sendCtl n (.linkParam (s.ownParam n))
  | .laneSwap op _ => (s.setPort n { p with goSent := p.goSent || decide (op = 1) }).sendCtl n x
  | .nak _ => ((s.setPort n p).sendCtl n x).bumpPort n 7 1
  | .idle => (s.setPort n p).sendCtl n x

/-- Sends the next flit of a replay. Its eighth replay without progress of OLDEST takes the link down (R140). -/
def State.sendReplay (s : State) (n : Nat) (r : Replay) (f : Stored) (t : Nat) : State :=
  let p := s.port n
  let last := decide ((r.pos + 1) % 65536 = r.stop % 65536)
  let times := if r.pos = p.oldest then p.oldestReplays + 1 else p.oldestReplays
  let s := s.setPort n { p with
    replay := if last then none else some { r with pos := (r.pos + 1) % 65536 }, oldestReplays := times }
  let s := (s.sendData n f true t).bumpPort n 14 1
  if r.pos = p.oldest ∧ 8 ≤ times then
    (if isRsl n then s else s.raise 0x0306 sevWarning diePd (leBytes 1 n)).linkDown n 4
  else s

/-- Sends the first flit of the burst under way: it takes a sequence number, a credit, and a slot on the die or in the
pantry (R133, R141, R144, R172). -/
def State.sendNew (s : State) (n : Nat) (f : TxFlit) (t : Nat) : State :=
  let p := s.port n
  let pantry := !isRsl n && decide (1024 ≤ (p.store.filter fun x => !x.pantry).length)
  let st : Stored := ⟨p.next, f, pantry, t⟩
  let isOver := decide (p.sending.length = 1 ∧ p.overrunTo * 1000 < t * 1000 + s.flitPs n) && !isRsl n
  let s := s.setPort n { p with
    next := (p.next + 1) % 65536
    sending := p.sending.drop 1
    store := p.store ++ [st]
    sent := Tab.set 0 p.sent f.cls ((Tab.get 0 p.sent f.cls + 1) % two32) }
  let s := (s.sendData n st false t).bumpPort n 0 1
  let s := if pantry then s.bumpPort n 15 1 else s
  let s := if isRsl n then s else s.bumpPort n (if f.kind = 0 ∨ s.windowsSilent = true then 24 else 25) 1
  if isOver then s.bumpPort n 27 1 else s

/-- A port that has a new data flit to send while outstanding is at the cap stalls, whatever it sends (R142). -/
def State.markStall (s : State) (n : Nat) : State :=
  let p := s.port n
  if p.sending ≠ [] ∧ s.flitCap n ≤ p.outstanding then s.setPort n { p with stalledEpoch := true } else s

/-- Items three and four of R132: a new data flit when the cap and a credit allow, else IDLE. -/
def State.sendFresh (s : State) (n t : Nat) : State :=
  let (s, fs) := if isRsl n ∧ (s.port n).sending = [] then s.nextFrame (n - 64) else (s, (s.port n).sending)
  let s := (s.setPort n { s.port n with sending := fs }).markStall n
  match fs with
  | [] => s.sendCtl n .idle
  | f :: _ =>
    let p := s.port n
    if s.flitCap n ≤ p.outstanding ∨ p.avail f.cls = 0 then s.sendCtl n .idle
    else s.sendNew n f t

end Sys2Proof.Machine
end

