-- ==== Sys2Proof/Machine/Link.lean ====
section
/-! DEFINITION. The meanings of the link-layer commands (R122 to R153, R408 to R413). -/

set_option Elab.async false

namespace Sys2Proof.Machine
open Sys2Proof

/-- FLIT_TX at ns `atNs` of the epoch: a due control flit, the next flit of a replay, a new data flit, or IDLE (R132). A
replay whose next flit has been acknowledged is cancelled first (R140). -/
def execFlitTx (port atNs : Nat) (s : State) : Out :=
  .next (
    let t := 4096 * s.epoch + atNs
    let p := s.port port
    if p.resetIdle ∨ s.clk.txIdle ∨ (!s.portUp port ∧ !p.attempt) then s
    else
      let s := s.markStall port
      match p.dueCtl with
      | some x => s.sendDue port x t
      | none =>
        if !s.portUp port then s
        else match p.replay with
          | none => (s.sendFresh port t).judgeThrottle port
          | some r => match p.store.find? fun f => decide (f.seq = r.pos) with
            | some f => s.sendReplay port r f t
            | none => ((s.setPort port { s.port port with replay := none }).bumpPort port 13 1).sendFresh port t)

/-! ## Receiving data flits (R131, R135, R155) -/

/-- The messages of a well-formed data flit; none where the flit is malformed (R131, R155, R409). Those of an RSL port are
parts of command frames. -/
def dataMsgs (n : Nat) (f : RawFlit) (marks : List (Nat × Nat)) : Option (List ReqHdr) :=
  if !rawFormed f then none
  else if isRsl n then (if (rawWord f).typ = 0 then some [] else none)
  else rawHeaders f n marks

/-- A message of an accepted flit: discarded under R155, or noted as heard, and journaled when it is a request. The
JIDX of a request that the full journal keeps waiting. -/
def State.takeMessage (s : State) (cls : Nat) (m : ReqHdr) : State × List Nat :=
  if m.dst ≠ s.fabricId then (s.bumpPort m.port 30 1, [])
  else if !s.srcAdmitted m.src then (s.bumpPort m.port 31 1, [])
  else
    let s := { s with fab := { s.fab with heard := Tab.set none s.fab.heard m.src (some m.port) } }
    if cls ≠ clsReq ∨ (s.journaled m.jidx).isSome then (s, [])
    else if 262144 ≤ s.twin.reqs.length then ({ s with twin := { s.twin with fullEpoch := true } }, [m.jidx])
    else (s.journalIn m false, [])

def State.takeMessages (s : State) (cls : Nat) : List ReqHdr → State × List Nat
  | [] => (s, [])
  | m :: ms =>
    let (s, a) := s.takeMessage cls m
    let (s, b) := State.takeMessages s cls ms
    (s, a ++ b)

/-- Flits of a class in the ingress buffer. -/
def Port.slotsOf (p : Port) (cls : Nat) : Nat := (p.slots.filter fun x => decide (x.cls = cls)).length

/-- Accepts the flit that was expected into a slot of its class (R135, R144). -/
def State.acceptFlit (s : State) (n cls : Nat) (msgs : List ReqHdr) : State :=
  let p := s.port n
  let s := (s.setPort n { p with es := (p.es + 1) % 65536, nakPending := false, accepted := true }).bumpPort n 1 1
  let (s, waiting) := s.takeMessages cls msgs
  let p := s.port n
  s.setPort n { p with slots := p.slots ++ [⟨cls, waiting, if cls = clsReq then msgs.map (·.jidx) else []⟩] }

/-- DATA_FLIT_RX (R135). A flit sent without a credit finds no slot of its class: it is not taken, as though it had been
bad. [DEDUCED, log 70: unsafe] [DESIGN CHOICE, log 153: unsafe] -/
def execDataFlitRx (port : Nat) (f : RawFlit) (marks : List (Nat × Nat)) (s : State) : Out :=
  .next (
    if !s.portUp port then s
    else
      let s := s.bumpPort port 3 f.fecBad
      let w := rawWord f
      if rawBad f then s.badFlit port
      else if w.kind = 1 then s
      else match dataMsgs port f marks with
        | none => s.badFlit port
        | some msgs =>
          let s := s.goodFlit port w.hdr
          let d := seqDist w.seq (s.port port).es
          if d = 0 then
            (if (s.port port).slotsOf w.typ < s.ownCrd port w.typ then s.acceptFlit port w.typ msgs else s.badFlit port)
          else if d ≤ 32767 then (s.setPort port (s.port port).askReplay).bumpPort port 4 1
          else s.bumpPort port 5 1)

/-! ## Receiving control flits (R130, R131, R138, R146, R82, R125) -/

/-- A malformed control flit is discarded and counted (R131). -/
def State.malformed (s : State) (n : Nat) : State := s.bumpPort n 6 1

/-- Control types that an RSL port never carries (R409). -/
def rslForbids (n typ : Nat) : Bool := isRsl n && decide (3 ≤ typ ∧ typ ≤ 5 ∨ typ = typLaneSwap)

/-- A flit received where a control flit of type `typ` is looked for: bad, malformed, of another type (which its own
command takes), or taken, its header first. A reserved KIND makes a flit bad. [DESIGN CHOICE, log 154: unsafe] -/
def State.onControl (s : State) (n : Nat) (f : RawFlit) (typ : Nat) (k : State → State) : State :=
  let s := s.bumpPort n 3 f.fecBad
  let w := rawWord f
  if rawBad f then s.badFlit n
  else if w.kind ≠ 1 then (if rawFormed f then s else s.badFlit n)
  else if !rawFormed f ∨ rslForbids n w.typ = true ∨ (w.typ = typLaneSwap ∧ rawSwapFormed f = false) then s.malformed n
  else if w.typ ≠ typ then s
  else k (s.goodFlit n w.hdr)

/-- The same on a port that is UP. -/
def State.control (s : State) (n : Nat) (f : RawFlit) (typ : Nat) (k : State → State) : State :=
  if s.portUp n then s.onControl n f typ k else s

/-- IDLE: its acknowledgement and credit return are applied. -/
def execIdle (port : Nat) (f : RawFlit) (s : State) : Out := .next (s.control port f typIdle fun s => s)

/-- NAK_SEQ `q` reaches the sender (R138). -/
def State.takeNak (s : State) (port q : Nat) : State :=
  let s := s.bumpPort port 8 1
  let p := s.port port
  if p.timeoutMode then s
  else if p.outstanding < seqDist q p.oldest then s.bumpPort port 9 1
  else
    let s := s.freeTo port q
    let p := s.port port
    let same := match p.replay with
      | some r => decide (r.start = q % 65536)
      | none => false
    if seqDist p.next q = 0 ∨ same = true then s
    else (s.startReplay port (q % 65536)).bumpPort port 11 1

/-- NAK (R138). A sender in timeout mode starts replays by its timer alone (R139). [DEDUCED, log 65: unsafe] -/
def execNak (port : Nat) (f : RawFlit) (s : State) : Out :=
  .next (s.control port f typNak fun s => s.takeNak port (rawField f 0 2))

/-- One class of a CREDIT_SYNC (R146). -/
def State.syncClass (s : State) (n cls total : Nat) : State :=
  let p := s.port n
  let sent := Tab.get 0 p.sent cls
  let ret := Tab.get 0 p.returned cls
  let g := (total + two32 - ret) % two32
  if g = 0 then s
  else if g ≤ (sent + two32 - ret) % two32 then (s.setPort n (p.addReturned cls g)).bumpPort n 17 g
  else
    let s := (s.setPort n { p with returned := Tab.set 0 p.returned cls sent }).bumpPort n 18 1
    s.raise 0x0307 sevWarning diePd (leBytes 1 n ++ leBytes 1 cls)

/-- CREDIT_SYNC; one in a bad flit is lost (R146). -/
def execCreditSync (port : Nat) (f : RawFlit) (s : State) : Out :=
  .next (
    let s' := s.control port f typCreditSync fun s =>
      [0, 1, 2, 3].foldl (fun s c => s.syncClass port c (rawField f (4 * c) 4)) s
    if s.portUp port && rawBad f then s'.bumpPort port 19 1 else s')

/-- TIME_PROBE: it is answered with TIME_ECHO carrying t2 and t3 (R82); the latter is taken as the echo leaves.
[DEDUCED, log 66: unsafe] -/
def execTimeProbe (port : Nat) (f : RawFlit) (t2 : Nat) (s : State) : Out :=
  .next (s.control port f typTimeProbe fun s =>
    let p := s.port port
    s.setPort port { p with due := p.due ++ [.timeEcho (rawField f 0 8) t2 0] })

/-- TIME_ECHO: the one-way delay is computed and judged (R82), and the round trip held against PORT.RTT_NS (R137). A
negative delay is a measurement that failed. [DESIGN CHOICE, log 160: unsafe] -/
def execTimeEcho (port : Nat) (f : RawFlit) (t4 : Nat) (s : State) : Out :=
  .next (s.control port f typTimeEcho fun s =>
    let p := s.port port
    if !p.probing ∨ p.probeId ≠ rawField f 0 8 then s
    else
      let d : Int := ((t4 : Int) - p.probeAt - ((rawField f 16 8 : Int) - rawField f 8 8)) / 2
      if d < 0 ∨ 100000 < d then s.setPort port { p with probing := false, measured := false }
      else
        let rtt := 2 * d.toNat
        let warn := decide (s.cfgIx fRtt port * 5 < rtt * 4) && !p.rttWarned
        let s := s.setPort port
          { p with probing := false, measured := true, delay := some d.toNat, rttWarned := p.rttWarned || warn }
        if warn then s.raise 0x0308 sevNotice diePd (leBytes 1 port ++ leBytes 4 rtt) else s)

/-- Does a LINK_PARAM hold a reserved value, or a port number other than the training pattern's (R148, R409)? -/
def linkParamBad (q : LinkParam) (n : Nat) : Bool :=
  decide (q.gen = 0 ∨ 1 < q.mode ∨ (q.width ≠ 4 ∧ q.width ≠ 2) ∨ q.resv ≠ 0 ∨ q.portNum ≠ q.patternPort) ||
    (if isRsl n then decide (q.portNum ≠ 0xF0 + (n - 64) ∨ q.mode ≠ 0 ∨ q.width ≠ 2) else decide (63 < q.portNum))

/-- Does a port resume on this LINK_PARAM: it was trained before, and both ends know each other's generation (R149)? -/
def State.resumes (s : State) (n : Nat) (q : LinkParam) : Bool :=
  let p := s.port n
  Tab.get false s.boot.portTrained n && decide (q.gen = p.peerGen ∧ q.peerGen = p.gen ∧ p.peerGen ≠ 0)

/-- The far end's LINK_PARAM is taken: the mode is agreed, and the port resumes or makes a fresh start (R136, R149). -/
def State.takeParam (s : State) (port : Nat) (q : LinkParam) : State :=
  let p := s.port port
  if linkParamBad q port then s.setPort port p.quiet
  else
    let again := s.resumes port q
    let s := s.setPort port { p with
      paramSeen := true, peerGen := q.gen, timeoutMode := s.ownMode port || decide (q.mode = 1 ∧ port < 64) }
    if again then s.resumePort port q else s.freshPort port q

/-- LINK_PARAM at the end of training. -/
def execLinkParam (port : Nat) (f : RawFlit) (patternPort : Nat) (s : State) : Out :=
  .next (
    let p := s.port port
    if p.st ≠ .training ∨ !p.attempt ∨ p.testing ∨ !p.lanesOk port then s
    else s.onControl port f typLinkParam fun s => s.takeParam port (rawParam f patternPort))

/-- The lane `lane` is declared faulty by this end (R124, R125, R147, R409). -/
def State.laneFaulty (s : State) (n lane : Nat) : State :=
  let p := s.port n
  let data := decide (lane ∈ dataLanes n p)
  let spare := p.standby n
  if p.badLanes.getLsbD lane then s
  else
    let s := s.setPort n (p.markBad (laneBit lane))
    if !data then s
    else if p.st = .up ∧ spare then
      let p := s.port n
      s.setPort n { p with st := .swap, swapLane := some lane, due := p.due ++ [.laneSwap 0 lane] }
    else s.linkDown n 3

/-- Lanes found faulty while a port trains: two data lanes or more, or one with no spare in standby, end the attempt (R147);
otherwise the training goes on without the lane. -/
def State.laneTraining (s : State) (n : Nat) (lanes : BitVec 5) : State :=
  let p := s.port n
  let w := p.setWidth n
  let data := ((List.range (laneCount n)).filter fun i => lanes.getLsbD i).filter fun i => decide (i ∈ dataLanes n w)
  let s := s.setPort n (p.markBad lanes)
  if 2 ≤ data.length then s.linkDown n 2
  else if data ≠ [] ∧ w.standby n = false then s.linkDown n 3
  else s

/-- A REQUEST from the far end: the lane is bad, and the swap starts with GO due (R125). -/
def State.swapRequest (s : State) (port lane : Nat) : State :=
  let p := s.port port
  let spare := p.standby port
  if p.st = .swap ∧ p.swapLane = some lane then
    (if p.goSent then s else s.setPort port { p with due := p.due ++ [.laneSwap 1 lane] })
  else
    let s := s.setPort port (p.markBad (laneBit lane))
    let p := s.port port
    if p.st = .up ∧ spare then
      s.setPort port { p with st := .swap, swapLane := some lane, due := p.due ++ [.laneSwap 1 lane] }
    else s.linkDown port 3

/-- A GO from the far end: the finder answers with its own (R125). -/
def State.swapGo (s : State) (port lane : Nat) : State :=
  let p := s.port port
  if p.st = .swap then
    let queued := p.due.any fun x => match x with
      | .laneSwap o _ => decide (o = 1)
      | _ => false
    let due := if p.goSent ∨ queued then p.due else p.due ++ [.laneSwap 1 (p.swapLane.getD lane)]
    s.setPort port { p with goRcvd := true, due := due }
  else s

/-- LANE_SWAP (R125). -/
def execLaneSwap (port : Nat) (f : RawFlit) (s : State) : Out :=
  .next (s.control port f typLaneSwap fun s =>
    if rawField f 0 1 = 0 then s.swapRequest port (rawField f 1 1) else s.swapGo port (rawField f 1 1))

/-- MALFORMED_CONTROL_FLIT (R131): no type takes it, so what is bad or malformed in it is counted, and nothing else. -/
def execMalformedControlFlit (port : Nat) (f : RawFlit) (s : State) : Out := .next (s.control port f 16 fun s => s)

/-! ## Timers and lanes (R124, R137, R147, R150) -/

/-- The period of a port's replay timer, in ns (R137, R409). -/
def State.replayPeriod (s : State) (n : Nat) : Nat :=
  if isRsl n then 2000
  else max (s.cfgIx fRtt n) (match (s.port n).delay with
    | some d => 2 * d
    | none => 0) + 512

/-- Has the timer run its period since the last transmission of the flit at OLDEST? -/
def State.timerRun (s : State) (n t : Nat) : Bool :=
  let p := s.port n
  match p.store.find? fun f => decide (f.seq = p.oldest) with
  | some f => decide (f.sentAt + s.replayPeriod n ≤ t)
  | none => false

/-- REPLAY_TIMER_EXPIRY at ns `atNs` of the epoch: a replay starts from OLDEST (R137). -/
def execReplayTimerExpiry (port atNs : Nat) (s : State) : Out :=
  .next (
    let p := s.port port
    if !s.portUp port ∨ p.outstanding = 0 ∨ s.timerRun port (4096 * s.epoch + atNs) = false then s
    else (s.startReplay port p.oldest).bumpPort port 12 1)

/-- LINK_SILENCE_TIMEOUT: the first case of R147. -/
def execLinkSilenceTimeout (port : Nat) (s : State) : Out := .next (s.linkDown port 1)

/-- LANE_LOCK_LOSS: two data lanes or more at once take the link down; one is a lane fault (R124, R147, R409). -/
def execLaneLockLoss (port : Nat) (lanes : BitVec 5) (s : State) : Out :=
  .next (
    let p := s.port port
    let lost := (List.range (laneCount port)).filter fun i => lanes.getLsbD i
    if lost = [] then s
    else if p.st = .training then s.laneTraining port lanes
    else if !s.portUp port then s
    else
      let data := lost.filter fun i => decide (i ∈ dataLanes port p)
      if 2 ≤ data.length then (s.setPort port (p.markBad lanes)).linkDown port 2
      else lost.foldl (fun s i => s.laneFaulty port i) s)

/-- LANE_FEC_FAULT: more than 4,096 corrected symbols in each of 4 successive epochs (R124). -/
def execLaneFecFault (port lane : Nat) (corrected : List Nat) (s : State) : Out :=
  .next (
    if corrected.length < 4 ∨ corrected.any (fun c => decide (c ≤ 4096)) ∨ laneCount port ≤ lane then s
    else if s.portUp port then s.laneFaulty port lane
    else if (s.port port).st = .training then s.laneTraining port (laneBit lane)
    else s)

/-- TRAINING_START: a port that may train starts, and the lane test finds the lanes `bad`, those already marked included
(R58, R123, R150). Also the lane test of an attempt that has one due. [DEDUCED, log 69: safe] -/
def execTrainingStart (port : Nat) (bad : BitVec 5) (s : State) : Out :=
  .next (
    let p := s.port port
    let mask : BitVec 5 := if isRsl port then bad &&& 3 else bad
    let judged := fun (s : State) =>
      let p := s.port port
      s.setPort port (({ p with badLanes := p.badLanes ||| mask, newBad := false, testing := false } : Port).setWidth port)
    if 65 < port ∨ p.resetIdle ∨ s.clk.txIdle ∨ !s.mayTrain port then s
    else if p.st = .down ∧ !(isRsl port && !p.lanesOk port) then judged (s.startAttempt port true)
    else if p.st = .training ∧ p.attempt ∧ p.testing then judged s
    else s)

/-- TRAINING_DONE: UP once LINK_PARAM has been sent and received, FAULT with fewer than two good lanes; an RSL port with a bad
lane stays DOWN (R150, R409). -/
def execTrainingDone (port : Nat) (s : State) : Out :=
  .next (
    let p := s.port port
    if p.st ≠ .training ∨ !p.attempt ∨ p.testing then s
    else if !p.lanesOk port then
      if isRsl port then
        (s.setPort port { p.quiet with st := .down }).raise 0x030A sevWarning diePd
          (leBytes 1 (port - 64) ++ leBytes 4 (rslStatus (s.setPort port { p.quiet with st := .down }) (port - 64)))
      else (s.setPort port { p.quiet with st := .fault }).raisePortFault port 0
    else if !p.paramSeen ∨ !p.paramSent then s
    else
      let p := { p.setWidth port with bits := 0, bitCount := 0 }
      let probe := if isRsl port then [] else [Ctl.timeProbe s.epoch]
      let due := (p.due.filter fun x => match x with
        | .linkParam _ => false
        | _ => true) ++ probe
      let s := s.setPort port { p with st := .up, attempt := false, paramSeen := false, paramSent := false, due := due }
      let s := { s with boot := { s.boot with portTrained := Tab.set false s.boot.portTrained port true } }
      if isRsl port then s
      else s.raise 0x0301 sevInfo diePd (leBytes 1 port ++ leBytes 4 (portStatus (s.port port))))

/-- TRAINING_TIMEOUT: the attempt ends; another follows 10 ms later (R150). -/
def execTrainingTimeout (port : Nat) (s : State) : Out :=
  .next (
    let p := s.port port
    if p.st = .training ∧ p.attempt then s.setPort port { p.quiet with testing := p.testing } else s)

/-- TRAINING_RETRY: a new attempt starts; its lane test is skipped unless a lane has been marked bad since the last. -/
def execTrainingRetry (port : Nat) (s : State) : Out :=
  .next (
    let p := s.port port
    if p.st = .training ∧ !p.attempt ∧ !p.resetIdle ∧ s.mayTrain port then s.startAttempt port (p.testing || p.newBad)
    else s)

/-- LANE_SWAP_DONE: both GO flits exchanged; LS carries the lane's data (R125, R150). -/
def execLaneSwapDone (port : Nat) (s : State) : Out :=
  .next (
    let p := s.port port
    if p.st ≠ .swap ∨ !p.goSent ∨ !p.goRcvd then s
    else
      let lane := p.swapLane.getD 0
      let s := s.setPort port
        { p with st := .up, spareFor := some lane, swapLane := none, goSent := false, goRcvd := false }
      s.raise 0x0305 sevNotice diePd (leBytes 1 port ++ leBytes 1 lane))

/-- The oldest slot of a class. -/
def takeSlot (cls : Nat) : List Slot → Option (Slot × List Slot)
  | [] => none
  | x :: xs =>
    if x.cls = cls then some (x, xs)
    else (takeSlot cls xs).map fun r => (r.1, x :: r.2)

/-- The flits a paced module takes in per epoch: the power loop's inflow in GB/s, 244 bytes each (R64, R65). -/
def State.pacedFlits (s : State) : Nat := s.power.inflow * epochNs / payloadBytes

/-- Does the power loop hold back further credits in this epoch (R65, R145)? 6,400 GB/s is no limit.
[DESIGN CHOICE, log 161: safe] -/
def State.inflowSpent (s : State) (n : Nat) : Bool :=
  !isRsl n && decide (s.power.inflow < 6400 ∧ s.pacedFlits ≤ s.fab.paced)

/-- Does the stockpot's rate hold back a slot: a contribution of it is still to be combined, in a buffer whose accumulators
lie in the stacks or that rounds stochastically (R145, R286, R287)? [DEDUCED, log 162: safe] -/
def State.stockPaces (s : State) (x : Slot) : Bool :=
  s.stock.jobs.any fun j =>
    let b := s.buf j.buf
    decide (j.hdr.jidx ∈ x.reqs ∧ (b.memory = true ∨ b.storeBlocks < b.blocks ∨ b.rmode = 2))

/-- INGRESS_SLOT_RELEASE: the oldest slot of a class all of whose messages have been passed on is released. Releases are
delayed while the power loop or the stockpot paces, while no die holds the token, while the outputs are held, and on the
service link while 1,024 commands are open (R145, R374, R415). -/
def execIngressSlotRelease (port cls : Nat) (s : State) : Out :=
  .next (
    let p := s.port port
    if !s.attended ∨ (isRsl port ∧ 1024 ≤ s.openCommands) ∨ s.inflowSpent port = true then s
    else match takeSlot cls p.slots with
      | none => s
      | some (x, rest) =>
        if (x.jidxs.any fun j => decide (s.twin.nextJidx ≤ j)) ∨ s.stockPaces x = true then s
        else
          let s := if isRsl port then s else { s with fab := { s.fab with paced := s.fab.paced + 1 } }
          s.setPort port ({ p with slots := rest }.addReleased cls))

/-! ## Port resets (R112, R114) -/

/-- PORT_RESET: the port goes idle; the completion waits until training has begun or the idle has ended. -/
def execPortReset (c : RslCmd) (port : Nat) (s : State) : Out :=
  .next (s.rslGate c 0x0102 false fun s =>
    if 63 < port then s.rslAnswer c 0x0102 cMalformed 0 []
    else
      let s := if s.portUp port then s.linkDown port 7 else s
      let p := s.port port
      let s := s.setPort port { p.quiet with st := if s.mayTrain port then .training else .down, resetIdle := true }
      { s with boot := { s.boot with
        portResetOwed := Tab.set [] s.boot.portResetOwed port (Tab.get [] s.boot.portResetOwed port ++ [.rsl c]) } })

/-- PORT_RESET_IDLE_END: after 100 us training starts as after a cable is fitted, or the port stays DOWN; the held
completions go out. -/
def execPortResetIdleEnd (port : Nat) (s : State) : Out :=
  .next (
    let p := s.port port
    if !p.resetIdle then s
    else
      let s := s.setPort port { p with resetIdle := false }
      let s := if s.mayTrain port then s.startAttempt port true else s.setPort port { s.port port with st := .down }
      let owed := Tab.get [] s.boot.portResetOwed port
      let s := { s with boot := { s.boot with portResetOwed := Tab.set [] s.boot.portResetOwed port [] } }
      owed.foldl (fun (s : State) o => s.release ⟨o, 0x0102, 0, cOk, 0, [], []⟩) s)

end Sys2Proof.Machine
end

