-- ==== Sys2Proof/Machine/ControlOps.lean ====
section
/-! DEFINITION. Resets and losses (R4, R30, R51, R55, R76, R94, R95, R197, R307, R354, R368, R377, R379): module reset and
turn-off, the loss of a control die, of a hub, of the ports and of a rail. -/

set_option Elab.async false

namespace Sys2Proof.Machine
open Sys2Proof

/-! ## Rails (R53, R55) -/

def State.rail (s : State) (r : Nat) : Rail := Tab.get Rail.empty s.power.rails r

def State.setRail (s : State) (r : Nat) (x : Rail) : State :=
  { s with power := { s.power with rails := Tab.set Rail.empty s.power.rails r x } }

def railOpen (s : State) (r : Nat) : Bool := decide ((s.rail r).st = .fuseOpen)

/-- Has a control die lost a rail (R55)? Dies 0 and 1. -/
def State.dieGone (s : State) (die : Nat) : Bool :=
  railOpen s (2 + 2 * die) || railOpen s (3 + 2 * die)

/-- The port link and the hub links of a control die, in the order of EV_D2D_LINK (R20, R21). -/
def controlLinks (die : Nat) : List Nat := if die = dieCdA then [0, 2, 3] else [1, 4, 5]

/-- Is a control die lost: its rail, a loop (R77), or one of its links (R21)? -/
def State.dieDead (s : State) (die : Nat) : Bool :=
  s.dieGone die || Tab.get false s.clk.loopFault die || (controlLinks die).any fun l => Tab.get false s.tok.linkDown l

/-- Is an obeying die lost (R30)? -/
def State.odLost (s : State) (od : Nat) : Bool := if od = odPd then s.tok.pdLost else s.hubGone od

/-- The obeying dies that are not lost. -/
def State.odsAlive (s : State) : List Nat := [0, 1, 2].filter fun od => !s.odLost od

/-! ## Token messages (R27, R28) -/

/-- The link between a control die and an obeying die (R20). -/
def tokLink (die od : Nat) : Nat := if od = odPd then die else 2 + 2 * die + od

/-- Sends a token message over a link that works; one of its kind still on its way is not doubled. -/
def State.sendTok (s : State) (k : TokKind) (die od : Nat) : State :=
  if ⟨k, die, od⟩ ∈ s.tok.sent ∨ Tab.get false s.tok.linkDown (tokLink die od) then s
  else { s with tok := { s.tok with sent := s.tok.sent ++ [⟨k, die, od⟩] } }

def State.sendToks (s : State) (k : TokKind) (die : Nat) (ods : List Nat) : State :=
  ods.foldl (fun (s : State) od => s.sendTok k die od) s

/-- An obeying die replies over a link that works. -/
def State.replyTok (s : State) (die od : Nat) (r : TokReply) : State :=
  if Tab.get false s.tok.linkDown (tokLink die od) then s
  else { s with tok := { s.tok with replies := s.tok.replies ++ [⟨die, od, r⟩] } }

/-- The control die that is not active. -/
def State.tenderDie (s : State) : Nat := if s.tok.active = some dieCdB then dieCdA else dieCdB

/-! ## Module reset and turn-off (R4, R51, R95, R119) -/

/-- What a module reset leaves: the fuses, the flash devices, the cables, the input stage, and the commands that wait.
Every other part is as State.reset has it. [DESIGN CHOICE, log 19: unsafe] -/
def State.wiped (s : State) (p : Power) : State :=
  { State.reset with
    pending := s.pending
    power := p
    boot := { Boot.reset with
      oscDly := s.boot.oscDly, setIndex := s.boot.setIndex, lc := s.boot.lc, cause := s.boot.cause,
      flashA := s.boot.flashA, flashB := s.boot.flashB }
    sec := { Sec.reset with
      signerDigest := s.sec.signerDigest, signerKey := s.sec.signerKey, pairKey := s.sec.pairKey,
      idSeed := s.sec.idSeed, sealSecret := s.sec.sealSecret, identity := s.sec.identity, sealDead := s.sec.sealDead, minSec := s.sec.minSec, dbgLock := s.sec.dbgLock,
      dbgReopen := s.sec.dbgReopen }
    fresh := s.fresh }

/-- Rails of a module in reset: every rail off but VBUS_12 and V3P3_AUX, every eFuse armed again (R95). -/
def resetRails : Tab Rail := [(0, ⟨.inWindow, false⟩), (1, ⟨.inWindow, false⟩)]

/-- Rails during soft start: VBUS_12 and V3P3_AUX come up (R50, R96). -/
def softRails : Tab Rail := [(0, ⟨.enabled, false⟩), (1, ⟨.enabled, false⟩)]

/-- A cable's contacts with the feed of CBL_3V3 on while V3P3_AUX is up and a cable is fitted (R43). Its identity has yet
to be read. -/
def Cable.fed (c : Cable) (aux : Bool) : Cable := { c with power := aux && c.present, readId := none }

/-- The port die reads the identity memory of a fitted cable (R43). -/
def Cable.identified (c : Cable) : Cable := { c with readId := if c.present then some c.identity else none }

def feedCables (aux : Bool) (t : Tab Cable) : Tab Cable := t.map fun (e : Nat × Cable) => (e.1, e.2.fed aux)

/-- Module reset begins (R95). The input stage, the cables and the input's condition stay; a soft start under way goes
on. -/
def State.moduleReset (s : State) (cause : Nat) : State :=
  let soft := s.power.softStart
  let p := { Power.reset with
    inputOn := s.power.inputOn, range := s.power.range, cutOff := s.power.cutOff, reversed := s.power.reversed,
    inFaultLow := s.power.inFaultLow, modRstLow := s.power.modRstLow, svcRstLow := s.power.svcRstLow,
    inReset := true, softStart := soft, rails := if soft then softRails else resetRails
    cables := feedCables (!soft) s.power.cables }
  let s := s.wiped p
  { s with boot := { s.boot with cause := cause } }

/-- The input stage turns off: all state ends (R51). Cable contacts stay as the cables are, without their feed. -/
def State.turnOff (s : State) : State :=
  s.wiped { Power.reset with
    cutOff := s.power.cutOff, reversed := s.power.reversed, inFaultLow := s.power.inFaultLow,
    tripOff := s.power.tripOff, cables := feedCables false s.power.cables }

/-- Power is applied: soft start begins (R50, R96). -/
def State.applyPower (s : State) (cause : Nat) : State :=
  let s := { s with power := { s.power with inputOn := true, softStart := true, tripOff := false, rails := softRails } }
  { s with boot := { s.boot with cause := cause } }

/-! ## The tender is lost or unsynchronised (R354, R377) -/

/-- Nothing of the state copy is kept while the tender does not take it (R357, R384). -/
def State.dropCopy (s : State) : State :=
  let waiting := s.sec.changes.flatMap (·.2)
  let s := { s with
    sec := { s.sec with changes := [], tenderStore := KeyStore.empty }
    twin := { s.twin with journal := [], cuts := [], copy := none, mirror0 := [], mirror1 := [], mirrorGood := 0, readThis := [],
                          resyncAt := none, resyncFrom := none, keyStoreSent := false } }
  s.releaseAll waiting

/-- A control die reset begins (R113): the die is not ready until it has read its sections again. Its loops lock afresh,
and its links to the obeying dies start afresh. [DESIGN CHOICE, log 147: unsafe] -/
def State.resetDie (s : State) (die : Nat) : State :=
  { s with
    boot := { s.boot with
      readyA := s.boot.readyA && decide (die ≠ dieCdA), readyB := s.boot.readyB && decide (die ≠ dieCdB) }
    clk := { s.clk with loopFault := Tab.set false s.clk.loopFault die false }
    tok := { s.tok with
      linkDown := (controlLinks die).foldl (fun t l => Tab.set false t l false) s.tok.linkDown
      retries := (controlLinks die).foldl (fun t l => Tab.set 0 t l 0) s.tok.retries
      sent := s.tok.sent.filter fun m => decide (m.die ≠ die)
      replies := s.tok.replies.filter fun a => decide (a.die ≠ die) } }

/-- The restart policy for the die that is not active; `gone`: its rail is lost or its tender link has failed. -/
def State.restartPolicy (s : State) (gone : Bool) : State :=
  if gone then { s with twin := { s.twin with tender := .absent } }
  else if s.cfgAt fAutoReset = 1 ∧ s.twin.autoResets < s.cfgAt fResetLimit then
    ({ s with twin := { s.twin with tender := .resetting, autoResets := s.twin.autoResets + 1 } }).resetDie s.tenderDie
  else ({ s with twin := { s.twin with tender := .held } }).raise 0x0705 sevWarning s.actDie (leBytes 1 s.tenderDie)

/-- PAIRED_CHECKs that wait when paired check ends without them. -/
def State.endPaired (s : State) (code value : Nat) : State :=
  let owed := match s.repro.paired with
    | .entryAt _ o => o
    | .exitAt _ o => o
    | _ => []
  let s := { s with repro := { s.repro with paired := .off } }
  owed.foldl (fun s v => match v with
    | .rsl c => s.rslDone 0x10B c.tag c.port code value []
    | _ => s) s

/-- The tender is lost or fails (R307, R354). -/
def State.loseTender (s : State) (gone : Bool) : State :=
  match s.twin.tender with
  | .resync => ((s.raise 0x0703 sevWarning s.actDie (leBytes 8 (twinStatus s))).dropCopy.endPaired cBusy (s.epoch + 256)).restartPolicy gone
  | .synced => ((s.raise 0x0703 sevWarning s.actDie (leBytes 8 (twinStatus s))).dropCopy.endPaired cBusy (s.epoch + 256)).restartPolicy gone
  | .paired => ((s.raise 0x0504 sevWarning s.actDie []).endPaired cOk 0).restartPolicy gone
  | .resetting => if gone then { s with twin := { s.twin with tender := .absent } } else s
  | .held => if gone then { s with twin := { s.twin with tender := .absent } } else s
  | .absent => s

/-! ## The active die is lost (R197, R307, R368, R370) -/

/-- The active die stops: it commands nothing and the port die holds its outputs (R30, R368, R374). While it can still
speak it sends FAIL_NOTICE, and, where it judges itself failed, TOKEN_RELEASE to every obeying die it reaches. With no
synchronised tender, or in paired check, that is fatal to the pool (R197). -/
def State.activeStops (s : State) (speaks release : Bool) : State :=
  match s.tok.active with
  | none => s
  | some d =>
    let fatal := decide (s.twin.tender ≠ .synced)
    let s := { s with
      tok := { s.tok with silent := true, sent := s.tok.sent.filter fun m => decide (m.die ≠ d) }
      twin := { s.twin with paused := true, failSent := speaks && !Tab.get false s.tok.linkDown 8 } }
    let s := if speaks && release then s.sendToks .release d s.odsAlive else s
    if fatal then s.poolFatal 1 else s

/-- The tender judges the active die lost (R367). -/
def State.judgeLost (s : State) (cause : Nat) : State :=
  if s.twin.tender ≠ .synced ∨ s.tok.active.isNone ∨ s.twin.detectedAt.isSome then s
  else { s with
    tok := { s.tok with silent := true, claimant := some s.tenderDie, claimGrants := [], claimSince := s.epoch,
                        claimCause := cause }
    twin := { s.twin with paused := true, detectedAt := some s.epoch, failSent := false } }

/-- Control die `die` is lost; `gone` when its rail is. Before a die is active, the lost die neither becomes ready nor
claims; without its rail it is ABSENT as the tender (R55, R354). -/
def State.dieLost (s : State) (die : Nat) (gone : Bool) : State :=
  if s.tok.active = some die then s.activeStops (!gone) true
  else if s.tok.active.isSome then s.loseTender gone
  else { s with
    boot := { s.boot with
      readyA := s.boot.readyA && decide (die ≠ dieCdA), readyB := s.boot.readyB && decide (die ≠ dieCdB) }
    twin := { s.twin with tender := if gone then .absent else s.twin.tender }
    tok := { s.tok with
      claimant := if s.tok.claimant = some die then none else s.tok.claimant
      claimGrants := if s.tok.claimant = some die then [] else s.tok.claimGrants
      sent := s.tok.sent.filter fun m => decide (m.die ≠ die) } }

/-! ## Parts that fail, and the pantry (R196, R326) -/

/-- Does an item of a pantry partition, `n` lines long, lie on a line of the pantry that `bad` picks? -/
def pantryHit (bad : Nat → Bool) (part item n : Nat) : Bool :=
  (List.range n).any fun i => isPantry (Config.pantryLine part item i / 1024) && bad (Config.pantryLine part item i)

/-- A port whose spilled replay flits are lost goes through link-down, and asks for a fresh start (R149, R326). -/
def State.loseReplay (s : State) (bad : Nat → Bool) : State :=
  let hit := (s.ports.filter fun p => p.2.store.any fun f => f.pantry && pantryHit bad 0 (p.1 * 65536 + f.seq) 4).map (·.1)
  hit.foldl (fun (s : State) n =>
    let s := s.linkDown n 8
    s.setPort n { s.port n with peerGen := 0 }) s

/-- A descriptor whose record or page list is lost completes POISON at the position reached (R252, R326). -/
def State.loseDescs (s : State) (bad : Nat → Bool) : State :=
  let hit := s.coach.descs.filter fun d => pantryHit bad 1 (d.ring * two32 + d.idx) ((d.pantryBytes + 63) / 64)
  if hit = [] then s
  else
    (hit.foldl (fun (s : State) d =>
      if d.unstarted ∨ d.op = opInvalidate then s.endDesc d cPoison
      else s.setDesc { d with endCode := if d.endCode = cOk then cPoison else d.endCode }) s).settle

/-- A block an accumulator line or a staging slot of which is lost is FAILED (R281, R326). -/
def State.loseSpill (s : State) (bad : Nat → Bool) : State :=
  let accs := (s.stock.spill.filter fun e => pantryHit bad 2 e.1 1).map fun e => e.1 / 16
  let slots := (s.stock.staged.filter fun g => pantryHit bad 2 (2 ^ 60 + blkKey g.buf g.blk * 1024 + g.contrib) 2).map fun g =>
    blkKey g.buf g.blk
  (accs ++ slots).eraseDups.foldl (fun (s : State) key =>
    let b := key / 2 ^ 33
    let k := key % 2 ^ 33
    let st := (s.blk b k).st
    if st = .empty ∨ st = .filling then s.failBlock b k cPoison else s) s

/-- The counts of a page whose counters are lost restart at 0 (R326). -/
def State.loseCounts (s : State) (bad : Nat → Bool) : State :=
  { s with mem := { s.mem with counts := s.mem.counts.filter fun e => !pantryHit bad 3 e.1 1 } }

/-- The waiters of a fault record that is lost complete XLATE_FAULT, and the record is freed (R326). -/
def State.loseFaults (s : State) (bad : Nat → Bool) : State :=
  let hit := (s.coach.frecs.filter fun e => e.2.valid && pantryHit bad 4 e.1 1).map (·.1)
  if hit = [] then s
  else
    (hit.foldl (fun (s : State) f =>
      let s2 := decide ((s.frec f).stage = 1)
      ((s.waitersOf f).foldl (fun s d => s.descDone d cXlateFault 0 0xFFFF 0 d.faultAddr s2) s).releaseFault f) s).settle

/-- The lines that `bad` picks, by line key before remap, are lost from the pantry (R326). What the last two partitions
hold has a second copy. [DEDUCED, log 182: unsafe] -/
def State.pantryLost (s : State) (bad : Nat → Bool) : State :=
  ((((s.loseReplay bad).loseDescs bad).loseSpill bad).loseCounts bad).loseFaults bad

/-- Open transactions on lines of the stacks `ns` end POISON, and their domains go down (R215, R227). -/
def State.loseTrackers (s : State) (ns : List Nat) : State :=
  let hit := s.coh.trackers.filter fun t => decide (t.st ≠ .write ∧ stackOf (s.phys (s.lineAt (t.line * 64) / 1024)) ∈ ns)
  hit.foldl (fun s t => if (s.tracker t.id).isSome then s.homePoison t else s) s

/-- Stacks `ns` fail together (R196, R345): their lines are lost, open transactions on them end, and each extent with
pages on them is DAMAGED, with one notice to each of its hosts. -/
def State.partFailed (s : State) (ns : List Nat) : State :=
  let ns := ns.filter fun n => decide ((s.stack n).st ≠ .failed)
  let dead := (s.pool.exts.map (·.1)).filter fun e => ns.any fun n => s.extOnStack e n
  let s := (ns.foldl State.stackDead s).loseTrackers ns
  let s := s.pantryLost fun l => decide (stackOf (s.phys (l / 1024)) ∈ ns)
  dead.foldl State.damage s

/-! ## Hubs, ports, rails (R55, R77, R379) -/

/-- A hub is lost: its six stacks fail, and with both hubs the pool does (R55, R379). -/
def State.hubLoss (s : State) (hub : Nat) : State :=
  if s.hubGone hub then s
  else
    let s := { s with tok := { s.tok with hubLost := Tab.set false s.tok.hubLost hub true } }
    let s := s.partFailed ((List.range 6).map (· + 6 * hub))
    if s.hubGone 0 && s.hubGone 1 then s.poolFatal 3 else s

/-- The port die is lost: every port and the service link with it (R53, R55). -/
def State.pdLoss (s : State) : State :=
  let dead := s.ports.map fun (e : Nat × Port) => (e.1, { e.2.quiet with st := .down })
  { s with ports := dead, tok := { s.tok with pdLost := true } }

/-- Ports `ps` lose what clocks or feeds them: DOWN, and not to train again before a module reset.
[DEDUCED, log 38: unsafe] -/
def State.portsLost (s : State) (ps : List Nat) : State :=
  ps.foldl (fun (s : State) n =>
    let s := s.linkDown n 5
    { s with clk := { s.clk with loopFault := Tab.set false s.clk.loopFault (16 + n) true } }) s

/-- VBUS_12 or V3P3_AUX is lost: the module is off, and its eFuse stays open until a module reset or power-on. -/
def State.coreRailLost (s : State) (r : Nat) : State :=
  s.wiped { Power.reset with
    inputOn := s.power.inputOn, range := s.power.range, inFaultLow := s.power.inFaultLow
    rails := [(r, ⟨.fuseOpen, false⟩)]
    cables := feedCables false s.power.cables }

/-- Has the active die lost its power or its path to the service link, so that it raises no event (R55)? -/
def State.muted (s : State) : Bool :=
  s.tok.pdLost || (match s.tok.active with
    | some d => s.dieDead d
    | none => false)

/-- An eFuse opens (R54, R55). -/
def State.railLost (s : State) (r : Nat) : State :=
  if railOpen s r then s
  else if r ≤ 1 then s.coreRailLost r
  else
    let s := s.setRail r { s.rail r with st := .fuseOpen }
    let s := { s with power := { s.power with modPg := false } }
    if r = 10 ∨ r = 11 then s.pdLoss
    else
      let die := if r ≤ 3 then 0 else 1
      let s := if s.muted then s else s.raise 0x0103 sevWarning s.actDie (leBytes 1 r)
      if r ≤ 5 then s.dieLost die true
      else if r ≤ 7 then s.hubLoss 0
      else if r ≤ 9 then s.hubLoss 1
      else if r = 12 then s.portsLost (List.range 32 ++ [64])
      else if r = 13 then s.portsLost ((List.range 32).map (· + 32) ++ [65])
      else s.partFailed ((List.range 3).map (· + 3 * (r - 14)))

end Sys2Proof.Machine
end

