-- ==== Sys2Proof/Machine/Ladle.lean ====
section
/-! DEFINITION. The ladle's scrub reads and the failure of a stack (R325, R330, R331, R345), with what the pantry's
partitions lose by them (R326). -/

set_option Elab.async false

namespace Sys2Proof.Machine
open Sys2Proof

/-- LADLE_SCRUB_READ (R325, R330, R331, R342): one line of a page whose bit is 1, once no page waits for its overwrite
and, unless it lies on a channel whose bucket overflowed, once no such channel of its stack is owed a pass.
[DEDUCED, log 184: unsafe] -/
def execLadleScrubRead (ppn line : Nat) (err : Err) (endsPass : Bool) (s : State) : Out :=
  .next (if !s.pageValid ppn ∨ s.overwriteDue ∨ s.stackDown (stackOf ppn) ∨ 1023 < line ∨
      (s.channelDue (stackOf ppn) ∧ !(s.channel (channelOf ppn line)).needPass) then s
    else
      let key := lineKey ppn line
      let (s, a) := s.hubRead ppn line err .ladle false
      let s := if a.lost then
          (s.dataLostPage (s.logical ppn)).pantryLost fun l => decide (l = lineKey (s.logical ppn) line)
        else
        match (decodeLine err).sym with
        | some j =>
          if s.mem.repeats.contains (hubOf ppn, key, j) then s.retirePage ppn
          else s.rememberCe (hubOf ppn) key j
        | none => { s with mem := { s.mem with repeats := s.mem.repeats.filter fun r => decide (r.2.1 ≠ key) } }
      if endsPass then s.passEnds (channelOf ppn line) else s)

/-- STACK_FAIL (R345): a channel stops responding or calibration is lost. -/
def execStackFail (stack : Nat) (s : State) : Out := .next (if 11 < stack then s else s.partFailed [stack])

end Sys2Proof.Machine
end

