-- ==== Sys2Proof/Machine/Power.lean ====
section
/-! DEFINITION. The meanings of the input, reset, rail, cable and thermal commands (R43 to R68, R95, R96, R98, R419). -/

set_option Elab.async false

namespace Sys2Proof.Machine
open Sys2Proof

/-! ## The input stage (R50 to R52) -/

/-- The input range of R50 that a voltage lies in. -/
def rangeOf (mv : Nat) : InputRange := if mv < 48000 then .low else if 66000 < mv then .high else .normal

/-- VIN_TURN_ON: the input rises past 46.5 V. After a thermal trip the input must be removed first (R68).
[DEDUCED, log 34: unsafe] -/
def execVinTurnOn (mv : Nat) (s : State) : Out :=
  .next (
    let p := s.power
    if p.inputOn ∨ p.cutOff ∨ p.reversed ∨ p.tripOff ∨ mv < 46500 ∨ 70000 ≤ mv then s
    else
      let s := s.applyPower 1
      { s with power := { s.power with range := rangeOf mv } })

/-- VIN_TURN_OFF: a dip below 44.0 V of 100 us or more (R51). It removes the input, and with it what the input
controller, which the input feeds, held after a thermal trip or a cut-off. [DEDUCED, log 148: unsafe] -/
def execVinTurnOff (dipUs : Nat) (s : State) : Out :=
  .next (
    if dipUs < 100 then s
    else if s.power.inputOn then s.turnOff
    else { s with power := { s.power with tripOff := false, cutOff := false, inFaultLow := s.power.reversed } })

/-- INPUT_LOW_ENTRY (R50). -/
def execInputLowEntry (mv : Nat) (s : State) : Out :=
  .next (
    if !s.power.inputOn ∨ mv < 44000 ∨ 48000 ≤ mv then s
    else ({ s with power := { s.power with range := .low } }).raise 0x0101 sevNotice s.actDie (leBytes 4 mv))

/-- INPUT_HIGH_ENTRY (R50). -/
def execInputHighEntry (mv : Nat) (s : State) : Out :=
  .next (
    if !s.power.inputOn ∨ mv ≤ 66000 ∨ 70000 ≤ mv then s
    else ({ s with power := { s.power with range := .high } }).raise 0x0102 sevNotice s.actDie (leBytes 4 mv))

/-- OVERVOLTAGE_CUTOFF (R50). -/
def execOvervoltageCutoff (mv : Nat) (s : State) : Out :=
  .next (
    if mv < 70000 then s
    else
      let s := s.turnOff
      { s with power := { s.power with cutOff := true, inFaultLow := true } })

/-- RESTART_AFTER_CUTOFF: the input has been below 66.0 V for 100 ms, and now stands at `mv` (R50). IN_FAULT_N is released,
and soft start begins where an input of 44.0 V or more is there and no thermal trip holds the stage off (R68); a reversed
input keeps it off (R52). [DEDUCED, log 148: unsafe] -/
def execRestartAfterCutoff (belowMs mv : Nat) (s : State) : Out :=
  .next (
    if !s.power.cutOff ∨ s.power.reversed ∨ belowMs < 100 ∨ 66000 ≤ mv then s
    else
      let s := { s with power := { s.power with cutOff := false, inFaultLow := false } }
      if mv < 44000 ∨ s.power.tripOff then s
      else
        let s := s.applyPower 2
        { s with power := { s.power with range := rangeOf mv } })

/-- INPUT_REVERSAL by more than 10 V: the blocking transistors stay off (R52). -/
def execInputReversal (mv : Nat) (s : State) : Out :=
  .next (
    if mv ≤ 10000 then s
    else
      let s := if s.power.inputOn then s.turnOff else s
      { s with power := { s.power with reversed := true, inFaultLow := true, tripOff := false } })

/-- INPUT_REVERSAL_END (R52). -/
def execInputReversalEnd (s : State) : Out :=
  .next (
    if !s.power.reversed then s
    else { s with power := { s.power with reversed := false, inFaultLow := s.power.cutOff } })

/-! ## Module reset (R47, R68, R95, R419) -/

/-- Does a low pulse of this length reset the module? From 1 to 10 us R47 leaves it open. -/
def State.pulseTakes (s : State) (ns : Nat) : State × Bool :=
  if 10000 ≤ ns then (s, true)
  else if ns < 1000 then (s, false)
  else ({ s with fresh := s.fresh + 1 }, Config.pulseResets s.fresh ns)

/-- A reset input is held low: module reset; after a thermal trip the input stage starts again (R68). -/
def State.resetInput (s : State) (ns cause : Nat) : State :=
  if !s.power.inputOn ∧ !s.power.tripOff then s
  else
    let (s, yes) := s.pulseTakes ns
    if !yes then s
    else
      let was := s.power.tripOff
      let s := s.moduleReset cause
      let s := { s with power := { s.power with
        modRstLow := s.power.modRstLow || decide (cause = 3), svcRstLow := s.power.svcRstLow || decide (cause = 4) } }
      if was then { s with power := { s.power with
        inputOn := true, softStart := true, rails := softRails, cables := feedCables false s.power.cables } }
      else s

/-- MOD_RST_N. -/
def execModRstN (lowNs : Nat) (s : State) : Out := .next (s.resetInput lowNs 3)

/-- SVC_RST_N. -/
def execSvcRstN (lowNs : Nat) (s : State) : Out := .next (s.resetInput lowNs 4)

/-- MODULE_RESET_RELEASE: both inputs are high again; the start runs from the rail sequence (R95). -/
def execModuleResetRelease (s : State) : Out :=
  .next (
    if !s.power.inReset then s
    else { s with power := { s.power with inReset := false, modRstLow := false, svcRstLow := false, railGroup := 0 } })

/-- MODULE_RESET: the reset begins one epoch after the completion is sent (R419). -/
def execModuleReset (c : RslCmd) (s : State) : Out :=
  .next (s.rslGate c 0x0100 false fun s =>
    let s := { s with boot := { s.boot with resetAt := some (s.epoch + 1), resetCause := 5 } }
    s.rslAnswer c 0x0100 cOk 0 [])

/-- MODULE_RESET_BEGIN: a commanded module reset whose time has come (R117, R385, R419). It ends at once: no input is low. -/
def execModuleResetBegin (s : State) : Out :=
  .next (match s.boot.resetAt with
  | some e =>
    if s.epoch < e then s
    else
      let s := s.moduleReset s.boot.resetCause
      { s with power := { s.power with inReset := s.power.modRstLow || s.power.svcRstLow } }
  | none => s)

/-! ## The rail sequence (R96, R98) -/

/-- SOFT_START_DONE: VBUS_12 and V3P3_AUX are up; a fitted cable has its feed. -/
def execSoftStartDone (s : State) : Out :=
  .next (
    if !s.power.softStart then s
    else { s with power := { s.power with
      softStart := false, rails := resetRails, railGroup := 0, cables := feedCables true s.power.cables } })

/-- The rails of each group of R96, in the numbering of R53. -/
def railGroups : List (List Nat) := [[3, 5, 7, 9, 11], [2, 4, 6, 8, 10], [12, 13], [14, 15, 16, 17]]

/-- Are all 18 rails within their windows? -/
def State.allRailsIn (s : State) : Bool := (List.range 18).all fun r => decide ((s.rail r).st = .inWindow)

/-- Has every rail come into its window or had its eFuse opened, none of those open taking the module off?
[DEDUCED, log 33: unsafe] -/
def State.railsSettled (s : State) : Bool :=
  (List.range 18).all fun r => decide ((s.rail r).st = .inWindow) ||
    (railOpen s r && decide (r ≠ 0 ∧ r ≠ 1 ∧ r ≠ 10 ∧ r ≠ 11))

/-- RAIL_GROUP_ENABLE: the next group is enabled, and the rails of `inWindow` that are enabled are in window; MOD_PG is
released with all 18 (R96). -/
def execRailGroupEnable (inWindow : BitVec 18) (s : State) : Out :=
  .next (
    if !s.power.inputOn ∨ s.power.softStart ∨ s.power.inReset ∨ s.power.modPg ∨ s.boot.por ∨
        (s.rail 0).st ≠ .inWindow ∨ (s.rail 1).st ≠ .inWindow then s
    else
      let group := railGroups.getD s.power.railGroup []
      let s := group.foldl (fun (s : State) r =>
        if (s.rail r).st = .off then s.setRail r { s.rail r with st := .enabled } else s) s
      let s := (List.range 18).foldl (fun (s : State) r =>
        if (s.rail r).st = .enabled ∧ inWindow.getLsbD r then s.setRail r { s.rail r with st := .inWindow } else s) s
      { s with power := { s.power with
        railGroup := min 4 (s.power.railGroup + 1)
        modPg := s.allRailsIn } })

/-- RAIL_ENABLE_TIMEOUT: 5 ms without reaching its window; the eFuse opens (R98). -/
def execRailEnableTimeout (rail : Nat) (s : State) : Out :=
  .next (if (s.rail rail).st = .enabled then s.railLost rail else s)

/-! ## eFuses, sense lines, rail monitors (R54 to R57) -/

/-- Maximum current in A, and nominal in mV, of each rail (R53). -/
def railLimits : List (Nat × Nat) :=
  [(140, 12000), (20, 3300), (480, 750), (11, 1800), (480, 750), (11, 1800), (200, 800), (11, 1800), (200, 800),
    (11, 1800), (200, 750), (11, 1800), (50, 900), (50, 900), (80, 1200), (80, 1200), (80, 1200), (80, 1200)]

def railMaxA (r : Nat) : Nat := (railLimits.getD r (0, 0)).1
def railNominal (r : Nat) : Nat := (railLimits.getD r (0, 0)).2

def railPowered (s : State) (r : Nat) : Bool := decide ((s.rail r).st = .enabled ∨ (s.rail r).st = .inWindow)

/-- EFUSE_OPEN: above 130 % of the maximum current, or below 50 % of nominal while enabled (R54). During soft start
VBUS_12 and V3P3_AUX are on their way to nominal, and the current alone is judged. [DEDUCED, log 149: unsafe] -/
def execEfuseOpen (rail deciAmps mv : Nat) (s : State) : Out :=
  .next (
    if 17 < rail ∨ !s.power.inputOn then s
    else if 13 * railMaxA rail < deciAmps ∨ (railPowered s rail ∧ !s.power.softStart ∧ 2 * mv < railNominal rail) then
      s.railLost rail
    else s)

def State.setMon (s : State) (i : Nat) (m : Monitor) : State :=
  { s with power := { s.power with monitors := Tab.set Monitor.empty s.power.monitors i m } }

/-- Is the rail regulated through a sense pair: a VCC, VTT or VSTK rail (R56)? -/
def railSensed (r : Nat) : Bool := decide (r ∈ [2, 4, 6, 8, 10, 12, 13, 14, 15, 16, 17])

/-- SENSE_LINE_OPEN (R56). -/
def execSenseLineOpen (rail : Nat) (s : State) : Out :=
  .next (
    if !railSensed rail ∨ !railPowered s rail ∨ (s.rail rail).senseOpen then s
    else
      let s := s.setRail rail { s.rail rail with senseOpen := true }
      let s := s.setMon (24 + rail) { s.mon (24 + rail) with fault := true }
      s.raise 0x0104 sevWarning s.actDie (leBytes 1 rail))

/-- Is a reading further from nominal than `pct` per cent? -/
def railOff (r mv pct : Nat) : Bool :=
  decide (100 * mv < (100 - pct) * railNominal r ∨ (100 + pct) * railNominal r < 100 * mv)

/-- RAIL_OUT_OF_RANGE: 16 successive samples outside 5 % (R57). Outside 10 % the spec does not say how many samples it
takes; the model acts on one. [DESIGN CHOICE, log 150: unsafe] -/
def execRailOutOfRange (rail mv : Nat) (s : State) : Out :=
  .next (
    if 17 < rail ∨ (s.rail rail).st ≠ .inWindow ∨ !railOff rail mv 5 then s
    else
      let s := s.setMon (24 + rail) { s.mon (24 + rail) with valid := true, isOver := true, value := BitVec.ofNat 16 mv }
      if railOff rail mv 10 then s.railLost rail
      else
        let s := { s with power := { s.power with modPg := false } }
        s.raise 0x0105 sevWarning s.actDie (leBytes 1 rail ++ leBytes 4 (monWord (s.mon (24 + rail)))))

/-! ## Cables (R43, R44) -/

def State.setCable (s : State) (k : Nat) (x : Cable) : State :=
  { s with power := { s.power with cables := Tab.set Cable.empty s.power.cables k x } }

/-- The eight ports of a connector. -/
def cablePorts (k : Nat) : List Nat := (List.range 8).map (· + 8 * k)

/-- CABLE_FITTED: cable power on, the identity read, and the bad-lane marks of its ports cleared (R43, R58). -/
def execCableFitted (fab identity : Nat) (s : State) : Out :=
  .next (
    if 7 < fab ∨ (s.cable fab).present then s
    else
      let readId := if s.boot.por && !s.tok.pdLost then some identity else none
      let s := s.setCable fab ⟨true, decide ((s.rail 1).st = .inWindow), false, identity, readId⟩
      (cablePorts fab).foldl (fun (s : State) n =>
        s.setPort n { s.port n with badLanes := 0, newBad := false, spareFor := none }) s)

/-- CABLE_REMOVED (R44, R147). -/
def execCableRemoved (fab : Nat) (s : State) : Out :=
  .next (
    if 7 < fab ∨ !(s.cable fab).present then s
    else (cablePorts fab).foldl (fun (s : State) n => s.linkDown n 5) (s.setCable fab Cable.empty))

/-- CABLE_FAULT: the connector's eight ports go down (R43, R147). [DEDUCED, log 37: unsafe] -/
def execCableFault (fab : Nat) (s : State) : Out :=
  .next (
    if 7 < fab ∨ !(s.cable fab).present then s
    else (cablePorts fab).foldl (fun (s : State) n => s.linkDown n 5) (s.setCable fab { s.cable fab with fault := true }))

/-! ## Debug (R48, R385) -/

/-- Is debug open? [DESIGN CHOICE, log 32: unsafe] -/
def State.debugOpened (s : State) : Bool := !s.sec.dbgLock || s.sec.dbgReopen

/-- DEBUG_ACCESS: with the fuses CLOSED the inputs are ignored and DBG_TDO is low; what an open port answers, the spec
does not give. -/
def execDebugAccess (inputs : Nat) (s : State) : Out :=
  .next (
    if !s.boot.por then s
    else if !s.debugOpened then { s with power := { s.power with dbgTdo := false } }
    else { s with power := { s.power with dbgTdo := Config.debugOut s.fresh inputs }, fresh := s.fresh + 1 })

/-! ## Temperatures and monitors (R67, R68, R90 to R93) -/

def State.part (s : State) (p : Nat) : Part := Tab.get Part.empty s.power.parts p

def State.setPart (s : State) (p : Nat) (x : Part) : State :=
  { s with power := { s.power with parts := Tab.set Part.empty s.power.parts p x } }

/-- The part that a temperature sensor measures: dies 0 to 4, then 5 + stack (R90). -/
def sensorPart (t : Nat) : Nat :=
  if t ≤ 2 then 0 else if t ≤ 5 then 1 else if t ≤ 7 then 2 else if t ≤ 9 then 3 else if t ≤ 11 then 4 else 5 + (t - 12)

/-- The thresholds of a part, in 0.125 degrees (R67). -/
def partThresholds (p : Nat) : List Int :=
  if p ≤ 1 then [760, 800] else if p ≤ 4 then [800] else [680, 760]

/-- The trip temperature of a part, in 0.125 degrees. -/
def partTrip (p : Nat) : Int := if p ≤ 4 then 880 else 840

/-- What a stack's thresholds ask of its hub: doubled refresh at the first, half the command rate at the second (R67). -/
def State.stackSteps (s : State) (p : Nat) : State :=
  if p < 5 then s
  else
    let n := p - 5
    let l := (s.part p).level
    s.setStack n { s.stack n with refresh2 := decide (1 ≤ l), halfRate := decide (2 ≤ l) }

/-- The highest valid reading of a part's working sensors. -/
def State.partTemp (s : State) (p : Nat) : Option Int :=
  ((List.range 24).filter fun t => decide (sensorPart t = p) && (s.mon t).valid && !(s.mon t).fault).foldl
    (fun (best : Option Int) t => match best with
      | none => some (s.mon t).value.toInt
      | some b => some (max b (s.mon t).value.toInt)) none

/-- How long a temperature has been 5 degrees below a threshold. -/
def coolFrom (was : Option Nat) (below : Bool) (epoch : Nat) : Option Nat :=
  if below then some (was.getD epoch) else none

/-- Judges a part after one of its sensors has been read: thresholds newly reached, and a trip (R67, R68). -/
def State.judgePart (s : State) (sensor : Nat) : State :=
  let p := sensorPart sensor
  match s.partTemp p with
  | none => s
  | some t =>
    let x := s.part p
    let th := partThresholds p
    let level := (th.filter fun k => decide (k ≤ t)).length
    let cool := fun (i : Nat) (was : Option Nat) => match th[i]? with
      | some k => coolFrom was (decide (t ≤ k - 40)) s.epoch
      | none => none
    let level := if x.noSensor then 1 else level
    let rise := level - x.level
    let s := if x.noSensor then s else
      (s.setPart p { x with
        level := max level x.level, cool1 := cool 0 x.cool1, cool2 := cool 1 x.cool2 }).stackSteps p
    let s := (List.range rise).foldl (fun (s : State) _ =>
      s.raise 0x0107 sevNotice s.actDie (leBytes 1 sensor ++ leBytes 4 (monWord (s.mon sensor)))) s
    if partTrip p ≤ t ∧ !s.power.trip then
      let s := { s with power := { s.power with trip := true } }
      (s.raise 0x0108 sevFatal s.actDie (leBytes 1 sensor ++ leBytes 4 (monWord (s.mon sensor)))).poolFatal 0
    else s

/-- A temperature sensor's sample; one with FAULT set is left out, and a part with none left stands at its first
threshold until module reset (R92). -/
def State.sampleTemp (s : State) (n : Nat) (value : BitVec 16) (fault : Bool) : State :=
  let p := sensorPart n
  let m := s.mon n
  let isOver := decide ((partThresholds p).headD 0 ≤ value.toInt)
  let s := s.setMon n { m with valid := true, fault := fault, isOver := isOver && !fault, value := value }
  if fault then
    let s := if m.fault then s else s.raise 0x010A sevWarning s.actDie (leBytes 1 n)
    let left := (List.range 24).any fun t => decide (sensorPart t = p) && !(s.mon t).fault
    if left then s else (s.setPart p { level := 1, cool1 := none, cool2 := none, noSensor := true }).stackSteps p
  else s.judgePart n

/-- A rail monitor's sample: MOD_PG returns when every rail is in its window again (R46, R57). -/
def State.sampleRail (s : State) (n : Nat) (value : BitVec 16) : State :=
  let r := n - 24
  let s := s.setMon n { s.mon n with valid := true, isOver := railOff r value.toNat 5, value := value }
  let all := s.allRailsIn && (List.range 18).all fun q => !(s.mon (24 + q)).isOver
  if all then { s with power := { s.power with modPg := true } } else s

/-- A process monitor's sample (R93). EV_PROCESS_DRIFT names the monitor by its number 0 to 9; the spec does not say
whether that or its number among all monitors is meant. [DESIGN CHOICE, log 151: unsafe] -/
def State.sampleProcess (s : State) (n : Nat) (value : BitVec 16) (fault : Bool) : State :=
  let m := s.mon n
  let temp := (s.partTemp ((n - 42) / 2)).getD 0
  let at85 := Config.processCorrected n value.toNat temp.toNat
  let low := decide (100 * at85 < 92 * Config.processBaseline n) && !fault
  let s := s.setMon n { valid := true, fault := fault, isOver := low, value := value, warned := m.warned || low }
  if low && !m.warned then s.raise 0x010B sevNotice s.actDie (leBytes 1 (n - 42) ++ leBytes 4 (monWord (s.mon n))) else s

/-- MONITOR_SAMPLE: monitors 0 to 23 T0 to T23, 24 to 41 V0 to V17, 42 to 51 P0 to P9 (R90). -/
def execMonitorSample (mon : Nat) (value : BitVec 16) (fault : Bool) (s : State) : Out :=
  .next (
    if !s.boot.por ∨ 51 < mon then s
    else if mon < 24 then s.sampleTemp mon value fault
    else if mon < 42 then s.sampleRail mon value
    else s.sampleProcess mon value fault)

/-- THERMAL_STEP_UNDO: 4,096 epochs at 5 degrees below the topmost threshold in force (R67).
[DEDUCED, log 36: unsafe] -/
def execThermalStepUndo (part : Nat) (s : State) : Out :=
  .next (
    let x := s.part part
    let since := if x.level = 2 then x.cool2 else if x.level = 1 then x.cool1 else none
    match since with
    | some e => if e + 4096 ≤ s.epoch then (s.setPart part { x with level := x.level - 1 }).stackSteps part else s
    | none => s)

/-- TRIP_INPUT_OFF: 1 ms after a trip the input stage turns off, and stays off (R68). -/
def execTripInputOff (s : State) : Out :=
  .next (
    if !s.power.trip then s
    else
      let s := s.turnOff
      { s with power := { s.power with tripOff := true } })

/-- THERMAL_COMPARATOR: a sensor that works reaches 115 degrees; the input stage is off at once, without messages (R67,
R92). [DEDUCED, log 35: unsafe] -/
def execThermalComparator (sensor : Nat) (s : State) : Out :=
  .next (
    if !s.power.inputOn ∨ 23 < sensor ∨ (s.mon sensor).fault then s
    else
      let s := s.turnOff
      { s with power := { s.power with tripOff := true } })

/-! ## The power loop (R65) -/

/-- POWER_AVERAGE_UPDATE: above the limit inflow is paced further down, to no less than 1,600 GB/s; credits are then
granted at that rate (R145). -/
def execPowerAverageUpdate (avgW : Nat) (s : State) : Out :=
  .next (
    let limit := s.cfgAt fLimitW
    let p := s.power
    if limit < avgW then
      let inflow := max 1600 (min (p.inflow - 1) (Config.pacedInflow s.fresh p.inflow))
      { s with
        fresh := s.fresh + 1
        power := { p with
          avgW := avgW, inflow := inflow, belowSince := none
          floorSince := if inflow = 1600 then some (p.floorSince.getD s.epoch) else none } }
    else if avgW + 50 < limit then
      { s with power := { p with avgW := avgW, floorSince := none, belowSince := some (p.belowSince.getD s.epoch) } }
    else { s with power := { p with avgW := avgW, floorSince := none, belowSince := none } })

/-- POWER_CLOCK_STEP: 1,024 epochs at the floor and above the limit. -/
def execPowerClockStep (s : State) : Out :=
  .next (match s.power.floorSince with
  | some e =>
    if s.epoch < e + 1024 ∨ 2 ≤ s.power.arithPwr then s
    else
      let s := { s with power := { s.power with arithPwr := s.power.arithPwr + 1, floorSince := some s.epoch } }
      s.raise 0x0106 sevNotice diePd (leBytes 1 s.arithStep ++ leBytes 2 s.power.avgW)
  | none => s)

/-- POWER_STEP_UNDO: 4,096 epochs 50 W below the limit undo the last step, the clock before the pacing. -/
def execPowerStepUndo (s : State) : Out :=
  .next (match s.power.belowSince with
  | some e =>
    if s.epoch < e + 4096 then s
    else if 0 < s.power.arithPwr then
      { s with power := { s.power with arithPwr := s.power.arithPwr - 1, belowSince := some s.epoch } }
    else { s with power := { s.power with inflow := 6400, belowSince := some s.epoch } }
  | none => s)

end Sys2Proof.Machine
end

