-- ==== Sys2Proof/Machine/Clock.lean ====
section
/-! DEFINITION. The meanings of the crystal, loop and fabric-time commands (R71 to R89). -/

set_option Elab.async false

namespace Sys2Proof.Machine
open Sys2Proof

/-! ## Crystals and loops (R74 to R77) -/

/-- A crystal is flagged: the other takes its loops, or, with both flagged, the device fails (R75, R76). -/
def State.flagCrystal (s : State) (xb : Bool) : State :=
  let c := s.clk
  if !c.running ∨ (if xb then c.xbFlag else c.xaFlag) = true then s
  else
    let c := if xb then { c with xbFlag := true } else { c with xaFlag := true }
    if c.xaFlag && c.xbFlag then
      let s := { s with clk := { c with bothHold := true } }
      (s.raise 0x0109 sevFatal s.actDie (leBytes 1 3)).poolFatal 0
    else
      let s := { s with clk := { c with xaRefOnXb := c.xaRefOnXb || !xb, xbRefOnXa := c.xbRefOnXa || xb } }
      s.raise 0x0109 sevWarning s.actDie (leBytes 1 (if xb then 2 else 1))

/-- CRYSTAL_MISSING_EDGE (R74). -/
def execCrystalMissingEdge (xb : Bool) (s : State) : Out := .next (s.flagCrystal xb)

/-- Edges of a crystal that 1,024 cycles of the fast oscillator should hold (R71, R74). [DEDUCED, log 40: unsafe] -/
def crystalNominal (xb : Bool) : Nat := if xb then 800 else 128

/-- Does a count over 1,024 cycles flag the crystal? 0.5 % against a healthy other crystal, 8 % against the fast
oscillator (R74). -/
def crystalOff (xb otherHealthy : Bool) (count : Nat) : Bool :=
  let n := crystalNominal xb
  let d := (count - n) + (n - count)
  if otherHealthy then decide (n < 200 * d) else decide (8 * n < 100 * d)

/-- CRYSTAL_FREQUENCY_FLAG (R74). -/
def execCrystalFrequencyFlag (xb : Bool) (count : Nat) (s : State) : Out :=
  .next (
    let healthy := if xb then !s.clk.xaFlag else !s.clk.xbFlag
    if crystalOff xb healthy count then s.flagCrystal xb else s)

/-- CRYSTAL_HOLD_END: 100 us after both crystals are flagged, every transmitter goes to electrical idle (R76). -/
def execCrystalHoldEnd (s : State) : Out :=
  .next (if s.clk.bothHold then { s with clk := { s.clk with bothHold := false, txIdle := true } } else s)

/-- LOOP_LOCK_LOSS: handled as the loss of the control die, the hub, or the ports that the loop clocks (R77).
[DEDUCED, log 39: unsafe] -/
def execLoopLockLoss (die : Nat) (ports : List Nat) (s : State) : Out :=
  .next (
    if !s.clk.running ∨ (s.clk.xaFlag && s.clk.xbFlag) = true then s
    else if die ≤ 1 then
      ({ s with clk := { s.clk with loopFault := Tab.set false s.clk.loopFault die true } }).dieLost die false
    else if die ≤ 3 then s.hubLoss (die - 2)
    else s.portsLost (ports.filter fun n => decide (n < 66)))

/-! ## The time source (R82 to R85) -/

/-- Is port `n` eligible as time source now (R83)? -/
def State.timeEligible (s : State) (n : Nat) : Bool :=
  let p := s.port n
  (s.cfgAt fTimeMask).testBit n && p.measured && (match p.timeEpoch with
    | some e => decide (s.epoch < e + 8)
    | none => false)

/-- May the port be, or stay, the source: eligible and not rejected (R84)? -/
def State.timeUsable (s : State) (n : Nat) : Bool := s.timeEligible n && !(s.port n).timeRejected

def within (o : Int) (b : Nat) : Bool := decide (o.natAbs ≤ b)

/-- The eligible port with the lowest HOPS, and among those the lowest number; `near`: only ones within 1,000 ns. -/
def State.bestSource (s : State) (near : Bool) : Option Nat :=
  let ok := (List.range 64).filter fun n => s.timeUsable n && (!near || within (s.port n).timeOffset 1000)
  leastBy (fun n => (s.port n).timeHops * 64 + n) ok

/-- A step is ordered to the time of the source on port `n` (R87): the number of the next epoch. A boundary less than
2,048 ns away is not taken. -/
def State.stepClock (s : State) (n t : Nat) : State :=
  let c := (((Config.stepInstant s.fresh t : Int) - (s.port n).timeOffset) % (two64 : Int)).toNat
  let e := (c / 4096 + (if 4096 - c % 4096 < 2048 then 2 else 1)) % (two64 / 4096)
  { s with fresh := s.fresh + 1, clk := { s.clk with stepTo := some e, okRun := 0, badRun := 0 } }

def State.raiseTime (s : State) (code sev : Nat) : State := s.raise code sev diePd (leBytes 4 (timeStatus s))

/-- Takes port `n` as the source; a change from the port last chosen raises EV_TIME_SOURCE (R83).
[DEDUCED, log 42: unsafe] -/
def State.takeSource (s : State) (n : Nat) : State :=
  let was := s.clk.lastSource
  let s := { s with clk := { s.clk with
    source := some n, lastSource := some n, hops := (s.port n).timeHops, okRun := 0, badRun := 0 } }
  if was.isSome ∧ was ≠ some n then s.raiseTime 0x0110 sevNotice else s

/-- Fabric time enters LOST: the refusals of R88. -/
def State.loseTime (s : State) : State :=
  let s := { s with clk := { s.clk with tstate := .lost }, fab := { s.fab with gatesOff := true } }
  (s.raiseTime 0x0111 sevWarning).endBarriers

/-- Looks for a source where the chosen one is not eligible, or where there is none (R83, R85). -/
def State.reviewSource (s : State) (t : Nat) : State :=
  let had := s.clk.source
  let keep := match had with
    | some p => s.timeUsable p
    | none => false
  if keep then s
  else
    let near := decide (s.clk.tstate = .holdover ∨ s.clk.tstate = .lost)
    match s.bestSource near with
    | some n =>
      let s := s.takeSource n
      match s.clk.tstate with
      | .start => if had.isNone then s.stepClock n t else s
      | .holdover => { s with clk := { s.clk with tstate := .locked } }
      | .locked => s
      | .lost => s
    | none =>
      let s := { s with clk := { s.clk with source := none, okRun := 0, badRun := 0 } }
      if s.clk.tstate = .locked then { s with clk := { s.clk with tstate := .holdover, holdSince := s.epoch } } else s

/-- The rate correction's bound, in parts per billion (R84). -/
def boundRate (r : Int) : Int := max (-200000) (min 200000 r)

/-- The rate correction against an offset: downward where the local count is ahead, upward where it is behind, of a size
that the spec bounds and does not give; with no offset it stays (R84). -/
def steerRate (rate o : Int) : Int :=
  let size := max 1 (Config.rateCorrection rate o).natAbs
  if 0 < o then boundRate (-(size : Int)) else if o < 0 then boundRate size else rate

/-- An offset of the chosen source: the counter is steered, and the runs of R84 and R85 are counted. -/
def State.steer (s : State) (n : Nat) (o : Int) : State :=
  let c := s.clk
  let ok := if within o 50 then c.okRun + 1 else 0
  let bad := if within o 1000 then 0 else c.badRun + 1
  let s := { s with clk := { c with
    offset := o, hops := (s.port n).timeHops, okRun := min ok 16, badRun := min bad 16,
    rate := steerRate c.rate o } }
  if 16 ≤ bad then s.setPort n { s.port n with timeRejected := true }
  else if 16 ≤ ok ∧ s.clk.stepTo.isNone then
    match c.tstate with
    | .start => { s with clk := { s.clk with tstate := .locked } }
    | .lost => ({ s with clk := { s.clk with tstate := .locked } }).raiseTime 0x0112 sevNotice
    | .locked => s
    | .holdover => s
  else s

/-- A time message that passed its flit's CRC, arrived at `arrival` (R81, R83, R84). -/
def State.takeTime (s : State) (port stamp domain hops flags resv arrival : Nat) : State :=
  if domain ≠ s.cfgAt fTimeDomain ∨ flags % 2 ≠ 1 ∨ 4 ≤ flags ∨ resv ≠ 0 then s.bumpPort port 23 1
  else
    let p := s.port port
    let o : Int := (arrival : Int) - ((stamp : Int) + p.delay.getD 0)
    let s := s.setPort port { p with
      timeHops := hops, timeOffset := o, timeRejected := p.timeRejected && !within o 1000,
      timeEpoch := if flags = 1 then some s.epoch else p.timeEpoch }
    let s := if s.clk.source = some port then s.steer port o else s
    s.reviewSource arrival

/-- TIME: a time message; one in a flit that fails its CRC is discarded, and counted (R81). [DEDUCED, log 43: unsafe] -/
def execTime (port : Nat) (f : RawFlit) (arrival : Nat) (s : State) : Out :=
  .next (
    let s' := s.control port f typTime fun s =>
      s.takeTime port (rawField f 0 8) (rawField f 8 2) (rawField f 10 1) (rawField f 11 1) (rawField f 12 4) arrival
    if s.portUp port && !isRsl port && rawBad f then s'.bumpPort port 23 1 else s')

/-- TIME_SOURCE_INELIGIBLE: the port has had no valid message for 8 epochs (R83, R85). -/
def execTimeSourceIneligible (port : Nat) (s : State) : Out :=
  .next (if s.clk.source = some port ∧ !s.timeUsable port then s.reviewSource s.clk.now else s)

/-- HOLDOVER_EXPIRY: 64 epochs of HOLDOVER (R85). -/
def execHoldoverExpiry (s : State) : Out :=
  .next (if s.clk.tstate = .holdover ∧ s.clk.holdSince + 64 ≤ s.epoch then s.loseTime else s)

/-- The port that TIME_RELOCK steps to: eligible, with an offset beyond 1,000 ns. -/
def State.relockPort (s : State) : Option Nat :=
  leastBy (fun n => (s.port n).timeHops * 64 + n)
    ((List.range 64).filter fun n => s.timeEligible n && !within (s.port n).timeOffset 1000)

/-- TIME_RELOCK (R85, R87). [DEDUCED, log 44: unsafe] -/
def execTimeRelock (c : RslCmd) (s : State) : Out :=
  .next (s.rslGate c 0x0113 false fun s =>
    match s.relockPort with
    | some n =>
      if s.clk.tstate ≠ .lost then s.rslAnswer c 0x0113 cUnsupported 0 []
      else
        let s := (s.takeSource n).stepClock n s.clk.now
        let delta : Int := (s.clk.stepTo.getD 0 : Int) - (s.epoch + 1 : Nat)
        (s.raise 0x0113 sevWarning diePd (sBytes 8 delta)).rslAnswer c 0x0113 cOk 0 []
    | none => s.rslAnswer c 0x0113 cUnsupported 0 [])

end Sys2Proof.Machine
end

