-- ==== Sys2Proof/Machine/EpochOps.lean ====
section
/-! DEFINITION. What an epoch boundary does (R34 to R36, R87, R110, R111, R360 to R362, R365): the shift of held epoch
numbers after a step of fabric time, shadowed settings, the state-copy cut, and the boundary's steps. -/

set_option Elab.async false

namespace Sys2Proof.Machine
open Sys2Proof

/-! ## The shift after a step (R87) -/

/-- An absolute epoch number in the new numbering. -/
def shiftE (d : Int) (n : Nat) : Nat := ((n : Int) + d).toNat

/-- How many epoch numbers there are: fabric time has 64 bits (R10). -/
def epochCount : Nat := 4503599627370496

def shiftO (d : Int) (x : Option Nat) : Option Nat := x.map (shiftE d)

/-- Changes every value of a table. -/
def mapTab {α : Type} (f : α → α) (t : Tab α) : Tab α := t.map fun (e : Nat × α) => (e.1, f e.2)

/-- Changes the retry epoch of a BUSY_RETRY not yet answered. -/
def shiftMsg (d : Int) (m : OutMsg) : OutMsg :=
  if m.cls ≠ clsRsp ∨ m.sealed then m
  else if m.opcode ∈ [0x1B, 0x1C, 0x61] then
    if m.opData = cBusy then { m with body := leBytes 8 (shiftE d (ofLe (m.body.take 8))) ++ m.body.drop 8 } else m
  else if m.opcode ∈ [0x46, 0x56, 0x66, 0x6A, 0x76, 0x86] ∧ m.body.headD 0 = 9 then
    { m with body := m.body.take 8 ++ leBytes 8 (shiftE d (ofLe ((m.body.drop 8).take 8))) ++ m.body.drop 16 }
  else m

def shiftCpl (d : Int) (f : RslCpl) : RslCpl := if f.code = cBusy then { f with value := shiftE d f.value } else f

def shiftPart (d : Int) (x : Part) : Part := { x with cool1 := shiftO d x.cool1, cool2 := shiftO d x.cool2 }

def shiftOb (d : Int) (x : ObDie) : ObDie :=
  if x.holder.isSome then
    { x with expiry := shiftE d x.expiry, epoch := shiftE d x.epoch, renewedAt := shiftO d x.renewedAt }
  else { x with epoch := shiftE d x.epoch }

def shiftFlit (d : Int) (f : TxFlit) : TxFlit := { f with msgs := f.msgs.map (shiftMsg d) }

/-- A port's times, and the retry epochs of answers it has not yet sent; a flit in the replay store has been sent. -/
def shiftPort (d : Int) (x : Port) : Port :=
  { x with
    fifos := mapTab (fun (q : List TxFlit) => q.map (shiftFlit d)) x.fifos
    sending := x.sending.map (shiftFlit d)
    timeEpoch := shiftO d x.timeEpoch
    store := x.store.map fun (f : Stored) => { f with sentAt := ((f.sentAt : Int) + d * 4096).toNat }
    overrunTo := ((x.overrunTo : Int) + d * 4096).toNat
    probeAt := ((x.probeAt : Int) + d * 4096).toNat }

def shiftPolicer (d : Int) (x : Policer) : Policer :=
  if x.enable then { x with last := ((x.last : Int) + d * 4096).toNat } else x

def shiftCkt (d : Int) (x : Circuit) : Circuit :=
  if x.st = .free then x else { x with startEpoch := shiftE d x.startEpoch, endEpoch := shiftE d x.endEpoch }

def shiftLease (d : Int) (x : Lease) : Lease :=
  if x.st = .live ∨ x.st = .grace then { x with endEpoch := shiftE d x.endEpoch } else x

def shiftMember (d : Int) (x : Member) : Member :=
  if x.st = .absent then x else { x with ackEpoch := shiftE d x.ackEpoch, lastAckAt := shiftE d x.lastAckAt }

def shiftSnoop (d : Int) (x : Snoop) : Snoop := { x with boundAt := shiftO d x.boundAt }

def shiftTracker (d : Int) (x : Tracker) : Tracker :=
  { x with ackBoundAt := shiftO d x.ackBoundAt, snoops := x.snoops.map (shiftSnoop d) }

def shiftFrec (d : Int) (x : FaultRec) : FaultRec :=
  if x.valid then { x with firstEpoch := shiftE d x.firstEpoch, idleSince := shiftO d x.idleSince } else x

def shiftPaired (d : Int) : Paired → Paired
  | .entryAt e o => .entryAt (shiftE d e) o
  | .exitAt e o => .exitAt (shiftE d e) o
  | .on => .on
  | .off => .off

def shiftRegion (d : Int) (x : Region) : Region :=
  if x.st = .free then x else { x with lastEpoch := shiftE d x.lastEpoch }

def shiftSess (d : Int) (x : Session) : Session := { x with opened := shiftE d x.opened }

def shiftStore (d : Int) (k : KeyStore) : KeyStore := { k with sessions := k.sessions.map (shiftSess d) }

def shiftEv (d : Int) (e : Ev) : Ev := { e with epoch := shiftE d e.epoch }

/-- The times of the module's power, start and token state. [DEDUCED, log 45: unsafe] -/
def State.shiftControl (s : State) (d : Int) : State :=
  { s with
    power := { s.power with
      floorSince := shiftO d s.power.floorSince, belowSince := shiftO d s.power.belowSince
      parts := mapTab (shiftPart d) s.power.parts }
    clk := { s.clk with holdSince := shiftE d s.clk.holdSince }
    boot := { s.boot with
      readyEpochB := shiftE d s.boot.readyEpochB, tokenEpoch := shiftO d s.boot.tokenEpoch
      wipeStart := shiftO d s.boot.wipeStart, poolReady := shiftO d s.boot.poolReady
      resetAt := shiftO d s.boot.resetAt }
    cfg := { s.cfg with held := s.cfg.held.map fun (h : Owed × Nat) => (h.1, shiftE d h.2) }
    tok := { s.tok with
      dies := mapTab (shiftOb d) s.tok.dies
      cdEpochA := shiftE d s.tok.cdEpochA, cdEpochB := shiftE d s.tok.cdEpochB
      claimSince := shiftE d s.tok.claimSince }
    twin := { s.twin with
      ackEpoch := shiftE d s.twin.ackEpoch, resyncAt := shiftO d s.twin.resyncAt
      resyncFrom := shiftO d s.twin.resyncFrom, cuts := s.twin.cuts.map fun (c : Nat × Tables) => (shiftE d c.1, c.2)
      journal := s.twin.journal.map fun (j : JEntry) => { j with epoch := shiftE d j.epoch }
      reqs := s.twin.reqs.map fun (r : JReq) => { r with epoch := shiftE d r.epoch }
      cpls := s.twin.cpls.map fun (c : Nat × OutMsg) => (c.1, shiftMsg d c.2)
      detectedAt := shiftO d s.twin.detectedAt, handoverAt := shiftO d s.twin.handoverAt }
    sec := { s.sec with
      sessions := s.sec.sessions.map (shiftSess d)
      changes := s.sec.changes.map fun (c : KeyStore × List HeldCpl) => (shiftStore d c.1, c.2)
      tenderStore := shiftStore d s.sec.tenderStore
      attests := s.sec.attests.map fun (a : AttReq) => { a with epoch := shiftE d a.epoch } }
    rsl := { s.rsl with out := s.rsl.out.map (shiftCpl d) }
    evs := { s.evs with
      held := s.evs.held.map (shiftEv d), queue := s.evs.queue.map (shiftEv d)
      out := s.evs.out.map fun (e : Ev × Option Nat) => (shiftEv d e.1, e.2) } }

/-- The times of the pool's tables. -/
def State.shiftTables (s : State) (d : Int) : State :=
  { s with
    ports := mapTab (shiftPort d) s.ports
    fab := { s.fab with
      policers := mapTab (shiftPolicer d) s.fab.policers, circuits := mapTab (shiftCkt d) s.fab.circuits
      unbound := s.fab.unbound.map (shiftMsg d) }
    pool := { s.pool with
      leases := mapTab (shiftLease d) s.pool.leases, members := mapTab (shiftMember d) s.pool.members
      lastDelta := shiftE d s.pool.lastDelta, lastDeltaAt := shiftE d s.pool.lastDeltaAt
      reclaimWait := s.pool.reclaimWait.map fun (w : Nat × Nat) => (w.1, shiftE d w.2) }
    coh := { s.coh with
      trackers := s.coh.trackers.map (shiftTracker d)
      starve := s.coh.starve.map fun (x : Starve) => { x with lastRetry := shiftE d x.lastRetry } }
    coach := { s.coach with frecs := mapTab (shiftFrec d) s.coach.frecs }
    repro := { s.repro with
      barriers := mapTab (fun (b : Barrier) => { b with first := shiftE d b.first }) s.repro.barriers
      paired := shiftPaired d s.repro.paired, regions := mapTab (shiftRegion d) s.repro.regions
      pubs := s.repro.pubs.map fun (p : PubHeld) => { p with epoch := shiftE d p.epoch } }
    mem := { s.mem with
      ceLog := s.mem.ceLog.map fun (e : CeEntry) => { e with epoch := shiftE d e.epoch }
      sramRows := mapTab (fun (l : List Nat) => l.map (shiftE d)) s.mem.sramRows } }

/-- Fabric time reaches the next boundary; after a step every held epoch number moves with it, and armed LAUNCHes are
cancelled. -/
def State.nextEpoch (s : State) : State :=
  let plain := (s.epoch + 1) % epochCount
  let e := s.clk.stepTo.getD plain % epochCount
  let stepped := s.clk.stepTo.isSome
  let s := { s with clk := { s.clk with now := 4096 * e, stepTo := none } }
  if stepped then
    let d : Int := (e : Int) - plain
    ((s.shiftControl d).shiftTables d).cancelLaunches
  else s

/-- Does `f` as of the boundary of epoch `e`. -/
def State.atEpoch (s : State) (e : Nat) (f : State → State) : State :=
  let now := s.clk.now
  let s := f { s with clk := { s.clk with now := 4096 * e } }
  { s with clk := { s.clk with now := now } }

/-! ## Token bookkeeping (R28 to R31) -/

/-- Have all obeying dies that are not lost granted (R30, R31)? -/
def State.allGranted (s : State) (gs : List Nat) : Bool := s.odsAlive.all fun od => decide (od ∈ gs)

/-- The boundary closes the count of the last renewals; the third without all of them silences the active die (R30). -/
def State.countRenewals (s : State) : State :=
  if s.tok.active.isNone ∨ s.tok.silent then s
  else
    let missed := if s.allGranted s.tok.granted then 0 else s.tok.missed + 1
    let s := { s with tok := { s.tok with granted := [], missed := missed } }
    if 3 ≤ missed then s.activeStops true false else s

/-- CD-A claims at the first boundary after it reports ready (R32). -/
def State.startClaim (s : State) : State :=
  if s.boot.readyA ∧ !s.dieDead dieCdA ∧ s.tok.active.isNone ∧ s.tok.claimant.isNone ∧ s.boot.tokenEpoch.isNone then
    { s with tok := { s.tok with claimant := some dieCdA, claimGrants := [], claimSince := s.epoch, claimCause := 0 } }
  else s

/-- Token messages of the epoch just ended that have not arrived are lost, but for releases. -/
def State.dropStale (s : State) : State :=
  { s with tok := { s.tok with
    sent := s.tok.sent.filter fun m => decide (m.kind = .release)
    replies := s.tok.replies.filter fun a => decide (a.reply = .released) } }

/-- Step 1 of R35: the active die renews its token at every obeying die; a claimant renews those that have granted and
claims the others again (R31, R370). A die that has stopped sends nothing (R30). -/
def State.renewTokens (s : State) : State :=
  let s := s.dropStale
  let s := match s.tok.active with
    | some d => if s.tok.silent then s else s.sendToks .renew d [0, 1, 2]
    | none => s
  match s.tok.claimant with
  | some d =>
    let mine := s.tok.claimGrants.filter fun od => decide (s.odHolder od = some d)
    let s := { s with tok := { s.tok with claimGrants := mine } }
    (s.sendToks .renew d mine).sendToks .claim d (s.odsAlive.filter fun od => decide (od ∉ mine))
  | none => s

/-- A die that runs and gets no mark reports it (R34). [DEDUCED, log 46: unsafe] -/
def State.markMissing (s : State) (die : Nat) (running mark : Bool) : State :=
  if running && !mark then s.raise 0x010C sevWarning die (leBytes 1 die ++ leBytes 8 s.epoch) else s

/-- The boundary at control die `die`: it steers its epoch counter to the mark that its port link brings; without one it
advances by one and reports (R34). -/
def State.controlBoundary (s : State) (die : Nat) (mark : Bool) : State :=
  let mark := mark && !Tab.get false s.tok.linkDown die
  let e := if mark then s.epoch else ((if die = dieCdA then s.tok.cdEpochA else s.tok.cdEpochB) + 1) % epochCount
  let s := { s with tok := if die = dieCdA then { s.tok with cdEpochA := e } else { s.tok with cdEpochB := e } }
  s.markMissing die (if die = dieCdA then s.boot.readyA else s.boot.readyB) mark

/-- EV_START at the first boundary after the token stage; the events held until then follow it (R97, R423). -/
def State.raiseStart (s : State) : State :=
  match s.boot.tokenEpoch with
  | some e =>
    if s.evs.started ∨ s.epoch ≤ e then s
    else
      let held := s.evs.held
      let s := { s with evs := { s.evs with started := true, held := [] } }
      let s := s.raise 0x0201 sevInfo s.actDie (leBytes 4 (bootStatus s))
      held.foldl State.queueEv s
  | none => s

/-! ## Step 2: shadowed settings (R109 to R111) -/

/-- One shadowed value takes effect. PORT.ADMIN_DOWN takes ports down; a new PWR.LIMIT_W restarts the counts of R65
(R434). -/
def State.applyField (s : State) (id v : Nat) : State :=
  let old := s.cfgAt id
  let s := ({ s with cfg := { s.cfg with vals := Tab.set none s.cfg.vals id (some v) } }).logChange 0x000D id 32 none
  if id = fAdminDown then
    ((List.range 64).filter fun n => v.testBit n && !old.testBit n).foldl (fun s n => s.linkDown n 6) s
  else if id = fLimitW then
    { s with power := { s.power with
      floorSince := s.power.floorSince.map fun _ => s.epoch
      belowSince := s.power.belowSince.map fun _ => s.epoch } }
  else s

def State.applyShadow (s : State) : State :=
  let sh := s.cfg.shadow
  sh.foldl (fun s e => match e.2 with
    | some v => s.applyField e.1 v
    | none => s) { s with cfg := { s.cfg with shadow := [] } }

/-- CFG_WRITEs whose value has applied complete, after the cut (R111). -/
def State.answerWrites (s : State) : State :=
  let due := s.cfg.held.filter fun h => decide (h.2 ≤ s.epoch)
  let s := { s with cfg := { s.cfg with held := s.cfg.held.filter fun h => !decide (h.2 ≤ s.epoch) } }
  due.foldl (fun s h => match h.1 with
    | .rsl c => s.rslAnswer c 0x0110 cOk h.2 []
    | _ => s) s

/-! ## Step 8, and the ports' epoch counters (R82, R146, R153, R172) -/

/-- CREDIT_SYNC becomes due on every trained port where the epoch number mod 256 is 0, TIME_PROBE on the Corxel ports
where it is 128; a probe that got no echo is a failed measurement. -/
def State.dueControl (s : State) (n : Nat) : State :=
  let p := s.port n
  if !s.portUp n then s
  else if s.epoch % 256 = 0 then s.setPort n { p with due := p.due ++ [.creditSync []] }
  else if s.epoch % 256 = 128 ∧ !isRsl n then
    s.setPort n { p with due := p.due ++ [.timeProbe s.epoch], measured := p.measured && !p.probing, probing := false }
  else s

/-- The epoch just ended is counted for a port. -/
def State.countPortEpoch (s : State) (n : Nat) : State :=
  let p := s.port n
  let s := if p.stalledEpoch then s.bumpPort n 16 1 else s
  let s := if p.throttledEpoch then s.bumpPort n 28 1 else s
  if p.stalledEpoch ∨ p.throttledEpoch ≠ p.throttled then
    s.setPort n { p with stalledEpoch := false, throttledEpoch := p.throttled }
  else s

def State.portsBoundary (s : State) : State :=
  let ns := s.ports.map (·.1)
  let s := { s with fab := { s.fab with paced := 0 } }
  let s := ns.foldl State.countPortEpoch s
  ns.foldl State.dueControl s

/-! ## Step 9: the state copy (R359 to R362, R365) -/

/-- A running descriptor's resume position, below which every write has been accepted, is written to its pantry record
(R360). -/
def State.writeResume (s : State) : State :=
  { s with coach := { s.coach with descs := s.coach.descs.map fun (d : Desc) =>
    if d.st = .running then { d with resume := d.openWr.foldl (fun m w => min m w.pos) d.pos } else d } }

/-- A response that cannot be bound is entered as KIND 0x0012, and its request leaves the journal (R365). -/
def State.journalHeld (s : State) : State :=
  let ms := s.fab.unbound
  let s := { s with fab := { s.fab with unbound := ms.map fun (m : OutMsg) => { m with jidx := none } } }
  ms.foldl (fun (s : State) m => match m.jidx with
    | some j => (s.logChange 0x0012 j (16 + (m.body.length + 15) / 16 * 16) (some j)).retire j
    | none => s) s

/-- The entries after the last CUT. -/
def sinceCut (js : List JEntry) : List JEntry :=
  js.foldl (fun acc j => if j.kind = 1 then [] else acc ++ [j]) []

/-- The copied tables as they stand (R359). -/
def State.tables (s : State) : Tables where
  exts := s.pool.exts
  grants := s.pool.grants
  leases := s.pool.leases
  quotas := s.pool.quotas
  remap := s.mem.remap
  moving := s.mem.moving
  closed := s.mem.closed
  rings := s.coach.rings
  domains := s.coh.domains
  bufs := s.stock.bufs
  regions := s.repro.regions
  policers := s.fab.policers
  circuits := s.fab.circuits
  barriers := s.repro.barriers
  vals := s.cfg.vals
  shadow := s.cfg.shadow
  ceLog := s.mem.ceLog
  invals := s.coach.invals
  ctrs := s.ctrs
  setGen := s.pool.setGen
  members := s.pool.members
  lastDelta := s.pool.lastDelta

/-- The counters as the last cut holds them: the newest cut on its way, else the tender's copy. -/
def State.cutCtrs (s : State) : Tab Nat :=
  match s.twin.cuts.getLast?, s.twin.copy with
  | some c, _ => c.2.ctrs
  | none, some t => t.ctrs
  | none, none => []

/-- Counters that changed since the last cut: an entry each (KIND 0x000F). -/
def State.journalCounters (s : State) : State :=
  let moved := s.ctrs.filter fun e => decide (Tab.get 0 s.cutCtrs e.1 ≠ e.2)
  moved.foldl (fun (s : State) e => s.logChange 0x000F e.1 32 none) s

/-- The CUT entry, and everything since the last one sent (R361). -/
def State.writeCut (s : State) : State :=
  let s := s.journalCounters
  let s := s.logChange 0x0001 0 32 none
  let body := sinceCut (s.twin.journal.take (s.twin.journal.length - 1))
  let sent := sumOf (body.map JEntry.bytes) + 48
  ({ s with twin := { s.twin with cuts := s.twin.cuts ++ [(s.epoch, s.tables)] } }).bump 10 0 16 sent

/-- Step 9, and what follows the CUT: page switches (R362). Not in paired check. -/
def State.stateCopy (s : State) : State :=
  let s := s.writeResume
  let s := if s.copying then s.journalHeld.writeCut else s
  s.remapSwitches

/-- Completions recorded for requests that the request journal no longer holds are dropped. -/
def State.pruneCpls (s : State) : State :=
  { s with twin := { s.twin with cpls := s.twin.cpls.filter fun c => (s.journaled c.1).isSome } }

/-! ## The boundary (R35) -/

/-- The window of AUTO_RESETS ends where the epoch number crosses a multiple of 1,048,576 (R355). -/
def State.resetWindow (s : State) (was : Nat) : State :=
  if s.epoch / 1048576 ≠ was / 1048576 then { s with twin := { s.twin with autoResets := 0 } } else s

/-- Step 4: lease accounting and the set's deltas (R187, R201, R204, R206). -/
def State.boundaryLeases (s : State) : State :=
  let s := s.applyMaster.leaseAccounting
  (s.sendDeltas s.epoch).startReclaims

/-- Steps 5 to 7 after the leases: reproducible runs, gate lists, the ring scan. -/
def State.boundaryRuns (s : State) : State := s.fireLaunches.stepCircuits.ringScan

/-- Is lock-step running through this boundary? -/
def State.lockstep (s : State) : Bool :=
  match s.repro.paired with
  | .on => true
  | .exitAt e _ => decide (s.epoch < e)
  | _ => false

/-- What the memory's keepers do at a boundary (R341, R344, R349, R433). -/
def State.boundaryMemory (s : State) : State := s.spareRows.retryRetire.judgeLevel

/-- PANTRY_STALL_EPOCHS and JOURNAL_FULL_EPOCHS. -/
def State.countEpoch (s : State) : State :=
  let s := if s.coach.stallEpoch then ({ s with coach := { s.coach with stallEpoch := false } }).bump 10 0 7 1 else s
  if s.twin.fullEpoch then ({ s with twin := { s.twin with fullEpoch := false } }).bump 10 0 19 1 else s

/-- The pinned actions of R35 with an active die that serves. -/
def State.pinned (s : State) : State :=
  let s := s.applyShadow.routeSwitch.boundaryLeases.boundaryRuns.portsBoundary.pairedExit.boundaryMemory
  (if s.lockstep then s else s.stateCopy).answerWrites.pruneCpls

/-- The shadowed settings that the port die itself obeys (R35 step 2, R65, R151). -/
def portDieField (id : Nat) : Bool := decide (id = fAdminDown ∨ id = fLimitW)

/-- The port die's own pending settings take effect. While it holds its outputs, its status fields keep their values
(R374), and so they wait. -/
def State.applyShadowPd (s : State) : State :=
  if s.twin.paused then s
  else
    let mine := s.cfg.shadow.filter fun e => portDieField e.1
    mine.foldl (fun s e => match e.2 with
      | some v => s.applyField e.1 v
      | none => s) { s with cfg := { s.cfg with shadow := s.cfg.shadow.filter fun e => !portDieField e.1 } }

/-- What the port die does alone, while no active die serves. -/
def State.pinnedPd (s : State) : State := s.applyShadowPd.routeSwitch.stepCircuits.portsBoundary

end Sys2Proof.Machine
end

