-- ==== Sys2Proof/Machine/TakeoverOps.lean ====
section
/-! DEFINITION. Becoming the active die (R31, R32, R290, R353 to R378): the first claim of a start, the takeover, and
resynchronisation. The tables that the tender keeps by the state copy are the tables of State; a takeover undoes what is
not copied (R360). -/

set_option Elab.async false

namespace Sys2Proof.Machine
open Sys2Proof

/-! ## What a takeover loses (R162, R230, R290, R360, R372, R384, R405) -/

/-- Is block `k` of buffer `x` in the store, and EMPTY or FILLING? -/
def State.blockGone (s : State) (b : Nat) (x : Buf) (k : Nat) : Bool :=
  decide (x.home k = .store) && decide ((s.blk b k).st = .empty ∨ (s.blk b k).st = .filling)

/-- The store-resident blocks of an OPEN buffer that are not done become LOST, and the buffer with them (R290). -/
def State.loseStore (s : State) (b : Nat) : State :=
  let x := s.buf b
  let gone := (List.range (min x.storeBlocks x.blocks)).filter fun k => s.blockGone b x k
  if x.st ≠ .opened ∨ x.memory ∨ gone = [] then s
  else
    let s := gone.foldl (fun (s : State) k => s.setBlk b k ⟨.lost, 0, 0, []⟩) s
    let s := s.setBuf b { x with
      st := .lost, doneBlocks := x.doneBlocks + gone.length, failedBlocks := x.failedBlocks + gone.length
      firstFail := if x.firstFail = cOk then cPoison else x.firstFail }
    let s := { s with stock := { s.stock with staged := s.stock.staged.filter fun g => !decide (g.buf = b ∧ g.blk ∈ gone) } }
    (s.bump 6 x.tenant 6 gone.length).redNotice b 2

/-- The new active die's store holds no accumulators, and its tag array no counts and no NEXT (R267, R360). -/
def State.emptyStore (s : State) : State :=
  let strip := fun (key : Nat) (y : Blk) =>
    if (s.buf (key / 2 ^ 33)).home (key % 2 ^ 33) = .store then { y with count := 0, next := 0, acc := [] } else y
  { s with stock := { s.stock with blks := Tab.mapVals Blk.empty strip s.stock.blks } }

/-- A descriptor as the new active die finds it: a running one resumes at its recorded position (R372). An INVALIDATE
that counts as started stays so: its waits are copied (R250, R359). -/
def resumeDesc (d : Desc) : Desc :=
  if d.st = .running ∧ d.op ≠ opInvalidate then
    { d with st := .queued, pos := d.resume, openWr := [], engine := none, lines := [], waited := false
             endCode := if d.endCode = cPoison then cPoison else cOk }
  else d

/-- An unbound message that the state copy does not hold is lost with the failed die: snoops, coach output, and answers
whose request is still in the journal. -/
def survives (m : OutMsg) : Bool := m.notice || (decide (m.cls ≠ clsSnp ∧ m.opcode ≠ opCoachWr) && m.jidx.isNone)

/-- A policer as the new active die starts it: full (R162). -/
def fullPolicer (now : Nat) (p : Policer) : Policer :=
  if p.enable then { p with tc := p.cbs * 1024, tp := p.pbs * 1024, last := now } else p

/-- Groups 2 to 7 of the counters, and the module counters up to those of the port die, are the active die's. -/
def activeCounter (k : Nat) : Bool :=
  let g := k / (65536 * 64)
  decide ((2 ≤ g ∧ g ≤ 7) ∨ (g = 10 ∧ k % 64 ≤ 20))

/-- Counts made since the last CUT are lost (R380). -/
def State.restoreCounters (s : State) : State :=
  let keep := s.ctrs.filter fun e => !activeCounter e.1
  let old := s.cutCtrs.filter fun e => activeCounter e.1
  { s with ctrs := old.foldl (fun t e => Tab.set 0 t e.1 e.2) keep }

/-- What slot `n` of the failed root holds is undone as after a tag failure (R405); a SEAL_IMPORT that waits runs afresh
when it is replayed. -/
def State.undoImport (s : State) (n : Nat) : State :=
  let x := s.slot n
  let e := s.ext x.ext
  let s := if e.sealed then s.setExt x.ext { e with sealed := false, key := e.tenant } else s
  (s.clearValid x.ext).freeSlot n []

/-- Does the tender's root hold the record of slot `n`, SEALED as the failed root has it? -/
def State.slotCopied (s : State) (n : Nat) (x : SealSlot) : Bool :=
  let y := Tab.get SealSlot.empty s.sec.tenderStore.slots n
  decide (x.st = .sealed ∧ y.st = .sealed ∧ x.ext = y.ext ∧ x.header = y.header)

/-- A die that becomes active draws a fresh block of 65,536 SEQ values for each session (R400). -/
def nextBlock (x : Session) : Session := { x with sendSeq := (x.sendSeq / 65536 + 1) * 65536 }

/-- A session as the tender's root holds it, with its window and block as the port die holds them (R384, R400). -/
def State.heldSession (s : State) (x : Session) : Session :=
  nextBlock (match s.session x.id with
    | some y => { x with seen := y.seen, high := y.high, sendSeq := y.sendSeq, passed := y.passed }
    | none => x)

/-- The tender's root becomes the active root: changes that it has not acknowledged are undone, and what waited for them
is done again when its request is replayed (R384, R405). -/
def State.changeRoot (s : State) : State :=
  let lost := (s.sec.slots.filter fun e => decide (e.2.st ≠ .free) && !s.slotCopied e.1 e.2).map (·.1)
  let s := { s with sec := { s.sec with
    changes := [], attests := [], sessions := s.sec.tenderStore.sessions.map s.heldSession
    tenderStore := KeyStore.empty } }
  lost.foldl State.undoImport s

/-- What waits in the failed die, is not copied, and comes again with the replay of its request: CFG_WRITEs (R111),
RED_CLOSEs (R279), LC_ADVANCE and DEBUG_OPEN, ATTESTs (R392), paired-check entry, the completions that set orders
hold, and a handover that has not come to its HANDOVER entry (R376). `planned`: the takeover is that handover. -/
def State.dropWaiters (s : State) (planned : Bool) : State :=
  let ended := decide (s.twin.handoverReset = true ∧ ¬ planned)
  { s with
    cfg := { s.cfg with held := [] }
    pool := { s.pool with orders := s.pool.orders.map fun (r : SetOrderRec) => { r with held := none } }
    stock := { s.stock with bufs := mapTab (fun (x : Buf) => { x with closing := [] }) s.stock.bufs }
    repro := { s.repro with paired := .off }
    boot := { s.boot with
      lcTarget := none, lcOwed := [], dbgOpenRun := false
      dieResetOf := if ended then none else s.boot.dieResetOf
      dieResetOwed := if ended then [] else s.boot.dieResetOwed }
    twin := { s.twin with handoverOwed := if planned then s.twin.handoverOwed else [] } }

/-- The parts of the module's state that no copy holds, as the new active die starts them. -/
def State.loseUncopied (s : State) : State :=
  let s : State := { s with
    coh := { s.coh with trackers := [], starve := [] }
    mem := { s.mem with
      hubQueue0 := [], hubQueue1 := []
      moving := mapTab (fun (m : Option Move) => m.map fun (y : Move) => { y with copied := false }) s.mem.moving }
    coach := { s.coach with engines := [], descs := s.coach.descs.map resumeDesc }
    stock := { s.stock with jobs := [] }
    fab := { s.fab with
      policers := mapTab (fullPolicer s.clk.now) s.fab.policers
      unbound := s.fab.unbound.filter survives }
    sec := { s.sec with pend := if s.sec.pend = PendState.writing then PendState.failed else s.sec.pend }
    boot := if s.sec.pend = PendState.writing then { s.boot with wpA := true, wpB := true } else s.boot }
  let s := (s.bufsWhere fun b => decide (b.st = .opened)).foldl State.loseStore s
  s.emptyStore.changeRoot

/-! ## Taking over (R371, R375 to R377) -/

/-- Does the port die's journal hold a LEASE_RENEW of host `h` that it received before epoch `e` (R187)? -/
def State.renewOpen (s : State) (h e : Nat) : Bool :=
  (s.twin.reqs.any fun r => r.renew && decide (r.src = h ∧ r.epoch < e)) ||
    s.rsl.opens.any fun o => decide (o.renews = some h ∧ o.epoch < e)

/-- The lease accounting of a boundary that a takeover makes up for: a host with a renewal of an earlier receipt in the
journal is accounted when that has been judged (R187). -/
def State.catchUpLeases (s : State) : State :=
  if (s.isMaster ∨ s.pool.degraded) ∧ ¬ s.pool.refusedByPeer then
    (s.pool.leases.map (·.1)).foldl (fun (s : State) h =>
      if s.renewOpen h s.epoch then s
      else if (s.lease h).st = .live then s.leaseEnd h else s.graceEnd h) s
  else s

/-- Steps 2 and 4 of R35 at a boundary, as a takeover makes up for them: shadowed settings, the accounting, and the
SET_DELTA of that epoch (R204). -/
def State.missedBoundary (s : State) : State :=
  let s := s.applyShadow.applyMaster.catchUpLeases
  (s.sendDeltas s.epoch).startReclaims

/-- The epoch of the last cut. -/
def State.lastCut (s : State) : Nat := ((s.twin.cuts.getLast?).map (·.1)).getD s.twin.ackEpoch

/-- The boundaries between the last cut, of epoch `cut`, and now. -/
def State.missed (s : State) (cut : Nat) : List Nat := (List.range (s.epoch - (cut + 1))).map (· + (cut + 1))

/-- Step 4 of R371 for each boundary missed since the cut of epoch `cut`, and step 5 for this one. LAUNCHes whose epoch
has passed are cancelled in step 5, where the epoch that they carry is current (R303). [DEDUCED, log 52: unsafe] -/
def State.catchUp (s : State) (cut : Nat) : State :=
  let s := (s.missed cut).foldl (fun (s : State) e => s.atEpoch e State.missedBoundary) s
  s.missedBoundary.fireLaunches.ringScan.boundaryMemory.stateCopy.answerWrites

/-- Every open journal entry is to be replayed, in JIDX order, before any new request (R366, R371). The service link's
entries are its open commands. -/
def State.markReplay (s : State) : State :=
  let n := (s.twin.reqs.filter fun r => !r.answer).length
  ({ s with
    twin := { s.twin with reqs := s.twin.reqs.map fun (r : JReq) => { r with replay := true, held := true } }
    rsl := { s.rsl with opens := s.rsl.opens.map fun (o : RslOpen) => { o with replay := true } } }).bump 10 0 17
      (n + s.rsl.opens.length)

/-- What becomes of the former active die (R354, R377). -/
def State.formerDie (s : State) (former : Nat) : State :=
  let planned := decide (s.twin.lastCause = 4)
  let gone := s.dieGone former || Tab.get false s.tok.linkDown 8
  if planned && !s.twin.handoverReset then
    { s with twin := { s.twin with tender := .resync, resyncAt := some (s.epoch + 1), resyncFrom := none } }
  else if planned then ({ s with twin := { s.twin with tender := .resetting } }).resetDie former
  else s.restartPolicy gone

/-- TWIN_SWITCHes that waited complete, carrying T (R375). [DEDUCED, log 57: unsafe] -/
def State.answerSwitch (s : State) : State :=
  let owed := s.twin.handoverOwed
  owed.foldl (fun s v => match v with
    | .rsl c => s.rslAnswer c 0x010A cOk s.epoch []
    | _ => s) { s with twin := { s.twin with handoverOwed := [] } }

/-- Die `die` has the grants and takes over (R371). [DESIGN CHOICE, log 13: safe] -/
def State.takeover (s : State) (die : Nat) : State :=
  let former := s.tok.active.getD (1 - die)
  let cause := s.tok.claimCause
  let cut := s.lastCut
  let s := s.restoreCounters
  let s := { s with
    tok := { s.tok with active := some die, granted := s.odsAlive, missed := 0, silent := false, claimant := none,
                        claimGrants := [], expired := [] }
    twin := { s.twin with tender := .resetting, lastCause := cause, switchovers := min 4095 (s.twin.switchovers + 1), cuts := [],
                          copy := none, failSent := false, journal := [], paused := false, detectedAt := none,
                          handoverAt := none, released := [] } }
  let s := ((s.dropWaiters (decide (cause = 4))).loseUncopied.catchUp cut).markReplay
  let s := s.raise 0x0701 sevWarning die (leBytes 1 cause ++ leBytes 1 die ++ leBytes 8 s.epoch)
  let s := s.answerSwitch.formerDie former
  { s with twin := { s.twin with handoverReset := false } }

/-- Die `die` is the first to hold the token in this start (R32, R96, R105). A die that has lost a rail by then is an
ABSENT tender (R98, R354). -/
def State.firstActive (s : State) (die : Nat) : State :=
  { s with
    tok := { s.tok with active := some die, granted := s.odsAlive, missed := 0, silent := false, claimant := none,
                        claimGrants := [] }
    twin := { s.twin with tender := if s.dieGone (1 - die) then .absent else s.twin.tender }
    boot := { s.boot with tokenEpoch := some s.epoch, stage := if s.boot.recovery then 15 else 5 } }

/-- The claimant has every grant it needs (R31, R370). A claim under R370 in a failed pool takes nothing over. -/
def State.claimed (s : State) (die : Nat) : State :=
  if s.tok.fatal.isSome then { s with tok := { s.tok with claimant := none } }
  else if s.tok.active.isNone then s.firstActive die
  else s.takeover die

/-! ## Resynchronisation (R354, R364, R378, R384) -/

/-- Resynchronisation begins: journaling starts, and the whole key store goes to the tender's root first. -/
def State.startResync (s : State) : State :=
  { s with
    sec := { s.sec with changes := s.sec.changes ++ [(s.keyStore, [])] }
    twin := { s.twin with tender := .resync, resyncAt := none, resyncFrom := some s.epoch, cuts := [], journal := [],
                          mirror0 := [], mirror1 := [], mirrorGood := 0, readThis := [], keyStoreSent := false } }

/-- A list of a hub was not read in time: the tender is unsynchronised until it holds four successive lists again
(R364). [DEDUCED, log 50: unsafe] -/
def State.missList (s : State) : State :=
  let t := if s.twin.tender = .synced then TenderState.resync else s.twin.tender
  ({ s with twin := { s.twin with tender := t, mirrorGood := 0, mirror0 := [], mirror1 := [] } }).bump 10 0 20 1

/-- Must the tender have read a hub's previous list in the epoch just ended? It reads the lists from R onward. -/
def State.listDue (s : State) : Bool :=
  s.copying && (match s.twin.resyncFrom with
    | some r => decide (r + 1 < s.epoch)
    | none => false)

end Sys2Proof.Machine
end

