-- ==== Sys2Proof/Machine/Token.lean ====
section
/-! DEFINITION. The meanings of the epoch-boundary, token and die-to-die-link commands (R20 to R36). -/

set_option Elab.async false

namespace Sys2Proof.Machine
open Sys2Proof

/-! ## Boundaries (R34 to R36) -/

/-- EPOCH_BOUNDARY: the port die's marks go out, and the pinned actions of R35 are carried out in their order. -/
def execEpochBoundary (markToA markToB : Bool) (s : State) : Out :=
  .next (
    if !s.clk.running then s
    else
      let was := s.epoch
      let s := s.nextEpoch.resetWindow was
      let s := s.setOb odPd { s.ob odPd with epoch := s.epoch }
      let s := (s.controlBoundary dieCdA markToA).controlBoundary dieCdB markToB
      let s := s.countRenewals.startClaim.renewTokens.raiseStart.countEpoch
      if s.attended then s.pinned else s.pinnedPd)

/-- Halves the access counts of a hub's pages (R36, R335). -/
def State.halveCounts (s : State) (hub : Nat) : State :=
  let half := fun p (n : Nat × Nat) => if hubOf p = hub then (n.1 / 2, n.2 / 2) else n
  { s with mem := { s.mem with counts := Tab.mapVals (0, 0) half s.mem.counts } }

/-- The commit-record lists move on (R36). -/
def State.rotateLists (s : State) (hub : Nat) : State :=
  if hub = 0 then { s with mem := { s.mem with prev0 := s.mem.commit0, commit0 := [] } }
  else { s with mem := { s.mem with prev1 := s.mem.commit1, commit1 := [] } }

/-- HUB_EPOCH_BOUNDARY: a hub's boundary, by the mark or on its own counter (R29, R34, R36). A failed mark link brings no
mark (R21). A mark at or below the hub's own count, which has run ahead, is not a further boundary; the spec does not
say how such a hub is steered back. [DEDUCED, log 4: unsafe] [DESIGN CHOICE, log 145: unsafe] -/
def execHubEpochBoundary (hub : Nat) (mark : Bool) (s : State) : Out :=
  .next (
    let x := s.ob hub
    let mark := mark && !Tab.get false s.tok.linkDown (6 + hub)
    if 1 < hub ∨ s.hubGone hub ∨ !s.clk.running ∨ (mark ∧ s.epoch ≤ x.epoch) then s
    else
      let e := if mark then s.epoch else (x.epoch + 1) % epochCount
      let s := s.setOb hub { x with epoch := e }
      let s := s.markMissing (odDie hub) true mark
      let s := if s.listDue && !Tab.get false s.twin.readThis hub then s.missList else s
      let s := { s with twin := { s.twin with readThis := Tab.set false s.twin.readThis hub false } }
      let s := s.rotateLists hub
      if e % 1024 = 0 then s.halveCounts hub else s)

/-! ## The token at an obeying die (R27, R28) -/

/-- Is this an obeying die that is not lost, and a control die? -/
def State.tokenEnds (s : State) (od die : Nat) : Bool := decide (od ≤ 2 ∧ die ≤ 1) && !s.odLost od

/-- Counts what came from a die that does not hold the token. -/
def State.tokenRefused (s : State) (od : Nat) : State := s.bump 10 0 (21 + od) 1

/-- Holds the token for `die` until four epochs from now. -/
def State.holdToken (s : State) (od die : Nat) : State :=
  let e := s.odEpoch od
  s.setOb od { s.ob od with holder := some die, expiry := e + 4, renewedAt := some e }

/-- Does the token message come from a control die that sent it to an obeying die that is not lost? -/
def State.tokArrives (s : State) (k : TokKind) (od die : Nat) : Bool :=
  s.tokenEnds od die && decide (⟨k, die, od⟩ ∈ s.tok.sent)

/-- The message has arrived. -/
def State.takeTok (s : State) (k : TokKind) (od die : Nat) : State :=
  { s with tok := { s.tok with sent := s.tok.sent.filter fun m => decide (m ≠ ⟨k, die, od⟩) } }

/-- TOKEN_CLAIM: granted when UNHELD; else the reply names the holder and the expiry. [DESIGN CHOICE, log 146: safe] -/
def execTokenClaim (od die : Nat) (s : State) : Out :=
  .next (
    if !s.tokArrives .claim od die then s
    else
      let s := s.takeTok .claim od die
      match s.odHolder od with
      | none => (s.holdToken od die).replyTok die od .granted
      | some x => s.replyTok die od (.heldBy x (s.ob od).expiry))

/-- TOKEN_RENEW: the holder's extends the lease; any other is discarded and counted. -/
def execTokenRenew (od die : Nat) (s : State) : Out :=
  .next (
    if !s.tokArrives .renew od die then s
    else
      let s := s.takeTok .renew od die
      if s.odHolder od = some die then (s.holdToken od die).replyTok die od .granted
      else s.tokenRefused od)

/-- TOKEN_RELEASE from the holder: the commands that the hub has accepted are finished first; the port die forwards the
reply to the other control die too (R28, R367). A release of another die finds nothing to release. -/
def execTokenRelease (od die : Nat) (s : State) : Out :=
  .next (
    if !s.tokArrives .release od die then s
    else if s.odHolder od ≠ some die then s.takeTok .release od die
    else
      let s := if od = odPd then s else s.drainHub od
      if od ≠ odPd ∧ s.hubQueue od ≠ [] then s
      else
        let s := (s.takeTok .release od die).setOb od { s.ob od with holder := none, expiry := 0 }
        (s.replyTok die od .released).replyTok (1 - die) od .released)

/-- TOKEN_EXPIRY: the boundary at which the obeying die's epoch equals the expiry; its indication goes to the port die. -/
def execTokenExpiry (od : Nat) (s : State) : Out :=
  .next (
    let x := s.ob od
    if od ≤ 2 ∧ x.holder.isSome ∧ x.expiry ≤ s.odEpoch od then
      let s := s.setOb od { x with holder := none, expiry := 0 }
      { s with tok := { s.tok with expired := s.tok.expired ++ [od] } }
    else s)

/-- OBEYING_DIE_COMMAND: the holder's commands are carried out, each by the step that it belongs to; status and
commit-record reads are answered from either die and change nothing; any other is discarded and counted (R27). -/
def execObeyingDieCommand (od die : Nat) (kind : OdKind) (s : State) : Out :=
  .next (
    if !s.tokenEnds od die then s
    else match kind with
      | .statusRead => s
      | .commitRead => s
      | .command => if s.odHolder od = some die then s else s.tokenRefused od)

/-! ## The token at a control die (R30 to R32) -/

/-- A GRANTED from an obeying die that does hold the token for the die. -/
def State.gotGrant (s : State) (die od : Nat) : State :=
  if s.odHolder od ≠ some die then s
  else if s.tok.claimant = some die then
    let gs := od :: s.tok.claimGrants.filter fun x => decide (x ≠ od ∧ s.odHolder x = some die)
    let s := { s with tok := { s.tok with claimGrants := gs } }
    if s.allGranted gs then s.claimed die else s
  else if s.tok.active = some die then
    { s with tok := { s.tok with granted := od :: s.tok.granted.filter fun x => decide (x ≠ od) } }
  else s

/-- A RELEASED: the last one of a handover ends the active role (R376); one that the tender did not ask for tells it of
the active die's failure (R367). -/
def State.gotReleased (s : State) (die od : Nat) : State :=
  if s.tok.active = some die ∧ s.handingOver ∧ s.twin.paused then
    let rs := od :: s.twin.released.filter fun x => decide (x ≠ od)
    let s := { s with twin := { s.twin with released := rs } }
    if s.allGranted rs ∧ s.tok.claimant.isNone then
      let s := s.logChange 0x0014 0 16 none
      let sent := sumOf ((sinceCut s.twin.journal).map JEntry.bytes)
      { s.bump 10 0 16 sent with tok := { s.tok with
        claimant := some s.tenderDie, claimGrants := [], claimSince := s.epoch, claimCause := 4 } }
    else s
  else if s.tok.active.isSome ∧ die = s.tenderDie ∧ !s.handingOver then s.judgeLost 1
  else s

/-- TOKEN_REPLY, of an obeying die that sent it (R30, R31). [DEDUCED, log 48: unsafe] -/
def execTokenReply (die od : Nat) (reply : TokReply) (s : State) : Out :=
  .next (
    if !s.tokenEnds od die ∨ ⟨die, od, reply⟩ ∉ s.tok.replies then s
    else
      let s := { s with tok := { s.tok with replies := s.tok.replies.filter fun a => decide (a ≠ ⟨die, od, reply⟩) } }
      match reply with
      | .granted => s.gotGrant die od
      | .heldBy _ _ => s
      | .released => s.gotReleased die od)

/-- RENEWAL_SILENCE: at the third boundary without a GRANTED from every obeying die not lost (R30). -/
def execRenewalSilence (s : State) : Out :=
  .next (
    if s.tok.active.isNone ∨ s.tok.silent ∨ s.tok.missed < 2 ∨ s.allGranted s.tok.granted then s
    else s.activeStops true false)

/-- CD_B_CLAIM_WAIT_END: CD-B claims when the token is still unheld 8 epochs after it reported ready (R32). -/
def execCdBClaimWaitEnd (s : State) : Out :=
  .next (
    if !s.boot.readyB ∨ s.dieDead dieCdB ∨ s.tok.cdEpochB < s.boot.readyEpochB + 8 ∨ s.tok.active.isSome ∨
        s.tok.claimGrants ≠ [] ∨ s.boot.tokenEpoch.isSome ∨
        (s.odsAlive.any fun od => (s.odHolder od).isSome) = true then s
    else
      let s := { s with tok := { s.tok with
        claimant := some dieCdB, claimGrants := [], claimSince := s.epoch, claimCause := 0 } }
      s.sendToks .claim dieCdB s.odsAlive)

/-! ## Die-to-die links (R21) -/

/-- D2D_CRC_ERROR: the transfer is discarded and the sender retries it. `retry`: the transfer was itself a retry, and so
one more of its successive retries has failed; the first transfer of another starts the count anew. -/
def execD2dCrcError (link : Nat) (retry : Bool) (s : State) : Out :=
  .next (
    if 8 < link ∨ Tab.get false s.tok.linkDown link then s
    else
      let n := if retry then min 8 (Tab.get 0 s.tok.retries link + 1) else 0
      { s with tok := { s.tok with retries := Tab.set 0 s.tok.retries link n } })

/-- D2D_LINK_FAIL: eight successive retries of one transfer have failed. Links 0 to 7 in the order of EV_D2D_LINK, and 8
the tender link. [DEDUCED, log 49: unsafe] -/
def execD2dLinkFail (link : Nat) (s : State) : Out :=
  .next (
    if 8 < link ∨ Tab.get false s.tok.linkDown link ∨ Tab.get 0 s.tok.retries link < 8 then s
    else
      let s := { s with tok := { s.tok with
        linkDown := Tab.set false s.tok.linkDown link true, retries := Tab.set 0 s.tok.retries link 0 } }
      if link = 8 then (s.raise 0x0704 sevWarning s.actDie (leBytes 8 (twinStatus s))).loseTender true
      else
        let s := s.raise 0x010D sevWarning diePd (leBytes 1 link)
        if link ∈ [0, 2, 3] then s.dieLost dieCdA false
        else if link ∈ [1, 4, 5] then s.dieLost dieCdB false
        else s)

end Sys2Proof.Machine
end

