-- ==== Sys2Proof/Machine/Twin.lean ====
section
/-! DEFINITION. The meanings of the commands of the twin control dies (R112, R113, R344, R353 to R379). -/

set_option Elab.async false

namespace Sys2Proof.Machine
open Sys2Proof

/-! ## The state copy (R354, R361, R364, R378) -/

/-- Journal entries after the CUT of epoch `e`: the space up to it is reused (R361). -/
def afterCut (e : Nat) : List JEntry → List JEntry
  | [] => []
  | j :: js => if j.kind = 1 ∧ j.epoch = e then js else afterCut e js

/-- CUT_ACK: the tender has applied the entries up to the CUT (R361). A resyncing tender is SYNCED once a later boundary's cut is acknowledged, four successive commit lists are
held and its root holds the key store (R354, R364, R384). -/
def execCutAck (epoch : Nat) (s : State) : Out :=
  .next (
    match s.twin.cuts.find? fun c => decide (c.1 = epoch) with
    | none => s
    | some cut =>
      if !s.copying then s else
      let s := { s with twin := { s.twin with
        cuts := s.twin.cuts.filter fun c => decide (epoch < c.1)
        copy := some cut.2
        journal := afterCut epoch s.twin.journal, ackEpoch := epoch } }
      let later := match s.twin.resyncFrom with
        | some r => decide (r < epoch)
        | none => false
      if s.twin.tender = .resync ∧ later = true ∧ 4 ≤ s.twin.mirrorGood ∧ s.twin.keyStoreSent then
        let s := { s with twin := { s.twin with tender := .synced } }
        s.raise 0x0702 sevInfo s.actDie (leBytes 8 (twinStatus s))
      else s)

/-- CUT_LAG_TIMEOUT: a cut is not acknowledged by the boundary TWIN.LAG_EPOCHS after it (R354). -/
def execCutLagTimeout (s : State) : Out :=
  .next (
    if s.copying ∧ (s.twin.cuts.any fun c => decide (c.1 + s.cfgAt fLag ≤ s.epoch)) = true then s.loseTender false else s)

/-- Has control die `die` reported ready? -/
def State.dieIsReady (s : State) (die : Nat) : Bool := if die = dieCdA then s.boot.readyA else s.boot.readyB && !s.boot.heldB

/-- TENDER_READY: resynchronisation is to begin at the next boundary (R354). -/
def execTenderReady (s : State) : Out :=
  .next (
    if s.twin.tender = .resetting ∧ s.tok.active.isSome ∧ s.twin.resyncAt.isNone ∧ s.dieIsReady s.tenderDie then
      { s with twin := { s.twin with resyncAt := some (s.epoch + 1) } }
    else s)

/-- RESYNC_START (R378). -/
def execResyncStart (s : State) : Out :=
  .next (
    let due := match s.twin.resyncAt with
      | some e => decide (e ≤ s.epoch)
      | none => decide (s.twin.tender = .resync) && s.twin.resyncFrom.isNone
    if s.attended ∧ (s.twin.tender = .resetting ∨ s.twin.tender = .resync) ∧ due = true then s.startResync else s)

/-- COMMIT_LIST_READ: the tender reads a hub's previous list (R364). -/
def execCommitListRead (hub : Nat) (ok : Bool) (s : State) : Out :=
  .next (
    let begun := match s.twin.resyncFrom with
      | some r => decide (r < s.epoch)
      | none => false
    if !s.copying ∨ 1 < hub ∨ s.hubGone hub ∨ !begun ∨ Tab.get false s.twin.readThis hub then s
    else
      let s := { s with twin := { s.twin with readThis := Tab.set false s.twin.readThis hub true } }
      if !ok then s.missList
      else
        let t := s.twin
        let t := if hub = 0 then { t with mirror0 := lastN 4 (t.mirror0 ++ [s.mem.prev0]) }
          else { t with mirror1 := lastN 4 (t.mirror1 ++ [s.mem.prev1]) }
        let other := 1 - hub
        let both := s.hubGone other || Tab.get false t.readThis other
        { s with twin := { t with mirrorGood := if both then min 4 (t.mirrorGood + 1) else t.mirrorGood } })

/-- TENDER_LINK_RETRAIN: tried where the epoch number is a multiple of 256 (R354). -/
def execTenderLinkRetrain (ok : Bool) (s : State) : Out :=
  .next (
    if s.epoch % 256 ≠ 0 ∨ !Tab.get false s.tok.linkDown 8 ∨ !s.attended ∨ !ok then s
    else
      let s := { s with tok := { s.tok with linkDown := Tab.set false s.tok.linkDown 8 false } }
      if s.twin.tender = .absent ∧ !s.dieGone s.tenderDie then s.restartPolicy false else s)

/-! ## Failure and claim (R367 to R370) -/

/-- FAIL_NOTICE: from the tender it makes the tender unsynchronised; one that the active die has sent (R368) is, at the
tender, cause SELF_FAULT. -/
def execFailNotice (fromTender : Bool) (s : State) : Out :=
  .next (
    if Tab.get false s.tok.linkDown 8 then s
    else if fromTender then (if s.copying then s.loseTender false else s)
    else if s.twin.failSent then ({ s with twin := { s.twin with failSent := false } }).judgeLost 1
    else s)

/-- ACTIVE_SELF_FAULT: the active die judges itself failed and stops (R368). -/
def execActiveSelfFault (s : State) : Out := .next (s.activeStops true true)

/-- SILENT_DETECT: two successive boundaries with neither a CUT nor a TOKEN_RENEW at any obeying die (R367).
[DEDUCED, log 54: unsafe] -/
def execSilentDetect (s : State) : Out :=
  .next (
    let quiet := s.odsAlive.all fun od => match (s.ob od).renewedAt with
      | some e => decide (e + 2 ≤ s.odEpoch od)
      | none => true
    if quiet ∧ s.twin.ackEpoch + 2 ≤ s.epoch ∧ !s.handingOver then s.judgeLost 2 else s)

/-- TOKEN_EXPIRY_INDICATION: the port die forwards an obeying die's indication that the token has run out (R28, R367). -/
def execTokenExpiryIndication (s : State) : Out :=
  .next (
    if s.tok.expired = [] then s
    else
      let s := { s with tok := { s.tok with expired := [] } }
      if s.handingOver then s else s.judgeLost 3)

/-- CLAIM_TIMEOUT: 8 boundaries after detection an obeying die that is not lost has not granted; the pool has failed.
The notices go out only where the port die has granted (R370). [DEDUCED, log 55: unsafe] -/
def execClaimTimeout (s : State) : Out :=
  .next (match s.twin.detectedAt with
  | some d =>
    if s.epoch < d + 8 ∨ s.tok.claimant.isNone ∨ s.allGranted s.tok.claimGrants ∨ s.tok.fatal.isSome then s
    else if odPd ∈ s.tok.claimGrants then s.poolFatal 2
    else ({ s with tok := { s.tok with fatal := some 2 } }).raise 0x0706 sevFatal s.tenderDie (leBytes 1 2)
  | none => s)

/-! ## Planned handover and die resets (R112, R113, R375, R376) -/

/-- Is paired check on, or on its way? -/
def State.pairedBusy (s : State) : Bool := decide (s.repro.paired ≠ .off)

/-- TWIN_SWITCH (R375). -/
def execTwinSwitch (c : RslCmd) (s : State) : Out :=
  .next (s.rslGate c 0x010A false fun s =>
    let t := s.twin.tender
    if s.pairedBusy ∨ t = .absent ∨ t = .held then s.rslAnswer c 0x010A cUnsupported 0 []
    else if t ≠ .synced ∨ s.boot.dieResetOf.isSome ∨ s.twin.handoverAt.isSome then
      s.rslAnswer c 0x010A cBusy (s.epoch + 256) []
    else { s with twin := { s.twin with
      handoverAt := some (s.epoch + 1), handoverOwed := [.rsl c], handoverReset := false } })

/-- A handover or die reset that cannot be carried out ends. -/
def State.dropHandover (s : State) : State :=
  let a := s.twin.handoverOwed
  let b := if s.twin.handoverReset then s.boot.dieResetOwed else []
  let s := { s with
    twin := { s.twin with handoverAt := none, handoverOwed := [], handoverReset := false }
    boot := if s.twin.handoverReset then { s.boot with dieResetOf := none, dieResetOwed := [] } else s.boot }
  let fin := fun (s : State) (cmd : Nat) (v : Owed) => match v with
    | .rsl c => s.rslAnswer c cmd cBusy (s.epoch + 256) []
    | _ => s
  b.foldl (fun s v => fin s 0x0101 v) (a.foldl (fun s v => fin s 0x010A v) s)

/-- HANDOVER: the open transactions finished, responses are journaled and the active die gives its role up (R376). -/
def execHandover (s : State) : Out :=
  .next (
    if !s.handingOver ∨ !s.attended then s
    else if s.twin.tender ≠ .synced then s.dropHandover
    else if s.openWork then s
    else
      let s := s.journalHeld
      let s := { s with tok := { s.tok with silent := true }, twin := { s.twin with paused := true, released := [] } }
      s.sendToks .release (s.tok.active.getD dieCdA) s.odsAlive)

/-- DIE_RESET (R112). [DEDUCED, log 56: unsafe] -/
def execDieReset (c : RslCmd) (die : Nat) (s : State) : Out :=
  .next (s.rslGate c 0x0101 false fun s =>
    let fin := fun (s : State) code x => s.rslAnswer c 0x0101 code x []
    let t := s.twin.tender
    if 5 ≤ die then fin s cMalformed 0
    else if 2 ≤ die ∨ s.pairedBusy then fin s cUnsupported 0
    else if s.boot.dieResetOf.isSome then fin s cBusy (s.epoch + 256)
    else
      let run := { s with boot := { s.boot with dieResetOf := some die, dieResetOwed := [.rsl c] } }
      if s.tok.active = some die then
        if t = .absent ∨ t = .held then fin s cUnsupported 0
        else if t ≠ .synced ∨ s.twin.handoverAt.isSome then fin s cBusy (s.epoch + 256)
        else { run with twin := { run.twin with
          handoverAt := some (s.epoch + 1), handoverOwed := [], handoverReset := true } }
      else if t = .absent then run.resetDie die
      else
        let r := run.dropCopy.resetDie die
        { r with twin := { r.twin with tender := .resetting } })

/-- Completes the DIE_RESET that waits. -/
def State.endDieReset (s : State) (code : Nat) : State :=
  let owed := s.boot.dieResetOwed
  let s := { s with boot := { s.boot with dieResetOf := none, dieResetOwed := [] } }
  owed.foldl (fun s v => match v with
    | .rsl c => s.rslAnswer c 0x0101 code 0 []
    | _ => s) s

/-- DIE_READY: the reset die has read and checked its sections, and is ready or held (R113, R354). -/
def execDieReady (die : Nat) (checksPass : Bool) (s : State) : Out :=
  .next (
    if 1 < die ∨ s.tok.active.isNone ∨ s.tok.active = some die ∨ s.twin.tender ≠ .resetting ∨ s.dieIsReady die then s
    else if checksPass then
      let s := { s with boot := if die = dieCdA then { s.boot with readyA := true }
        else { s.boot with readyB := true, heldB := false } }
      if s.boot.dieResetOf = some die then s.endDieReset cOk else s
    else
      let s := { s with twin := { s.twin with tender := .held } }
      let s := s.raise 0x0202 sevWarning s.actDie (leBytes 1 die ++ leBytes 1 (b2n s.boot.runB))
      if s.boot.dieResetOf = some die then s.endDieReset cUnsupported else s)

/-! ## Uncorrectable SRAM errors (R344) -/

/-- A port's replay or ingress array: the flit's messages are lost and the port enters FAULT. -/
def State.portArrayLost (s : State) (n : Nat) : State :=
  let p := s.port n
  let lost := match p.store with
    | f :: _ => f.flit.msgs.length
    | [] => 0
  let gone := (p.store.take 1).map fun (f : Stored) => f.flit
  let s := (s.setPort n { p.quiet with st := .fault, store := p.store.drop 1 }).leaveFlight n gone
  s.raisePortFault n lost

/-- The counts of a hub's pages restart at 0. -/
def State.clearCounts (s : State) (hub : Nat) : State :=
  { s with mem := { s.mem with counts := s.mem.counts.filter fun e => decide (hubOf e.1 ≠ hub) } }

/-- SRAM_UNCORRECTABLE. Arrays of a control die: 0 its tables and trackers, 1 the stockpot store and tags (index: buffer
x 2^33 + block), 2 its root's key store. Of a hub: 0 the page-valid bitmap, 1 the open-page table (index: page), 2 the counter cache, 3 the key
table. Of the port die: 0 a port's replay or ingress array (index: port). [DESIGN CHOICE, log 58: unsafe] -/
def execSramUncorrectable (die array index : Nat) (s : State) : Out :=
  .next (
    if die ≤ 1 then
      if s.tok.active = some die then
        if array = 0 then s.activeStops true true
        else if array ≠ 1 then s
        else
          let b := index / 2 ^ 33
          let k := index % 2 ^ 33
          let x := s.buf b
          let y := (s.blk b k).st
          if x.st = .opened ∧ x.home k = .store ∧ k < x.blocks ∧ (y = .empty ∨ y = .filling) then s.failBlock b k cPoison
          else s
      else if s.copying then s.loseTender false
      else s
    else if die ≤ 3 then
      if array = 1 then { s with mem := { s.mem with openPages := Tab.set [] s.mem.openPages index [] } }
      else if array = 2 then s.clearCounts (die - 2)
      else s
    else if array = 0 ∧ index < 66 then s.portArrayLost index
    else s)

end Sys2Proof.Machine
end

