-- ==== Sys2Proof/Machine/BootOps.lean ====
section
/-! DEFINITION. Images and the start-up sequence's shared operations (R96 to R107, R119, R120, R198). -/

set_option Elab.async false

namespace Sys2Proof.Machine
open Sys2Proof

/-! ## The checks of an image (R100 to R102, R106) -/

def secRot : Nat := 1
def secSvc : Nat := 2
def secHub : Nat := 3
def secPort : Nat := 4
def secTrain : Nat := 5
def secConfig : Nat := 6

/-- Do two sections overlap? -/
def secOverlap (a b : Section) : Bool := decide (a.offset < b.offset + b.length ∧ b.offset < a.offset + a.length)

/-- Does no section overlap one behind it? -/
def secsApart : List Section → Bool
  | [] => true
  | x :: xs => xs.all (fun y => !secOverlap x y) && secsApart xs

/-- A section table entry's form (R101). -/
def secForm (x : Section) : Bool :=
  decide (1 ≤ x.typ ∧ x.typ ≤ 6 ∧ x.resv = 0 ∧ x.resv2 = 0 ∧ x.offset % 4096 = 0 ∧ 4096 ≤ x.offset ∧ 0 < x.length)

/-- The six section types, each exactly once. -/
def secTypes (xs : List Section) : Bool :=
  decide (xs.length = 6) && [1, 2, 3, 4, 5, 6].all fun t => xs.any fun x => decide (x.typ = t)

/-- The end of the last section. -/
def sectionsEnd (xs : List Section) : Nat := xs.foldl (fun e x => max e (x.offset + x.length)) 0

/-- The fields of R100 that have a fixed value or a reserved part, and the unused rest of the section table (R101). -/
def headerFields (f : List Byte) : Bool :=
  decide (imageField f 0 4 = 0x43594D4D ∧ imageField f 4 2 = 1 ∧ imageField f 6 2 = 0x960 ∧ imageField f 20 2 = 6 ∧
    imageField f 22 2 < 2 ∧ imageField f 456 640 = 0 ∧ imageField f 1096 856 = 0 ∧
    imageField f 16 4 ≤ 67108864 ∧ imageField f 16 4 = sectionsEnd (imageSections f))

/-- Is the image signed by Uruiler's image key: SIGNER_KEY_DIGEST is the fused digest, which is that of the key, and the
signature over bytes 0 to 1,951 verifies under it (R100, R102)? [DESIGN CHOICE, log 163: unsafe] -/
def signedImage (x : Sec) (f : List Byte) : Bool :=
  let key := leBytes 96 x.signerKey
  decide (imageField f 24 48 = x.signerDigest ∧ ofLe (sha384 key) = x.signerDigest) &&
    verifies key (flashRead f 0 1952) (flashRead f 1952 96)

/-- The header checks of R102, in a life-cycle state. [DEDUCED, log 116: unsafe] -/
def headerOk (x : Sec) (lc : Nat) (f : List Byte) : Bool :=
  let xs := imageSections f
  headerFields f && decide (x.minSec ≤ imageSecVersion f ∧ (imageField f 22 2 = 0 ∨ lc = 0)) && secTypes xs &&
    xs.all secForm && secsApart xs && signedImage x f

/-- Does section `t` match its digest when read? -/
def digestOk (f : List Byte) (t : Nat) : Bool :=
  match sectionOf f t with
  | some x => decide (sha384 (flashRead f x.offset x.length) = x.digest)
  | none => false

/-- A configuration record (R106). -/
structure CfgRec where
  fieldId : Nat
  length : Nat
  resv : Nat
  value : Nat
  deriving DecidableEq, Repr

/-- The record that 16 bytes spell. -/
def cfgRec (b : List Byte) : CfgRec :=
  ⟨ofLe (b.take 4), ofLe ((b.drop 4).take 1), ofLe ((b.drop 5).take 3), ofLe ((b.drop 8).take 8)⟩

/-- `n` records from the bytes. -/
def cfgRecs : Nat → List Byte → List CfgRec
  | 0, _ => []
  | n + 1, b => cfgRec (b.take 16) :: cfgRecs n (b.drop 16)

/-- The records of the CONFIG section. -/
def imageConfig (f : List Byte) : List CfgRec :=
  match sectionOf f secConfig with
  | some x => cfgRecs (x.length / 16) (flashRead f x.offset x.length)
  | none => []

/-- The value a list of CONFIG records gives a field, or its value at reset. -/
def recValue (rs : List CfgRec) (id : Nat) : Nat :=
  match rs.find? fun r => decide (r.fieldId = id) with
  | some r => r.value
  | none => match fieldOf id with
    | some f => f.reset
    | none => 0

/-- One record by itself (R106). -/
def recOk (r : CfgRec) : Bool :=
  match fieldOf r.fieldId with
  | some f => decide (r.length = f.len ∧ r.resv = 0 ∧ r.value < 256 ^ f.len) && f.inRange r.value
  | none => false

/-- Records in strictly ascending FIELD_ID order. -/
def recsRise : List CfgRec → Bool
  | [] => true
  | r :: rs => (match rs with
      | q :: _ => decide (r.fieldId < q.fieldId)
      | [] => true) && recsRise rs

/-- No entry of the list stands in it twice. -/
def allDiffer : List Nat → Bool
  | [] => true
  | x :: xs => !xs.contains x && allDiffer xs

/-- The member IDs a set needs: one for each index below SET.SIZE, no two alike (R198). -/
def membersOk (rs : List CfgRec) : Bool :=
  let n := recValue rs fSetSize
  let ids := (List.range n).map fun i => recValue rs (fMemberId + i)
  decide (n ≤ 1) || (ids.all (fun x => decide (x ≠ 0)) && allDiffer ids)

/-- What the fields of one port must meet together: the class credits fit the ingress buffer, and the throttle's low mark
lies 64 flits below its high mark. -/
def portOk (rs : List CfgRec) (p : Nat) : Bool :=
  decide (sumOf ([0, 1, 2, 3].map fun c => recValue rs (fCrd c + p)) ≤ 6144 ∧
    recValue rs (fThrottleLo + p) + 64 ≤ recValue rs (fThrottleHi + p))

/-- What the fields must meet together. -/
def crossOk (rs : List CfgRec) : Bool :=
  (List.range 64).all (portOk rs) &&
    decide (sumOf ((rs.filter fun r => decide (r.fieldId / 4096 = fStoreReserve / 4096)).map (·.value)) ≤ 160 ∧
      recValue rs fColdLines < recValue rs fHotLines ∧ recValue rs fNakBase ≤ recValue rs fNakMax) && membersOk rs

/-- The field check of R106. -/
def configOk (f : List Byte) : Bool :=
  let rs := imageConfig f
  (match sectionOf f secConfig with
    | some x => decide (x.length % 16 = 0 ∧ x.length ≤ 1048576)
    | none => false) && rs.all recOk && recsRise rs && crossOk rs

/-- Every check of R102 on the sections as read. -/
def sectionsOk (f : List Byte) : Bool := [1, 2, 3, 4, 5, 6].all (digestOk f) && configOk f

/-! ## Image choice (R103 to R105) -/

/-- Is this device's image valid so far: its header passes and no later check of it has failed in this start? -/
def State.candidate (s : State) (b : Bool) : Bool :=
  !(if b then s.boot.bFailed else s.boot.aFailed) && headerOk s.sec s.boot.lc (s.flash b)

/-- The higher SEC_VERSION, then the higher IMAGE_VERSION, then image A: is image B chosen, given which are valid?
[DEDUCED, log 118: safe] -/
def chooseB (a b : List Byte) (okA okB : Bool) : Option Bool :=
  if okA && okB then
    some (decide (imageSecVersion a < imageSecVersion b ∨
      (imageSecVersion a = imageSecVersion b ∧ imageVersion a < imageVersion b)))
  else if okA then some false
  else if okB then some true
  else none

/-- The control dies that take part in the start: those not lost and not held. -/
def State.bootDies (s : State) : List Nat :=
  [dieCdA, dieCdB].filter fun d => !s.dieDead d && !(decide (d = dieCdB) && s.boot.heldB)

def State.fallbackEv (s : State) (die : Nat) : State :=
  s.raise 0x0202 sevWarning s.actDie (leBytes 1 die ++ leBytes 1 (b2n s.boot.runB))

/-- CD-B stays in reset: it could not agree on CD-A's choice (R103). -/
def State.holdB (s : State) : State :=
  ({ s with boot := { s.boot with heldB := true }, twin := { s.twin with tender := .held } }).fallbackEv dieCdB

/-- Neither image is valid: the boot ROM of CD-A, or of CD-B when CD-A does not run, reports ready (R105).
[DEDUCED, log 120: unsafe] -/
def State.enterRecovery (s : State) : State :=
  let b := s.dieDead dieCdA
  { s with boot := { s.boot with
      recovery := true, stage := 15, readyA := !b, readyB := b, readyEpochB := s.epoch } }

/-- A check of the chosen image fails: it is invalid for the rest of the start, and both dies return to the image choice
(R104). [DEDUCED, log 117: unsafe] -/
def State.imageFails (s : State) : State :=
  let b := s.boot.runB
  { s with boot := { s.boot with
      aFailed := s.boot.aFailed || !b, bFailed := s.boot.bFailed || b
      aOk := s.boot.aOk && b, bOk := s.boot.bOk && !b
      chosen := false, fwA := false, fwB := false, readyA := false, readyB := false, stage := 2 } }

/-- The active die gives the token up everywhere (R31, R104). The token stage is to end again, and until then no event is
sent (R97). -/
def State.releaseAllTokens (s : State) : State :=
  let d := s.actDie
  let s := { s with
    tok := { s.tok with
      active := none, granted := [], missed := 0, claimant := none, claimGrants := []
      sent := s.tok.sent.filter fun m => decide (m.die ≠ d) }
    boot := { s.boot with tokenEpoch := none }
    evs := { s.evs with started := false } }
  s.sendToks .release d s.odsAlive

/-! ## The load stage (R96, R156, R387) -/

/-- The entries a CONFIG section gives a field with an index. -/
def configEntries (f : List Byte) (id base : Nat) : List (Nat × BitVec 32) :=
  (((imageConfig f).filter fun r => decide (r.fieldId / 4096 = id / 4096 ∧ r.value ≠ 0)).map fun (r : CfgRec) =>
    (base + r.fieldId % 4096, BitVec.ofNat 32 r.value))

/-- A fresh key for every tenant, and PKEY. [DEDUCED, log 121: safe] -/
def State.loadTenantKeys (s : State) : State :=
  let gens := (List.range 1024).map fun t => (t, (Tab.get 0 s.mem.keyGen t + 1) % 65536)
  { s with
    mem := { s.mem with
      keyGen := (gens.filter fun e => decide (e.2 ≠ 0)) ++ s.mem.keyGen.filter (fun e => decide (1024 ≤ e.1))
      keys := (List.range 1024).map (fun t => (t, some (keyPair (Config.drawn (s.fresh + t))))) ++
        s.mem.keys.filter fun e => decide (1024 ≤ e.1)
      pkey := some (keyPair (Config.drawn (s.fresh + 1024))) }
    fresh := s.fresh + 1025 }

/-- The load stage ends: the configuration and the tables are at the obeying dies, and the keys are loaded. -/
def State.loadModule (s : State) : State :=
  let im := s.runImage
  let s := { s with
    fab := { s.fab with routes0 := configEntries im fRouteHost 0 ++ configEntries im fRouteMember 4096 }
    boot := { s.boot with loaded := true, stage := 6 } }
  let s := s.loadTenantKeys
  if s.setMismatch then s.raise 0x0403 sevWarning s.actDie (leBytes 2 s.fabricId ++ leBytes 4 s.pool.setGen) else s

/-! ## Calibration and the start-up wipe (R98, R120) -/

/-- Have all twelve stacks been calibrated, or failed? Then the start-up wipe begins. -/
def State.calSettled (s : State) : State :=
  if (List.range 12).all fun n => Tab.get false s.boot.calDone n || decide ((s.stack n).st = .failed) then
    { s with boot := { s.boot with stage := 7, wipeRange := 0, wipeStart := some s.epoch } }
  else s

/-- The pages of range `r` of the start-up wipe: pantry, user pages, spare pages. -/
def wipeRangeOf (r : Nat) : Nat × Nat :=
  if r = 0 then (spareEnd, allPages - spareEnd)
  else if r = 1 then (0, userPages)
  else (userPages, spareEnd - userPages)

end Sys2Proof.Machine
end

