-- ==== Sys2Proof/Machine/Startup.lean ====
section
/-! DEFINITION. The meanings of the start-up, configuration and life-cycle commands (R60, R78, R96 to R121). -/

set_option Elab.async false

namespace Sys2Proof.Machine
open Sys2Proof

/-- POR_RELEASE: the internal power-on reset releases after the rails, and the straps are sampled (R60, R96). -/
def execPorRelease (oscDly setIndex : BitVec 3) (s : State) : Out :=
  .next (
    let p := s.power
    if !p.inputOn ∨ p.softStart ∨ p.inReset ∨ s.boot.por ∨ p.railGroup ≠ 4 ∨ !s.railsSettled then s
    else { s with
      power := { p with cables := p.cables.map fun (e : Nat × Cable) => (e.1, e.2.identified) }
      boot := { s.boot with por := true, stage := 1, oscDly := oscDly, setIndex := setIndex }
      clk := { s.clk with oscDelay := true } })

/-- Does a crystal pass: it oscillates, and its count over 4,096 cycles lies within 6 % of nominal (R78)? -/
def crystalPass (amp : Bool) (count nominal : Nat) : Bool :=
  amp && decide (94 * nominal ≤ 100 * count ∧ 100 * count ≤ 106 * nominal)

/-- OSC_START_DELAY_END: both crystals are judged; with neither, a further delay is timed (R78).
[DEDUCED, log 41: unsafe] -/
def execOscStartDelayEnd (xaAmp : Bool) (xaCount : Nat) (xbAmp : Bool) (xbCount : Nat) (s : State) : Out :=
  .next (
    let a := crystalPass xaAmp xaCount 512
    let b := crystalPass xbAmp xbCount 3200
    if !s.clk.oscDelay ∨ !s.boot.por ∨ (!a && !b) = true then s
    else
      let s := { s with
        clk := { s.clk with
          running := true, oscDelay := false, xaFlag := !a, xbFlag := !b, xaRefOnXb := !a, xbRefOnXa := !b, now := 0 }
        boot := { s.boot with stage := 2 } }
      if a && b then s else s.raise 0x0109 sevWarning s.actDie (leBytes 1 (if a then 2 else 1)))

/-- IMAGE_CHOICE_DONE: the choice of R103; `bReadsA` and `bReadsB` tell which headers are valid for CD-B after its second
reading. With no valid image, recovery (R105). -/
def execImageChoiceDone (bReadsA bReadsB : Bool) (s : State) : Out :=
  .next (
    if s.boot.stage ≠ 2 ∨ s.boot.chosen ∨ s.boot.recovery then s
    else
      let okA := s.candidate false
      let okB := s.candidate true
      let mine := s.candidate false && bReadsA
      let minb := s.candidate true && bReadsB
      let onlyB := s.dieDead dieCdA
      let pick := if onlyB then chooseB s.boot.flashA s.boot.flashB mine minb
        else chooseB s.boot.flashA s.boot.flashB okA okB
      match pick with
      | none => s.enterRecovery
      | some b =>
        let again := s.boot.aFailed || s.boot.bFailed
        let s := { s with boot := { s.boot with
          chosen := true, runB := b, aOk := okA, bOk := okB
          firstB := if again then s.boot.firstB else b
          fallback := again && decide (s.boot.firstB ≠ b) } }
        let s := if s.boot.fallback then s.fallbackEv s.actDie else s
        let agreed := if b then minb else mine
        if onlyB || agreed || s.boot.heldB || s.dieDead dieCdB then s else s.holdB)

/-- DIE_FIRMWARE_DONE: CD_ROT and CD_SVC are read and checked (R96, R104). -/
def execDieFirmwareDone (die : Nat) (s : State) : Out :=
  .next (
    let done := if die = dieCdA then s.boot.fwA else s.boot.fwB
    if s.boot.stage ≠ 2 ∨ !s.boot.chosen ∨ die ∉ s.bootDies ∨ done = true then s
    else if !digestOk s.runImage secRot ∨ !digestOk s.runImage secSvc then s.imageFails
    else
      let s := { s with boot := if die = dieCdA then { s.boot with fwA := true } else { s.boot with fwB := true } }
      if s.bootDies.all fun d => if d = dieCdA then s.boot.fwA else s.boot.fwB then
        { s with boot := { s.boot with stage := 3 } }
      else s)

/-- CONFIG_CHECK_DONE: CONFIG is read and every field checked; the die reports ready (R96, R104, R106, R108).
[DEDUCED, log 119: unsafe] -/
def execConfigCheckDone (die : Nat) (s : State) : Out :=
  .next (
    let done := if die = dieCdA then s.boot.readyA else s.boot.readyB
    if (s.boot.stage ≠ 3 ∧ s.boot.stage ≠ 4) ∨ die ∉ s.bootDies ∨ done = true then s
    else if !digestOk s.runImage secConfig ∨ !configOk s.runImage then s.imageFails
    else
      let vals : Tab (Option Nat) := (imageConfig s.runImage).map fun (r : CfgRec) => (r.fieldId, some r.value)
      let s := { s with
        cfg := { s.cfg with vals := vals }
        boot := if die = dieCdA then { s.boot with readyA := true }
          else { s.boot with readyB := true, readyEpochB := s.epoch } }
      if s.bootDies.all fun d => if d = dieCdA then s.boot.readyA else s.boot.readyB then
        { s with boot := { s.boot with stage := 4 } }
      else s)

/-- LOAD_STAGE_DONE: HD_MICRO, PD_MICRO and STK_TRAIN are checked and streamed, the configuration is applied and the key
store loaded; on a failed digest the active die releases the token (R96, R104, R119). -/
def execLoadStageDone (s : State) : Out :=
  .next (
    if s.boot.stage ≠ 5 ∨ s.tok.active.isNone then s
    else if !digestOk s.runImage secHub ∨ !digestOk s.runImage secPort ∨ !digestOk s.runImage secTrain then
      s.releaseAllTokens.imageFails
    else s.loadModule)

/-- STACK_CAL_DONE: a stack that fails is handled as a failed stack, and the start goes on (R97, R98).
[DEDUCED, log 122: unsafe] -/
def execStackCalDone (stack : Nat) (pass : Bool) (s : State) : Out :=
  .next (
    if s.boot.stage ≠ 6 ∨ 11 < stack ∨ Tab.get false s.boot.calDone stack then s
    else
      let s := { s with boot := { s.boot with calDone := Tab.set false s.boot.calDone stack true } }
      let s := if pass ∨ (s.stack stack).st = .failed then s
        else (s.raise 0x0203 sevWarning s.actDie (leBytes 1 stack)).partFailed [stack]
      s.calSettled)

/-- WIPE_RANGE_DONE: the next range of the start-up wipe is written; with the user pages the pool is ready (R97, R120). -/
def execWipeRangeDone (s : State) : Out :=
  .next (
    if s.boot.stage < 7 ∨ s.boot.wipeStart.isNone ∨ 2 < s.boot.wipeRange ∨ s.boot.stage = 15 then s
    else
      let r := s.boot.wipeRange
      let s := s.overwritePages (wipeRangeOf r).1 (wipeRangeOf r).2
      let s := { s with boot := { s.boot with wipeRange := r + 1 } }
      if r = 1 then
        let s := { s with boot := { s.boot with stage := 8, poolReady := some s.epoch } }
        s.raise 0x0204 sevInfo s.actDie (leBytes 4 (bootStatus s))
      else s)

/-! ## Service-link commands (R99, R110, R111, R117, R118) -/

/-- BOOT_STATUS. -/
def execBootStatus (c : RslCmd) (s : State) : Out :=
  .next (s.rslGate c 0x0104 false fun s => s.rslAnswer c 0x0104 cOk 0 (leBytes 4 (bootStatus s)))

/-- LC_ADVANCE (R117, R118). -/
def execLcAdvance (c : RslCmd) (target : Nat) (s : State) : Out :=
  .next (s.rslGate c 0x0106 false fun s =>
    if target ≠ 2 ∧ target ≠ 3 then s.rslAnswer c 0x0106 cMalformed 0 []
    else if s.boot.lc = 0 ∨ target ≤ s.boot.lc then s.rslAnswer c 0x0106 cUnsupported 0 []
    else if s.lcRunning then s.rslAnswer c 0x0106 cBusy (s.epoch + 256) []
    else
      let s := { s with boot := { s.boot with lcTarget := some target, lcOwed := [Via.rsl c] } }
      s.withdrawAll.settleLc)

/-- PROVISION (R117, R381, R385): CD-A's root draws the identity seed and the sealing secret, both roots fuse them, debug is
locked, and a module reset follows. -/
def execProvision (c : RslCmd) (tokenOk : Bool) (s : State) : Out :=
  .next (s.rslGate c 0x0107 false fun s =>
    if s.boot.lc ≠ 0 then s.rslAnswer c 0x0107 cUnsupported 0 []
    else if !tokenOk then s.rslAnswer c 0x0107 cRights 0 []
    else
      let (s, seed) := s.draw
      let (s, secret) := s.draw
      let s := { s with
        sec := { s.sec with
          identity := true, dbgLock := true, idSeed := seed % 2 ^ 384, sealSecret := secret % 2 ^ 384 }
        boot := { s.boot with lc := 1, resetAt := some s.epoch, resetCause := 7 } }
      s.rslAnswer c 0x0107 cOk 0 [])

/-- CFG_WRITE (R110, R111): an accepted value waits in its shadow for the next boundary, and so does the completion. -/
def execCfgWrite (c : RslCmd) (fieldId value : Nat) (s : State) : Out :=
  .next (s.rslGate c 0x0110 false fun s =>
    match fieldOf fieldId with
    | none => s.rslAnswer c 0x0110 cMalformed 0 []
    | some f =>
      if 256 ^ f.len ≤ value then s.rslAnswer c 0x0110 cMalformed 0 []
      else if !f.rw then s.rslAnswer c 0x0110 cLocked 0 []
      else if !f.inRange value then s.rslAnswer c 0x0110 cMalformed 0 []
      else ({ s with cfg := { s.cfg with
          shadow := Tab.set none s.cfg.shadow fieldId (some value)
          held := s.cfg.held ++ [(Via.rsl c, s.epoch + 1)] } }).logChange 0x000D fieldId 32 none)

/-- CFG_READ (R111): the current value, the shadow and the PENDING byte. -/
def execCfgRead (c : RslCmd) (fieldId : Nat) (s : State) : Out :=
  .next (s.rslGate c 0x0111 false fun s =>
    match fieldOf fieldId with
    | none => s.rslAnswer c 0x0111 cMalformed 0 []
    | some _ =>
      let now := s.cfgAt fieldId
      let sh := Tab.get none s.cfg.shadow fieldId
      s.rslAnswer c 0x0111 cOk 0 (leBytes 8 now ++ leBytes 8 (sh.getD now) ++ leBytes 1 (b2n sh.isSome)))

end Sys2Proof.Machine
end

