-- ==== Sys2Proof/Machine/Service.lean ====
section
/-! DEFINITION. The meanings of the service link's telemetry, event and frame commands (R412 to R427). -/

set_option Elab.async false

namespace Sys2Proof.Machine
open Sys2Proof

/-! ## STATUS_READ (R420) -/

/-- Size in bytes and number of a status word; none where WORD is undefined. [DEDUCED, log 125: unsafe] -/
def statusShape (word : Nat) : Option (Nat × Nat) :=
  match word with
  | 0x01 => some (4, 1)
  | 0x02 => some (4, 1)
  | 0x03 => some (4, 1)
  | 0x04 => some (4, 52)
  | 0x05 => some (4, 64)
  | 0x06 => some (8, 1)
  | 0x07 => some (8, 4096)
  | 0x08 => some (8, 1)
  | 0x09 => some (8, 1)
  | 0x0A => some (8, 12)
  | 0x0B => some (4, 2)
  | _ => none

/-- Status word `word` of index `i`. -/
def statusWord (s : State) (word i : Nat) : Nat :=
  match word with
  | 0x01 => bootStatus s
  | 0x02 => strapLatch s
  | 0x03 => timeStatus s
  | 0x04 => monWord (s.mon i)
  | 0x05 => portStatus (s.port i)
  | 0x06 => routeStatus s
  | 0x07 => gateWindow (s.port (i / 64)) (i % 64)
  | 0x08 => twinStatus s
  | 0x09 => degradeStatus s
  | 0x0A => stackStatus s i
  | 0x0B => rslStatus s i
  | _ => 0

/-- STATUS_READ. -/
def execStatusRead (c : RslCmd) (word count index : Nat) (s : State) : Out :=
  .next (s.rslGate c 0x0112 false fun s =>
    match statusShape word with
    | none => s.rslAnswer c 0x0112 cMalformed 0 []
    | some (size, n) =>
      if count = 0 ∨ n < index + count then s.rslAnswer c 0x0112 cMalformed 0 []
      else s.rslAnswer c 0x0112 cOk s.epoch
        ((List.range count).flatMap fun i => leBytes size (statusWord s word (index + i))))

/-! ## CTR_READ and OBJ_QUERY (R418, R421) -/

/-- Objects and counters per object of a counter group; none where GROUP is undefined. -/
def ctrShape (group : Nat) : Option (Nat × Nat) :=
  match group with
  | 1 => some (64, 33)
  | 2 => some (16384, 4)
  | 3 => some (4096, 8)
  | 4 => some (2048, 5)
  | 5 => some (4096, 6)
  | 6 => some (1024, 10)
  | 7 => some (4096, 4)
  | 8 => some (384, 3)
  | 9 => some (12, 4)
  | 10 => some (1, 32)
  | 11 => some (2, 22)
  | _ => none

/-- The tenant to which an object of a tenant-scoped group belongs, if any. -/
def State.ctrTenant (s : State) (group i : Nat) : Option Nat :=
  match group with
  | 2 => s.tenantOf (i / 4)
  | 3 => s.tenantOf i
  | 4 => if (s.domain i).st = .free then none else some (s.domain i).tenant
  | 5 => if (s.ring i).st = .free then none else some (s.ring i).tenant
  | 6 => some i
  | 7 => if (s.region i).st = .free then none else some (s.region i).tenant
  | _ => none

/-- Does every object read belong to the sender's tenant? -/
def State.ctrMine (s : State) (host group index count : Nat) : Bool :=
  match s.tenantOf host with
  | none => false
  | some t => (List.range count).all fun i => decide (s.ctrTenant group (index + i) = some t)

/-- CTR_READ under R418 and R421. -/
def ctrReadAct (v : Via) (group count index dst : Nat) (s : State) : State :=
  let fin := fun (s : State) c n b => s.dumpCpl v 0x88 c 0 n b
  match ctrShape group with
  | none => fin s cMalformed 0 []
  | some (n, k) =>
    if count = 0 ∨ 256 < count ∨ n < index + count ∨ 65536 < count * k * 8 then fin s cMalformed 0 []
    else if !viaOperator v && !s.ctrMine (s.viaHost v) group index count then fin s cRights 0 []
    else
      let bytes := (List.range count).flatMap fun i =>
        (List.range k).flatMap fun j => leBytes 8 (s.ctr group (index + i) j)
      s.deliver v dst bytes fin

/-- CTR_READ. -/
def execCtrRead (v : Via) (group count index dst : Nat) (s : State) : Out :=
  let no := fun (s : State) c x => s.dumpCpl v 0x88 c 0 x []
  .next (s.classThree v 0x88 [1, 5] 0xFFFF00FF#32 false no fun s => ctrReadAct v group count index dst s)

/-- The record that OBJ_QUERY writes, and the tenant it belongs to: extent entry, domain record and member list, fault
record, ring entry; none where OBJ or INDEX is undefined. -/
def State.objRecord (s : State) (obj i : Nat) : Option (List Byte × Option Nat) :=
  match obj with
  | 1 => if 16383 < i then none
    else some (leBytes 32 (extEntry s i), if (s.ext i).st = .free then none else some (s.ext i).tenant)
  | 2 => if 2047 < i then none
    else some (leBytes 8 (domainRecord s i) ++ memberList (s.domain i),
      if (s.domain i).st = .free then none else some (s.domain i).tenant)
  | 3 => if 16383 < i then none
    else some (leBytes 32 (faultRecord (s.frec i)), some (i / 16))
  | 4 => if 4095 < i then none
    else if (s.ring i).st = .free then some (leBytes 32 0, none)
    else some (leBytes 32 (ringEntry (s.ring i)), some (s.ring i).tenant)
  | _ => none

/-- OBJ_QUERY under R418. An extent that is FREE completes REVOKED over the fabric (R174). -/
def objQueryAct (v : Via) (obj index dst : Nat) (s : State) : State :=
  let fin := fun (s : State) c n b => s.dumpCpl v 0x89 c 0 n b
  match s.objRecord obj index with
  | none => fin s cMalformed 0 []
  | some (bytes, t) =>
    if !viaOperator v && decide (obj = 1 ∧ (s.ext index).st = .free) then fin s cRevoked 0 []
    else if !viaOperator v && (t.isNone || decide (s.tenantOf (s.viaHost v) ≠ t)) then fin s cRights 0 []
    else s.deliver v dst bytes fin

/-- OBJ_QUERY. Its fabric form of EXT_QUERY is a command of R181. -/
def execObjQuery (v : Via) (obj index dst : Nat) (s : State) : Out :=
  let no := fun (s : State) c x => s.dumpCpl v 0x89 c 0 x []
  .next (s.classThree v 0x89 [1, 5] (BitVec.allOnes 32) false no fun s =>
    if !viaOperator v && decide (obj = 1) then s.poolGuard no fun s => objQueryAct v obj index dst s
    else objQueryAct v obj index dst s)

/-! ## Events (R424, R425) -/

/-- EV_ACK: events whose EV_SEQ lies from a - 2^31 + 1 to a, modulo 2^32, leave the queue.
[DEDUCED, log 126: unsafe] -/
def execEvAck (c : RslCmd) (seq : Nat) (s : State) : Out :=
  .next (s.rslGate c 0x0114 false fun s =>
    let old := fun (v : Ev) => decide ((seq % two32 + two32 - v.seq) % two32 < 0x80000000)
    let s := { s with evs := { s.evs with queue := s.evs.queue.filter fun v => !old v } }
    s.rslAnswer c 0x0114 cOk 0 [])

/-- One code's bucket gains a token; with a SUPPRESSED count and room in the queue, EV_SUPPRESSED takes it. -/
def State.refillBucket (s : State) (code : Nat) : State :=
  let spent := Tab.get 0 s.evs.spent code
  let n := Tab.get 0 s.evs.suppressed code
  if spent = 0 then s
  else if 0 < n ∧ s.evs.queue.length < 1024 then
    let s := { s with evs := { s.evs with suppressed := Tab.set 0 s.evs.suppressed code 0 } }
    s.raise evSuppressed sevInfo diePd (leBytes 2 code ++ leBytes 4 n)
  else { s with evs := { s.evs with spent := Tab.set 0 s.evs.spent code (spent - 1) } }

/-- EV_BUCKET_REFILL: at a boundary whose epoch number is a multiple of EV.REFILL_EPOCHS (R425). -/
def execEvBucketRefill (s : State) : Out :=
  .next (
    if !s.clk.running ∨ s.epoch % s.cfgAt fEvRefill ≠ 0 then s
    else ((Tab.mapVals 0 (fun _ n => n) s.evs.spent).map (·.1)).foldl State.refillBucket s)

/-! ## Frames (R412, R414, R419) -/

/-- RSL_ECHO. -/
def execRslEcho (c : RslCmd) (echo : Nat) (s : State) : Out :=
  .next (s.rslGate c 0x0116 false fun s => s.rslAnswer c 0x0116 cOk s.epoch (leBytes 8 echo))

/-- RSL_FRAME_INVALID: link-down, and the next training makes a fresh start (R412). [DEDUCED, log 127: unsafe] -/
def execRslFrameInvalid (port frameLen : Nat) (s : State) : Out :=
  .next (
    if 1 < port ∨ !s.portUp (64 + port) ∨ (16 ≤ frameLen ∧ frameLen ≤ 65568) then s
    else
      let s := s.linkDown (64 + port) 1
      s.setPort (64 + port) { s.port (64 + port) with peerGen := 0 })

/-- RSL_COMMAND_REPEAT: a command whose CMD_TAG is open or kept (R414). -/
def execRslCommandRepeat (port tag cmd : Nat) (s : State) : Out :=
  .next (
    if 1 < port ∨ !s.boot.por then s
    else match s.tagFound tag cmd with
      | .opened => (s.bump 10 0 25 1).rslRepeat tag port .opened
      | .keptSame f => (s.bump 10 0 25 1).rslRepeat tag port (.keptSame f)
      | .replayed | .new => s)

end Sys2Proof.Machine
end

