-- ==== Sys2Proof/Machine/Attest.lean ====
section
/-! DEFINITION. The meanings of the attestation, certificate, image-update, key-store and debug commands (R381 to R394). -/

set_option Elab.async false

namespace Sys2Proof.Machine
open Sys2Proof

/-! ## Identity (R383) -/

/-- A private key of P-384 from a number: 1 to one below the group order. [DESIGN CHOICE, log 142: safe] -/
def privateKey (w : Nat) : Nat := w % (orderN - 1) + 1

/-- The private half of IDK.S (R382). -/
def signingKey (s : State) : Nat := privateKey (Config.signingKey s.sec.idSeed)

/-- The private half of IDK.E, which does not exist once the sealing secret is destroyed (R382). -/
def agreementKey (s : State) : Nat := privateKey (Config.agreementKey s.sec.sealSecret)

/-- IDK.S, the public half. -/
def idkS (s : State) : List Byte := keyBytes (publicOf (signingKey s))

/-- IDK.E, the public half. -/
def idkE (s : State) : List Byte := keyBytes (publicOf (agreementKey s))

def deviceId (s : State) : List Byte := (sha384 (idkS s)).take 16

/-- A certificate with its length before it. -/
def certEntry (i : Nat) (key : List Byte) : List Byte :=
  let c := (Config.certificate i key).take 65535
  leBytes 2 c.length ++ c

/-- The bytes that CERT_GET returns: the agreement certificate is left out once the sealing secret is destroyed. Before
PROVISION the store is empty. -/
def certBytes (s : State) : List Byte :=
  if s.sec.identity then
    certEntry 0 [] ++ certEntry 1 [] ++ certEntry 2 (idkS s) ++ (if s.sec.sealDead then [] else certEntry 3 (idkE s))
  else []

/-- A signature by IDK.S over the SHA-384 digest of a message, with a secret number from the DRBG. -/
def State.sign (s : State) (m : List Byte) : State × List Byte :=
  let (s, w) := s.draw
  (s, signWith (signingKey s) (privateKey w) m)

/-! ## The report (R390, R391) -/

/-- The tenants of TENANT_DIGEST: those with a quota or an assigned host; `t`: SCOPE_TENANT of a SCOPE 1 report. -/
def State.reportTenants (s : State) (t : Option Nat) : List Nat :=
  (List.range 1024).filter fun n => (t.isNone || decide (t = some n)) &&
    (decide (Tab.get 0 s.pool.quotas n ≠ 0) || s.pool.leases.any fun l => l.2.assigned && decide (l.2.tenant = n))

/-- The map of the hosts assigned to a tenant. -/
def State.hostMap (s : State) (t : Nat) : List Byte :=
  (List.range 512).map fun i => BitVec.ofNat 8 (sumOf ((List.range 8).map fun j =>
    if s.tenantOf (8 * i + j) = some t then 2 ^ j else 0))

def State.tenantRecord (s : State) (t : Nat) : List Byte :=
  leBytes 2 t ++ leBytes 4 (Tab.get 0 s.pool.quotas t) ++ s.hostMap t

def State.reportExts (s : State) (t : Option Nat) : List Nat :=
  (s.pool.exts.filter fun e => decide (e.2.st ≠ .free) && (t.isNone || decide (t = some e.2.tenant))).map (·.1)

/-- An extent entry with GRANT_COUNT and HOLD_COUNT zeroed, then its grants. -/
def State.extRecord (s : State) (e : Nat) : List Byte :=
  let bare := extEntry s e - s.grantCount e * 2 ^ 193 - s.holdCount e * 2 ^ 39
  leBytes 2 e ++ leBytes 32 bare ++ (s.grantees e).flatMap fun h => leBytes 2 h ++ leBytes 1 (s.grant e h)

def State.reportSlots (s : State) (t : Option Nat) : List Nat :=
  (s.sec.slots.filter fun x => decide (x.2.st = .sealed) && (t.isNone || decide (t = some x.2.tenant))).map (·.1)

def State.slotRecord (s : State) (n : Nat) : List Byte :=
  let x := s.slot n
  leBytes 2 n ++ leBytes 2 x.ext ++ leBytes 2 x.tenant ++ x.policyDigest ++ x.bundleDigest

/-- The tenant, domain or slot of a key index (R387). -/
def keyOwner (k : Nat) : Nat := if k < 1024 then k else if k < 3072 then k - 1024 else k - 3072

/-- The tenant whose memory a key protects. -/
def State.keyTenant (s : State) (k : Nat) : Nat :=
  if k < 1024 then k else if k < 3072 then (s.domain (k - 1024)).tenant else (s.slot (k - 3072)).tenant

def State.reportKeys (s : State) (t : Option Nat) : List Nat :=
  (s.mem.keys.filter fun e => e.2.isSome && (t.isNone || decide (t = some (s.keyTenant e.1)))).map (·.1)

def State.keyRecord (s : State) (k : Nat) : List Byte :=
  leBytes 2 k ++ leBytes 2 (Tab.get 0 s.mem.keyGen k) ++ leBytes 2 (keyOwner k)

/-- The DIGEST field of a section. -/
def secDigest (f : List Byte) (t : Nat) : List Byte :=
  match sectionOf f t with
  | some x => x.digest
  | none => zeros 48

/-- A die's section digest (R390). -/
def dieDigest (f : List Byte) (die : Nat) : List Byte :=
  let ts := if die ≤ 1 then [secRot, secSvc, secConfig] else if die ≤ 3 then [secHub, secTrain] else [secPort]
  sha384 (ts.flatMap (secDigest f))

/-- The slot of a die in FW_RUN: that of a tender ABSENT or HELD is zero. -/
def State.fwRun (s : State) (die : Nat) : List Byte :=
  if die = s.tenderDie ∧ (s.twin.tender = .absent ∨ s.twin.tender = .held) then zeros 48 else dieDigest s.runImage die

def PendState.num : PendState → Nat
  | .none => 0
  | .writing => 1
  | .staged => 2
  | .failed => 3

/-- The staged image, in the state that shows it. -/
def State.stagedImage (s : State) : Option (List Byte) :=
  if s.sec.pend = .staged then some (s.flash (decide (s.sec.pendFlash = 1))) else none

/-- The PEND fields: versions, header digest, FW_PEND; zero where nothing is staged. [DEDUCED, log 130: unsafe] -/
def pendBytes : Option (List Byte) → List Byte
  | some f => leBytes 4 (imageVersion f) ++ leBytes 4 (imageSecVersion f) ++ sha384 (imageHeader f) ++
      (List.range 5).flatMap (dieDigest f)
  | none => zeros 296

/-- Bytes 0 to 111 of a report: what names the device, the boundary and the request. -/
def State.reportHead (s : State) (nonce : Nat) : List Byte :=
  leBytes 4 0x52414359 ++ leBytes 2 1 ++ leBytes 2 1024 ++ leBytes 8 s.epoch ++ leBytes 32 nonce ++ deviceId s ++
    sha384 (certBytes s)

/-- Bytes 112 to 711: the life cycle, debug, twin and image fields. -/
def State.reportState (s : State) (scope tenant : Nat) : List Byte :=
  let run := s.runImage
  leBytes 1 s.boot.lc ++ leBytes 1 (pack [(b2n s.debugOpened, 0), (b2n s.sec.dbgReopen, 1), (b2n s.sec.sealDead, 2)]) ++
    leBytes 2 (pack [(b2n (s.tok.active = some dieCdB), 0), (s.twin.tender.num, 1)]) ++ leBytes 1 s.sec.pend.num ++
    leBytes 1 scope ++ leBytes 2 (if scope = 1 then tenant else 0) ++ leBytes 4 s.sec.minSec ++
    leBytes 4 (imageVersion run) ++ sha384 (imageHeader run) ++ (List.range 5).flatMap s.fwRun ++ pendBytes s.stagedImage

/-- Bytes 712 to 927: the partition digests of R391, and how much each covers. -/
def State.reportDigests (s : State) (t : Option Nat) : List Byte :=
  let ts := s.reportTenants t
  let es := s.reportExts t
  let ss := s.reportSlots t
  sha384 (ts.flatMap s.tenantRecord) ++ sha384 (es.flatMap s.extRecord) ++ sha384 (ss.flatMap s.slotRecord) ++
    sha384 ((s.reportKeys t).flatMap s.keyRecord) ++ leBytes 2 ts.length ++ leBytes 2 es.length ++
    leBytes 2 ss.length ++ zeros 18

/-- The 928 bytes that are signed. -/
def State.reportBytes (s : State) (a : AttReq) : List Byte :=
  s.reportHead a.nonce ++ s.reportState a.scope a.tenant ++
    s.reportDigests (if a.scope = 1 then some a.tenant else none)

/-! ## ATTEST (R389, R392) -/

/-- What is wrong with DST, over the fabric; on the service link it is zero (R388, R416). -/
def State.dstBad (s : State) (v : Via) (dst len : Nat) : Option (Nat × Nat) :=
  if viaOperator v then (if dst = 0 then none else some (cMalformed, 0))
  else if dst % 64 ≠ 0 then some (cMalformed, 0)
  else s.argFail v dst len needW

/-- ATTEST under R389: what passes waits for the next boundary. [DEDUCED, log 128: unsafe] -/
def attestAct (v : Via) (nonce dst scope resv : Nat) (s : State) : State :=
  let no := fun c x => s.secCpl v 0x80 c x []
  let t := s.tenantOf (s.viaHost v)
  if 1 < scope ∨ resv ≠ 0 then no cMalformed 0
  else if (!viaOperator v ∧ (scope = 0 ∨ t.isNone)) ∨ (scope = 1 ∧ t.isNone) then no cRights 0
  else match s.dstBad v dst 1024 with
    | some f => s.argRefuse v f fun s c x => s.secCpl v 0x80 c x []
    | none =>
      if s.boot.lc = 0 ∨ s.boot.recovery then no cUnsupported 0
      else if 64 ≤ s.sec.attests.length then no cBusy (s.epoch + 256)
      else { s with sec := { s.sec with
        attests := s.sec.attests ++ [⟨v, nonce, dst, scope, t.getD 0, s.epoch, []⟩] } }

/-- ATTEST. -/
def execAttest (v : Via) (nonce dst scope resv : Nat) (s : State) : Out :=
  let no := fun (s : State) c x => s.secCpl v 0x80 c x []
  .next (s.classThree v 0x80 [5] 0 false no fun s => attestAct v nonce dst scope resv s)

/-- The twin state's verdict on an ATTEST at its boundary: the retry epoch of a BUSY_RETRY, or none (R392). -/
def State.attestRetry (s : State) (n : Nat) : Option Nat :=
  if !s.tokenHeld then some (s.epoch + 4)
  else if s.handingOver then some (n + 5)
  else match s.pairedEntry with
    | some e => some (e + 64)
    | none => match s.twin.tender with
      | .resync => some (n + 17)
      | .resetting => some (n + 8193)
      | _ => none

/-- Judges one ATTEST whose boundary has come. -/
def State.judgeAttest (s : State) (a : AttReq) : State :=
  match s.attestRetry a.epoch with
  | some e => s.secCpl a.owed 0x80 cBusy e []
  | none => { s with sec := { s.sec with attests := s.sec.attests ++ [{ a with report := s.reportBytes a }] } }

/-- Signs one report, and delivers it. -/
def State.signReport (s : State) (a : AttReq) : State :=
  let (s, sig) := s.sign a.report
  let epoch := ofLe ((a.report.drop 8).take 8)
  s.deliver a.owed a.dst (a.report ++ sig) fun s c n b => s.secCpl a.owed 0x80 c (if c = cOk then epoch else n) b

/-- ATTEST_SIGN: requests of earlier epochs are judged, and up to four reports are signed (R392).
[DEDUCED, log 129: unsafe] -/
def execAttestSign (s : State) : Out :=
  .next (
    if s.twin.paused ∨ s.tok.silent ∨ s.tok.active.isNone then s
    else
      let due := s.sec.attests.filter fun a => decide (a.report = [] ∧ a.epoch < s.epoch)
      let rest := s.sec.attests.filter fun a => !decide (a.report = [] ∧ a.epoch < s.epoch)
      let s := due.foldl State.judgeAttest { s with sec := { s.sec with attests := rest } }
      let built := s.sec.attests.filter fun a => decide (a.report ≠ [])
      let wait := s.sec.attests.filter fun a => decide (a.report = [])
      (built.take 4).foldl State.signReport { s with sec := { s.sec with attests := built.drop 4 ++ wait } })

/-- CERT_GET (R383). [DEDUCED, log 132: unsafe] -/
def execCertGet (v : Via) (dst resv : Nat) (s : State) : Out :=
  let no := fun (s : State) c x => s.secCpl v 0x85 c x []
  .next (s.classThree v 0x85 [5] 0 (decide (resv ≠ 0)) no fun s =>
    s.deliver v dst (certBytes s) fun s c n b => s.secCpl v 0x85 c (if c = cOk then 0 else n) b)

/-! ## Firmware update (R105, R393, R394) -/

/-- The bytes of a flash device. -/
def flashBytes : Nat := 67108864

/-- A device now holds these bytes, and is erased behind them. -/
def State.setFlash (s : State) (flash : Nat) (f : List Byte) : State :=
  { s with boot := if flash = 0 then { s.boot with flashA := f } else { s.boot with flashB := f } }

/-- The staged image's state, the next OFFSET and the device. The write-protect input of the device is released while the
image is being written, and asserted otherwise (R62). -/
def State.setPend (s : State) (st : PendState) (next flash : Nat) : State :=
  { s with
    sec := { s.sec with pend := st, pendNext := next, pendFlash := flash }
    boot := { s.boot with
      wpA := !decide (st = .writing ∧ flash = 0), wpB := !decide (st = .writing ∧ flash = 1) } }

/-- Is this version above the running image's? Nothing runs in recovery. -/
def State.versionAbove (s : State) (f : List Byte) : Bool :=
  let run := s.runImage
  s.boot.recovery || decide (imageSecVersion run < imageSecVersion f ∨
    (imageSecVersion run = imageSecVersion f ∧ imageVersion run < imageVersion f))

/-- The device now holds `f`; with FINAL, the image is read back and checked. -/
def State.imageWritten (s : State) (c : RslCmd) (flash final : Nat) (f : List Byte) : State :=
  let s := s.setFlash flash f
  if final = 0 then (s.setPend .writing f.length flash).rslAnswer c 0x0105 cOk 0 []
  else if sectionsOk f then
    let s := s.setPend .staged 0 flash
    let s := s.raise 0x0205 sevInfo s.actDie (leBytes 4 (imageVersion f) ++ leBytes 4 (imageSecVersion f))
    s.rslAnswer c 0x0105 cOk 0 []
  else (s.setPend .failed 0 flash).rslAnswer c 0x0105 cMalformed 0 []

/-- IMAGE_WRITE under R393; a write past the end of the device is at no next OFFSET. [DEDUCED, log 131: unsafe] -/
def imageWriteAct (c : RslCmd) (flash final offset len : Nat) (data : List Byte) (s : State) : State :=
  let no := fun (s : State) code => s.rslAnswer c 0x0105 code 0 []
  if 1 < flash ∨ 1 < final ∨ offset % 4096 ≠ 0 ∨ len = 0 ∨ 65536 < len ∨ data.length ≠ len ∨
      flashBytes < offset + len then no s cMalformed
  else if s.boot.lc = 3 ∨ (!s.boot.recovery ∧ flash = b2n s.boot.runB) then no s cUnsupported
  else if s.sec.pend = .writing then
    if offset ≠ s.sec.pendNext ∨ flash ≠ s.sec.pendFlash then no s cMalformed
    else s.imageWritten c flash final (s.flash (decide (flash = 1)) ++ data)
  else if offset ≠ 0 then no s cMalformed
  else if len < 2048 ∨ !headerOk s.sec s.boot.lc data then no (s.setPend .failed 0 flash) cMalformed
  else if !s.versionAbove data then no (s.setPend .failed 0 flash) cUnsupported
  else s.imageWritten c flash final data

/-- IMAGE_WRITE. -/
def execImageWrite (c : RslCmd) (flash final offset len : Nat) (data : List Byte) (s : State) : Out :=
  .next (s.rslGate c 0x0105 false fun s => imageWriteAct c flash final offset len data s)

/-- SEC_MIN_RAISE (R394); a staged image below the new minimum fails. -/
def execSecMinRaise (c : RslCmd) (value : Nat) (s : State) : Out :=
  .next (s.rslGate c 0x0108 false fun s =>
    if 64 < value then s.rslAnswer c 0x0108 cMalformed 0 []
    else if value ≤ s.sec.minSec ∨ imageSecVersion s.runImage < value then s.rslAnswer c 0x0108 cUnsupported 0 []
    else
      let low := match s.stagedImage with
        | some f => decide (imageSecVersion f < value)
        | none => false
      let s := { s with sec := { s.sec with minSec := value } }
      let s := if low then s.setPend .failed 0 0 else s
      s.rslAnswer c 0x0108 cOk 0 [])

/-! ## Debug and the key store (R384, R385) -/

/-- DEBUG_OPEN (R385). -/
def execDebugOpen (c : RslCmd) (tokenOk : Bool) (s : State) : Out :=
  .next (s.rslGate c 0x0109 false fun s =>
    if !tokenOk then s.rslAnswer c 0x0109 cRights 0 []
    else if s.debugOpened then s.rslAnswer c 0x0109 cUnsupported 0 []
    else if s.lcRunning then s.rslAnswer c 0x0109 cBusy (s.epoch + 256) []
    else
      let s := { s with boot := { s.boot with dbgOpenRun := true, lcOwed := [Via.rsl c] } }
      s.withdrawAll.settleLc)

/-- KEYSTORE_CHANGE_ACK: the tender's root holds the oldest change; what depends on it completes (R384). -/
def execKeystoreChangeAck (s : State) : Out :=
  .next (match s.sec.changes with
  | [] => s
  | (k, hs) :: rest =>
    let s := { s with sec := { s.sec with changes := rest, tenderStore := k }
                      twin := { s.twin with keyStoreSent := true } }
    s.releaseAll hs)

end Sys2Proof.Machine
end

