-- ==== Sys2Proof/Machine/Sealing.lean ====
section
/-! DEFINITION. The meanings of the link-session and sealed-slot commands (R395 to R405). -/

set_option Elab.async false

namespace Sys2Proof.Machine
open Sys2Proof

/-! ## Reading and checking a host's structures (R388) -/

/-- Reads `n` lines from a pool address: none where one is poison. -/
def State.readLines (s : State) (addr : Nat) : Nat → State × Option (List Byte)
  | 0 => (s, some [])
  | n + 1 =>
    let (s, a) := s.readPool addr [] .front
    let (s, rest) := State.readLines s (addr + 64) n
    (s, if a.poison then none else rest.map fun bs => lineBytes a.data ++ bs)

/-! ## Sessions (R395 to R401) -/

/-- The first number from `n` on, of the non-zero 32-bit ones, that has not been drawn before.
[DEDUCED, log 133: unsafe] -/
def unusedId (used : List Nat) (n : Nat) : Nat → Nat
  | 0 => n
  | fuel + 1 => if used.contains n then unusedId used (n % (two32 - 1) + 1) fuel else n

/-- Draws a SESSION_ID. -/
def State.drawSession (s : State) : State × Nat :=
  let (s, w) := s.draw
  let id := unusedId s.sec.usedIds (w % (two32 - 1) + 1) (s.sec.usedIds.length + 1)
  ({ s with sec := { s.sec with usedIds := s.sec.usedIds ++ [id] } }, id)

/-- CHALLENGE (R395) for a HELLO and a session, and the private half of the module's ephemeral key. -/
def State.challenge (s : State) (id : Nat) (hello : List Byte) : State × List Byte × Nat :=
  let (s, nonce) := s.draw
  let (s, w) := s.draw
  let eph := privateKey w
  let flags := pack [(b2n s.debugOpened, 0), (b2n s.sec.sealDead, 1)]
  let body := leBytes 4 id ++ leBytes 1 flags ++ zeros 11 ++ leBytes 32 nonce ++ keyBytes (publicOf eph) ++ zeros 16
  let (s, sig) := s.sign (hello ++ body)
  (s, body ++ sig, eph)

/-- HOST_EPH_PUB of a HELLO. -/
def helloKey (hello : List Byte) : List Byte := (hello.drop 32).take 96

/-- Does a HELLO have its form: 160 bytes, the reserved ones zero, and a key on the curve? [DEDUCED, log 134: unsafe] -/
def helloOk (hello : List Byte) : Bool :=
  decide (hello.length = 160 ∧ ofLe (hello.drop 128) = 0) && (keyPoint (helloKey hello)).isSome

/-- A session with the keys of R398: HKDF-SHA-384 of the shared secret, with TH as the salt. -/
def Session.keyed (x : Session) (info : String) (eph : Nat) (hello chal : List Byte) : Session :=
  let th := sha384 (hello ++ chal)
  let z := (sharedSecret eph (helloKey hello)).getD []
  let k := hkdf384 z th (ascii info) 64
  { x with th := th, keyHp := k.take 32, keyPh := (k.drop 32).take 32 }

def State.addSession (s : State) (x : Session) : State :=
  { s with sec := { s.sec with sessions := s.sec.sessions ++ [x] } }

def newSession (id host : Nat) (st : SessState) (ch : Bool) (epoch : Nat) : Session :=
  { id := id, host := host, st := st, ch := ch, opened := epoch, measure := 0, root := 0, proven := false, mask := [],
    seen := [], high := 0, sendSeq := 0, fails := 0, th := [], keyHp := [], keyPh := [], passed := [] }

def State.pendingSessions (s : State) : Nat := (s.sec.sessions.filter fun x => decide (x.st = .pending)).length

/-- SESS_OPEN under R395. -/
def sessOpenAct (v : Via) (helloAddr outAddr : Nat) (s : State) : State :=
  let no := fun (s : State) c x => s.secCpl v 0x81 c x []
  let bad := (s.argFail v helloAddr 160 needR).orElse fun _ => s.argFail v outAddr 256 needW
  if helloAddr % 64 ≠ 0 ∨ outAddr % 64 ≠ 0 then no s cMalformed 0
  else match bad with
    | some f => s.argRefuse v f no
    | none =>
      if 64 ≤ s.pendingSessions then no s cBusy (s.epoch + 256)
      else match s.readLines helloAddr 3 with
        | (s, none) => no s cPoison 0
        | (s, some bytes) =>
          let hello := bytes.take 160
          if !helloOk hello then no s cMalformed 0
          else
            let (s, id) := s.drawSession
            let (s, chal, eph) := s.challenge id hello
            let s := s.putPool outAddr chal
            let x := newSession id (s.viaHost v) .pending false s.epoch
            no (s.addSession (x.keyed "YC960 corxel session" eph hello chal)) cOk id

/-- SESS_OPEN. -/
def execSessOpen (v : Via) (helloAddr outAddr resv : Nat) (s : State) : Out :=
  let no := fun (s : State) c x => s.secCpl v 0x81 c x []
  .next (s.classThree v 0x81 [5] 0 (decide (resv ≠ 0)) no fun s => sessOpenAct v helloAddr outAddr s)

/-- A session leaves without its keys having been passed on. -/
def State.dropSession (s : State) (id : Nat) : State :=
  { s with sec := { s.sec with sessions := s.sec.sessions.filter fun x => decide (x.id ≠ id) } }

/-- The session is ESTABLISHED: it replaces its host's old one, and its mask is computed (R395, R397). -/
def State.establish (s : State) (v : Via) (x : Session) : State :=
  let x := { x with st := .established }
  let x := { x with mask := s.maskFor x }
  let s := s.dropSession x.id
  let s := s.endSessions fun y => decide (y.host = x.host ∧ y.st = .established ∧ y.ch = false)
  (s.addSession x).keyChange [heldSec v 0x82 cOk x.mask.length []]

/-! ### Evidence (R396) -/

/-- CHAIN_LEN of evidence. -/
def chainLen (e : List Byte) : Nat := ofLe ((e.drop 144).take 1)

/-- Is the layout that of R396, for these EVID_LEN bytes? -/
def evidenceForm (e : List Byte) : Bool :=
  decide (1 ≤ chainLen e ∧ chainLen e ≤ 3 ∧ e.length = 256 + 192 * chainLen e ∧ ofLe ((e.drop 145).take 15) = 0)

/-- LEAF_PUB. -/
def leafKey (e : List Byte) : List Byte := (e.drop 48).take 96

/-- ISSUER_PUB and SIG of chain entry `k`. -/
def issuerKey (e : List Byte) (k : Nat) : List Byte := (e.drop (160 + 192 * k)).take 96

def issuerSig (e : List Byte) (k : Nat) : List Byte := (e.drop (256 + 192 * k)).take 96

/-- LEAF_SIG. -/
def leafSig (e : List Byte) : List Byte := (e.drop (160 + 192 * chainLen e)).take 96

/-- Does the evidence verify for a session's TH: each entry's SIG over its subject, and LEAF_SIG over TH and MEASURE? -/
def evidenceVerifies (th e : List Byte) : Bool :=
  ((List.range (chainLen e)).all fun k =>
    verifies (issuerKey e k) (if k = 0 then leafKey e else issuerKey e (k - 1)) (issuerSig e k)) &&
    verifies (leafKey e) (th ++ e.take 48) (leafSig e)

/-- The session records MEASURE, and ROOT (R396). -/
def Session.proved (x : Session) (e : List Byte) : Session :=
  { x with proven := true, measure := ofLe (e.take 48), root := ofLe (sha384 (issuerKey e (chainLen e - 1))) }

/-- SESS_PROVE under R395 and R396. -/
def sessProveAct (v : Via) (sid evidAddr evidLen : Nat) (s : State) : State :=
  let no := fun (s : State) c x => s.secCpl v 0x82 c x []
  if evidAddr % 64 ≠ 0 then no s cMalformed 0
  else match s.sec.sessions.find? fun x => decide (x.id = sid ∧ x.host = s.viaHost v ∧ x.st = .pending) with
    | none => no s cRights 0
    | some x =>
      if evidLen = 0 then s.establish v x
      else if evidLen ≠ 448 ∧ evidLen ≠ 640 ∧ evidLen ≠ 832 then no s cMalformed 0
      else match s.argFail v evidAddr evidLen needR with
        | some f => s.argRefuse v f no
        | none => match s.readLines evidAddr (evidLen / 64) with
          | (s, none) => no s cPoison 0
          | (s, some e) =>
            if !evidenceForm e then no s cMalformed 0
            else if !evidenceVerifies x.th e then no (s.dropSession sid) cRights 0
            else s.establish v (x.proved e)

/-- SESS_PROVE. -/
def execSessProve (v : Via) (sid evidAddr evidLen resv : Nat) (s : State) : Out :=
  let no := fun (s : State) c x => s.secCpl v 0x82 c x []
  .next (s.classThree v 0x82 [5] 0 (decide (resv ≠ 0)) no fun s => sessProveAct v sid evidAddr evidLen s)

/-- SESS_CLOSE from the session's host (R401). -/
def execSessClose (v : Via) (sid : Nat) (s : State) : Out :=
  let no := fun (s : State) c x => s.secCpl v 0x83 c x []
  .next (s.classThree v 0x83 [1] (BitVec.allOnes 32) false no fun s =>
    if s.sec.sessions.any fun x => decide (x.id = sid ∧ x.host = s.viaHost v) then
      s.closeSession sid [heldSec v 0x83 cOk 0 []]
    else no s cRights 0)

/-- SESSION_PENDING_TIMEOUT: not proven within 256 epochs (R395). -/
def execSessionPendingTimeout (sid : Nat) (s : State) : Out :=
  .next (
    if s.sec.sessions.any fun x => decide (x.id = sid ∧ x.st = .pending ∧ x.opened + 256 ≤ s.epoch) then
      s.dropSession sid
    else s)

def State.setSession (s : State) (x : Session) : State :=
  { s with sec := { s.sec with sessions := s.sec.sessions.map fun (y : Session) => if y.id = x.id then x else y } }

/-- A message with a SEQ reaches a session: one that lies below the receive window or is marked in it is discarded; else
its ciphertext is opened under K_HP. The answer is the plain text of a message that is taken. After 256 tag failures the
session ends (R400, R401). The highest SEQ seen moves the window at receipt, whether the tag then checks or not.
[DEDUCED, log 135: unsafe] -/
def State.receiveSeq (s : State) (x : Session) (seq : Nat) (aad cipher tag : List Byte) : State × Option (List Byte) :=
  if x.seen.contains seq ∨ seq + 1024 < x.high then (s.bump 3 x.host 6 1, none)
  else
    let high := max x.high seq
    let kept := x.seen.filter fun n => decide (high ≤ n + 1024)
    match gcmOpen x.keyHp (sessNonce x.id seq) aad cipher tag with
    | some plain => (s.setSession { x with seen := seq :: kept, high := high }, some plain)
    | none =>
      let s := (s.setSession { x with seen := kept, high := high, fails := x.fails + 1 }).bump 3 x.host 7 1
      (if 256 ≤ x.fails + 1 then s.endSession x.id else s, none)

/-- The ESTABLISHED session on the fabric that a message names. -/
def State.fabricSession (s : State) (sid host : Nat) : Option Session :=
  s.sec.sessions.find? fun x => decide (x.id = sid ∧ x.host = host ∧ x.st = .established ∧ x.ch = false)

/-- The header of a received message as it was sent (R154). -/
def receivedHeader (h : ReqHdr) (opcode : Nat) : List Byte :=
  headerBytes h.dst h.src h.tag opcode h.msgLen h.flags.toNat h.resv.toNat h.cktId h.opData.toNat

/-- ENCRYPTED_MESSAGE_RX: a message whose tag checks is passed on, and the request that it holds follows under its journal
index. One that is not taken is discarded, and leaves the request journal (R366, R399 to R401). It waits while no die
takes messages; a replayed one whose mark is ACCEPTED has been opened (R400). -/
def execEncryptedMessageRx (h : ReqHdr) (opcode sid resv seq : Nat) (cipher tag : List Byte) (s : State) : Out :=
  .next (if !s.attended then s else match s.fabricSession sid h.src with
  | none => s.journalOut h.jidx
  | some x =>
    if x.passed.contains h.jidx then s
    else match s.receiveSeq x seq (receivedHeader h opcode ++ securityBlock sid resv seq) cipher tag with
    | (s, some _) => s.openMessage sid h.jidx
    | (s, none) => s.journalOut h.jidx)

/-! ## Sealed slots (R402, R403) -/

/-- Bytes of a segment's plaintext, and how many segments a payload has. -/
def segmentBytes : Nat := 1048576

def segments (n : Nat) : Nat := (n + segmentBytes - 1) / segmentBytes

/-- The bytes of a bundle with a payload of `n` bytes. -/
def bundleLen (n : Nat) : Nat := 1024 + n + 16 * segments n

/-- A little-endian field of a bundle header (R402). -/
def bundleField (b : List Byte) (off n : Nat) : Nat := ofLe ((b.drop off).take n)

/-- PAYLOAD_LEN. -/
def payloadLen (b : List Byte) : Nat := bundleField b 8 8

/-- The form of a policy (R397): counts in range, and what is not in use zero. -/
def policyOk (p : List Byte) : Bool :=
  let n := policyRoots p
  let m := policyMeas p
  decide (1 ≤ n ∧ n ≤ 4 ∧ 1 ≤ m ∧ m ≤ 8 ∧ bundleField p 2 14 = 0) &&
    (policyDigests p (16 + 48 * n) (4 - n) ++ policyDigests p (208 + 48 * m) (8 - m)).all fun d => decide (d = 0)

/-- The bundle key (R402): none where TENANT_EPH_PUB is no point of the curve. -/
def bundleKey (s : State) (b : List Byte) : Option (List Byte) :=
  (sharedSecret (agreementKey s) ((b.drop 64).take 96)).map fun z =>
    hkdf384 z ((b.drop 16).take 48) (ascii "YC960 seal" ++ sha384 b) 32

/-- The header of a bundle for this device and this extent, at this offset of its staging extent (R402, R403).
[DEDUCED, log 165: unsafe] -/
def bundleOk (s : State) (b : List Byte) (dst stage : Ext) (offset : Nat) : Bool :=
  decide (bundleField b 0 4 = 0x4C414553 ∧ bundleField b 4 2 = 1 ∧ bundleField b 6 2 = dst.tenant ∧
    payloadLen b % 64 = 0 ∧ bundleField b 168 88 = 0 ∧ bundleField b 848 176 = 0 ∧
    payloadLen b ≤ 2 ^ 21 * dst.lenGran ∧ offset + bundleLen (payloadLen b) ≤ 2 ^ 21 * stage.lenGran ∧
    (b.drop 16).take 48 = sha384 (idkE s)) &&
    policyOk ((b.drop 256).take 592) && (bundleKey s b).isSome

/-- Right A leaves every grant on a sealed extent. -/
def State.dropAtomics (s : State) (e : Nat) : State :=
  (s.grantees e).foldl (fun (s : State) h =>
    let r := s.grant e h % 4
    ({ s with pool := { s.pool with grants := Tab.set 0 s.pool.grants (grantKey e h) r } }).logChange 0x0003
      (grantKey e h) 32 none) s

/-- The lowest FREE slot. -/
def State.freeSlotNumber (s : State) : Option Nat := (List.range 1024).find? fun n => decide ((s.slot n).st = .free)

/-- The line that holds a pool address: none where it is poison. A line on another member of the set comes from there.
[DESIGN CHOICE, log 26: safe] -/
def State.stageLine (s : State) (addr : Nat) : Option (List Byte) :=
  let x := s.ext (addrExt addr)
  if granMember x (addrExt addr) (addrOff addr / 2 ^ 21) ≠ some s.setIndex then
    some ((List.range 64).map fun i => Config.remoteByte s.fresh (addr + i))
  else
    let l := s.lineAt addr
    let ppn := s.phys (l / 1024)
    let m := s.lineMeta ppn (l % 1024)
    if s.readsClosed ppn (l % 1024) ∨ !m.valid then some (zeros 64)
    else if m.poison ∨ s.stackDown (stackOf ppn) then none
    else some (lineBytes (storedLine s.mem.cells ppn (l % 1024)))

/-- `n` bytes of the staging extent from a pool address: none where a line of them is poison. -/
def State.stageBytes (s : State) (addr n : Nat) : Option (List Byte) :=
  let first := addr / 64
  let lines := (List.range ((addr + n + 63) / 64 - first)).map fun i => s.stageLine ((first + i) * 64)
  if lines.all Option.isSome then some (((lines.flatMap fun l => l.getD []).drop (addr % 64)).take n) else none

/-- SEAL_IMPORT under R403. A staging line that is poison breaks the header. -/
def sealImportAct (v : Via) (dst stage offset resv : Nat) (s : State) : State :=
  let no := fun c x => s.secCpl v 0x84 c x []
  let d := s.ext dst
  let g := s.ext stage
  let header := (s.stageBytes (2 ^ 43 * stage + offset) 1024).getD []
  if 16383 < dst ∨ 16383 < stage ∨ resv ≠ 0 ∨ offset % 64 ≠ 0 then no cMalformed 0
  else if s.boot.lc ≠ 2 ∨ s.sec.sealDead then no cUnsupported 0
  else if !viaOperator v ∧ (!d.ownedBy (s.viaHost v) ∨ s.grant stage (s.viaHost v) % 2 = 0) then no cRights 0
  else if d.st ≠ .active ∨ g.st ≠ .active then no cRevoked 0
  else if !d.shared ∨ d.sealed ∨ d.domain.isSome ∨ s.isVersion dst ∨ g.sealed ∨ g.tenant ≠ d.tenant then
    no cUnsupported 0
  else if s.holdCount dst ≠ 0 then no cBusy (s.epoch + 1)
  else if !bundleOk s header d g offset then no cMalformed 0
  else match s.freeSlotNumber with
    | none => no cBusy (s.epoch + 256)
    | some n =>
      let s := s.setSlot n { st := .importing, ext := dst, tenant := d.tenant, header := header,
                             key := (bundleKey s header).getD [], owed := [v], stageExt := stage,
                             stageOffset := offset }
      let s := (s.setExt dst { d with sealed := true, key := 3072 + n }).loadKey (3072 + n)
      ((s.clearValid dst).dropAtomics dst).keyChange []

/-- SEAL_IMPORT. -/
def execSealImport (v : Via) (dstExt stageExt stageOffset resv : Nat) (s : State) : Out :=
  let no := fun (s : State) c x => s.secCpl v 0x84 c x []
  .next (s.classThree v 0x84 [5] 0 false no fun s => sealImportAct v dstExt stageExt stageOffset resv s)

/-- Segment `i` of a bundle in store, opened: none where its tag fails, or a line of it is poison. -/
def State.openSegment (s : State) (x : SealSlot) (i : Nat) : Option (List Byte) :=
  let n := payloadLen x.header
  let len := min segmentBytes (n - segmentBytes * i)
  let last := decide (i + 1 = segments n)
  let at0 := 2 ^ 43 * x.stageExt + x.stageOffset + 1024 + (segmentBytes + 16) * i
  (s.stageBytes at0 (len + 16)).bind fun c =>
    gcmOpen x.key ((x.header.drop 160).take 8 ++ leBytes 4 i) (leBytes 4 i ++ leBytes 1 (b2n last)) (c.take len)
      (c.drop len)

/-- The payload of `n` segments; or the first segment that fails. -/
def State.openSegments (s : State) (x : SealSlot) (n : Nat) : Except Nat (List Byte) :=
  match (List.range n).find? fun i => (s.openSegment x i).isNone with
  | some i => .error i
  | none => .ok ((List.range n).flatMap fun i => (s.openSegment x i).getD [])

/-- Sets the mask bit of slot `n` in every session under R397. -/
def remask (n : Nat) (p : List Byte) (x : Session) : Session :=
  let rest := x.mask.filter fun k => decide (k ≠ n)
  { x with mask := if x.st = .established ∧ x.meets p = true then rest ++ [n] else rest }

/-- SEAL_IMPORT_DONE: the root has been through the segments in order. The last tag checks, or a segment fails and undoes
the import (R403). -/
def execSealImportDone (slot : Nat) (s : State) : Out :=
  .next (
    let x := s.slot slot
    if 1023 < slot ∨ x.st ≠ .importing ∨ !s.attended then s
    else match s.openSegments x (segments (payloadLen x.header)) with
      | .ok plain =>
        let s := s.putPool (2 ^ 43 * x.ext) plain
        let s := s.setSlot slot { x with st := .sealed, owed := [], key := [] }
        let s := { s with sec := { s.sec with sessions := s.sec.sessions.map (remask slot x.policy) }, fresh := s.fresh + 1 }
        s.keyChange (x.owed.map fun v => heldSec v 0x84 cOk slot [])
      | .error i =>
        let e := s.ext x.ext
        let s := (s.setExt x.ext { e with sealed := false, key := e.tenant }).clearValid x.ext
        let s := { s with fresh := s.fresh + 1 }
        s.freeSlot slot (x.owed.map fun v => heldSec v 0x84 cMalformed i []))

def SlotState.num : SlotState → Nat
  | .free => 0
  | .importing => 1
  | .sealed => 2

/-- A slot's record (R403). -/
def State.sealRecord (s : State) (n : Nat) : List Byte :=
  let x := s.slot n
  leBytes 1 x.st.num ++ zeros 1 ++ leBytes 2 x.ext ++ leBytes 2 x.tenant ++
    leBytes 2 (if x.st = .free then 0 else 3072 + n) ++ zeros 8 ++ x.policyDigest ++ x.bundleDigest ++
    zeros 16

/-- SEAL_QUERY under R403. -/
def sealQueryAct (v : Via) (slot dst : Nat) (s : State) : State :=
  let fin := fun (s : State) c n b => s.secCpl v 0x87 c n b
  let x := s.slot slot
  if 1023 < slot then fin s cMalformed 0 []
  else if !viaOperator v ∧ (x.st = .free ∨ s.tenantOf (s.viaHost v) ≠ some x.tenant) then fin s cRights 0 []
  else s.deliver v dst (s.sealRecord slot) fun s c n b => fin s c (if c = cOk then 0 else n) b

/-- SEAL_QUERY. -/
def execSealQuery (v : Via) (slot dst resv : Nat) (s : State) : Out :=
  let no := fun (s : State) c x => s.secCpl v 0x87 c x []
  .next (s.classThree v 0x87 [5] 0 (decide (resv ≠ 0)) no fun s => sealQueryAct v slot dst s)

end Sys2Proof.Machine
end

