-- ==== Sys2Proof/Machine/Channel.lean ====
section
/-! DEFINITION. The meanings of the confidential-channel commands (R406): a CH_CMD envelope acts as its inner request
does from HOST. -/

set_option Elab.async false

namespace Sys2Proof.Machine
open Sys2Proof

/-- CH_OPEN: ESTABLISHED at once, with the keys of R398; at most 16 at a time. [DEDUCED, log 136: unsafe] -/
def execChOpen (c : RslCmd) (host : Nat) (hello : List Byte) (s : State) : Out :=
  .next (s.rslGate c 0x0170 false fun s =>
    if 4095 < host ∨ !helloOk hello then s.rslAnswer c 0x0170 cMalformed 0 []
    else if 16 ≤ (s.sec.sessions.filter fun x => x.ch).length then s.rslAnswer c 0x0170 cBusy (s.epoch + 256) []
    else
      let s := s.endSessions fun y => decide (y.host = host ∧ y.ch = true)
      let (s, id) := s.drawSession
      let (s, chal, eph) := s.challenge id hello
      let x := (newSession id host .established true s.epoch).keyed "YC960 rsl session" eph hello chal
      (s.addSession x).keyChange [heldRsl c 0x0170 cOk id chal])

/-- What a meaning leaves, for a request that travels inside another. -/
def afterOf (s : State) : Out → State
  | .next t => t
  | _ => s

/-- The completion of CH_RW: CODE, VALUE and the lines read. -/
def State.chRwCpl (s : State) (v : Via) (code value : Nat) (data : List Byte) : State :=
  s.finish v 0x171 0 code value (secBody code value) data

/-- CH_RW under R406: right R or W at every line, RIGHTS on a sealed extent, UNSUPPORTED on a bound one. -/
def chRwAct (v : Via) (addr len dir : Nat) (data : List Line) (s : State) : State :=
  let fin := fun (s : State) c x => s.chRwCpl v c x []
  if addr % 64 ≠ 0 ∨ len % 64 ≠ 0 ∨ len = 0 ∨ 4096 < len ∨ 1 < dir ∨ (dir = 1 ∧ data.length * 64 ≠ len) then
    fin s cMalformed 0
  else match s.argFail v addr len (if dir = 1 then needW else needR) with
    | some f => s.argRefuse v f fin
    | none =>
      if dir = 1 then fin (s.putPool addr (data.flatMap lineBytes)) cOk 0
      else match s.readLines addr (len / 64) with
        | (s, none) => fin s cPoison 0
        | (s, some bytes) => s.chRwCpl v cOk 0 bytes

/-- The request inside an envelope. -/
def chInner (v : Via) (s : State) : ChInner → State
  | .rw addr len dir data => chRwAct v addr len dir data s
  | .leaseRenew => afterOf s (execLeaseRenew v s)
  | .extAlloc kind rights len resv => afterOf s (execExtAlloc v kind rights len resv s)
  | .extGrant ext host rights resv => afterOf s (execExtGrant v ext host rights resv s)
  | .extRelease ext host resv => afterOf s (execExtRelease v ext host resv s)
  | .extWithdraw ext force resv => afterOf s (execExtWithdraw v ext force resv s)
  | .setInfo => afterOf s (execSetInfo v s)
  | .ringArm a => afterOf s (execRingArm v a s)
  | .ringStop ring mode => afterOf s (execRingStop v ring mode s)
  | .faultResolve fid gen action resv => afterOf s (execFaultResolve v fid gen action resv s)
  | .redOpen a => afterOf s (execRedOpen v a s)
  | .redReset buf seed resv => afterOf s (execRedReset v buf seed resv s)
  | .redClose buf => afterOf s (execRedClose v buf s)
  | .redQuery buf => afterOf s (execRedQuery v buf s)
  | .barrier bar count lead resv => afterOf s (execBarrier v bar count lead resv s)
  | .launch ring epoch resv => afterOf s (execLaunch v ring epoch resv s)
  | .pubCreate sealed => afterOf s (execPubCreate v sealed s)
  | .publish region expected srcExt resv => afterOf s (execPublish v region expected srcExt resv s)
  | .pubMap region => afterOf s (execPubMap v region s)
  | .pubRelease region version => afterOf s (execPubRelease v region version s)
  | .pubDelete region => afterOf s (execPubDelete v region s)
  | .pubQuery region => afterOf s (execPubQuery v region s)
  | .accessDump ext first count dst => afterOf s (execAccessDump v ext first count dst s)
  | .attest nonce dst scope resv => afterOf s (execAttest v nonce dst scope resv s)
  | .certGet dst resv => afterOf s (execCertGet v dst resv s)
  | .sealQuery slot dst resv => afterOf s (execSealQuery v slot dst resv s)
  | .sessOpen helloAddr outAddr resv => afterOf s (execSessOpen v helloAddr outAddr resv s)
  | .sessProve sid evidAddr evidLen resv => afterOf s (execSessProve v sid evidAddr evidLen resv s)
  | .sessClose sid => afterOf s (execSessClose v sid s)
  | .sealImport dstExt stageExt stageOffset resv => afterOf s (execSealImport v dstExt stageExt stageOffset resv s)
  | .ctrRead group count index dst => afterOf s (execCtrRead v group count index dst s)
  | .objQuery obj index dst => afterOf s (execObjQuery v obj index dst s)
  | .undefined _ => s.chRwCpl v cMalformed 0 []

/-- A discarded envelope has no completion (R400, R401). -/
def State.discardCmd (s : State) (c : RslCmd) : State :=
  { s with rsl := { s.rsl with opens := s.rsl.opens.filter fun o => decide (o.tag ≠ c.tag) } }

/-- CH_CMD: the tag is checked under K_HP over the envelope's first 16 bytes; `inner` is the request that the plain text
spells, whose layout beyond the opcode byte the spec does not give. [DESIGN CHOICE, log 180: unsafe] -/
def execChCmd (c : RslCmd) (sid resv seq : Nat) (cipher tag : List Byte) (inner : ChInner) (s : State) : Out :=
  .next (s.rslGate c 0x0171 false fun s =>
    match s.sec.sessions.find? fun x => decide (x.id = sid ∧ x.ch = true) with
    | none => s.discardCmd c
    | some x =>
      let j := (s.rsl.opens.find? fun o => decide (o.tag = c.tag)).map (·.jidx)
      let go := fun (s : State) =>
        if s.tok.fatal.isSome then s.chRwCpl (.ch c sid) cFatal 0 [] else chInner (.ch c sid) s inner
      -- a replayed one whose mark is ACCEPTED has been opened (R400)
      if (j.map x.passed.contains).getD false then go s
      else match s.receiveSeq x seq (securityBlock sid resv seq) cipher tag with
        | (s, none) => s.discardCmd c
        | (s, some _) => go (match j with
          | some j => s.openMessage sid j
          | none => s))

end Sys2Proof.Machine
end

