-- ==== Sys2Proof/Machine/Dispatch.lean ====
section
/-! DEFINITION. The effect of every command on everything but the queue: one direct call of its meaning per arm. -/

namespace Sys2Proof.Machine
open Sys2Proof

def exec (i : Instr) (s : State) : Host.Outcome State Fault Refusal :=
  match i with
  | .vinTurnOn mv => Sys2Proof.Machine.execVinTurnOn mv s
  | .vinTurnOff dipUs => Sys2Proof.Machine.execVinTurnOff dipUs s
  | .inputLowEntry mv => Sys2Proof.Machine.execInputLowEntry mv s
  | .inputHighEntry mv => Sys2Proof.Machine.execInputHighEntry mv s
  | .overvoltageCutoff mv => Sys2Proof.Machine.execOvervoltageCutoff mv s
  | .restartAfterCutoff belowMs mv => Sys2Proof.Machine.execRestartAfterCutoff belowMs mv s
  | .inputReversal mv => Sys2Proof.Machine.execInputReversal mv s
  | .modRstN lowNs => Sys2Proof.Machine.execModRstN lowNs s
  | .svcRstN lowNs => Sys2Proof.Machine.execSvcRstN lowNs s
  | .moduleResetRelease => Sys2Proof.Machine.execModuleResetRelease s
  | .softStartDone => Sys2Proof.Machine.execSoftStartDone s
  | .railGroupEnable inWindow => Sys2Proof.Machine.execRailGroupEnable inWindow s
  | .railEnableTimeout rail => Sys2Proof.Machine.execRailEnableTimeout rail s
  | .porRelease oscDly setIndex => Sys2Proof.Machine.execPorRelease oscDly setIndex s
  | .oscStartDelayEnd xaAmp xaCount xbAmp xbCount => Sys2Proof.Machine.execOscStartDelayEnd xaAmp xaCount xbAmp xbCount s
  | .imageChoiceDone bReadsA bReadsB => Sys2Proof.Machine.execImageChoiceDone bReadsA bReadsB s
  | .dieFirmwareDone die => Sys2Proof.Machine.execDieFirmwareDone die s
  | .configCheckDone die => Sys2Proof.Machine.execConfigCheckDone die s
  | .cdBClaimWaitEnd => Sys2Proof.Machine.execCdBClaimWaitEnd s
  | .loadStageDone => Sys2Proof.Machine.execLoadStageDone s
  | .stackCalDone stack pass => Sys2Proof.Machine.execStackCalDone stack pass s
  | .wipeRangeDone => Sys2Proof.Machine.execWipeRangeDone s
  | .efuseOpen rail deciAmps mv => Sys2Proof.Machine.execEfuseOpen rail deciAmps mv s
  | .senseLineOpen rail => Sys2Proof.Machine.execSenseLineOpen rail s
  | .railOutOfRange rail mv => Sys2Proof.Machine.execRailOutOfRange rail mv s
  | .cableFitted fab identity => Sys2Proof.Machine.execCableFitted fab identity s
  | .cableRemoved fab => Sys2Proof.Machine.execCableRemoved fab s
  | .cableFault fab => Sys2Proof.Machine.execCableFault fab s
  | .debugAccess inputs => Sys2Proof.Machine.execDebugAccess inputs s
  | .thermalStepUndo part => Sys2Proof.Machine.execThermalStepUndo part s
  | .tripInputOff => Sys2Proof.Machine.execTripInputOff s
  | .thermalComparator sensor => Sys2Proof.Machine.execThermalComparator sensor s
  | .powerAverageUpdate avgW => Sys2Proof.Machine.execPowerAverageUpdate avgW s
  | .powerClockStep => Sys2Proof.Machine.execPowerClockStep s
  | .powerStepUndo => Sys2Proof.Machine.execPowerStepUndo s
  | .crystalMissingEdge xb => Sys2Proof.Machine.execCrystalMissingEdge xb s
  | .crystalFrequencyFlag xb count => Sys2Proof.Machine.execCrystalFrequencyFlag xb count s
  | .crystalHoldEnd => Sys2Proof.Machine.execCrystalHoldEnd s
  | .loopLockLoss die ports => Sys2Proof.Machine.execLoopLockLoss die ports s
  | .monitorSample mon value fault => Sys2Proof.Machine.execMonitorSample mon value fault s
  | .epochBoundary markToA markToB => Sys2Proof.Machine.execEpochBoundary markToA markToB s
  | .hubEpochBoundary hub mark => Sys2Proof.Machine.execHubEpochBoundary hub mark s
  | .tokenClaim od die => Sys2Proof.Machine.execTokenClaim od die s
  | .tokenRenew od die => Sys2Proof.Machine.execTokenRenew od die s
  | .tokenRelease od die => Sys2Proof.Machine.execTokenRelease od die s
  | .tokenExpiry od => Sys2Proof.Machine.execTokenExpiry od s
  | .obeyingDieCommand od die kind => Sys2Proof.Machine.execObeyingDieCommand od die kind s
  | .tokenReply die od reply => Sys2Proof.Machine.execTokenReply die od reply s
  | .renewalSilence => Sys2Proof.Machine.execRenewalSilence s
  | .d2dCrcError link retry => Sys2Proof.Machine.execD2dCrcError link retry s
  | .d2dLinkFail link => Sys2Proof.Machine.execD2dLinkFail link s
  | .flitTx port atNs => Sys2Proof.Machine.execFlitTx port atNs s
  | .dataFlitRx port f marks => Sys2Proof.Machine.execDataFlitRx port f marks s
  | .idle port f => Sys2Proof.Machine.execIdle port f s
  | .nak port f => Sys2Proof.Machine.execNak port f s
  | .creditSync port f => Sys2Proof.Machine.execCreditSync port f s
  | .time port f arrival => Sys2Proof.Machine.execTime port f arrival s
  | .timeProbe port f t2 => Sys2Proof.Machine.execTimeProbe port f t2 s
  | .timeEcho port f t4 => Sys2Proof.Machine.execTimeEcho port f t4 s
  | .linkParam port f patternPort => Sys2Proof.Machine.execLinkParam port f patternPort s
  | .laneSwap port f => Sys2Proof.Machine.execLaneSwap port f s
  | .malformedControlFlit port f => Sys2Proof.Machine.execMalformedControlFlit port f s
  | .replayTimerExpiry port atNs => Sys2Proof.Machine.execReplayTimerExpiry port atNs s
  | .linkSilenceTimeout port => Sys2Proof.Machine.execLinkSilenceTimeout port s
  | .laneLockLoss port lanes => Sys2Proof.Machine.execLaneLockLoss port lanes s
  | .laneFecFault port lane corrected => Sys2Proof.Machine.execLaneFecFault port lane corrected s
  | .trainingStart port bad => Sys2Proof.Machine.execTrainingStart port bad s
  | .trainingDone port => Sys2Proof.Machine.execTrainingDone port s
  | .trainingTimeout port => Sys2Proof.Machine.execTrainingTimeout port s
  | .trainingRetry port => Sys2Proof.Machine.execTrainingRetry port s
  | .laneSwapDone port => Sys2Proof.Machine.execLaneSwapDone port s
  | .ingressSlotRelease port cls => Sys2Proof.Machine.execIngressSlotRelease port cls s
  | .messageBind => Sys2Proof.Machine.execMessageBind s
  | .gateBurstStart port kind cls offsetNs => Sys2Proof.Machine.execGateBurstStart port kind cls offsetNs s
  | .routeDrained version => Sys2Proof.Machine.execRouteDrained version s
  | .circuitActivate ckt => Sys2Proof.Machine.execCircuitActivate ckt s
  | .circuitRemove ckt => Sys2Proof.Machine.execCircuitRemove ckt s
  | .undefinedOpcode v cls opcode => Sys2Proof.Machine.execUndefinedOpcode v cls opcode s
  | .rdNc h addr maskOrDomain err => Sys2Proof.Machine.execRdNc h addr maskOrDomain err s
  | .rdShared h addr maskOrDomain => Sys2Proof.Machine.execRdShared h addr maskOrDomain s
  | .rdOwn h addr maskOrDomain => Sys2Proof.Machine.execRdOwn h addr maskOrDomain s
  | .wrNc h addr mask data err => Sys2Proof.Machine.execWrNc h addr mask data err s
  | .wbDirty h addr mask data => Sys2Proof.Machine.execWbDirty h addr mask data s
  | .evict h addr maskOrDomain => Sys2Proof.Machine.execEvict h addr maskOrDomain s
  | .atomic h addr maskOrDomain operand err => Sys2Proof.Machine.execAtomic h addr maskOrDomain operand err s
  | .snpAck h => Sys2Proof.Machine.execSnpAck h s
  | .snpData h addr domain dgen resv data => Sys2Proof.Machine.execSnpData h addr domain dgen resv data s
  | .grantAck h => Sys2Proof.Machine.execGrantAck h s
  | .homeLineReadDone tracker err => Sys2Proof.Machine.execHomeLineReadDone tracker err s
  | .hubWriteAccepted hub => Sys2Proof.Machine.execHubWriteAccepted hub s
  | .starvationEntryTimeout line => Sys2Proof.Machine.execStarvationEntryTimeout line s
  | .cohDeadlineExpiry tracker => Sys2Proof.Machine.execCohDeadlineExpiry tracker s
  | .cohDownReport h setGen domain dgen cause => Sys2Proof.Machine.execCohDownReport h setGen domain dgen cause s
  | .cohDomainCreate c tenant => Sys2Proof.Machine.execCohDomainCreate c tenant s
  | .cohMemberAdd c domain index host => Sys2Proof.Machine.execCohMemberAdd c domain index host s
  | .cohMemberRemove c domain index => Sys2Proof.Machine.execCohMemberRemove c domain index s
  | .cohExtBind c ext domain => Sys2Proof.Machine.execCohExtBind c ext domain s
  | .cohExtUnbind c ext => Sys2Proof.Machine.execCohExtUnbind c ext s
  | .cohDomainDown c domain => Sys2Proof.Machine.execCohDomainDown c domain s
  | .cohDomainReset c domain => Sys2Proof.Machine.execCohDomainReset c domain s
  | .cohDomainFree c domain => Sys2Proof.Machine.execCohDomainFree c domain s
  | .cohDomainQuery c domain => Sys2Proof.Machine.execCohDomainQuery c domain s
  | .leaseRenew v => Sys2Proof.Machine.execLeaseRenew v s
  | .extAlloc v kind rights lenGran resv => Sys2Proof.Machine.execExtAlloc v kind rights lenGran resv s
  | .extGrant v ext host rights resv => Sys2Proof.Machine.execExtGrant v ext host rights resv s
  | .extRelease v ext host resv => Sys2Proof.Machine.execExtRelease v ext host resv s
  | .extWithdraw v ext force resv => Sys2Proof.Machine.execExtWithdraw v ext force resv s
  | .setInfo v => Sys2Proof.Machine.execSetInfo v s
  | .hostAssign c host tenant assign => Sys2Proof.Machine.execHostAssign c host tenant assign s
  | .tenantSet c tenant quota => Sys2Proof.Machine.execTenantSet c tenant quota s
  | .extQuery c ext => Sys2Proof.Machine.execExtQuery c ext s
  | .leaseQuery c host => Sys2Proof.Machine.execLeaseQuery c host s
  | .setMaster c newMaster lostMask setGen => Sys2Proof.Machine.execSetMaster c newMaster lostMask setGen s
  | .leaseEnd host => Sys2Proof.Machine.execLeaseEnd host s
  | .graceEnd host => Sys2Proof.Machine.execGraceEnd host s
  | .reclaimDone host => Sys2Proof.Machine.execReclaimDone host s
  | .extentFree ext => Sys2Proof.Machine.execExtentFree ext s
  | .setDelta h setGen epoch recs => Sys2Proof.Machine.execSetDelta h setGen epoch recs s
  | .setAck h setGen epoch => Sys2Proof.Machine.execSetAck h setGen epoch s
  | .setCmd h setGen order => Sys2Proof.Machine.execSetCmd h setGen order s
  | .setDone h setGen code => Sys2Proof.Machine.execSetDone h setGen code s
  | .setJoin h setGen size digest => Sys2Proof.Machine.execSetJoin h setGen size digest s
  | .setJoinAck h setGen index size code => Sys2Proof.Machine.execSetJoinAck h setGen index size code s
  | .setJoinSend => Sys2Proof.Machine.execSetJoinSend s
  | .setFormationEnd => Sys2Proof.Machine.execSetFormationEnd s
  | .setMemberLoss index => Sys2Proof.Machine.execSetMemberLoss index s
  | .setMasterLoss => Sys2Proof.Machine.execSetMasterLoss s
  | .ringArm v a => Sys2Proof.Machine.execRingArm v a s
  | .ringStop v ring mode => Sys2Proof.Machine.execRingStop v ring mode s
  | .faultResolve v fid gen action resv => Sys2Proof.Machine.execFaultResolve v fid gen action resv s
  | .ringQuery c ring => Sys2Proof.Machine.execRingQuery c ring s
  | .faultQuery c fid => Sys2Proof.Machine.execFaultQuery c fid s
  | .invalidate c tenant scope src len s1Root => Sys2Proof.Machine.execInvalidate c tenant scope src len s1Root s
  | .walkDone ring index err => Sys2Proof.Machine.execWalkDone ring index err s
  | .engineDispatch engine => Sys2Proof.Machine.execEngineDispatch engine s
  | .coachAck h => Sys2Proof.Machine.execCoachAck h s
  | .descriptorComplete ring index errAt err => Sys2Proof.Machine.execDescriptorComplete ring index errAt err s
  | .faultRecordExpiry fid => Sys2Proof.Machine.execFaultRecordExpiry fid s
  | .redOpen v a => Sys2Proof.Machine.execRedOpen v a s
  | .redReset v buf seed resv => Sys2Proof.Machine.execRedReset v buf seed resv s
  | .redClose v buf => Sys2Proof.Machine.execRedClose v buf s
  | .redQuery v buf => Sys2Proof.Machine.execRedQuery v buf s
  | .redWr h addr contrib resv scales lines => Sys2Proof.Machine.execRedWr h addr contrib resv scales lines s
  | .redLineCombine jidx err => Sys2Proof.Machine.execRedLineCombine jidx err s
  | .laneGroupFault group => Sys2Proof.Machine.execLaneGroupFault group s
  | .barrier v bar count lead resv => Sys2Proof.Machine.execBarrier v bar count lead resv s
  | .barrierTimeout bar => Sys2Proof.Machine.execBarrierTimeout bar s
  | .launch v ring epoch resv => Sys2Proof.Machine.execLaunch v ring epoch resv s
  | .launchFire ring => Sys2Proof.Machine.execLaunchFire ring s
  | .pairedCheck c on => Sys2Proof.Machine.execPairedCheck c on s
  | .pairedEntryDone => Sys2Proof.Machine.execPairedEntryDone s
  | .pairedMismatch unit => Sys2Proof.Machine.execPairedMismatch unit s
  | .pubCreate v sealed => Sys2Proof.Machine.execPubCreate v sealed s
  | .publish v region expected srcExt resv => Sys2Proof.Machine.execPublish v region expected srcExt resv s
  | .publishJudge => Sys2Proof.Machine.execPublishJudge s
  | .pubMap v region => Sys2Proof.Machine.execPubMap v region s
  | .pubRelease v region version => Sys2Proof.Machine.execPubRelease v region version s
  | .pubDelete v region => Sys2Proof.Machine.execPubDelete v region s
  | .pubQuery v region => Sys2Proof.Machine.execPubQuery v region s
  | .ceBucketLeak => Sys2Proof.Machine.execCeBucketLeak s
  | .stackOvfHalve => Sys2Proof.Machine.execStackOvfHalve s
  | .openSweepDone ppn => Sys2Proof.Machine.execOpenSweepDone ppn s
  | .ladleOverwriteDone ppn => Sys2Proof.Machine.execLadleOverwriteDone ppn s
  | .ladleScrubRead ppn line err endsPass => Sys2Proof.Machine.execLadleScrubRead ppn line err endsPass s
  | .rdmRefresh stack row activations => Sys2Proof.Machine.execRdmRefresh stack row activations s
  | .calibrationSlot channel => Sys2Proof.Machine.execCalibrationSlot channel s
  | .pageMoveCopyDone ppn => Sys2Proof.Machine.execPageMoveCopyDone ppn s
  | .stackFail stack => Sys2Proof.Machine.execStackFail stack s
  | .stackRemove c stack => Sys2Proof.Machine.execStackRemove c stack s
  | .stackReturn c stack => Sys2Proof.Machine.execStackReturn c stack s
  | .stackReset c stack => Sys2Proof.Machine.execStackReset c stack s
  | .stackResetDone stack pass => Sys2Proof.Machine.execStackResetDone stack pass s
  | .accessDump v ext first count dst => Sys2Proof.Machine.execAccessDump v ext first count dst s
  | .sramCorrectable die array row => Sys2Proof.Machine.execSramCorrectable die array row s
  | .sramUncorrectable die array index => Sys2Proof.Machine.execSramUncorrectable die array index s
  | .ceLogRead c => Sys2Proof.Machine.execCeLogRead c s
  | .cutAck epoch => Sys2Proof.Machine.execCutAck epoch s
  | .cutLagTimeout => Sys2Proof.Machine.execCutLagTimeout s
  | .tenderReady => Sys2Proof.Machine.execTenderReady s
  | .resyncStart => Sys2Proof.Machine.execResyncStart s
  | .commitListRead hub ok => Sys2Proof.Machine.execCommitListRead hub ok s
  | .tenderLinkRetrain ok => Sys2Proof.Machine.execTenderLinkRetrain ok s
  | .failNotice fromTender => Sys2Proof.Machine.execFailNotice fromTender s
  | .activeSelfFault => Sys2Proof.Machine.execActiveSelfFault s
  | .silentDetect => Sys2Proof.Machine.execSilentDetect s
  | .tokenExpiryIndication => Sys2Proof.Machine.execTokenExpiryIndication s
  | .claimTimeout => Sys2Proof.Machine.execClaimTimeout s
  | .twinSwitch c => Sys2Proof.Machine.execTwinSwitch c s
  | .handover => Sys2Proof.Machine.execHandover s
  | .dieReset c die => Sys2Proof.Machine.execDieReset c die s
  | .dieReady die checksPass => Sys2Proof.Machine.execDieReady die checksPass s
  | .portReset c port => Sys2Proof.Machine.execPortReset c port s
  | .portResetIdleEnd port => Sys2Proof.Machine.execPortResetIdleEnd port s
  | .moduleReset c => Sys2Proof.Machine.execModuleReset c s
  | .bootStatus c => Sys2Proof.Machine.execBootStatus c s
  | .imageWrite c flash final offset len data => Sys2Proof.Machine.execImageWrite c flash final offset len data s
  | .lcAdvance c target => Sys2Proof.Machine.execLcAdvance c target s
  | .provision c tokenOk => Sys2Proof.Machine.execProvision c tokenOk s
  | .secMinRaise c value => Sys2Proof.Machine.execSecMinRaise c value s
  | .debugOpen c tokenOk => Sys2Proof.Machine.execDebugOpen c tokenOk s
  | .cfgWrite c fieldId value => Sys2Proof.Machine.execCfgWrite c fieldId value s
  | .cfgRead c fieldId => Sys2Proof.Machine.execCfgRead c fieldId s
  | .statusRead c word count index => Sys2Proof.Machine.execStatusRead c word count index s
  | .timeRelock c => Sys2Proof.Machine.execTimeRelock c s
  | .timeSourceIneligible port => Sys2Proof.Machine.execTimeSourceIneligible port s
  | .holdoverExpiry => Sys2Proof.Machine.execHoldoverExpiry s
  | .evAck c seq => Sys2Proof.Machine.execEvAck c seq s
  | .rslEcho c echo => Sys2Proof.Machine.execRslEcho c echo s
  | .routeLoad c version first entries => Sys2Proof.Machine.execRouteLoad c version first entries s
  | .routeCommit c version => Sys2Proof.Machine.execRouteCommit c version s
  | .policerSet c host cls enable cir pir cbs pbs => Sys2Proof.Machine.execPolicerSet c host cls enable cir pir cbs pbs s
  | .cktSetup c host port direction startEpoch windows => Sys2Proof.Machine.execCktSetup c host port direction startEpoch windows s
  | .cktTeardown c ckt endEpoch => Sys2Proof.Machine.execCktTeardown c ckt endEpoch s
  | .ctrRead v group count index dst => Sys2Proof.Machine.execCtrRead v group count index dst s
  | .objQuery v obj index dst => Sys2Proof.Machine.execObjQuery v obj index dst s
  | .rslFrameInvalid port frameLen => Sys2Proof.Machine.execRslFrameInvalid port frameLen s
  | .rslCommandRepeat port tag cmd => Sys2Proof.Machine.execRslCommandRepeat port tag cmd s
  | .evBucketRefill => Sys2Proof.Machine.execEvBucketRefill s
  | .attest v nonce dst scope resv => Sys2Proof.Machine.execAttest v nonce dst scope resv s
  | .attestSign => Sys2Proof.Machine.execAttestSign s
  | .certGet v dst resv => Sys2Proof.Machine.execCertGet v dst resv s
  | .sessOpen v helloAddr outAddr resv => Sys2Proof.Machine.execSessOpen v helloAddr outAddr resv s
  | .sessProve v sid evidAddr evidLen resv => Sys2Proof.Machine.execSessProve v sid evidAddr evidLen resv s
  | .sessClose v sid => Sys2Proof.Machine.execSessClose v sid s
  | .sessionPendingTimeout sid => Sys2Proof.Machine.execSessionPendingTimeout sid s
  | .encryptedMessageRx h opcode sid resv seq cipher tag => Sys2Proof.Machine.execEncryptedMessageRx h opcode sid resv seq cipher tag s
  | .sealImport v dstExt stageExt stageOffset resv => Sys2Proof.Machine.execSealImport v dstExt stageExt stageOffset resv s
  | .sealImportDone slot => Sys2Proof.Machine.execSealImportDone slot s
  | .sealQuery v slot dst resv => Sys2Proof.Machine.execSealQuery v slot dst resv s
  | .keystoreChangeAck => Sys2Proof.Machine.execKeystoreChangeAck s
  | .chOpen c host hello => Sys2Proof.Machine.execChOpen c host hello s
  | .chCmd c sid resv seq cipher tag inner => Sys2Proof.Machine.execChCmd c sid resv seq cipher tag inner s
  | .moduleResetBegin => Sys2Proof.Machine.execModuleResetBegin s
  | .inputReversalEnd => Sys2Proof.Machine.execInputReversalEnd s

end Sys2Proof.Machine
end

