-- ==== Sys2Proof/Machine/Step.lean ====
section
/-! DEFINITION. One step: the command at the front of the queue is carried out; on an empty queue the module idles. -/

set_option Elab.async false

namespace Sys2Proof.Machine
open Sys2Proof

/-- Takes the command at the front of the queue; an empty queue leaves the state as it is.
[DESIGN CHOICE, log 1: safe] [DESIGN CHOICE, log 2: safe] -/
def step (s : State) : Host.Outcome State Fault Refusal :=
  match s.pending with
  | [] => .next s
  | c :: rest => exec c { s with pending := rest }

/-- The state with the command that the word spells in front of its queue; unchanged where it spells none. -/
def State.withFetchWord (s : State) (nbits w : Nat) : State :=
  match decodeTableWord nbits w with
  | none => s
  | some c => { s with pending := c :: s.pending }

end Sys2Proof.Machine
end

