-- ==== Sys2Proof/WellFormed.lean ====
section
/-! DEFINITION. Well-formed commands: every operand lies within the field that carries it, and every die, port, rail or
channel it names is one the module has. Values a command may carry and the module answers MALFORMED are well formed. -/

set_option Elab.async false

namespace Sys2Proof

/-- Does the value fit a field of `n` bytes? -/
def fits (n v : Nat) : Bool := decide (v < 256 ^ n)

/-- The fields of a fabric header (R154); a message arrives on a Corxel port, at an offset within its epoch. -/
def hdrOk (h : ReqHdr) : Bool :=
  decide (h.port < 64 ∧ 1 ≤ h.msgLen ∧ h.msgLen ≤ 15 ∧ h.atNs < 4096) && fits 2 h.dst && fits 2 h.src && fits 2 h.tag &&
    fits 2 h.cktId && fits 4 h.jidx && fits 4 h.sess

/-- A command frame's fields (R412, R416). -/
def cmdOk (c : RslCmd) : Bool := decide (c.port < 2) && fits 4 c.tag && fits 2 c.host && fits 2 c.tenant

def viaOk : Via → Bool
  | .fabric h => hdrOk h
  | .rsl c => cmdOk c
  | .ch c sid => cmdOk c && fits 4 sid

/-- A flit is 256 bytes (R127). -/
def flitOk (f : RawFlit) : Bool := decide (f.bytes.length = 256)

/-- A flit that arrives on one of the link-layer ports. -/
def rxOk (port : Nat) (f : RawFlit) : Bool := decide (port < 66) && flitOk f

def ringOk (a : RingArgs) : Bool :=
  fits 8 a.base && fits 8 a.s1Root && fits 1 a.log2Size && fits 1 a.onFault && fits 1 a.s1Enable && fits 1 a.maxEngines

def redOk (a : RedArgs) : Bool :=
  fits 8 a.winBase && fits 8 a.resBase && fits 8 a.accBase && fits 8 a.winLen && fits 8 a.alpha && fits 8 a.seed &&
    fits 1 a.elemFmt && fits 1 a.accFmt && fits 1 a.resFmt && fits 2 a.contributors

def recFits (r : LeaseRec) : Bool := fits 2 r.host && fits 2 r.tenant && fits 8 r.endEpoch && decide (r.lstate < 4)

/-- An order of SET_CMD names an extent, domain or host by numbers that fit their fields (R199, R202). -/
def orderOk : SetOrder → Bool
  | .place ext kind tenant owner lenGran rights mask =>
    fits 2 ext && fits 1 kind && fits 2 tenant && fits 2 owner && fits 4 lenGran && fits 1 rights && fits 1 mask
  | .grant ext host rights => fits 2 ext && fits 2 host && fits 1 rights
  | .release ext host => fits 2 ext && fits 2 host
  | .withdraw ext force => fits 2 ext && fits 1 force
  | .assign host tenant assign => fits 2 host && fits 2 tenant && fits 1 assign
  | .domain d st tenant cause dgen slots =>
    fits 2 d && fits 1 st && fits 2 tenant && fits 1 cause && fits 2 dgen && slots.all fun e => fits 1 e.1 && fits 2 e.2
  | .bind ext domain => fits 2 ext && domain.all (fits 2)
  | .entry ext _ _ _ key region => fits 2 ext && fits 2 key && region.all (fits 2)
  | .tablesEnd => true

/-- The sealed part of an envelope or of an encrypted message: up to `n` bytes, and a tag of 16 (R399, R406). -/
def sealedOk (n : Nat) (cipher tag : List Byte) : Bool := decide (cipher.length ≤ n ∧ tag.length = 16)

/-- An error pattern names stored bytes of the 72 of a line (R317). -/
def errOk (e : Err) : Bool := e.all fun x => decide (x.1 < 72)

/-- Is a command well formed? -/
def wellFormed : Instr → Bool
  | .vinTurnOn _ => true
  | .vinTurnOff _ => true
  | .inputLowEntry _ => true
  | .inputHighEntry _ => true
  | .overvoltageCutoff _ => true
  | .restartAfterCutoff _ _ => true
  | .inputReversal _ => true
  | .modRstN _ => true
  | .svcRstN _ => true
  | .moduleResetRelease => true
  | .softStartDone => true
  | .railGroupEnable _ => true
  | .railEnableTimeout rail => decide (rail < 18)
  | .porRelease _ _ => true
  | .oscStartDelayEnd _ _ _ _ => true
  | .imageChoiceDone _ _ => true
  | .dieFirmwareDone die => decide (die < 2)
  | .configCheckDone die => decide (die < 2)
  | .cdBClaimWaitEnd => true
  | .loadStageDone => true
  | .stackCalDone stack _ => decide (stack < 12)
  | .wipeRangeDone => true
  | .efuseOpen rail _ _ => decide (rail < 18)
  | .senseLineOpen rail => decide (rail < 18)
  | .railOutOfRange rail _ => decide (rail < 18)
  | .cableFitted fab _ => decide (fab < 8)
  | .cableRemoved fab => decide (fab < 8)
  | .cableFault fab => decide (fab < 8)
  | .debugAccess _ => true
  | .thermalStepUndo part => decide (part < 17)
  | .tripInputOff => true
  | .thermalComparator sensor => decide (sensor < 24)
  | .powerAverageUpdate _ => true
  | .powerClockStep => true
  | .powerStepUndo => true
  | .crystalMissingEdge _ => true
  | .crystalFrequencyFlag _ count => fits 4 count
  | .crystalHoldEnd => true
  | .loopLockLoss die _ => decide (die < 5)
  | .monitorSample mon _ _ => decide (mon < 52)
  | .epochBoundary _ _ => true
  | .hubEpochBoundary hub _ => decide (hub < 2)
  | .tokenClaim od die => decide (od < 3) && decide (die < 2)
  | .tokenRenew od die => decide (od < 3) && decide (die < 2)
  | .tokenRelease od die => decide (od < 3) && decide (die < 2)
  | .tokenExpiry od => decide (od < 3)
  | .obeyingDieCommand od die _ => decide (od < 3) && decide (die < 2)
  | .tokenReply die od _ => decide (die < 2) && decide (od < 3)
  | .renewalSilence => true
  | .d2dCrcError link _ => decide (link < 16)
  | .d2dLinkFail link => decide (link < 16)
  | .flitTx port _ => decide (port < 66)
  | .dataFlitRx port f _ => rxOk port f
  | .idle port f => rxOk port f
  | .nak port f => rxOk port f
  | .creditSync port f => rxOk port f
  | .time port f arrival => rxOk port f && fits 8 arrival
  | .timeProbe port f t2 => rxOk port f && fits 8 t2
  | .timeEcho port f t4 => rxOk port f && fits 8 t4
  | .linkParam port f patternPort => rxOk port f && fits 1 patternPort
  | .laneSwap port f => rxOk port f
  | .malformedControlFlit port f => rxOk port f
  | .replayTimerExpiry port atNs => decide (port < 66) && decide (atNs < 4096)
  | .linkSilenceTimeout port => decide (port < 66)
  | .laneLockLoss port _ => decide (port < 66)
  | .laneFecFault port lane _ => decide (port < 66) && decide (lane < 5)
  | .trainingStart port _ => decide (port < 66)
  | .trainingDone port => decide (port < 66)
  | .trainingTimeout port => decide (port < 66)
  | .trainingRetry port => decide (port < 66)
  | .laneSwapDone port => decide (port < 66)
  | .ingressSlotRelease port cls => decide (port < 66) && decide (cls < 4)
  | .messageBind => true
  | .gateBurstStart port kind cls _ => decide (port < 66) && fits 2 kind && decide (cls < 4)
  | .routeDrained version => decide (version < 2)
  | .circuitActivate ckt => fits 2 ckt
  | .circuitRemove ckt => fits 2 ckt
  | .undefinedOpcode v cls opcode => viaOk v && fits 1 cls && fits 2 opcode
  | .rdNc h addr maskOrDomain err => hdrOk h && fits 8 addr && fits 8 maskOrDomain && errOk err
  | .rdShared h addr maskOrDomain => hdrOk h && fits 8 addr && fits 8 maskOrDomain
  | .rdOwn h addr maskOrDomain => hdrOk h && fits 8 addr && fits 8 maskOrDomain
  | .wrNc h addr _ _ err => hdrOk h && fits 8 addr && errOk err
  | .wbDirty h addr _ _ => hdrOk h && fits 8 addr
  | .evict h addr maskOrDomain => hdrOk h && fits 8 addr && fits 8 maskOrDomain
  | .atomic h addr maskOrDomain _ err => hdrOk h && fits 8 addr && fits 8 maskOrDomain && errOk err
  | .snpAck h => hdrOk h
  | .snpData h addr domain dgen _ _ => hdrOk h && fits 8 addr && fits 2 domain && fits 2 dgen
  | .grantAck h => hdrOk h
  | .homeLineReadDone _ err => errOk err
  | .hubWriteAccepted hub => decide (hub < 2)
  | .starvationEntryTimeout _ => true
  | .cohDeadlineExpiry _ => true
  | .cohDownReport h setGen domain dgen _ => hdrOk h && fits 4 setGen && fits 2 domain && fits 2 dgen
  | .cohDomainCreate c tenant => cmdOk c && fits 2 tenant
  | .cohMemberAdd c domain index host => cmdOk c && fits 2 domain && fits 4 index && fits 2 host
  | .cohMemberRemove c domain index => cmdOk c && fits 2 domain && fits 4 index
  | .cohExtBind c ext domain => cmdOk c && fits 2 ext && fits 2 domain
  | .cohExtUnbind c ext => cmdOk c && fits 2 ext
  | .cohDomainDown c domain => cmdOk c && fits 2 domain
  | .cohDomainReset c domain => cmdOk c && fits 2 domain
  | .cohDomainFree c domain => cmdOk c && fits 2 domain
  | .cohDomainQuery c domain => cmdOk c && fits 2 domain
  | .leaseRenew v => viaOk v
  | .extAlloc v kind rights lenGran _ => viaOk v && fits 1 kind && fits 1 rights && fits 4 lenGran
  | .extGrant v ext host rights _ => viaOk v && fits 2 ext && fits 2 host && fits 1 rights
  | .extRelease v ext host _ => viaOk v && fits 2 ext && fits 2 host
  | .extWithdraw v ext force _ => viaOk v && fits 2 ext && fits 1 force
  | .setInfo v => viaOk v
  | .hostAssign c host tenant assign => cmdOk c && fits 2 host && fits 2 tenant && fits 1 assign
  | .tenantSet c tenant quota => cmdOk c && fits 2 tenant && fits 4 quota
  | .extQuery c ext => cmdOk c && fits 2 ext
  | .leaseQuery c host => cmdOk c && fits 2 host
  | .setMaster c newMaster _ setGen => cmdOk c && fits 1 newMaster && fits 4 setGen
  | .leaseEnd host => fits 2 host
  | .graceEnd host => fits 2 host
  | .reclaimDone host => fits 2 host
  | .extentFree ext => fits 2 ext
  | .setDelta h setGen epoch recs => hdrOk h && fits 4 setGen && fits 8 epoch && recs.all recFits
  | .setAck h setGen epoch => hdrOk h && fits 4 setGen && fits 8 epoch
  | .setCmd h setGen order => hdrOk h && fits 4 setGen && orderOk order
  | .setDone h setGen code => hdrOk h && fits 4 setGen && fits 1 code
  | .setJoin h setGen size digest => hdrOk h && fits 4 setGen && fits 1 size && fits 48 digest
  | .setJoinAck h setGen index size code => hdrOk h && fits 4 setGen && fits 4 index && fits 1 size && fits 1 code
  | .setJoinSend => true
  | .setFormationEnd => true
  | .setMemberLoss index => fits 4 index
  | .setMasterLoss => true
  | .ringArm v a => viaOk v && ringOk a
  | .ringStop v ring mode => viaOk v && fits 2 ring && fits 1 mode
  | .faultResolve v fid gen action _ => viaOk v && fits 2 fid && fits 2 gen && fits 1 action
  | .ringQuery c ring => cmdOk c && fits 2 ring
  | .faultQuery c fid => cmdOk c && fits 2 fid
  | .invalidate c tenant scope src len s1Root => cmdOk c && fits 2 tenant && fits 1 scope && fits 8 src && fits 8 len && fits 8 s1Root
  | .walkDone ring index err => fits 2 ring && fits 4 index && errOk err
  | .engineDispatch engine => decide (engine < 8192)
  | .coachAck h => hdrOk h
  | .descriptorComplete ring index _ err => fits 2 ring && fits 4 index && errOk err
  | .faultRecordExpiry fid => fits 2 fid
  | .redOpen v a => viaOk v && redOk a
  | .redReset v buf seed _ => viaOk v && fits 2 buf && fits 8 seed
  | .redClose v buf => viaOk v && fits 2 buf
  | .redQuery v buf => viaOk v && fits 2 buf
  | .redWr h addr contrib _ _ _ => hdrOk h && fits 8 addr && fits 2 contrib
  | .redLineCombine jidx err => fits 4 jidx && errOk err
  | .laneGroupFault group => fits 1 group
  | .barrier v bar count lead _ => viaOk v && fits 2 bar && fits 4 count && fits 2 lead
  | .barrierTimeout bar => fits 2 bar
  | .launch v ring epoch _ => viaOk v && fits 2 ring && fits 8 epoch
  | .launchFire ring => fits 2 ring
  | .pairedCheck c on => cmdOk c && fits 1 on
  | .pairedEntryDone => true
  | .pairedMismatch _ => true
  | .pubCreate v sealed => viaOk v && fits 1 sealed
  | .publish v region expected srcExt _ => viaOk v && fits 2 region && fits 8 expected && fits 2 srcExt
  | .publishJudge => true
  | .pubMap v region => viaOk v && fits 2 region
  | .pubRelease v region version => viaOk v && fits 2 region && fits 8 version
  | .pubDelete v region => viaOk v && fits 2 region
  | .pubQuery v region => viaOk v && fits 2 region
  | .ceBucketLeak => true
  | .stackOvfHalve => true
  | .openSweepDone ppn => decide (ppn < 15728640)
  | .ladleOverwriteDone ppn => decide (ppn < 15728640)
  | .ladleScrubRead ppn _ err _ => decide (ppn < 15728640) && errOk err
  | .rdmRefresh stack _ _ => decide (stack < 12)
  | .calibrationSlot channel => decide (channel < 384)
  | .pageMoveCopyDone ppn => decide (ppn < 15728640)
  | .stackFail stack => decide (stack < 12)
  | .stackRemove c stack => cmdOk c && decide (stack < 256)
  | .stackReturn c stack => cmdOk c && decide (stack < 256)
  | .stackReset c stack => cmdOk c && decide (stack < 256)
  | .stackResetDone stack _ => decide (stack < 12)
  | .accessDump v ext first count dst => viaOk v && fits 2 ext && fits 4 first && fits 4 count && fits 8 dst
  | .sramCorrectable die _ _ => decide (die < 5)
  | .sramUncorrectable die _ index => decide (die < 5) && fits 8 index
  | .ceLogRead c => cmdOk c
  | .cutAck epoch => fits 8 epoch
  | .cutLagTimeout => true
  | .tenderReady => true
  | .resyncStart => true
  | .commitListRead hub _ => decide (hub < 2)
  | .tenderLinkRetrain _ => true
  | .failNotice _ => true
  | .activeSelfFault => true
  | .silentDetect => true
  | .tokenExpiryIndication => true
  | .claimTimeout => true
  | .twinSwitch c => cmdOk c
  | .handover => true
  | .dieReset c die => cmdOk c && fits 1 die
  | .dieReady die _ => decide (die < 2)
  | .portReset c port => cmdOk c && fits 1 port
  | .portResetIdleEnd port => decide (port < 66)
  | .moduleReset c => cmdOk c
  | .bootStatus c => cmdOk c
  | .imageWrite c flash final offset len data => decide (data.length ≤ 65536) && cmdOk c && fits 1 flash && fits 1 final && fits 4 offset && fits 4 len
  | .lcAdvance c target => cmdOk c && fits 1 target
  | .provision c _ => cmdOk c
  | .secMinRaise c value => cmdOk c && fits 1 value
  | .debugOpen c _ => cmdOk c
  | .cfgWrite c fieldId value => cmdOk c && fits 4 fieldId && fits 8 value
  | .cfgRead c fieldId => cmdOk c && fits 4 fieldId
  | .statusRead c word count index => cmdOk c && fits 1 word && fits 4 count && fits 4 index
  | .timeRelock c => cmdOk c
  | .timeSourceIneligible port => decide (port < 66)
  | .holdoverExpiry => true
  | .evAck c seq => cmdOk c && fits 4 seq
  | .rslEcho c echo => cmdOk c && fits 8 echo
  | .routeLoad c version first _ => cmdOk c && fits 1 version && fits 4 first
  | .routeCommit c version => cmdOk c && fits 1 version
  | .policerSet c host cls enable cir pir cbs pbs => cmdOk c && fits 2 host && fits 1 cls && fits 1 enable && fits 4 cir && fits 4 pir && fits 4 cbs && fits 4 pbs
  | .cktSetup c host port direction startEpoch _ => cmdOk c && fits 2 host && decide (port < 66) && fits 1 direction && fits 8 startEpoch
  | .cktTeardown c ckt endEpoch => cmdOk c && fits 2 ckt && fits 8 endEpoch
  | .ctrRead v group count index dst => viaOk v && fits 1 group && fits 4 count && fits 4 index && fits 8 dst
  | .objQuery v obj index dst => viaOk v && fits 1 obj && fits 4 index && fits 8 dst
  | .rslFrameInvalid port frameLen => decide (port < 2) && fits 4 frameLen
  | .rslCommandRepeat port tag cmd => decide (port < 2) && fits 4 tag && fits 2 cmd
  | .evBucketRefill => true
  | .attest v nonce dst scope _ => viaOk v && fits 32 nonce && fits 8 dst && fits 1 scope
  | .attestSign => true
  | .certGet v dst _ => viaOk v && fits 8 dst
  | .sessOpen v helloAddr outAddr _ => viaOk v && fits 8 helloAddr && fits 8 outAddr
  | .sessProve v sid evidAddr evidLen _ => viaOk v && fits 4 sid && fits 8 evidAddr && fits 4 evidLen
  | .sessClose v sid => viaOk v && fits 4 sid
  | .sessionPendingTimeout sid => fits 4 sid
  | .encryptedMessageRx h opcode sid resv seq cipher tag =>
    hdrOk h && fits 1 opcode && fits 4 sid && fits 4 resv && fits 8 seq && sealedOk 240 cipher tag
  | .sealImport v dstExt stageExt stageOffset _ => viaOk v && fits 2 dstExt && fits 2 stageExt && fits 8 stageOffset
  | .sealImportDone slot => fits 2 slot
  | .sealQuery v slot dst _ => viaOk v && fits 2 slot && fits 8 dst
  | .keystoreChangeAck => true
  | .chOpen c host hello => cmdOk c && fits 2 host && decide (hello.length = 160)
  | .chCmd c sid resv seq cipher tag _ => cmdOk c && fits 4 sid && fits 4 resv && fits 8 seq && sealedOk 65504 cipher tag
  | .moduleResetBegin => true
  | .inputReversalEnd => true

end Sys2Proof
end

