-- ==== Sys2Proof/Safety.lean ====
section
/-! DEFINITION. The terms that claims use: what a command does, what it leaves alone, when a request or a service-link
command is carried out at all, and the invariants of a state. -/

set_option Elab.async false

namespace Sys2Proof.Machine
open Sys2Proof

/-! ## What a command does, and what it leaves alone -/

/-- The command completes from `s`, in a state of which `p` holds. -/
def Does (i : Instr) (s : State) (p : State → Prop) : Prop := ∃ t, exec i s = .next t ∧ p t

/-- The parts of the state, by chapter. -/
inductive Area where
  | pending | power | clk | boot | cfg | tok | ports | fab | pool | coh | coach | stock | repro | mem | twin | sec | rsl
  | evs | ctrs | fresh
  deriving DecidableEq, Repr

/-- The two states agree in this part. -/
def SameAt (s t : State) : Area → Prop
  | .pending => t.pending = s.pending
  | .power => t.power = s.power
  | .clk => t.clk = s.clk
  | .boot => t.boot = s.boot
  | .cfg => t.cfg = s.cfg
  | .tok => t.tok = s.tok
  | .ports => t.ports = s.ports
  | .fab => t.fab = s.fab
  | .pool => t.pool = s.pool
  | .coh => t.coh = s.coh
  | .coach => t.coach = s.coach
  | .stock => t.stock = s.stock
  | .repro => t.repro = s.repro
  | .mem => t.mem = s.mem
  | .twin => t.twin = s.twin
  | .sec => t.sec = s.sec
  | .rsl => t.rsl = s.rsl
  | .evs => t.evs = s.evs
  | .ctrs => t.ctrs = s.ctrs
  | .fresh => t.fresh = s.fresh

/-- Every part but those of `ps` is unchanged. -/
def KeepsBut (ps : List Area) (s t : State) : Prop := ∀ p, p ∉ ps → SameAt s t p

/-- Every port but `n` is unchanged, and every part but the ports and `ps`. -/
def KeepsPorts (n : Nat) (ps : List Area) (s t : State) : Prop :=
  KeepsBut (.ports :: ps) s t ∧ ∀ m, m ≠ n → t.port m = s.port m

/-- An event is raised from `s`: held until EV_START has been sent, queued under R424 and R425 after it (R423). -/
def Raised (s t : State) (code sev die : Nat) (detail : List Byte) : Prop :=
  if s.evs.started then t.evs = (s.queueEv ⟨0, code, sev, die, 0, s.epoch, detail⟩).evs
  else t.evs = { s.evs with held := s.evs.held ++ [⟨0, code, sev, die, 0, s.epoch, detail⟩] }

/-- From `r` to `t` the counter `c` of object `o` of group `g` counts `n` more, and no other counter moves. -/
def Counted (r t : State) (g o c n : Nat) : Prop := t.ctrs = (r.bump g o c n).ctrs

/-! ## Memory (R22, R23, R317) -/

/-- The canonical form of the stored bytes: addresses strictly rising, no zero byte listed. -/
def Memory.wf (mem : List Host.Cell) : Bool := Tab.wf 0 mem

/-- The byte at physical address `a`. -/
def State.byteAt (s : State) (a : Nat) : Byte := readByte s.mem.cells a

/-- Every stored byte is unchanged. -/
def SameBytes (s t : State) : Prop := ∀ a, t.byteAt a = s.byteAt a

/-- Every stored byte outside `lo` .. `lo + n - 1` is unchanged. -/
def BytesKept (lo n : Nat) (s t : State) : Prop := ∀ a, a < lo ∨ lo + n ≤ a → t.byteAt a = s.byteAt a

/-! ## Losing the volatile state -/

/-- All volatile state is as State.reset has it: what is left of `s` are the fuses, the flash devices, the identity
pins, the commands that wait, and nothing else but the input stage's own part (R4, R51, R95). -/
def Wiped (s t : State) : Prop :=
  KeepsBut [.pending, .power, .boot, .sec, .fresh] State.reset t ∧ t.pending = s.pending ∧ t.fresh = s.fresh ∧
    (∃ cause, t.boot = { Boot.reset with
      oscDly := s.boot.oscDly, setIndex := s.boot.setIndex, lc := s.boot.lc, cause := cause,
      flashA := s.boot.flashA, flashB := s.boot.flashB }) ∧
    t.sec = { Sec.reset with
      signerDigest := s.sec.signerDigest, signerKey := s.sec.signerKey, pairKey := s.sec.pairKey,
      idSeed := s.sec.idSeed, sealSecret := s.sec.sealSecret, identity := s.sec.identity, sealDead := s.sec.sealDead
      minSec := s.sec.minSec, dbgLock := s.sec.dbgLock, dbgReopen := s.sec.dbgReopen }

/-- Rail `r` has lost its eFuse: it is off, MOD_PG with it, and every other rail is as it was. What the loss does to the
part that the rail feeds is said elsewhere; a rail that feeds no hub and no stack moves no stored byte, and changes
neither the home agent nor the coaches (R54, R55). -/
def RailGone (r : Nat) (s t : State) : Prop :=
  (t.rail r).st = .fuseOpen ∧ t.power.modPg = false ∧ (∀ q, q ≠ r → t.rail q = s.rail q) ∧ SameAt s t .pending ∧
    SameAt s t .cfg ∧ ((r ≤ 5 ∨ (10 ≤ r ∧ r ≤ 13)) → SameAt s t .coh ∧ SameAt s t .coach ∧ SameBytes s t)

/-! ## Flits (R127 to R131) -/

/-- A control flit of type `typ` that passed its checks, on a port that carries such flits. -/
def CtlGood (n : Nat) (f : RawFlit) (typ : Nat) : Prop :=
  rawBad f = false ∧ rawFormed f = true ∧ (rawWord f).kind = 1 ∧ (rawWord f).typ = typ ∧ rslForbids n typ = false ∧
    (typ = typLaneSwap → rawSwapFormed f = true)

/-- The state once the acknowledgement and the credit return of a good flit have been applied. -/
def headerTaken (s : State) (n : Nat) (f : RawFlit) : State := (s.bumpPort n 3 f.fecBad).goodFlit n (rawWord f).hdr

/-- The replay store once the flit `seq` has been transmitted at local time `t`. -/
def stampedAt (store : List Stored) (seq t : Nat) : List Stored :=
  store.map fun x => if x.seq = seq then { x with sentAt := t } else x

/-! ## Commands of the service link (R33, R105, R306, R412, R414, R415) -/

/-- The link's gate takes the command: the module is out of power-on reset, the command need not wait, the tag is new, the
table of open commands has room, a die holds the token, no paired-check entry runs, the recovery form serves the command,
and no reserved byte is set. -/
def RslServed (s : State) (c : RslCmd) (cmd : Nat) : Prop :=
  s.boot.por = true ∧ s.tokenHeld = true ∧ s.rslWaits cmd = false ∧ s.tagFound c.tag cmd = .new ∧
    s.openCommands < 1024 ∧ s.pairedEntry = none ∧ (s.boot.recovery = true → recoveryCmd cmd = true) ∧ c.resv = 0

/-- The state in which a command that the gate takes is carried out: counted, and open (R414, R427). -/
def afterOpen (s : State) (c : RslCmd) (cmd : Nat) : State := (s.bump 10 0 25 1).rslOpen c.tag c.port cmd

/-- From `r` to `t` one completion frame is made for command `c`. -/
def RslAnswered (r t : State) (c : RslCmd) (cmd code value : Nat) (data : List Byte) : Prop :=
  ∃ p, t.rsl.out = r.rsl.out ++ [⟨cmd, c.tag, code, value, data, p⟩]

/-- What the completion of a service-link command may change beside what the command does: of a command that changes
state, the state copy holds it first (R357, R414). -/
def cplParts (cmd : Nat) : List Area := if rslReadOnly cmd then [.rsl, .ctrs] else [.rsl, .ctrs, .twin]

/-- A service-link command that the gate takes runs: it is answered OK with this value and data, and changes nothing but
`ps` and what its own completion changes. -/
def RslRuns (i : Instr) (s : State) (c : RslCmd) (cmd value : Nat) (data : List Byte) (ps : List Area)
    (p : State → Prop) : Prop :=
  Does i s fun t => RslAnswered (afterOpen s c cmd) t c cmd cOk value data ∧ p t ∧
    KeepsBut (cplParts cmd ++ ps) (afterOpen s c cmd) t

/-! ## Requests of the fabric (R37, R155, R161, R366, R438) -/

/-- The state once a request is in the journal. -/
def journalled (s : State) (h : ReqHdr) : State := if (s.journaled h.jidx).isSome then s else s.journalIn h false

/-- The state once a request is in the journal and forwarded to the active die. -/
def arrived (s : State) (h : ReqHdr) : State := (journalled s h).forward h.jidx

/-- The request is the module's, its sender is admitted, the journal has room, the active die serves, no earlier request
is still to be forwarded, its tag has checked in the session that it names, if any, and it is no replay whose effect is
under way; the pool has not failed. -/
def ReqServed (s : State) (h : ReqHdr) : Prop :=
  h.flags.getLsbD 2 = decide (h.sess ≠ 0) ∧
    ((s.journaled h.jidx).isSome = true ∨
      (h.dst = s.fabricId ∧ s.srcAdmitted h.src = true ∧ s.twin.reqs.length < 262144)) ∧
    (journalled s h).serving = true ∧ (journalled s h).mustWait h.jidx = false ∧
    (h.sess = 0 ∨ (arrived s h).isOpened h = true) ∧ (arrived s h).rejoins h.jidx = false ∧
    (arrived s h).tok.fatal = none

/-- The state once the colander has passed a request of policing class `cls`. -/
def admitted (s : State) (h : ReqHdr) (cls : Nat) : State := ((arrived s h).police h cls).1

/-- The request reaches stage 3 well formed: served, not red, and of a form its opcode has (R438). -/
def Admitted (s : State) (h : ReqHdr) (cls : Nat) (lens : List Nat) (mask : BitVec 32) : Prop :=
  ReqServed s h ∧ ((arrived s h).police h cls).2 = false ∧ formOk h lens mask = true

/-! ## Commands of policing class 3 (R160, R406, R416) -/

/-- The state in which a class-3 command meets its handling table. -/
def reached (v : Via) (cmd : Nat) (s : State) : State :=
  match v with
  | .fabric h => admitted s h 3
  | .rsl c => afterOpen s c cmd
  | .ch _ _ => s

/-- A class-3 command meets its handling table: over the fabric, the service link, or inside an envelope. -/
def Reaches (v : Via) (cmd : Nat) (lens : List Nat) (mask : BitVec 32) (s : State) : Prop :=
  match v with
  | .fabric h => Admitted s h 3 lens mask ∧ (arrived s h).replayed h = none ∧ (s.copyFull = true → rslReadOnly cmd = true)
  | .rsl c => RslServed s c cmd ∧ s.tok.fatal = none ∧ (cmd = 0x41 ∨ c.tenant = 0)
  | .ch _ _ => True

/-- From `r` to `t` the command's completion is made: a response on the fabric, a completion frame on the service link,
or a frame with the answer sealed in an envelope of the channel's session, RIGHTS where it has ended meanwhile. -/
def Completes (r t : State) (v : Via) (cmd rsp code value : Nat) (body extra : List Byte) : Prop :=
  match v with
  | .fabric h => ∃ m, t.fab.unbound = r.fab.unbound ++ [m] ∧ m = answerOf h rsp clsRsp 0 body
  | .rsl c => RslAnswered r t c cmd code value (body ++ extra)
  | .ch c sid =>
    match r.session sid with
    | some x => RslAnswered r t c 0x171 cOk 0 (envelope x (body ++ extra))
    | none => RslAnswered r t c 0x171 cRights 0 []

/-- The parts that the completion of a class-3 command may change beside what the command does. -/
def answerParts : List Area := [.fab, .twin, .sec, .rsl, .ctrs]

/-- The pool's own commands are served here: no degraded set, and this member is the master (R181, R205). -/
def Mastered (s : State) : Prop := s.pool.degraded = false ∧ s.isMaster = true

/-! ## Pool-set messages (R199, R206) -/

/-- A pool-set message of the current SET_GEN, from member `i`, to an attended module. -/
def SetMsgGood (s : State) (h : ReqHdr) (gen i : Nat) : Prop :=
  h.dst = s.fabricId ∧ s.memberOf h.src = some i ∧ gen = s.pool.setGen ∧ s.attended = true

/-- A request among them is taken up: the journal has room, no handover and no entry into paired-check mode runs, and no
earlier request is still to be forwarded (R33, R366). -/
def SetReqServed (s : State) (h : ReqHdr) (gen i : Nat) : Prop :=
  SetMsgGood s h gen i ∧ ((s.journaled h.jidx).isSome = true ∨ s.twin.reqs.length < 262144) ∧ s.handingOver = false ∧
    s.pairedEntry = none ∧ (journalled s h).mustWait h.jidx = false

/-! ## Loads, stores, atomics and the coherence messages (R37, R180, R213, R216, R229, R404) -/

/-- From `r` to `t` one message is handed to the port die: this opcode, OP_DATA and body, to the sender of `h` under its
TAG. -/
def Replies (r t : State) (h : ReqHdr) (opcode opData : Nat) (body : List Byte) : Prop :=
  ∃ m, t.fab.unbound = r.fab.unbound ++ [m] ∧ m.dst = h.src ∧ m.tag = h.tag ∧ m.opcode = opcode ∧ m.opData = opData ∧
    m.body = body

/-- A load, store or atomic meets the access check: admitted well formed, not a replay of one already carried out, the
module not decommissioned. -/
def HomeReached (s : State) (h : ReqHdr) (cls : Nat) (lens : List Nat) (mask : BitVec 32) : Prop :=
  Admitted s h cls lens mask ∧ (arrived s h).recorded h = none ∧ s.decommissioned = false

/-- A WB_DIRTY or EVICT meets its checks: it is never policed (R216). -/
def AnswerReached (s : State) (h : ReqHdr) (lens : List Nat) : Prop :=
  ReqServed s h ∧ formOk h lens 0 = true

/-- The checks of R216 pass: the line lies here, on a stack that works, in an extent `e` bound to the UP domain `d`, of
which the sender is a member. -/
def AnswerPasses (r : State) (h : ReqHdr) (addr e d : Nat) : Prop :=
  addr < 2 ^ 57 ∧ addrExt addr = e ∧ (r.ext e).domain = some d ∧ addrOff addr / 2 ^ 21 < (r.ext e).lenGran ∧
    granMember (r.ext e) e (addrOff addr / 2 ^ 21) = some r.setIndex ∧
    r.pool.lostHere = false ∧
    r.stackDown (stackOf (r.phys (lineOfOff (r.ext e) (addrOff addr) / 1024))) = false ∧
    ((r.domain d).slotOf h.src).isSome = true ∧ (r.domain d).st = .up

/-- The state once a SNP_ACK, SNP_DATA or GRANT_ACK is in the journal. -/
def answerKept (s : State) (h : ReqHdr) : State := if (s.journaled h.jidx).isSome then s else s.journalIn h true

/-- The state in which the active die meets it. -/
def answerIn (s : State) (h : ReqHdr) : State := (answerKept s h).forward h.jidx

/-- An answer to a snoop or a grant reaches the active die. -/
def AnswerServed (s : State) (h : ReqHdr) : Prop :=
  h.flags.getLsbD 2 = decide (h.sess ≠ 0) ∧
    ((s.journaled h.jidx).isSome = true ∨ (h.dst = s.fabricId ∧ s.srcAdmitted h.src = true)) ∧
    (answerKept s h).attended = true ∧ (answerKept s h).mustWait h.jidx = false

/-- From `r` to `t` the tracker `x` is opened, and nothing else of the home agent moves. -/
def Opens (r t : State) (x : Tracker) : Prop :=
  t.coh = { r.coh with
    trackers := r.coh.trackers ++ [{ x with id := r.coh.nextTracker }], nextTracker := r.coh.nextTracker + 1 }

/-- A new transaction on `line` finds the line free, no starvation entry on it, and a common tracker. -/
def LineFree (r : State) (line : Nat) : Prop :=
  r.lineBusy line = false ∧ r.starveEntry line = none ∧ r.reserveUsed 0 < 15872

/-- What an error-free read of a line gives: zeros where nothing was written since the page's last wipe (R321). -/
def State.lineReads (s : State) (ppn line : Nat) : Line :=
  if s.readsClosed ppn line = true ∨ (s.lineMeta ppn line).valid = false then 0 else storedLine s.mem.cells ppn line

/-- Every line outside page `ppn`'s line `line`, and outside the line's copy where the page is moving, reads as before. -/
def LinesKept (ppn line : Nat) (s t : State) : Prop :=
  ∀ p l, l < 1024 → (p ≠ ppn ∨ l ≠ line) →
    (∀ mv, Tab.get none s.mem.moving ppn = some mv → p ≠ mv.target ∨ l ≠ line) → t.lineReads p l = s.lineReads p l

/-! ## Sessions and envelopes (R395, R400, R401, R406) -/

/-- The command comes by itself, not inside an envelope. -/
def direct : Via → Bool
  | .ch _ _ => false
  | _ => true

/-- The state once the unbound answers to an ended session's requests have lost their data (R401). -/
def State.withoutAnswers (s : State) (sid : Nat) : State :=
  { s with fab := { s.fab with unbound := s.fab.unbound.map fun m =>
      if m.sess = sid ∧ sid ≠ 0 then endedAnswer m else m } }

/-- Does the session stand for its host on the fabric? -/
def standsFor (host : Nat) (x : Session) : Bool := decide (x.host = host ∧ x.st = .established ∧ x.ch = false)

/-- The confidential channel that an envelope names. -/
def State.chSession (s : State) (sid : Nat) : Option Session :=
  s.sec.sessions.find? fun x => decide (x.id = sid ∧ x.ch = true)

/-- The command that an envelope's inner request stands for; CH_RW exists inside envelopes only. -/
def innerCommand (v : Via) : ChInner → Option Instr
  | .rw _ _ _ _ => none
  | .leaseRenew => some (.leaseRenew v)
  | .extAlloc kind rights len resv => some (.extAlloc v kind rights len resv)
  | .extGrant ext host rights resv => some (.extGrant v ext host rights resv)
  | .extRelease ext host resv => some (.extRelease v ext host resv)
  | .extWithdraw ext force resv => some (.extWithdraw v ext force resv)
  | .setInfo => some (.setInfo v)
  | .ringArm a => some (.ringArm v a)
  | .ringStop ring mode => some (.ringStop v ring mode)
  | .faultResolve fid gen action resv => some (.faultResolve v fid gen action resv)
  | .redOpen a => some (.redOpen v a)
  | .redReset buf seed resv => some (.redReset v buf seed resv)
  | .redClose buf => some (.redClose v buf)
  | .redQuery buf => some (.redQuery v buf)
  | .barrier bar count lead resv => some (.barrier v bar count lead resv)
  | .launch ring epoch resv => some (.launch v ring epoch resv)
  | .pubCreate sealed => some (.pubCreate v sealed)
  | .publish region expected srcExt resv => some (.publish v region expected srcExt resv)
  | .pubMap region => some (.pubMap v region)
  | .pubRelease region version => some (.pubRelease v region version)
  | .pubDelete region => some (.pubDelete v region)
  | .pubQuery region => some (.pubQuery v region)
  | .accessDump ext first count dst => some (.accessDump v ext first count dst)
  | .attest nonce dst scope resv => some (.attest v nonce dst scope resv)
  | .certGet dst resv => some (.certGet v dst resv)
  | .sealQuery slot dst resv => some (.sealQuery v slot dst resv)
  | .sessOpen helloAddr outAddr resv => some (.sessOpen v helloAddr outAddr resv)
  | .sessProve sid evidAddr evidLen resv => some (.sessProve v sid evidAddr evidLen resv)
  | .sessClose sid => some (.sessClose v sid)
  | .sealImport dstExt stageExt stageOffset resv => some (.sealImport v dstExt stageExt stageOffset resv)
  | .ctrRead group count index dst => some (.ctrRead v group count index dst)
  | .objQuery obj index dst => some (.objQuery v obj index dst)
  | .undefined _ => none

/-! ## Invariants -/

/-- The one-way fuses of a state (R116, R381): life-cycle state, minimum SEC_VERSION, SEAL_DEAD, DBG_LOCK, DBG_REOPEN and
the fused identity have not gone back. -/
def FusesKept (s t : State) : Prop :=
  s.boot.lc ≤ t.boot.lc ∧ s.sec.minSec ≤ t.sec.minSec ∧ (s.sec.sealDead = true → t.sec.sealDead = true) ∧
    (s.sec.dbgLock = true → t.sec.dbgLock = true) ∧ (s.sec.dbgReopen = true → t.sec.dbgReopen = true) ∧
    (s.sec.identity = true → t.sec.identity = true)

/-- The life cycle is one the spec defines: one of four states, a transition under way leads to DEPLOYED or
DECOMMISSIONED and forward, the minimum is one that 64 fuses can show, and a decommissioned module has no sealing
secret (R116, R117, R381, R382). -/
def LifeLegal (s : State) : Prop :=
  s.boot.lc ≤ 3 ∧ (∀ t, s.boot.lcTarget = some t → (t = 2 ∨ t = 3) ∧ s.boot.lc < t) ∧ s.sec.minSec ≤ 64 ∧
    (s.boot.lc = 3 → s.sec.sealDead = true)

end Sys2Proof.Machine
end

