-- ==== Sys2Proof/Certificates/Slice0/Obligations.lean ====
section
/-! DEFINITION. The statements about the module, chapter by chapter. Each says which rules it follows; where it rests on
a choice of the model, it names the log entry. -/

set_option Elab.async false

open Sys2Proof Sys2Proof.Machine

/-- R50, R51, R52, R68: the input stage. Rests on the model's choices of log 3, 34 and 148. -/
def Obligations.InputStageFollowsItsVoltage : Prop :=
  (∀ mv s, s.power.inputOn = false → s.power.cutOff = false → s.power.reversed = false → s.power.tripOff = false →
    46500 ≤ mv → mv < 70000 →
    Does (.vinTurnOn mv) s fun t =>
      t.power = { s.power with inputOn := true, softStart := true, rails := softRails, range := rangeOf mv } ∧
      t.boot = { s.boot with cause := 1 } ∧ KeepsBut [.power, .boot] s t) ∧
  (∀ us s,
    (us < 100 → Does (.vinTurnOff us) s fun t => t = s) ∧
    (100 ≤ us → s.power.inputOn = true →
      Does (.vinTurnOff us) s fun t => t.power.inputOn = false ∧ t.power.rails = [] ∧ Wiped s t) ∧
    (100 ≤ us → s.power.inputOn = false → Does (.vinTurnOff us) s fun t =>
      t.power = { s.power with tripOff := false, cutOff := false, inFaultLow := s.power.reversed } ∧
      KeepsBut [.power] s t)) ∧
  (∀ mv s, s.power.inputOn = true → 44000 ≤ mv → mv < 48000 →
    Does (.inputLowEntry mv) s fun t =>
      t.power = { s.power with range := .low } ∧ Raised s t 0x0101 sevNotice s.actDie (leBytes 4 mv) ∧
      KeepsBut [.power, .evs, .ctrs] s t) ∧
  (∀ mv s, s.power.inputOn = true → 66000 < mv → mv < 70000 →
    Does (.inputHighEntry mv) s fun t =>
      t.power = { s.power with range := .high } ∧ Raised s t 0x0102 sevNotice s.actDie (leBytes 4 mv) ∧
      KeepsBut [.power, .evs, .ctrs] s t) ∧
  (∀ mv s, 70000 ≤ mv → Does (.overvoltageCutoff mv) s fun t =>
      t.power.inputOn = false ∧ t.power.cutOff = true ∧ t.power.inFaultLow = true ∧ Wiped s t) ∧
  (∀ ms mv s, s.power.cutOff = true → 100 ≤ ms → mv < 66000 →
    (s.power.reversed = true → Does (.restartAfterCutoff ms mv) s fun t => t = s) ∧
    (s.power.reversed = false → 44000 ≤ mv → s.power.tripOff = false → Does (.restartAfterCutoff ms mv) s fun t =>
      t.power = { s.power with
        cutOff := false, inFaultLow := false, inputOn := true, softStart := true, rails := softRails
        range := rangeOf mv } ∧
      t.boot = { s.boot with cause := 2 } ∧ KeepsBut [.power, .boot] s t) ∧
    (s.power.reversed = false → mv < 44000 ∨ s.power.tripOff = true → Does (.restartAfterCutoff ms mv) s fun t =>
      t.power = { s.power with cutOff := false, inFaultLow := false } ∧ KeepsBut [.power] s t)) ∧
  (∀ mv s, 10000 < mv → Does (.inputReversal mv) s fun t =>
      t.power.reversed = true ∧ t.power.inFaultLow = true ∧ t.power.tripOff = false ∧
      (if s.power.inputOn then t.power.inputOn = false ∧ Wiped s t else KeepsBut [.power] s t)) ∧
  (∀ s, s.power.reversed = true → Does .inputReversalEnd s fun t =>
      t.power = { s.power with reversed := false, inFaultLow := s.power.cutOff } ∧ KeepsBut [.power] s t)

/-- R47, R68, R95, R117, R419: the module resets, by an input, by command and by what a command leaves behind. Rests
on the model's choices of log 18, 19 and 20. -/
def Obligations.ModuleResetWipesAllButTheFuses : Prop :=
  (∀ ns s, s.power.inputOn = true → s.power.tripOff = false →
    (10000 ≤ ns → Does (.modRstN ns) s fun t =>
      t.power.inReset = true ∧ t.power.modRstLow = true ∧ t.power.svcRstLow = s.power.svcRstLow ∧
      t.power.rails = (if s.power.softStart then softRails else resetRails) ∧
      t.power.cables = feedCables (!s.power.softStart) s.power.cables ∧ t.boot.cause = 3 ∧ Wiped s t) ∧
    (ns < 1000 → Does (.modRstN ns) s fun t => t = s)) ∧
  (∀ ns s, s.power.inputOn = true → s.power.tripOff = false →
    (10000 ≤ ns → Does (.svcRstN ns) s fun t =>
      t.power.inReset = true ∧ t.power.svcRstLow = true ∧ t.power.modRstLow = s.power.modRstLow ∧
      t.power.rails = (if s.power.softStart then softRails else resetRails) ∧
      t.power.cables = feedCables (!s.power.softStart) s.power.cables ∧ t.boot.cause = 4 ∧ Wiped s t) ∧
    (ns < 1000 → Does (.svcRstN ns) s fun t => t = s)) ∧
  (∀ ns s, s.power.tripOff = true → 10000 ≤ ns →
    (Does (.modRstN ns) s fun t => t.power.inputOn = true ∧ t.power.softStart = true ∧ t.power.tripOff = false ∧
      t.power.rails = softRails ∧ t.boot.cause = 3 ∧ Wiped s t) ∧
    (Does (.svcRstN ns) s fun t => t.power.inputOn = true ∧ t.power.softStart = true ∧ t.power.tripOff = false ∧
      t.power.rails = softRails ∧ t.boot.cause = 4 ∧ Wiped s t)) ∧
  (∀ s, s.power.inReset = true → Does .moduleResetRelease s fun t =>
      t.power = { s.power with inReset := false, modRstLow := false, svcRstLow := false, railGroup := 0 } ∧
      KeepsBut [.power] s t) ∧
  (∀ c s, RslServed s c 0x100 → RslRuns (.moduleReset c) s c 0x100 0 [] [.boot] fun t =>
      t.boot = { s.boot with resetAt := some (s.epoch + 1), resetCause := 5 }) ∧
  (∀ e s, s.boot.resetAt = some e → e ≤ s.epoch → Does .moduleResetBegin s fun t =>
      t.power.inReset = (s.power.modRstLow || s.power.svcRstLow) ∧
      t.power.rails = (if s.power.softStart then softRails else resetRails) ∧
      t.boot.cause = s.boot.resetCause ∧ t.boot.resetAt = none ∧ Wiped s t)

/-- R53, R54, R56, R57, R96, R98: the rails come up by groups, and are lost when an eFuse opens. Rests on the model's
choices of log 33, 149 and 150. -/
def Obligations.RailsComeUpByGroupsAndFailByFuse : Prop :=
  (∀ s, s.power.softStart = true → Does .softStartDone s fun t =>
      t.power = { s.power with
        softStart := false, rails := resetRails, railGroup := 0, cables := feedCables true s.power.cables } ∧
      KeepsBut [.power] s t) ∧
  (∀ w s, s.power.inputOn = true → s.power.softStart = false → s.power.inReset = false → s.power.modPg = false →
    s.boot.por = false → (s.rail 0).st = .inWindow → (s.rail 1).st = .inWindow →
    Does (.railGroupEnable w) s fun t =>
      (∀ r, r < 18 →
        let on := if r ∈ railGroups.getD s.power.railGroup [] ∧ (s.rail r).st = .off then .enabled else (s.rail r).st
        t.rail r = { s.rail r with st := if on = .enabled ∧ w.getLsbD r then .inWindow else on }) ∧
      t.power = { s.power with
        rails := t.power.rails, railGroup := min 4 (s.power.railGroup + 1), modPg := t.allRailsIn } ∧
      KeepsBut [.power] s t) ∧
  (∀ r s, 2 ≤ r → (s.rail r).st = .enabled → Does (.railEnableTimeout r) s (RailGone r s)) ∧
  (∀ r s, r ≤ 1 → (s.rail r).st = .enabled → Does (.railEnableTimeout r) s fun t =>
      t.power.rails = [(r, ⟨.fuseOpen, false⟩)] ∧ t.power.modPg = false ∧ Wiped s t) ∧
  (∀ r a mv s, 2 ≤ r → r ≤ 17 → s.power.inputOn = true → (s.rail r).st ≠ .fuseOpen →
    (13 * railMaxA r < a ∨ ((s.rail r).st ≠ .off ∧ s.power.softStart = false ∧ 2 * mv < railNominal r)) →
    Does (.efuseOpen r a mv) s (RailGone r s)) ∧
  (∀ r a mv s, r ≤ 1 → s.power.inputOn = true → (s.rail r).st ≠ .fuseOpen →
    (13 * railMaxA r < a ∨ ((s.rail r).st ≠ .off ∧ s.power.softStart = false ∧ 2 * mv < railNominal r)) →
    Does (.efuseOpen r a mv) s fun t =>
      t.power.rails = [(r, ⟨.fuseOpen, false⟩)] ∧ t.power.modPg = false ∧ Wiped s t) ∧
  (∀ r s, railSensed r = true → ((s.rail r).st = .enabled ∨ (s.rail r).st = .inWindow) →
    (s.rail r).senseOpen = false → Does (.senseLineOpen r) s fun t =>
      t.rail r = { s.rail r with senseOpen := true } ∧ (∀ q, q ≠ r → t.rail q = s.rail q) ∧
      t.mon (24 + r) = { s.mon (24 + r) with fault := true } ∧ (∀ q, q ≠ 24 + r → t.mon q = s.mon q) ∧
      t.power = { s.power with rails := t.power.rails, monitors := t.power.monitors } ∧
      Raised s t 0x0104 sevWarning s.actDie (leBytes 1 r) ∧ KeepsBut [.power, .evs, .ctrs] s t) ∧
  (∀ r mv s, r ≤ 17 → (s.rail r).st = .inWindow → railOff r mv 5 = true → railOff r mv 10 = false →
    Does (.railOutOfRange r mv) s fun t =>
      t.power = { s.power with modPg := false, monitors := t.power.monitors } ∧
      t.mon (24 + r) = { s.mon (24 + r) with valid := true, isOver := true, value := BitVec.ofNat 16 mv } ∧
      (∀ q, q ≠ 24 + r → t.mon q = s.mon q) ∧
      Raised s t 0x0105 sevWarning s.actDie (leBytes 1 r ++ leBytes 4 (monWord (t.mon (24 + r)))) ∧
      KeepsBut [.power, .evs, .ctrs] s t) ∧
  (∀ r mv s, 2 ≤ r → r ≤ 17 → (s.rail r).st = .inWindow → railOff r mv 5 = true → railOff r mv 10 = true →
    Does (.railOutOfRange r mv) s fun t => (t.rail r).st = .fuseOpen ∧ t.power.modPg = false)

/-- R43, R44, R48, R58, R147: cables and the debug port. Rests on the model's choices of log 23 and 37. -/
def Obligations.CablesAndDebugPortFollowTheirPins : Prop :=
  (∀ k ident s, k ≤ 7 → (s.cable k).present = false → Does (.cableFitted k ident) s fun t =>
      t.cable k = ⟨true, decide ((s.rail 1).st = .inWindow), false, ident,
        if s.boot.por && !s.tok.pdLost then some ident else none⟩ ∧
      (∀ q, q ≠ k → t.cable q = s.cable q) ∧ t.power = { s.power with cables := t.power.cables } ∧
      t.ports = ((cablePorts k).foldl (fun (r : State) n =>
        r.setPort n { r.port n with badLanes := 0, newBad := false, spareFor := none }) s).ports ∧
      KeepsBut [.power, .ports] s t) ∧
  (∀ k s, k ≤ 7 → (s.cable k).present = true → Does (.cableRemoved k) s fun t =>
      t.power.cables = Tab.set Cable.empty s.power.cables k Cable.empty ∧
      t.power = { s.power with cables := t.power.cables } ∧
      (∀ n, n ∈ cablePorts k → (t.port n).st ≠ .up ∧ (t.port n).st ≠ .swap) ∧
      KeepsBut [.power, .ports, .rsl, .evs, .ctrs, .fresh] s t) ∧
  (∀ k s, k ≤ 7 → (s.cable k).present = true → Does (.cableFault k) s fun t =>
      t.cable k = { s.cable k with fault := true } ∧ (∀ q, q ≠ k → t.cable q = s.cable q) ∧
      t.power = { s.power with cables := t.power.cables } ∧
      (∀ n, n ∈ cablePorts k → (t.port n).st ≠ .up ∧ (t.port n).st ≠ .swap) ∧
      KeepsBut [.power, .ports, .rsl, .evs, .ctrs, .fresh] s t) ∧
  (∀ pins s, s.boot.por = true → s.sec.dbgLock = true → s.sec.dbgReopen = false → Does (.debugAccess pins) s fun t =>
      t.power = { s.power with dbgTdo := false } ∧ KeepsBut [.power] s t)

/-- R50, R65, R67, R68, R90 to R93: monitors, the thermal steps and the power loop. Rests on the model's choices of
log 21, 27, 35, 36, 151 and 161. -/
def Obligations.ThermalAndPowerStepsProtectTheModule : Prop :=
  (∀ mon v s, s.boot.por = true → 24 ≤ mon → mon < 42 → Does (.monitorSample mon v false) s fun t =>
      t.mon mon = { s.mon mon with valid := true, isOver := railOff (mon - 24) v.toNat 5, value := v } ∧
      (∀ q, q ≠ mon → t.mon q = s.mon q) ∧
      t.power = { s.power with monitors := t.power.monitors, modPg := t.power.modPg } ∧
      (s.power.modPg = true → t.power.modPg = true) ∧ KeepsBut [.power] s t) ∧
  (∀ mon v s, s.boot.por = true → mon < 24 → Does (.monitorSample mon v true) s fun t =>
      t.mon mon = { s.mon mon with valid := true, fault := true, isOver := false, value := v } ∧
      (∀ q, q ≠ mon → t.mon q = s.mon q) ∧ t.power.trip = s.power.trip ∧
      ((∀ q, q < 24 → sensorPart q = sensorPart mon → (t.mon q).fault = true) →
        (t.part (sensorPart mon)).noSensor = true ∧ (t.part (sensorPart mon)).level = 1 ∧
        (12 ≤ mon → (t.stack (mon - 12)).refresh2 = true ∧ (t.stack (mon - 12)).halfRate = false)) ∧
      (mon < 12 → t.mem = s.mem) ∧ SameBytes s t ∧ KeepsBut [.power, .mem, .evs, .ctrs] s t) ∧
  (∀ mon v s, s.boot.por = true → mon < 24 → s.tok.fatal = none → partTrip (sensorPart mon) ≤ v.toInt →
    Does (.monitorSample mon v false) s fun t =>
      t.power.trip = true ∧ (s.power.trip = false → t.tok.fatal = some 0) ∧ SameBytes s t ∧
      KeepsBut [.power, .tok, .fab, .mem, .evs, .ctrs] s t) ∧
  (∀ p e s, ((s.part p).level = 2 ∧ (s.part p).cool2 = some e ∨ (s.part p).level = 1 ∧ (s.part p).cool1 = some e) →
    e + 4096 ≤ s.epoch → Does (.thermalStepUndo p) s fun t =>
      t.part p = { s.part p with level := (s.part p).level - 1 } ∧ (∀ q, q ≠ p → t.part q = s.part q) ∧
      t.power = { s.power with parts := t.power.parts } ∧
      (5 ≤ p → (t.stack (p - 5)).refresh2 = decide ((s.part p).level = 2) ∧ (t.stack (p - 5)).halfRate = false) ∧
      (p < 5 → t.mem = s.mem) ∧ SameBytes s t ∧ KeepsBut [.power, .mem] s t) ∧
  (∀ s, s.power.trip = true → Does .tripInputOff s fun t =>
      t.power.inputOn = false ∧ t.power.tripOff = true ∧ Wiped s t) ∧
  (∀ n s, s.power.inputOn = true → n ≤ 23 → (s.mon n).fault = false → Does (.thermalComparator n) s fun t =>
      t.power.inputOn = false ∧ t.power.tripOff = true ∧ Wiped s t) ∧
  (∀ w s, Does (.powerAverageUpdate w) s fun t =>
      t.power.avgW = w ∧ (s.cfgAt fLimitW < w → 1600 ≤ t.power.inflow ∧
        t.power.inflow ≤ max 1600 (s.power.inflow - 1)) ∧
      (w ≤ s.cfgAt fLimitW → t.power.inflow = s.power.inflow ∧ t.fresh = s.fresh) ∧
      t.power = { s.power with
        avgW := w, inflow := t.power.inflow, floorSince := t.power.floorSince, belowSince := t.power.belowSince } ∧
      KeepsBut [.power, .fresh] s t) ∧
  (∀ e s, s.power.floorSince = some e → e + 1024 ≤ s.epoch → s.power.arithPwr < 2 → Does .powerClockStep s fun t =>
      t.power = { s.power with arithPwr := s.power.arithPwr + 1, floorSince := some s.epoch } ∧
      Raised s t 0x0106 sevNotice diePd (leBytes 1 t.arithStep ++ leBytes 2 s.power.avgW) ∧
      KeepsBut [.power, .evs, .ctrs] s t) ∧
  (∀ e s, s.power.belowSince = some e → e + 4096 ≤ s.epoch → Does .powerStepUndo s fun t =>
      (0 < s.power.arithPwr →
        t.power = { s.power with arithPwr := s.power.arithPwr - 1, belowSince := some s.epoch }) ∧
      (s.power.arithPwr = 0 → t.power = { s.power with inflow := 6400, belowSince := some s.epoch }) ∧
      KeepsBut [.power] s t)

/-- R74 to R77: the crystals and the loops. Rests on the model's choices of log 38, 39 and 40. -/
def Obligations.CrystalsAndLoopsFailOverOrFail : Prop :=
  (∀ xb s, s.clk.running = true → s.clk.xaFlag = false → s.clk.xbFlag = false → Does (.crystalMissingEdge xb) s fun t =>
      t.clk = (if xb then { s.clk with xbFlag := true, xbRefOnXa := true }
        else { s.clk with xaFlag := true, xaRefOnXb := true }) ∧
      Raised s t 0x0109 sevWarning s.actDie (leBytes 1 (if xb then 2 else 1)) ∧ KeepsBut [.clk, .evs, .ctrs] s t) ∧
  (∀ xb s, s.clk.running = true → s.tok.fatal = none → (if xb then s.clk.xbFlag else s.clk.xaFlag) = false →
    (if xb then s.clk.xaFlag else s.clk.xbFlag) = true → Does (.crystalMissingEdge xb) s fun t =>
      t.clk = { s.clk with xaFlag := true, xbFlag := true, bothHold := true } ∧ t.tok.fatal = some 0 ∧
      KeepsBut [.clk, .tok, .fab, .evs, .ctrs] s t) ∧
  (∀ xb n s, s.clk.running = true → s.clk.xaFlag = false → s.clk.xbFlag = false →
    (crystalOff xb true n = true → Does (.crystalFrequencyFlag xb n) s fun t =>
      t.clk = (if xb then { s.clk with xbFlag := true, xbRefOnXa := true }
        else { s.clk with xaFlag := true, xaRefOnXb := true }) ∧ KeepsBut [.clk, .evs, .ctrs] s t) ∧
    (crystalOff xb true n = false → Does (.crystalFrequencyFlag xb n) s fun t => t = s)) ∧
  (∀ n, crystalOff true true n = false ↔ 796 ≤ n ∧ n ≤ 804) ∧
  (∀ s, s.clk.bothHold = true → Does .crystalHoldEnd s fun t =>
      t.clk = { s.clk with bothHold := false, txIdle := true } ∧ KeepsBut [.clk] s t) ∧
  (∀ die ps s, s.clk.running = true → (s.clk.xaFlag && s.clk.xbFlag) = false →
    (4 ≤ die → Does (.loopLockLoss die ps) s fun t =>
      (∀ n, n ∈ ps → n < 66 → (t.port n).st ≠ .up ∧ (t.port n).st ≠ .swap ∧
        Tab.get false t.clk.loopFault (16 + n) = true) ∧
      t.clk = { s.clk with loopFault := t.clk.loopFault } ∧ KeepsBut [.clk, .ports, .rsl, .evs, .ctrs, .fresh] s t) ∧
    (∀ hub, hub < 2 → s.hubGone hub = false → die = 2 + hub → Does (.loopLockLoss die ps) s fun t =>
      t.hubGone hub = true ∧ (∀ n, n < 12 → hubOfStack n = hub → (t.stack n).st = .failed) ∧
      KeepsBut [.tok, .ports, .fab, .pool, .coh, .coach, .stock, .mem, .twin, .sec, .rsl, .evs, .ctrs, .fresh] s t) ∧
    (die ≤ 1 → s.tok.active = some die → Does (.loopLockLoss die ps) s fun t =>
      t.clk = { s.clk with loopFault := Tab.set false s.clk.loopFault die true } ∧ t.tok.silent = true ∧
      t.twin.paused = true ∧ (s.twin.tender ≠ .synced → t.tok.fatal.isSome = true) ∧
      KeepsBut [.clk, .tok, .fab, .twin, .evs, .ctrs] s t) ∧
    (die ≤ 1 → s.tok.active = some (1 - die) → Does (.loopLockLoss die ps) s fun t =>
      t.twin.tender ≠ .synced ∧ t.twin.tender ≠ .paired ∧ t.twin.tender ≠ .resync ∧ t.tok.active = s.tok.active ∧
      KeepsBut [.clk, .boot, .tok, .fab, .repro, .twin, .sec, .rsl, .evs, .ctrs] s t) ∧
    (die ≤ 1 → s.tok.active = none → Does (.loopLockLoss die ps) s fun t =>
      t.dieDead die = true ∧ (die = dieCdA → t.boot.readyA = false) ∧ (die = dieCdB → t.boot.readyB = false) ∧
      t.tok.claimant ≠ some die ∧ KeepsBut [.clk, .boot, .tok, .twin] s t))

/-- R81 to R88: fabric time, its sources and its losses. Rests on the model's choices of log 28, 42, 43, 44 and 160.
-/
def Obligations.FabricTimeFollowsItsSource : Prop :=
  (∀ port f arr s, isRsl port = false → s.portUp port = true → CtlGood port f typTime →
    rawField f 8 2 = s.cfgAt fTimeDomain → (rawField f 11 1 = 1 ∨ rawField f 11 1 = 3) → rawField f 12 4 = 0 →
    Does (.time port f arr) s fun t =>
      (t.port port).timeHops = rawField f 10 1 ∧
      (t.port port).timeOffset =
        (arr : Int) - ((rawField f 0 8 : Int) + ((headerTaken s port f).port port).delay.getD 0) ∧
      (rawField f 11 1 = 1 → (t.port port).timeEpoch = some s.epoch) ∧ t.clk.now = s.clk.now ∧
      KeepsBut [.clk, .ports, .fab, .evs, .ctrs, .fresh] s t) ∧
  (∀ port f arr s, isRsl port = false → s.portUp port = true → CtlGood port f typTime →
    (rawField f 8 2 ≠ s.cfgAt fTimeDomain ∨ rawField f 11 1 % 2 ≠ 1 ∨ 4 ≤ rawField f 11 1 ∨ rawField f 12 4 ≠ 0) →
    Does (.time port f arr) s fun t =>
      Counted (headerTaken s port f) t 1 port 23 1 ∧ t.clk = s.clk ∧ KeepsBut [.ports, .fab, .ctrs] s t) ∧
  (∀ port f arr s, isRsl port = false → s.portUp port = true → rawBad f = true → Does (.time port f arr) s fun t =>
      Counted ((s.bumpPort port 3 f.fecBad).bumpPort port 2 1) t 1 port 23 1 ∧
      t.port port = (s.port port).askReplay ∧ KeepsBut [.ports, .ctrs] s t) ∧
  (∀ port s, s.clk.source = some port → s.timeUsable port = false →
    (∀ n, n < 64 → s.timeUsable n = false) → Does (.timeSourceIneligible port) s fun t =>
      t.clk.source = none ∧
      t.clk.tstate = (if s.clk.tstate = .locked then .holdover else s.clk.tstate) ∧
      (s.clk.tstate = .locked → t.clk.holdSince = s.epoch) ∧ KeepsBut [.clk] s t) ∧
  (∀ s, s.clk.tstate = .holdover → s.clk.holdSince + 64 ≤ s.epoch → Does .holdoverExpiry s fun t =>
      t.clk = { s.clk with tstate := .lost } ∧ t.fab.gatesOff = true ∧
      KeepsBut [.clk, .fab, .repro, .twin, .sec, .rsl, .evs, .ctrs] s t) ∧
  (∀ c n s, RslServed s c 0x113 → s.clk.tstate = .lost → s.relockPort = some n →
    RslRuns (.timeRelock c) s c 0x113 0 [] [.clk, .evs, .fresh] fun t =>
      t.clk.source = some n ∧ t.clk.stepTo.isSome = true ∧ t.clk.now = s.clk.now ∧ t.clk.tstate = .lost)

/-- R29, R34, R35, R87, R110, R111: an epoch boundary of the port die. Rests on the model's choices of log 29 and 46.
-/
def Obligations.EpochBoundaryAdvancesTimeAndAppliesSettings : Prop :=
  (∀ a b s, s.clk.running = true → Does (.epochBoundary a b) s fun t =>
      t.clk.now = 4096 * (s.clk.stepTo.getD (s.epoch + 1) % epochCount) ∧ t.clk.stepTo = none ∧ t.pending = s.pending ∧
      t.sec.minSec = s.sec.minSec ∧ t.boot.lc = s.boot.lc ∧
      t.fab.heard = s.fab.heard ∧ t.pool.quotas = s.pool.quotas ∧ t.stock.groupBadA = s.stock.groupBadA ∧
      t.stock.groupBadB = s.stock.groupBadB ∧ t.mem.closed = s.mem.closed ∧ t.mem.commit0 = s.mem.commit0 ∧
      t.mem.commit1 = s.mem.commit1) ∧
  (∀ a b s, s.clk.running = true → s.clk.stepTo = none → s.attended = true → s.tok.missed = 0 →
    s.epoch + 1 < (s.ob odPd).expiry → Does (.epochBoundary a b) s fun t =>
      t.epoch = (s.epoch + 1) % epochCount ∧ (t.ob odPd).epoch = t.epoch ∧ t.cfg.shadow = [])

/-- R27, R28: the token at an obeying die. Rests on the model's choices of log 47 and 146. -/
def Obligations.ObeyingDieGrantsTheTokenToOneDie : Prop :=
  (∀ od die s, s.tokArrives .claim od die = true → s.odHolder od = none → Does (.tokenClaim od die) s fun t =>
      t.odHolder od = some die ∧ (t.ob od).expiry = s.odEpoch od + 4 ∧ (∀ q, q ≠ od → t.ob q = s.ob q) ∧
      (Tab.get false s.tok.linkDown (tokLink die od) = false → ⟨die, od, .granted⟩ ∈ t.tok.replies) ∧
      t.tok = { s.tok with dies := t.tok.dies, sent := t.tok.sent, replies := t.tok.replies } ∧ KeepsBut [.tok] s t) ∧
  (∀ od die holder s, s.tokArrives .claim od die = true → s.odHolder od = some holder →
    Does (.tokenClaim od die) s fun t =>
      (Tab.get false s.tok.linkDown (tokLink die od) = false →
        ⟨die, od, .heldBy holder (s.ob od).expiry⟩ ∈ t.tok.replies) ∧
      t.tok = { s.tok with sent := t.tok.sent, replies := t.tok.replies } ∧ KeepsBut [.tok] s t) ∧
  (∀ od die s, s.tokArrives .renew od die = true → s.odHolder od = some die → Does (.tokenRenew od die) s fun t =>
      t.odHolder od = some die ∧ (t.ob od).expiry = s.odEpoch od + 4 ∧ (∀ q, q ≠ od → t.ob q = s.ob q) ∧
      (Tab.get false s.tok.linkDown (tokLink die od) = false → ⟨die, od, .granted⟩ ∈ t.tok.replies) ∧
      t.tok = { s.tok with dies := t.tok.dies, sent := t.tok.sent, replies := t.tok.replies } ∧ KeepsBut [.tok] s t) ∧
  (∀ od die s, s.tokArrives .renew od die = true → s.odHolder od ≠ some die → Does (.tokenRenew od die) s fun t =>
      Counted s t 10 0 (21 + od) 1 ∧ t.tok = { s.tok with sent := t.tok.sent } ∧ KeepsBut [.tok, .ctrs] s t) ∧
  (∀ od die s, s.tokArrives .release od die = true → s.odHolder od = some die → (od ≠ odPd → s.hubQueue od = []) →
    Does (.tokenRelease od die) s fun t =>
      t.odHolder od = none ∧ (∀ q, q ≠ od → t.ob q = s.ob q) ∧
      (Tab.get false s.tok.linkDown (tokLink die od) = false → ⟨die, od, .released⟩ ∈ t.tok.replies) ∧
      t.tok = { s.tok with dies := t.tok.dies, sent := t.tok.sent, replies := t.tok.replies } ∧ KeepsBut [.tok] s t) ∧
  (∀ od holder s, od ≤ 2 → (s.ob od).holder = some holder → (s.ob od).expiry ≤ s.odEpoch od →
    Does (.tokenExpiry od) s fun t =>
      t.odHolder od = none ∧ t.tok = { s.tok with dies := t.tok.dies, expired := s.tok.expired ++ [od] } ∧
      KeepsBut [.tok] s t) ∧
  (∀ od die s, s.tokenEnds od die = true →
    Does (.obeyingDieCommand od die .statusRead) s (fun t => t = s) ∧
    Does (.obeyingDieCommand od die .commitRead) s (fun t => t = s) ∧
    (s.odHolder od = some die → Does (.obeyingDieCommand od die .command) s fun t => t = s) ∧
    (s.odHolder od ≠ some die → Does (.obeyingDieCommand od die .command) s fun t =>
      Counted s t 10 0 (21 + od) 1 ∧ KeepsBut [.ctrs] s t))

/-- R21, R30 to R32, R55, R367: the token seen from a control die, and the links between the dies. Rests on the
model's choices of log 48, 49 and 147. -/
def Obligations.ControlDieLosesOrGainsTheActiveRole : Prop :=
  (∀ die od s, s.tokenEnds od die = true → ⟨die, od, .granted⟩ ∈ s.tok.replies → s.odHolder od = some die →
    s.tok.claimant ≠ some die → s.tok.active = some die → Does (.tokenReply die od .granted) s fun t =>
      od ∈ t.tok.granted ∧ (∀ x, x ∈ s.tok.granted → x ∈ t.tok.granted) ∧
      t.tok = { s.tok with granted := t.tok.granted, replies := t.tok.replies } ∧ KeepsBut [.tok] s t) ∧
  (∀ die od s, s.tokenEnds od die = true → ⟨die, od, .granted⟩ ∈ s.tok.replies → s.odHolder od = some die →
    s.tok.claimant = some die →
    let gs := od :: s.tok.claimGrants.filter fun x => decide (x ≠ od ∧ s.odHolder x = some die)
    (s.allGranted gs = false → Does (.tokenReply die od .granted) s fun t =>
      t.tok = { s.tok with claimGrants := gs, replies := t.tok.replies } ∧ KeepsBut [.tok] s t) ∧
    (s.allGranted gs = true → s.tok.active = none → s.tok.fatal = none →
      Does (.tokenReply die od .granted) s fun t =>
        t.tok.active = some die ∧ t.tok.claimant = none ∧ t.boot.tokenEpoch = some s.epoch ∧
        KeepsBut [.boot, .tok, .twin] s t)) ∧
  (∀ od s, s.tokenEnds od s.tenderDie = true → ⟨s.tenderDie, od, .released⟩ ∈ s.tok.replies →
    s.tok.active.isSome = true → s.handingOver = false → s.tok.active ≠ some s.tenderDie →
    s.twin.tender = .synced → s.twin.detectedAt = none → Does (.tokenReply s.tenderDie od .released) s fun t =>
      t.tok.silent = true ∧ t.tok.claimant = some s.tenderDie ∧ t.tok.claimCause = 1 ∧ t.twin.paused = true ∧
      t.twin.detectedAt = some s.epoch ∧ KeepsBut [.tok, .twin] s t) ∧
  (∀ s, s.tok.active.isSome = true → s.tok.silent = false → 2 ≤ s.tok.missed → s.allGranted s.tok.granted = false →
    Does .renewalSilence s fun t =>
      t.tok.silent = true ∧ t.twin.paused = true ∧ (s.twin.tender ≠ .synced → t.tok.fatal.isSome = true) ∧
      KeepsBut [.tok, .fab, .twin, .evs, .ctrs] s t) ∧
  (∀ s, s.boot.readyB = true → s.dieDead dieCdB = false → s.boot.readyEpochB + 8 ≤ s.tok.cdEpochB →
    s.tok.active = none → s.tok.claimGrants = [] → s.boot.tokenEpoch = none →
    (∀ od, od ∈ s.odsAlive → s.odHolder od = none) → Does .cdBClaimWaitEnd s fun t =>
      (∀ od, od ∈ s.odsAlive → Tab.get false s.tok.linkDown (tokLink dieCdB od) = false →
        ⟨.claim, dieCdB, od⟩ ∈ t.tok.sent) ∧
      t.tok = { s.tok with
        claimant := some dieCdB, claimGrants := [], claimSince := s.epoch, claimCause := 0, sent := t.tok.sent } ∧
      KeepsBut [.tok] s t) ∧
  (∀ link retry s, link ≤ 8 → Tab.get false s.tok.linkDown link = false → Does (.d2dCrcError link retry) s fun t =>
      t.tok = { s.tok with
        retries := Tab.set 0 s.tok.retries link (if retry then min 8 (Tab.get 0 s.tok.retries link + 1) else 0) } ∧
      KeepsBut [.tok] s t) ∧
  (∀ link s, 6 ≤ link → link ≤ 7 → Tab.get false s.tok.linkDown link = false → 8 ≤ Tab.get 0 s.tok.retries link →
    Does (.d2dLinkFail link) s fun t =>
      Tab.get false t.tok.linkDown link = true ∧
      t.tok = { s.tok with linkDown := t.tok.linkDown, retries := Tab.set 0 s.tok.retries link 0 } ∧
      Raised s t 0x010D sevWarning diePd (leBytes 1 link) ∧ KeepsBut [.tok, .evs, .ctrs] s t) ∧
  (∀ s, Tab.get false s.tok.linkDown 8 = false → 8 ≤ Tab.get 0 s.tok.retries 8 → Does (.d2dLinkFail 8) s fun t =>
      Tab.get false t.tok.linkDown 8 = true ∧ t.twin.tender = .absent ∧ SameBytes s t) ∧
  (∀ link s, link ≤ 8 → Tab.get 0 s.tok.retries link < 8 → Does (.d2dLinkFail link) s fun t => t = s)

/-- R127 to R135, R140, R144 to R146: flits are received in order, acknowledged, and credited. Rests on the model's
choices of log 65, 67, 70, 153, 154, 161 and 162. -/
def Obligations.LinkReceivesFlitsInOrder : Prop :=
  (∀ n f marks msgs s, s.portUp n = true → rawBad f = false → (rawWord f).kind = 0 → dataMsgs n f marks = some msgs →
    let r := headerTaken s n f
    let w := rawWord f
    (seqDist w.seq (r.port n).es = 0 →
      ((r.port n).slotsOf w.typ < s.ownCrd n w.typ → Does (.dataFlitRx n f marks) s fun t =>
        (t.port n).es = ((r.port n).es + 1) % 65536 ∧ (t.port n).accepted = true ∧ (t.port n).nakPending = false ∧
        (∃ js rs, (t.port n).slots = (r.port n).slots ++ [⟨w.typ, js, rs⟩]) ∧ (t.port n).store = (r.port n).store ∧
        KeepsBut [.ports, .fab, .twin, .ctrs] s t) ∧
      (s.ownCrd n w.typ ≤ (r.port n).slotsOf w.typ → Does (.dataFlitRx n f marks) s fun t =>
        t.port n = (r.port n).askReplay ∧ KeepsBut [.ports, .fab, .ctrs] s t)) ∧
    (1 ≤ seqDist w.seq (r.port n).es → seqDist w.seq (r.port n).es ≤ 32767 → Does (.dataFlitRx n f marks) s fun t =>
      t.port n = (r.port n).askReplay ∧ KeepsBut [.ports, .fab, .ctrs] s t) ∧
    (32767 < seqDist w.seq (r.port n).es → Does (.dataFlitRx n f marks) s fun t =>
      t.ports = r.ports ∧ KeepsBut [.ports, .fab, .ctrs] s t)) ∧
  (∀ n f marks s, s.portUp n = true →
    (rawBad f = true ∨ ((rawWord f).kind ≠ 1 ∧ dataMsgs n f marks = none)) → Does (.dataFlitRx n f marks) s fun t =>
      t.port n = (s.port n).askReplay ∧ KeepsBut [.ports, .ctrs] s t) ∧
  (∀ n f s, s.portUp n = true → CtlGood n f typIdle → Does (.idle n f) s fun t =>
      t.ports = (headerTaken s n f).ports ∧ KeepsBut [.ports, .fab, .ctrs] s t) ∧
  (∀ n f s, s.portUp n = true → CtlGood n f typNak →
    let r := headerTaken s n f
    let q := rawField f 0 2
    (r.port n).timeoutMode = false → seqDist q (r.port n).oldest ≤ (r.port n).outstanding → (r.port n).replay = none →
    Does (.nak n f) s fun t =>
      ((r.port n).oldest < 65536 → seqDist q (t.port n).oldest = 0) ∧
      (∀ x, x ∈ (t.port n).store → x ∈ (r.port n).store ∧
        seqDist q (r.port n).oldest ≤ seqDist x.seq (r.port n).oldest) ∧
      (seqDist (r.port n).next q ≠ 0 → (t.port n).replay = some ⟨q % 65536, q % 65536, (r.port n).next⟩) ∧
      KeepsBut [.ports, .fab, .ctrs] s t) ∧
  (∀ n f c s, s.portUp n = true → CtlGood n f typCreditSync → c < 4 →
    let p := (headerTaken s n f).port n
    let total := rawField f (4 * c) 4
    let ret := Tab.get 0 p.returned c
    let sent := Tab.get 0 p.sent c
    ret < two32 → total < two32 → Does (.creditSync n f) s fun t =>
      Tab.get 0 (t.port n).returned c =
        (if (total + two32 - ret) % two32 ≤ (sent + two32 - ret) % two32 then total else sent) ∧
      KeepsBut [.ports, .fab, .evs, .ctrs] s t) ∧
  (∀ n f s, s.portUp n = true → rawBad f = true → Does (.creditSync n f) s fun t =>
      t.port n = (s.port n).askReplay ∧ KeepsBut [.ports, .ctrs] s t) ∧
  (∀ n f s, s.portUp n = true → rawBad f = false → (rawWord f).kind = 1 →
    (rawFormed f = false ∨ rslForbids n (rawWord f).typ = true ∨
      ((rawWord f).typ = typLaneSwap ∧ rawSwapFormed f = false)) → Does (.malformedControlFlit n f) s fun t =>
      t.ctrs = ((s.bumpPort n 3 f.fecBad).bumpPort n 6 1).ctrs ∧ KeepsBut [.ctrs] s t) ∧
  (∀ n cls x rest s, s.attended = true → (isRsl n = true → s.openCommands < 1024) → s.inflowSpent n = false →
    takeSlot cls (s.port n).slots = some (x, rest) → (∀ j, j ∈ x.jidxs → j < s.twin.nextJidx) →
    s.stockPaces x = false → Does (.ingressSlotRelease n cls) s fun t =>
      t.ports = (s.setPort n ({ s.port n with slots := rest }.addReleased cls)).ports ∧
      t.fab = (if isRsl n then s.fab else { s.fab with paced := s.fab.paced + 1 }) ∧ KeepsBut [.ports, .fab] s t)

/-- R132, R133, R137, R140, R141: what a port sends next. Rests on the model's choices of log 64, 66, 152 and 160. -/
def Obligations.LinkSendsControlThenReplayThenData : Prop :=
  (∀ n at_ x s, (s.port n).resetIdle = false → s.clk.txIdle = false → s.portUp n = true →
    (s.port n).dueCtl = some x → Does (.flitTx n at_) s fun t =>
      (t.port n).due = (s.port n).due.erase x ∧ (t.port n).store = (s.port n).store ∧
      (t.port n).next = (s.port n).next ∧ (∃ y a k c m, (t.port n).lastTx = some (.ctl y a k c m)) ∧
      KeepsBut [.ports, .ctrs] s t) ∧
  (∀ n at_ r f s, (s.port n).resetIdle = false → s.clk.txIdle = false → s.portUp n = true →
    (s.port n).dueCtl = none → (s.port n).replay = some r →
    ((s.port n).store.find? fun x => decide (x.seq = r.pos)) = some f → r.pos ≠ (s.port n).oldest →
    Does (.flitTx n at_) s fun t =>
      (t.port n).store = stampedAt (s.port n).store f.seq (4096 * s.epoch + at_) ∧ (t.port n).next = (s.port n).next ∧
      (∃ g a k c m, (t.port n).lastTx = some (.data ⟨f.seq, g, f.pantry, 4096 * s.epoch + at_⟩ true a k c m)) ∧
      (t.port n).replay = (if (r.pos + 1) % 65536 = r.stop % 65536 then none
        else some { r with pos := (r.pos + 1) % 65536 }) ∧ KeepsBut [.ports, .ctrs] s t) ∧
  (∀ n at_ s, isRsl n = false → (s.port n).resetIdle = false → s.clk.txIdle = false → s.portUp n = true →
    (s.port n).dueCtl = none → (s.port n).replay = none → (s.port n).sending = [] → Does (.flitTx n at_) s fun t =>
      (∃ a k c m, (t.port n).lastTx = some (.ctl .idle a k c m)) ∧ (t.port n).store = (s.port n).store ∧
      (t.port n).next = (s.port n).next ∧ KeepsBut [.ports, .ctrs] s t) ∧
  (∀ n at_ f rest s, isRsl n = false → (s.port n).resetIdle = false → s.clk.txIdle = false → s.portUp n = true →
    (s.port n).dueCtl = none → (s.port n).replay = none → (s.port n).sending = f :: rest →
    (s.port n).outstanding < s.flitCap n → (s.port n).avail f.cls ≠ 0 → Does (.flitTx n at_) s fun t =>
      (t.port n).next = ((s.port n).next + 1) % 65536 ∧ (t.port n).sending = rest ∧
      (∃ b g a k c m,
        (t.port n).store = stampedAt ((s.port n).store ++ [⟨(s.port n).next, f, b, 4096 * s.epoch + at_⟩])
          (s.port n).next (4096 * s.epoch + at_) ∧
        (t.port n).lastTx = some (.data ⟨(s.port n).next, g, b, 4096 * s.epoch + at_⟩ false a k c m)) ∧
      KeepsBut [.ports, .ctrs] s t) ∧
  (∀ n at_ s, s.portUp n = true → (s.port n).outstanding ≠ 0 → s.timerRun n (4096 * s.epoch + at_) = true →
    seqDist (s.port n).next (s.port n).oldest ≠ 0 → Does (.replayTimerExpiry n at_) s fun t =>
      t.port n = { s.port n with replay := some ⟨(s.port n).oldest, (s.port n).oldest, (s.port n).next⟩ } ∧
      KeepsBut [.ports, .ctrs] s t) ∧
  (∀ n at_ s, s.timerRun n (4096 * s.epoch + at_) = false → Does (.replayTimerExpiry n at_) s fun t => t = s) ∧
  (∀ n f t2 s, isRsl n = false → s.portUp n = true → CtlGood n f typTimeProbe → Does (.timeProbe n f t2) s fun t =>
      (t.port n).due = ((headerTaken s n f).port n).due ++ [.timeEcho (rawField f 0 8) t2 0] ∧
      KeepsBut [.ports, .fab, .ctrs] s t) ∧
  (∀ n f (t4 d : Nat) s, isRsl n = false → s.portUp n = true → CtlGood n f typTimeEcho →
    let p := (headerTaken s n f).port n
    p.probing = true → p.probeId = rawField f 0 8 →
    ((t4 : Int) - p.probeAt - ((rawField f 16 8 : Int) - rawField f 8 8)) / 2 = (d : Int) → d ≤ 100000 →
    Does (.timeEcho n f t4) s fun t =>
      (t.port n).delay = some d ∧ (t.port n).measured = true ∧ (t.port n).probing = false ∧
      KeepsBut [.ports, .fab, .evs, .ctrs] s t)

/-- R123 to R125, R147 to R150: training, lane faults and the loss of a link. Rests on the model's choices of log 37,
67, 68, 69, 155 and 156. -/
def Obligations.LinkTrainsAndSwapsLanes : Prop :=
  (∀ n s, n < 64 → s.portUp n = true → Does (.linkSilenceTimeout n) s fun t =>
      (t.port n).st = .training ∧ (t.port n).attempt = true ∧
      Raised s t 0x0302 sevNotice diePd (leBytes 1 n ++ leBytes 1 1) ∧ KeepsBut [.ports, .evs, .ctrs, .fresh] s t) ∧
  (∀ n lanes s, n < 64 → s.portUp n = true →
    2 ≤ (((List.range (laneCount n)).filter fun i => lanes.getLsbD i).filter
      fun i => decide (i ∈ dataLanes n (s.port n))).length → Does (.laneLockLoss n lanes) s fun t =>
      (t.port n).st = .training ∧ (t.port n).badLanes = (s.port n).badLanes ||| lanes ∧
      KeepsBut [.ports, .evs, .ctrs, .fresh] s t) ∧
  (∀ n lane cs s, n < 64 → (s.port n).st = .up → (s.port n).standby n = true → lane ∈ dataLanes n (s.port n) →
    lane < laneCount n → (s.port n).badLanes.getLsbD lane = false → 4 ≤ cs.length → (∀ c, c ∈ cs → 4096 < c) →
    Does (.laneFecFault n lane cs) s fun t =>
      (t.port n).st = .swap ∧ (t.port n).swapLane = some lane ∧
      (t.port n).badLanes = (s.port n).badLanes ||| laneBit lane ∧
      (t.port n).due = (s.port n).due ++ [.laneSwap 0 lane] ∧ KeepsBut [.ports] s t) ∧
  (∀ n f s, isRsl n = false → s.portUp n = true → CtlGood n f typLaneSwap → rawField f 0 1 = 0 →
    let p := (headerTaken s n f).port n
    let lane := rawField f 1 1
    p.st = .up → p.standby n = true → Does (.laneSwap n f) s fun t =>
      (t.port n).st = .swap ∧ (t.port n).swapLane = some lane ∧
      (t.port n).badLanes = p.badLanes ||| laneBit lane ∧ (t.port n).due = p.due ++ [.laneSwap 1 lane] ∧
      KeepsBut [.ports, .fab, .ctrs] s t) ∧
  (∀ n s, (s.port n).st = .swap → (s.port n).goSent = true → (s.port n).goRcvd = true → Does (.laneSwapDone n) s fun t =>
      t.port n = { s.port n with
        st := .up, spareFor := some ((s.port n).swapLane.getD 0), swapLane := none, goSent := false
        goRcvd := false } ∧
      Raised s t 0x0305 sevNotice diePd (leBytes 1 n ++ leBytes 1 ((s.port n).swapLane.getD 0)) ∧
      KeepsBut [.ports, .evs, .ctrs] s t) ∧
  (∀ n bad s, n < 64 → (s.port n).resetIdle = false → s.clk.txIdle = false → s.mayTrain n = true →
    (s.port n).st = .down → Does (.trainingStart n bad) s fun t =>
      (t.port n).st = .training ∧ (t.port n).attempt = true ∧ (t.port n).testing = false ∧ (t.port n).gen ≠ 0 ∧
      (t.port n).due = [.linkParam paramDue] ∧ (t.port n).badLanes = (s.port n).badLanes ||| bad ∧
      KeepsBut [.ports, .fresh] s t) ∧
  (∀ n f pp s, (s.port n).st = .training → (s.port n).attempt = true → (s.port n).testing = false →
    (s.port n).lanesOk n = true → CtlGood n f typLinkParam →
    let q := rawParam f pp
    linkParamBad q n = false → Does (.linkParam n f pp) s fun t =>
      (t.port n).st = .training ∧ (t.port n).paramSeen = true ∧ (t.port n).peerGen = q.gen ∧
      (t.port n).timeoutMode = (s.ownMode n || decide (q.mode = 1 ∧ n < 64)) ∧
      (s.resumes n q = false →
        (t.port n).next = 0 ∧ (t.port n).oldest = 0 ∧ (t.port n).es = 0 ∧ (t.port n).store = []) ∧
      (s.resumes n q = true → (t.port n).next = (s.port n).next ∧ (t.port n).es = (s.port n).es) ∧
      KeepsBut [.ports, .fab, .evs, .ctrs] s t) ∧
  (∀ n s, n < 64 → (s.port n).st = .training → (s.port n).attempt = true → (s.port n).testing = false →
    (s.port n).lanesOk n = true → (s.port n).paramSeen = true → (s.port n).paramSent = true →
    Does (.trainingDone n) s fun t =>
      (t.port n).st = .up ∧ (t.port n).attempt = false ∧ .timeProbe s.epoch ∈ (t.port n).due ∧
      Tab.get false t.boot.portTrained n = true ∧ t.boot = { s.boot with portTrained := t.boot.portTrained } ∧
      KeepsBut [.boot, .ports, .evs, .ctrs] s t) ∧
  (∀ n s, n < 64 → (s.port n).st = .training → (s.port n).attempt = true → (s.port n).testing = false →
    (s.port n).lanesOk n = false → Does (.trainingDone n) s fun t =>
      t.port n = { (s.port n).quiet with st := .fault } ∧ KeepsBut [.ports, .evs, .ctrs] s t) ∧
  (∀ n s, (s.port n).st = .training → (s.port n).attempt = true → Does (.trainingTimeout n) s fun t =>
      t.port n = { (s.port n).quiet with testing := (s.port n).testing } ∧ KeepsBut [.ports] s t) ∧
  (∀ n s, (s.port n).st = .training → (s.port n).attempt = false → (s.port n).resetIdle = false →
    s.mayTrain n = true → Does (.trainingRetry n) s fun t =>
      (t.port n).st = .training ∧ (t.port n).attempt = true ∧
      (t.port n).testing = ((s.port n).testing || (s.port n).newBad) ∧ (t.port n).due = [.linkParam paramDue] ∧
      KeepsBut [.ports, .fresh] s t) ∧
  (∀ c n s, RslServed s c 0x102 → n ≤ 63 → s.portUp n = false → s.mayTrain n = true → Does (.portReset c n) s fun t =>
      t.port n = { (s.port n).quiet with st := .training, resetIdle := true } ∧
      Tab.get [] t.boot.portResetOwed n = Tab.get [] s.boot.portResetOwed n ++ [.rsl c] ∧
      t.boot = { s.boot with portResetOwed := t.boot.portResetOwed } ∧
      KeepsBut [.boot, .ports] (afterOpen s c 0x102) t) ∧
  (∀ n s, (s.port n).resetIdle = true → s.mayTrain n = true → Does (.portResetIdleEnd n) s fun t =>
      (t.port n).resetIdle = false ∧ (t.port n).st = .training ∧ (t.port n).attempt = true ∧
      t.boot.portResetOwed = Tab.set [] s.boot.portResetOwed n [] ∧ SameBytes s t ∧
      KeepsBut [.boot, .ports, .fab, .twin, .sec, .rsl, .ctrs, .fresh] s t)

/-- R154 to R157, R165 to R167, R170, R171: messages are bound to a port, and bursts start in their stretch. Rests on
the model's choices of log 59, 60, 61, 62, 63, 71, 157, 158, 159 and 166. -/
def Obligations.MessagesBindAndBurstsStart : Prop :=
  (∀ m ms p s, s.twin.paused = false → s.fab.unbound = m :: ms → s.chooseBind m = .port p →
    let kind := s.kindAt p m
    let v := s.currentVersion
    Does .messageBind s fun t =>
      t.fab.unbound = ms ∧ (t.port p).fifos = ((s.port p).enqueue kind v (s.sealMsg v kind m).2).fifos ∧
      t.inflight s.currentVersion = s.inflight s.currentVersion + 1 ∧
      (∀ q, q ≠ p → t.port q = s.port q) ∧ SameBytes s t ∧ KeepsBut [.ports, .fab, .coh, .twin, .sec, .ctrs] s t) ∧
  (∀ m ms s, s.twin.paused = false → s.fab.unbound = m :: ms → s.chooseBind m = .dropped → Does .messageBind s fun t =>
      t.fab = { s.fab with unbound := ms } ∧ KeepsBut [.fab] s t) ∧
  (∀ n kind cls off e s, s.portUp n = true → (s.port n).sending = [] → (s.port n).fifo (fifoKey kind cls) ≠ [] →
    cls < 4 →
    let r := s.formBurst n kind cls
    let q := (r.port n).fifo (fifoKey kind cls)
    let k := r.burstLen n (fifoKey kind cls)
    r.judgeBurst n kind cls off = .starts e → (kind = 0 → r.nextClass n off = some cls) →
    Does (.gateBurstStart n kind cls off) s fun t =>
      (t.port n).sending = q.take k ∧
      ((∀ f, f ∈ q.drop k → r.kindNow n f = kind) → (t.port n).fifo (fifoKey kind cls) = q.drop k) ∧
      (t.port n).overrunTo = 4096 * s.epoch + e ∧ (∀ m, m ≠ n → t.port m = s.port m) ∧ KeepsBut [.ports, .ctrs] s t) ∧
  (∀ n kind cls off s, s.portUp n = true → (s.port n).sending = [] → (s.port n).fifo (fifoKey kind cls) ≠ [] →
    cls < 4 →
    let r := s.formBurst n kind cls
    r.judgeBurst n kind cls off = .noTime → Does (.gateBurstStart n kind cls off) s fun t =>
      (t.port n).sending = [] ∧ (t.port n).fifos = (r.port n).fifos ∧ KeepsBut [.ports, .ctrs] s t)

/-- R158, R159, R161, R162: route versions and policers. -/
def Obligations.RouteVersionsAndPolicersAreLoaded : Prop :=
  (∀ c v first es s, RslServed s c 0x120 → v ≤ 1 → es ≠ [] → es.length ≤ 256 → first + es.length ≤ 4104 →
    es.any entryBad = false → s.routeState v = .loading → RslRuns (.routeLoad c v first es) s c 0x120 0 [] [.fab] fun t =>
      t.routes v = writeRoutes (s.routes v) first es ∧ t.routes (1 - v) = s.routes (1 - v) ∧
      t.routeState v = .loading ∧ t.fab.unbound = s.fab.unbound ∧ t.fab.policers = s.fab.policers) ∧
  (∀ c v first es s, RslServed s c 0x120 → v ≤ 1 → es ≠ [] → es.length ≤ 256 → first + es.length ≤ 4104 →
    es.any entryBad = false → s.routeState v = .free → RslRuns (.routeLoad c v first es) s c 0x120 0 [] [.fab] fun t =>
      t.routes v = writeRoutes (s.routes s.currentVersion) first es ∧ t.routeState v = .loading) ∧
  (∀ c v s, RslServed s c 0x121 → v ≤ 1 → s.routeState v = .loading → Does (.routeCommit c v) s fun t =>
      t.routeState v = .pending ∧ t.routeState (1 - v) = s.routeState (1 - v) ∧
      t.fab.commitOwed = s.fab.commitOwed ++ [.rsl c] ∧ KeepsBut [.fab] (afterOpen s c 0x121) t) ∧
  (∀ v s, v ≤ 1 → s.routeState v = .draining → s.inflight v = 0 → Does (.routeDrained v) s fun t =>
      t.routeState v = .free ∧ t.routeState (1 - v) = s.routeState (1 - v) ∧
      Raised s t 0x0309 sevInfo diePd (leBytes 1 v) ∧ KeepsBut [.fab, .evs, .ctrs] s t) ∧
  (∀ c host cls cir pir cbs pbs s, RslServed s c 0x122 → host ≤ 4095 → cls ≤ 3 → cir ≤ pir → pir ≤ 6400000 →
    240 ≤ cbs → cbs ≤ pbs → pbs ≤ 16777216 →
    RslRuns (.policerSet c host cls 1 cir pir cbs pbs) s c 0x122 0 [] [.fab, .twin] fun t =>
      Tab.get Policer.empty t.fab.policers (host * 4 + cls) =
        ⟨true, cir, pir, cbs, pbs, cbs * 1024, pbs * 1024, s.clk.now⟩ ∧
      (∀ i, i ≠ host * 4 + cls → Tab.get Policer.empty t.fab.policers i = Tab.get Policer.empty s.fab.policers i) ∧
      t.fab = { s.fab with policers := t.fab.policers })

/-- R164, R168, R169: circuits are set up, enter the gate list, are torn down and removed. Rests on the model's
choices of log 61 and 167. -/
def Obligations.CircuitsAreArmedActivatedAndRemoved : Prop :=
  (∀ c host port dir start ws s, RslServed s c 0x123 → host ≤ 4095 → port ≤ 63 → dir ≤ 2 → ws ≠ [] → ws.length ≤ 16 →
    s.epoch + 2 ≤ start → start ≤ s.epoch + 65536 →
    (∀ w, w ∈ ws → w.1 + w.2 ≤ 4096 ∧ s.cfgIx fGateBurst port * 5 ≤ w.2) → s.timeless = false →
    windowsClash (s.portWindows port ++ ws) = false → (s.portWindows port ++ ws).length ≤ 64 →
    sumOf ((s.portWindows port ++ ws).map (·.2)) ≤ 3072 →
    let id := lowestFree 0 (s.fab.circuits.map (·.1))
    id < 512 → RslRuns (.cktSetup c host port dir start ws) s c 0x123 id [] [.fab, .twin] fun t =>
      t.circuit id = ⟨.armed, host, port, dir, start, 0, ws⟩ ∧ (∀ i, i ≠ id → t.circuit i = s.circuit i) ∧
      t.fab = { s.fab with circuits := t.fab.circuits }) ∧
  (∀ c k e s, RslServed s c 0x124 → k ≤ 511 → s.epoch + 2 ≤ e → e ≤ s.epoch + 65536 →
    ((s.circuit k).st = .armed ∨ (s.circuit k).st = .active) →
    RslRuns (.cktTeardown c k e) s c 0x124 0 [] [.fab, .twin] fun t =>
      t.circuit k = { s.circuit k with st := .tearing, endEpoch := e } ∧ (∀ i, i ≠ k → t.circuit i = s.circuit i) ∧
      t.fab = { s.fab with circuits := t.fab.circuits }) ∧
  (∀ k s, (s.circuit k).st = .armed → (s.circuit k).startEpoch ≤ s.epoch → (s.circuit k).windows ≠ [] →
    Does (.circuitActivate k) s fun t =>
      t.circuit k = { s.circuit k with st := .active } ∧ (∀ i, i ≠ k → t.circuit i = s.circuit i) ∧
      (t.port (s.circuit k).port).windows = (s.port (s.circuit k).port).windows ++
        (s.circuit k).windows.map (fun w => ⟨k, w.1, w.2⟩) ∧
      (∀ q, q ≠ (s.circuit k).port → t.port q = s.port q) ∧ KeepsBut [.ports, .fab, .twin] s t) ∧
  (∀ k s, (s.circuit k).st = .tearing →
    max (s.circuit k).endEpoch (s.circuit k).startEpoch ≤ s.epoch → Does (.circuitRemove k) s fun t =>
      t.circuit k = Circuit.empty ∧ (∀ i, i ≠ k → t.circuit i = s.circuit i) ∧
      (∀ w, w ∈ (t.port (s.circuit k).port).windows → w.ckt ≠ k) ∧
      (∀ q, q ≠ (s.circuit k).port → t.port q = s.port q) ∧ KeepsBut [.ports, .fab, .twin] s t)

/-- R15, R154, R412, R438: what the module does with an opcode it does not have. Rests on the model's choices of log
124. -/
def Obligations.UndefinedOpcodesCompleteMalformed : Prop :=
  (∀ h op s, definedOpcode clsReq op = false → ReqServed s h → ((arrived s h).police h 3).2 = false →
    Does (.undefinedOpcode (.fabric h) clsReq op) s fun t =>
      t.fab.unbound = (admitted s h 3).fab.unbound ++ [answerOf h 0x1B clsRsp cMalformed []] ∧
      KeepsBut [.fab, .ctrs] (admitted s h 3) t) ∧
  (∀ h cls op s, definedOpcode cls op = false → cls ≠ clsReq → h.dst = s.fabricId → s.srcAdmitted h.src = true →
    Does (.undefinedOpcode (.fabric h) cls op) s fun t => Counted s t 10 0 4 1 ∧ KeepsBut [.ctrs] s t) ∧
  (∀ c op s, definedCmd op = false → RslServed s c op → Does (.undefinedOpcode (.rsl c) 0 op) s fun t =>
      RslAnswered (afterOpen s c op) t c op cMalformed 0 [] ∧ KeepsBut (cplParts op) (afterOpen s c op) t)

/-- R183, R184, R187: LEASE_RENEW, and the ends of the lease states. Rests on the model's choices of log 3. -/
def Obligations.LeasesAreRenewedAndEnd : Prop :=
  (∀ v s, Reaches v 0x40 [1] 0 s →
    let r := reached v 0x40 s
    let h := r.viaHost v
    let n := r.viaEpoch v + r.cfgAt fLeasePeriod
    Mastered r → h < 4096 → ((r.lease h).st = .live ∨ (r.lease h).st = .grace) → Does (.leaseRenew v) s fun t =>
      t.lease h = { r.lease h with st := .live, endEpoch := n } ∧ (∀ i, i ≠ h → t.lease i = r.lease i) ∧
      Completes r t v 0x40 0x46 cOk n (extCplBody cOk 0 0 n (zeros 16)) [] ∧ KeepsBut (.pool :: answerParts) r t) ∧
  (∀ v s, Reaches v 0x40 [1] 0 s →
    let r := reached v 0x40 s
    let h := r.viaHost v
    Mastered r → h < 4096 → ((r.lease h).st = .none ∨ (r.lease h).st = .reclaim) → Does (.leaseRenew v) s fun t =>
      Completes r t v 0x40 0x46 cLeaseEnded 0 (extCplBody cLeaseEnded 0 0 0 (zeros 16)) [] ∧
      KeepsBut answerParts r t) ∧
  (∀ h s, (s.lease h).st = .live → (s.lease h).endEpoch ≤ s.epoch → Does (.leaseEnd h) s fun t =>
      t.lease h = { s.lease h with st := .grace, endEpoch := (s.lease h).endEpoch + 8 } ∧
      (∀ i, i ≠ h → t.lease i = s.lease i) ∧ KeepsBut [.pool, .twin] s t) ∧
  (∀ h s, (s.lease h).st = .grace → (s.lease h).endEpoch ≤ s.epoch → Does (.graceEnd h) s fun t =>
      (t.lease h).st = .reclaim ∧ t.gone h = true ∧
      KeepsBut [.fab, .pool, .coh, .coach, .stock, .repro, .mem, .twin, .sec, .rsl, .evs, .ctrs, .fresh] s t) ∧
  (∀ h s, (s.lease h).st = .reclaim → s.grantsOf h = [] →
        (∀ e, e ∈ s.pool.exts → e.2.ownedBy h = true → e.2.shared = true) → (∀ w, w ∈ s.pool.reclaimWait → w.1 ≠ h) →
    Does (.reclaimDone h) s fun t =>
      t.lease h = { s.lease h with st := .none, endEpoch := 0 } ∧ (∀ i, i ≠ h → t.lease i = s.lease i) ∧
      Raised s t 0x0402 sevInfo s.actDie (leBytes 2 h) ∧ KeepsBut [.pool, .twin, .evs, .ctrs] s t)

/-- R174, R175, R179, R184 to R186: extents are allocated, granted and released. Rests on the model's choices of log
74, 79, 81, 179 and 181. -/
def Obligations.ExtentsAreAllocatedGrantedAndReleased : Prop :=
  (∀ v kind rights len s, Reaches v 0x41 [1, 5] (BitVec.allOnes 32) s →
    let r := reached v 0x41 s
    let owner := r.viaHost v
    let e := lowestFree 0 (r.pool.exts.map (·.1))
    ∀ tenant u, Mastered r → r.joined = [] → kind ≤ 1 → 1 ≤ rights → rights ≤ 7 → len ≠ 0 → owner ≤ 4095 →
    r.tenantOf owner = some tenant → tenant ≤ 1023 → (∀ c, v = .rsl c → c.tenant = tenant) →
    r.decommissioned = false → r.tenantGran tenant + len ≤ Tab.get 0 r.pool.quotas tenant →
    r.boot.poolReady.isSome = true → r.lcRunning = false → (r.setSize = 1 ∨ r.pool.formEnded = true) →
    r.inReclaim owner = false → e ≤ 16383 → r.pool.grants.length < 65536 →
    r.place e kind tenant owner len r.allocMask = some u → Does (.extAlloc v kind rights len 0) s fun t =>
      t.ext e = u.ext e ∧ (t.ext e).st = .active ∧ (t.ext e).tenant = tenant ∧ (t.ext e).owner = owner ∧
      (t.ext e).lenGran = len ∧ (t.ext e).shared = decide (kind = 1) ∧ (t.ext e).mask = r.allocMask ∧
      (∀ i, i ≠ e → t.ext i = r.ext i) ∧ t.grant e owner = rights ∧
      (∀ i h, grantKey i h ≠ grantKey e owner → t.grant i h = r.grant i h) ∧
      ((r.lease owner).st = .none →
        t.lease owner = { r.lease owner with st := .live, endEpoch := r.epoch + r.cfgAt fLeasePeriod }) ∧
      ((r.lease owner).st ≠ .none → t.lease owner = r.lease owner) ∧
      Completes r t v 0x41 0x46 cOk 0 (extCplBody cOk r.allocMask.toNat e 0 (zeros 16)) [] ∧
      SameBytes r t ∧ KeepsBut ([.pool, .mem, .evs] ++ answerParts) r t) ∧
  (∀ v ext host rights s, Reaches v 0x42 [1, 5] (BitVec.allOnes 32) s →
    let r := reached v 0x42 s
    let x := r.ext ext
    Mastered r → r.joined = [] → ext ≤ 16383 → host ≤ 4095 → 1 ≤ rights → rights ≤ 7 → r.decommissioned = false →
    r.lcRunning = false → r.boot.poolReady.isSome = true → x.st = .active → r.notOwner v x = false →
    x.shared = true → r.isVersion ext = false → r.tenantOf host = some x.tenant → (x.sealed = true → bitOf rights 2 = false) →
    r.inReclaim host = false → (r.grant ext host ≠ 0 ∨ r.pool.grants.length < 65536) →
    Does (.extGrant v ext host rights 0) s fun t =>
      t.grant ext host = rights ∧ (∀ i h, grantKey i h ≠ grantKey ext host → t.grant i h = r.grant i h) ∧
      ((r.lease host).st = .none →
        t.lease host = { r.lease host with st := .live, endEpoch := r.epoch + r.cfgAt fLeasePeriod }) ∧
      ((r.lease host).st ≠ .none → t.lease host = r.lease host) ∧ t.pool.exts = r.pool.exts ∧
      Completes r t v 0x42 0x46 cOk 0 (extCplBody cOk x.mask.toNat ext 0 (zeros 16)) [] ∧
      KeepsBut (.pool :: answerParts) r t) ∧
  (∀ v ext host s, Reaches v 0x43 [1, 5] (BitVec.allOnes 32) s →
    let r := reached v 0x43 s
    let x := r.ext ext
    Mastered r → r.joined = [] → ext ≤ 16383 → host ≤ 4095 → x.st ≠ .free →
    (r.notOwner v x = false ∨ r.viaHost v = host) → r.isVersion ext = false → x.shared = true → r.grant ext host ≠ 0 →
    Does (.extRelease v ext host 0) s fun t =>
      t.grant ext host = 0 ∧ (∀ i h, grantKey i h ≠ grantKey ext host → t.grant i h = r.grant i h) ∧
      t.pool.exts = r.pool.exts ∧ Completes r t v 0x43 0x46 cOk 0 (extCplBody cOk 0 ext 0 (zeros 16)) [] ∧
      KeepsBut (.pool :: answerParts) r t) ∧
  (∀ v ext host s, Reaches v 0x43 [1, 5] (BitVec.allOnes 32) s →
    let r := reached v 0x43 s
    let x := r.ext ext
    Mastered r → ext ≤ 16383 → host ≤ 4095 → x.st ≠ .free → (r.notOwner v x = false ∨ r.viaHost v = host) →
    r.isVersion ext = false → r.grant ext host = 0 → Does (.extRelease v ext host 0) s fun t =>
      Completes r t v 0x43 0x46 cOk 0 (extCplBody cOk 0 ext 0 (zeros 16)) [] ∧ KeepsBut answerParts r t)

/-- R186, R189, R191 to R193: extents are withdrawn, drain and become FREE. Rests on the model's choices of log 73, 74
and 80. -/
def Obligations.WithdrawnExtentsDrainAndBecomeFree : Prop :=
  (∀ v ext s, Reaches v 0x44 [1, 5] (BitVec.allOnes 32) s →
    let r := reached v 0x44 s
    let x := r.ext ext
    Mastered r → r.joined = [] → ext ≤ 16383 → x.st = .active → r.notOwner v x = false →
    r.isVersion ext = false → r.boundUp x = false → Does (.extWithdraw v ext 0 0) s fun t =>
      t.ext ext = { x with st := .withdrawing } ∧ (∀ i, i ≠ ext → t.ext i = r.ext i) ∧
      Tab.get [] t.pool.withdrawers ext = Tab.get [] r.pool.withdrawers ext ++ [(v, 0x44)] ∧
      t.pool.grants = r.pool.grants ∧ t.fab = r.fab ∧ SameBytes r t ∧
      KeepsBut [.pool, .stock, .twin] r t) ∧
  (∀ v ext s, Reaches v 0x44 [1, 5] (BitVec.allOnes 32) s →
    let r := reached v 0x44 s
    let x := r.ext ext
    Mastered r → ext ≤ 16383 → x.st = .active → viaOperator v = true → r.isVersion ext = false → r.boundUp x = false →
    Does (.extWithdraw v ext 1 0) s fun t =>
      (t.ext ext).st = .withdrawing ∧ Tab.get false t.pool.forced ext = true ∧
      Tab.get [] t.pool.withdrawers ext = Tab.get [] r.pool.withdrawers ext ++ [(v, 0x44)] ∧
      KeepsBut [.fab, .pool, .coach, .stock, .mem, .twin, .sec, .rsl, .evs, .ctrs, .fresh] r t) ∧
  (∀ v ext force s, Reaches v 0x44 [1, 5] (BitVec.allOnes 32) s →
    let r := reached v 0x44 s
    Mastered r → ext ≤ 16383 → force ≤ 1 → (r.ext ext).st = .free → Does (.extWithdraw v ext force 0) s fun t =>
      Completes r t v 0x44 0x46 cRevoked 0 (extCplBody cRevoked 0 ext 0 (zeros 16)) [] ∧ KeepsBut answerParts r t) ∧
  (∀ ext s, s.extDrained ext = true →
    Does (.extentFree ext) s fun t =>
      t.ext ext = Ext.empty ∧ (∀ i, i ≠ ext → t.ext i = s.ext i) ∧ Tab.get [] t.pool.withdrawers ext = [] ∧
      KeepsBut [.boot, .fab, .pool, .repro, .mem, .twin, .sec, .rsl, .ctrs] s t) ∧
  (∀ ext s, s.extDrained ext = false → Does (.extentFree ext) s fun t => t = s)

/-- R174, R177, R178, R182, R183: the set's table, host assignment, quotas and the operator's queries. Rests on the
model's choices of log 77. -/
def Obligations.PoolTablesAreSetAndQueried : Prop :=
  (∀ v s, Reaches v 0x45 [1] 0 s →
    let r := reached v 0x45 s
    let value := r.pool.setGen + r.pool.master * two32
    Does (.setInfo v) s fun t =>
      Completes r t v 0x45 0x46 cOk value (extCplBody cOk 0 0 value
        ((List.range 8).flatMap fun i => leBytes 2 (if i < r.setSize then r.memberId i else 0))) [] ∧
      KeepsBut answerParts r t) ∧
  (∀ c host tenant s, RslServed s c 0x130 → host ≤ 4095 → tenant ≤ 1023 → s.joined = [] →
    s.tenantOf host ≠ some tenant → (s.lease host).st = .none →
    RslRuns (.hostAssign c host tenant 1) s c 0x130 0 [] [.pool, .sec, .twin, .fab] fun t =>
      t.tenantOf host = some tenant ∧ (t.lease host).st = .none ∧ (∀ i, i ≠ host → t.lease i = s.lease i) ∧
      (∀ x, x ∈ t.sec.sessions → x.host ≠ host)) ∧
  (∀ c host tenant s, RslServed s c 0x130 → host ≤ 4095 → tenant ≤ 1023 → s.joined = [] →
    s.tenantOf host = some tenant → (s.lease host).st = .none →
    RslRuns (.hostAssign c host tenant 0) s c 0x130 0 [] [.pool, .sec, .twin, .fab] fun t =>
      t.tenantOf host = none ∧ (∀ i, i ≠ host → t.lease i = s.lease i) ∧
      (∀ x, x ∈ t.sec.sessions → x.host ≠ host)) ∧
  (∀ c host tenant assign s, RslServed s c 0x130 → host ≤ 4095 → tenant ≤ 1023 →
    ((assign = 0 ∧ s.tenantOf host ≠ some tenant) ∨
      (assign = 1 ∧ s.tenantOf host ≠ some tenant ∧ (s.lease host).st ≠ .none)) →
    Does (.hostAssign c host tenant assign) s fun t =>
      RslAnswered (afterOpen s c 0x130) t c 0x130 cUnsupported 0 [] ∧
      KeepsBut (cplParts 0x130) (afterOpen s c 0x130) t) ∧
  (∀ c tenant quota s, RslServed s c 0x131 → tenant ≤ 1023 → quota ≤ 3686400 →
    RslRuns (.tenantSet c tenant quota) s c 0x131 0 [] [.pool, .twin] fun t =>
      Tab.get 0 t.pool.quotas tenant = quota ∧
      (∀ i, i ≠ tenant → Tab.get 0 t.pool.quotas i = Tab.get 0 s.pool.quotas i) ∧
      t.pool = { s.pool with quotas := t.pool.quotas }) ∧
  (∀ c ext s, RslServed s c 0x133 → ext ≤ 16383 →
    RslRuns (.extQuery c ext) s c 0x133 0 (leBytes 32 (extEntry s ext)) [] fun t => t.rsl.kept = (afterOpen s c 0x133).rsl.kept) ∧
  (∀ c host s, RslServed s c 0x134 → host ≤ 4095 →
    RslRuns (.leaseQuery c host) s c 0x134 0 (leBytes 16 (leaseRecord s host)) [] fun t =>
      t.rsl.kept = (afterOpen s c 0x134).rsl.kept)

/-- R199, R200, R202, R203: the master forms the set, its orders are carried out and answered. Rests on the model's
choices of log 75, 76, 77, 169, 170 and 171. -/
def Obligations.SetFormsAndOrdersAreCarriedOut : Prop :=
  (∀ e s, s.boot.poolReady = some e → s.isMaster = true → s.setSize ≠ 1 → (s.epoch - e) % 16 = 0 → s.serving = true →
    Does .setJoinSend s fun t =>
      t.fab.unbound = s.fab.unbound ++
        (((List.range s.setSize).filter fun i => decide (i ≠ s.setIndex ∧ (s.member i).st = .absent)).map fun i =>
          messageTo (s.memberId i) 0 0x4C clsReq 0
            (leBytes 4 s.pool.setGen ++ (leBytes 1 s.setSize ++ leBytes 48 s.runDigest))) ∧
      KeepsBut [.fab] s t) ∧
  (∀ h gen i size digest s, SetReqServed s h gen i → h.src = s.cfgIx fMemberId 0 →
    let r := arrived s h
    let code := if size = r.setSize ∧ digest = r.runDigest then cOk else cUnsupported
    Does (.setJoin h gen size digest) s fun t =>
      t.fab.unbound = r.fab.unbound ++ [{ messageTo (r.memberId i) h.tag 0x4D clsRsp 0
        (leBytes 4 r.pool.setGen ++ (leBytes 1 r.setIndex ++ leBytes 1 r.setSize ++ leBytes 1 code)) with
          jidx := some h.jidx }] ∧
      KeepsBut [.fab] r t) ∧
  (∀ h gen i s, SetMsgGood s h gen i → (s.member i).st = .absent → Does (.setJoinAck h gen i s.setSize cOk) s fun t =>
      t.member i = ⟨.joined, 0, s.epoch⟩ ∧ t.pool.changed = s.pool.leases.map (·.1) ∧
      KeepsBut [.fab, .pool, .twin, .evs, .ctrs] s t) ∧
  (∀ h gen i index size code s, SetMsgGood s h gen i → (s.member i).st = .absent →
    (code ≠ cOk ∨ index ≠ i ∨ size ≠ s.setSize) → Does (.setJoinAck h gen index size code) s fun t =>
      Raised s t 0x0403 sevWarning s.actDie (leBytes 2 h.src ++ leBytes 4 gen) ∧ KeepsBut [.evs, .ctrs] s t) ∧
  (∀ e s, s.boot.poolReady = some e → s.isMaster = true → e + s.cfgAt fFormEpochs ≤ s.epoch →
    Does .setFormationEnd s fun t => t.pool = { s.pool with formEnded := true } ∧ KeepsBut [.pool] s t) ∧
  (∀ h gen i e g w s, SetReqServed s h gen i → i = s.pool.master → w ≠ 0 →
    let r := arrived s h
    Does (.setCmd h gen (.grant e g w)) s fun t =>
      t.grant e g = w ∧ t.pool = { r.pool with grants := t.pool.grants } ∧
      t.fab.unbound = r.fab.unbound ++ [{ messageTo h.src h.tag 0x4B clsRsp 0
        (leBytes 4 r.pool.setGen ++ leBytes 1 cOk) with jidx := some h.jidx }] ∧ KeepsBut [.fab, .pool, .twin] r t) ∧
  (∀ h gen i o s, SetReqServed s h gen i → i ≠ s.pool.master → Does (.setCmd h gen o) s fun t =>
      t = (arrived s h).journalOut h.jidx) ∧
  (∀ h gen i x o s, SetMsgGood s h gen i → s.pool.orders = [⟨x, [⟨i, h.tag, o⟩], [], none⟩] →
    Does (.setDone h gen cOk) s fun t =>
      t.pool = { s.pool with orders := [] } ∧ KeepsBut [.pool] s t) ∧
  (∀ h gen i x o w f held s, SetMsgGood s h gen i → s.pool.orders = [⟨x, ⟨i, h.tag, o⟩ :: w, f, held⟩] →
    ⟨i, h.tag, o⟩ ∉ w →
    (w ≠ [] → Does (.setDone h gen cOk) s fun t =>
      t.pool = { s.pool with orders := [⟨x, w, f, held⟩] } ∧ KeepsBut [.pool] s t) ∧
    (∀ code, code ≠ cOk → orderRefusable o = true → w ≠ [] → Does (.setDone h gen code) s fun t =>
      t.pool = { s.pool with orders := [⟨x, w, f ++ [i], held⟩] } ∧ KeepsBut [.pool] s t) ∧
    (∀ code, code ≠ cOk → orderRefusable o = false → Does (.setDone h gen code) s fun t =>
      t.pool.orders = [⟨x, w ++ [⟨i, s.pool.orderTag, o⟩], f, held⟩] ∧
      t.pool = { s.pool with orders := t.pool.orders, orderTag := t.pool.orderTag } ∧
      t.fab.unbound = s.fab.unbound ++ [messageTo (s.memberId i) s.pool.orderTag 0x4A clsReq 0
        (leBytes 4 s.pool.setGen ++ orderBytes o)] ∧ KeepsBut [.fab, .pool] s t))

/-- R201, R203, R205, R206: deltas, the loss of a member or of the master, and a new master. Rests on the model's
choices of log 75, 78, 172, 173 and 174. -/
def Obligations.SetFollowsDeltasAndLosses : Prop :=
  (∀ h gen i epoch s, SetReqServed s h gen i → i = s.pool.master → s.isMaster = false → s.pool.lastDelta ≤ epoch →
    h.opData.getLsbD 0 = true →
    let r := arrived s h
    Does (.setDelta h gen epoch []) s fun t =>
      t.pool = { r.pool with changed := [], lastDeltaAt := s.epoch, lastDelta := epoch } ∧
      t.fab.unbound = r.fab.unbound ++ [{ messageTo (r.memberId i) 0 0x49 clsRsp 0
        (leBytes 4 r.pool.setGen ++ leBytes 8 epoch) with jidx := some h.jidx }] ∧ KeepsBut [.fab, .pool, .twin] r t) ∧
  (∀ h gen i epoch x s, SetReqServed s h gen i → i = s.pool.master → s.isMaster = false → s.pool.lastDelta ≤ epoch →
    lstateOf x.lstate = .live →
    let r := arrived s h
    Does (.setDelta h gen epoch [x]) s fun t =>
      t.lease x.host = ⟨x.assigned, .live, x.tenant, x.endEpoch⟩ ∧
      (∀ g, g ≠ x.host → t.lease g = r.lease g) ∧ t.gone x.host = false ∧
      KeepsBut [.fab, .pool, .twin] r t) ∧
  (∀ h gen i epoch s, SetMsgGood s h gen i → (s.member i).st = .joined → s.pool.reclaimWait = [] →
    Does (.setAck h gen epoch) s fun t =>
      t.member i = { s.member i with ackEpoch := epoch, lastAckAt := s.epoch } ∧
      (∀ j, j ≠ i → t.member j = s.member j) ∧ t.pool = { s.pool with members := t.pool.members } ∧
      KeepsBut [.pool, .twin] s t) ∧
  (∀ n s, s.isMaster = true → n ≠ s.setIndex → (s.member n).st = .joined →
    (s.member n).lastAckAt + s.cfgAt fLossEpochs ≤ s.epoch → s.pool.orders = [] → s.pool.reclaimWait = [] →
    (∀ e, e ∈ s.pool.exts → e.2.mask.getLsbD n = false) → Does (.setMemberLoss n) s fun t =>
      t.member n = { s.member n with st := .lost } ∧ (∀ j, j ≠ n → t.member j = s.member j) ∧
      Raised s t 0x0404 sevWarning s.actDie (leBytes 1 n) ∧ KeepsBut [.pool, .twin, .evs, .ctrs] s t) ∧
  (∀ n e x s, s.isMaster = true → n ≠ s.setIndex → (s.member n).st = .joined →
    (s.member n).lastAckAt + s.cfgAt fLossEpochs ≤ s.epoch → s.pool.orders = [] → s.pool.reclaimWait = [] →
    s.pool.exts = [(e, x)] → x.st ≠ .free → x.mask.getLsbD n = true → Does (.setMemberLoss n) s fun t =>
      (t.ext e).damaged = true ∧ t.member n = { s.member n with st := .lost } ∧
      KeepsBut [.fab, .pool, .twin, .evs, .ctrs] s t) ∧
  (∀ s, s.isMaster = false → s.pool.ready = true → s.pool.degraded = false →
    s.pool.lastDeltaAt + s.cfgAt fLossEpochs ≤ s.epoch → Does .setMasterLoss s fun t =>
      t.pool = { s.pool with degraded := true } ∧
      Raised s t 0x0405 sevWarning s.actDie (leBytes 1 s.pool.master ++ leBytes 4 s.pool.setGen) ∧
      (∃ ms, t.fab.unbound = s.fab.unbound ++ ms ∧ ms.map (·.dst) = s.leaseholders) ∧
      KeepsBut [.fab, .pool, .twin, .evs, .ctrs] s t) ∧
  (∀ c m lost s, RslServed s c 0x132 → m ≤ 7 → lost.getLsbD m = false → s.pool.masterPending = none →
    RslRuns (.setMaster c m lost (nextSetGen s.pool.setGen)) s c 0x132 0 [] [.pool, .twin] fun t =>
      t.pool = { s.pool with masterPending := some (m, lost, nextSetGen s.pool.setGen) }) ∧
  (∀ c m lost gen s, RslServed s c 0x132 →
    (7 < m ∨ gen ≠ nextSetGen s.pool.setGen ∨ lost.getLsbD m = true) → Does (.setMaster c m lost gen) s fun t =>
      RslAnswered (afterOpen s c 0x132) t c 0x132 cMalformed 0 [] ∧
      KeepsBut (cplParts 0x132) (afterOpen s c 0x132) t)

/-- R37, R180, R208, R213, R320, R321, R439: loads, stores and atomics on lines no domain shares. Rests on the model's
choices of log 7, 9, 24, 83 and 168. -/
def Obligations.UnboundLinesAreReadAndQueued : Prop :=
  (∀ (s : State) (host addr need : Nat),
    let e := addrExt addr
    let x := s.ext e
    let g := addrOff addr / 2 ^ 21
    let ln := lineOfOff x (addrOff addr)
    let l := s.lease host
    (2 ^ 57 ≤ addr → s.access host addr need = .fail cMalformed 1) ∧
    (addr < 2 ^ 57 → l.assigned = false → s.access host addr need = .fail cRights 2) ∧
    (addr < 2 ^ 57 → l.assigned = true → (l.st = .grace ∨ l.st = .reclaim) →
      s.access host addr need = .fail cLeaseEnded 3) ∧
    (addr < 2 ^ 57 → l.assigned = true → l.st ≠ .grace → l.st ≠ .reclaim → (x.st = .free ∨ x.st = .withdrawing) →
      s.access host addr need = .fail cRevoked 4) ∧
    (addr < 2 ^ 57 → l.assigned = true → l.st ≠ .grace → l.st ≠ .reclaim → x.st = .active →
      s.grant e host &&& need ≠ need → s.access host addr need = .fail cRights 5) ∧
    (addr < 2 ^ 57 → l.assigned = true → l.st ≠ .grace → l.st ≠ .reclaim → x.st = .active →
      s.grant e host &&& need = need → x.lenGran ≤ g → s.access host addr need = .fail cRights 6) ∧
    (addr < 2 ^ 57 → l.assigned = true → l.st ≠ .grace → l.st ≠ .reclaim → x.st = .active →
      s.grant e host &&& need = need → g < x.lenGran → granMember x e g ≠ some s.setIndex →
      s.access host addr need = .fail cMalformed 7) ∧
    (addr < 2 ^ 57 → l.assigned = true → l.st ≠ .grace → l.st ≠ .reclaim → x.st = .active →
      s.grant e host &&& need = need → g < x.lenGran → granMember x e g = some s.setIndex →
      s.access host addr need =
        if s.pool.lostHere || s.stackDown (stackOf (s.phys (ln / 1024))) then .fail cPoison 8 else .ok e ln)) ∧
  (∀ h addr e line s, HomeReached s h 0 [2] 0xFF → addr % 64 = 0 →
    let r := admitted s h 0
    let ppn := r.phys (line / 1024)
    r.accessSealed h.src h.sess addr needR false = .ok e line → (r.ext (addrExt addr)).domain = none → e = addrExt addr →
    r.guarded addr = none → r.obeys (r.hubOfLine line) = true → r.stackDown (stackOf ppn) = false →
    (r.readsClosed ppn (line % 1024) = true ∨ (r.lineMeta ppn (line % 1024)).valid = false ∨
      (r.lineMeta ppn (line % 1024)).poison = false) →
    Does (.rdNc h addr 0 []) s fun t =>
      Replies r t h 0x20 0 (lineBytes (r.lineReads ppn (line % 1024))) ∧ SameBytes r t ∧ t.mem.lines = r.mem.lines ∧
      KeepsBut [.fab, .mem] r t) ∧
  (∀ h addr e line s, HomeReached s h 0 [2] 0xFF → addr % 64 = 0 →
    let r := admitted s h 0
    let ppn := r.phys (line / 1024)
    r.accessSealed h.src h.sess addr needR false = .ok e line → (r.ext (addrExt addr)).domain = none → e = addrExt addr →
    r.guarded addr = none → r.obeys (r.hubOfLine line) = true → r.stackDown (stackOf ppn) = false →
    r.readsClosed ppn (line % 1024) = false →
    (r.lineMeta ppn (line % 1024)).valid = true → (r.lineMeta ppn (line % 1024)).poison = true →
    Does (.rdNc h addr 0 []) s fun t =>
      Replies r t h 0x1B cPoison [] ∧ SameBytes r t ∧ KeepsBut [.fab, .mem, .ctrs] r t) ∧
  (∀ h addr err e line s, HomeReached s h 0 [2] 0xFF → addr % 64 = 0 →
    let r := admitted s h 0
    r.accessSealed h.src h.sess addr needR false = .ok e line → (r.ext (addrExt addr)).domain = none → e = addrExt addr →
    r.guarded addr = none → r.hubGone (r.hubOfLine line) = false → r.obeys (r.hubOfLine line) = false →
    Does (.rdNc h addr 0 err) s fun t => Counted r t 10 0 (21 + r.hubOfLine line) 1 ∧ KeepsBut [.ctrs] r t) ∧
  (∀ h addr code check s, HomeReached s h 0 [2] 0xFF → addr % 64 = 0 →
    let r := admitted s h 0
    r.accessSealed h.src h.sess addr needR false = .fail code check → (r.ext (addrExt addr)).domain = none →
    Does (.rdNc h addr 0 []) s fun t =>
      Replies r t h 0x1B code (retryBody code (r.epoch + 1)) ∧ KeepsBut [.fab, .ctrs] r t) ∧
  (∀ h addr mask data err e line s, HomeReached s h 1 [6] 0xFF → addr % 64 = 0 → mask ≠ 0 →
    let r := admitted s h 1
    r.accessSealed h.src h.sess addr needW false = .ok e line → (r.ext (addrExt addr)).domain = none → e = addrExt addr →
    r.guarded addr = none → Does (.wrNc h addr mask data err) s fun t =>
      t.hubQueue (r.hubOfLine line) = r.hubQueue (r.hubOfLine line) ++ [.store h e line mask data err] ∧
      t.mem = { r.mem with hubQueue0 := t.mem.hubQueue0, hubQueue1 := t.mem.hubQueue1 } ∧
      KeepsBut [.mem, .ctrs] r t) ∧
  (∀ h addr operand err e line s, HomeReached s h 1 [4] 0x1FFF → atomicBad h addr 0 operand = false →
    let r := admitted s h 1
    r.accessSealed h.src h.sess addr needA true = .ok e line → (r.ext (addrExt addr)).domain = none → e = addrExt addr →
    r.guarded addr = none → Does (.atomic h addr 0 operand err) s fun t =>
      t.hubQueue (r.hubOfLine line) =
        r.hubQueue (r.hubOfLine line) ++ [.atomic h e line (addr % 64) operand err] ∧
      t.mem = { r.mem with hubQueue0 := t.mem.hubQueue0, hubQueue1 := t.mem.hubQueue1 } ∧
      KeepsBut [.mem, .ctrs] r t)

/-- R38, R222, R322, R323, R341, R363: a hub takes the oldest write of its queue; the write is done, recorded and
answered, and no other line changes. Rests on the model's choices of log 9 and 83. -/
def Obligations.HubsCarryOutQueuedWrites : Prop :=
  (∀ hub h e l mask data ws s, hub ≤ 1 → s.hubQueue hub = .store h e l mask data [] :: ws → s.obeys hub = true →
    s.tok.silent = false →
    let ppn := s.phys (l / 1024)
    let line := l % 1024
    s.mayAccept hub (.store h e l mask data []) = true → s.stackDown (stackOf ppn) = false →
    (s.readsClosed ppn line = true ∨ (s.lineMeta ppn line).valid = false ∨ (s.lineMeta ppn line).poison = false) →
    Does (.hubWriteAccepted hub) s fun t =>
      t.lineReads ppn line = (if mask = fullMask then data else mergeLine mask data (s.lineReads ppn line)) ∧
      (t.lineMeta ppn line).valid = true ∧ (t.lineMeta ppn line).poison = false ∧ LinesKept ppn line s t ∧
      t.hubQueue hub = ws ∧ Replies s t h 0x1B cOk [] ∧
      (⟨h.jidx, h.src, h.tag, cOk, false, false, 0⟩ : Commit) ∈ (if hub = 0 then t.mem.commit0 else t.mem.commit1) ∧
      KeepsBut [.fab, .mem] s t) ∧
  (∀ hub h e l off operand ws s, hub ≤ 1 → s.hubQueue hub = .atomic h e l off operand [] :: ws → s.obeys hub = true →
    s.tok.silent = false →
    let ppn := s.phys (l / 1024)
    let line := l % 1024
    s.mayAccept hub (.atomic h e l off operand []) = true → s.stackDown (stackOf ppn) = false →
    (s.readsClosed ppn line = true ∨ (s.lineMeta ppn line).valid = false ∨ (s.lineMeta ppn line).poison = false) →
    Does (.hubWriteAccepted hub) s fun t =>
      t.lineReads ppn line = atomicNew h off operand (s.lineReads ppn line) ∧ LinesKept ppn line s t ∧
      t.hubQueue hub = ws ∧ Replies s t h 0x1C cOk (leBytes 16 (atomicOld h off (s.lineReads ppn line))) ∧
      KeepsBut [.fab, .mem] s t) ∧
  (∀ hub w ws s, hub ≤ 1 → s.hubQueue hub = w :: ws → s.hubGone hub = false → s.obeys hub = false →
    Does (.hubWriteAccepted hub) s fun t =>
      t.hubQueue hub = ws ∧ Counted s t 10 0 (21 + hub) 1 ∧ SameBytes s t ∧ KeepsBut [.mem, .ctrs] s t) ∧
  (∀ hub h e l mask data err ws s, hub ≤ 1 → s.hubQueue hub = .store h e l mask data err :: ws →
    (s.hubGone hub = true ∨ s.obeys hub = true) → s.tok.silent = false →
    s.mayAccept hub (.store h e l mask data err) = true → s.stackDown (stackOf (s.phys (l / 1024))) = true →
    Does (.hubWriteAccepted hub) s fun t =>
      t.hubQueue hub = ws ∧ Replies s t h 0x1B cPoison [] ∧ SameBytes s t ∧ KeepsBut [.fab, .mem, .ctrs] s t)

/-- R208, R213, R214, R216, R220: requests for shared lines open a transaction, or are told to retry. Rests on the
model's choices of log 86, 87 and 88. -/
def Obligations.SharedLineRequestsOpenTransactions : Prop :=
  (∀ h addr e line d err s, HomeReached s h 0 [2] 0xFF → addr % 64 = 0 →
    let r := admitted s h 0
    r.accessSealed h.src h.sess addr needR false = .ok e line → e = addrExt addr → (r.ext e).domain = some d →
    (r.domain d).st = .up → r.guarded addr = none → LineFree r (addr / 64) → Does (.rdNc h addr 0 err) s fun t =>
      Opens r t (newTracker .rdNc h addr e d 0 0 0 0 []) ∧ KeepsBut [.coh, .ctrs] r t) ∧
  (∀ h addr e line d s, HomeReached s h 0 [2] 0xFF → addr % 64 = 0 →
    let r := admitted s h 0
    r.accessSealed h.src h.sess addr needR true = .ok e line → e = addrExt addr → (r.ext e).domain = some d →
    (r.domain d).st = .up → ((r.domain d).slotOf h.src).isSome = true → r.guarded addr = none →
    LineFree r (addr / 64) → Does (.rdShared h addr 0) s fun t =>
      Opens r t (newTracker .rdShared h addr e d 0 0 0 0 []) ∧ KeepsBut [.coh, .ctrs] r t) ∧
  (∀ h addr e line d s, HomeReached s h 0 [2] 0xFF → addr % 64 = 0 →
    let r := admitted s h 0
    r.accessSealed h.src h.sess addr (needR + needW) true = .ok e line → e = addrExt addr →
    (r.ext e).domain = some d → (r.domain d).st = .up → ((r.domain d).slotOf h.src).isSome = true →
    r.guarded addr = none → LineFree r (addr / 64) → Does (.rdOwn h addr 0) s fun t =>
      Opens r t (newTracker .rdOwn h addr e d 0 0 0 0 []) ∧ KeepsBut [.coh, .ctrs] r t) ∧
  (∀ h addr e line d s, HomeReached s h 0 [2] 0xFF → addr % 64 = 0 →
    let r := admitted s h 0
    r.accessSealed h.src h.sess addr (needR + needW) true = .ok e line → e = addrExt addr →
    (r.ext e).domain = some d → (r.domain d).st = .up → ((r.domain d).slotOf h.src).isSome = true →
    r.guarded addr = none → r.lineBusy (addr / 64) = true → r.starveEntry (addr / 64) = none →
    retryOf h < r.cfgAt fStarveRetries → Does (.rdOwn h addr 0) s fun t =>
      Replies r t h 0x1A (retryOf h + r.nakWait (retryOf h) false * 65536) [] ∧ KeepsBut [.fab, .ctrs] r t) ∧
  (∀ h addr e line s, HomeReached s h 0 [2] 0xFF → addr % 64 = 0 →
    let r := admitted s h 0
    r.accessSealed h.src h.sess addr (needR + needW) true = .ok e line → e = addrExt addr →
    (r.ext e).domain = none → Does (.rdOwn h addr 0) s fun t =>
      Replies r t h 0x1B cUnsupported [] ∧ KeepsBut [.fab, .ctrs] r t) ∧
  (∀ h addr mask data err e line d s, HomeReached s h 1 [6] 0xFF → addr % 64 = 0 → mask ≠ 0 →
    let r := admitted s h 1
    r.accessSealed h.src h.sess addr needW false = .ok e line → e = addrExt addr → (r.ext e).domain = some d →
    (r.domain d).st = .up → r.guarded addr = none → LineFree r (addr / 64) →
    Does (.wrNc h addr mask data err) s fun t =>
      Opens r t (newTracker .wrNc h addr e d mask data 0 0 []) ∧ KeepsBut [.coh, .ctrs] r t) ∧
  (∀ h addr operand err e line d s, HomeReached s h 1 [4] 0x1FFF → atomicBad h addr 0 operand = false →
    let r := admitted s h 1
    r.accessSealed h.src h.sess addr needA true = .ok e line → e = addrExt addr → (r.ext e).domain = some d →
    (r.domain d).st = .up → r.guarded addr = none → LineFree r (addr / 64) →
    Does (.atomic h addr 0 operand err) s fun t =>
      Opens r t (newTracker .atomic h addr e d 0 0 operand 0 []) ∧ KeepsBut [.coh, .ctrs] r t) ∧
  (∀ h addr data e d s, AnswerReached s h [6] → addr % 64 = 0 →
    let r := arrived s h
    r.recorded h = none → AnswerPasses r h addr e d → r.awaiting (addr / 64) h.src = none →
    r.lineBusy (addr / 64) = false → r.reserveUsed 2 < 256 →
    Does (.wbDirty h addr fullMask data) s fun t =>
      Opens r t (newTracker .wbDirty h addr e d fullMask data 0 2 [h.jidx]) ∧ KeepsBut [.coh, .twin, .ctrs] r t) ∧
  (∀ h addr e d s, AnswerReached s h [2] → addr % 64 = 0 →
    let r := arrived s h
    AnswerPasses r h addr e d → r.lineBusy (addr / 64) = false →
    r.reserveUsed 2 < 256 → Does (.evict h addr 0) s fun t =>
      Opens r t (newTracker .evict h addr e d 0 0 0 2 []) ∧ KeepsBut [.coh, .ctrs] r t)

/-- R213, R215, R216, R221, R227: transactions read their line, snoop, are answered, and end or run out. Rests on the
model's choices of log 30, 85 and 89. -/
def Obligations.TransactionsSnoopAnswerAndEnd : Prop :=
  (∀ id x s, s.tracker id = some x → x.st = .read → s.attended = true →
    let l := s.lineAt (x.line * 64)
    let ppn := s.phys (l / 1024)
    s.obeys (s.hubOfLine l) = true →
    s.stackDown (stackOf ppn) = false → s.readsClosed ppn (l % 1024) = true → x.kind = .rdOwn → s.reqSlot x ≤ 64 →
    Does (.homeLineReadDone id []) s fun t =>
      t.hubQueue (s.hubOfLine l) = s.hubQueue (s.hubOfLine l) ++ [.home id l 0 (dirOwned (s.reqSlot x))] ∧
      t.coh.trackers = s.coh.trackers.map (fun y => if y.id = id then { x with st := .write, cur := some 0, dir := 0 } else y) ∧
      SameBytes s t ∧ KeepsBut [.coh, .mem, .ctrs] s t) ∧
  (∀ id x m host s, s.tracker id = some x → x.st = .read → s.attended = true →
    let l := s.lineAt (x.line * 64)
    let ppn := s.phys (l / 1024)
    s.obeys (s.hubOfLine l) = true →
    s.stackDown (stackOf ppn) = false → s.readsClosed ppn (l % 1024) = false →
    s.lineMeta ppn (l % 1024) = ⟨true, false, dirOwned m⟩ → m < 64 → x.kind = .wrNc →
    ((s.domain x.domain).members.filter fun y => decide (y.1 = m)) = [(m, host)] →
    Does (.homeLineReadDone id []) s fun t =>
      (∃ y, t.fab.unbound = s.fab.unbound ++ [y] ∧ y.dst = host ∧ y.opcode = 0x10 ∧ y.cls = clsSnp ∧
        y.body = snoopBody x.line x.domain (s.domain x.domain).dgen) ∧
      (∀ y, t.tracker id = some y → y.st = .snoop ∧ y.cur = some (s.lineReads ppn (l % 1024)) ∧
        y.snoops.length = x.snoops.length + 1) ∧ SameBytes s t ∧ KeepsBut [.fab, .coh, .mem, .ctrs] s t) ∧
  (∀ h s, AnswerServed s h →
    let r := answerIn s h
    r.snooped h = none → Does (.snpAck h) s fun t =>
      t.twin = (r.journalOut h.jidx).twin ∧ Counted r t 10 0 4 1 ∧ KeepsBut [.twin, .ctrs] r t) ∧
  (∀ h x s, AnswerServed s h →
    let r := answerIn s h
    r.snooped h = some x → formOk h [1] 0x3 = true →
    let y := x.answer h (h.opData.getLsbD 1)
    (y.snoops.any fun n => !n.answered || n.wbPending) = true → Does (.snpAck h) s fun t =>
      t.coh.trackers = r.coh.trackers.map (fun z => if z.id = x.id then y else z) ∧ KeepsBut [.coh] r t) ∧
  (∀ h x addr data s, AnswerServed s h →
    let r := answerIn s h
    r.snooped h = some x → formOk h [6] 0x1 = true → addr / 64 = x.line → addr % 64 = 0 → addr < 2 ^ 57 →
    let y := { x.answer h false with cur := some data, fromMember := true }
    (y.snoops.any fun n => !n.answered || n.wbPending) = true →
    Does (.snpData h addr x.domain (r.domain x.domain).dgen 0 data) s fun t =>
      t.coh.trackers = r.coh.trackers.map (fun z => if z.id = x.id then y else z) ∧ KeepsBut [.coh] r t) ∧
  (∀ h x addr data s, AnswerServed s h →
    let r := answerIn s h
    r.snooped h = some x → formOk h [6] 0x1 = true → addr / 64 = x.line → addr % 64 = 0 → addr < 2 ^ 57 → x.st = .snoop →
    x.kind = .rdOwn → ((x.answer h false).snoops.all fun n => n.answered && !n.wbPending) = true →
    Does (.snpData h addr x.domain (r.domain x.domain).dgen 0 data) s fun t =>
      let l := r.lineAt (x.line * 64)
      t.hubQueue (r.hubOfLine l) = r.hubQueue (r.hubOfLine l) ++ [.home x.id l data (dirOwned (r.reqSlot x))] ∧
      SameBytes r t ∧ KeepsBut [.coh, .mem, .ctrs] r t) ∧
  (∀ h x s, AnswerServed s h →
    let r := answerIn s h
    (r.coh.trackers.find? fun y => decide (y.st = .waitAck ∧ y.hdr.src = h.src ∧ y.hdr.tag = h.tag)) = some x →
    formOk h [1] 0 = true → Does (.grantAck h) s fun t =>
      t.coh.trackers = r.coh.trackers.filter (fun y => decide (y.id ≠ x.id)) ∧ KeepsBut [.coh, .twin] r t) ∧
  (∀ line s, Does (.starvationEntryTimeout line) s fun t =>
      (∀ e, e ∈ t.coh.starve ↔ e ∈ s.coh.starve ∧
        ¬ (e.line = line ∧ e.lastRetry + ((s.cfgAt fNakMax + 4095) / 4096 + 2) ≤ s.epoch)) ∧
      t.coh = { s.coh with starve := t.coh.starve } ∧ KeepsBut [.coh] s t) ∧
  (∀ id x e s, s.tracker id = some x → x.st = .waitAck → x.ackBoundAt = some e → e + s.cfgAt fResponse ≤ s.epoch →
    (s.domain x.domain).st = .up → Does (.cohDeadlineExpiry id) s fun t =>
      t.domain x.domain = { s.domain x.domain with st := .down, cause := 1 } ∧
      (∀ y, y ∈ t.coh.trackers → y.domain ≠ x.domain) ∧
      KeepsBut [.fab, .pool, .coh, .coach, .twin, .sec, .rsl, .evs, .ctrs] s t)

/-- R225 to R228, R384, R386: coherence domains are created, filled, bound, taken down, reset and freed. Rests on the
model's choices of log 76, 89 and 138. -/
def Obligations.DomainsAreManagedOverTheServiceLink : Prop :=
  (∀ c tenant s, RslServed s c 0x140 → Mastered s → s.joined = [] → s.rootWaits = false → tenant ≤ 1023 →
    let d := lowestFree 0 (s.coh.domains.map (·.1))
    d ≤ 2047 → RslRuns (.cohDomainCreate c tenant) s c 0x140 d [] [.coh, .mem, .twin, .fresh, .sec, .fab] fun t =>
      t.domain d = ⟨.up, tenant, 0, 1, []⟩ ∧ (∀ i, i ≠ d → t.domain i = s.domain i) ∧
      (Tab.get none t.mem.keys (1024 + d)).isSome = true ∧ t.fresh = s.fresh + 1 ∧ SameBytes s t) ∧
  (∀ c d index host s, RslServed s c 0x141 → Mastered s → s.joined = [] → d ≤ 2047 → index ≤ 63 → host ≤ 4095 →
    let x := s.domain d
    Tab.get none x.slots index = none → x.slotOf host = none → x.st ≠ .free → s.tenantOf host = some x.tenant →
    RslRuns (.cohMemberAdd c d index host) s c 0x141 0 [] [.coh, .twin] fun t =>
      Tab.get none (t.domain d).slots index = some host ∧
      t.domain d = { x with slots := (t.domain d).slots } ∧ (∀ i, i ≠ d → t.domain i = s.domain i)) ∧
  (∀ c d index s, RslServed s c 0x142 → Mastered s → s.joined = [] → d ≤ 2047 → index ≤ 63 →
    let x := s.domain d
    x.st = .down → RslRuns (.cohMemberRemove c d index) s c 0x142 0 [] [.coh, .twin] fun t =>
      Tab.get none (t.domain d).slots index = none ∧
      t.domain d = { x with slots := (t.domain d).slots } ∧ (∀ i, i ≠ d → t.domain i = s.domain i)) ∧
  (∀ c ext d s, RslServed s c 0x143 → Mastered s → s.joined = [] → ext ≤ 16383 → d ≤ 2047 →
    let x := s.ext ext
    x.st = .active → x.shared = true → x.sealed = false → x.domain = none → x.tenant = (s.domain d).tenant →
    (s.domain d).st = .up → s.holdCount ext = 0 →
    RslRuns (.cohExtBind c ext d) s c 0x143 0 [] [.pool, .mem, .twin] fun t =>
      t.ext ext = { x with domain := some d, key := 1024 + d } ∧ (∀ i, i ≠ ext → t.ext i = s.ext i) ∧
      (∀ i, i < x.localGran * 32 → t.pageValid (s.phys (x.base + i)) = false)) ∧
  (∀ c ext d s, RslServed s c 0x144 → Mastered s → s.joined = [] → ext ≤ 16383 →
    let x := s.ext ext
    x.st ≠ .free → x.domain = some d → (s.domain d).st = .down →
    RslRuns (.cohExtUnbind c ext) s c 0x144 0 [] [.pool, .mem, .twin] fun t =>
      t.ext ext = { x with domain := none, key := x.tenant } ∧ (∀ i, i ≠ ext → t.ext i = s.ext i)) ∧
  (∀ c d s, RslServed s c 0x145 → Mastered s → s.joined = [] → d ≤ 2047 → (s.domain d).st = .up →
    RslRuns (.cohDomainDown c d) s c 0x145 0 [] [.coh, .coach, .fab, .pool, .twin, .sec, .evs] fun t =>
      t.domain d = { s.domain d with st := .down, cause := 5 } ∧ (∀ i, i ≠ d → t.domain i = s.domain i) ∧
      (∀ x, x ∈ t.coh.trackers → x.domain ≠ d)) ∧
  (∀ c d s, RslServed s c 0x146 → Mastered s → s.joined = [] → s.rootWaits = false → d ≤ 2047 → (s.domain d).st = .down →
    RslRuns (.cohDomainReset c d) s c 0x146 0 [] [.coh, .mem, .fab, .pool, .twin, .sec, .fresh] fun t =>
      t.domain d = { s.domain d with st := .up, dgen := nextDgen (s.domain d).dgen } ∧
      (∀ i, i ≠ d → t.domain i = s.domain i)) ∧
  (∀ c d s, RslServed s c 0x147 → Mastered s → s.joined = [] → s.rootWaits = false → d ≤ 2047 → (s.domain d).st = .down →
    (s.domain d).members = [] → s.boundExts d = [] →
    RslRuns (.cohDomainFree c d) s c 0x147 0 [] [.coh, .mem, .twin, .sec, .fab] fun t =>
      t.domain d = Domain.empty ∧ (∀ i, i ≠ d → t.domain i = s.domain i) ∧
      Tab.get none t.mem.keys (1024 + d) = none ∧ SameBytes s t) ∧
  (∀ c d s, RslServed s c 0x148 → d ≤ 2047 →
    RslRuns (.cohDomainQuery c d) s c 0x148 0 (leBytes 8 (domainRecord s d) ++ memberList (s.domain d)) [] fun t =>
      t.rsl.kept = (afterOpen s c 0x148).rsl.kept) ∧
  (∀ h gen i d cause s, SetReqServed s h gen i → s.isMaster = true → (s.domain d).st = .up →
    let r := arrived s h
    Does (.cohDownReport h gen d (s.domain d).dgen cause) s fun t =>
      t.domain d = { r.domain d with st := .down, cause := cause } ∧ (∀ i, i ≠ d → t.domain i = r.domain i) ∧
      KeepsBut [.fab, .pool, .coh, .coach, .twin, .sec, .rsl, .evs, .ctrs] r t)

/-- R237 to R240: rings are armed, stopped and queried. Rests on the model's choices of log 92, 93 and 177. -/
def Obligations.RingsAreArmedStoppedAndQueried : Prop :=
  (∀ v a s, Reaches v 0x53 [5] 0 s →
    let r := reached v 0x53 s
    let owner := r.viaHost v
    let e := addrExt a.base
    let n := lowestFree 0 (r.coach.rings.map (·.1))
    let key := r.pline (r.lineAt a.base)
    let key1 := r.pline (r.lineAt (a.base + 64))
    ∀ line head, ringArgsBad a = false → owner ≤ 4095 → r.decommissioned = false →
    r.access owner a.base (needR + needW) = .ok e line → (r.ext e).st = .active → (r.ext e).sealed = false →
    (r.ext e).domain = none →
    (a.s1Enable = 0 ∨ (a.s1Root % 4096 = 0 ∧ accessCode (r.access owner a.s1Root needR) = none)) →
    r.stackDown (stackOf (key / 1024)) = false → (r.lineMeta (key / 1024) (key % 1024)).poison = false →
    r.lineReads (key / 1024) (key % 1024) = BitVec.ofNat 512 head → head < two32 → n ≤ 4095 →
    Does (.ringArm v a) s fun t =>
      t.ring n = { Ring.empty with
        st := .armed, onFault := decide (a.onFault = 1), s1 := decide (a.s1Enable = 1), log2 := a.log2Size
        maxEngines := a.maxEngines, tenant := (r.tenantOf owner).getD 0, owner := owner, base := a.base
        s1Root := a.s1Root, fetchIdx := head } ∧
      (∀ i, i ≠ n → t.ring i = r.ring i) ∧ LinesKept (key1 / 1024) (key1 % 1024) r t ∧
      Completes r t v 0x53 0x56 cOk 0 (leBytes 1 cOk ++ zeros 1 ++ leBytes 2 n ++ zeros 4 ++ leBytes 8 0) [] ∧
      KeepsBut ([.coach, .mem] ++ answerParts) r t) ∧
  (∀ v ring mode s, Reaches v 0x54 [1] 0x1FFF s →
    let r := reached v 0x54 s
    let x := r.ring ring
    ring ≤ 4095 → mode ≤ 1 → r.decommissioned = false → (x.st = .armed ∨ x.st = .paused) →
    (viaOperator v = true ∨ x.owner = r.viaHost v) → x.launch = none → r.coach.invals = [] →
    (∃ d, d ∈ r.coach.descs ∧ d.ring = ring ∧ (d.st = .running ∨ mode = 0) ∧
      ∀ y, y ∈ r.coach.descs → y.ring = ring → y.idx = d.idx → y = d) → Does (.ringStop v ring mode) s fun t =>
      (t.ring ring).st = .stopping ∧ (t.ring ring).stopCause = cOk ∧ (t.ring ring).held = false ∧
      (t.ring ring).stopOwed = [v] ∧
      KeepsBut [.fab, .coach, .mem, .twin, .sec, .rsl, .evs, .ctrs, .fresh] r t) ∧
  (∀ v ring mode s, Reaches v 0x54 [1] 0x1FFF s →
    let r := reached v 0x54 s
    let x := r.ring ring
    ring ≤ 4095 → mode ≤ 1 → r.decommissioned = false → (x.st = .armed ∨ x.st = .paused) →
    (viaOperator v = true ∨ x.owner = r.viaHost v) → x.launch = none → r.coach.invals = [] → r.descsOf ring = [] →
        (∀ q, (r.ring q).st ≠ .stopping) → Does (.ringStop v ring mode) s fun t =>
      t.ring ring = Ring.empty ∧ (∀ i, i ≠ ring → t.ring i = r.ring i) ∧
      Completes r t v 0x54 0x56 cOk 0 (leBytes 1 cOk ++ zeros 1 ++ leBytes 2 ring ++ zeros 4 ++ leBytes 8 0) [] ∧
      KeepsBut ([.coach, .mem, .evs, .fresh] ++ answerParts) r t) ∧
  (∀ c ring s, RslServed s c 0x151 → ring ≤ 4095 →
    RslRuns (.ringQuery c ring) s c 0x151 0
      (leBytes 32 (if (s.ring ring).st = .free then 0 else ringEntry (s.ring ring))) [] fun _ => True)

/-- R248 to R251: a descriptor's walk ends QUEUED, in a fault or in a code; an engine takes it. Rests on the model's
choices of log 7, 90 and 176. -/
def Obligations.DescriptorsAreWalkedAndDispatched : Prop :=
  (∀ q i err d room room' s, s.desc q i = some d →
    let x := s.ring q
    let src : PageEnt := ⟨s.lineAt d.src / 1024, d.src / 64, 0, (d.len + 63) / 64, false⟩
    let dst : PageEnt := ⟨s.lineAt d.dst / 1024, d.dst / 64, 0, (d.len + 63) / 64, true⟩
    d.st = .walking → s.attended = true → s.hubsObey = true → d.op = opCopy → d.fabric = false → x.s1 = false →
    0 < d.len → s.stage2 x.owner d.src needR = .ok d.src room 0 → s.stage2 x.owner d.dst needW = .ok d.dst room' 0 →
    d.len ≤ room → d.len ≤ room' → runsMeet src dst = false → s.pantryDescs + 32 ≤ descPartition →
    Does (.walkDone q i err) s fun t =>
      t.coach.descs = s.coach.descs.map (fun y =>
        if y.ring = d.ring ∧ y.idx = d.idx then { d with st := .queued, pages := [src, dst], hosts := [] } else y) ∧
      t.coach = { s.coach with descs := t.coach.descs } ∧ KeepsBut [.coach] s t) ∧
  (∀ q i err d k st p a n f s, s.desc q i = some d →
    let x := s.ring q
    d.st = .walking → s.attended = true → s.hubsObey = true → d.op = opCopy → x.s1 = false → 0 < d.len →
    x.st = .armed → x.onFault = false → s.pantryDescs ≤ descPartition →
    s.stage2 x.owner d.src needR = .fault k st p a n → s.faultSlot x.tenant st (if st = 0 then x.s1Root else 0) p = some (f, false) →
    Does (.walkDone q i err) s fun t =>
      (t.frec f).valid = true ∧ (t.frec f).tenant = x.tenant ∧ (t.frec f).kind = k ∧ (t.frec f).page = p ∧
      (t.frec f).need = n ∧
      (t.frec f).gen = ((s.frec f).gen + 1) % 65536 ∧ (t.frec f).waiters = 1 ∧ (t.ring q).st = .paused ∧
      t.coach.descs = s.coach.descs.map (fun y => if y.ring = d.ring ∧ y.idx = d.idx then
        { d with st := .paused, fault := some f, faultAddr := a, pages := [] } else y) ∧
      KeepsBut [.fab, .coach, .mem, .twin, .evs, .ctrs, .fresh] s t) ∧
  (∀ q i err d c s, s.desc q i = some d →
    let x := s.ring q
    d.st = .walking → s.attended = true → s.hubsObey = true → d.op = opCopy → x.s1 = false → 0 < d.len →
    s.stage2 x.owner d.src needR = .fail c →
    Does (.walkDone q i err) s fun t =>
      t.desc q i = none ∧ KeepsBut [.fab, .coach, .mem, .twin, .sec, .rsl, .evs, .ctrs, .fresh] s t) ∧
  (∀ e d s, e ≤ 63 → (Tab.get Engine.empty s.coach.engines e).job = none → s.attended = true →
    s.pickDesc (Tab.get Engine.empty s.coach.engines e).lastRing = some d → d.fabric = false →
    Does (.engineDispatch e) s fun t =>
      Tab.get Engine.empty t.coach.engines e = ⟨d.ring, some (d.ring, d.idx)⟩ ∧
      t.coach.descs = s.coach.descs.map (fun y => if y.ring = d.ring ∧ y.idx = d.idx then
        { d with st := .running, engine := some e } else y) ∧
      t.coach = { s.coach with descs := t.coach.descs, engines := t.coach.engines } ∧ KeepsBut [.coach] s t)

/-- R232, R252, R253, R255 to R260: engines move lines and complete; faults are resolved and expire; INVALIDATE. Rests
on the model's choices of log 84, 90, 91, 94, 96, 97 and 175. -/
def Obligations.DescriptorsCompleteAndFaultsAreResolved : Prop :=
  (∀ q i d a k b k' s, s.desc q i = some d →
    let x := s.ring q
    let from_ := s.pline k
    let dest := s.pline k'
    let entry := s.pline (s.lineAt (x.cplAddr d.idx))
    d.st = .running → d.op = opCopy → s.attended = true → s.hubsObey = true → d.fabric = false → x.st = .armed →
    s.coach.invals = [] → (∀ j, (s.ring j).st ≠ .stopping) → d.fault = none → d.endCode = cOk → d.lines = [] →
    d.pairs.drop d.pos = [(some (a, k), (b, k'))] → s.channelBusy k = false → s.channelBusy k' = false →
    s.guardedResult (a * 64) = none → s.guardedResult (b * 64) = none → (s.ext (addrExt (a * 64))).domain = none →
    (s.ext (addrExt (b * 64))).domain = none → s.openFull (dest / 1024) = false →
    s.stackDown (stackOf (from_ / 1024)) = false → s.stackDown (stackOf (dest / 1024)) = false →
    (s.lineMeta (from_ / 1024) (from_ % 1024)).poison = false → dest ≠ entry →
    Tab.get none s.mem.moving (dest / 1024) = none → Tab.get none s.mem.moving (entry / 1024) = none →
    Does (.descriptorComplete q i none []) s fun t =>
      t.lineReads (dest / 1024) (dest % 1024) = s.lineReads (from_ / 1024) (from_ % 1024) ∧ t.desc q i = none ∧
      (∀ p l, l < 1024 → (p ≠ dest / 1024 ∨ l ≠ dest % 1024) → (p ≠ entry / 1024 ∨ l ≠ entry % 1024) →
        t.lineReads p l = s.lineReads p l) ∧
      KeepsBut [.fab, .coach, .mem, .twin, .sec, .rsl, .evs, .ctrs, .fresh] s t) ∧
  (∀ h d w s, AnswerServed s h →
    let r := (answerIn s h).journalOut h.jidx
    0x8000 ≤ h.tag → h.tag < 0xC000 → r.engineDesc ((h.tag - 0x8000) / 256) = some d →
    (d.openWr.find? fun y => decide (y.tag = h.tag)) = some w → d.dstFid = h.src → r.gone d.dstFid = false →
    d.len ≤ d.pos * 64 → h.opData.toNat % 256 = cOk → d.engine.isSome = true → Does (.coachAck h) s fun t =>
      t.coach.descs = r.coach.descs.map (fun y => if y.ring = d.ring ∧ y.idx = d.idx then
        { d with openWr := d.openWr.filter fun y => decide (y.tag ≠ h.tag) } else y) ∧ KeepsBut [.coach] r t) ∧
  (∀ h s, AnswerServed s h →
    let r := (answerIn s h).journalOut h.jidx
    0x8000 ≤ h.tag → h.tag < 0xC000 → r.engineDesc ((h.tag - 0x8000) / 256) = none → Does (.coachAck h) s fun t =>
      Counted r t 10 0 9 1 ∧ KeepsBut [.ctrs] r t) ∧
  (∀ h s, AnswerServed s h →
    let r := (answerIn s h).journalOut h.jidx
    (h.tag < 0x8000 ∨ 0xC000 ≤ h.tag) → Does (.coachAck h) s fun t => Counted r t 10 0 4 1 ∧ KeepsBut [.ctrs] r t) ∧
  (∀ v fid gen s, Reaches v 0x55 [2] 0 s →
    let r := reached v 0x55 s
    let f := r.frec fid
    fid ≤ 16383 → gen ≤ 65535 → r.decommissioned = false →
    (viaOperator v = true ∨ r.tenantOf (r.viaHost v) = some (fid / 16)) →
    f.valid = true → f.gen = gen → r.coach.invals = [] →
        (∀ q, (r.ring q).st ≠ .stopping) → Does (.faultResolve v fid gen 0 0) s fun t =>
      t.frec fid = { FaultRec.empty with gen := gen } ∧
      (∀ d, d ∈ t.coach.descs → ¬ (d.st = .paused ∧ d.fault = some fid)) ∧
      Completes r t v 0x55 0x56 cOk f.waiters
        (leBytes 1 cOk ++ zeros 1 ++ leBytes 2 0 ++ zeros 4 ++ leBytes 8 f.waiters) [] ∧
      KeepsBut ([.coach, .mem, .evs, .fresh] ++ answerParts) r t) ∧
  (∀ v fid gen action s, Reaches v 0x55 [2] 0 s →
    let r := reached v 0x55 s
    fid ≤ 16383 → gen ≤ 65535 → action ≤ 1 → r.decommissioned = false →
    (viaOperator v = true ∨ r.tenantOf (r.viaHost v) = some (fid / 16)) → ((r.frec fid).valid = false ∨ (r.frec fid).gen ≠ gen) → Does (.faultResolve v fid gen action 0) s fun t =>
      Completes r t v 0x55 0x56 cOk 0 (leBytes 1 cOk ++ zeros 1 ++ leBytes 2 0 ++ zeros 4 ++ leBytes 8 0) [] ∧
      KeepsBut answerParts r t) ∧
  (∀ fid e s, (s.frec fid).valid = true → (s.frec fid).waiters = 0 →
    (s.frec fid).idleSince = some e → e + s.cfgAt fFaultHold ≤ s.epoch → Does (.faultRecordExpiry fid) s fun t =>
      t.frec fid = { FaultRec.empty with gen := (s.frec fid).gen } ∧ (∀ i, i ≠ fid → t.frec i = s.frec i) ∧
      KeepsBut [.coach, .twin] s t) ∧
  (∀ c fid s, RslServed s c 0x152 → fid ≤ 16383 →
    RslRuns (.faultQuery c fid) s c 0x152 0 (leBytes 32 (faultRecord (s.frec fid))) [] fun _ => True) ∧
  (∀ c tenant scope src len root s, RslServed s c 0x150 → tenant ≤ 1023 → invalArgsOk scope src len = true →
    s.decommissioned = false → s.invalRights tenant scope src len = true → s.coach.descs = [] → s.coach.invals = [] →
    (∀ q, (s.ring q).st ≠ .stopping) →
    RslRuns (.invalidate c tenant scope src len root) s c 0x150 0 [] [] fun _ => True) ∧
  (∀ c tenant d s, RslServed s c 0x150 → tenant ≤ 1023 → s.decommissioned = false → s.coach.descs = [d] →
    s.coach.invals = [] → d.st = .running → d.op = opCopy → (s.ring d.ring).tenant = tenant → d.pages ≠ [] →
    (∀ q, (s.ring q).st ≠ .stopping) → Does (.invalidate c tenant 2 0 0 0) s fun t =>
      (∃ es, t.coach = { s.coach with invals := [⟨[(d.ring, d.idx)], es, 0, none, some (.rsl c)⟩] }) ∧
      KeepsBut [.coach, .twin] (afterOpen s c 0x150) t)

/-- R275 to R280: reduction buffers are opened, reset, closed and queried. Rests on the model's choices of log 98, 99,
100, 107 and 178. -/
def Obligations.ReductionBuffersAreOpenedResetAndClosed : Prop :=
  (∀ v a s, Reaches v 0x62 [5] 0 s →
    let r := reached v 0x62 s
    let owner := r.viaHost v
    let x := redRecord a (r.redInMemory a) owner ((r.tenantOf owner).getD 0)
    let y := r.settleHome x
    let b := lowestFree 0 (r.stock.bufs.map (·.1))
    redArgsBad a x = false → owner ≤ 4095 → redFormatsBad a = false → r.decommissioned = false → r.mem.level ≠ 3 →
    r.rangeCode owner x.winBase a.winLen needA = none → r.rangeCode owner x.resBase (resLen x) needW = none →
    (x.memory = true → r.rangeCode owner x.accBase (accLen x) needW = none) →
    (∀ e, e ∈ x.regionExts → (r.ext e).sealed = false ∧ (r.ext e).domain = none) →
    (∀ z, z ∈ r.stock.bufs → z.2.st ≠ .free → redClash x z.2 = false) → redSelfClash x = false → b ≤ 8191 →
    r.spillUsed + y.stageSlots * 80 + y.pantryBytes ≤ spillTotal → Does (.redOpen v a) s fun t =>
      t.buf b = y ∧ (t.buf b).st = .opened ∧ (t.buf b).gen = 1 ∧ (∀ i, i ≠ b → t.buf i = r.buf i) ∧
      t.stock = { r.stock with bufs := t.stock.bufs } ∧ SameBytes r t ∧
      Completes r t v 0x62 0x66 cOk y.storeBlocks
        (leBytes 1 cOk ++ leBytes 1 1 ++ leBytes 2 b ++ leBytes 4 1 ++ leBytes 8 y.storeBlocks) [] ∧
      KeepsBut ([.stock, .mem] ++ answerParts) r t) ∧
  (∀ v buf seed s, Reaches v 0x63 [2] 0 s →
    let r := reached v 0x63 s
    let x := r.buf buf
    buf ≤ 8191 → seed < two64 → (x.st = .done ∨ x.st = .lost) → (viaOperator v = true ∨ x.owner = r.viaHost v) →
    x.closing = [] → r.mem.level ≠ 3 → (∀ j, j ∈ r.stock.jobs → j.buf ≠ buf) → Does (.redReset v buf seed 0) s fun t =>
      t.buf buf = { x with
        st := .opened, gen := (x.gen + 1) % two32, seed := if seed = 0 then x.seed else seed, doneBlocks := 0
        failedBlocks := 0, firstFail := cOk, digest := 0 } ∧
      (∀ k, k < 2 ^ 33 → t.blk buf k = Blk.empty) ∧ (∀ i, i ≠ buf → t.buf i = r.buf i) ∧ SameBytes r t ∧
      Completes r t v 0x63 0x66 cOk 0 (leBytes 1 cOk ++ leBytes 1 (1 + 8 * b2n x.demoted) ++ leBytes 2 buf ++
        leBytes 4 ((x.gen + 1) % two32) ++ leBytes 8 0) [] ∧ KeepsBut ([.stock, .mem] ++ answerParts) r t) ∧
  (∀ v buf seed s, Reaches v 0x63 [2] 0 s →
    let r := reached v 0x63 s
    let x := r.buf buf
    buf ≤ 8191 → seed < two64 → x.st = .opened → (viaOperator v = true ∨ x.owner = r.viaHost v) →
    Does (.redReset v buf seed 0) s fun t =>
      Completes r t v 0x63 0x66 cUnsupported 0 (leBytes 1 cUnsupported ++ leBytes 1 (1 + 8 * b2n x.demoted) ++
        leBytes 2 buf ++ leBytes 4 x.gen ++ leBytes 8 0) [] ∧ KeepsBut answerParts r t) ∧
  (∀ v buf s, Reaches v 0x64 [1] 0x1FFF s →
    let r := reached v 0x64 s
    let x := r.buf buf
    buf ≤ 8191 → x.st ≠ .free → (viaOperator v = true ∨ x.owner = r.viaHost v) → x.closing = [] →
    (∀ j, j ∈ r.stock.jobs → j.buf ≠ buf) → Does (.redClose v buf) s fun t =>
      t.buf buf = Buf.empty ∧ (∀ i, i ≠ buf → t.buf i = r.buf i) ∧
      Completes r t v 0x64 0x66 cOk 0 (leBytes 1 cOk ++ leBytes 1 (8 * b2n x.demoted) ++ leBytes 2 buf ++
        leBytes 4 x.gen ++ leBytes 8 0) [] ∧ KeepsBut (.stock :: answerParts) r t) ∧
  (∀ v buf j s, Reaches v 0x64 [1] 0x1FFF s →
    let r := reached v 0x64 s
    let x := r.buf buf
    buf ≤ 8191 → x.st ≠ .free → (viaOperator v = true ∨ x.owner = r.viaHost v) → j ∈ r.stock.jobs → j.buf = buf →
    Does (.redClose v buf) s fun t =>
      t.buf buf = { x with closing := x.closing ++ [v] } ∧ (∀ i, i ≠ buf → t.buf i = r.buf i) ∧
      t.stock = { r.stock with bufs := t.stock.bufs } ∧ KeepsBut [.stock, .twin] r t) ∧
  (∀ v buf s, Reaches v 0x65 [1] 0x1FFF s →
    let r := reached v 0x65 s
    let x := r.buf buf
    buf ≤ 8191 → x.st ≠ .free → (viaOperator v = true ∨ r.tenantOf (r.viaHost v) = some x.tenant) →
    Does (.redQuery v buf) s fun t =>
      Completes r t v 0x65 0x66 cOk x.doneBlocks (leBytes 1 cOk ++ leBytes 1 (x.st.num + 8 * b2n x.demoted) ++
        leBytes 2 buf ++ leBytes 4 x.gen ++ leBytes 8 x.doneBlocks)
        (if viaOperator v then leBytes 64 (bufRecord x) else []) ∧ KeepsBut answerParts r t)

/-- R274, R281, R282: contributions are taken whole or refused whole, and combined line by line. Rests on the model's
choices of log 100, 102, 162 and 178. -/
def Obligations.ContributionsAreTakenAndCombined : Prop :=
  (∀ h addr contrib scales lines b sc s, ReqServed s h → s.copyFull = false → (arrived s h).recorded h = none →
    let r := admitted s h 2
    let x := r.buf b
    let n := lines.length
    let ks := (List.range n).map fun i => (addr - x.winBase) / 64 + i
    ((arrived s h).police h 2).2 = false → 1 ≤ n → n ≤ 3 → formOk h [4 * n + 2] (BitVec.allOnes 32) = true →
    addr % 64 = 0 → scales.length ≤ 4 → addr < 2 ^ 57 → r.decommissioned = false → r.redAccess h addr n = none →
    (r.ext (addrExt addr)).domain = none → r.windowOf addr (64 * n) = some b →
    redScales x (leBytes 4 h.opData.toNat ++ (scales ++ zeros 4).take 4) n = some sc →
    r.redCheck b contrib (ks.zip lines) true = .ok → r.stageFull b contrib ks = false →
    Does (.redWr h addr contrib 0 scales lines) s fun t =>
      t.stock = { r.stock with jobs := r.stock.jobs ++
        [⟨h, b, contrib, ((ks.zip lines).zip sc).map (fun p => (p.1.1, p.1.2, p.2)), false, false⟩] } ∧
      KeepsBut [.stock] r t) ∧
  (∀ h addr contrib scales lines s, ReqServed s h → s.copyFull = false → (arrived s h).recorded h = none →
    let r := admitted s h 2
    let n := lines.length
    ((arrived s h).police h 2).2 = false → 1 ≤ n → n ≤ 3 → formOk h [4 * n + 2] (BitVec.allOnes 32) = true →
    addr % 64 = 0 → scales.length ≤ 4 → addr < 2 ^ 57 → r.decommissioned = false → r.redAccess h addr n = none →
    (r.ext (addrExt addr)).domain = none → r.windowOf addr (64 * n) = none →
    Does (.redWr h addr contrib 0 scales lines) s fun t =>
      Replies r t h 0x61 cMalformed [] ∧ KeepsBut [.fab, .ctrs] r t) ∧
  (∀ jidx err j k l sc s, (s.stock.jobs.find? fun y => decide (y.hdr.jidx = jidx)) = some j → j.lines = [(k, l, sc)] →
    s.attended = true → s.hubsObey = true → j.bad = false →
    let x := s.buf j.buf
    let y := s.blk j.buf k
    (y.st = .empty ∨ y.st = .filling) → x.home k = .store → x.mode = 0 → x.closing = [] → y.count + 1 ≠ x.n →
    Does (.redLineCombine jidx err) s fun t =>
      t.blk j.buf k = { y with
        st := .filling, count := y.count + 1
        acc := (combineLine x j.buf k y.count (decide (y.count = 0)) y.acc l sc).map (·.acc) } ∧
      (∀ i, i ≠ k → t.blk j.buf i = s.blk j.buf i) ∧ t.stock.bufs = s.stock.bufs ∧
      (∀ z, z ∈ t.stock.jobs → z.hdr.jidx ≠ jidx) ∧ Replies s t j.hdr 0x61 cOk [] ∧
      KeepsBut [.fab, .stock, .ctrs] s t) ∧
  (∀ jidx err j k l sc rest s, (s.stock.jobs.find? fun y => decide (y.hdr.jidx = jidx)) = some j →
    j.lines = (k, l, sc) :: rest → rest ≠ [] → s.attended = true → s.hubsObey = true → s.combineWaits j.buf k = false →
    ((s.blk j.buf k).st = .failed ∨ (s.blk j.buf k).st = .lost) → Does (.redLineCombine jidx err) s fun t =>
      t.stock = { s.stock with jobs := s.stock.jobs.map fun y =>
        if y.hdr.jidx = jidx then { y with lines := rest, bad := true, waited := false } else y } ∧ KeepsBut [.stock] s t) ∧
  (∀ jidx err j k l sc s, (s.stock.jobs.find? fun y => decide (y.hdr.jidx = jidx)) = some j → j.lines = [(k, l, sc)] →
    s.attended = true → s.hubsObey = true → s.combineWaits j.buf k = false → j.bad = false →
    let x := s.buf j.buf
    let y := s.blk j.buf k
    let acc := (combineLine x j.buf k y.count (decide (y.count = 0)) y.acc l sc).map (·.acc)
    let out := blockResult x j.buf k acc
    (y.st = .empty ∨ y.st = .filling) → x.home k = .store → x.mode = 0 → x.closing = [] → y.count + 1 = x.n →
    x.st = .opened → x.resGone = false → x.doneBlocks + 1 ≠ x.blocks → Does (.redLineCombine jidx err) s fun t =>
      (t.blk j.buf k).st = .complete ∧ (t.blk j.buf k).count = x.n ∧
      t.buf j.buf = { x with
        doneBlocks := x.doneBlocks + 1, digest := (x.digest + blockDigest k (out.1 ++ out.2.1)) % 2 ^ 128 } ∧
      Replies s t j.hdr 0x61 cOk [] ∧ KeepsBut [.fab, .stock, .mem, .twin, .evs, .ctrs, .fresh] s t)

/-- R300 to R303: barriers gather and end, launches are armed and fired. Rests on the model's choices of log 93 and
103. -/
def Obligations.BarriersAndLaunchesHoldTheirSenders : Prop :=
  (∀ v bar count lead tenant s, Reaches v 0x68 [2] 0 s →
    let r := reached v 0x68 s
    bar ≤ 255 → 2 ≤ count → count ≤ 4096 → 2 ≤ lead → lead ≤ 65536 → r.decommissioned = false → r.timeless = false →
    r.tenantOf (r.viaHost v) = some tenant → (r.barrier bar).arrivals = [] → Does (.barrier v bar count lead 0) s fun t =>
      t.barrier bar = ⟨count, lead, tenant, r.viaEpoch v, [(r.viaHost v, v)]⟩ ∧
      (∀ i, i ≠ bar → t.barrier i = r.barrier i) ∧ KeepsBut [.repro, .twin] r t) ∧
  (∀ h g bar lead tenant first s, Reaches (.fabric h) 0x68 [2] 0 s →
    let r := reached (.fabric h) 0x68 s
    let x := reproBody cOk bar (r.receipt h + lead)
    bar ≤ 255 → 2 ≤ lead → lead ≤ 65536 → r.decommissioned = false → r.timeless = false →
    r.tenantOf h.src = some tenant → r.barrier bar = ⟨2, lead, tenant, first, [(g.src, .fabric g)]⟩ → g.src ≠ h.src →
    Does (.barrier (.fabric h) bar 2 lead 0) s fun t =>
      t.barrier bar = Barrier.empty ∧
      t.fab.unbound = r.fab.unbound ++ [answerOf g 0x6A clsRsp 0 x, answerOf h 0x6A clsRsp 0 x] ∧
      KeepsBut (.repro :: answerParts) r t) ∧
  (∀ bar x g s, s.barrier bar = x → x.arrivals = [(g.src, .fabric g)] → x.first + 65536 ≤ s.epoch →
    Does (.barrierTimeout bar) s fun t =>
      t.barrier bar = Barrier.empty ∧ (∀ i, i ≠ bar → t.barrier i = s.barrier i) ∧
      t.fab.unbound = s.fab.unbound ++ [answerOf g 0x6A clsRsp 0 (reproBody cBusy bar (s.epoch + 1))] ∧
      KeepsBut (.repro :: answerParts) s t) ∧
  (∀ v ring e s, Reaches v 0x69 [2] 0 s →
    let r := reached v 0x69 s
    let x := r.ring ring
    ring ≤ 4095 → r.decommissioned = false → (x.st = .armed ∨ x.st = .paused) →
    (viaOperator v = true ∨ x.owner = r.viaHost v) → x.launch = none → r.timeless = false → r.viaEpoch v + 2 ≤ e → e ≤ r.viaEpoch v + 65536 →
    Does (.launch v ring e 0) s fun t =>
      t.ring ring = { x with launch := some (e, v), held := true } ∧ (∀ i, i ≠ ring → t.ring i = r.ring i) ∧
      t.coach = { r.coach with rings := t.coach.rings } ∧ KeepsBut [.coach, .twin] r t) ∧
  (∀ ring v s, (s.ring ring).st ≠ .free → (s.ring ring).launch = some (s.epoch, v) → s.timeless = false →
    Does (.launchFire ring) s fun t =>
      t.ring ring = { s.ring ring with launch := none, held := false } ∧ (∀ i, i ≠ ring → t.ring i = s.ring i) ∧
      Completes s t v 0x69 0x6A cOk s.epoch (reproBody cOk ring s.epoch) [] ∧ KeepsBut (.coach :: answerParts) s t) ∧
  (∀ ring e v s, (s.ring ring).st ≠ .free → (s.ring ring).launch = some (e, v) →
    (e < s.epoch ∨ (e = s.epoch ∧ s.timeless = true)) → Does (.launchFire ring) s fun t =>
      t.ring ring = { s.ring ring with launch := none } ∧
      Completes s t v 0x69 0x6A cBusy (s.epoch + 256) (reproBody cBusy ring (s.epoch + 256)) [] ∧
      KeepsBut (.coach :: answerParts) s t)

/-- R197, R305 to R307: paired check is entered and left at a boundary, and a mismatch is fatal. Rests on the model's
choices of log 104. -/
def Obligations.PairedCheckIsEnteredAndLeft : Prop :=
  (∀ c s, RslServed s c 0x10B → s.tok.active ≠ some dieCdB → s.repro.paired = .off → s.twin.tender = .synced →
    s.boot.dieResetOf = none → Does (.pairedCheck c 1) s fun t =>
      t.repro = { s.repro with paired := .entryAt (s.epoch + 1) [.rsl c] } ∧
      KeepsBut [.repro] (afterOpen s c 0x10B) t) ∧
  (∀ c s, RslServed s c 0x10B → s.tok.active ≠ some dieCdB → s.repro.paired = .off → s.twin.tender ≠ .synced →
    Does (.pairedCheck c 1) s fun t =>
      RslAnswered (afterOpen s c 0x10B) t c 0x10B cBusy (s.epoch + 256) [] ∧
      KeepsBut (cplParts 0x10B) (afterOpen s c 0x10B) t) ∧
  (∀ c s, RslServed s c 0x10B → s.repro.paired = .on → Does (.pairedCheck c 0) s fun t =>
      t.repro = { s.repro with paired := .exitAt (s.epoch + 1) [.rsl c] } ∧
      KeepsBut [.repro] (afterOpen s c 0x10B) t) ∧
  (∀ c s, RslServed s c 0x10B → s.repro.paired = .off →
    RslRuns (.pairedCheck c 0) s c 0x10B 0 [] [] fun _ => True) ∧
  (∀ e c s, s.repro.paired = .entryAt e [.rsl c] → e ≤ s.epoch → s.openWork = false → s.attended = true →
    s.twin.tender = .synced → Does .pairedEntryDone s fun t =>
      t.repro = { s.repro with paired := .on } ∧ t.twin = { s.twin with tender := .paired } ∧
      Raised s t 0x0503 sevInfo s.actDie [] ∧ RslAnswered s t c 0x10B cOk 0 [] ∧
      KeepsBut [.repro, .twin, .rsl, .evs, .ctrs] s t) ∧
  (∀ unit s, s.pairedOn = true → s.tok.fatal = none → Does (.pairedMismatch unit) s fun t =>
      t.tok = { s.tok with fatal := some 0 } ∧
      Raised s t 0x0505 sevFatal dieCdA (leBytes 2 unit ++ leBytes 8 s.epoch) ∧
      (∃ ms, t.fab.unbound = s.fab.unbound ++ ms ∧ ms.map (·.dst) = s.leaseholders) ∧
      KeepsBut [.tok, .fab, .evs, .ctrs] s t) ∧
  (∀ unit s, s.pairedOn = false → Does (.pairedMismatch unit) s fun t => t = s)

/-- R308 to R315: regions are created, published, judged, mapped, released, deleted and queried. Rests on the model's
choices of log 74, 105, 106 and 107. -/
def Obligations.RegionsArePublishedMappedAndDeleted : Prop :=
  (∀ v sealed tenant s, Reaches v 0x70 [1, 5] (BitVec.allOnes 32) s →
    let r := reached v 0x70 s
    let n := lowestFree 0 (r.repro.regions.map (·.1))
    Mastered r → r.decommissioned = false → sealed ≤ 1 → (sealed = 1 → r.boot.lc = 2) →
    r.tenantOf (r.viaHost v) = some tenant → n ≤ 4095 → Does (.pubCreate v sealed) s fun t =>
      t.region n = { Region.empty with st := .live, sealed := decide (sealed = 1), tenant := tenant } ∧
      (∀ i, i ≠ n → t.region i = r.region i) ∧ Completes r t v 0x70 0x76 cOk n (pubBody cOk 0 0 n) [] ∧
      KeepsBut (.repro :: answerParts) r t) ∧
  (∀ v region expected src s, Reaches v 0x71 [1, 5] (BitVec.allOnes 32) s →
    let r := reached v 0x71 s
    let x := r.region region
    let e := r.ext src
    Mastered r → r.decommissioned = false → region ≤ 4095 → src ≤ 16383 → expected < two64 → x.st = .live →
    (viaOperator v = true ∨ (r.tenantOf (r.viaHost v) = some x.tenant ∧ bitOf (r.grant src (r.viaHost v)) 1 = true)) →
    e.st = .active → e.shared = true → e.tenant = x.tenant → e.domain = none → e.sealed = x.sealed →
    r.isVersion src = false → r.timeless = false → x.sealed = false → Does (.publish v region expected src 0) s fun t =>
      t.repro = { r.repro with pubs := r.repro.pubs ++ [⟨v, r.viaHost v, region, expected, src, r.viaEpoch v⟩] } ∧
      KeepsBut [.repro] r t) ∧
  (∀ p s, s.attended = true → s.isMaster = true → s.repro.pubs = [p] → p.epoch < s.epoch →
    let x := s.region p.region
    x.st = .live → (s.ext p.srcExt).st = .active → p.expected = x.version → s.isVersion p.srcExt = false →
    s.holdCount p.srcExt = 0 → x.versions.length < 8 → s.grantees p.srcExt = [] → s.joined = [] →
    Does .publishJudge s fun t =>
      (t.region p.region).version = x.version + 1 ∧ (t.region p.region).curExt = p.srcExt ∧
      (t.region p.region).lastEpoch = p.epoch ∧ (t.ext p.srcExt).region = some p.region ∧ t.repro.pubs = [] ∧
      Completes s t p.owed 0x71 0x76 cOk (x.version + 1) (pubBody cOk 0 0 (x.version + 1)) [] ∧
      KeepsBut ([.pool, .repro, .stock] ++ answerParts) s t) ∧
  (∀ p s, s.attended = true → s.isMaster = true → s.repro.pubs = [p] → p.epoch < s.epoch →
    let x := s.region p.region
    x.st = .live → (s.ext p.srcExt).st = .active → p.expected ≠ x.version → Does .publishJudge s fun t =>
      t.repro = { s.repro with pubs := [] } ∧
      Completes s t p.owed 0x71 0x76 cStaleVersion x.version (pubBody cStaleVersion 0 0 x.version) [] ∧
      KeepsBut (.repro :: answerParts) s t) ∧
  (∀ v region y s, Reaches v 0x72 [1, 5] (BitVec.allOnes 32) s →
    let r := reached v 0x72 s
    let x := r.region region
    let host := r.viaHost v
    let mask := (r.ext y.ext).mask
    Mastered r → r.joined = [] → r.decommissioned = false → region ≤ 4095 → x.st = .live → x.sealed = false →
    (x.versions.find? fun z => decide (z.version = x.version)) = some y → host ∉ y.readers →
    r.tenantOf host = some x.tenant → r.inReclaim host = false → r.pool.grants.length < 65536 →
    Does (.pubMap v region) s fun t =>
      t.grant y.ext host = needR ∧
      t.region region = { x with versions := x.versions.map fun z =>
        if z.version = x.version then { z with readers := z.readers ++ [host] } else z } ∧
      Completes r t v 0x72 0x76 cOk x.version (pubBody cOk mask.toNat y.ext x.version) [] ∧
      KeepsBut ([.pool, .repro] ++ answerParts) r t) ∧
  (∀ v region y s, Reaches v 0x73 [1, 5] (BitVec.allOnes 32) s →
    let r := reached v 0x73 s
    let x := r.region region
    let host := r.viaHost v
    let left := y.readers.filter fun h => decide (h ≠ host)
    Mastered r → r.joined = [] → r.decommissioned = false → region ≤ 4095 → x.st = .live →
    (viaOperator v = true ∨ r.tenantOf host = some x.tenant) → x.versions = [y] → y.version = x.version →
    y.version < two64 → host ∈ y.readers → Does (.pubRelease v region y.version) s fun t =>
      t.grant y.ext host = 0 ∧ t.region region = { x with versions := [{ y with readers := left }] } ∧
      Completes r t v 0x73 0x76 cOk left.length (pubBody cOk 0 0 left.length) [] ∧
      KeepsBut ([.pool, .repro] ++ answerParts) r t) ∧
  (∀ v region s, Reaches v 0x74 [1, 5] (BitVec.allOnes 32) s →
    let r := reached v 0x74 s
    let x := r.region region
    Mastered r → r.decommissioned = false → region ≤ 4095 → x.st = .live →
    (viaOperator v = true ∨ r.tenantOf (r.viaHost v) = some x.tenant) → x.versions = [] → x.deleteOwed = [] →
    (∀ e, e ∈ r.pool.exts → e.2.region ≠ some region) → Does (.pubDelete v region) s fun t =>
      t.region region = Region.empty ∧ (∀ i, i ≠ region → t.region i = r.region i) ∧
      Completes r t v 0x74 0x76 cOk 0 (pubBody cOk 0 0 0) [] ∧ KeepsBut (.repro :: answerParts) r t) ∧
  (∀ v region y s, Reaches v 0x74 [1, 5] (BitVec.allOnes 32) s →
    let r := reached v 0x74 s
    let x := r.region region
    Mastered r → r.joined = [] → r.decommissioned = false → region ≤ 4095 → x.st = .live →
    (viaOperator v = true ∨ r.tenantOf (r.viaHost v) = some x.tenant) → x.versions = [y] → y.readers = [] →
    (r.ext y.ext).st = .active → (r.ext y.ext).region = some region → Does (.pubDelete v region) s fun t =>
      (t.region region).st = .deleting ∧ (t.region region).versions = [] ∧
      (t.region region).deleteOwed = x.deleteOwed ++ [v] ∧
      t.ext y.ext = { r.ext y.ext with st := .withdrawing } ∧ KeepsBut [.pool, .repro, .stock, .twin] r t) ∧
  (∀ v region s, Reaches v 0x75 [1, 5] (BitVec.allOnes 32) s →
    let r := reached v 0x75 s
    let x := r.region region
    Mastered r → r.decommissioned = false → region ≤ 4095 → x.st ≠ .free →
    (viaOperator v = true ∨ r.tenantOf (r.viaHost v) = some x.tenant) → Does (.pubQuery v region) s fun t =>
      Completes r t v 0x75 0x76 cOk x.version (pubBody cOk 0 x.curExt x.version)
        (if viaOperator v then leBytes 32 (regionRecord x) ++ versionTable x else []) ∧ KeepsBut answerParts r t)

/-- R323, R328, R330, R333, R340: counts leak, swept and overwritten pages read as before, lines are scrubbed,
channels are calibrated. Rests on the model's choices of log 7, 9, 113 and 184. -/
def Obligations.LadleKeepsWhatLinesRead : Prop :=
  (∀ s, s.epoch % s.cfgAt fCeLeak = 0 → Does .ceBucketLeak s fun t =>
      (∀ c, t.channel c = { s.channel c with bucket := (s.channel c).bucket - 1 }) ∧
      t.mem = { s.mem with channels := t.mem.channels } ∧ KeepsBut [.mem] s t) ∧
  (∀ s, s.epoch % s.cfgAt fCeLeak ≠ 0 → Does .ceBucketLeak s fun t => t = s) ∧
  (∀ s, s.epoch % 65536 = 0 → Does .stackOvfHalve s fun t =>
      (∀ n, t.stack n = { s.stack n with ovf := (s.stack n).ovf / 2 }) ∧
      t.mem = { s.mem with stackTab := t.mem.stackTab } ∧ KeepsBut [.mem] s t) ∧
  (∀ ppn s, Tab.get [] s.mem.openPages ppn ≠ [] →
        (∀ l, l ∉ Tab.get [] s.mem.openPages ppn → (s.lineMeta ppn l).valid = false) → Does (.openSweepDone ppn) s fun t =>
      t.pageValid ppn = true ∧ Tab.get [] t.mem.openPages ppn = [] ∧ (∀ p, p ≠ ppn → t.pageValid p = s.pageValid p) ∧
      (∀ p l, t.lineReads p l = s.lineReads p l) ∧ SameBytes s t ∧ KeepsBut [.mem, .twin] s t) ∧
  (∀ ppn s, s.pageValid ppn = false → Tab.get [] s.mem.openPages ppn = [] → s.stackDown (stackOf ppn) = false →
    Does (.ladleOverwriteDone ppn) s fun t =>
      t.pageValid ppn = true ∧ (∀ i, i < 65536 → t.byteAt (65536 * ppn + i) = 0) ∧
      BytesKept (65536 * ppn) 65536 s t ∧ (∀ p l, l < 1024 → t.lineReads p l = s.lineReads p l) ∧
      t.pool.freed.has ppn = false ∧ KeepsBut [.mem, .pool, .twin] s t) ∧
  (∀ ppn line s, s.pageValid ppn = true → s.overwriteDue = false → s.stackDown (stackOf ppn) = false → line ≤ 1023 →
    (s.channelDue (stackOf ppn) = true → (s.channel (channelOf ppn line)).needPass = true) →
    Does (.ladleScrubRead ppn line [] false) s fun t =>
      t.mem = { s.mem with repeats := s.mem.repeats.filter fun r => decide (r.2.1 ≠ lineKey ppn line) } ∧
      KeepsBut [.mem] s t) ∧
  (∀ ppn line err s, s.pageValid ppn = true → s.overwriteDue = false → s.stackDown (stackOf ppn) = false →
    line ≤ 1023 → (s.channelDue (stackOf ppn) = true → (s.channel (channelOf ppn line)).needPass = true) →
    (decodeLine err).bad = true → s.extOfPage (s.logical ppn) = none → isPantry (s.logical ppn) = false →
    Does (.ladleScrubRead ppn line err false) s fun t =>
      t.lineMeta ppn line = { s.lineMeta ppn line with valid := true, poison := true } ∧ SameBytes s t ∧
      KeepsBut [.mem, .twin, .evs, .ctrs] s t) ∧
  (∀ ppn line s, s.pageValid ppn = true → s.overwriteDue = false → s.stackDown (stackOf ppn) = false → line ≤ 1023 →
    (s.channel (channelOf ppn line)).needPass = true → Does (.ladleScrubRead ppn line [] true) s fun t =>
      (t.channel (channelOf ppn line)).needPass = false ∧ (∀ i, i ≠ channelOf ppn line → t.channel i = s.channel i) ∧
      KeepsBut [.mem] s t) ∧
  (∀ ppn line s, s.pageValid ppn = true → s.overwriteDue = false → s.stackDown (stackOf ppn) = false → line ≤ 1023 →
    s.channelDue (stackOf ppn) = false → Does (.ladleScrubRead ppn line [] true) s fun t =>
      t.ctrs = (s.bump 9 (channelOf ppn line / 32) 0 1).ctrs ∧ KeepsBut [.mem, .ctrs] s t) ∧
  (∀ ppn line err ends s, s.overwriteDue = true → Does (.ladleScrubRead ppn line err ends) s fun t => t = s) ∧
  (∀ ppn line err ends s, s.channelDue (stackOf ppn) = true → (s.channel (channelOf ppn line)).needPass = false →
    Does (.ladleScrubRead ppn line err ends) s fun t => t = s) ∧
  (∀ stack row n s, stack ≤ 11 → s.cfgAt fRdm ≤ n → s.stackDown stack = false → Does (.rdmRefresh stack row n) s fun t =>
      Counted s t 9 stack 2 1 ∧ KeepsBut [.ctrs] s t) ∧
  (∀ ch s, ch ≤ 383 → s.stackDown (ch / 32) = false → Does (.calibrationSlot ch) s fun t =>
      t.channel ch = { s.channel ch with
        repair := [], spared := (s.channel ch).spared + (s.channel ch).repair.length } ∧
      (∀ i, i ≠ ch → t.channel i = s.channel i) ∧ KeepsBut [.mem, .evs, .ctrs] s t) ∧
  (∀ ch pin s, ch ≤ 383 → s.stackDown (ch / 32) = false → (s.channel ch).repair = [pin] →
    Does (.calibrationSlot ch) s fun t =>
      t.channel ch = { s.channel ch with repair := [], spared := (s.channel ch).spared + 1 } ∧
      (∀ i, i ≠ ch → t.channel i = s.channel i) ∧
      Raised s t 0x0604 sevNotice (odDie (hubOfStack (ch / 32))) (leBytes 2 ch ++ leBytes 1 pin) ∧
      t.mem = { s.mem with channels := t.mem.channels } ∧ KeepsBut [.mem, .evs, .ctrs] s t)

/-- R341, R345, R112, R115: pages move, stacks fail, leave, return and are reset. Rests on the model's choices of log
108, 109, 110, 111, 182 and 183. -/
def Obligations.PagesMoveAndStacksChangeState : Prop :=
  (∀ ppn mv s, Tab.get none s.mem.moving ppn = some mv → mv.copied = false → s.stackDown (stackOf ppn) = false →
    mv.target ≠ ppn →
    Does (.pageMoveCopyDone ppn) s fun t =>
      (∀ l, l < 1024 → t.lineReads mv.target l = s.lineReads ppn l) ∧
      (∀ p l, l < 1024 → p ≠ mv.target → t.lineReads p l = s.lineReads p l) ∧
      Tab.get none t.mem.moving ppn = some { mv with copied := true } ∧ t.mem.remap = s.mem.remap ∧
      KeepsBut [.mem, .twin] s t) ∧
  (∀ n s, n ≤ 11 → (s.stack n).st ≠ .failed → Does (.stackFail n) s fun t =>
      (t.stack n).st = .failed ∧
      (∀ e, (s.ext e).st ≠ .free → s.extOnStack e n = true → (t.ext e).damaged = true) ∧
      KeepsBut [.ports, .fab, .pool, .coh, .coach, .stock, .mem, .twin, .sec, .rsl, .evs, .ctrs, .fresh] s t) ∧
  (∀ n s, n ≤ 11 → (s.stack n).st ≠ .failed → s.coh.trackers = [] → (∀ p, p ∈ s.ports → p.2.store = []) →
    s.coach.descs = [] → s.coach.frecs = [] → s.stock.spill = [] → s.stock.staged = [] →
    Does (.stackFail n) s fun t => SameBytes s t ∧ KeepsBut [.fab, .pool, .mem, .twin, .evs, .ctrs] s t) ∧
  (∀ c n s, RslServed s c 0x160 → n ≤ 11 → (s.stack n).st = .inUse →
    RslRuns (.stackRemove c n) s c 0x160 0 [] [.mem, .evs] fun t =>
      (t.stack n).st = .migrating ∧ (∀ m, m ≠ n → t.stack m = s.stack m) ∧
      t.mem = { s.mem with stackTab := t.mem.stackTab }) ∧
  (∀ c n s, RslServed s c 0x160 → n ≤ 11 → (s.stack n).st ≠ .inUse → Does (.stackRemove c n) s fun t =>
      RslAnswered (afterOpen s c 0x160) t c 0x160 cUnsupported 0 [] ∧
      KeepsBut (cplParts 0x160) (afterOpen s c 0x160) t) ∧
  (∀ c n s, RslServed s c 0x161 → n ≤ 11 → (s.stack n).st = .out →
    RslRuns (.stackReturn c n) s c 0x161 0 [] [.mem, .evs] fun t =>
      t.stack n = { s.stack n with st := .inUse } ∧ (∀ m, m ≠ n → t.stack m = s.stack m) ∧
      t.mem = { s.mem with stackTab := t.mem.stackTab }) ∧
  (∀ c n s, RslServed s c 0x103 → n ≤ 11 → ((s.stack n).st = .out ∨ (s.stack n).st = .failed) →
    s.hubGone (hubOfStack n) = false → Tab.get [] s.boot.stackResetOwed n = [] → Does (.stackReset c n) s fun t =>
      Tab.get [] t.boot.stackResetOwed n = [.rsl c] ∧
      t.boot = { s.boot with stackResetOwed := t.boot.stackResetOwed } ∧ KeepsBut [.boot] (afterOpen s c 0x103) t) ∧
  (∀ n c s, Tab.get [] s.boot.stackResetOwed n = [.rsl c] →
    Does (.stackResetDone n true) s fun t =>
      (t.stack n).st = .out ∧ (∀ a, stackOf (a / 65536) = n → t.byteAt a = 0) ∧
      (∀ a, stackOf (a / 65536) ≠ n → t.byteAt a = s.byteAt a) ∧ RslAnswered s t c 0x103 cOk 0 [] ∧
      KeepsBut [.boot, .pool, .mem, .twin, .rsl, .ctrs] s t) ∧
  (∀ n c s, Tab.get [] s.boot.stackResetOwed n = [.rsl c] → Does (.stackResetDone n false) s fun t =>
      RslAnswered s t c 0x103 cOk 1 [] ∧ KeepsBut [.boot, .twin, .rsl, .ctrs] s t)

/-- R329, R337, R343, R344: access counts and the error log are read out, lane groups and SRAM rows leave use. Rests
on the model's choices of log 58, 74, 114, 115 and 185. -/
def Obligations.WearIsReportedAndRepaired : Prop :=
  (∀ c ext first count s, Reaches (.rsl c) 0x4F [1, 5] (BitVec.allOnes 32) s →
    let r := reached (.rsl c) 0x4F s
    let x := r.ext ext
    ext ≤ 16383 → 1 ≤ count → count ≤ 16384 → r.decommissioned = false → first + count ≤ x.localGran * 32 →
    Does (.accessDump (.rsl c) ext first count 0) s fun t =>
      RslAnswered r t c 0x4F cOk count (extCplBody cOk 0 ext count (zeros 16) ++
        (List.range count).flatMap fun i => r.pageCounts (x.base + first + i)) ∧ KeepsBut [.rsl, .ctrs] r t) ∧
  (∀ h ext first count dst s, Reaches (.fabric h) 0x4F [1, 5] (BitVec.allOnes 32) s →
    let r := reached (.fabric h) 0x4F s
    let x := r.ext ext
    let key := r.pline (r.lineAt dst)
    ext ≤ 16383 → 1 ≤ count → count ≤ 16 → r.decommissioned = false → x.st ≠ .free →
    r.tenantOf h.src = some x.tenant → first + count ≤ x.localGran * 32 → dst % 64 = 0 →
    r.argFail (.fabric h) dst (4 * count) needW = none →
    Does (.accessDump (.fabric h) ext first count dst) s fun t =>
      Completes r t (.fabric h) 0x4F 0x46 cOk count (extCplBody cOk 0 ext count (zeros 16)) [] ∧
      LinesKept (key / 1024) (key % 1024) r t ∧ KeepsBut (.mem :: answerParts) r t) ∧
  (∀ c s, RslServed s c 0x115 →
    RslRuns (.ceLogRead c) s c 0x115 s.mem.ceLog.length (s.mem.ceLog.flatMap ceEntryBytes) [.mem, .twin] fun t =>
      t.mem = { s.mem with ceLog := [] }) ∧
  (∀ g s, g ≤ 135 → Tab.get false s.groupBad g = false → s.attended = true → Does (.laneGroupFault g) s fun t =>
      Tab.get false t.groupBad g = true ∧ (∀ i, i ≠ g → Tab.get false t.groupBad i = Tab.get false s.groupBad i) ∧
      t.stock = (if s.actDie = dieCdB then { s.stock with groupBadB := t.groupBad }
        else { s.stock with groupBadA := t.groupBad }) ∧
      Raised s t 0x0607 sevNotice s.actDie (leBytes 1 s.actDie ++ leBytes 1 g) ∧ KeepsBut [.stock, .evs, .ctrs] s t) ∧
  (∀ die array row s, die ≤ 4 → keyArray die array = false → (die, array, row) ∉ s.mem.sparesWaiting →
    (∀ e, e ∈ Tab.get [] s.mem.sramRows (rowKey die array row) → e + 65536 < s.epoch) →
    Does (.sramCorrectable die array row) s fun t =>
      Tab.get [] t.mem.sramRows (rowKey die array row) = [s.epoch] ∧
      t.mem = { s.mem with sramRows := t.mem.sramRows } ∧ KeepsBut [.mem] s t) ∧
  (∀ die array row s, die ≤ 4 → keyArray die array = true → s.mem.ceLog.length < 64 →
    Does (.sramCorrectable die array row) s fun t =>
      t.mem.ceLog = s.mem.ceLog ++ [⟨s.epoch, row, 0, Config.keySymbol s.fresh % 72, 2, 2⟩] ∧
      t.mem = { s.mem with
        ceLog := t.mem.ceLog, sramRows := t.mem.sramRows, sparesWaiting := t.mem.sparesWaiting } ∧
      KeepsBut [.mem, .twin, .evs, .ctrs, .fresh] s t) ∧
  (∀ die array row s, die ≤ 4 → keyArray die array = true → 64 ≤ s.mem.ceLog.length →
    Does (.sramCorrectable die array row) s fun t =>
      t.mem = { s.mem with sramRows := t.mem.sramRows, sparesWaiting := t.mem.sparesWaiting } ∧
      Counted s t 10 0 13 1 ∧ KeepsBut [.mem, .ctrs, .fresh] s t) ∧
  (∀ die array row e s, die ≤ 4 → keyArray die array = false → (die, array, row) ∉ s.mem.sparesWaiting →
    e ∈ Tab.get [] s.mem.sramRows (rowKey die array row) → s.epoch ≤ e + 65536 →
    Does (.sramCorrectable die array row) s fun t =>
      t.mem.sparesWaiting = s.mem.sparesWaiting ++ [(die, array, row)] ∧
      t.mem = { s.mem with sramRows := t.mem.sramRows, sparesWaiting := t.mem.sparesWaiting } ∧ KeepsBut [.mem] s t)

/-- R354, R361, R364, R378, R384: the tender resynchronises, acknowledges cuts, reads commit lists, and lags. Rests on
the model's choices of log 11, 50, 51 and 144. -/
def Obligations.TenderFollowsTheActiveDie : Prop :=
  (∀ e cut s, s.copying = true → (s.twin.cuts.find? fun c => decide (c.1 = e)) = some cut → s.twin.tender = .synced →
    Does (.cutAck e) s fun t =>
      t.twin = { s.twin with
        cuts := s.twin.cuts.filter fun c => decide (e < c.1)
        copy := some cut.2, journal := afterCut e s.twin.journal, ackEpoch := e } ∧ KeepsBut [.twin] s t) ∧
  (∀ e cut r s, s.copying = true → (s.twin.cuts.find? fun c => decide (c.1 = e)) = some cut →
    s.twin.tender = .resync → s.twin.resyncFrom = some r → r < e → 4 ≤ s.twin.mirrorGood → s.twin.keyStoreSent = true → Does (.cutAck e) s fun t =>
      t.twin.tender = .synced ∧ t.twin.ackEpoch = e ∧ t.twin.copy = some cut.2 ∧
      Raised s t 0x0702 sevInfo s.actDie (leBytes 8 (twinStatus t)) ∧ KeepsBut [.twin, .evs, .ctrs] s t) ∧
  (∀ s, s.twin.tender = .synced → (∃ c, c ∈ s.twin.cuts ∧ c.1 + s.cfgAt fLag ≤ s.epoch) → s.sec.changes = [] →
    s.repro.paired = .off → s.cfgAt fAutoReset = 1 → s.twin.autoResets < s.cfgAt fResetLimit →
    Does .cutLagTimeout s fun t =>
      t.twin.tender = .resetting ∧ t.twin.autoResets = s.twin.autoResets + 1 ∧ t.twin.journal = [] ∧
      t.twin.cuts = [] ∧ t.twin.copy = none ∧ t.sec = { s.sec with changes := [], tenderStore := KeyStore.empty } ∧
      Raised s t 0x0703 sevWarning s.actDie (leBytes 8 (twinStatus s)) ∧
      KeepsBut [.clk, .boot, .tok, .twin, .sec, .evs, .ctrs] s t) ∧
  (∀ s, s.twin.tender = .resetting → s.tok.active.isSome = true → s.twin.resyncAt = none →
    s.dieIsReady s.tenderDie = true → Does .tenderReady s fun t =>
      t.twin = { s.twin with resyncAt := some (s.epoch + 1) } ∧ KeepsBut [.twin] s t) ∧
  (∀ e s, s.attended = true → s.twin.tender = .resetting → s.twin.resyncAt = some e → e ≤ s.epoch →
    Does .resyncStart s fun t =>
      t.twin.tender = .resync ∧ t.twin.resyncFrom = some s.epoch ∧ t.twin.resyncAt = none ∧ t.twin.journal = [] ∧
      t.twin.mirrorGood = 0 ∧ t.sec = { s.sec with changes := s.sec.changes ++ [(s.keyStore, [])] } ∧
      t.twin.reqs = s.twin.reqs ∧ KeepsBut [.twin, .sec] s t) ∧
  (∀ r s, s.copying = true → s.hubGone 0 = false → s.twin.resyncFrom = some r → r < s.epoch →
    Tab.get false s.twin.readThis 0 = false → Does (.commitListRead 0 true) s fun t =>
      t.twin.mirror0 = lastN 4 (s.twin.mirror0 ++ [s.mem.prev0]) ∧ t.twin.mirror1 = s.twin.mirror1 ∧
      Tab.get false t.twin.readThis 0 = true ∧ t.twin.tender = s.twin.tender ∧ KeepsBut [.twin] s t) ∧
  (∀ hub r s, s.copying = true → hub ≤ 1 → s.hubGone hub = false → s.twin.resyncFrom = some r → r < s.epoch →
    Tab.get false s.twin.readThis hub = false → s.twin.tender = .synced → Does (.commitListRead hub false) s fun t =>
      t.twin.tender = .resync ∧ t.twin.mirrorGood = 0 ∧ t.twin.mirror0 = [] ∧ t.twin.mirror1 = [] ∧
      Counted s t 10 0 20 1 ∧ KeepsBut [.twin, .ctrs] s t) ∧
  (∀ s, s.epoch % 256 = 0 → Tab.get false s.tok.linkDown 8 = true → s.attended = true →
        s.twin.tender ≠ .absent → Does (.tenderLinkRetrain true) s fun t =>
      Tab.get false t.tok.linkDown 8 = false ∧ t.tok = { s.tok with linkDown := t.tok.linkDown } ∧
      KeepsBut [.tok] s t)

/-- R197, R367 to R370: the active die stops or is judged lost, and a claim that fails is fatal. Rests on the model's
choices of log 54 and 55. -/
def Obligations.ActiveDieStopsOrIsJudgedLost : Prop :=
  (∀ d s, s.tok.active = some d → s.twin.tender = .synced → Does .activeSelfFault s fun t =>
      t.tok = { s.tok with silent := true, sent := t.tok.sent } ∧
      (∀ od, od ∈ s.odsAlive → Tab.get false s.tok.linkDown (tokLink d od) = false → ⟨.release, d, od⟩ ∈ t.tok.sent) ∧
      t.twin = { s.twin with paused := true, failSent := !Tab.get false s.tok.linkDown 8 } ∧
      KeepsBut [.tok, .twin] s t) ∧
  (∀ d s, s.tok.active = some d → s.twin.tender ≠ .synced → s.tok.fatal = none → Does .activeSelfFault s fun t =>
      t.tok = { s.tok with silent := true, sent := t.tok.sent, fatal := some 1 } ∧
      t.twin = { s.twin with paused := true, failSent := !Tab.get false s.tok.linkDown 8 } ∧
      Raised s t 0x0706 sevFatal s.actDie (leBytes 1 1) ∧
      (∃ ms, t.fab.unbound = s.fab.unbound ++ ms ∧ ms.map (·.dst) = s.leaseholders) ∧
      KeepsBut [.tok, .fab, .twin, .evs, .ctrs] s t) ∧
  (∀ s, s.twin.tender = .synced → s.tok.active.isSome = true → s.twin.detectedAt = none → s.twin.failSent = true →
    Tab.get false s.tok.linkDown 8 = false → Does (.failNotice false) s fun t =>
      t.tok = { s.tok with
        silent := true, claimant := some s.tenderDie, claimGrants := [], claimSince := s.epoch, claimCause := 1 } ∧
      t.twin = { s.twin with paused := true, detectedAt := some s.epoch, failSent := false } ∧ KeepsBut [.tok, .twin] s t) ∧
  (∀ b s, Tab.get false s.tok.linkDown 8 = true → Does (.failNotice b) s fun t => t = s) ∧
  (∀ s, s.twin.tender = .synced → s.tok.active.isSome = true → s.twin.detectedAt = none → s.handingOver = false →
    (∀ od e, od ∈ s.odsAlive → (s.ob od).renewedAt = some e → e + 2 ≤ s.odEpoch od) → s.twin.ackEpoch + 2 ≤ s.epoch →
    Does .silentDetect s fun t =>
      t.tok = { s.tok with
        silent := true, claimant := some s.tenderDie, claimGrants := [], claimSince := s.epoch, claimCause := 2 } ∧
      t.twin = { s.twin with paused := true, detectedAt := some s.epoch, failSent := false } ∧ KeepsBut [.tok, .twin] s t) ∧
  (∀ s, s.twin.tender = .synced → s.tok.active.isSome = true → s.twin.detectedAt = none → s.handingOver = false →
    s.tok.expired ≠ [] → Does .tokenExpiryIndication s fun t =>
      t.tok = { s.tok with
        silent := true, claimant := some s.tenderDie, claimGrants := [], claimSince := s.epoch, claimCause := 3
        expired := [] } ∧
      t.twin = { s.twin with paused := true, detectedAt := some s.epoch, failSent := false } ∧ KeepsBut [.tok, .twin] s t) ∧
  (∀ d s, s.twin.detectedAt = some d → d + 8 ≤ s.epoch → s.tok.claimant.isSome = true →
    s.allGranted s.tok.claimGrants = false → s.tok.fatal = none → odPd ∈ s.tok.claimGrants → Does .claimTimeout s fun t =>
      t.tok = { s.tok with fatal := some 2 } ∧ Raised s t 0x0706 sevFatal s.actDie (leBytes 1 2) ∧
      (∃ ms, t.fab.unbound = s.fab.unbound ++ ms ∧ ms.map (·.dst) = s.leaseholders) ∧
      KeepsBut [.tok, .fab, .evs, .ctrs] s t) ∧
  (∀ d s, s.twin.detectedAt = some d → d + 8 ≤ s.epoch → s.tok.claimant.isSome = true →
    s.allGranted s.tok.claimGrants = false → s.tok.fatal = none → odPd ∉ s.tok.claimGrants → Does .claimTimeout s fun t =>
      t.tok = { s.tok with fatal := some 2 } ∧ Raised s t 0x0706 sevFatal s.tenderDie (leBytes 1 2) ∧
      KeepsBut [.tok, .evs, .ctrs] s t)

/-- R112, R113, R344, R375, R376: planned handover, control-die resets, and uncorrectable SRAM errors. Rests on the
model's choices of log 53, 56, 57 and 58. -/
def Obligations.HandoverDieResetAndSramErrors : Prop :=
  (∀ c s, RslServed s c 0x10A → s.repro.paired = .off → s.twin.tender = .synced → s.boot.dieResetOf = none →
    s.twin.handoverAt = none → Does (.twinSwitch c) s fun t =>
      t.twin.handoverAt = some (s.epoch + 1) ∧ t.twin.handoverOwed = [.rsl c] ∧ t.twin.handoverReset = false ∧
      KeepsBut [.twin] (afterOpen s c 0x10A) t) ∧
  (∀ c s, RslServed s c 0x10A → (s.repro.paired ≠ .off ∨ s.twin.tender = .absent ∨ s.twin.tender = .held) →
    Does (.twinSwitch c) s fun t =>
      RslAnswered (afterOpen s c 0x10A) t c 0x10A cUnsupported 0 [] ∧
      KeepsBut (cplParts 0x10A) (afterOpen s c 0x10A) t) ∧
  (∀ s, s.handingOver = true → s.attended = true → s.twin.tender = .synced → s.openWork = false →
    Does .handover s fun t =>
      t.tok = { s.tok with silent := true, sent := t.tok.sent } ∧
      (∀ od, od ∈ s.odsAlive → Tab.get false s.tok.linkDown (tokLink (s.tok.active.getD dieCdA) od) = false →
        ⟨.release, s.tok.active.getD dieCdA, od⟩ ∈ t.tok.sent) ∧ t.twin.paused = true ∧ t.twin.released = [] ∧
      KeepsBut [.tok, .fab, .twin] s t) ∧
  (∀ c s, RslServed s c 0x101 → s.repro.paired = .off → s.boot.dieResetOf = none → s.tok.active = some dieCdA →
    s.twin.tender ≠ .absent → s.sec.changes = [] → Does (.dieReset c dieCdB) s fun t =>
      t.boot = { s.boot with
        dieResetOf := some dieCdB, dieResetOwed := [.rsl c], readyA := s.boot.readyA, readyB := false } ∧
      t.twin.tender = .resetting ∧ t.twin.journal = [] ∧
      t.sec = { s.sec with changes := [], tenderStore := KeyStore.empty } ∧
      KeepsBut [.clk, .boot, .tok, .twin, .sec] (afterOpen s c 0x101) t) ∧
  (∀ c s, RslServed s c 0x101 → s.repro.paired = .off → s.boot.dieResetOf = none → s.tok.active = some dieCdA →
    s.twin.tender = .synced → s.twin.handoverAt = none → Does (.dieReset c dieCdA) s fun t =>
      t.boot = { s.boot with dieResetOf := some dieCdA, dieResetOwed := [.rsl c] } ∧
      t.twin.handoverAt = some (s.epoch + 1) ∧ t.twin.handoverReset = true ∧
      KeepsBut [.boot, .twin] (afterOpen s c 0x101) t) ∧
  (∀ c s, s.tok.active = some dieCdA → s.twin.tender = .resetting → s.dieIsReady dieCdB = false →
    s.boot.dieResetOf = some dieCdB → s.boot.dieResetOwed = [.rsl c] → Does (.dieReady dieCdB true) s fun t =>
      t.boot = { s.boot with readyB := true, heldB := false, dieResetOf := none, dieResetOwed := [] } ∧
      RslAnswered s t c 0x101 cOk 0 [] ∧ KeepsBut [.boot, .rsl, .ctrs] s t) ∧
  (∀ s, s.tok.active = some dieCdA → s.twin.tender = .resetting → s.dieIsReady dieCdB = false →
    s.boot.dieResetOf = none → Does (.dieReady dieCdB false) s fun t =>
      t.twin = { s.twin with tender := .held } ∧
      Raised s t 0x0202 sevWarning s.actDie (leBytes 1 dieCdB ++ leBytes 1 (b2n s.boot.runB)) ∧
      KeepsBut [.twin, .evs, .ctrs] s t) ∧
  (∀ hub index s, hub ≤ 1 → Does (.sramUncorrectable (hub + 2) 1 index) s fun t =>
      Tab.get [] t.mem.openPages index = [] ∧ t.mem = { s.mem with openPages := t.mem.openPages } ∧
      KeepsBut [.mem] s t) ∧
  (∀ hub index s, hub ≤ 1 → Does (.sramUncorrectable (hub + 2) 2 index) s fun t =>
      t.mem = { s.mem with counts := s.mem.counts.filter fun e => decide (hubOf e.1 ≠ hub) } ∧ KeepsBut [.mem] s t) ∧
  (∀ n s, n < 66 → Does (.sramUncorrectable 4 0 n) s fun t =>
      (t.port n).st = .fault ∧ KeepsBut [.fab, .ports, .evs, .ctrs] s t)

/-- R60, R78, R96, R103 to R105: the start: straps, crystals, image choice, firmware and configuration checks. Rests
on the model's choices of log 16, 41, 116, 117, 118, 163 and 164. -/
def Obligations.StartChoosesAndChecksAnImage : Prop :=
  (∀ osc idx s, s.power.inputOn = true → s.power.softStart = false → s.power.inReset = false → s.boot.por = false →
    s.power.railGroup = 4 → s.railsSettled = true → Does (.porRelease osc idx) s fun t =>
      t.boot = { s.boot with por := true, stage := 1, oscDly := osc, setIndex := idx } ∧
      t.clk = { s.clk with oscDelay := true } ∧
      t.power = { s.power with cables := s.power.cables.map fun e => (e.1, e.2.identified) } ∧
      KeepsBut [.power, .boot, .clk] s t) ∧
  (∀ xa xb s, s.clk.oscDelay = true → s.boot.por = true → 48128 ≤ 100 * xa → 100 * xa ≤ 54272 → 300800 ≤ 100 * xb →
    100 * xb ≤ 339200 → Does (.oscStartDelayEnd true xa true xb) s fun t =>
      t.clk = { s.clk with
        running := true, oscDelay := false, xaFlag := false, xbFlag := false, xaRefOnXb := false, xbRefOnXa := false
        now := 0 } ∧ t.boot = { s.boot with stage := 2 } ∧ KeepsBut [.clk, .boot] s t) ∧
  (∀ na xb s, s.clk.oscDelay = true → s.boot.por = true → 300800 ≤ 100 * xb → 100 * xb ≤ 339200 →
    Does (.oscStartDelayEnd false na true xb) s fun t =>
      t.clk = { s.clk with
        running := true, oscDelay := false, xaFlag := true, xbFlag := false, xaRefOnXb := true, xbRefOnXa := false
        now := 0 } ∧ t.boot = { s.boot with stage := 2 } ∧ KeepsBut [.clk, .boot, .evs, .ctrs] s t) ∧
  (∀ na nb s, Does (.oscStartDelayEnd false na false nb) s fun t => t = s) ∧
  (∀ s, s.boot.stage = 2 → s.boot.chosen = false → s.boot.recovery = false → s.dieDead dieCdA = false →
    s.candidate false = true → s.candidate true = false → s.boot.aFailed = false → s.boot.bFailed = false →
    Does (.imageChoiceDone true false) s fun t =>
      t.boot = { s.boot with
        chosen := true, runB := false, aOk := true, bOk := false, firstB := false, fallback := false } ∧
      KeepsBut [.boot] s t) ∧
  (∀ a b s, s.boot.stage = 2 → s.boot.chosen = false → s.boot.recovery = false → s.dieDead dieCdA = false →
    s.candidate false = false → s.candidate true = false → Does (.imageChoiceDone a b) s fun t =>
      t.boot = { s.boot with
        recovery := true, stage := 15, readyA := true, readyB := false, readyEpochB := s.epoch } ∧
      KeepsBut [.boot] s t) ∧
  (∀ s, s.boot.stage = 2 → s.boot.chosen = true → s.bootDies = [dieCdA, dieCdB] → s.boot.fwA = false →
    digestOk s.runImage secRot = true → digestOk s.runImage secSvc = true → Does (.dieFirmwareDone dieCdA) s fun t =>
      t.boot = { s.boot with fwA := true, stage := if s.boot.fwB then 3 else 2 } ∧ KeepsBut [.boot] s t) ∧
  (∀ s, s.boot.stage = 2 → s.boot.chosen = true → s.bootDies = [dieCdA, dieCdB] → s.boot.fwA = false →
    digestOk s.runImage secRot = false → Does (.dieFirmwareDone dieCdA) s fun t =>
      t.boot.stage = 2 ∧ t.boot.chosen = false ∧
      (if s.boot.runB then t.boot.bFailed = true ∧ t.boot.aFailed = s.boot.aFailed
        else t.boot.aFailed = true ∧ t.boot.bFailed = s.boot.bFailed) ∧ KeepsBut [.boot] s t) ∧
  (∀ s, s.boot.stage = 3 → s.bootDies = [dieCdA, dieCdB] → s.boot.readyA = false →
    digestOk s.runImage secConfig = true → configOk s.runImage = true → Does (.configCheckDone dieCdA) s fun t =>
      t.cfg = { s.cfg with vals := (imageConfig s.runImage).map fun r => (r.fieldId, some r.value) } ∧
      t.boot = { s.boot with readyA := true, stage := if s.boot.readyB then 4 else 3 } ∧ KeepsBut [.boot, .cfg] s t)

/-- R97, R98, R104, R119, R120, R387: the module loads, calibrates, wipes its memory and is ready. Rests on the
model's choices of log 22, 119, 120, 121 and 122. -/
def Obligations.ModuleLoadsCalibratesAndWipes : Prop :=
  (∀ s, s.boot.stage = 5 → s.tok.active.isSome = true → digestOk s.runImage secHub = true →
    digestOk s.runImage secPort = true → digestOk s.runImage secTrain = true → Does .loadStageDone s fun t =>
      t.boot = { s.boot with loaded := true, stage := 6 } ∧
      (∀ n, n < 1024 → Tab.get none t.mem.keys n = some (keyPair (Config.drawn (s.fresh + n)))) ∧
      t.mem.pkey = some (keyPair (Config.drawn (s.fresh + 1024))) ∧ t.fresh = s.fresh + 1025 ∧ SameBytes s t ∧
      KeepsBut [.fab, .boot, .mem, .evs, .ctrs, .fresh] s t) ∧
  (∀ d s, s.boot.stage = 5 → s.tok.active = some d → digestOk s.runImage secHub = false →
    Does .loadStageDone s fun t =>
      t.tok.active = none ∧ t.boot.stage = 2 ∧ t.boot.chosen = false ∧ t.boot.tokenEpoch = none ∧
      t.evs = { s.evs with started := false } ∧
      (∀ od, od ∈ s.odsAlive → Tab.get false s.tok.linkDown (tokLink d od) = false → ⟨.release, d, od⟩ ∈ t.tok.sent) ∧
      KeepsBut [.tok, .boot, .evs] s t) ∧
  (∀ n s, s.boot.stage = 6 → n ≤ 11 → Tab.get false s.boot.calDone n = false →
    (∃ m, m ≤ 11 ∧ m ≠ n ∧ Tab.get false s.boot.calDone m = false ∧ (s.stack m).st ≠ .failed) →
    Does (.stackCalDone n true) s fun t =>
      Tab.get false t.boot.calDone n = true ∧ t.boot = { s.boot with calDone := t.boot.calDone } ∧
      KeepsBut [.boot] s t) ∧
  (∀ n s, s.boot.stage = 6 → n ≤ 11 → Tab.get false s.boot.calDone n = false →
    (∀ m, m ≤ 11 → m ≠ n → Tab.get false s.boot.calDone m = true) → Does (.stackCalDone n true) s fun t =>
      t.boot.stage = 7 ∧ t.boot.wipeRange = 0 ∧ t.boot.wipeStart = some s.epoch ∧ KeepsBut [.boot] s t) ∧
  (∀ n s, s.boot.stage = 6 → n ≤ 11 → Tab.get false s.boot.calDone n = false → (s.stack n).st ≠ .failed →
    Does (.stackCalDone n false) s fun t =>
      (t.stack n).st = .failed ∧ Tab.get false t.boot.calDone n = true ∧
      KeepsBut [.boot, .ports, .fab, .pool, .coh, .coach, .stock, .mem, .twin, .sec, .rsl, .evs, .ctrs, .fresh] s t) ∧
  (∀ s, s.boot.stage = 7 → s.boot.wipeStart.isSome = true → s.boot.wipeRange ≤ 2 →
    let r := wipeRangeOf s.boot.wipeRange
    Does .wipeRangeDone s fun t =>
      t.boot.wipeRange = s.boot.wipeRange + 1 ∧
      (∀ a, 65536 * r.1 ≤ a → a < 65536 * (r.1 + r.2) → t.byteAt a = 0) ∧
      BytesKept (r.1 * 65536) (r.2 * 65536) s t ∧
      (s.boot.wipeRange = 1 → t.boot.poolReady = some s.epoch ∧ t.boot.stage = 8) ∧
      KeepsBut [.boot, .mem, .twin, .evs, .ctrs] s t)

/-- R99, R110, R111, R116 to R118, R381, R385: start-up status, the life cycle and configuration over the service
link. Rests on the model's choices of log 14 and 123. -/
def Obligations.LifeCycleAndConfigurationOverTheServiceLink : Prop :=
  (∀ c s, RslServed s c 0x104 →
    RslRuns (.bootStatus c) s c 0x104 0 (leBytes 4 (bootStatus s)) [] fun _ => True) ∧
  (∀ c target s, RslServed s c 0x106 → (target = 2 ∨ target = 3) → s.boot.lc ≠ 0 → s.boot.lc < target →
    s.lcRunning = false → s.pool.exts = [] → s.coh.domains = [] → s.repro.regions = [] → s.sec.sessions = [] →
    Does (.lcAdvance c target) s fun t =>
      t.boot.lc = target ∧ t.boot.lcTarget = none ∧ t.boot.resetAt = some s.epoch ∧ t.boot.resetCause = 6 ∧
      t.sec = { s.sec with
        sealDead := s.sec.sealDead || decide (target = 3)
        sealSecret := if target = 3 then 2 ^ 384 - 1 else s.sec.sealSecret } ∧
      RslAnswered (afterOpen s c 0x106) t c 0x106 cOk 0 [] ∧
      KeepsBut (cplParts 0x106 ++ [.boot, .sec]) (afterOpen s c 0x106) t) ∧
  (∀ c target s, RslServed s c 0x106 → (target = 2 ∨ target = 3) → (s.boot.lc = 0 ∨ target ≤ s.boot.lc) →
    Does (.lcAdvance c target) s fun t =>
      RslAnswered (afterOpen s c 0x106) t c 0x106 cUnsupported 0 [] ∧
      KeepsBut (cplParts 0x106) (afterOpen s c 0x106) t) ∧
  (∀ c s, RslServed s c 0x107 → s.boot.lc = 0 →
    RslRuns (.provision c true) s c 0x107 0 [] [.sec, .boot, .fresh] fun t =>
      t.sec = { s.sec with
        identity := true, dbgLock := true
        idSeed := Config.drawn s.fresh % 2 ^ 384, sealSecret := Config.drawn (s.fresh + 1) % 2 ^ 384 } ∧
      t.boot = { s.boot with lc := 1, resetAt := some s.epoch, resetCause := 7 }) ∧
  (∀ c b s, RslServed s c 0x107 → s.boot.lc ≠ 0 → Does (.provision c b) s fun t =>
      RslAnswered (afterOpen s c 0x107) t c 0x107 cUnsupported 0 [] ∧
      KeepsBut (cplParts 0x107) (afterOpen s c 0x107) t) ∧
  (∀ c s, RslServed s c 0x107 → s.boot.lc = 0 → Does (.provision c false) s fun t =>
      RslAnswered (afterOpen s c 0x107) t c 0x107 cRights 0 [] ∧
      KeepsBut (cplParts 0x107) (afterOpen s c 0x107) t) ∧
  (∀ c f id v s, RslServed s c 0x110 → fieldOf id = some f → v < 256 ^ f.len → f.rw = true → f.inRange v = true →
    Does (.cfgWrite c id v) s fun t =>
      Tab.get none t.cfg.shadow id = some v ∧ t.cfg.held = s.cfg.held ++ [(.rsl c, s.epoch + 1)] ∧
      t.cfg.vals = s.cfg.vals ∧ KeepsBut [.cfg, .twin] (afterOpen s c 0x110) t) ∧
  (∀ c f id v s, RslServed s c 0x110 → fieldOf id = some f → v < 256 ^ f.len → f.rw = false →
    Does (.cfgWrite c id v) s fun t =>
      RslAnswered (afterOpen s c 0x110) t c 0x110 cLocked 0 [] ∧ KeepsBut (cplParts 0x110) (afterOpen s c 0x110) t) ∧
  (∀ c f id v s, RslServed s c 0x110 → fieldOf id = some f → v < 256 ^ f.len → f.rw = true → f.inRange v = false →
    Does (.cfgWrite c id v) s fun t =>
      RslAnswered (afterOpen s c 0x110) t c 0x110 cMalformed 0 [] ∧ KeepsBut (cplParts 0x110) (afterOpen s c 0x110) t) ∧
  (∀ c f id s, RslServed s c 0x111 → fieldOf id = some f →
    RslRuns (.cfgRead c id) s c 0x111 0 (leBytes 8 (s.cfgAt id) ++
      leBytes 8 ((Tab.get none s.cfg.shadow id).getD (s.cfgAt id)) ++
      leBytes 1 (b2n (Tab.get none s.cfg.shadow id).isSome)) [] fun _ => True)

/-- R412, R414, R418 to R421: status words, counters, records, echoes, bad frames and repeated commands. Rests on the
model's choices of log 10, 125 and 127. -/
def Obligations.ServiceLinkReadsAndRepeats : Prop :=
  (∀ c word count index size n s, RslServed s c 0x112 → statusShape word = some (size, n) → count ≠ 0 →
    index + count ≤ n → RslRuns (.statusRead c word count index) s c 0x112 s.epoch
      ((List.range count).flatMap fun i => leBytes size (statusWord s word (index + i))) [] fun _ => True) ∧
  (∀ c g count index n k s, Reaches (.rsl c) 0x88 [1, 5] 0xFFFF00FF#32 s →
    let r := reached (.rsl c) 0x88 s
    let bytes := (List.range count).flatMap fun i => (List.range k).flatMap fun j => leBytes 8 (r.ctr g (index + i) j)
    ctrShape g = some (n, k) → 1 ≤ count → count ≤ 256 → index + count ≤ n → count * k * 8 ≤ 65536 →
    Does (.ctrRead (.rsl c) g count index 0) s fun t =>
      RslAnswered r t c 0x88 cOk bytes.length (extCplBody cOk 0 0 bytes.length (zeros 16) ++ bytes) ∧
      KeepsBut [.rsl, .ctrs] r t) ∧
  (∀ h g count index dst n k s, Reaches (.fabric h) 0x88 [1, 5] 0xFFFF00FF#32 s →
    let r := reached (.fabric h) 0x88 s
    let bytes := (List.range count).flatMap fun i => (List.range k).flatMap fun j => leBytes 8 (r.ctr g (index + i) j)
    ctrShape g = some (n, k) → 1 ≤ count → count ≤ 256 → index + count ≤ n → count * k * 8 ≤ 65536 →
    r.ctrMine h.src g index count = true → dst % 64 = 0 → r.argFail (.fabric h) dst bytes.length needW = none →
    Does (.ctrRead (.fabric h) g count index dst) s fun t =>
      Completes r t (.fabric h) 0x88 0x46 cOk bytes.length (extCplBody cOk 0 0 bytes.length (zeros 16)) [] ∧
      KeepsBut ([.mem, .evs, .fresh] ++ answerParts) r t) ∧
  (∀ h g count index dst n k s, Reaches (.fabric h) 0x88 [1, 5] 0xFFFF00FF#32 s →
    let r := reached (.fabric h) 0x88 s
    ctrShape g = some (n, k) → 1 ≤ count → count ≤ 256 → index + count ≤ n → count * k * 8 ≤ 65536 →
    r.ctrMine h.src g index count = false → Does (.ctrRead (.fabric h) g count index dst) s fun t =>
      Completes r t (.fabric h) 0x88 0x46 cRights 0 (extCplBody cRights 0 0 0 (zeros 16)) [] ∧
      KeepsBut answerParts r t) ∧
  (∀ c obj index bytes tenant s, Reaches (.rsl c) 0x89 [1, 5] (BitVec.allOnes 32) s →
    let r := reached (.rsl c) 0x89 s
    r.objRecord obj index = some (bytes, tenant) → Does (.objQuery (.rsl c) obj index 0) s fun t =>
      RslAnswered r t c 0x89 cOk bytes.length (extCplBody cOk 0 0 bytes.length (zeros 16) ++ bytes) ∧
      KeepsBut [.rsl, .ctrs] r t) ∧
  (∀ h obj index dst bytes tenant s, Reaches (.fabric h) 0x89 [1, 5] (BitVec.allOnes 32) s →
    let r := reached (.fabric h) 0x89 s
    (obj = 1 → Mastered r) → r.objRecord obj index = some (bytes, some tenant) → r.tenantOf h.src = some tenant → dst % 64 = 0 →
    r.argFail (.fabric h) dst bytes.length needW = none → Does (.objQuery (.fabric h) obj index dst) s fun t =>
      Completes r t (.fabric h) 0x89 0x46 cOk bytes.length (extCplBody cOk 0 0 bytes.length (zeros 16)) [] ∧
      KeepsBut ([.mem, .evs, .fresh] ++ answerParts) r t) ∧
  (∀ c e s, RslServed s c 0x116 → RslRuns (.rslEcho c e) s c 0x116 s.epoch (leBytes 8 e) [] fun _ => True) ∧
  (∀ p n s, p ≤ 1 → s.portUp (64 + p) = true → (n < 16 ∨ 65568 < n) → Does (.rslFrameInvalid p n) s fun t =>
      t.portUp (64 + p) = false ∧ (t.port (64 + p)).peerGen = 0 ∧
      KeepsBut [.ports, .rsl, .evs, .ctrs, .fresh] s t) ∧
  (∀ p n s, p ≤ 1 → 16 ≤ n → n ≤ 65568 → Does (.rslFrameInvalid p n) s fun t => t = s) ∧
  (∀ p tag cmd s, p ≤ 1 → s.boot.por = true → s.tagFound tag cmd = .opened → Does (.rslCommandRepeat p tag cmd) s fun t =>
      t.rsl = { s.rsl with
        opens := s.rsl.opens.map (fun o => if o.tag = tag then { o with port := p } else o)
        out := s.rsl.out.map (fun f => if f.tag = tag then { f with port := p } else f) } ∧
      KeepsBut [.rsl, .ctrs] s t) ∧
  (∀ p tag cmd f s, p ≤ 1 → s.boot.por = true → s.tagFound tag cmd = .keptSame f →
    Does (.rslCommandRepeat p tag cmd) s fun t =>
      (∃ q, t.rsl = { s.rsl with out := s.rsl.out ++ [{ f with port := q }] }) ∧ KeepsBut [.rsl, .ctrs] s t)

/-- R422 to R425: events are numbered, queued, acknowledged, and limited by code. Rests on the model's choices of log
126 and 140. -/
def Obligations.EventsAreQueuedAcknowledgedAndLimited : Prop :=
  (∀ c seq s, RslServed s c 0x114 → RslRuns (.evAck c seq) s c 0x114 0 [] [.evs] fun t =>
      t.evs = { s.evs with
        queue := s.evs.queue.filter (fun v => !decide ((seq % two32 + two32 - v.seq) % two32 < 0x80000000)) }) ∧
  (∀ s, s.clk.running = true → s.epoch % s.cfgAt fEvRefill = 0 → (∀ code, Tab.get 0 s.evs.suppressed code = 0) →
    Does .evBucketRefill s fun t =>
      (∀ code, Tab.get 0 t.evs.spent code = Tab.get 0 s.evs.spent code - 1) ∧
      t.evs = { s.evs with spent := t.evs.spent } ∧ KeepsBut [.evs] s t) ∧
  (∀ s, s.epoch % s.cfgAt fEvRefill ≠ 0 → Does .evBucketRefill s fun t => t = s) ∧
  (∀ v s, v.severity ≠ sevFatal → v.code ≠ evSuppressed → s.evs.queue.length < 1024 →
    Tab.get 0 s.evs.spent v.code < s.cfgAt fEvBurst →
        let t := s.queueEv v
    let w : Ev := { v with seq := s.evs.nextSeq, suppressed := Tab.get 0 s.evs.suppressed v.code }
    t.evs.queue = s.evs.queue ++ [w] ∧ t.evs.out = s.evs.out ++ [(w, none)] ∧ t.evs.nextSeq = nextEvSeq s.evs.nextSeq ∧
      Tab.get 0 t.evs.suppressed v.code = 0 ∧ Tab.get 0 t.evs.spent v.code = Tab.get 0 s.evs.spent v.code + 1 ∧
      KeepsBut [.evs] s t) ∧
  (∀ v s, v.severity ≠ sevFatal → v.code ≠ evSuppressed → s.evs.queue.length < 1024 →
    s.cfgAt fEvBurst ≤ Tab.get 0 s.evs.spent v.code →
    let t := s.queueEv v
    t.evs.queue = s.evs.queue ∧ t.evs.out = s.evs.out ∧
      Tab.get 0 t.evs.suppressed v.code = min (Tab.get 0 s.evs.suppressed v.code + 1) (two32 - 1) ∧
      Counted s t 10 0 30 1 ∧ KeepsBut [.evs, .ctrs] s t) ∧
  (∀ v s, v.severity ≠ sevFatal → 1024 ≤ s.evs.queue.length →
    let t := s.queueEv v
    t.evs.queue = s.evs.queue ∧ t.evs.out = s.evs.out ∧
      Tab.get 0 t.evs.suppressed v.code = min (Tab.get 0 s.evs.suppressed v.code + 1) (two32 - 1) ∧
      Counted s t 10 0 31 1 ∧ KeepsBut [.evs, .ctrs] s t) ∧
  (∀ v s, v.severity = sevFatal → s.evs.queue.length < 1024 → s.rslBothUp = true →
    let t := s.queueEv v
    let w : Ev := { v with seq := s.evs.nextSeq, suppressed := Tab.get 0 s.evs.suppressed v.code }
    t.evs.queue = s.evs.queue ++ [w] ∧ (w, some 0) ∈ t.evs.out ∧ (w, some 1) ∈ t.evs.out ∧ KeepsBut [.evs] s t)

/-- R105, R382 to R385, R389 to R394: attestation, certificates, firmware images, minimum version, debug and the key
store. Rests on the model's choices of log 25, 128, 129, 130, 131, 132, 141, 142 and 164. -/
def Obligations.IdentityImagesAndKeysAreServed : Prop :=
  (∀ v nonce dst scope s, Reaches v 0x80 [5] 0 s →
    let r := reached v 0x80 s
    let tn := r.tenantOf (r.viaHost v)
    scope ≤ 1 → (scope = 0 → viaOperator v = true) → (viaOperator v = false ∨ scope = 1 → tn.isSome = true) →
    r.dstBad v dst 1024 = none → r.boot.lc ≠ 0 → r.boot.recovery = false → r.sec.attests.length < 64 →
    Does (.attest v nonce dst scope 0) s fun t =>
      t.sec = { r.sec with attests := r.sec.attests ++ [⟨v, nonce, dst, scope, tn.getD 0, r.epoch, []⟩] } ∧
      KeepsBut [.sec] r t) ∧
  (∀ c a s, s.twin.paused = false → s.tok.silent = false → s.tok.active.isSome = true → s.sec.attests = [a] →
    a.report = [] → a.epoch < s.epoch → a.owed = .rsl c → a.dst = 0 → s.attestRetry a.epoch = none →
    Does .attestSign s fun t =>
      t.sec.attests = [] ∧ t.fresh = s.fresh + 1 ∧
      RslAnswered s t c 0x80 cOk (ofLe (((s.reportBytes a).drop 8).take 8))
        (secBody cOk (ofLe (((s.reportBytes a).drop 8).take 8)) ++ (s.reportBytes a ++
          signWith (signingKey s) (privateKey (Config.drawn s.fresh)) (s.reportBytes a))) ∧
      KeepsBut [.sec, .rsl, .ctrs, .fresh] s t) ∧
  (∀ c a e s, s.twin.paused = false → s.tok.silent = false → s.tok.active.isSome = true → s.sec.attests = [a] →
    a.report = [] → a.epoch < s.epoch → a.owed = .rsl c → s.attestRetry a.epoch = some e → Does .attestSign s fun t =>
      t.sec.attests = [] ∧ RslAnswered s t c 0x80 cBusy e (secBody cBusy e) ∧ KeepsBut [.sec, .rsl, .ctrs] s t) ∧
  (∀ c s, Reaches (.rsl c) 0x85 [5] 0 s →
    let r := reached (.rsl c) 0x85 s
    Does (.certGet (.rsl c) 0 0) s fun t =>
      RslAnswered r t c 0x85 cOk 0 (secBody cOk 0 ++ certBytes r) ∧ KeepsBut [.rsl, .ctrs] r t) ∧
  (∀ c flash len data s, RslServed s c 0x105 → flash ≤ 1 → 2048 ≤ len → len ≤ 65536 → data.length = len →
    s.boot.lc ≠ 3 → (s.boot.recovery = true ∨ flash ≠ b2n s.boot.runB) → s.sec.pend ≠ .writing →
    headerOk s.sec s.boot.lc data = true → s.versionAbove data = true →
    RslRuns (.imageWrite c flash 0 0 len data) s c 0x105 0 [] [.boot, .sec] fun t =>
      t.sec = { s.sec with pend := .writing, pendNext := len, pendFlash := flash } ∧
      t.flash (decide (flash = 1)) = data ∧ t.flash (decide (flash ≠ 1)) = s.flash (decide (flash ≠ 1)) ∧
      t.boot = { s.boot with
        flashA := t.boot.flashA, flashB := t.boot.flashB, wpA := !decide (flash = 0), wpB := !decide (flash = 1) }) ∧
  (∀ c flash off len data s, RslServed s c 0x105 → flash ≤ 1 → off % 4096 = 0 → 0 < len → len ≤ 65536 →
    data.length = len → off + len ≤ flashBytes → s.boot.lc ≠ 3 → (s.boot.recovery = true ∨ flash ≠ b2n s.boot.runB) →
    s.sec.pend = .writing → flash = s.sec.pendFlash → off = s.sec.pendNext →
    let f := s.flash (decide (flash = 1)) ++ data
    RslRuns (.imageWrite c flash 0 off len data) s c 0x105 0 [] [.boot, .sec] (fun t =>
      t.sec = { s.sec with pend := .writing, pendNext := f.length } ∧ t.flash (decide (flash = 1)) = f ∧
      t.flash (decide (flash ≠ 1)) = s.flash (decide (flash ≠ 1))) ∧
    (sectionsOk f = true → RslRuns (.imageWrite c flash 1 off len data) s c 0x105 0 [] [.boot, .sec, .evs] fun t =>
      t.sec = { s.sec with pend := .staged, pendNext := 0 } ∧ t.flash (decide (flash = 1)) = f ∧
      t.flash (decide (flash ≠ 1)) = s.flash (decide (flash ≠ 1)) ∧ t.boot.wpA = true ∧ t.boot.wpB = true ∧
      Raised s t 0x0205 sevInfo s.actDie (leBytes 4 (imageVersion f) ++ leBytes 4 (imageSecVersion f)))) ∧
  (∀ c flash len data s, RslServed s c 0x105 → flash ≤ 1 → 0 < len → len ≤ 65536 → data.length = len →
    s.boot.recovery = false → flash = b2n s.boot.runB → Does (.imageWrite c flash 0 0 len data) s fun t =>
      RslAnswered (afterOpen s c 0x105) t c 0x105 cUnsupported 0 [] ∧
      KeepsBut (cplParts 0x105) (afterOpen s c 0x105) t) ∧
  (∀ c s, RslServed s c 0x109 → s.debugOpened = false → s.lcRunning = false → s.pool.exts = [] → s.coh.domains = [] →
    s.repro.regions = [] → s.sec.sessions = [] → Does (.debugOpen c true) s fun t =>
      t.sec = { s.sec with sealDead := true, sealSecret := 2 ^ 384 - 1, dbgReopen := true } ∧ t.boot.resetAt = some s.epoch ∧
      t.boot.resetCause = 5 ∧ t.boot.lc = s.boot.lc ∧
      RslAnswered (afterOpen s c 0x109) t c 0x109 cOk 0 [] ∧
      KeepsBut (cplParts 0x109 ++ [.boot, .sec]) (afterOpen s c 0x109) t) ∧
  (∀ c s, RslServed s c 0x109 → Does (.debugOpen c false) s fun t =>
      RslAnswered (afterOpen s c 0x109) t c 0x109 cRights 0 [] ∧ KeepsBut (cplParts 0x109) (afterOpen s c 0x109) t) ∧
  (∀ c cmd code value data k rest s, s.sec.changes = (k, [heldRsl c cmd code value data]) :: rest →
    Does .keystoreChangeAck s fun t =>
      t.sec = { s.sec with changes := rest, tenderStore := k } ∧ t.twin.keyStoreSent = true ∧
      RslAnswered s t c cmd code value data ∧ KeepsBut [.twin, .sec, .rsl, .ctrs] s t)

/-- R395 to R397, R401: sessions are opened, proven, closed, and end; no SESSION_ID is drawn twice. Rests on the
model's choices of log 22, 133, 134, 141 and 142. -/
def Obligations.SessionsAreOpenedProvenAndClosed : Prop :=
  (∀ v hello out bytes q s, Reaches v 0x81 [5] 0 s →
    let r := reached v 0x81 s
    let a := q.drawSession
    let b := a.1.challenge a.2 (bytes.take 160)
    direct v = true → hello % 64 = 0 → out % 64 = 0 → r.argFail v hello 160 needR = none →
    r.argFail v out 256 needW = none → r.pendingSessions < 64 → r.readLines hello 3 = (q, some bytes) →
    helloOk (bytes.take 160) = true → Does (.sessOpen v hello out 0) s fun t =>
      t.sec = { r.sec with
        usedIds := r.sec.usedIds ++ [a.2]
        sessions := r.sec.sessions ++
          [(newSession a.2 (r.viaHost v) .pending false r.epoch).keyed "YC960 corxel session" b.2.2 (bytes.take 160) b.2.1] } ∧
      b.2.1.length = 256 ∧ t.mem = (b.1.putPool out b.2.1).mem ∧
      Completes r t v 0x81 0x86 cOk a.2 (secBody cOk a.2) [] ∧ KeepsBut ([.mem, .evs, .fresh] ++ answerParts) r t) ∧
  (∀ v hello out s, Reaches v 0x81 [5] 0 s →
    let r := reached v 0x81 s
    hello % 64 = 0 → out % 64 = 0 → r.argFail v hello 160 needR = none → r.argFail v out 256 needW = none →
    64 ≤ r.pendingSessions → Does (.sessOpen v hello out 0) s fun t =>
      Completes r t v 0x81 0x86 cBusy (r.epoch + 256) (secBody cBusy (r.epoch + 256)) [] ∧ KeepsBut answerParts r t) ∧
  (∀ v sid x s, Reaches v 0x82 [5] 0 s →
    let r := reached v 0x82 s
    let y : Session := { x with st := .established }
    direct v = true → r.sec.sessions.find? (fun x => decide (x.id = sid ∧ x.host = r.viaHost v ∧ x.st = .pending)) = some x →
    r.sec.sessions.any (standsFor (r.viaHost v)) = false → r.rootWaits = false →
    Does (.sessProve v sid 0 0 0) s fun t =>
      t.sec = { r.sec with
        sessions := r.sec.sessions.filter (fun z => decide (z.id ≠ sid)) ++ [{ y with mask := r.maskFor y }] } ∧
      (x.proven = false → r.maskFor y = []) ∧
      Completes r t v 0x82 0x86 cOk (r.maskFor y).length (secBody cOk (r.maskFor y).length) [] ∧
      KeepsBut answerParts r t) ∧
  (∀ c sid x s, Reaches (.rsl c) 0x82 [5] 0 s →
    let r := reached (.rsl c) 0x82 s
    let y : Session := { x with st := .established }
    r.sec.sessions.find? (fun x => decide (x.id = sid ∧ x.host = c.host ∧ x.st = .pending)) = some x →
    r.rootWaits = false → Does (.sessProve (.rsl c) sid 0 0 0) s fun t =>
      (∃ rest, t.sec.sessions = rest ++ [{ y with mask := r.maskFor y }] ∧
        (∀ z, z ∈ rest → z ∈ r.sec.sessions ∧ z.id ≠ sid ∧ standsFor c.host z = false) ∧
        (∀ z, z ∈ r.sec.sessions → z.id ≠ sid → (∀ w, w ∈ r.sec.sessions → w.id = z.id → standsFor c.host w = false) →
          z ∈ rest)) ∧
      RslAnswered r t c 0x82 cOk (r.maskFor y).length (secBody cOk (r.maskFor y).length) ∧ KeepsBut answerParts r t) ∧
  (∀ v sid evid len x e q s, Reaches v 0x82 [5] 0 s →
    let r := reached v 0x82 s
    let y : Session := { x.proved e with st := .established }
    direct v = true → r.sec.sessions.find? (fun x => decide (x.id = sid ∧ x.host = r.viaHost v ∧ x.st = .pending)) = some x →
    evid % 64 = 0 → (len = 448 ∨ len = 640 ∨ len = 832) → r.argFail v evid len needR = none →
    r.readLines evid (len / 64) = (q, some e) → evidenceForm e = true → evidenceVerifies x.th e = true →
    q.sec.sessions.any (standsFor (r.viaHost v)) = false → q.rootWaits = false →
    Does (.sessProve v sid evid len 0) s fun t =>
      t.sec = { q.sec with
        sessions := q.sec.sessions.filter (fun z => decide (z.id ≠ sid)) ++ [{ y with mask := q.maskFor y }] } ∧
      Completes q t v 0x82 0x86 cOk (q.maskFor y).length (secBody cOk (q.maskFor y).length) [] ∧
      KeepsBut answerParts q t ∧ KeepsBut [.mem, .twin, .evs, .ctrs, .fresh] r q) ∧
  (∀ v sid evid len x e q s, Reaches v 0x82 [5] 0 s →
    let r := reached v 0x82 s
    direct v = true → r.sec.sessions.find? (fun x => decide (x.id = sid ∧ x.host = r.viaHost v ∧ x.st = .pending)) = some x →
    evid % 64 = 0 → (len = 448 ∨ len = 640 ∨ len = 832) → r.argFail v evid len needR = none →
    r.readLines evid (len / 64) = (q, some e) → evidenceForm e = true → evidenceVerifies x.th e = false →
    Does (.sessProve v sid evid len 0) s fun t =>
      t.sec = { q.sec with sessions := q.sec.sessions.filter (fun z => decide (z.id ≠ sid)) } ∧
      Completes q t v 0x82 0x86 cRights 0 (secBody cRights 0) [] ∧ KeepsBut answerParts q t) ∧
  (∀ v sid evid len s, Reaches v 0x82 [5] 0 s →
    let r := reached v 0x82 s
    evid % 64 = 0 →
    r.sec.sessions.find? (fun x => decide (x.id = sid ∧ x.host = r.viaHost v ∧ x.st = .pending)) = none →
    Does (.sessProve v sid evid len 0) s fun t =>
      Completes r t v 0x82 0x86 cRights 0 (secBody cRights 0) [] ∧ KeepsBut answerParts r t) ∧
  (∀ v sid s, Reaches v 0x83 [1] (BitVec.allOnes 32) s →
    let r := reached v 0x83 s
    direct v = true → r.sec.sessions.any (fun x => decide (x.id = sid ∧ x.host = r.viaHost v)) = true →
    r.rootWaits = false → Does (.sessClose v sid) s fun t =>
      t.sec = { r.sec with sessions := r.sec.sessions.filter (fun z => decide (z.id ≠ sid)) } ∧
      Completes (r.withoutAnswers sid) t v 0x83 0x86 cOk 0 (secBody cOk 0) [] ∧ KeepsBut answerParts r t) ∧
  (∀ v sid s, Reaches v 0x83 [1] (BitVec.allOnes 32) s →
    let r := reached v 0x83 s
    direct v = true → r.sec.sessions.any (fun x => decide (x.id = sid ∧ x.host = r.viaHost v)) = true →
    r.rootWaits = true → Does (.sessClose v sid) s fun t =>
      t.sec = { r.sec with
        sessions := r.sec.sessions.filter (fun z => decide (z.id ≠ sid))
        changes := r.sec.changes ++ [(({ r with sec := { r.sec with
          sessions := r.sec.sessions.filter (fun z => decide (z.id ≠ sid)) } } : State).keyStore, [heldSec v 0x83 cOk 0 []])] } ∧
      t.fab = (r.withoutAnswers sid).fab ∧ KeepsBut [.sec, .fab] r t) ∧
  (∀ sid x s, x ∈ s.sec.sessions → x.id = sid → x.st = .pending → x.opened + 256 ≤ s.epoch →
    Does (.sessionPendingTimeout sid) s fun t =>
      t.sec = { s.sec with sessions := s.sec.sessions.filter (fun z => decide (z.id ≠ sid)) } ∧ KeepsBut [.sec] s t) ∧
  (∀ sid s, (∀ x, x ∈ s.sec.sessions → x.id = sid → x.st = .pending → s.epoch < x.opened + 256) →
    Does (.sessionPendingTimeout sid) s fun t => t = s) ∧
  (∀ s : State, s.sec.usedIds.length < two32 - 1 →
    let r := s.drawSession
    0 < r.2 ∧ r.2 < two32 ∧ r.2 ∉ s.sec.usedIds ∧ r.1.sec.usedIds = s.sec.usedIds ++ [r.2])

/-- R400, R401: the receive window takes each SEQ once, and 256 tag failures end a session. Rests on the model's
choices of log 135. -/
def Obligations.ReceiveWindowTakesEachMessageOnce : Prop :=
  (∀ h op sid resv seq cipher tag plain x s, s.attended = true → s.fabricSession sid h.src = some x →
    x.passed.contains h.jidx = false → x.seen.contains seq = false → x.high ≤ seq + 1024 →
    gcmOpen x.keyHp (sessNonce x.id seq) (receivedHeader h op ++ securityBlock sid resv seq) cipher tag = some plain →
    Does (.encryptedMessageRx h op sid resv seq cipher tag) s fun t =>
      t = (s.setSession { x with
        seen := seq :: x.seen.filter (fun n => decide (max x.high seq ≤ n + 1024))
        high := max x.high seq }).openMessage sid h.jidx) ∧
  (∀ h op sid resv seq cipher tag x s, s.attended = true → s.fabricSession sid h.src = some x →
    x.passed.contains h.jidx = false → (x.seen.contains seq = true ∨ seq + 1024 < x.high) →
    Does (.encryptedMessageRx h op sid resv seq cipher tag) s fun t =>
      Counted s t 3 x.host 6 1 ∧ (∀ q, q ∈ t.twin.reqs → q ∈ s.twin.reqs ∧ q.jidx ≠ h.jidx) ∧
      KeepsBut [.twin, .ctrs] s t) ∧
  (∀ h op sid resv seq cipher tag x s, s.attended = true → s.fabricSession sid h.src = some x →
    x.passed.contains h.jidx = false → x.seen.contains seq = false → x.high ≤ seq + 1024 →
    gcmOpen x.keyHp (sessNonce x.id seq) (receivedHeader h op ++ securityBlock sid resv seq) cipher tag = none →
    x.fails < 255 → Does (.encryptedMessageRx h op sid resv seq cipher tag) s fun t =>
      t.sec = (s.setSession { x with
        seen := x.seen.filter (fun n => decide (max x.high seq ≤ n + 1024)), high := max x.high seq
        fails := x.fails + 1 }).sec ∧
      Counted s t 3 x.host 7 1 ∧ (∀ q, q ∈ t.twin.reqs → q ∈ s.twin.reqs ∧ q.jidx ≠ h.jidx) ∧
      KeepsBut [.sec, .twin, .ctrs] s t) ∧
  (∀ h op sid resv seq cipher tag x s, s.attended = true → s.fabricSession sid h.src = some x →
    x.passed.contains h.jidx = false → x.seen.contains seq = false → x.high ≤ seq + 1024 →
    gcmOpen x.keyHp (sessNonce x.id seq) (receivedHeader h op ++ securityBlock sid resv seq) cipher tag = none →
    255 ≤ x.fails → s.rootWaits = false → Does (.encryptedMessageRx h op sid resv seq cipher tag) s fun t =>
      (∀ y, y ∈ t.sec.sessions → y.id ≠ sid) ∧ t.fab = (s.withoutAnswers sid).fab ∧ Counted s t 3 x.host 7 1 ∧
      KeepsBut [.fab, .sec, .twin, .ctrs] s t) ∧
  (∀ h op sid resv seq cipher tag s, s.attended = true → s.fabricSession sid h.src = none →
    Does (.encryptedMessageRx h op sid resv seq cipher tag) s fun t =>
      (∀ q, q ∈ t.twin.reqs → q ∈ s.twin.reqs ∧ q.jidx ≠ h.jidx) ∧ KeepsBut [.twin] s t) ∧
  (∀ h op sid resv seq cipher tag x s,
    (s.attended = false ∨ (s.fabricSession sid h.src = some x ∧ x.passed.contains h.jidx = true)) →
    Does (.encryptedMessageRx h op sid resv seq cipher tag) s fun t => t = s) ∧
  (∀ (s : State) (x y : Session) seq aad cipher tag plain aad' cipher' tag', s.sec.sessions = [x] →
    x.seen.contains seq = false → x.high ≤ seq + 1024 →
    gcmOpen x.keyHp (sessNonce x.id seq) aad cipher tag = some plain →
    (s.receiveSeq x seq aad cipher tag).2 = some plain ∧
    ((s.receiveSeq x seq aad cipher tag).1.sec.sessions = [y] →
      ((s.receiveSeq x seq aad cipher tag).1.receiveSeq y seq aad' cipher' tag').2 = none))

/-- R402, R403: sealed bundles are imported, or the import is undone, and slots are read. Rests on the model's choices
of log 26, 132, 137, 141, 142 and 165. -/
def Obligations.SealedBundlesAreImportedOrUndone : Prop :=
  (∀ v dst stage offset n s, Reaches v 0x84 [5] 0 s →
    let r := reached v 0x84 s
    let d := r.ext dst
    let g := r.ext stage
    let b := (r.stageBytes (2 ^ 43 * stage + offset) 1024).getD []
    dst ≤ 16383 → stage ≤ 16383 → offset % 64 = 0 → r.boot.lc = 2 → r.sec.sealDead = false →
    (viaOperator v = true ∨ (d.ownedBy (r.viaHost v) = true ∧ r.grant stage (r.viaHost v) % 2 = 1)) →
    d.st = .active → g.st = .active → d.shared = true → d.sealed = false → d.domain = none → r.isVersion dst = false →
    g.sealed = false → g.tenant = d.tenant → r.holdCount dst = 0 → bundleOk r b d g offset = true → n ≤ 1023 →
    (r.slot n).st = .free → (∀ m, m < n → (r.slot m).st ≠ .free) →
    Does (.sealImport v dst stage offset 0) s fun t =>
      t.slot n = { st := .importing, ext := dst, tenant := d.tenant, header := b, key := (bundleKey r b).getD [],
                   owed := [v], stageExt := stage, stageOffset := offset } ∧
      (∀ m, m ≠ n → t.slot m = r.slot m) ∧
      t.ext dst = { d with sealed := true, key := 3072 + n } ∧ (∀ e, e ≠ dst → t.ext e = r.ext e) ∧
      (∀ h, h < 4096 → t.grant dst h = r.grant dst h % 4) ∧
      (∀ e h, e ≠ dst → h < 4096 → t.grant e h = r.grant e h) ∧
      (∀ i, i < d.localGran * 32 → t.pageValid (r.phys (d.base + i)) = false) ∧
      Tab.get none t.mem.keys (3072 + n) = some (keyPair (Config.drawn r.fresh)) ∧ t.fresh = r.fresh + 1 ∧ SameBytes r t ∧
      KeepsBut [.sec, .pool, .mem, .twin, .ctrs, .fresh] r t) ∧
  (∀ v dst stage offset s, Reaches v 0x84 [5] 0 s →
    let r := reached v 0x84 s
    dst ≤ 16383 → stage ≤ 16383 → offset % 64 = 0 → (r.boot.lc ≠ 2 ∨ r.sec.sealDead = true) →
    Does (.sealImport v dst stage offset 0) s fun t =>
      Completes r t v 0x84 0x86 cUnsupported 0 (secBody cUnsupported 0) [] ∧ KeepsBut answerParts r t) ∧
  (∀ n x plain v s,
    let q := s.putPool (2 ^ 43 * x.ext) plain
    s.slot n = x → n ≤ 1023 → x.st = .importing → s.attended = true → x.owed = [v] →
    s.openSegments x (segments (payloadLen x.header)) = .ok plain →
    direct v = true → q.rootWaits = false → Does (.sealImportDone n) s fun t =>
      t.slot n = { x with st := .sealed, owed := [], key := [] } ∧ (∀ m, m ≠ n → t.slot m = s.slot m) ∧
      t.sec.sessions = s.sec.sessions.map (remask n x.policy) ∧ t.mem = q.mem ∧
      Completes q t v 0x84 0x86 cOk n (secBody cOk n) [] ∧ KeepsBut ([.mem, .evs, .fresh] ++ answerParts) s t) ∧
  (∀ n x i c s, s.slot n = x → n ≤ 1023 → x.st = .importing → s.attended = true → x.owed = [.rsl c] →
    s.openSegments x (segments (payloadLen x.header)) = .error i → s.rootWaits = false →
    Does (.sealImportDone n) s fun t =>
      t.slot n = SealSlot.empty ∧ (∀ m, m ≠ n → t.slot m = s.slot m) ∧
      t.ext x.ext = { s.ext x.ext with sealed := false, key := (s.ext x.ext).tenant } ∧
      (∀ i, i < (s.ext x.ext).localGran * 32 → t.pageValid (s.phys ((s.ext x.ext).base + i)) = false) ∧
      Tab.get none t.mem.keys (3072 + n) = none ∧ SameBytes s t ∧
      RslAnswered s t c 0x84 cMalformed i (secBody cMalformed i) ∧
      KeepsBut [.sec, .pool, .mem, .twin, .rsl, .ctrs, .fresh] s t) ∧
  (∀ n s, (s.slot n).st ≠ .importing → Does (.sealImportDone n) s fun t => t = s) ∧
  (∀ c n s, Reaches (.rsl c) 0x87 [5] 0 s →
    let r := reached (.rsl c) 0x87 s
    n ≤ 1023 → Does (.sealQuery (.rsl c) n 0 0) s fun t =>
      RslAnswered r t c 0x87 cOk 0 (secBody cOk 0 ++ r.sealRecord n) ∧ KeepsBut [.rsl, .ctrs] r t) ∧
  (∀ h n dst s, Reaches (.fabric h) 0x87 [5] 0 s →
    let r := reached (.fabric h) 0x87 s
    n ≤ 1023 → (r.slot n).st ≠ .free → r.tenantOf h.src = some (r.slot n).tenant → dst % 64 = 0 →
    r.argFail (.fabric h) dst (r.sealRecord n).length needW = none → Does (.sealQuery (.fabric h) n dst 0) s fun t =>
      t.mem = (r.putPool dst (r.sealRecord n)).mem ∧
      Completes r t (.fabric h) 0x87 0x86 cOk 0 (secBody cOk 0) [] ∧
      KeepsBut ([.mem, .evs, .fresh] ++ answerParts) r t) ∧
  (∀ h n dst s, Reaches (.fabric h) 0x87 [5] 0 s →
    let r := reached (.fabric h) 0x87 s
    n ≤ 1023 → r.tenantOf h.src ≠ some (r.slot n).tenant → Does (.sealQuery (.fabric h) n dst 0) s fun t =>
      Completes r t (.fabric h) 0x87 0x86 cRights 0 (secBody cRights 0) [] ∧ KeepsBut answerParts r t)

/-- R400, R401, R406: confidential channels are opened, and an envelope acts as its inner request does. Rests on the
model's choices of log 136 and 180. -/
def Obligations.EnvelopesActAsTheirInnerRequests : Prop :=
  (∀ c host hello s, RslServed s c 0x170 →
    let r := afterOpen s c 0x170
    let a := r.drawSession
    let b := a.1.challenge a.2 hello
    host ≤ 4095 → helloOk hello = true → (s.sec.sessions.filter fun x => x.ch).length < 16 →
    s.sec.sessions.any (fun y => decide (y.host = host ∧ y.ch = true)) = false → s.rootWaits = false →
    Does (.chOpen c host hello) s fun t =>
      t.sec = { s.sec with
        usedIds := s.sec.usedIds ++ [a.2]
        sessions := s.sec.sessions ++
          [(newSession a.2 host .established true s.epoch).keyed "YC960 rsl session" b.2.2 hello b.2.1] } ∧
      b.2.1.length = 256 ∧ RslAnswered r t c 0x170 cOk a.2 b.2.1 ∧
      KeepsBut (cplParts 0x170 ++ [.sec, .fresh]) r t) ∧
  (∀ c host hello s, RslServed s c 0x170 →
    let r := afterOpen s c 0x170
    host ≤ 4095 → helloOk hello = true → (s.sec.sessions.filter fun x => x.ch).length < 16 → s.rootWaits = false →
    Does (.chOpen c host hello) s fun t =>
      (∃ id rest x, t.sec.sessions = rest ++ [x] ∧ x.id = id ∧ x.host = host ∧ x.st = .established ∧ x.ch = true ∧
        (∀ z, z ∈ rest → z ∈ s.sec.sessions ∧ ¬(z.host = host ∧ z.ch = true)) ∧
        ∃ chal, RslAnswered r t c 0x170 cOk id chal) ∧
      KeepsBut (cplParts 0x170 ++ [.fab, .sec, .fresh]) r t) ∧
  (∀ c host hello s, RslServed s c 0x170 → host ≤ 4095 → helloOk hello = true →
    16 ≤ (s.sec.sessions.filter fun x => x.ch).length → Does (.chOpen c host hello) s fun t =>
      RslAnswered (afterOpen s c 0x170) t c 0x170 cBusy (s.epoch + 256) [] ∧
      KeepsBut (cplParts 0x170) (afterOpen s c 0x170) t) ∧
  (∀ c host hello s, RslServed s c 0x170 → (4095 < host ∨ helloOk hello = false) → Does (.chOpen c host hello) s fun t =>
      RslAnswered (afterOpen s c 0x170) t c 0x170 cMalformed 0 [] ∧
      KeepsBut (cplParts 0x170) (afterOpen s c 0x170) t) ∧
  (∀ c sid resv seq cipher tag plain inner i x q s, RslServed s c 0x171 → s.chSession sid = some x →
    x.passed.contains s.twin.nextJidx = false →
    (afterOpen s c 0x171).receiveSeq x seq (securityBlock sid resv seq) cipher tag = (q, some plain) →
    q.tok.fatal = none → innerCommand (.ch c sid) inner = some i →
    exec (.chCmd c sid resv seq cipher tag inner) s = exec i (q.openMessage sid s.twin.nextJidx)) ∧
  (∀ c sid resv seq cipher tag plain op x q s, RslServed s c 0x171 → s.chSession sid = some x →
    x.passed.contains s.twin.nextJidx = false →
    (afterOpen s c 0x171).receiveSeq x seq (securityBlock sid resv seq) cipher tag = (q, some plain) →
    q.tok.fatal = none →
    let u := q.openMessage sid s.twin.nextJidx
    Does (.chCmd c sid resv seq cipher tag (.undefined op)) s fun t =>
      Completes u t (.ch c sid) 0x171 0 cMalformed 0 (secBody cMalformed 0) [] ∧ KeepsBut answerParts u t) ∧
  (∀ c sid resv seq cipher tag plain inner x q s, RslServed s c 0x171 → s.chSession sid = some x →
    x.passed.contains s.twin.nextJidx = false →
    (afterOpen s c 0x171).receiveSeq x seq (securityBlock sid resv seq) cipher tag = (q, some plain) →
    q.tok.fatal.isSome = true →
    let u := q.openMessage sid s.twin.nextJidx
    Does (.chCmd c sid resv seq cipher tag inner) s fun t =>
      Completes u t (.ch c sid) 0x171 0 cFatal 0 (secBody cFatal 0) [] ∧ KeepsBut answerParts u t) ∧
  (∀ c sid resv seq cipher tag plain addr len bytes x q w s, RslServed s c 0x171 → s.chSession sid = some x →
    x.passed.contains s.twin.nextJidx = false →
    (afterOpen s c 0x171).receiveSeq x seq (securityBlock sid resv seq) cipher tag = (q, some plain) →
    q.tok.fatal = none → addr % 64 = 0 → len % 64 = 0 → 0 < len → len ≤ 4096 →
    let u := q.openMessage sid s.twin.nextJidx
    u.argFail (.ch c sid) addr len needR = none → u.readLines addr (len / 64) = (w, some bytes) →
    Does (.chCmd c sid resv seq cipher tag (.rw addr len 0 [])) s fun t =>
      Completes w t (.ch c sid) 0x171 0 cOk 0 (secBody cOk 0) bytes ∧
      KeepsBut ([.mem, .evs, .fresh] ++ answerParts) u t) ∧
  (∀ c sid resv seq cipher tag plain addr len (data : List Line) x q s, RslServed s c 0x171 → s.chSession sid = some x →
    x.passed.contains s.twin.nextJidx = false →
    (afterOpen s c 0x171).receiveSeq x seq (securityBlock sid resv seq) cipher tag = (q, some plain) →
    q.tok.fatal = none → addr % 64 = 0 → 0 < len → len ≤ 4096 → data.length * 64 = len →
    let u := q.openMessage sid s.twin.nextJidx
    u.argFail (.ch c sid) addr len needW = none →
    Does (.chCmd c sid resv seq cipher tag (.rw addr len 1 data)) s fun t =>
      t.mem = (u.putPool addr (data.flatMap lineBytes)).mem ∧
      Completes u t (.ch c sid) 0x171 0 cOk 0 (secBody cOk 0) [] ∧
      KeepsBut ([.mem, .evs, .fresh] ++ answerParts) u t) ∧
  (∀ c sid resv seq cipher tag inner s, RslServed s c 0x171 → s.chSession sid = none →
    Does (.chCmd c sid resv seq cipher tag inner) s fun t =>
      t.rsl.out = s.rsl.out ∧ (∀ o, o ∈ t.rsl.opens → o ∈ s.rsl.opens ∧ o.tag ≠ c.tag) ∧
      KeepsBut [.rsl] (afterOpen s c 0x171) t) ∧
  (∀ c sid resv seq cipher tag inner x s, RslServed s c 0x171 → s.chSession sid = some x →
    x.passed.contains s.twin.nextJidx = false → (x.seen.contains seq = true ∨ seq + 1024 < x.high) →
    Does (.chCmd c sid resv seq cipher tag inner) s fun t =>
      t.rsl.out = s.rsl.out ∧ Counted (afterOpen s c 0x171) t 3 x.host 6 1 ∧
      KeepsBut [.rsl, .ctrs] (afterOpen s c 0x171) t) ∧
  (∀ c sid resv seq cipher tag inner x s, RslServed s c 0x171 → s.chSession sid = some x →
    x.passed.contains s.twin.nextJidx = false → x.seen.contains seq = false → x.high ≤ seq + 1024 →
    gcmOpen x.keyHp (sessNonce x.id seq) (securityBlock sid resv seq) cipher tag = none → x.fails < 255 →
    Does (.chCmd c sid resv seq cipher tag inner) s fun t =>
      t.rsl.out = s.rsl.out ∧ Counted (afterOpen s c 0x171) t 3 x.host 7 1 ∧
      KeepsBut [.sec, .rsl, .ctrs] (afterOpen s c 0x171) t)

/-- A step takes the command at the front of the queue and carries it out; on an empty queue the module idles. Rests
on the model's choices of log 1 and 2. -/
def Obligations.StepRunsTheFrontCommand : Prop :=
  (∀ c rest s, s.pending = c :: rest → step s = exec c { s with pending := rest }) ∧
  (∀ s, s.pending = [] → step s = .next s)

/-- Every command completes from every state, none touches the queue, and so each step takes exactly one command.
Rests on the model's choices of log 3. -/
def Obligations.EveryStepTakesExactlyOneCommand : Prop :=
  (∀ i s, ∃ t, exec i s = .next t ∧ t.pending = s.pending) ∧
  (∀ s, ∃ t, step s = .next t ∧ t.pending = s.pending.drop 1)

/-- Whatever the command, the stored bytes keep their canonical form. Rests on the model's choices of log 9. -/
def Obligations.StepsKeepMemoryCanonical : Prop :=
  ∀ s t, Memory.wf s.mem.cells = true → step s = .next t → Memory.wf t.mem.cells = true

/-- R116, R117, R381, R382: no step takes a fuse back, and the life cycle stays one that the spec defines. -/
def Obligations.StepsNeverTakeAFuseBack : Prop :=
  ∀ s t, LifeLegal s → step s = .next t → FusesKept s t ∧ LifeLegal t

/-- What the module holds right after reset: the values that the spec states, and the invariants. Rests on the model's
choices of log 9, 14 and 18. -/
def Obligations.ResetHoldsTheStatedValues : Prop :=
  let s := State.reset
  s.pending = [] ∧ Memory.wf s.mem.cells = true ∧ LifeLegal s ∧
    (∀ f, f ∈ cfgFields → s.cfgAt f.id = f.reset) ∧ s.clk.tstate = .start ∧ s.clk.now = 0 ∧
    (∀ n, (s.port n).st = .down) ∧ s.fab.rst0 = .current ∧ s.fab.rst1 = .free ∧
    (∀ od, (s.ob od).holder = none) ∧ s.tok.active = none ∧
    (∀ e, (s.ext e).st = .free) ∧ (∀ h, (s.lease h).st = .none) ∧ (∀ e h, s.grant e h = 0) ∧
    (∀ d, (s.domain d).st = .free ∧ (s.domain d).members = []) ∧ (∀ r, (s.ring r).st = .free) ∧
    (∀ f, (s.frec f).valid = false) ∧ (∀ b, (s.buf b).st = .free) ∧ (∀ b, (s.barrier b).arrivals = []) ∧
    (∀ r, (s.region r).st = .free) ∧ s.repro.paired = .off ∧ (∀ n, (s.stack n).st = .inUse) ∧
    (∀ n, (s.slot n).st = .free) ∧ s.sec.sessions = [] ∧ s.sec.pend = .none ∧ s.twin.journal = [] ∧ s.twin.reqs = [] ∧
    s.rsl.opens = [] ∧ s.evs.queue = [] ∧ s.evs.nextSeq = 1 ∧ (∀ g o c, s.ctr g o c = 0) ∧
    (∀ p l, p < allPages → s.lineReads p l = 0)

/-- A byte, a line and a counter read back what was written, every other one stays, and the canonical form makes equal
memories equal data. Rests on the model's choices of log 9 and 10. -/
def Obligations.StoredBytesAndCountersReadBack : Prop :=
  (∀ mem a b x, readByte (writeByte mem a b) x = if x = a then b else readByte mem x) ∧
  (∀ mem p l d, storedLine (storeLine mem p l d) p l = d) ∧
  (∀ mem p l d q k, l < 1024 → k < 1024 → (q ≠ p ∨ k ≠ l) →
    storedLine (storeLine mem p l d) q k = storedLine mem q k) ∧
  (∀ m n, Memory.wf m = true → Memory.wf n = true → (∀ a, readByte m a = readByte n a) → m = n) ∧
  (∀ (s : State) g o c n, (s.bump g o c n).ctr g o c = (s.ctr g o c + n) % two64) ∧
  (∀ (s : State) g o c n g' o' c', o < 65536 → o' < 65536 → c < 64 → c' < 64 → (g, o, c) ≠ (g', o', c') →
    (s.bump g o c n).ctr g' o' c' = s.ctr g' o' c')

/-- R36: what a hub does at every boundary beside the table of R35. -/
def Obligations.HubsTurnTheirListsAndHalveTheirCounters : Prop :=
  ∀ hub mark s, hub ≤ 1 → s.hubGone hub = false → s.clk.running = true →
    let came := mark && !Tab.get false s.tok.linkDown (6 + hub)
    let e := if came then s.epoch else ((s.ob hub).epoch + 1) % epochCount
    (came = true → (s.ob hub).epoch < s.epoch) →
    Does (.hubEpochBoundary hub mark) s fun t =>
      (t.ob hub).epoch = e ∧
      (hub = 0 → t.mem.commit0 = [] ∧ t.mem.prev0 = s.mem.commit0 ∧ t.mem.commit1 = s.mem.commit1 ∧
        t.mem.prev1 = s.mem.prev1) ∧
      (hub = 1 → t.mem.commit1 = [] ∧ t.mem.prev1 = s.mem.commit1 ∧ t.mem.commit0 = s.mem.commit0 ∧
        t.mem.prev0 = s.mem.prev0) ∧
      (∀ p, Tab.get (0, 0) t.mem.counts p = if e % 1024 = 0 ∧ hubOf p = hub then
          ((Tab.get (0, 0) s.mem.counts p).1 / 2, (Tab.get (0, 0) s.mem.counts p).2 / 2)
        else Tab.get (0, 0) s.mem.counts p) ∧
      SameBytes s t ∧ KeepsBut [.tok, .mem, .twin, .evs, .ctrs] s t

/-- R394: SEC_MIN_RAISE. -/
def Obligations.SecMinRaiseMovesTheMinimumForwardOnly : Prop :=
  (∀ c v s, RslServed s c 0x108 → 64 < v → Does (.secMinRaise c v) s fun t =>
      RslAnswered (afterOpen s c 0x108) t c 0x108 cMalformed 0 [] ∧ KeepsBut (cplParts 0x108) (afterOpen s c 0x108) t) ∧
  (∀ c v s, RslServed s c 0x108 → v ≤ 64 → (v ≤ s.sec.minSec ∨ imageSecVersion s.runImage < v) →
    Does (.secMinRaise c v) s fun t =>
      RslAnswered (afterOpen s c 0x108) t c 0x108 cUnsupported 0 [] ∧ KeepsBut (cplParts 0x108) (afterOpen s c 0x108) t) ∧
  (∀ c v s, RslServed s c 0x108 → v ≤ 64 → s.sec.minSec < v → v ≤ imageSecVersion s.runImage →
    RslRuns (.secMinRaise c v) s c 0x108 0 [] [.sec, .boot] fun t =>
      t.sec.minSec = v ∧ t.sec = { s.sec with
        minSec := v, pend := t.sec.pend, pendNext := t.sec.pendNext, pendFlash := t.sec.pendFlash } ∧
      t.boot = { s.boot with wpA := t.boot.wpA, wpB := t.boot.wpB } ∧
      (s.stagedImage = none → t.sec = { s.sec with minSec := v } ∧ t.boot = s.boot) ∧
      (∀ f, s.stagedImage = some f → imageSecVersion f < v → t.sec.pend = .failed) ∧
      (∀ b, imageSecVersion (s.flash b) < v → t.candidate b = false))
end

