-- ==== Sys2Proof/Laws/Frame.lean ====
section
/-! SUPPORT. What an update of one part of the state leaves alone, and how such facts go through loops, pairs and options:
the lemmas beneath the frame lemmas of Laws/Frame<Module>.lean. -/

set_option Elab.async false

namespace Sys2Proof.Machine
open Sys2Proof

theorem sub {a b c : List Area} (h : a ⊆ b) (k : b ⊆ c) : a ⊆ c := List.Subset.trans h k

theorem KeepsBut.rfl0 {ps : List Area} {s : State} : KeepsBut ps s s := by
  intro p _
  cases p <;> rfl

/-- What holds of a command's next state. -/
def KeepsOut (ps : List Area) (s0 : State) (o : Out) : Prop := ∀ t, o = .next t → KeepsBut ps s0 t

theorem KeepsOut.next {ps : List Area} {s0 t : State} (h : KeepsBut ps s0 t) : KeepsOut ps s0 (.next t) := by
  intro u hu
  cases hu
  exact h

theorem KeepsBut.foldl {α : Type} {ps : List Area} {s0 : State} {f : State → α → State} {l : List α} {s : State}
    (h : KeepsBut ps s0 s) (hf : ∀ s x, KeepsBut ps s0 s → KeepsBut ps s0 (f s x)) :
    KeepsBut ps s0 (l.foldl f s) := by
  induction l generalizing s with
  | nil => exact h
  | cons a l ih => exact ih (hf _ _ h)

theorem KeepsBut.foldl1 {α β : Type} {ps : List Area} {s0 : State} {f : State × β → α → State × β} {l : List α}
    {s : State × β} (h : KeepsBut ps s0 s.1) (hf : ∀ s x, KeepsBut ps s0 s.1 → KeepsBut ps s0 (f s x).1) :
    KeepsBut ps s0 (l.foldl f s).1 := by
  induction l generalizing s with
  | nil => exact h
  | cons a l ih => exact ih (hf _ _ h)

theorem KeepsBut.of_pair {α : Type} {ps : List Area} {s0 a : State} {b : α} {p : State × α}
    (h : KeepsBut ps s0 p.1) (e : p = (a, b)) : KeepsBut ps s0 a := by
  rw [e] at h
  exact h

def KeepsOpt (ps : List Area) (s0 : State) (o : Option State) : Prop := ∀ t, o = some t → KeepsBut ps s0 t

theorem KeepsOpt.some {ps : List Area} {s0 t : State} (h : KeepsBut ps s0 t) : KeepsOpt ps s0 (.some t) := by
  intro u hu
  cases hu
  exact h

theorem KeepsOpt.none {ps : List Area} {s0 : State} : KeepsOpt ps s0 .none := by
  intro u hu
  cases hu

def KeepsOptP {α : Type} (ps : List Area) (s0 : State) (o : Option (State × α)) : Prop :=
  ∀ t, o = some t → KeepsBut ps s0 t.1

theorem KeepsOptP.some {α : Type} {ps : List Area} {s0 t : State} {a : α} (h : KeepsBut ps s0 t) :
    KeepsOptP ps s0 (.some (t, a)) := by
  intro u hu
  cases hu
  exact h

theorem KeepsOptP.none {α : Type} {ps : List Area} {s0 : State} : KeepsOptP (α := α) ps s0 .none := by
  intro u hu
  cases hu

theorem KeepsBut.of_some {ps : List Area} {s0 a : State} {p : Option State} (h : KeepsOpt ps s0 p)
    (e : p = Option.some a) : KeepsBut ps s0 a := h _ e

theorem KeepsBut.of_somep {α : Type} {ps : List Area} {s0 a : State} {b : α} {p : Option (State × α)}
    (h : KeepsOptP ps s0 p) (e : p = Option.some (a, b)) : KeepsBut ps s0 a := h _ e

theorem KeepsOptP.map {α : Type} {ps : List Area} {s0 : State} {a : α} {o : Option State} (h : KeepsOpt ps s0 o) :
    KeepsOptP ps s0 (o.map fun s => (s, a)) := by
  intro t ht
  cases o with
  | none => cases ht
  | some u =>
    cases ht
    exact h _ rfl

theorem KeepsBut.ite {ps : List Area} {s0 : State} {c : Prop} [Decidable c] {a b : State}
    (h1 : c → KeepsBut ps s0 a) (h2 : ¬ c → KeepsBut ps s0 b) : KeepsBut ps s0 (if c then a else b) := by
  by_cases h : c <;> simp only [h, if_true, if_false] <;> first | exact h1 h | exact h2 h

theorem KeepsBut.ite1 {α : Type} {ps : List Area} {s0 : State} {c : Prop} [Decidable c] {a b : State × α}
    (h1 : c → KeepsBut ps s0 a.1) (h2 : ¬ c → KeepsBut ps s0 b.1) : KeepsBut ps s0 (if c then a else b).1 := by
  by_cases h : c <;> simp only [h, if_true, if_false] <;> first | exact h1 h | exact h2 h


theorem upd_boot {ps : List Area} {s0 s : State} {xboot : Boot}
    (h : KeepsBut ps s0 s) (hp : [.boot] ⊆ ps) :
    KeepsBut ps s0 { s with boot := xboot } := by
  intro p hq
  have := h p hq
  cases p <;> first | exact absurd (hp (by decide)) hq | exact this

theorem upd_boot_cfg {ps : List Area} {s0 s : State} {xboot : Boot} {xcfg : Cfg}
    (h : KeepsBut ps s0 s) (hp : [.boot, .cfg] ⊆ ps) :
    KeepsBut ps s0 { s with boot := xboot, cfg := xcfg } := by
  intro p hq
  have := h p hq
  cases p <;> first | exact absurd (hp (by decide)) hq | exact this

theorem upd_boot_cfg_pool_stock_repro_twin {ps : List Area} {s0 s : State} {xboot : Boot} {xcfg : Cfg} {xpool : Pool} {xstock : Stock} {xrepro : Repro} {xtwin : Twin}
    (h : KeepsBut ps s0 s) (hp : [.boot, .cfg, .pool, .stock, .repro, .twin] ⊆ ps) :
    KeepsBut ps s0 { s with boot := xboot, cfg := xcfg, pool := xpool, stock := xstock, repro := xrepro, twin := xtwin } := by
  intro p hq
  have := h p hq
  cases p <;> first | exact absurd (hp (by decide)) hq | exact this

theorem upd_boot_fab {ps : List Area} {s0 s : State} {xboot : Boot} {xfab : Fabric}
    (h : KeepsBut ps s0 s) (hp : [.boot, .fab] ⊆ ps) :
    KeepsBut ps s0 { s with boot := xboot, fab := xfab } := by
  intro p hq
  have := h p hq
  cases p <;> first | exact absurd (hp (by decide)) hq | exact this

theorem upd_boot_fab_coh_coach_stock_mem_sec {ps : List Area} {s0 s : State} {xboot : Boot} {xfab : Fabric} {xcoh : Coh} {xcoach : Coach} {xstock : Stock} {xmem : Mem} {xsec : Sec}
    (h : KeepsBut ps s0 s) (hp : [.boot, .fab, .coh, .coach, .stock, .mem, .sec] ⊆ ps) :
    KeepsBut ps s0 { s with boot := xboot, fab := xfab, coh := xcoh, coach := xcoach, stock := xstock, mem := xmem, sec := xsec } := by
  intro p hq
  have := h p hq
  cases p <;> first | exact absurd (hp (by decide)) hq | exact this

theorem upd_boot_sec {ps : List Area} {s0 s : State} {xboot : Boot} {xsec : Sec}
    (h : KeepsBut ps s0 s) (hp : [.boot, .sec] ⊆ ps) :
    KeepsBut ps s0 { s with boot := xboot, sec := xsec } := by
  intro p hq
  have := h p hq
  cases p <;> first | exact absurd (hp (by decide)) hq | exact this

theorem upd_boot_tok_evs {ps : List Area} {s0 s : State} {xboot : Boot} {xtok : Token} {xevs : Events}
    (h : KeepsBut ps s0 s) (hp : [.boot, .tok, .evs] ⊆ ps) :
    KeepsBut ps s0 { s with boot := xboot, tok := xtok, evs := xevs } := by
  intro p hq
  have := h p hq
  cases p <;> first | exact absurd (hp (by decide)) hq | exact this

theorem upd_boot_tok_twin {ps : List Area} {s0 s : State} {xboot : Boot} {xtok : Token} {xtwin : Twin}
    (h : KeepsBut ps s0 s) (hp : [.boot, .tok, .twin] ⊆ ps) :
    KeepsBut ps s0 { s with boot := xboot, tok := xtok, twin := xtwin } := by
  intro p hq
  have := h p hq
  cases p <;> first | exact absurd (hp (by decide)) hq | exact this

theorem upd_boot_twin {ps : List Area} {s0 s : State} {xboot : Boot} {xtwin : Twin}
    (h : KeepsBut ps s0 s) (hp : [.boot, .twin] ⊆ ps) :
    KeepsBut ps s0 { s with boot := xboot, twin := xtwin } := by
  intro p hq
  have := h p hq
  cases p <;> first | exact absurd (hp (by decide)) hq | exact this

theorem upd_cfg {ps : List Area} {s0 s : State} {xcfg : Cfg}
    (h : KeepsBut ps s0 s) (hp : [.cfg] ⊆ ps) :
    KeepsBut ps s0 { s with cfg := xcfg } := by
  intro p hq
  have := h p hq
  cases p <;> first | exact absurd (hp (by decide)) hq | exact this

theorem upd_clk {ps : List Area} {s0 s : State} {xclk : Clocks}
    (h : KeepsBut ps s0 s) (hp : [.clk] ⊆ ps) :
    KeepsBut ps s0 { s with clk := xclk } := by
  intro p hq
  have := h p hq
  cases p <;> first | exact absurd (hp (by decide)) hq | exact this

theorem upd_clk_boot {ps : List Area} {s0 s : State} {xclk : Clocks} {xboot : Boot}
    (h : KeepsBut ps s0 s) (hp : [.clk, .boot] ⊆ ps) :
    KeepsBut ps s0 { s with clk := xclk, boot := xboot } := by
  intro p hq
  have := h p hq
  cases p <;> first | exact absurd (hp (by decide)) hq | exact this

theorem upd_clk_boot_tok {ps : List Area} {s0 s : State} {xclk : Clocks} {xboot : Boot} {xtok : Token}
    (h : KeepsBut ps s0 s) (hp : [.clk, .boot, .tok] ⊆ ps) :
    KeepsBut ps s0 { s with clk := xclk, boot := xboot, tok := xtok } := by
  intro p hq
  have := h p hq
  cases p <;> first | exact absurd (hp (by decide)) hq | exact this

theorem upd_clk_fab {ps : List Area} {s0 s : State} {xclk : Clocks} {xfab : Fabric}
    (h : KeepsBut ps s0 s) (hp : [.clk, .fab] ⊆ ps) :
    KeepsBut ps s0 { s with clk := xclk, fab := xfab } := by
  intro p hq
  have := h p hq
  cases p <;> first | exact absurd (hp (by decide)) hq | exact this

theorem upd_clk_fresh {ps : List Area} {s0 s : State} {xclk : Clocks} {xfresh : Nat}
    (h : KeepsBut ps s0 s) (hp : [.clk, .fresh] ⊆ ps) :
    KeepsBut ps s0 { s with clk := xclk, fresh := xfresh } := by
  intro p hq
  have := h p hq
  cases p <;> first | exact absurd (hp (by decide)) hq | exact this

theorem upd_coach {ps : List Area} {s0 s : State} {xcoach : Coach}
    (h : KeepsBut ps s0 s) (hp : [.coach] ⊆ ps) :
    KeepsBut ps s0 { s with coach := xcoach } := by
  intro p hq
  have := h p hq
  cases p <;> first | exact absurd (hp (by decide)) hq | exact this

theorem upd_coh {ps : List Area} {s0 s : State} {xcoh : Coh}
    (h : KeepsBut ps s0 s) (hp : [.coh] ⊆ ps) :
    KeepsBut ps s0 { s with coh := xcoh } := by
  intro p hq
  have := h p hq
  cases p <;> first | exact absurd (hp (by decide)) hq | exact this

theorem upd_ctrs {ps : List Area} {s0 s : State} {xctrs : Tab Nat}
    (h : KeepsBut ps s0 s) (hp : [.ctrs] ⊆ ps) :
    KeepsBut ps s0 { s with ctrs := xctrs } := by
  intro p hq
  have := h p hq
  cases p <;> first | exact absurd (hp (by decide)) hq | exact this

theorem upd_evs {ps : List Area} {s0 s : State} {xevs : Events}
    (h : KeepsBut ps s0 s) (hp : [.evs] ⊆ ps) :
    KeepsBut ps s0 { s with evs := xevs } := by
  intro p hq
  have := h p hq
  cases p <;> first | exact absurd (hp (by decide)) hq | exact this

theorem upd_fab {ps : List Area} {s0 s : State} {xfab : Fabric}
    (h : KeepsBut ps s0 s) (hp : [.fab] ⊆ ps) :
    KeepsBut ps s0 { s with fab := xfab } := by
  intro p hq
  have := h p hq
  cases p <;> first | exact absurd (hp (by decide)) hq | exact this

theorem upd_fab_sec {ps : List Area} {s0 s : State} {xfab : Fabric} {xsec : Sec}
    (h : KeepsBut ps s0 s) (hp : [.fab, .sec] ⊆ ps) :
    KeepsBut ps s0 { s with fab := xfab, sec := xsec } := by
  intro p hq
  have := h p hq
  cases p <;> first | exact absurd (hp (by decide)) hq | exact this

theorem upd_fab_twin {ps : List Area} {s0 s : State} {xfab : Fabric} {xtwin : Twin}
    (h : KeepsBut ps s0 s) (hp : [.fab, .twin] ⊆ ps) :
    KeepsBut ps s0 { s with fab := xfab, twin := xtwin } := by
  intro p hq
  have := h p hq
  cases p <;> first | exact absurd (hp (by decide)) hq | exact this

theorem upd_fresh {ps : List Area} {s0 s : State} {xfresh : Nat}
    (h : KeepsBut ps s0 s) (hp : [.fresh] ⊆ ps) :
    KeepsBut ps s0 { s with fresh := xfresh } := by
  intro p hq
  have := h p hq
  cases p <;> first | exact absurd (hp (by decide)) hq | exact this

theorem upd_mem {ps : List Area} {s0 s : State} {xmem : Mem}
    (h : KeepsBut ps s0 s) (hp : [.mem] ⊆ ps) :
    KeepsBut ps s0 { s with mem := xmem } := by
  intro p hq
  have := h p hq
  cases p <;> first | exact absurd (hp (by decide)) hq | exact this

theorem upd_mem_fresh {ps : List Area} {s0 s : State} {xmem : Mem} {xfresh : Nat}
    (h : KeepsBut ps s0 s) (hp : [.mem, .fresh] ⊆ ps) :
    KeepsBut ps s0 { s with mem := xmem, fresh := xfresh } := by
  intro p hq
  have := h p hq
  cases p <;> first | exact absurd (hp (by decide)) hq | exact this

theorem upd_pending {ps : List Area} {s0 s : State} {xpending : List Instr}
    (h : KeepsBut ps s0 s) (hp : [.pending] ⊆ ps) :
    KeepsBut ps s0 { s with pending := xpending } := by
  intro p hq
  have := h p hq
  cases p <;> first | exact absurd (hp (by decide)) hq | exact this

theorem upd_pool {ps : List Area} {s0 s : State} {xpool : Pool}
    (h : KeepsBut ps s0 s) (hp : [.pool] ⊆ ps) :
    KeepsBut ps s0 { s with pool := xpool } := by
  intro p hq
  have := h p hq
  cases p <;> first | exact absurd (hp (by decide)) hq | exact this

theorem upd_pool_mem {ps : List Area} {s0 s : State} {xpool : Pool} {xmem : Mem}
    (h : KeepsBut ps s0 s) (hp : [.pool, .mem] ⊆ ps) :
    KeepsBut ps s0 { s with pool := xpool, mem := xmem } := by
  intro p hq
  have := h p hq
  cases p <;> first | exact absurd (hp (by decide)) hq | exact this

theorem upd_ports {ps : List Area} {s0 s : State} {xports : Tab Port}
    (h : KeepsBut ps s0 s) (hp : [.ports] ⊆ ps) :
    KeepsBut ps s0 { s with ports := xports } := by
  intro p hq
  have := h p hq
  cases p <;> first | exact absurd (hp (by decide)) hq | exact this

theorem upd_ports_fab_pool_coh_coach_repro_mem {ps : List Area} {s0 s : State} {xports : Tab Port} {xfab : Fabric} {xpool : Pool} {xcoh : Coh} {xcoach : Coach} {xrepro : Repro} {xmem : Mem}
    (h : KeepsBut ps s0 s) (hp : [.ports, .fab, .pool, .coh, .coach, .repro, .mem] ⊆ ps) :
    KeepsBut ps s0 { s with ports := xports, fab := xfab, pool := xpool, coh := xcoh, coach := xcoach, repro := xrepro, mem := xmem } := by
  intro p hq
  have := h p hq
  cases p <;> first | exact absurd (hp (by decide)) hq | exact this

theorem upd_power {ps : List Area} {s0 s : State} {xpower : Power}
    (h : KeepsBut ps s0 s) (hp : [.power] ⊆ ps) :
    KeepsBut ps s0 { s with power := xpower } := by
  intro p hq
  have := h p hq
  cases p <;> first | exact absurd (hp (by decide)) hq | exact this

theorem upd_power_boot_sec {ps : List Area} {s0 s : State} {xpower : Power} {xboot : Boot} {xsec : Sec}
    (h : KeepsBut ps s0 s) (hp : [.power, .boot, .sec] ⊆ ps) :
    KeepsBut ps s0 { s with power := xpower, boot := xboot, sec := xsec } := by
  intro p hq
  have := h p hq
  cases p <;> first | exact absurd (hp (by decide)) hq | exact this

theorem upd_power_clk_boot {ps : List Area} {s0 s : State} {xpower : Power} {xclk : Clocks} {xboot : Boot}
    (h : KeepsBut ps s0 s) (hp : [.power, .clk, .boot] ⊆ ps) :
    KeepsBut ps s0 { s with power := xpower, clk := xclk, boot := xboot } := by
  intro p hq
  have := h p hq
  cases p <;> first | exact absurd (hp (by decide)) hq | exact this

theorem upd_power_clk_boot_cfg_tok_twin_sec_rsl_evs {ps : List Area} {s0 s : State} {xpower : Power} {xclk : Clocks} {xboot : Boot} {xcfg : Cfg} {xtok : Token} {xtwin : Twin} {xsec : Sec} {xrsl : Rsl} {xevs : Events}
    (h : KeepsBut ps s0 s) (hp : [.power, .clk, .boot, .cfg, .tok, .twin, .sec, .rsl, .evs] ⊆ ps) :
    KeepsBut ps s0 { s with power := xpower, clk := xclk, boot := xboot, cfg := xcfg, tok := xtok, twin := xtwin, sec := xsec, rsl := xrsl, evs := xevs } := by
  intro p hq
  have := h p hq
  cases p <;> first | exact absurd (hp (by decide)) hq | exact this

theorem upd_power_fresh {ps : List Area} {s0 s : State} {xpower : Power} {xfresh : Nat}
    (h : KeepsBut ps s0 s) (hp : [.power, .fresh] ⊆ ps) :
    KeepsBut ps s0 { s with power := xpower, fresh := xfresh } := by
  intro p hq
  have := h p hq
  cases p <;> first | exact absurd (hp (by decide)) hq | exact this

theorem upd_repro {ps : List Area} {s0 s : State} {xrepro : Repro}
    (h : KeepsBut ps s0 s) (hp : [.repro] ⊆ ps) :
    KeepsBut ps s0 { s with repro := xrepro } := by
  intro p hq
  have := h p hq
  cases p <;> first | exact absurd (hp (by decide)) hq | exact this

theorem upd_repro_twin {ps : List Area} {s0 s : State} {xrepro : Repro} {xtwin : Twin}
    (h : KeepsBut ps s0 s) (hp : [.repro, .twin] ⊆ ps) :
    KeepsBut ps s0 { s with repro := xrepro, twin := xtwin } := by
  intro p hq
  have := h p hq
  cases p <;> first | exact absurd (hp (by decide)) hq | exact this

theorem upd_rsl {ps : List Area} {s0 s : State} {xrsl : Rsl}
    (h : KeepsBut ps s0 s) (hp : [.rsl] ⊆ ps) :
    KeepsBut ps s0 { s with rsl := xrsl } := by
  intro p hq
  have := h p hq
  cases p <;> first | exact absurd (hp (by decide)) hq | exact this

theorem upd_rsl_evs {ps : List Area} {s0 s : State} {xrsl : Rsl} {xevs : Events}
    (h : KeepsBut ps s0 s) (hp : [.rsl, .evs] ⊆ ps) :
    KeepsBut ps s0 { s with rsl := xrsl, evs := xevs } := by
  intro p hq
  have := h p hq
  cases p <;> first | exact absurd (hp (by decide)) hq | exact this

theorem upd_sec {ps : List Area} {s0 s : State} {xsec : Sec}
    (h : KeepsBut ps s0 s) (hp : [.sec] ⊆ ps) :
    KeepsBut ps s0 { s with sec := xsec } := by
  intro p hq
  have := h p hq
  cases p <;> first | exact absurd (hp (by decide)) hq | exact this

theorem upd_sec_fresh {ps : List Area} {s0 s : State} {xsec : Sec} {xfresh : Nat}
    (h : KeepsBut ps s0 s) (hp : [.sec, .fresh] ⊆ ps) :
    KeepsBut ps s0 { s with sec := xsec, fresh := xfresh } := by
  intro p hq
  have := h p hq
  cases p <;> first | exact absurd (hp (by decide)) hq | exact this

theorem upd_stock {ps : List Area} {s0 s : State} {xstock : Stock}
    (h : KeepsBut ps s0 s) (hp : [.stock] ⊆ ps) :
    KeepsBut ps s0 { s with stock := xstock } := by
  intro p hq
  have := h p hq
  cases p <;> first | exact absurd (hp (by decide)) hq | exact this

theorem upd_tok {ps : List Area} {s0 s : State} {xtok : Token}
    (h : KeepsBut ps s0 s) (hp : [.tok] ⊆ ps) :
    KeepsBut ps s0 { s with tok := xtok } := by
  intro p hq
  have := h p hq
  cases p <;> first | exact absurd (hp (by decide)) hq | exact this

theorem upd_tok_ports {ps : List Area} {s0 s : State} {xtok : Token} {xports : Tab Port}
    (h : KeepsBut ps s0 s) (hp : [.tok, .ports] ⊆ ps) :
    KeepsBut ps s0 { s with tok := xtok, ports := xports } := by
  intro p hq
  have := h p hq
  cases p <;> first | exact absurd (hp (by decide)) hq | exact this

theorem upd_tok_twin {ps : List Area} {s0 s : State} {xtok : Token} {xtwin : Twin}
    (h : KeepsBut ps s0 s) (hp : [.tok, .twin] ⊆ ps) :
    KeepsBut ps s0 { s with tok := xtok, twin := xtwin } := by
  intro p hq
  have := h p hq
  cases p <;> first | exact absurd (hp (by decide)) hq | exact this

theorem upd_twin {ps : List Area} {s0 s : State} {xtwin : Twin}
    (h : KeepsBut ps s0 s) (hp : [.twin] ⊆ ps) :
    KeepsBut ps s0 { s with twin := xtwin } := by
  intro p hq
  have := h p hq
  cases p <;> first | exact absurd (hp (by decide)) hq | exact this

theorem upd_twin_rsl {ps : List Area} {s0 s : State} {xtwin : Twin} {xrsl : Rsl}
    (h : KeepsBut ps s0 s) (hp : [.twin, .rsl] ⊆ ps) :
    KeepsBut ps s0 { s with twin := xtwin, rsl := xrsl } := by
  intro p hq
  have := h p hq
  cases p <;> first | exact absurd (hp (by decide)) hq | exact this

theorem upd_twin_sec {ps : List Area} {s0 s : State} {xtwin : Twin} {xsec : Sec}
    (h : KeepsBut ps s0 s) (hp : [.twin, .sec] ⊆ ps) :
    KeepsBut ps s0 { s with twin := xtwin, sec := xsec } := by
  intro p hq
  have := h p hq
  cases p <;> first | exact absurd (hp (by decide)) hq | exact this

end Sys2Proof.Machine
end

