-- ==== Sys2Proof/Laws/FrameOps.lean ====
section
/-! SUPPORT. The frame of each operation of Machine/Ops.lean: the parts of the state that it may change, and no others. -/

set_option Elab.async false

namespace Sys2Proof.Machine
open Sys2Proof

set_option maxRecDepth 4000
set_option linter.all false

theorem State.bump_keeps {ps : List Area} {s0 s : State} {g o c n : Nat} (hK : KeepsBut ps s0 s) (hS : [.ctrs] ⊆ ps) :
    KeepsBut ps s0 (@State.bump s g o c n) := by
  unfold State.bump
  with_reducible repeat' first
    | assumption | dsimp -proj only | refine upd_ctrs ?_ (sub (by decide) hS)

theorem State.rslRepeat_keeps {ps : List Area} {s0 s : State} {tag port : Nat} {y3 : TagFound} (hK : KeepsBut ps s0 s)
    (hS : [.rsl, .ctrs] ⊆ ps) : KeepsBut ps s0 (@State.rslRepeat s tag port y3) := by
  unfold State.rslRepeat
  with_reducible repeat' first
    | assumption | refine State.bump_keeps ?_ (sub (by decide) hS) | refine KeepsBut.ite (fun _ => ?_) (fun _ => ?_)
    | split | dsimp -proj only | refine upd_rsl ?_ (sub (by decide) hS)

theorem State.queueEv_keeps {ps : List Area} {s0 s : State} {v : Ev} (hK : KeepsBut ps s0 s) (hS : [.evs, .ctrs] ⊆ ps)
    : KeepsBut ps s0 (@State.queueEv s v) := by
  unfold State.queueEv
  with_reducible repeat' first
    | assumption | refine State.bump_keeps ?_ (sub (by decide) hS) | refine KeepsBut.ite (fun _ => ?_) (fun _ => ?_)
    | split | refine KeepsBut.ite1 (fun _ => ?_) (fun _ => ?_) | dsimp -proj only
    | refine upd_evs ?_ (sub (by decide) hS)

theorem State.raise_keeps {ps : List Area} {s0 s : State} {code sev die : Nat} {detail : List Byte} (hK : KeepsBut ps
    s0 s) (hS : [.evs, .ctrs] ⊆ ps) : KeepsBut ps s0 (@State.raise s code sev die detail) := by
  unfold State.raise
  with_reducible repeat' first
    | assumption | refine State.queueEv_keeps ?_ (sub (by decide) hS)
    | refine KeepsBut.ite (fun _ => ?_) (fun _ => ?_) | split | dsimp -proj only
    | refine upd_evs ?_ (sub (by decide) hS)

theorem State.logChange_keeps {ps : List Area} {s0 s : State} {kind index len : Nat} {jidx : Option Nat} (hK :
    KeepsBut ps s0 s) (hS : [.twin] ⊆ ps) : KeepsBut ps s0 (@State.logChange s kind index len jidx) := by
  unfold State.logChange
  with_reducible repeat' first
    | assumption | refine KeepsBut.ite (fun _ => ?_) (fun _ => ?_) | split | dsimp -proj only
    | refine upd_twin ?_ (sub (by decide) hS)

theorem State.rslDone_keeps {ps : List Area} {s0 s : State} {cmd tag port code value : Nat} {data : List Byte} (hK :
    KeepsBut ps s0 s) (hS : [.twin, .rsl, .ctrs] ⊆ ps) : KeepsBut ps s0 (@State.rslDone s cmd tag port code value
    data) := by
  unfold State.rslDone
  with_reducible repeat' first
    | assumption | refine State.logChange_keeps ?_ (sub (by decide) hS)
    | refine State.bump_keeps ?_ (sub (by decide) hS) | refine KeepsBut.ite (fun _ => ?_) (fun _ => ?_) | split
    | dsimp -proj only | refine upd_rsl ?_ (sub (by decide) hS)

theorem State.rslJudge_keeps {ps : List Area} {s0 s : State} {c : RslCmd} {cmd : Nat} {resv : Bool} {k : State →
    State} (hK : KeepsBut ps s0 s) (hk : ∀ (v0 : State), KeepsBut ps s0 v0 → KeepsBut ps s0 (k v0)) (hS : [.twin,
    .rsl, .ctrs] ⊆ ps) : KeepsBut ps s0 (@State.rslJudge s c cmd resv k) := by
  unfold State.rslJudge
  with_reducible repeat' first
    | assumption | apply hk | refine State.rslDone_keeps ?_ (sub (by decide) hS)
    | refine KeepsBut.ite (fun _ => ?_) (fun _ => ?_) | split | dsimp -proj only

theorem State.rslAnswer_keeps {ps : List Area} {s0 s : State} {c : RslCmd} {cmd code value : Nat} {data : List Byte}
    (hK : KeepsBut ps s0 s) (hS : [.twin, .rsl, .ctrs] ⊆ ps) : KeepsBut ps s0 (@State.rslAnswer s c cmd code value
    data) := by
  unfold State.rslAnswer
  with_reducible repeat' first
    | assumption | refine State.rslDone_keeps ?_ (sub (by decide) hS) | dsimp -proj only

theorem State.setPort_keeps {ps : List Area} {s0 s : State} {p : Nat} {x : Port} (hK : KeepsBut ps s0 s) (hS :
    [.ports] ⊆ ps) : KeepsBut ps s0 (@State.setPort s p x) := by
  unfold State.setPort
  with_reducible repeat' first
    | assumption | dsimp -proj only | refine upd_ports ?_ (sub (by decide) hS)

theorem State.send_keeps {ps : List Area} {s0 s : State} {m : OutMsg} (hK : KeepsBut ps s0 s) (hS : [.fab] ⊆ ps) :
    KeepsBut ps s0 (@State.send s m) := by
  unfold State.send
  with_reducible repeat' first
    | assumption | dsimp -proj only | refine upd_fab ?_ (sub (by decide) hS)

theorem State.notice_keeps {ps : List Area} {s0 s : State} {dst opcode : Nat} {body : List Byte} (hK : KeepsBut ps s0
    s) (hS : [.fab] ⊆ ps) : KeepsBut ps s0 (@State.notice s dst opcode body) := by
  unfold State.notice
  with_reducible repeat' first
    | assumption | refine State.send_keeps ?_ (sub (by decide) hS) | dsimp -proj only

theorem State.setReplay_keeps {ps : List Area} {s0 s : State} {tag : Nat} {b : Bool} (hK : KeepsBut ps s0 s) (hS :
    [.rsl] ⊆ ps) : KeepsBut ps s0 (@State.setReplay s tag b) := by
  unfold State.setReplay
  with_reducible repeat' first
    | assumption | refine KeepsBut.ite (fun _ => ?_) (fun _ => ?_) | split | dsimp -proj only
    | refine upd_rsl ?_ (sub (by decide) hS)

theorem State.setOb_keeps {ps : List Area} {s0 s : State} {od : Nat} {x : ObDie} (hK : KeepsBut ps s0 s) (hS : [.tok]
    ⊆ ps) : KeepsBut ps s0 (@State.setOb s od x) := by
  unfold State.setOb
  with_reducible repeat' first
    | assumption | dsimp -proj only | refine upd_tok ?_ (sub (by decide) hS)

theorem State.rslOpen_keeps {ps : List Area} {s0 s : State} {tag port cmd : Nat} (hK : KeepsBut ps s0 s) (hS : [.twin,
    .rsl] ⊆ ps) : KeepsBut ps s0 (@State.rslOpen s tag port cmd) := by
  unfold State.rslOpen
  with_reducible repeat' first
    | assumption | dsimp -proj only | refine upd_twin_rsl ?_ (sub (by decide) hS)

theorem State.rslGate_keeps {ps : List Area} {s0 s : State} {c : RslCmd} {cmd : Nat} {resv : Bool} {k : State → State}
    (hK : KeepsBut ps s0 s) (hk : ∀ (v0 : State), KeepsBut ps s0 v0 → KeepsBut ps s0 (k v0)) (hS : [.twin, .rsl,
    .ctrs] ⊆ ps) : KeepsBut ps s0 (@State.rslGate s c cmd resv k) := by
  unfold State.rslGate
  with_reducible repeat' first
    | assumption | apply hk | refine State.rslRepeat_keeps ?_ (sub (by decide) hS)
    | refine State.bump_keeps ?_ (sub (by decide) hS) | refine State.setReplay_keeps ?_ (sub (by decide) hS)
    | refine State.rslJudge_keeps ?_ (fun v0F hF => ?_) (sub (by decide) hS)
    | refine State.rslOpen_keeps ?_ (sub (by decide) hS) | refine KeepsBut.ite (fun _ => ?_) (fun _ => ?_) | split
    | dsimp -proj only

theorem State.bumpPort_keeps {ps : List Area} {s0 s : State} {p c n : Nat} (hK : KeepsBut ps s0 s) (hS : [.ctrs] ⊆ ps)
    : KeepsBut ps s0 (@State.bumpPort s p c n) := by
  unfold State.bumpPort
  with_reducible repeat' first
    | assumption | refine State.bump_keeps ?_ (sub (by decide) hS) | refine KeepsBut.ite1 (fun _ => ?_) (fun _ => ?_)
    | dsimp -proj only

theorem State.draw_keeps {ps : List Area} {s0 s : State} (hK : KeepsBut ps s0 s) (hS : [.fresh] ⊆ ps) : KeepsBut ps s0
    (@State.draw s).1 := by
  unfold State.draw
  with_reducible repeat' first
    | assumption | refine KeepsBut.ite1 (fun _ => ?_) (fun _ => ?_) | dsimp -proj only
    | refine upd_fresh ?_ (sub (by decide) hS)

end Sys2Proof.Machine
end

