-- ==== Sys2Proof/Laws/FrameLayout.lean ====
section
/-! SUPPORT. The frame of each operation of Machine/Layout.lean: the parts of the state that it may change, and no others. -/

set_option Elab.async false

namespace Sys2Proof.Machine
open Sys2Proof

set_option maxRecDepth 4000
set_option linter.all false

theorem State.setChannel_keeps {ps : List Area} {s0 s : State} {c : Nat} {x : Channel} (hK : KeepsBut ps s0 s) (hS :
    [.mem] ⊆ ps) : KeepsBut ps s0 (@State.setChannel s c x) := by
  unfold State.setChannel
  with_reducible repeat' first
    | assumption | dsimp -proj only | refine upd_mem ?_ (sub (by decide) hS)

theorem State.setStack_keeps {ps : List Area} {s0 s : State} {n : Nat} {x : Stack} (hK : KeepsBut ps s0 s) (hS :
    [.mem] ⊆ ps) : KeepsBut ps s0 (@State.setStack s n x) := by
  unfold State.setStack
  with_reducible repeat' first
    | assumption | dsimp -proj only | refine upd_mem ?_ (sub (by decide) hS)

end Sys2Proof.Machine
end

