-- ==== Sys2Proof/Laws/FrameMemOps.lean ====
section
/-! SUPPORT. The frame of each operation of Machine/MemOps.lean: the parts of the state that it may change, and no others. -/

set_option Elab.async false

namespace Sys2Proof.Machine
open Sys2Proof

set_option maxRecDepth 4000
set_option linter.all false

theorem State.markMoving_keeps {ps : List Area} {s0 s : State} {ppn target : Nat} {retire : Bool} (hK : KeepsBut ps s0
    s) (hS : [.mem, .twin] ⊆ ps) : KeepsBut ps s0 (@State.markMoving s ppn target retire) := by
  unfold State.markMoving
  with_reducible repeat' first
    | assumption | refine State.logChange_keeps ?_ (sub (by decide) hS) | dsimp -proj only
    | refine upd_mem ?_ (sub (by decide) hS)

theorem State.raiseStack_keeps {ps : List Area} {s0 s : State} {n : Nat} (hK : KeepsBut ps s0 s) (hS : [.evs, .ctrs] ⊆
    ps) : KeepsBut ps s0 (@State.raiseStack s n) := by
  unfold State.raiseStack
  with_reducible repeat' first
    | assumption | refine State.raise_keeps ?_ (sub (by decide) hS) | dsimp -proj only

theorem State.startMigration_keeps {ps : List Area} {s0 s : State} {n : Nat} (hK : KeepsBut ps s0 s) (hS : [.mem,
    .evs, .ctrs] ⊆ ps) : KeepsBut ps s0 (@State.startMigration s n) := by
  unfold State.startMigration
  with_reducible repeat' first
    | assumption | refine State.raiseStack_keeps ?_ (sub (by decide) hS)
    | refine State.setStack_keeps ?_ (sub (by decide) hS) | dsimp -proj only

theorem State.degradeStack_keeps {ps : List Area} {s0 s : State} {n : Nat} (hK : KeepsBut ps s0 s) (hS : [.mem, .evs,
    .ctrs] ⊆ ps) : KeepsBut ps s0 (@State.degradeStack s n) := by
  unfold State.degradeStack
  with_reducible repeat' first
    | assumption | refine State.setStack_keeps ?_ (sub (by decide) hS)
    | refine State.startMigration_keeps ?_ (sub (by decide) hS)
    | refine State.raiseStack_keeps ?_ (sub (by decide) hS) | refine KeepsBut.ite (fun _ => ?_) (fun _ => ?_) | split
    | dsimp -proj only

theorem State.takeSpare_keeps {ps : List Area} {s0 s : State} {n : Nat} (hK : KeepsBut ps s0 s) (hS : [.mem, .evs,
    .ctrs] ⊆ ps) : KeepsBut ps s0 (@State.takeSpare s n) := by
  unfold State.takeSpare
  with_reducible repeat' first
    | assumption | refine State.setStack_keeps ?_ (sub (by decide) hS)
    | refine State.degradeStack_keeps ?_ (sub (by decide) hS) | refine State.raise_keeps ?_ (sub (by decide) hS)
    | refine KeepsBut.ite (fun _ => ?_) (fun _ => ?_) | split | dsimp -proj only

theorem State.retirePage_keeps {ps : List Area} {s0 s : State} {ppn : Nat} (hK : KeepsBut ps s0 s) (hS : [.mem, .twin,
    .evs, .ctrs] ⊆ ps) : KeepsBut ps s0 (@State.retirePage s ppn) := by
  unfold State.retirePage
  with_reducible repeat' first
    | assumption | refine State.markMoving_keeps ?_ (sub (by decide) hS)
    | refine State.takeSpare_keeps ?_ (sub (by decide) hS) | refine KeepsBut.ite (fun _ => ?_) (fun _ => ?_) | split
    | dsimp -proj only | refine upd_mem ?_ (sub (by decide) hS)

theorem State.countAccess_keeps {ps : List Area} {s0 s : State} {ppn r w : Nat} (hK : KeepsBut ps s0 s) (hS : [.mem] ⊆
    ps) : KeepsBut ps s0 (@State.countAccess s ppn r w) := by
  unfold State.countAccess
  with_reducible repeat' first
    | assumption | refine KeepsBut.ite1 (fun _ => ?_) (fun _ => ?_) | dsimp -proj only
    | refine upd_mem ?_ (sub (by decide) hS)

theorem State.setMeta_keeps {ps : List Area} {s0 s : State} {ppn line : Nat} {m : LineMeta} (hK : KeepsBut ps s0 s)
    (hS : [.mem] ⊆ ps) : KeepsBut ps s0 (@State.setMeta s ppn line m) := by
  unfold State.setMeta
  with_reducible repeat' first
    | assumption | dsimp -proj only | refine upd_mem ?_ (sub (by decide) hS)

theorem State.lineLost_keeps {ps : List Area} {s0 s : State} {ppn line : Nat} (hK : KeepsBut ps s0 s) (hS : [.mem,
    .twin, .evs, .ctrs] ⊆ ps) : KeepsBut ps s0 (@State.lineLost s ppn line) := by
  unfold State.lineLost
  with_reducible repeat' first
    | assumption | refine State.bump_keeps ?_ (sub (by decide) hS)
    | refine State.setMeta_keeps ?_ (sub (by decide) hS) | refine State.retirePage_keeps ?_ (sub (by decide) hS)
    | refine State.raise_keeps ?_ (sub (by decide) hS) | dsimp -proj only

theorem State.countCe_keeps {ps : List Area} {s0 s : State} {ch sym : Nat} (hK : KeepsBut ps s0 s) (hS : [.mem, .evs,
    .ctrs] ⊆ ps) : KeepsBut ps s0 (@State.countCe s ch sym) := by
  unfold State.countCe
  with_reducible repeat' first
    | assumption | refine State.bump_keeps ?_ (sub (by decide) hS)
    | refine State.setChannel_keeps ?_ (sub (by decide) hS) | refine State.raise_keeps ?_ (sub (by decide) hS)
    | refine State.setStack_keeps ?_ (sub (by decide) hS) | refine State.degradeStack_keeps ?_ (sub (by decide) hS)
    | refine KeepsBut.ite (fun _ => ?_) (fun _ => ?_) | split | refine KeepsBut.ite1 (fun _ => ?_) (fun _ => ?_)
    | dsimp -proj only

theorem State.logCe_keeps {ps : List Area} {s0 s : State} {e : CeEntry} (hK : KeepsBut ps s0 s) (hS : [.mem, .twin,
    .evs, .ctrs] ⊆ ps) : KeepsBut ps s0 (@State.logCe s e) := by
  unfold State.logCe
  with_reducible repeat' first
    | assumption | refine State.bump_keeps ?_ (sub (by decide) hS)
    | refine State.logChange_keeps ?_ (sub (by decide) hS) | refine State.raise_keeps ?_ (sub (by decide) hS)
    | refine KeepsBut.ite (fun _ => ?_) (fun _ => ?_) | split | dsimp -proj only
    | refine upd_mem ?_ (sub (by decide) hS)

theorem State.hubRead_keeps {ps : List Area} {s0 s : State} {ppn line : Nat} {err : Err} {who : Reader} {dirRead :
    Bool} (hK : KeepsBut ps s0 s) (hS : [.mem, .twin, .evs, .ctrs, .fresh] ⊆ ps) : KeepsBut ps s0 (@State.hubRead s
    ppn line err who dirRead).1 := by
  unfold State.hubRead
  with_reducible repeat' first
    | assumption | refine State.countAccess_keeps ?_ (sub (by decide) hS)
    | refine State.lineLost_keeps ?_ (sub (by decide) hS) | refine State.countCe_keeps ?_ (sub (by decide) hS)
    | refine State.bump_keeps ?_ (sub (by decide) hS) | refine State.logCe_keeps ?_ (sub (by decide) hS)
    | refine KeepsBut.ite1 (fun _ => ?_) (fun _ => ?_) | split | dsimp -proj only
    | refine upd_fresh ?_ (sub (by decide) hS)

theorem State.readLine_keeps {ps : List Area} {s0 s : State} {l : Nat} {err : Err} {who : Reader} {dirRead : Bool} (hK
    : KeepsBut ps s0 s) (hS : [.mem, .twin, .evs, .ctrs, .fresh] ⊆ ps) : KeepsBut ps s0 (@State.readLine s l err who
    dirRead).1 := by
  unfold State.readLine
  with_reducible repeat' first
    | assumption | refine State.hubRead_keeps ?_ (sub (by decide) hS)
    | refine KeepsBut.ite1 (fun _ => ?_) (fun _ => ?_) | dsimp -proj only | refine KeepsBut.of_pair ?_ (by assumption)

theorem State.openLine_keeps {ps : List Area} {s0 s : State} {ppn line : Nat} (hK : KeepsBut ps s0 s) (hS : [.mem] ⊆
    ps) : KeepsBut ps s0 (@State.openLine s ppn line) := by
  unfold State.openLine
  with_reducible repeat' first
    | assumption | refine KeepsBut.ite (fun _ => ?_) (fun _ => ?_) | split | dsimp -proj only
    | refine upd_mem ?_ (sub (by decide) hS)

theorem State.putLine_keeps {ps : List Area} {s0 s : State} {ppn line : Nat} {data : Line} {dir : BitVec 10} {poison :
    Bool} (hK : KeepsBut ps s0 s) (hS : [.mem] ⊆ ps) : KeepsBut ps s0 (@State.putLine s ppn line data dir poison) :=
    by
  unfold State.putLine
  with_reducible repeat' first
    | assumption | refine State.openLine_keeps ?_ (sub (by decide) hS)
    | refine State.setMeta_keeps ?_ (sub (by decide) hS) | dsimp -proj only | refine upd_mem ?_ (sub (by decide) hS)

theorem State.setHubQueue_keeps {ps : List Area} {s0 s : State} {hub : Nat} {q : List HubWrite} (hK : KeepsBut ps s0
    s) (hS : [.mem] ⊆ ps) : KeepsBut ps s0 (@State.setHubQueue s hub q) := by
  unfold State.setHubQueue
  with_reducible repeat' first
    | assumption | refine KeepsBut.ite (fun _ => ?_) (fun _ => ?_) | split | dsimp -proj only
    | refine upd_mem ?_ (sub (by decide) hS)

theorem State.putBoth_keeps {ps : List Area} {s0 s : State} {ppn line : Nat} {data : Line} {dir : BitVec 10} {poison :
    Bool} (hK : KeepsBut ps s0 s) (hS : [.mem] ⊆ ps) : KeepsBut ps s0 (@State.putBoth s ppn line data dir poison) :=
    by
  unfold State.putBoth
  with_reducible repeat' first
    | assumption | refine State.putLine_keeps ?_ (sub (by decide) hS) | split | dsimp -proj only

theorem State.hubWrite_keeps {ps : List Area} {s0 s : State} {ppn line : Nat} {mask : BitVec 64} {data : Line} {dir :
    Option (BitVec 10)} {err : Err} (hK : KeepsBut ps s0 s) (hS : [.mem, .twin, .evs, .ctrs, .fresh] ⊆ ps) : KeepsBut
    ps s0 (@State.hubWrite s ppn line mask data dir err).1 := by
  unfold State.hubWrite
  with_reducible repeat' first
    | assumption | refine State.putBoth_keeps ?_ (sub (by decide) hS)
    | refine State.countAccess_keeps ?_ (sub (by decide) hS) | refine State.hubRead_keeps ?_ (sub (by decide) hS)
    | refine KeepsBut.ite1 (fun _ => ?_) (fun _ => ?_) | split | refine KeepsBut.ite1 (fun _ => ?_) (fun _ => ?_)
    | dsimp -proj only | refine KeepsBut.of_pair ?_ (by assumption) | refine upd_mem ?_ (sub (by decide) hS)

theorem State.writeLine_keeps {ps : List Area} {s0 s : State} {l : Nat} {mask : BitVec 64} {data : Line} {dir : Option
    (BitVec 10)} {err : Err} (hK : KeepsBut ps s0 s) (hS : [.mem, .twin, .evs, .ctrs, .fresh] ⊆ ps) : KeepsBut ps s0
    (@State.writeLine s l mask data dir err).1 := by
  unfold State.writeLine
  with_reducible repeat' first
    | assumption | refine State.hubWrite_keeps ?_ (sub (by decide) hS)
    | refine KeepsBut.ite1 (fun _ => ?_) (fun _ => ?_) | dsimp -proj only | refine KeepsBut.of_pair ?_ (by assumption)

theorem State.commit_keeps {ps : List Area} {s0 s : State} {hub : Nat} {c : Commit} (hK : KeepsBut ps s0 s) (hS :
    [.mem] ⊆ ps) : KeepsBut ps s0 (@State.commit s hub c) := by
  unfold State.commit
  with_reducible repeat' first
    | assumption | refine KeepsBut.ite (fun _ => ?_) (fun _ => ?_) | split | dsimp -proj only
    | refine upd_mem ?_ (sub (by decide) hS)

theorem State.queueWrite_keeps {ps : List Area} {s0 s : State} {l : Nat} {w : HubWrite} (hK : KeepsBut ps s0 s) (hS :
    [.mem, .ctrs] ⊆ ps) : KeepsBut ps s0 (@State.queueWrite s l w) := by
  unfold State.queueWrite
  with_reducible repeat' first
    | assumption | refine State.bump_keeps ?_ (sub (by decide) hS)
    | refine State.setHubQueue_keeps ?_ (sub (by decide) hS) | refine KeepsBut.ite (fun _ => ?_) (fun _ => ?_) | split
    | dsimp -proj only

theorem State.overwritePages_keeps {ps : List Area} {s0 s : State} {ppn n : Nat} (hK : KeepsBut ps s0 s) (hS : [.mem,
    .twin] ⊆ ps) : KeepsBut ps s0 (@State.overwritePages s ppn n) := by
  unfold State.overwritePages
  with_reducible repeat' first
    | assumption | refine State.logChange_keeps ?_ (sub (by decide) hS) | dsimp -proj only
    | refine upd_mem ?_ (sub (by decide) hS)

theorem State.wipePages_keeps {ps : List Area} {s0 s : State} {ppn n : Nat} (hK : KeepsBut ps s0 s) (hS : [.mem,
    .twin] ⊆ ps) : KeepsBut ps s0 (@State.wipePages s ppn n) := by
  unfold State.wipePages
  with_reducible repeat' first
    | assumption | refine State.logChange_keeps ?_ (sub (by decide) hS) | dsimp -proj only
    | refine upd_mem ?_ (sub (by decide) hS)

end Sys2Proof.Machine
end

