-- ==== Sys2Proof/Laws/FramePoolOps.lean ====
section
/-! SUPPORT. The frame of each operation of Machine/PoolOps.lean: the parts of the state that it may change, and no others. -/

set_option Elab.async false

namespace Sys2Proof.Machine
open Sys2Proof

set_option maxRecDepth 4000
set_option linter.all false

theorem State.countPoison_keeps {ps : List Area} {s0 s : State} {host code : Nat} (hK : KeepsBut ps s0 s) (hS :
    [.ctrs] ⊆ ps) : KeepsBut ps s0 (@State.countPoison s host code) := by
  unfold State.countPoison
  with_reducible repeat' first
    | assumption | refine State.bump_keeps ?_ (sub (by decide) hS) | refine KeepsBut.ite (fun _ => ?_) (fun _ => ?_)
    | split | dsimp -proj only

theorem State.useSeq_keeps {ps : List Area} {s0 s : State} {id : Nat} (hK : KeepsBut ps s0 s) (hS : [.sec] ⊆ ps) :
    KeepsBut ps s0 (@State.useSeq s id) := by
  unfold State.useSeq
  with_reducible repeat' first
    | assumption | refine KeepsBut.ite (fun _ => ?_) (fun _ => ?_) | split | dsimp -proj only
    | refine upd_sec ?_ (sub (by decide) hS)

theorem State.finish_keeps {ps : List Area} {s0 s : State} {v : Via} {cmd rsp code value : Nat} {body extra : List
    Byte} (hK : KeepsBut ps s0 s) (hS : [.fab, .twin, .sec, .rsl, .ctrs] ⊆ ps) : KeepsBut ps s0 (@State.finish s v cmd
    rsp code value body extra) := by
  unfold State.finish
  with_reducible repeat' first
    | assumption | refine State.countPoison_keeps ?_ (sub (by decide) hS)
    | refine State.logChange_keeps ?_ (sub (by decide) hS) | refine State.send_keeps ?_ (sub (by decide) hS)
    | refine State.rslDone_keeps ?_ (sub (by decide) hS) | refine State.useSeq_keeps ?_ (sub (by decide) hS)
    | refine KeepsBut.ite (fun _ => ?_) (fun _ => ?_) | split | dsimp -proj only
    | refine upd_twin ?_ (sub (by decide) hS)

theorem State.release_keeps {ps : List Area} {s0 s : State} {h : HeldCpl} (hK : KeepsBut ps s0 s) (hS : [.fab, .twin,
    .sec, .rsl, .ctrs] ⊆ ps) : KeepsBut ps s0 (@State.release s h) := by
  unfold State.release
  with_reducible repeat' first
    | assumption | refine State.finish_keeps ?_ (sub (by decide) hS) | dsimp -proj only

theorem State.releaseAll_keeps {ps : List Area} {s0 s : State} {hs : List HeldCpl} (hK : KeepsBut ps s0 s) (hS :
    [.fab, .twin, .sec, .rsl, .ctrs] ⊆ ps) : KeepsBut ps s0 (@State.releaseAll s hs) := by
  unfold State.releaseAll
  with_reducible repeat' first
    | assumption | refine State.release_keeps ?_ (sub (by decide) hS) | refine KeepsBut.foldl ?_ (fun sF xF hF => ?_)
    | refine KeepsBut.foldl1 ?_ (fun sF xF hF => ?_) | dsimp -proj only | refine KeepsBut.of_pair ?_ (by assumption)

theorem State.forward_keeps {ps : List Area} {s0 s : State} {j : Nat} (hK : KeepsBut ps s0 s) (hS : [.twin] ⊆ ps) :
    KeepsBut ps s0 (@State.forward s j) := by
  unfold State.forward
  with_reducible repeat' first
    | assumption | refine KeepsBut.ite (fun _ => ?_) (fun _ => ?_) | split | dsimp -proj only
    | refine upd_twin ?_ (sub (by decide) hS)

theorem State.police_keeps {ps : List Area} {s0 s : State} {h : ReqHdr} {cls : Nat} (hK : KeepsBut ps s0 s) (hS :
    [.fab, .ctrs] ⊆ ps) : KeepsBut ps s0 (@State.police s h cls).1 := by
  unfold State.police
  with_reducible repeat' first
    | assumption | refine State.bumpPort_keeps ?_ (sub (by decide) hS)
    | refine State.bump_keeps ?_ (sub (by decide) hS) | refine KeepsBut.ite1 (fun _ => ?_) (fun _ => ?_) | split
    | dsimp -proj only | refine upd_fab ?_ (sub (by decide) hS)

theorem State.journalIn_keeps {ps : List Area} {s0 s : State} {h : ReqHdr} {answer : Bool} (hK : KeepsBut ps s0 s) (hS
    : [.fab, .twin] ⊆ ps) : KeepsBut ps s0 (@State.journalIn s h answer) := by
  unfold State.journalIn
  with_reducible repeat' first
    | assumption | dsimp -proj only | refine upd_fab_twin ?_ (sub (by decide) hS)

theorem State.journalOut_keeps {ps : List Area} {s0 s : State} {j : Nat} (hK : KeepsBut ps s0 s) (hS : [.twin] ⊆ ps) :
    KeepsBut ps s0 (@State.journalOut s j) := by
  unfold State.journalOut
  with_reducible repeat' first
    | assumption | dsimp -proj only | refine upd_twin ?_ (sub (by decide) hS)

theorem State.arrive_keeps {ps : List Area} {s0 s : State} {h : ReqHdr} {wait : Bool} {refuse : State → Nat → Nat →
    State} {k : State → State} (hK : KeepsBut ps s0 s) (hrefuse : ∀ (v0 : State) (v1 : Nat) (v2 : Nat), KeepsBut ps s0
    v0 → KeepsBut ps s0 (refuse v0 v1 v2)) (hk : ∀ (v0 : State), KeepsBut ps s0 v0 → KeepsBut ps s0 (k v0)) (hS :
    [.fab, .twin, .ctrs] ⊆ ps) : KeepsBut ps s0 (@State.arrive s h wait refuse k) := by
  unfold State.arrive
  with_reducible repeat' first
    | assumption | apply hrefuse | apply hk | refine State.bumpPort_keeps ?_ (sub (by decide) hS)
    | refine State.journalIn_keeps ?_ (sub (by decide) hS) | refine State.forward_keeps ?_ (sub (by decide) hS)
    | refine State.journalOut_keeps ?_ (sub (by decide) hS) | refine KeepsBut.ite (fun _ => ?_) (fun _ => ?_) | split
    | dsimp -proj only | refine upd_twin ?_ (sub (by decide) hS)

theorem State.nextTarget_keeps {ps : List Area} {s0 s : State} (hK : KeepsBut ps s0 s) (hS : [.mem, .evs, .ctrs] ⊆ ps)
    : KeepsOptP ps s0 (@State.nextTarget s) := by
  unfold State.nextTarget
  with_reducible repeat' first
    | assumption | refine KeepsOptP.some ?_ | refine KeepsOptP.map ?_ | exact KeepsOptP.none
    | refine State.takeSpare_keeps ?_ (sub (by decide) hS) | split | dsimp -proj only
    | refine upd_mem ?_ (sub (by decide) hS)

theorem State.remapAll_keeps {ps : List Area} {s0 s : State} {y1 : List Nat} (hK : KeepsBut ps s0 s) (hS : [.mem,
    .evs, .ctrs] ⊆ ps) : KeepsOpt ps s0 (@State.remapAll s y1) := by
  unfold State.remapAll
  with_reducible repeat' first
    | assumption | refine KeepsOpt.some ?_ | exact KeepsOpt.none
    | refine State.nextTarget_keeps ?_ (sub (by decide) hS) | refine State.remapAll_keeps ?_ (sub (by decide) hS)
    | refine KeepsBut.of_some ?_ (by assumption) | refine KeepsBut.of_somep ?_ (by assumption)
    | refine KeepsBut.ite (fun _ => ?_) (fun _ => ?_) | split | dsimp -proj only
    | refine upd_mem ?_ (sub (by decide) hS)

theorem State.placeShare_keeps {ps : List Area} {s0 s : State} {n : Nat} (hK : KeepsBut ps s0 s) (hS : [.mem, .evs,
    .ctrs] ⊆ ps) : KeepsOptP ps s0 (@State.placeShare s n) := by
  unfold State.placeShare
  with_reducible repeat' first
    | assumption | refine KeepsOptP.some ?_ | refine KeepsOptP.map ?_ | exact KeepsOptP.none
    | refine State.remapAll_keeps ?_ (sub (by decide) hS) | refine KeepsBut.of_some ?_ (by assumption)
    | refine KeepsBut.ite (fun _ => ?_) (fun _ => ?_) | split | dsimp -proj only

theorem State.poolNotice_keeps {ps : List Area} {s0 s : State} {host kind ext : Nat} (hK : KeepsBut ps s0 s) (hS :
    [.fab] ⊆ ps) : KeepsBut ps s0 (@State.poolNotice s host kind ext) := by
  unfold State.poolNotice
  with_reducible repeat' first
    | assumption | refine State.notice_keeps ?_ (sub (by decide) hS) | refine KeepsBut.ite (fun _ => ?_) (fun _ => ?_)
    | split | dsimp -proj only

theorem State.setMsg_keeps {ps : List Area} {s0 s : State} {i tag opcode cls opData : Nat} {body : List Byte} (hK :
    KeepsBut ps s0 s) (hS : [.fab] ⊆ ps) : KeepsBut ps s0 (@State.setMsg s i tag opcode cls opData body) := by
  unfold State.setMsg
  with_reducible repeat' first
    | assumption | refine State.send_keeps ?_ (sub (by decide) hS) | dsimp -proj only

theorem State.sendOrder_keeps {ps : List Area} {s0 s : State} {i : Nat} {o : SetOrder} (hK : KeepsBut ps s0 s) (hS :
    [.fab, .pool] ⊆ ps) : KeepsBut ps s0 (@State.sendOrder s i o).1 := by
  unfold State.sendOrder
  with_reducible repeat' first
    | assumption | refine State.setMsg_keeps ?_ (sub (by decide) hS)
    | refine KeepsBut.ite1 (fun _ => ?_) (fun _ => ?_) | dsimp -proj only | refine upd_pool ?_ (sub (by decide) hS)

theorem State.noticeAll_keeps {ps : List Area} {s0 s : State} {kind : Nat} (hK : KeepsBut ps s0 s) (hS : [.fab] ⊆ ps)
    : KeepsBut ps s0 (@State.noticeAll s kind) := by
  unfold State.noticeAll
  with_reducible repeat' first
    | assumption | refine State.poolNotice_keeps ?_ (sub (by decide) hS)
    | refine KeepsBut.foldl ?_ (fun sF xF hF => ?_) | refine KeepsBut.foldl1 ?_ (fun sF xF hF => ?_)
    | dsimp -proj only | refine KeepsBut.of_pair ?_ (by assumption)

theorem State.poolFatal_keeps {ps : List Area} {s0 s : State} {cause : Nat} (hK : KeepsBut ps s0 s) (hS : [.tok, .fab,
    .evs, .ctrs] ⊆ ps) : KeepsBut ps s0 (@State.poolFatal s cause) := by
  unfold State.poolFatal
  with_reducible repeat' first
    | assumption | refine State.raise_keeps ?_ (sub (by decide) hS)
    | refine State.noticeAll_keeps ?_ (sub (by decide) hS) | refine KeepsBut.ite (fun _ => ?_) (fun _ => ?_) | split
    | dsimp -proj only | refine upd_tok ?_ (sub (by decide) hS)

theorem State.openMessage_keeps {ps : List Area} {s0 s : State} {sid jidx : Nat} (hK : KeepsBut ps s0 s) (hS : [.sec]
    ⊆ ps) : KeepsBut ps s0 (@State.openMessage s sid jidx) := by
  unfold State.openMessage
  with_reducible repeat' first
    | assumption | refine KeepsBut.ite (fun _ => ?_) (fun _ => ?_) | split | dsimp -proj only
    | refine upd_sec ?_ (sub (by decide) hS)

theorem State.setLeaseGone_keeps {ps : List Area} {s0 s : State} {h : Nat} {b : Bool} (hK : KeepsBut ps s0 s) (hS :
    [.fab] ⊆ ps) : KeepsBut ps s0 (@State.setLeaseGone s h b) := by
  unfold State.setLeaseGone
  with_reducible repeat' first
    | assumption | dsimp -proj only | refine upd_fab ?_ (sub (by decide) hS)

theorem State.setLease_keeps {ps : List Area} {s0 s : State} {h : Nat} {l : Lease} (hK : KeepsBut ps s0 s) (hS :
    [.pool, .twin] ⊆ ps) : KeepsBut ps s0 (@State.setLease s h l) := by
  unfold State.setLease
  with_reducible repeat' first
    | assumption | refine State.logChange_keeps ?_ (sub (by decide) hS)
    | refine KeepsBut.ite (fun _ => ?_) (fun _ => ?_) | split | dsimp -proj only
    | refine upd_pool ?_ (sub (by decide) hS)

theorem State.countAccessFail_keeps {ps : List Area} {s0 s : State} {host check : Nat} (hK : KeepsBut ps s0 s) (hS :
    [.ctrs] ⊆ ps) : KeepsBut ps s0 (@State.countAccessFail s host check) := by
  unfold State.countAccessFail
  with_reducible repeat' first
    | assumption | refine State.bump_keeps ?_ (sub (by decide) hS) | refine KeepsBut.ite (fun _ => ?_) (fun _ => ?_)
    | split | dsimp -proj only

theorem State.hubsRefuse_keeps {ps : List Area} {s0 s : State} (hK : KeepsBut ps s0 s) (hS : [.ctrs] ⊆ ps) : KeepsBut
    ps s0 (@State.hubsRefuse s) := by
  unfold State.hubsRefuse
  with_reducible repeat' first
    | assumption | refine State.bump_keeps ?_ (sub (by decide) hS) | refine KeepsBut.foldl ?_ (fun sF xF hF => ?_)
    | refine KeepsBut.foldl1 ?_ (fun sF xF hF => ?_) | dsimp -proj only | refine KeepsBut.of_pair ?_ (by assumption)

theorem State.sendOrders_keeps {ps : List Area} {s0 s : State} {y1 : List (Nat × SetOrder)} (hK : KeepsBut ps s0 s)
    (hS : [.fab, .pool] ⊆ ps) : KeepsBut ps s0 (@State.sendOrders s y1).1 := by
  unfold State.sendOrders
  with_reducible repeat' first
    | assumption | refine State.sendOrder_keeps ?_ (sub (by decide) hS)
    | refine State.sendOrders_keeps ?_ (sub (by decide) hS) | split | refine KeepsBut.ite1 (fun _ => ?_) (fun _ => ?_)
    | dsimp -proj only | refine KeepsBut.of_pair ?_ (by assumption)

theorem State.sealMsg_keeps {ps : List Area} {s0 s : State} {version kind : Nat} {m : OutMsg} (hK : KeepsBut ps s0 s)
    (hS : [.sec] ⊆ ps) : KeepsBut ps s0 (@State.sealMsg s version kind m).1 := by
  unfold State.sealMsg
  with_reducible repeat' first
    | assumption | refine State.useSeq_keeps ?_ (sub (by decide) hS)
    | refine KeepsBut.ite1 (fun _ => ?_) (fun _ => ?_) | split | dsimp -proj only

theorem State.orderMask_keeps {ps : List Area} {s0 s : State} {mask : BitVec 8} {first : SetOrder} {more : List
    SetOrder} {held : Option HeldCpl} (hK : KeepsBut ps s0 s) (hS : [.fab, .pool, .twin, .sec, .rsl, .ctrs] ⊆ ps) :
    KeepsBut ps s0 (@State.orderMask s mask first more held) := by
  unfold State.orderMask
  with_reducible repeat' first
    | assumption | refine State.releaseAll_keeps ?_ (sub (by decide) hS)
    | refine State.sendOrders_keeps ?_ (sub (by decide) hS) | refine KeepsBut.ite (fun _ => ?_) (fun _ => ?_) | split
    | refine KeepsBut.ite1 (fun _ => ?_) (fun _ => ?_) | dsimp -proj only | refine KeepsBut.of_pair ?_ (by assumption)
    | refine upd_pool ?_ (sub (by decide) hS)

theorem State.dropGrant_keeps {ps : List Area} {s0 s : State} {e h : Nat} (hK : KeepsBut ps s0 s) (hS : [.pool, .twin]
    ⊆ ps) : KeepsBut ps s0 (@State.dropGrant s e h) := by
  unfold State.dropGrant
  with_reducible repeat' first
    | assumption | refine State.logChange_keeps ?_ (sub (by decide) hS)
    | refine State.setLease_keeps ?_ (sub (by decide) hS) | refine KeepsBut.ite (fun _ => ?_) (fun _ => ?_) | split
    | dsimp -proj only | refine upd_pool ?_ (sub (by decide) hS)

theorem State.colander_keeps {ps : List Area} {s0 s : State} {h : ReqHdr} {cls : Nat} {refuse : State → Nat → Nat →
    State} {k : State → State} (hK : KeepsBut ps s0 s) (hrefuse : ∀ (v0 : State) (v1 : Nat) (v2 : Nat), KeepsBut ps s0
    v0 → KeepsBut ps s0 (refuse v0 v1 v2)) (hk : ∀ (v0 : State), KeepsBut ps s0 v0 → KeepsBut ps s0 (k v0)) (hS :
    [.fab, .ctrs] ⊆ ps) : KeepsBut ps s0 (@State.colander s h cls refuse k) := by
  unfold State.colander
  with_reducible repeat' first
    | assumption | apply hrefuse | apply hk | refine State.police_keeps ?_ (sub (by decide) hS)
    | refine KeepsBut.ite (fun _ => ?_) (fun _ => ?_) | split | refine KeepsBut.ite1 (fun _ => ?_) (fun _ => ?_)
    | dsimp -proj only | refine KeepsBut.of_pair ?_ (by assumption)

theorem State.setExt_keeps {ps : List Area} {s0 s : State} {e : Nat} {x : Ext} (hK : KeepsBut ps s0 s) (hS : [.pool,
    .twin] ⊆ ps) : KeepsBut ps s0 (@State.setExt s e x) := by
  unfold State.setExt
  with_reducible repeat' first
    | assumption | refine State.logChange_keeps ?_ (sub (by decide) hS) | dsimp -proj only
    | refine upd_pool ?_ (sub (by decide) hS)

theorem State.damage_keeps {ps : List Area} {s0 s : State} {e : Nat} (hK : KeepsBut ps s0 s) (hS : [.fab, .pool,
    .twin] ⊆ ps) : KeepsBut ps s0 (@State.damage s e) := by
  unfold State.damage
  with_reducible repeat' first
    | assumption | refine State.setExt_keeps ?_ (sub (by decide) hS)
    | refine State.poolNotice_keeps ?_ (sub (by decide) hS) | refine KeepsBut.foldl ?_ (fun sF xF hF => ?_)
    | refine KeepsBut.foldl1 ?_ (fun sF xF hF => ?_) | refine KeepsBut.ite (fun _ => ?_) (fun _ => ?_) | split
    | dsimp -proj only | refine KeepsBut.of_pair ?_ (by assumption)

theorem State.countRecorded_keeps {ps : List Area} {s0 s : State} (hK : KeepsBut ps s0 s) (hS : [.ctrs] ⊆ ps) :
    KeepsBut ps s0 (@State.countRecorded s) := by
  unfold State.countRecorded
  with_reducible repeat' first
    | assumption | refine State.bump_keeps ?_ (sub (by decide) hS) | dsimp -proj only

theorem State.classThree_keeps {ps : List Area} {s0 s : State} {v : Via} {cmd : Nat} {lens : List Nat} {mask : BitVec
    32} {resv : Bool} {no : State → Nat → Nat → State} {k : State → State} (hK : KeepsBut ps s0 s) (hno : ∀ (v0 :
    State) (v1 : Nat) (v2 : Nat), KeepsBut ps s0 v0 → KeepsBut ps s0 (no v0 v1 v2)) (hk : ∀ (v0 : State), KeepsBut ps
    s0 v0 → KeepsBut ps s0 (k v0)) (hS : [.fab, .twin, .rsl, .ctrs] ⊆ ps) : KeepsBut ps s0 (@State.classThree s v cmd
    lens mask resv no k) := by
  unfold State.classThree
  with_reducible repeat' first
    | assumption | apply hno | apply hk
    | refine State.arrive_keeps ?_ (fun v0F v1F v2F hF => ?_) (fun v0F hF => ?_) (sub (by decide) hS)
    | refine State.send_keeps ?_ (sub (by decide) hS) | refine State.countRecorded_keeps ?_ (sub (by decide) hS)
    | refine State.colander_keeps ?_ (fun v0F v1F v2F hF => ?_) (fun v0F hF => ?_) (sub (by decide) hS)
    | refine State.rslGate_keeps ?_ (fun v0F hF => ?_) (sub (by decide) hS)
    | refine KeepsBut.ite (fun _ => ?_) (fun _ => ?_) | split | dsimp -proj only

theorem State.setReply_keeps {ps : List Area} {s0 s : State} {i tag opcode : Nat} {jidx : Option Nat} {body : List
    Byte} (hK : KeepsBut ps s0 s) (hS : [.fab] ⊆ ps) : KeepsBut ps s0 (@State.setReply s i tag opcode jidx body) := by
  unfold State.setReply
  with_reducible repeat' first
    | assumption | refine State.send_keeps ?_ (sub (by decide) hS) | dsimp -proj only

theorem State.makeGrant_keeps {ps : List Area} {s0 s : State} {e h rights epoch : Nat} (hK : KeepsBut ps s0 s) (hS :
    [.fab, .pool, .twin] ⊆ ps) : KeepsBut ps s0 (@State.makeGrant s e h rights epoch) := by
  unfold State.makeGrant
  with_reducible repeat' first
    | assumption | refine State.logChange_keeps ?_ (sub (by decide) hS)
    | refine State.setLeaseGone_keeps ?_ (sub (by decide) hS) | refine State.setLease_keeps ?_ (sub (by decide) hS)
    | refine KeepsBut.ite (fun _ => ?_) (fun _ => ?_) | split | dsimp -proj only
    | refine upd_pool ?_ (sub (by decide) hS)

theorem State.extCpl_keeps {ps : List Area} {s0 s : State} {v : Via} {cmd code mask ext value : Nat} (hK : KeepsBut ps
    s0 s) (hS : [.fab, .twin, .sec, .rsl, .ctrs] ⊆ ps) : KeepsBut ps s0 (@State.extCpl s v cmd code mask ext value) :=
    by
  unfold State.extCpl
  with_reducible repeat' first
    | assumption | refine State.finish_keeps ?_ (sub (by decide) hS) | dsimp -proj only

end Sys2Proof.Machine
end

