-- ==== Sys2Proof/Laws/FrameCohOps.lean ====
section
/-! SUPPORT. The frame of each operation of Machine/CohOps.lean: the parts of the state that it may change, and no others. -/

set_option Elab.async false

namespace Sys2Proof.Machine
open Sys2Proof

set_option maxRecDepth 4000
set_option linter.all false

theorem State.setDomain_keeps {ps : List Area} {s0 s : State} {d : Nat} {x : Domain} (hK : KeepsBut ps s0 s) (hS :
    [.coh, .twin] ⊆ ps) : KeepsBut ps s0 (@State.setDomain s d x) := by
  unfold State.setDomain
  with_reducible repeat' first
    | assumption | refine State.logChange_keeps ?_ (sub (by decide) hS) | dsimp -proj only
    | refine upd_coh ?_ (sub (by decide) hS)

theorem State.retireAnswers_keeps {ps : List Area} {s0 s : State} {t : Tracker} (hK : KeepsBut ps s0 s) (hS : [.twin]
    ⊆ ps) : KeepsBut ps s0 (@State.retireAnswers s t) := by
  unfold State.retireAnswers
  with_reducible repeat' first
    | assumption | refine State.journalOut_keeps ?_ (sub (by decide) hS)
    | refine KeepsBut.foldl ?_ (fun sF xF hF => ?_) | refine KeepsBut.foldl1 ?_ (fun sF xF hF => ?_)
    | dsimp -proj only | refine KeepsBut.of_pair ?_ (by assumption)

theorem State.setDesc_keeps {ps : List Area} {s0 s : State} {d : Desc} (hK : KeepsBut ps s0 s) (hS : [.coach] ⊆ ps) :
    KeepsBut ps s0 (@State.setDesc s d) := by
  unfold State.setDesc
  with_reducible repeat' first
    | assumption | refine KeepsBut.ite (fun _ => ?_) (fun _ => ?_) | split | dsimp -proj only
    | refine upd_coach ?_ (sub (by decide) hS)

theorem State.answerCoach_keeps {ps : List Area} {s0 s : State} {t : Tracker} {code : Nat} {data : Line} (hK :
    KeepsBut ps s0 s) (hS : [.coach] ⊆ ps) : KeepsBut ps s0 (@State.answerCoach s t code data) := by
  unfold State.answerCoach
  with_reducible repeat' first
    | assumption | refine State.setDesc_keeps ?_ (sub (by decide) hS) | split | dsimp -proj only

theorem State.atCpl_keeps {ps : List Area} {s0 s : State} {h : ReqHdr} {code value : Nat} (hK : KeepsBut ps s0 s) (hS
    : [.fab, .ctrs] ⊆ ps) : KeepsBut ps s0 (@State.atCpl s h code value) := by
  unfold State.atCpl
  with_reducible repeat' first
    | assumption | refine State.send_keeps ?_ (sub (by decide) hS)
    | refine State.countPoison_keeps ?_ (sub (by decide) hS) | refine KeepsBut.ite (fun _ => ?_) (fun _ => ?_) | split
    | dsimp -proj only

theorem State.cohCpl_keeps {ps : List Area} {s0 s : State} {h : ReqHdr} {code value : Nat} (hK : KeepsBut ps s0 s) (hS
    : [.fab, .ctrs] ⊆ ps) : KeepsBut ps s0 (@State.cohCpl s h code value) := by
  unfold State.cohCpl
  with_reducible repeat' first
    | assumption | refine State.send_keeps ?_ (sub (by decide) hS)
    | refine State.countPoison_keeps ?_ (sub (by decide) hS) | dsimp -proj only

theorem State.homeCpl_keeps {ps : List Area} {s0 s : State} {kind : HomeReq} {h : ReqHdr} {code value : Nat} (hK :
    KeepsBut ps s0 s) (hS : [.fab, .ctrs] ⊆ ps) : KeepsBut ps s0 (@State.homeCpl s kind h code value) := by
  unfold State.homeCpl
  with_reducible repeat' first
    | assumption | refine State.atCpl_keeps ?_ (sub (by decide) hS)
    | refine State.cohCpl_keeps ?_ (sub (by decide) hS) | refine KeepsBut.ite (fun _ => ?_) (fun _ => ?_) | split
    | dsimp -proj only

theorem State.trkCpl_keeps {ps : List Area} {s0 s : State} {t : Tracker} {code value : Nat} (hK : KeepsBut ps s0 s)
    (hS : [.fab, .coach, .ctrs] ⊆ ps) : KeepsBut ps s0 (@State.trkCpl s t code value) := by
  unfold State.trkCpl
  with_reducible repeat' first
    | assumption | refine State.answerCoach_keeps ?_ (sub (by decide) hS)
    | refine State.homeCpl_keeps ?_ (sub (by decide) hS) | refine KeepsBut.ite (fun _ => ?_) (fun _ => ?_) | split
    | dsimp -proj only

theorem State.domainNotices_keeps {ps : List Area} {s0 s : State} {d kind cause : Nat} (hK : KeepsBut ps s0 s) (hS :
    [.fab] ⊆ ps) : KeepsBut ps s0 (@State.domainNotices s d kind cause) := by
  unfold State.domainNotices
  with_reducible repeat' first
    | assumption | refine State.notice_keeps ?_ (sub (by decide) hS) | refine KeepsBut.foldl ?_ (fun sF xF hF => ?_)
    | refine KeepsBut.foldl1 ?_ (fun sF xF hF => ?_) | refine KeepsBut.ite (fun _ => ?_) (fun _ => ?_) | split
    | dsimp -proj only | refine KeepsBut.of_pair ?_ (by assumption)

theorem State.domainFalls_keeps {ps : List Area} {s0 s : State} {d cause : Nat} {report : Bool} {held : Option
    HeldCpl} (hK : KeepsBut ps s0 s) (hS : [.fab, .pool, .coh, .coach, .twin, .sec, .rsl, .evs, .ctrs] ⊆ ps) :
    KeepsBut ps s0 (@State.domainFalls s d cause report held) := by
  unfold State.domainFalls
  with_reducible repeat' first
    | assumption | refine State.bump_keeps ?_ (sub (by decide) hS)
    | refine State.setDomain_keeps ?_ (sub (by decide) hS) | refine State.retireAnswers_keeps ?_ (sub (by decide) hS)
    | refine State.trkCpl_keeps ?_ (sub (by decide) hS) | refine State.orderMask_keeps ?_ (sub (by decide) hS)
    | refine State.domainNotices_keeps ?_ (sub (by decide) hS) | refine State.send_keeps ?_ (sub (by decide) hS)
    | refine State.raise_keeps ?_ (sub (by decide) hS) | refine KeepsBut.foldl ?_ (fun sF xF hF => ?_)
    | refine KeepsBut.foldl1 ?_ (fun sF xF hF => ?_) | refine KeepsBut.ite (fun _ => ?_) (fun _ => ?_) | split
    | dsimp -proj only | refine KeepsBut.of_pair ?_ (by assumption) | refine upd_coh ?_ (sub (by decide) hS)

theorem State.domainDown_keeps {ps : List Area} {s0 s : State} {d cause : Nat} (hK : KeepsBut ps s0 s) (hS : [.fab,
    .pool, .coh, .coach, .twin, .sec, .rsl, .evs, .ctrs] ⊆ ps) : KeepsBut ps s0 (@State.domainDown s d cause) := by
  unfold State.domainDown
  with_reducible repeat' first
    | assumption | refine State.domainFalls_keeps ?_ (sub (by decide) hS) | dsimp -proj only

theorem State.dataLost_keeps {ps : List Area} {s0 s : State} {e : Nat} (hK : KeepsBut ps s0 s) (hS : [.fab, .pool,
    .coh, .coach, .twin, .sec, .rsl, .evs, .ctrs] ⊆ ps) : KeepsBut ps s0 (@State.dataLost s e) := by
  unfold State.dataLost
  with_reducible repeat' first
    | assumption | refine State.domainDown_keeps ?_ (sub (by decide) hS) | split | dsimp -proj only

theorem State.rdData_keeps {ps : List Area} {s0 s : State} {h : ReqHdr} {granted : Nat} {data : Line} (hK : KeepsBut
    ps s0 s) (hS : [.fab] ⊆ ps) : KeepsBut ps s0 (@State.rdData s h granted data) := by
  unfold State.rdData
  with_reducible repeat' first
    | assumption | refine State.send_keeps ?_ (sub (by decide) hS) | refine KeepsBut.ite (fun _ => ?_) (fun _ => ?_)
    | split | dsimp -proj only

theorem State.setTracker_keeps {ps : List Area} {s0 s : State} {t : Tracker} (hK : KeepsBut ps s0 s) (hS : [.coh] ⊆
    ps) : KeepsBut ps s0 (@State.setTracker s t) := by
  unfold State.setTracker
  with_reducible repeat' first
    | assumption | refine KeepsBut.ite (fun _ => ?_) (fun _ => ?_) | split | dsimp -proj only
    | refine upd_coh ?_ (sub (by decide) hS)

theorem State.cohNak_keeps {ps : List Area} {s0 s : State} {h : ReqHdr} {reason : Nat} {holder : Bool} (hK : KeepsBut
    ps s0 s) (hS : [.fab] ⊆ ps) : KeepsBut ps s0 (@State.cohNak s h reason holder) := by
  unfold State.cohNak
  with_reducible repeat' first
    | assumption | refine State.send_keeps ?_ (sub (by decide) hS) | dsimp -proj only

theorem State.freeTracker_keeps {ps : List Area} {s0 s : State} {id : Nat} (hK : KeepsBut ps s0 s) (hS : [.coh] ⊆ ps)
    : KeepsBut ps s0 (@State.freeTracker s id) := by
  unfold State.freeTracker
  with_reducible repeat' first
    | assumption | dsimp -proj only | refine upd_coh ?_ (sub (by decide) hS)

theorem State.dataLostPage_keeps {ps : List Area} {s0 s : State} {ppn : Nat} (hK : KeepsBut ps s0 s) (hS : [.fab,
    .pool, .coh, .coach, .twin, .sec, .rsl, .evs, .ctrs] ⊆ ps) : KeepsBut ps s0 (@State.dataLostPage s ppn) := by
  unfold State.dataLostPage
  with_reducible repeat' first
    | assumption | refine State.dataLost_keeps ?_ (sub (by decide) hS) | split | dsimp -proj only

end Sys2Proof.Machine
end

