-- ==== Sys2Proof/Laws/FrameCoachOps.lean ====
section
/-! SUPPORT. The frame of each operation of Machine/CoachOps.lean: the parts of the state that it may change, and no others. -/

set_option Elab.async false

namespace Sys2Proof.Machine
open Sys2Proof

set_option maxRecDepth 4000
set_option linter.all false

theorem State.readPool_keeps {ps : List Area} {s0 s : State} {addr : Nat} {err : Err} {who : Reader} (hK : KeepsBut ps
    s0 s) (hS : [.mem, .twin, .evs, .ctrs, .fresh] ⊆ ps) : KeepsBut ps s0 (@State.readPool s addr err who).1 := by
  unfold State.readPool
  with_reducible repeat' first
    | assumption | refine State.readLine_keeps ?_ (sub (by decide) hS)
    | refine KeepsBut.ite1 (fun _ => ?_) (fun _ => ?_) | dsimp -proj only | refine KeepsBut.of_pair ?_ (by assumption)

theorem State.setRing_keeps {ps : List Area} {s0 s : State} {r : Nat} {x : Ring} (hK : KeepsBut ps s0 s) (hS :
    [.coach, .twin] ⊆ ps) : KeepsBut ps s0 (@State.setRing s r x) := by
  unfold State.setRing
  with_reducible repeat' first
    | assumption | refine State.logChange_keeps ?_ (sub (by decide) hS) | dsimp -proj only
    | refine upd_coach ?_ (sub (by decide) hS)

theorem State.logInvals_keeps {ps : List Area} {s0 s : State} (hK : KeepsBut ps s0 s) (hS : [.twin] ⊆ ps) : KeepsBut
    ps s0 (@State.logInvals s) := by
  unfold State.logInvals
  with_reducible repeat' first
    | assumption | refine State.logChange_keeps ?_ (sub (by decide) hS) | dsimp -proj only

theorem State.setFrec_keeps {ps : List Area} {s0 s : State} {f : Nat} {x : FaultRec} (hK : KeepsBut ps s0 s) (hS :
    [.coach, .twin] ⊆ ps) : KeepsBut ps s0 (@State.setFrec s f x) := by
  unfold State.setFrec
  with_reducible repeat' first
    | assumption | refine State.logChange_keeps ?_ (sub (by decide) hS) | dsimp -proj only
    | refine upd_coach ?_ (sub (by decide) hS)

theorem State.leaveFault_keeps {ps : List Area} {s0 s : State} {d : Desc} (hK : KeepsBut ps s0 s) (hS : [.coach,
    .twin] ⊆ ps) : KeepsBut ps s0 (@State.leaveFault s d) := by
  unfold State.leaveFault
  with_reducible repeat' first
    | assumption | refine State.setFrec_keeps ?_ (sub (by decide) hS)
    | refine KeepsBut.ite (fun _ => ?_) (fun _ => ?_) | split | dsimp -proj only

theorem State.writePool_keeps {ps : List Area} {s0 s : State} {addr : Nat} {bytes : List Byte} (hK : KeepsBut ps s0 s)
    (hS : [.mem, .twin, .evs, .ctrs, .fresh] ⊆ ps) : KeepsBut ps s0 (@State.writePool s addr bytes) := by
  unfold State.writePool
  with_reducible repeat' first
    | assumption | refine State.writeLine_keeps ?_ (sub (by decide) hS)
    | refine KeepsBut.ite1 (fun _ => ?_) (fun _ => ?_) | dsimp -proj only | refine KeepsBut.of_pair ?_ (by assumption)

theorem State.writeLine1_keeps {ps : List Area} {s0 s : State} {r : Nat} (hK : KeepsBut ps s0 s) (hS : [.coach, .mem,
    .twin, .evs, .ctrs, .fresh] ⊆ ps) : KeepsBut ps s0 (@State.writeLine1 s r) := by
  unfold State.writeLine1
  with_reducible repeat' first
    | assumption | refine State.setRing_keeps ?_ (sub (by decide) hS)
    | refine State.writePool_keeps ?_ (sub (by decide) hS) | refine KeepsBut.ite (fun _ => ?_) (fun _ => ?_) | split
    | dsimp -proj only

theorem State.resumeRing_keeps {ps : List Area} {s0 s : State} {r : Nat} (hK : KeepsBut ps s0 s) (hS : [.coach, .mem,
    .twin, .evs, .ctrs, .fresh] ⊆ ps) : KeepsBut ps s0 (@State.resumeRing s r) := by
  unfold State.resumeRing
  with_reducible repeat' first
    | assumption | refine State.writeLine1_keeps ?_ (sub (by decide) hS)
    | refine State.setRing_keeps ?_ (sub (by decide) hS) | refine KeepsBut.ite (fun _ => ?_) (fun _ => ?_) | split
    | dsimp -proj only

theorem State.descDone_keeps {ps : List Area} {s0 s : State} {d : Desc} {code done fid gen detail : Nat} {s2 : Bool}
    (hK : KeepsBut ps s0 s) (hS : [.coach, .mem, .twin, .evs, .ctrs, .fresh] ⊆ ps) : KeepsBut ps s0 (@State.descDone s
    d code done fid gen detail s2) := by
  unfold State.descDone
  with_reducible repeat' first
    | assumption | refine State.leaveFault_keeps ?_ (sub (by decide) hS)
    | refine State.bump_keeps ?_ (sub (by decide) hS) | refine State.writePool_keeps ?_ (sub (by decide) hS)
    | refine State.setRing_keeps ?_ (sub (by decide) hS) | refine State.resumeRing_keeps ?_ (sub (by decide) hS)
    | refine KeepsBut.ite (fun _ => ?_) (fun _ => ?_) | split | refine KeepsBut.ite1 (fun _ => ?_) (fun _ => ?_)
    | dsimp -proj only | refine upd_coach ?_ (sub (by decide) hS)

theorem State.settleInvals_keeps {ps : List Area} {s0 s : State} (hK : KeepsBut ps s0 s) (hS : [.coach, .mem, .twin,
    .rsl, .evs, .ctrs, .fresh] ⊆ ps) : KeepsBut ps s0 (@State.settleInvals s) := by
  unfold State.settleInvals
  with_reducible repeat' first
    | assumption | refine State.logInvals_keeps ?_ (sub (by decide) hS)
    | refine State.descDone_keeps ?_ (sub (by decide) hS) | refine State.rslDone_keeps ?_ (sub (by decide) hS)
    | refine KeepsBut.foldl ?_ (fun sF xF hF => ?_) | refine KeepsBut.foldl1 ?_ (fun sF xF hF => ?_)
    | refine KeepsBut.ite (fun _ => ?_) (fun _ => ?_) | split | dsimp -proj only
    | refine KeepsBut.of_pair ?_ (by assumption) | refine upd_coach ?_ (sub (by decide) hS)

theorem State.coachCpl_keeps {ps : List Area} {s0 s : State} {v : Via} {cmd code ring value : Nat} (hK : KeepsBut ps
    s0 s) (hS : [.fab, .twin, .sec, .rsl, .ctrs] ⊆ ps) : KeepsBut ps s0 (@State.coachCpl s v cmd code ring value) :=
    by
  unfold State.coachCpl
  with_reducible repeat' first
    | assumption | refine State.finish_keeps ?_ (sub (by decide) hS) | dsimp -proj only

theorem State.settleRing_keeps {ps : List Area} {s0 s : State} {r : Nat} (hK : KeepsBut ps s0 s) (hS : [.fab, .coach,
    .mem, .twin, .sec, .rsl, .evs, .ctrs, .fresh] ⊆ ps) : KeepsBut ps s0 (@State.settleRing s r) := by
  unfold State.settleRing
  with_reducible repeat' first
    | assumption | refine State.writeLine1_keeps ?_ (sub (by decide) hS)
    | refine State.setRing_keeps ?_ (sub (by decide) hS) | refine State.coachCpl_keeps ?_ (sub (by decide) hS)
    | refine KeepsBut.foldl ?_ (fun sF xF hF => ?_) | refine KeepsBut.foldl1 ?_ (fun sF xF hF => ?_)
    | refine KeepsBut.ite (fun _ => ?_) (fun _ => ?_) | split | dsimp -proj only
    | refine KeepsBut.of_pair ?_ (by assumption)

theorem State.settle_keeps {ps : List Area} {s0 s : State} (hK : KeepsBut ps s0 s) (hS : [.fab, .coach, .mem, .twin,
    .sec, .rsl, .evs, .ctrs, .fresh] ⊆ ps) : KeepsBut ps s0 (@State.settle s) := by
  unfold State.settle
  with_reducible repeat' first
    | assumption | refine State.settleInvals_keeps ?_ (sub (by decide) hS)
    | refine State.settleRing_keeps ?_ (sub (by decide) hS) | refine KeepsBut.foldl ?_ (fun sF xF hF => ?_)
    | refine KeepsBut.foldl1 ?_ (fun sF xF hF => ?_) | refine KeepsBut.ite1 (fun _ => ?_) (fun _ => ?_)
    | dsimp -proj only | refine KeepsBut.of_pair ?_ (by assumption)

theorem State.endDesc_keeps {ps : List Area} {s0 s : State} {d : Desc} {code : Nat} (hK : KeepsBut ps s0 s) (hS :
    [.coach, .mem, .twin, .evs, .ctrs, .fresh] ⊆ ps) : KeepsBut ps s0 (@State.endDesc s d code) := by
  unfold State.endDesc
  with_reducible repeat' first
    | assumption | refine State.descDone_keeps ?_ (sub (by decide) hS) | dsimp -proj only

theorem State.invalidateAct_keeps {ps : List Area} {s0 s : State} {tenant scope src len root : Nat} {slot : Option
    (Nat × Nat)} {owed : Option Owed} (hK : KeepsBut ps s0 s) (hS : [.fab, .coach, .mem, .twin, .sec, .rsl, .evs,
    .ctrs, .fresh] ⊆ ps) : KeepsBut ps s0 (@State.invalidateAct s tenant scope src len root slot owed) := by
  unfold State.invalidateAct
  with_reducible repeat' first
    | assumption | refine State.endDesc_keeps ?_ (sub (by decide) hS)
    | refine State.logInvals_keeps ?_ (sub (by decide) hS) | refine State.settle_keeps ?_ (sub (by decide) hS)
    | refine KeepsBut.foldl ?_ (fun sF xF hF => ?_) | refine KeepsBut.foldl1 ?_ (fun sF xF hF => ?_)
    | dsimp -proj only | refine KeepsBut.of_pair ?_ (by assumption) | refine upd_coach ?_ (sub (by decide) hS)

theorem State.fetchOne_keeps {ps : List Area} {s0 s : State} {r : Nat} (hK : KeepsBut ps s0 s) (hS : [.fab, .coach,
    .mem, .twin, .sec, .rsl, .evs, .ctrs, .fresh] ⊆ ps) : KeepsBut ps s0 (@State.fetchOne s r).1 := by
  unfold State.fetchOne
  with_reducible repeat' first
    | assumption | refine State.readPool_keeps ?_ (sub (by decide) hS)
    | refine State.setRing_keeps ?_ (sub (by decide) hS) | refine State.bump_keeps ?_ (sub (by decide) hS)
    | refine State.settle_keeps ?_ (sub (by decide) hS) | refine State.endDesc_keeps ?_ (sub (by decide) hS)
    | refine State.setDesc_keeps ?_ (sub (by decide) hS) | refine State.invalidateAct_keeps ?_ (sub (by decide) hS)
    | refine KeepsBut.ite1 (fun _ => ?_) (fun _ => ?_) | split | refine KeepsBut.ite1 (fun _ => ?_) (fun _ => ?_)
    | dsimp -proj only | refine KeepsBut.of_pair ?_ (by assumption) | refine upd_coach ?_ (sub (by decide) hS)

theorem State.fetchMany_keeps {ps : List Area} {s0 s : State} {r n k : Nat} (hK : KeepsBut ps s0 s)
    (hS : [.fab, .coach, .mem, .twin, .sec, .rsl, .evs, .ctrs, .fresh] ⊆ ps) :
    KeepsBut ps s0 (State.fetchMany s r n k).1 := by
  induction n generalizing s k with
  | zero =>
    rw [State.fetchMany]
    exact hK
  | succ n ih =>
    have h1 := State.fetchOne_keeps (r := r) hK (sub (by decide) hS)
    rw [State.fetchMany]
    with_reducible exact KeepsBut.ite1 (fun _ => ih h1) (fun _ => h1)

theorem State.cancelLaunch_keeps {ps : List Area} {s0 s : State} {r code value : Nat} (hK : KeepsBut ps s0 s) (hS :
    [.fab, .coach, .twin, .sec, .rsl, .ctrs] ⊆ ps) : KeepsBut ps s0 (@State.cancelLaunch s r code value) := by
  unfold State.cancelLaunch
  with_reducible repeat' first
    | assumption | refine State.logChange_keeps ?_ (sub (by decide) hS)
    | refine State.setRing_keeps ?_ (sub (by decide) hS) | refine State.finish_keeps ?_ (sub (by decide) hS) | split
    | dsimp -proj only

theorem State.endUnstarted_keeps {ps : List Area} {s0 s : State} {p : Desc → Bool} {code : Nat} (hK : KeepsBut ps s0
    s) (hS : [.coach, .mem, .twin, .evs, .ctrs, .fresh] ⊆ ps) : KeepsBut ps s0 (@State.endUnstarted s p code) := by
  unfold State.endUnstarted
  with_reducible repeat' first
    | assumption | refine State.endDesc_keeps ?_ (sub (by decide) hS) | refine KeepsBut.foldl ?_ (fun sF xF hF => ?_)
    | refine KeepsBut.foldl1 ?_ (fun sF xF hF => ?_) | dsimp -proj only | refine KeepsBut.of_pair ?_ (by assumption)

theorem State.stopRing_keeps {ps : List Area} {s0 s : State} {r cause : Nat} {mode1 : Bool} (hK : KeepsBut ps s0 s)
    (hS : [.fab, .coach, .mem, .twin, .sec, .rsl, .evs, .ctrs, .fresh] ⊆ ps) : KeepsBut ps s0 (@State.stopRing s r
    cause mode1) := by
  unfold State.stopRing
  with_reducible repeat' first
    | assumption | refine State.cancelLaunch_keeps ?_ (sub (by decide) hS)
    | refine State.writeLine1_keeps ?_ (sub (by decide) hS) | refine State.setRing_keeps ?_ (sub (by decide) hS)
    | refine State.endUnstarted_keeps ?_ (sub (by decide) hS) | refine KeepsBut.ite (fun _ => ?_) (fun _ => ?_)
    | split | dsimp -proj only

theorem State.coachNotice_keeps {ps : List Area} {s0 s : State} {host kind code ring fid gen : Nat} (hK : KeepsBut ps
    s0 s) (hS : [.fab] ⊆ ps) : KeepsBut ps s0 (@State.coachNotice s host kind code ring fid gen) := by
  unfold State.coachNotice
  with_reducible repeat' first
    | assumption | refine State.notice_keeps ?_ (sub (by decide) hS) | dsimp -proj only

theorem State.stopForCause_keeps {ps : List Area} {s0 s : State} {r cause : Nat} (hK : KeepsBut ps s0 s) (hS : [.fab,
    .coach, .mem, .twin, .sec, .rsl, .evs, .ctrs, .fresh] ⊆ ps) : KeepsBut ps s0 (@State.stopForCause s r cause) := by
  unfold State.stopForCause
  with_reducible repeat' first
    | assumption | refine State.stopRing_keeps ?_ (sub (by decide) hS)
    | refine State.coachNotice_keeps ?_ (sub (by decide) hS) | refine State.raise_keeps ?_ (sub (by decide) hS)
    | refine State.settle_keeps ?_ (sub (by decide) hS) | refine KeepsBut.ite (fun _ => ?_) (fun _ => ?_) | split
    | dsimp -proj only

theorem State.scanFetch_keeps {ps : List Area} {s0 s : State} {r budget want : Nat} (hK : KeepsBut ps s0 s) (hS :
    [.fab, .coach, .mem, .twin, .sec, .rsl, .evs, .ctrs, .fresh] ⊆ ps) : KeepsBut ps s0 (@State.scanFetch s r budget
    want).1 := by
  unfold State.scanFetch
  with_reducible repeat' first
    | assumption | refine State.fetchMany_keeps ?_ (sub (by decide) hS)
    | refine State.bump_keeps ?_ (sub (by decide) hS) | refine State.writeLine1_keeps ?_ (sub (by decide) hS)
    | refine KeepsBut.ite1 (fun _ => ?_) (fun _ => ?_) | split | refine KeepsBut.ite1 (fun _ => ?_) (fun _ => ?_)
    | dsimp -proj only | refine KeepsBut.of_pair ?_ (by assumption)

theorem State.scanCount_keeps {ps : List Area} {s0 s : State} {r budget size n : Nat} (hK : KeepsBut ps s0 s) (hS :
    [.fab, .coach, .mem, .twin, .sec, .rsl, .evs, .ctrs, .fresh] ⊆ ps) : KeepsBut ps s0 (@State.scanCount s r budget
    size n).1 := by
  unfold State.scanCount
  with_reducible repeat' first
    | assumption | refine State.stopForCause_keeps ?_ (sub (by decide) hS)
    | refine State.scanFetch_keeps ?_ (sub (by decide) hS) | refine KeepsBut.ite1 (fun _ => ?_) (fun _ => ?_) | split
    | refine KeepsBut.ite1 (fun _ => ?_) (fun _ => ?_) | dsimp -proj only | refine KeepsBut.of_pair ?_ (by assumption)

theorem State.walkRead_keeps {ps : List Area} {s0 s : State} {addr : Nat} {err : Err} (hK : KeepsBut ps s0 s) (hS :
    [.mem, .twin, .evs, .ctrs, .fresh] ⊆ ps) : KeepsBut ps s0 (@State.walkRead s addr err).1 := by
  unfold State.walkRead
  with_reducible repeat' first
    | assumption | refine State.readPool_keeps ?_ (sub (by decide) hS)
    | refine KeepsBut.ite1 (fun _ => ?_) (fun _ => ?_) | split | refine KeepsBut.ite1 (fun _ => ?_) (fun _ => ?_)
    | dsimp -proj only | refine KeepsBut.of_pair ?_ (by assumption)

theorem State.walkS1_keeps {ps : List Area} {s0 s : State} {owner tva need y4 y5 y6 : Nat} {y7 : Err} (hK : KeepsBut
    ps s0 s) (hS : [.mem, .twin, .evs, .ctrs, .fresh] ⊆ ps) : KeepsBut ps s0 (@State.walkS1 s owner tva need y4 y5 y6
    y7).1 := by
  unfold State.walkS1
  with_reducible repeat' first
    | assumption | refine State.walkRead_keeps ?_ (sub (by decide) hS)
    | refine State.walkS1_keeps ?_ (sub (by decide) hS) | refine KeepsBut.ite1 (fun _ => ?_) (fun _ => ?_) | split
    | refine KeepsBut.ite1 (fun _ => ?_) (fun _ => ?_) | dsimp -proj only | refine KeepsBut.of_pair ?_ (by assumption)

theorem State.translate_keeps {ps : List Area} {s0 s : State} {x : Ring} {addr need : Nat} {err : Err} (hK : KeepsBut
    ps s0 s) (hS : [.mem, .twin, .evs, .ctrs, .fresh] ⊆ ps) : KeepsBut ps s0 (@State.translate s x addr need err).1 :=
    by
  unfold State.translate
  with_reducible repeat' first
    | assumption | refine State.walkS1_keeps ?_ (sub (by decide) hS)
    | refine KeepsBut.ite1 (fun _ => ?_) (fun _ => ?_) | split | refine KeepsBut.ite1 (fun _ => ?_) (fun _ => ?_)
    | dsimp -proj only | refine KeepsBut.of_pair ?_ (by assumption)

theorem State.walkRange_keeps {ps : List Area} {s0 s : State} {x : Ring} {need : Nat} {dst : Bool} {y4 y5 y6 : Nat}
    {y7 : Err} {y8 : List (PageEnt × Nat)} (hK : KeepsBut ps s0 s) (hS : [.mem, .twin, .evs, .ctrs, .fresh] ⊆ ps) :
    KeepsBut ps s0 (@State.walkRange s x need dst y4 y5 y6 y7 y8).1 := by
  unfold State.walkRange
  with_reducible repeat' first
    | assumption | refine State.translate_keeps ?_ (sub (by decide) hS)
    | refine State.walkRange_keeps ?_ (sub (by decide) hS) | refine KeepsBut.ite1 (fun _ => ?_) (fun _ => ?_) | split
    | refine KeepsBut.ite1 (fun _ => ?_) (fun _ => ?_) | dsimp -proj only | refine KeepsBut.of_pair ?_ (by assumption)

theorem State.cancelDescs_keeps {ps : List Area} {s0 s : State} {e : Nat} (hK : KeepsBut ps s0 s) (hS : [.fab, .coach,
    .mem, .twin, .sec, .rsl, .evs, .ctrs, .fresh] ⊆ ps) : KeepsBut ps s0 (@State.cancelDescs s e) := by
  unfold State.cancelDescs
  with_reducible repeat' first
    | assumption | refine State.settle_keeps ?_ (sub (by decide) hS)
    | refine State.endUnstarted_keeps ?_ (sub (by decide) hS) | dsimp -proj only

theorem State.stopRingsOf_keeps {ps : List Area} {s0 s : State} {h : Nat} (hK : KeepsBut ps s0 s) (hS : [.fab, .coach,
    .mem, .twin, .sec, .rsl, .evs, .ctrs, .fresh] ⊆ ps) : KeepsBut ps s0 (@State.stopRingsOf s h) := by
  unfold State.stopRingsOf
  with_reducible repeat' first
    | assumption | refine State.stopForCause_keeps ?_ (sub (by decide) hS)
    | refine KeepsBut.foldl ?_ (fun sF xF hF => ?_) | refine KeepsBut.foldl1 ?_ (fun sF xF hF => ?_)
    | refine KeepsBut.ite1 (fun _ => ?_) (fun _ => ?_) | dsimp -proj only | refine KeepsBut.of_pair ?_ (by assumption)

theorem State.scanHeader_keeps {ps : List Area} {s0 s : State} {r budget : Nat} {x : Ring} {l0 : ReadAns} (hK :
    KeepsBut ps s0 s) (hS : [.fab, .coach, .mem, .twin, .sec, .rsl, .evs, .ctrs, .fresh] ⊆ ps) : KeepsBut ps s0
    (@State.scanHeader s r budget x l0).1 := by
  unfold State.scanHeader
  with_reducible repeat' first
    | assumption | refine State.stopForCause_keeps ?_ (sub (by decide) hS)
    | refine State.scanCount_keeps ?_ (sub (by decide) hS) | refine KeepsBut.ite1 (fun _ => ?_) (fun _ => ?_) | split
    | refine KeepsBut.ite1 (fun _ => ?_) (fun _ => ?_) | dsimp -proj only | refine KeepsBut.of_pair ?_ (by assumption)

theorem State.scanRing_keeps {ps : List Area} {s0 s : State} {r budget : Nat} (hK : KeepsBut ps s0 s) (hS : [.fab,
    .coach, .mem, .twin, .sec, .rsl, .evs, .ctrs, .fresh] ⊆ ps) : KeepsBut ps s0 (@State.scanRing s r budget).1 := by
  unfold State.scanRing
  with_reducible repeat' first
    | assumption | refine State.stopForCause_keeps ?_ (sub (by decide) hS)
    | refine State.readPool_keeps ?_ (sub (by decide) hS) | refine State.scanHeader_keeps ?_ (sub (by decide) hS)
    | refine KeepsBut.ite1 (fun _ => ?_) (fun _ => ?_) | split | refine KeepsBut.ite1 (fun _ => ?_) (fun _ => ?_)
    | dsimp -proj only | refine KeepsBut.of_pair ?_ (by assumption)

theorem State.scanFrom_keeps {ps : List Area} {s0 s : State} {y1 : List Nat} {y2 : Nat} (hK : KeepsBut ps s0 s) (hS :
    [.fab, .coach, .mem, .twin, .sec, .rsl, .evs, .ctrs, .fresh] ⊆ ps) : KeepsBut ps s0 (@State.scanFrom s y1 y2).1 :=
    by
  unfold State.scanFrom
  with_reducible repeat' first
    | assumption | refine State.scanRing_keeps ?_ (sub (by decide) hS)
    | refine State.scanFrom_keeps ?_ (sub (by decide) hS) | refine KeepsBut.ite1 (fun _ => ?_) (fun _ => ?_) | split
    | refine KeepsBut.ite1 (fun _ => ?_) (fun _ => ?_) | dsimp -proj only | refine KeepsBut.of_pair ?_ (by assumption)

theorem State.walkRanges_keeps {ps : List Area} {s0 s : State} {x : Ring} {need : Nat} {dst : Bool} {y4 : List (Nat ×
    Nat)} {y5 : List (PageEnt × Nat)} {y6 : Err} (hK : KeepsBut ps s0 s) (hS : [.mem, .twin, .evs, .ctrs, .fresh] ⊆
    ps) : KeepsBut ps s0 (@State.walkRanges s x need dst y4 y5 y6).1 := by
  unfold State.walkRanges
  with_reducible repeat' first
    | assumption | refine State.walkRange_keeps ?_ (sub (by decide) hS)
    | refine State.walkRanges_keeps ?_ (sub (by decide) hS) | split | refine KeepsBut.ite1 (fun _ => ?_) (fun _ => ?_)
    | dsimp -proj only | refine KeepsBut.of_pair ?_ (by assumption)

theorem State.readList_keeps {ps : List Area} {s0 s : State} {x : Ring} {host : Bool} {y3 y4 : Nat} {y5 : Err} {y6 :
    List (Nat × Nat)} (hK : KeepsBut ps s0 s) (hS : [.mem, .twin, .evs, .ctrs, .fresh] ⊆ ps) : KeepsBut ps s0
    (@State.readList s x host y3 y4 y5 y6).1 := by
  unfold State.readList
  with_reducible repeat' first
    | assumption | refine State.translate_keeps ?_ (sub (by decide) hS)
    | refine State.readPool_keeps ?_ (sub (by decide) hS) | refine State.readList_keeps ?_ (sub (by decide) hS)
    | refine KeepsBut.ite1 (fun _ => ?_) (fun _ => ?_) | split | refine KeepsBut.ite1 (fun _ => ?_) (fun _ => ?_)
    | dsimp -proj only | refine KeepsBut.of_pair ?_ (by assumption)

theorem State.walkDesc_keeps {ps : List Area} {s0 s : State} {x : Ring} {d : Desc} {scales : Nat} {err : Err} (hK :
    KeepsBut ps s0 s) (hS : [.mem, .twin, .evs, .ctrs, .fresh] ⊆ ps) : KeepsBut ps s0 (@State.walkDesc s x d scales
    err).1 := by
  unfold State.walkDesc
  with_reducible repeat' first
    | assumption | refine State.readList_keeps ?_ (sub (by decide) hS)
    | refine State.walkRanges_keeps ?_ (sub (by decide) hS) | refine KeepsBut.ite1 (fun _ => ?_) (fun _ => ?_) | split
    | refine KeepsBut.ite1 (fun _ => ?_) (fun _ => ?_) | dsimp -proj only | refine KeepsBut.of_pair ?_ (by assumption)

theorem State.submissionFault_keeps {ps : List Area} {s0 s : State} {d : Desc} {kind stage page addr need : Nat}
    {pages : List PageEnt} (hK : KeepsBut ps s0 s) (hS : [.fab, .coach, .mem, .twin, .sec, .rsl, .evs, .ctrs, .fresh]
    ⊆ ps) : KeepsBut ps s0 (@State.submissionFault s d kind stage page addr need pages) := by
  unfold State.submissionFault
  with_reducible repeat' first
    | assumption | refine State.bump_keeps ?_ (sub (by decide) hS) | refine State.settle_keeps ?_ (sub (by decide) hS)
    | refine State.descDone_keeps ?_ (sub (by decide) hS) | refine State.setFrec_keeps ?_ (sub (by decide) hS)
    | refine State.setDesc_keeps ?_ (sub (by decide) hS) | refine State.setRing_keeps ?_ (sub (by decide) hS)
    | refine State.writeLine1_keeps ?_ (sub (by decide) hS) | refine State.coachNotice_keeps ?_ (sub (by decide) hS)
    | refine KeepsBut.ite (fun _ => ?_) (fun _ => ?_) | split | dsimp -proj only

theorem State.ringScan_keeps {ps : List Area} {s0 s : State} (hK : KeepsBut ps s0 s) (hS : [.fab, .coach, .mem, .twin,
    .sec, .rsl, .evs, .ctrs, .fresh] ⊆ ps) : KeepsBut ps s0 (@State.ringScan s) := by
  unfold State.ringScan
  with_reducible repeat' first
    | assumption | refine State.hubsRefuse_keeps ?_ (sub (by decide) hS)
    | refine State.scanFrom_keeps ?_ (sub (by decide) hS) | refine KeepsBut.ite (fun _ => ?_) (fun _ => ?_) | split
    | refine KeepsBut.ite1 (fun _ => ?_) (fun _ => ?_) | dsimp -proj only | refine KeepsBut.of_pair ?_ (by assumption)
    | refine upd_coach ?_ (sub (by decide) hS)

end Sys2Proof.Machine
end

