-- ==== Sys2Proof/Laws/FrameStockOps.lean ====
section
/-! SUPPORT. The frame of each operation of Machine/StockOps.lean: the parts of the state that it may change, and no others. -/

set_option Elab.async false

namespace Sys2Proof.Machine
open Sys2Proof

set_option maxRecDepth 4000
set_option linter.all false

theorem State.setBlk_keeps {ps : List Area} {s0 s : State} {b k : Nat} {x : Blk} (hK : KeepsBut ps s0 s) (hS :
    [.stock] ⊆ ps) : KeepsBut ps s0 (@State.setBlk s b k x) := by
  unfold State.setBlk
  with_reducible repeat' first
    | assumption | dsimp -proj only | refine upd_stock ?_ (sub (by decide) hS)

theorem State.writeAccLine_keeps {ps : List Area} {s0 s : State} {b : Nat} {x : Buf} {k i : Nat} {data : Line} {dir :
    BitVec 10} (hK : KeepsBut ps s0 s) (hS : [.stock, .mem, .twin, .evs, .ctrs, .fresh] ⊆ ps) : KeepsBut ps s0
    (@State.writeAccLine s b x k i data dir) := by
  unfold State.writeAccLine
  with_reducible repeat' first
    | assumption | refine State.writeLine_keeps ?_ (sub (by decide) hS) | split
    | refine KeepsBut.ite1 (fun _ => ?_) (fun _ => ?_) | dsimp -proj only | refine KeepsBut.of_pair ?_ (by assumption)
    | refine upd_stock ?_ (sub (by decide) hS)

theorem State.writeAcc_keeps {ps : List Area} {s0 s : State} {b : Nat} {x : Buf} {k count : Nat} {acc : List Nat} (hK
    : KeepsBut ps s0 s) (hS : [.stock, .mem, .twin, .evs, .ctrs, .fresh] ⊆ ps) : KeepsBut ps s0 (@State.writeAcc s b x
    k count acc) := by
  unfold State.writeAcc
  with_reducible repeat' first
    | assumption | refine State.writeAccLine_keeps ?_ (sub (by decide) hS)
    | refine KeepsBut.foldl ?_ (fun sF xF hF => ?_) | refine KeepsBut.foldl1 ?_ (fun sF xF hF => ?_)
    | refine KeepsBut.ite (fun _ => ?_) (fun _ => ?_) | split | dsimp -proj only
    | refine KeepsBut.of_pair ?_ (by assumption)

theorem State.putAcc_keeps {ps : List Area} {s0 s : State} {b : Nat} {x : Buf} {k count : Nat} {acc : List Nat} {full
    : Bool} {key : CommitKey} (hK : KeepsBut ps s0 s) (hS : [.stock, .mem, .twin, .evs, .ctrs, .fresh] ⊆ ps) :
    KeepsBut ps s0 (@State.putAcc s b x k count acc full key) := by
  unfold State.putAcc
  with_reducible repeat' first
    | assumption | refine State.setBlk_keeps ?_ (sub (by decide) hS)
    | refine State.commit_keeps ?_ (sub (by decide) hS) | refine State.writeAcc_keeps ?_ (sub (by decide) hS) | split
    | dsimp -proj only

theorem State.readAccLine_keeps {ps : List Area} {s0 s : State} {b : Nat} {x : Buf} {k i : Nat} {err : Err} (hK :
    KeepsBut ps s0 s) (hS : [.mem, .twin, .evs, .ctrs, .fresh] ⊆ ps) : KeepsBut ps s0 (@State.readAccLine s b x k i
    err).1 := by
  unfold State.readAccLine
  with_reducible repeat' first
    | assumption | refine State.readPool_keeps ?_ (sub (by decide) hS)
    | refine KeepsBut.ite1 (fun _ => ?_) (fun _ => ?_) | split | refine KeepsBut.ite1 (fun _ => ?_) (fun _ => ?_)
    | dsimp -proj only | refine KeepsBut.of_pair ?_ (by assumption)

theorem State.readAcc_keeps {ps : List Area} {s0 s : State} {b : Nat} {x : Buf} {k : Nat} {err : Err} (hK : KeepsBut
    ps s0 s) (hS : [.mem, .twin, .evs, .ctrs, .fresh] ⊆ ps) : KeepsBut ps s0 (@State.readAcc s b x k err).1 := by
  unfold State.readAcc
  with_reducible repeat' first
    | assumption | refine State.readAccLine_keeps ?_ (sub (by decide) hS)
    | refine KeepsBut.foldl ?_ (fun sF xF hF => ?_) | refine KeepsBut.foldl1 ?_ (fun sF xF hF => ?_)
    | refine KeepsBut.ite1 (fun _ => ?_) (fun _ => ?_) | split | refine KeepsBut.ite1 (fun _ => ?_) (fun _ => ?_)
    | dsimp -proj only | refine KeepsBut.of_pair ?_ (by assumption)

theorem State.redCplOf_keeps {ps : List Area} {s0 s : State} {x : Buf} {v : Via} {cmd code buf value : Nat} {extra :
    List Byte} (hK : KeepsBut ps s0 s) (hS : [.fab, .twin, .sec, .rsl, .ctrs] ⊆ ps) : KeepsBut ps s0 (@State.redCplOf
    s x v cmd code buf value extra) := by
  unfold State.redCplOf
  with_reducible repeat' first
    | assumption | refine State.finish_keeps ?_ (sub (by decide) hS) | dsimp -proj only

theorem State.redAck_keeps {ps : List Area} {s0 s : State} {h : ReqHdr} {code value : Nat} (hK : KeepsBut ps s0 s) (hS
    : [.fab, .ctrs] ⊆ ps) : KeepsBut ps s0 (@State.redAck s h code value) := by
  unfold State.redAck
  with_reducible repeat' first
    | assumption | refine State.send_keeps ?_ (sub (by decide) hS)
    | refine State.countPoison_keeps ?_ (sub (by decide) hS) | dsimp -proj only

theorem State.setBuf_keeps {ps : List Area} {s0 s : State} {b : Nat} {x : Buf} (hK : KeepsBut ps s0 s) (hS : [.stock,
    .twin] ⊆ ps) : KeepsBut ps s0 (@State.setBuf s b x) := by
  unfold State.setBuf
  with_reducible repeat' first
    | assumption | refine State.logChange_keeps ?_ (sub (by decide) hS) | dsimp -proj only
    | refine upd_stock ?_ (sub (by decide) hS)

theorem State.freeBuf_keeps {ps : List Area} {s0 s : State} {b : Nat} (hK : KeepsBut ps s0 s) (hS : [.stock, .twin] ⊆
    ps) : KeepsBut ps s0 (@State.freeBuf s b) := by
  unfold State.freeBuf
  with_reducible repeat' first
    | assumption | refine State.setBuf_keeps ?_ (sub (by decide) hS) | dsimp -proj only
    | refine upd_stock ?_ (sub (by decide) hS)

theorem State.forceClose_keeps {ps : List Area} {s0 s : State} {b : Nat} (hK : KeepsBut ps s0 s) (hS : [.fab, .stock,
    .twin, .sec, .rsl, .ctrs] ⊆ ps) : KeepsBut ps s0 (@State.forceClose s b) := by
  unfold State.forceClose
  with_reducible repeat' first
    | assumption | refine State.redAck_keeps ?_ (sub (by decide) hS)
    | refine State.freeBuf_keeps ?_ (sub (by decide) hS) | refine State.redCplOf_keeps ?_ (sub (by decide) hS)
    | refine KeepsBut.foldl ?_ (fun sF xF hF => ?_) | refine KeepsBut.foldl1 ?_ (fun sF xF hF => ?_)
    | refine KeepsBut.ite (fun _ => ?_) (fun _ => ?_) | split | dsimp -proj only
    | refine KeepsBut.of_pair ?_ (by assumption) | refine upd_stock ?_ (sub (by decide) hS)

theorem State.closeDone_keeps {ps : List Area} {s0 s : State} {b : Nat} (hK : KeepsBut ps s0 s) (hS : [.fab, .stock,
    .twin, .sec, .rsl, .ctrs] ⊆ ps) : KeepsBut ps s0 (@State.closeDone s b) := by
  unfold State.closeDone
  with_reducible repeat' first
    | assumption | refine State.freeBuf_keeps ?_ (sub (by decide) hS)
    | refine State.redCplOf_keeps ?_ (sub (by decide) hS) | refine KeepsBut.foldl ?_ (fun sF xF hF => ?_)
    | refine KeepsBut.foldl1 ?_ (fun sF xF hF => ?_) | refine KeepsBut.ite (fun _ => ?_) (fun _ => ?_) | split
    | dsimp -proj only | refine KeepsBut.of_pair ?_ (by assumption)

theorem State.oldAcc_keeps {ps : List Area} {s0 s : State} {b : Nat} {x : Buf} {k count : Nat} {err : Err} (hK :
    KeepsBut ps s0 s) (hS : [.mem, .twin, .evs, .ctrs, .fresh] ⊆ ps) : KeepsBut ps s0 (@State.oldAcc s b x k count
    err).1 := by
  unfold State.oldAcc
  with_reducible repeat' first
    | assumption | refine State.readAcc_keeps ?_ (sub (by decide) hS)
    | refine KeepsBut.ite1 (fun _ => ?_) (fun _ => ?_) | split | refine KeepsBut.ite1 (fun _ => ?_) (fun _ => ?_)
    | dsimp -proj only | refine KeepsBut.of_pair ?_ (by assumption)

theorem State.writePoolBytes_keeps {ps : List Area} {s0 s : State} {y1 y2 : Nat} {y3 : List Byte} (hK : KeepsBut ps s0
    s) (hS : [.mem, .twin, .evs, .ctrs, .fresh] ⊆ ps) : KeepsBut ps s0 (@State.writePoolBytes s y1 y2 y3) := by
  unfold State.writePoolBytes
  with_reducible repeat' first
    | assumption | refine State.writePool_keeps ?_ (sub (by decide) hS)
    | refine State.writePoolBytes_keeps ?_ (sub (by decide) hS) | refine KeepsBut.ite (fun _ => ?_) (fun _ => ?_)
    | split | dsimp -proj only

theorem State.putPool_keeps {ps : List Area} {s0 s : State} {addr : Nat} {bs : List Byte} (hK : KeepsBut ps s0 s) (hS
    : [.mem, .twin, .evs, .ctrs, .fresh] ⊆ ps) : KeepsBut ps s0 (@State.putPool s addr bs) := by
  unfold State.putPool
  with_reducible repeat' first
    | assumption | refine State.writePoolBytes_keeps ?_ (sub (by decide) hS) | dsimp -proj only

theorem State.redNotice_keeps {ps : List Area} {s0 s : State} {b kind : Nat} (hK : KeepsBut ps s0 s) (hS : [.fab] ⊆
    ps) : KeepsBut ps s0 (@State.redNotice s b kind) := by
  unfold State.redNotice
  with_reducible repeat' first
    | assumption | refine State.notice_keeps ?_ (sub (by decide) hS) | refine KeepsBut.ite (fun _ => ?_) (fun _ => ?_)
    | split | dsimp -proj only

theorem State.bufferDone_keeps {ps : List Area} {s0 s : State} {b : Nat} (hK : KeepsBut ps s0 s) (hS : [.fab, .stock,
    .twin] ⊆ ps) : KeepsBut ps s0 (@State.bufferDone s b) := by
  unfold State.bufferDone
  with_reducible repeat' first
    | assumption | refine State.redNotice_keeps ?_ (sub (by decide) hS)
    | refine State.setBuf_keeps ?_ (sub (by decide) hS) | refine KeepsBut.ite (fun _ => ?_) (fun _ => ?_) | split
    | dsimp -proj only

theorem State.failBlock_keeps {ps : List Area} {s0 s : State} {b k code : Nat} (hK : KeepsBut ps s0 s) (hS : [.fab,
    .stock, .twin] ⊆ ps) : KeepsBut ps s0 (@State.failBlock s b k code) := by
  unfold State.failBlock
  with_reducible repeat' first
    | assumption | refine State.setBlk_keeps ?_ (sub (by decide) hS)
    | refine State.bufferDone_keeps ?_ (sub (by decide) hS) | refine State.setBuf_keeps ?_ (sub (by decide) hS)
    | refine KeepsBut.ite (fun _ => ?_) (fun _ => ?_) | split | dsimp -proj only

theorem State.blockComplete_keeps {ps : List Area} {s0 s : State} {b k : Nat} {acc : List Nat} (hK : KeepsBut ps s0 s)
    (hS : [.fab, .stock, .mem, .twin, .evs, .ctrs, .fresh] ⊆ ps) : KeepsBut ps s0 (@State.blockComplete s b k acc) :=
    by
  unfold State.blockComplete
  with_reducible repeat' first
    | assumption | refine State.failBlock_keeps ?_ (sub (by decide) hS)
    | refine State.putPool_keeps ?_ (sub (by decide) hS) | refine State.bump_keeps ?_ (sub (by decide) hS)
    | refine State.setBlk_keeps ?_ (sub (by decide) hS) | refine State.bufferDone_keeps ?_ (sub (by decide) hS)
    | refine State.setBuf_keeps ?_ (sub (by decide) hS) | refine KeepsBut.ite (fun _ => ?_) (fun _ => ?_) | split
    | dsimp -proj only

theorem State.redCpl_keeps {ps : List Area} {s0 s : State} {v : Via} {cmd code buf value : Nat} {extra : List Byte}
    (hK : KeepsBut ps s0 s) (hS : [.fab, .twin, .sec, .rsl, .ctrs] ⊆ ps) : KeepsBut ps s0 (@State.redCpl s v cmd code
    buf value extra) := by
  unfold State.redCpl
  with_reducible repeat' first
    | assumption | refine State.redCplOf_keeps ?_ (sub (by decide) hS) | dsimp -proj only

theorem State.countComb_keeps {ps : List Area} {s0 s : State} {tenant : Nat} {out : List Comb} (hK : KeepsBut ps s0 s)
    (hS : [.ctrs] ⊆ ps) : KeepsBut ps s0 (@State.countComb s tenant out) := by
  unfold State.countComb
  with_reducible repeat' first
    | assumption | refine State.bump_keeps ?_ (sub (by decide) hS) | refine KeepsBut.ite (fun _ => ?_) (fun _ => ?_)
    | split | dsimp -proj only

theorem State.combineOne_keeps {ps : List Area} {s0 s : State} {b k c : Nat} {l : Line} {scales : List Byte} {err :
    Err} {key : CommitKey} (hK : KeepsBut ps s0 s) (hS : [.fab, .stock, .mem, .twin, .evs, .ctrs, .fresh] ⊆ ps) :
    KeepsBut ps s0 (@State.combineOne s b k c l scales err key).1 := by
  unfold State.combineOne
  with_reducible repeat' first
    | assumption | refine State.oldAcc_keeps ?_ (sub (by decide) hS)
    | refine State.failBlock_keeps ?_ (sub (by decide) hS) | refine State.putAcc_keeps ?_ (sub (by decide) hS)
    | refine State.countComb_keeps ?_ (sub (by decide) hS) | refine State.setBlk_keeps ?_ (sub (by decide) hS)
    | refine State.blockComplete_keeps ?_ (sub (by decide) hS) | refine KeepsBut.ite1 (fun _ => ?_) (fun _ => ?_)
    | split | refine KeepsBut.ite1 (fun _ => ?_) (fun _ => ?_) | dsimp -proj only
    | refine KeepsBut.of_pair ?_ (by assumption)

theorem State.drainStaged_keeps {ps : List Area} {s0 s : State} {b k y3 : Nat} (hK : KeepsBut ps s0 s) (hS : [.fab,
    .stock, .mem, .twin, .evs, .ctrs, .fresh] ⊆ ps) : KeepsBut ps s0 (@State.drainStaged s b k y3) := by
  unfold State.drainStaged
  with_reducible repeat' first
    | assumption | refine State.combineOne_keeps ?_ (sub (by decide) hS)
    | refine State.drainStaged_keeps ?_ (sub (by decide) hS) | refine KeepsBut.ite (fun _ => ?_) (fun _ => ?_) | split
    | refine KeepsBut.ite1 (fun _ => ?_) (fun _ => ?_) | dsimp -proj only | refine KeepsBut.of_pair ?_ (by assumption)
    | refine upd_stock ?_ (sub (by decide) hS)

theorem State.takeLine_keeps {ps : List Area} {s0 s : State} {b k c : Nat} {l : Line} {scales : List Byte} {err : Err}
    {key : CommitKey} (hK : KeepsBut ps s0 s) (hS : [.fab, .stock, .mem, .twin, .evs, .ctrs, .fresh] ⊆ ps) : KeepsBut
    ps s0 (@State.takeLine s b k c l scales err key).1 := by
  unfold State.takeLine
  with_reducible repeat' first
    | assumption | refine State.commit_keeps ?_ (sub (by decide) hS) | refine State.bump_keeps ?_ (sub (by decide) hS)
    | refine State.combineOne_keeps ?_ (sub (by decide) hS) | refine State.drainStaged_keeps ?_ (sub (by decide) hS)
    | refine KeepsBut.ite1 (fun _ => ?_) (fun _ => ?_) | split | refine KeepsBut.ite1 (fun _ => ?_) (fun _ => ?_)
    | dsimp -proj only | refine KeepsBut.of_pair ?_ (by assumption) | refine upd_stock ?_ (sub (by decide) hS)

theorem State.countOpenWait_keeps {ps : List Area} {s0 s : State} {b k : Nat} {waited : Bool} (hK : KeepsBut ps s0 s)
    (hS : [.ctrs] ⊆ ps) : KeepsBut ps s0 (@State.countOpenWait s b k waited) := by
  unfold State.countOpenWait
  with_reducible repeat' first
    | assumption | refine State.bump_keeps ?_ (sub (by decide) hS) | refine KeepsBut.ite (fun _ => ?_) (fun _ => ?_)
    | split

end Sys2Proof.Machine
end

