-- ==== Sys2Proof/Laws/FrameSecOps.lean ====
section
/-! SUPPORT. The frame of each operation of Machine/SecOps.lean: the parts of the state that it may change, and no others. -/

set_option Elab.async false

namespace Sys2Proof.Machine
open Sys2Proof

set_option maxRecDepth 4000
set_option linter.all false

theorem State.loadKey_keeps {ps : List Area} {s0 s : State} {k : Nat} (hK : KeepsBut ps s0 s) (hS : [.mem, .fresh] ⊆
    ps) : KeepsBut ps s0 (@State.loadKey s k) := by
  unfold State.loadKey
  with_reducible repeat' first
    | assumption | refine State.draw_keeps ?_ (sub (by decide) hS) | split
    | refine KeepsBut.ite1 (fun _ => ?_) (fun _ => ?_) | dsimp -proj only | refine KeepsBut.of_pair ?_ (by assumption)
    | refine upd_mem ?_ (sub (by decide) hS)

theorem State.keyChange_keeps {ps : List Area} {s0 s : State} {hs : List HeldCpl} (hK : KeepsBut ps s0 s) (hS : [.fab,
    .twin, .sec, .rsl, .ctrs] ⊆ ps) : KeepsBut ps s0 (@State.keyChange s hs) := by
  unfold State.keyChange
  with_reducible repeat' first
    | assumption | refine State.releaseAll_keeps ?_ (sub (by decide) hS)
    | refine KeepsBut.ite (fun _ => ?_) (fun _ => ?_) | split | dsimp -proj only
    | refine upd_sec ?_ (sub (by decide) hS)

theorem State.closeSession_keeps {ps : List Area} {s0 s : State} {id : Nat} {hs : List HeldCpl} (hK : KeepsBut ps s0
    s) (hS : [.fab, .twin, .sec, .rsl, .ctrs] ⊆ ps) : KeepsBut ps s0 (@State.closeSession s id hs) := by
  unfold State.closeSession
  with_reducible repeat' first
    | assumption | refine State.keyChange_keeps ?_ (sub (by decide) hS)
    | refine KeepsBut.ite (fun _ => ?_) (fun _ => ?_) | split | dsimp -proj only
    | refine upd_fab_sec ?_ (sub (by decide) hS)

theorem State.endSession_keeps {ps : List Area} {s0 s : State} {id : Nat} (hK : KeepsBut ps s0 s) (hS : [.fab, .twin,
    .sec, .rsl, .ctrs] ⊆ ps) : KeepsBut ps s0 (@State.endSession s id) := by
  unfold State.endSession
  with_reducible repeat' first
    | assumption | refine State.closeSession_keeps ?_ (sub (by decide) hS) | dsimp -proj only

theorem State.endSessions_keeps {ps : List Area} {s0 s : State} {p : Session → Bool} (hK : KeepsBut ps s0 s) (hS :
    [.fab, .twin, .sec, .rsl, .ctrs] ⊆ ps) : KeepsBut ps s0 (@State.endSessions s p) := by
  unfold State.endSessions
  with_reducible repeat' first
    | assumption | refine State.endSession_keeps ?_ (sub (by decide) hS)
    | refine KeepsBut.foldl ?_ (fun sF xF hF => ?_) | refine KeepsBut.foldl1 ?_ (fun sF xF hF => ?_)
    | dsimp -proj only | refine KeepsBut.of_pair ?_ (by assumption)

theorem State.setSlot_keeps {ps : List Area} {s0 s : State} {n : Nat} {x : SealSlot} (hK : KeepsBut ps s0 s) (hS :
    [.sec] ⊆ ps) : KeepsBut ps s0 (@State.setSlot s n x) := by
  unfold State.setSlot
  with_reducible repeat' first
    | assumption | dsimp -proj only | refine upd_sec ?_ (sub (by decide) hS)

theorem State.zeroKey_keeps {ps : List Area} {s0 s : State} {k : Nat} (hK : KeepsBut ps s0 s) (hS : [.mem] ⊆ ps) :
    KeepsBut ps s0 (@State.zeroKey s k) := by
  unfold State.zeroKey
  with_reducible repeat' first
    | assumption | dsimp -proj only | refine upd_mem ?_ (sub (by decide) hS)

theorem State.secCpl_keeps {ps : List Area} {s0 s : State} {v : Via} {cmd code value : Nat} {extra : List Byte} (hK :
    KeepsBut ps s0 s) (hS : [.fab, .twin, .sec, .rsl, .ctrs] ⊆ ps) : KeepsBut ps s0 (@State.secCpl s v cmd code value
    extra) := by
  unfold State.secCpl
  with_reducible repeat' first
    | assumption | refine State.release_keeps ?_ (sub (by decide) hS) | dsimp -proj only

theorem State.freeSlot_keeps {ps : List Area} {s0 s : State} {n : Nat} {hs : List HeldCpl} (hK : KeepsBut ps s0 s) (hS
    : [.fab, .mem, .twin, .sec, .rsl, .ctrs] ⊆ ps) : KeepsBut ps s0 (@State.freeSlot s n hs) := by
  unfold State.freeSlot
  with_reducible repeat' first
    | assumption | refine State.keyChange_keeps ?_ (sub (by decide) hS)
    | refine State.zeroKey_keeps ?_ (sub (by decide) hS) | refine State.setSlot_keeps ?_ (sub (by decide) hS)
    | dsimp -proj only

end Sys2Proof.Machine
end

