-- ==== Sys2Proof/Laws/FrameLeaseOps.lean ====
section
/-! SUPPORT. The frame of each operation of Machine/LeaseOps.lean: the parts of the state that it may change, and no others. -/

set_option Elab.async false

namespace Sys2Proof.Machine
open Sys2Proof

set_option maxRecDepth 4000
set_option linter.all false

theorem State.loseResults_keeps {ps : List Area} {s0 s : State} {e : Nat} (hK : KeepsBut ps s0 s) (hS : [.stock,
    .twin] ⊆ ps) : KeepsBut ps s0 (@State.loseResults s e) := by
  unfold State.loseResults
  with_reducible repeat' first
    | assumption | refine State.setBuf_keeps ?_ (sub (by decide) hS) | refine KeepsBut.foldl ?_ (fun sF xF hF => ?_)
    | refine KeepsBut.foldl1 ?_ (fun sF xF hF => ?_) | dsimp -proj only | refine KeepsBut.of_pair ?_ (by assumption)

theorem State.reproCpl_keeps {ps : List Area} {s0 s : State} {v : Via} {cmd code id value : Nat} (hK : KeepsBut ps s0
    s) (hS : [.fab, .twin, .sec, .rsl, .ctrs] ⊆ ps) : KeepsBut ps s0 (@State.reproCpl s v cmd code id value) := by
  unfold State.reproCpl
  with_reducible repeat' first
    | assumption | refine State.finish_keeps ?_ (sub (by decide) hS) | dsimp -proj only

theorem State.endBarrier_keeps {ps : List Area} {s0 s : State} {b code value : Nat} (hK : KeepsBut ps s0 s) (hS :
    [.fab, .repro, .twin, .sec, .rsl, .ctrs] ⊆ ps) : KeepsBut ps s0 (@State.endBarrier s b code value) := by
  unfold State.endBarrier
  with_reducible repeat' first
    | assumption | refine State.logChange_keeps ?_ (sub (by decide) hS)
    | refine State.reproCpl_keeps ?_ (sub (by decide) hS) | refine KeepsBut.foldl ?_ (fun sF xF hF => ?_)
    | refine KeepsBut.foldl1 ?_ (fun sF xF hF => ?_) | dsimp -proj only | refine KeepsBut.of_pair ?_ (by assumption)
    | refine upd_repro ?_ (sub (by decide) hS)

theorem State.cancelHolders_keeps {ps : List Area} {s0 s : State} {e : Nat} (hK : KeepsBut ps s0 s) (hS : [.fab,
    .coach, .stock, .mem, .twin, .sec, .rsl, .evs, .ctrs, .fresh] ⊆ ps) : KeepsBut ps s0 (@State.cancelHolders s e) :=
    by
  unfold State.cancelHolders
  with_reducible repeat' first
    | assumption | refine State.cancelDescs_keeps ?_ (sub (by decide) hS)
    | refine State.forceClose_keeps ?_ (sub (by decide) hS) | refine KeepsBut.foldl ?_ (fun sF xF hF => ?_)
    | refine KeepsBut.foldl1 ?_ (fun sF xF hF => ?_) | dsimp -proj only | refine KeepsBut.of_pair ?_ (by assumption)

theorem State.withdraw_keeps {ps : List Area} {s0 s : State} {e : Nat} {force : Bool} {who : Option (Owed × Nat)} (hK
    : KeepsBut ps s0 s) (hS : [.fab, .pool, .coach, .stock, .mem, .twin, .sec, .rsl, .evs, .ctrs, .fresh] ⊆ ps) :
    KeepsBut ps s0 (@State.withdraw s e force who) := by
  unfold State.withdraw
  with_reducible repeat' first
    | assumption | refine State.loseResults_keeps ?_ (sub (by decide) hS)
    | refine State.setExt_keeps ?_ (sub (by decide) hS) | refine State.cancelHolders_keeps ?_ (sub (by decide) hS)
    | refine State.orderMask_keeps ?_ (sub (by decide) hS) | refine KeepsBut.ite (fun _ => ?_) (fun _ => ?_) | split
    | dsimp -proj only | refine upd_pool ?_ (sub (by decide) hS)

theorem State.freeRemaps_keeps {ps : List Area} {s0 s : State} {lo hi : Nat} (hK : KeepsBut ps s0 s) (hS : [.pool,
    .mem, .twin] ⊆ ps) : KeepsBut ps s0 (@State.freeRemaps s lo hi) := by
  unfold State.freeRemaps
  with_reducible repeat' first
    | assumption | refine State.wipePages_keeps ?_ (sub (by decide) hS)
    | refine KeepsBut.foldl ?_ (fun sF xF hF => ?_) | refine KeepsBut.foldl1 ?_ (fun sF xF hF => ?_) | split
    | refine KeepsBut.ite1 (fun _ => ?_) (fun _ => ?_) | dsimp -proj only | refine KeepsBut.of_pair ?_ (by assumption)
    | refine upd_pool_mem ?_ (sub (by decide) hS)

theorem State.freePages_keeps {ps : List Area} {s0 s : State} {x : Ext} (hK : KeepsBut ps s0 s) (hS : [.pool, .mem,
    .twin] ⊆ ps) : KeepsBut ps s0 (@State.freePages s x) := by
  unfold State.freePages
  with_reducible repeat' first
    | assumption | refine State.wipePages_keeps ?_ (sub (by decide) hS)
    | refine State.freeRemaps_keeps ?_ (sub (by decide) hS) | dsimp -proj only
    | refine upd_pool ?_ (sub (by decide) hS)

theorem State.ungrant_keeps {ps : List Area} {s0 s : State} {e h : Nat} {held : Option HeldCpl} (hK : KeepsBut ps s0
    s) (hS : [.fab, .pool, .twin, .sec, .rsl, .ctrs] ⊆ ps) : KeepsBut ps s0 (@State.ungrant s e h held) := by
  unfold State.ungrant
  with_reducible repeat' first
    | assumption | refine State.orderMask_keeps ?_ (sub (by decide) hS)
    | refine State.dropGrant_keeps ?_ (sub (by decide) hS) | dsimp -proj only

theorem State.setRegion_keeps {ps : List Area} {s0 s : State} {r : Nat} {x : Region} (hK : KeepsBut ps s0 s) (hS :
    [.repro, .twin] ⊆ ps) : KeepsBut ps s0 (@State.setRegion s r x) := by
  unfold State.setRegion
  with_reducible repeat' first
    | assumption | refine State.logChange_keeps ?_ (sub (by decide) hS) | dsimp -proj only
    | refine upd_repro ?_ (sub (by decide) hS)

theorem State.trimRegion_keeps {ps : List Area} {s0 s : State} {r : Nat} (hK : KeepsBut ps s0 s) (hS : [.fab, .pool,
    .coach, .stock, .repro, .mem, .twin, .sec, .rsl, .evs, .ctrs, .fresh] ⊆ ps) : KeepsBut ps s0 (@State.trimRegion s
    r) := by
  unfold State.trimRegion
  with_reducible repeat' first
    | assumption | refine State.setRegion_keeps ?_ (sub (by decide) hS)
    | refine State.withdraw_keeps ?_ (sub (by decide) hS) | refine KeepsBut.foldl ?_ (fun sF xF hF => ?_)
    | refine KeepsBut.foldl1 ?_ (fun sF xF hF => ?_) | refine KeepsBut.ite (fun _ => ?_) (fun _ => ?_) | split
    | dsimp -proj only | refine KeepsBut.of_pair ?_ (by assumption)

theorem State.unmap_keeps {ps : List Area} {s0 s : State} {r version host : Nat} {held : Nat → Option HeldCpl} (hK :
    KeepsBut ps s0 s) (hS : [.fab, .pool, .coach, .stock, .repro, .mem, .twin, .sec, .rsl, .evs, .ctrs, .fresh] ⊆ ps)
    : KeepsBut ps s0 (@State.unmap s r version host held) := by
  unfold State.unmap
  with_reducible repeat' first
    | assumption | refine State.releaseAll_keeps ?_ (sub (by decide) hS)
    | refine State.ungrant_keeps ?_ (sub (by decide) hS) | refine State.setRegion_keeps ?_ (sub (by decide) hS)
    | refine State.trimRegion_keeps ?_ (sub (by decide) hS) | refine KeepsBut.ite (fun _ => ?_) (fun _ => ?_) | split
    | dsimp -proj only

theorem State.disown_keeps {ps : List Area} {s0 s : State} {h : Nat} (hK : KeepsBut ps s0 s) (hS : [.pool, .twin] ⊆
    ps) : KeepsBut ps s0 (@State.disown s h) := by
  unfold State.disown
  with_reducible repeat' first
    | assumption | refine State.setExt_keeps ?_ (sub (by decide) hS) | refine KeepsBut.foldl ?_ (fun sF xF hF => ?_)
    | refine KeepsBut.foldl1 ?_ (fun sF xF hF => ?_) | refine KeepsBut.ite1 (fun _ => ?_) (fun _ => ?_)
    | dsimp -proj only | refine KeepsBut.of_pair ?_ (by assumption)

theorem State.reclaim_keeps {ps : List Area} {s0 s : State} {h : Nat} (hK : KeepsBut ps s0 s) (hS : [.fab, .pool,
    .coach, .stock, .repro, .mem, .twin, .sec, .rsl, .evs, .ctrs, .fresh] ⊆ ps) : KeepsBut ps s0 (@State.reclaim s h)
    := by
  unfold State.reclaim
  with_reducible repeat' first
    | assumption | refine State.unmap_keeps ?_ (sub (by decide) hS)
    | refine State.ungrant_keeps ?_ (sub (by decide) hS) | refine State.withdraw_keeps ?_ (sub (by decide) hS)
    | refine State.stopRingsOf_keeps ?_ (sub (by decide) hS) | refine State.disown_keeps ?_ (sub (by decide) hS)
    | refine KeepsBut.foldl ?_ (fun sF xF hF => ?_) | refine KeepsBut.foldl1 ?_ (fun sF xF hF => ?_)
    | refine KeepsBut.ite1 (fun _ => ?_) (fun _ => ?_) | dsimp -proj only | refine KeepsBut.of_pair ?_ (by assumption)

theorem State.enterReclaim_keeps {ps : List Area} {s0 s : State} {h : Nat} (hK : KeepsBut ps s0 s) (hS : [.fab, .pool,
    .coh, .coach, .stock, .repro, .mem, .twin, .sec, .rsl, .evs, .ctrs, .fresh] ⊆ ps) : KeepsBut ps s0
    (@State.enterReclaim s h) := by
  unfold State.enterReclaim
  with_reducible repeat' first
    | assumption | refine State.setLeaseGone_keeps ?_ (sub (by decide) hS)
    | refine State.setLease_keeps ?_ (sub (by decide) hS) | refine State.bump_keeps ?_ (sub (by decide) hS)
    | refine State.domainDown_keeps ?_ (sub (by decide) hS) | refine State.endBarrier_keeps ?_ (sub (by decide) hS)
    | refine State.forceClose_keeps ?_ (sub (by decide) hS) | refine State.endSessions_keeps ?_ (sub (by decide) hS)
    | refine State.raise_keeps ?_ (sub (by decide) hS) | refine State.reclaim_keeps ?_ (sub (by decide) hS)
    | refine KeepsBut.foldl ?_ (fun sF xF hF => ?_) | refine KeepsBut.foldl1 ?_ (fun sF xF hF => ?_)
    | refine KeepsBut.ite (fun _ => ?_) (fun _ => ?_) | split | refine KeepsBut.ite1 (fun _ => ?_) (fun _ => ?_)
    | dsimp -proj only | refine KeepsBut.of_pair ?_ (by assumption) | refine upd_pool ?_ (sub (by decide) hS)

theorem State.graceEnd_keeps {ps : List Area} {s0 s : State} {h : Nat} (hK : KeepsBut ps s0 s) (hS : [.fab, .pool,
    .coh, .coach, .stock, .repro, .mem, .twin, .sec, .rsl, .evs, .ctrs, .fresh] ⊆ ps) : KeepsBut ps s0
    (@State.graceEnd s h) := by
  unfold State.graceEnd
  with_reducible repeat' first
    | assumption | refine State.enterReclaim_keeps ?_ (sub (by decide) hS)
    | refine KeepsBut.ite (fun _ => ?_) (fun _ => ?_) | split | dsimp -proj only

theorem State.reclaimDone_keeps {ps : List Area} {s0 s : State} {h : Nat} (hK : KeepsBut ps s0 s) (hS : [.pool, .twin,
    .evs, .ctrs] ⊆ ps) : KeepsBut ps s0 (@State.reclaimDone s h) := by
  unfold State.reclaimDone
  with_reducible repeat' first
    | assumption | refine State.raise_keeps ?_ (sub (by decide) hS)
    | refine State.setLease_keeps ?_ (sub (by decide) hS) | refine KeepsBut.ite (fun _ => ?_) (fun _ => ?_) | split
    | refine KeepsBut.ite1 (fun _ => ?_) (fun _ => ?_) | dsimp -proj only

theorem State.pubCpl_keeps {ps : List Area} {s0 s : State} {v : Via} {cmd code mask ext value : Nat} (hK : KeepsBut ps
    s0 s) (hS : [.fab, .twin, .sec, .rsl, .ctrs] ⊆ ps) : KeepsBut ps s0 (@State.pubCpl s v cmd code mask ext value) :=
    by
  unfold State.pubCpl
  with_reducible repeat' first
    | assumption | refine State.release_keeps ?_ (sub (by decide) hS) | dsimp -proj only

theorem State.settleRegion_keeps {ps : List Area} {s0 s : State} {r : Nat} (hK : KeepsBut ps s0 s) (hS : [.fab,
    .repro, .twin, .sec, .rsl, .ctrs] ⊆ ps) : KeepsBut ps s0 (@State.settleRegion s r) := by
  unfold State.settleRegion
  with_reducible repeat' first
    | assumption | refine State.pubCpl_keeps ?_ (sub (by decide) hS)
    | refine State.setRegion_keeps ?_ (sub (by decide) hS) | refine KeepsBut.foldl ?_ (fun sF xF hF => ?_)
    | refine KeepsBut.foldl1 ?_ (fun sF xF hF => ?_) | refine KeepsBut.ite (fun _ => ?_) (fun _ => ?_) | split
    | dsimp -proj only | refine KeepsBut.of_pair ?_ (by assumption)

theorem State.deleteRegion_keeps {ps : List Area} {s0 s : State} {r : Nat} {owed : List Owed} (hK : KeepsBut ps s0 s)
    (hS : [.fab, .pool, .coach, .stock, .repro, .mem, .twin, .sec, .rsl, .evs, .ctrs, .fresh] ⊆ ps) : KeepsBut ps s0
    (@State.deleteRegion s r owed) := by
  unfold State.deleteRegion
  with_reducible repeat' first
    | assumption | refine State.settleRegion_keeps ?_ (sub (by decide) hS)
    | refine State.trimRegion_keeps ?_ (sub (by decide) hS) | refine State.setRegion_keeps ?_ (sub (by decide) hS)
    | dsimp -proj only

theorem State.withdrawAll_keeps {ps : List Area} {s0 s : State} (hK : KeepsBut ps s0 s) (hS : [.fab, .pool, .coh,
    .coach, .stock, .repro, .mem, .twin, .sec, .rsl, .evs, .ctrs, .fresh] ⊆ ps) : KeepsBut ps s0 (@State.withdrawAll
    s) := by
  unfold State.withdrawAll
  with_reducible repeat' first
    | assumption | refine State.domainDown_keeps ?_ (sub (by decide) hS)
    | refine State.unmap_keeps ?_ (sub (by decide) hS) | refine State.deleteRegion_keeps ?_ (sub (by decide) hS)
    | refine State.endSessions_keeps ?_ (sub (by decide) hS) | refine State.withdraw_keeps ?_ (sub (by decide) hS)
    | refine KeepsBut.foldl ?_ (fun sF xF hF => ?_) | refine KeepsBut.foldl1 ?_ (fun sF xF hF => ?_)
    | refine KeepsBut.ite1 (fun _ => ?_) (fun _ => ?_) | dsimp -proj only | refine KeepsBut.of_pair ?_ (by assumption)

theorem State.leaseEnd_keeps {ps : List Area} {s0 s : State} {h : Nat} (hK : KeepsBut ps s0 s) (hS : [.pool, .twin] ⊆
    ps) : KeepsBut ps s0 (@State.leaseEnd s h) := by
  unfold State.leaseEnd
  with_reducible repeat' first
    | assumption | refine State.setLease_keeps ?_ (sub (by decide) hS)
    | refine KeepsBut.ite (fun _ => ?_) (fun _ => ?_) | split | dsimp -proj only

theorem State.settleLc_keeps {ps : List Area} {s0 s : State} (hK : KeepsBut ps s0 s) (hS : [.boot, .twin, .sec, .rsl,
    .ctrs] ⊆ ps) : KeepsBut ps s0 (@State.settleLc s) := by
  unfold State.settleLc
  with_reducible repeat' first
    | assumption | refine State.rslDone_keeps ?_ (sub (by decide) hS) | refine KeepsBut.foldl ?_ (fun sF xF hF => ?_)
    | refine KeepsBut.foldl1 ?_ (fun sF xF hF => ?_) | refine KeepsBut.ite (fun _ => ?_) (fun _ => ?_) | split
    | dsimp -proj only | refine KeepsBut.of_pair ?_ (by assumption) | refine upd_boot_sec ?_ (sub (by decide) hS)

theorem State.extentFree_keeps {ps : List Area} {s0 s : State} {e : Nat} (hK : KeepsBut ps s0 s) (hS : [.boot, .fab,
    .pool, .repro, .mem, .twin, .sec, .rsl, .ctrs] ⊆ ps) : KeepsBut ps s0 (@State.extentFree s e) := by
  unfold State.extentFree
  with_reducible repeat' first
    | assumption | refine State.dropGrant_keeps ?_ (sub (by decide) hS)
    | refine State.freePages_keeps ?_ (sub (by decide) hS) | refine State.setExt_keeps ?_ (sub (by decide) hS)
    | refine State.freeSlot_keeps ?_ (sub (by decide) hS) | refine State.releaseAll_keeps ?_ (sub (by decide) hS)
    | refine State.setReply_keeps ?_ (sub (by decide) hS) | refine State.settleRegion_keeps ?_ (sub (by decide) hS)
    | refine State.settleLc_keeps ?_ (sub (by decide) hS) | refine KeepsBut.foldl ?_ (fun sF xF hF => ?_)
    | refine KeepsBut.foldl1 ?_ (fun sF xF hF => ?_) | split | refine KeepsBut.ite1 (fun _ => ?_) (fun _ => ?_)
    | dsimp -proj only | refine KeepsBut.of_pair ?_ (by assumption) | refine upd_pool ?_ (sub (by decide) hS)

theorem State.leaseAccounting_keeps {ps : List Area} {s0 s : State} (hK : KeepsBut ps s0 s) (hS : [.fab, .pool, .coh,
    .coach, .stock, .repro, .mem, .twin, .sec, .rsl, .evs, .ctrs, .fresh] ⊆ ps) : KeepsBut ps s0
    (@State.leaseAccounting s) := by
  unfold State.leaseAccounting
  with_reducible repeat' first
    | assumption | refine State.leaseEnd_keeps ?_ (sub (by decide) hS)
    | refine State.graceEnd_keeps ?_ (sub (by decide) hS) | refine KeepsBut.foldl ?_ (fun sF xF hF => ?_)
    | refine KeepsBut.foldl1 ?_ (fun sF xF hF => ?_) | refine KeepsBut.ite (fun _ => ?_) (fun _ => ?_) | split
    | refine KeepsBut.ite1 (fun _ => ?_) (fun _ => ?_) | dsimp -proj only | refine KeepsBut.of_pair ?_ (by assumption)

theorem State.startReclaims_keeps {ps : List Area} {s0 s : State} (hK : KeepsBut ps s0 s) (hS : [.fab, .pool, .coach,
    .stock, .repro, .mem, .twin, .sec, .rsl, .evs, .ctrs, .fresh] ⊆ ps) : KeepsBut ps s0 (@State.startReclaims s) :=
    by
  unfold State.startReclaims
  with_reducible repeat' first
    | assumption | refine State.reclaim_keeps ?_ (sub (by decide) hS) | refine KeepsBut.foldl ?_ (fun sF xF hF => ?_)
    | refine KeepsBut.foldl1 ?_ (fun sF xF hF => ?_) | refine KeepsBut.ite1 (fun _ => ?_) (fun _ => ?_)
    | dsimp -proj only | refine KeepsBut.of_pair ?_ (by assumption) | refine upd_pool ?_ (sub (by decide) hS)

end Sys2Proof.Machine
end

