-- ==== Sys2Proof/Laws/FramePool.lean ====
section
/-! SUPPORT. The frame of each operation of Machine/Pool.lean: the parts of the state that it may change, and no others. -/

set_option Elab.async false

namespace Sys2Proof.Machine
open Sys2Proof

set_option maxRecDepth 4000
set_option linter.all false

theorem execLeaseQuery_keeps {ps : List Area} {s0 : State} {c : RslCmd} {host : Nat} {s : State} (hK : KeepsBut ps s0
    s) (hS : [.twin, .rsl, .ctrs] ⊆ ps) : KeepsOut ps s0 (@execLeaseQuery c host s) := by
  unfold execLeaseQuery
  with_reducible repeat' first
    | assumption | refine KeepsOut.next ?_ | refine State.rslGate_keeps ?_ (fun v0F hF => ?_) (sub (by decide) hS)
    | refine State.rslAnswer_keeps ?_ (sub (by decide) hS) | refine KeepsBut.ite (fun _ => ?_) (fun _ => ?_) | split
    | dsimp -proj only

theorem execReclaimDone_keeps {ps : List Area} {s0 : State} {host : Nat} {s : State} (hK : KeepsBut ps s0 s) (hS :
    [.pool, .twin, .evs, .ctrs] ⊆ ps) : KeepsOut ps s0 (@execReclaimDone host s) := by
  unfold execReclaimDone
  with_reducible repeat' first
    | assumption | refine KeepsOut.next ?_ | refine State.reclaimDone_keeps ?_ (sub (by decide) hS) | dsimp -proj only

theorem extGrantAct_keeps {ps : List Area} {s0 : State} {v : Via} {ext host rights resv : Nat} {s : State} (hK :
    KeepsBut ps s0 s) (hS : [.fab, .pool, .twin, .sec, .rsl, .ctrs] ⊆ ps) : KeepsBut ps s0 (@extGrantAct v ext host
    rights resv s) := by
  unfold extGrantAct
  with_reducible repeat' first
    | assumption | refine State.extCpl_keeps ?_ (sub (by decide) hS)
    | refine State.orderMask_keeps ?_ (sub (by decide) hS) | refine State.makeGrant_keeps ?_ (sub (by decide) hS)
    | refine KeepsBut.ite (fun _ => ?_) (fun _ => ?_) | split | dsimp -proj only

theorem State.poolGuard_keeps {ps : List Area} {s0 s : State} {no : State → Nat → Nat → State} {k : State → State} (hK
    : KeepsBut ps s0 s) (hno : ∀ (v0 : State) (v1 : Nat) (v2 : Nat), KeepsBut ps s0 v0 → KeepsBut ps s0 (no v0 v1 v2))
    (hk : ∀ (v0 : State), KeepsBut ps s0 v0 → KeepsBut ps s0 (k v0)) (hS : [] ⊆ ps) : KeepsBut ps s0 (@State.poolGuard
    s no k) := by
  unfold State.poolGuard
  with_reducible repeat' first
    | assumption | apply hno | apply hk | refine KeepsBut.ite (fun _ => ?_) (fun _ => ?_) | split | dsimp -proj only

theorem State.place_keeps {ps : List Area} {s0 s : State} {e kind tenant owner len : Nat} {mask : BitVec 8}
    (hK : KeepsBut ps s0 s) (hS : [.pool, .mem, .twin, .evs, .ctrs] ⊆ ps) : KeepsOpt ps s0 (s.place e kind tenant owner len mask) := by
  intro t ht
  unfold State.place at ht
  obtain ⟨p, hp, rfl⟩ := Option.map_eq_some_iff.mp ht
  exact State.setExt_keeps (State.placeShare_keeps hK (sub (by decide) hS) _ hp) (sub (by decide) hS)

theorem extAllocAct_keeps {ps : List Area} {s0 : State} {v : Via} {kind rights len resv : Nat} {s : State} (hK :
    KeepsBut ps s0 s) (hS : [.fab, .pool, .mem, .twin, .sec, .rsl, .evs, .ctrs] ⊆ ps) : KeepsBut ps s0 (@extAllocAct v
    kind rights len resv s) := by
  unfold extAllocAct
  with_reducible repeat' first
    | assumption | refine State.extCpl_keeps ?_ (sub (by decide) hS)
    | refine State.place_keeps ?_ (sub (by decide) hS) | refine State.orderMask_keeps ?_ (sub (by decide) hS)
    | refine State.makeGrant_keeps ?_ (sub (by decide) hS) | refine KeepsBut.of_some ?_ (by assumption)
    | refine KeepsBut.ite (fun _ => ?_) (fun _ => ?_) | split | refine KeepsBut.ite1 (fun _ => ?_) (fun _ => ?_)
    | dsimp -proj only

theorem execExtAlloc_keeps {ps : List Area} {s0 : State} {v : Via} {kind rights lenGran resv : Nat} {s : State} (hK :
    KeepsBut ps s0 s) (hS : [.fab, .pool, .mem, .twin, .sec, .rsl, .evs, .ctrs] ⊆ ps) : KeepsOut ps s0 (@execExtAlloc
    v kind rights lenGran resv s) := by
  unfold execExtAlloc
  with_reducible repeat' first
    | assumption | refine KeepsOut.next ?_ | refine State.extCpl_keeps ?_ (sub (by decide) hS)
    | refine State.classThree_keeps ?_ (fun v0F v1F v2F hF => ?_) (fun v0F hF => ?_) (sub (by decide) hS)
    | refine State.poolGuard_keeps ?_ (fun v0F v1F v2F hF => ?_) (fun v0F hF => ?_) (sub (by decide) hS)
    | refine extAllocAct_keeps ?_ (sub (by decide) hS) | dsimp -proj only

theorem execExtentFree_keeps {ps : List Area} {s0 : State} {ext : Nat} {s : State} (hK : KeepsBut ps s0 s) (hS :
    [.boot, .fab, .pool, .repro, .mem, .twin, .sec, .rsl, .ctrs] ⊆ ps) : KeepsOut ps s0 (@execExtentFree ext s) := by
  unfold execExtentFree
  with_reducible repeat' first
    | assumption | refine KeepsOut.next ?_ | refine State.extentFree_keeps ?_ (sub (by decide) hS)
    | refine KeepsBut.ite (fun _ => ?_) (fun _ => ?_) | split | dsimp -proj only

theorem State.noteRenew_keeps {ps : List Area} {s0 s : State} {y1 : Via} (hK : KeepsBut ps s0 s) (hS : [.twin, .rsl] ⊆
    ps) : KeepsBut ps s0 (@State.noteRenew s y1) := by
  unfold State.noteRenew
  with_reducible repeat' first
    | assumption | refine KeepsBut.ite (fun _ => ?_) (fun _ => ?_) | split | dsimp -proj only
    | refine upd_rsl ?_ (sub (by decide) hS) | refine upd_twin ?_ (sub (by decide) hS)

theorem leaseRenewAct_keeps {ps : List Area} {s0 : State} {v : Via} {s : State} (hK : KeepsBut ps s0 s) (hS : [.fab,
    .pool, .twin, .sec, .rsl, .ctrs] ⊆ ps) : KeepsBut ps s0 (@leaseRenewAct v s) := by
  unfold leaseRenewAct
  with_reducible repeat' first
    | assumption | refine State.bump_keeps ?_ (sub (by decide) hS)
    | refine State.setLease_keeps ?_ (sub (by decide) hS) | refine State.extCpl_keeps ?_ (sub (by decide) hS)
    | refine KeepsBut.ite (fun _ => ?_) (fun _ => ?_) | split | dsimp -proj only

theorem execLeaseRenew_keeps {ps : List Area} {s0 : State} {v : Via} {s : State} (hK : KeepsBut ps s0 s) (hS : [.fab,
    .pool, .twin, .sec, .rsl, .ctrs] ⊆ ps) : KeepsOut ps s0 (@execLeaseRenew v s) := by
  unfold execLeaseRenew
  with_reducible repeat' first
    | assumption | refine KeepsOut.next ?_ | refine State.extCpl_keeps ?_ (sub (by decide) hS)
    | refine State.noteRenew_keeps ?_ (sub (by decide) hS)
    | refine State.classThree_keeps ?_ (fun v0F v1F v2F hF => ?_) (fun v0F hF => ?_) (sub (by decide) hS)
    | refine State.poolGuard_keeps ?_ (fun v0F v1F v2F hF => ?_) (fun v0F hF => ?_) (sub (by decide) hS)
    | refine leaseRenewAct_keeps ?_ (sub (by decide) hS) | refine KeepsBut.ite (fun _ => ?_) (fun _ => ?_) | split
    | dsimp -proj only

theorem extReleaseAct_keeps {ps : List Area} {s0 : State} {v : Via} {ext host resv : Nat} {s : State} (hK : KeepsBut
    ps s0 s) (hS : [.fab, .pool, .coach, .stock, .mem, .twin, .sec, .rsl, .evs, .ctrs, .fresh] ⊆ ps) : KeepsBut ps s0
    (@extReleaseAct v ext host resv s) := by
  unfold extReleaseAct
  with_reducible repeat' first
    | assumption | refine State.extCpl_keeps ?_ (sub (by decide) hS)
    | refine State.withdraw_keeps ?_ (sub (by decide) hS) | refine State.ungrant_keeps ?_ (sub (by decide) hS)
    | refine KeepsBut.ite (fun _ => ?_) (fun _ => ?_) | split | dsimp -proj only

theorem execExtRelease_keeps {ps : List Area} {s0 : State} {v : Via} {ext host resv : Nat} {s : State} (hK : KeepsBut
    ps s0 s) (hS : [.fab, .pool, .coach, .stock, .mem, .twin, .sec, .rsl, .evs, .ctrs, .fresh] ⊆ ps) : KeepsOut ps s0
    (@execExtRelease v ext host resv s) := by
  unfold execExtRelease
  with_reducible repeat' first
    | assumption | refine KeepsOut.next ?_ | refine State.extCpl_keeps ?_ (sub (by decide) hS)
    | refine State.classThree_keeps ?_ (fun v0F v1F v2F hF => ?_) (fun v0F hF => ?_) (sub (by decide) hS)
    | refine State.poolGuard_keeps ?_ (fun v0F v1F v2F hF => ?_) (fun v0F hF => ?_) (sub (by decide) hS)
    | refine extReleaseAct_keeps ?_ (sub (by decide) hS) | dsimp -proj only

theorem extWithdrawAct_keeps {ps : List Area} {s0 : State} {v : Via} {ext force resv : Nat} {s : State} (hK : KeepsBut
    ps s0 s) (hS : [.fab, .pool, .coach, .stock, .mem, .twin, .sec, .rsl, .evs, .ctrs, .fresh] ⊆ ps) : KeepsBut ps s0
    (@extWithdrawAct v ext force resv s) := by
  unfold extWithdrawAct
  with_reducible repeat' first
    | assumption | refine State.extCpl_keeps ?_ (sub (by decide) hS)
    | refine State.withdraw_keeps ?_ (sub (by decide) hS) | refine KeepsBut.ite (fun _ => ?_) (fun _ => ?_) | split
    | dsimp -proj only

theorem execSetInfo_keeps {ps : List Area} {s0 : State} {v : Via} {s : State} (hK : KeepsBut ps s0 s) (hS : [.fab,
    .twin, .sec, .rsl, .ctrs] ⊆ ps) : KeepsOut ps s0 (@execSetInfo v s) := by
  unfold execSetInfo
  with_reducible repeat' first
    | assumption | refine KeepsOut.next ?_ | refine State.extCpl_keeps ?_ (sub (by decide) hS)
    | refine State.classThree_keeps ?_ (fun v0F v1F v2F hF => ?_) (fun v0F hF => ?_) (sub (by decide) hS)
    | refine State.finish_keeps ?_ (sub (by decide) hS) | refine KeepsBut.ite (fun _ => ?_) (fun _ => ?_) | split
    | dsimp -proj only

theorem execLeaseEnd_keeps {ps : List Area} {s0 : State} {host : Nat} {s : State} (hK : KeepsBut ps s0 s) (hS :
    [.pool, .twin] ⊆ ps) : KeepsOut ps s0 (@execLeaseEnd host s) := by
  unfold execLeaseEnd
  with_reducible repeat' first
    | assumption | refine KeepsOut.next ?_ | refine State.leaseEnd_keeps ?_ (sub (by decide) hS) | dsimp -proj only

theorem execTenantSet_keeps {ps : List Area} {s0 : State} {c : RslCmd} {tenant quota : Nat} {s : State} (hK : KeepsBut
    ps s0 s) (hS : [.pool, .twin, .rsl, .ctrs] ⊆ ps) : KeepsOut ps s0 (@execTenantSet c tenant quota s) := by
  unfold execTenantSet
  with_reducible repeat' first
    | assumption | refine KeepsOut.next ?_ | refine State.rslGate_keeps ?_ (fun v0F hF => ?_) (sub (by decide) hS)
    | refine State.rslAnswer_keeps ?_ (sub (by decide) hS) | refine State.logChange_keeps ?_ (sub (by decide) hS)
    | refine KeepsBut.ite (fun _ => ?_) (fun _ => ?_) | split | dsimp -proj only
    | refine upd_pool ?_ (sub (by decide) hS)

theorem execExtQuery_keeps {ps : List Area} {s0 : State} {c : RslCmd} {ext : Nat} {s : State} (hK : KeepsBut ps s0 s)
    (hS : [.twin, .rsl, .ctrs] ⊆ ps) : KeepsOut ps s0 (@execExtQuery c ext s) := by
  unfold execExtQuery
  with_reducible repeat' first
    | assumption | refine KeepsOut.next ?_ | refine State.rslGate_keeps ?_ (fun v0F hF => ?_) (sub (by decide) hS)
    | refine State.rslAnswer_keeps ?_ (sub (by decide) hS) | refine KeepsBut.ite (fun _ => ?_) (fun _ => ?_) | split
    | dsimp -proj only

theorem hostAssignAct_keeps {ps : List Area} {s0 : State} {c : RslCmd} {host tenant assign : Nat} {s : State} (hK :
    KeepsBut ps s0 s) (hS : [.fab, .pool, .twin, .sec, .rsl, .ctrs] ⊆ ps) : KeepsBut ps s0 (@hostAssignAct c host
    tenant assign s) := by
  unfold hostAssignAct
  with_reducible repeat' first
    | assumption | refine State.rslAnswer_keeps ?_ (sub (by decide) hS)
    | refine State.endSessions_keeps ?_ (sub (by decide) hS) | refine State.setLease_keeps ?_ (sub (by decide) hS)
    | refine State.orderMask_keeps ?_ (sub (by decide) hS) | refine KeepsBut.ite (fun _ => ?_) (fun _ => ?_) | split
    | dsimp -proj only

theorem execHostAssign_keeps {ps : List Area} {s0 : State} {c : RslCmd} {host tenant assign : Nat} {s : State} (hK :
    KeepsBut ps s0 s) (hS : [.fab, .pool, .twin, .sec, .rsl, .ctrs] ⊆ ps) : KeepsOut ps s0 (@execHostAssign c host
    tenant assign s) := by
  unfold execHostAssign
  with_reducible repeat' first
    | assumption | refine KeepsOut.next ?_ | refine State.rslGate_keeps ?_ (fun v0F hF => ?_) (sub (by decide) hS)
    | refine hostAssignAct_keeps ?_ (sub (by decide) hS) | dsimp -proj only

theorem execExtGrant_keeps {ps : List Area} {s0 : State} {v : Via} {ext host rights resv : Nat} {s : State} (hK :
    KeepsBut ps s0 s) (hS : [.fab, .pool, .twin, .sec, .rsl, .ctrs] ⊆ ps) : KeepsOut ps s0 (@execExtGrant v ext host
    rights resv s) := by
  unfold execExtGrant
  with_reducible repeat' first
    | assumption | refine KeepsOut.next ?_ | refine State.extCpl_keeps ?_ (sub (by decide) hS)
    | refine State.classThree_keeps ?_ (fun v0F v1F v2F hF => ?_) (fun v0F hF => ?_) (sub (by decide) hS)
    | refine State.poolGuard_keeps ?_ (fun v0F v1F v2F hF => ?_) (fun v0F hF => ?_) (sub (by decide) hS)
    | refine extGrantAct_keeps ?_ (sub (by decide) hS) | dsimp -proj only

theorem execExtWithdraw_keeps {ps : List Area} {s0 : State} {v : Via} {ext force resv : Nat} {s : State} (hK :
    KeepsBut ps s0 s) (hS : [.fab, .pool, .coach, .stock, .mem, .twin, .sec, .rsl, .evs, .ctrs, .fresh] ⊆ ps) :
    KeepsOut ps s0 (@execExtWithdraw v ext force resv s) := by
  unfold execExtWithdraw
  with_reducible repeat' first
    | assumption | refine KeepsOut.next ?_ | refine State.extCpl_keeps ?_ (sub (by decide) hS)
    | refine State.classThree_keeps ?_ (fun v0F v1F v2F hF => ?_) (fun v0F hF => ?_) (sub (by decide) hS)
    | refine State.poolGuard_keeps ?_ (fun v0F v1F v2F hF => ?_) (fun v0F hF => ?_) (sub (by decide) hS)
    | refine extWithdrawAct_keeps ?_ (sub (by decide) hS) | dsimp -proj only

theorem execGraceEnd_keeps {ps : List Area} {s0 : State} {host : Nat} {s : State} (hK : KeepsBut ps s0 s) (hS : [.fab,
    .pool, .coh, .coach, .stock, .repro, .mem, .twin, .sec, .rsl, .evs, .ctrs, .fresh] ⊆ ps) : KeepsOut ps s0
    (@execGraceEnd host s) := by
  unfold execGraceEnd
  with_reducible repeat' first
    | assumption | refine KeepsOut.next ?_ | refine State.graceEnd_keeps ?_ (sub (by decide) hS) | dsimp -proj only

end Sys2Proof.Machine
end

