-- ==== Sys2Proof/Laws/FramePoolSet.lean ====
section
/-! SUPPORT. The frame of each operation of Machine/PoolSet.lean: the parts of the state that it may change, and no others. -/

set_option Elab.async false

namespace Sys2Proof.Machine
open Sys2Proof

set_option maxRecDepth 4000
set_option linter.all false

theorem State.setCheck_keeps {ps : List Area} {s0 s : State} {h : ReqHdr} {gen : Nat} {k : State → Nat → State} (hK :
    KeepsBut ps s0 s) (hk : ∀ (v0 : State) (v1 : Nat), KeepsBut ps s0 v0 → KeepsBut ps s0 (k v0 v1)) (hS : [.pool,
    .evs, .ctrs] ⊆ ps) : KeepsBut ps s0 (@State.setCheck s h gen k) := by
  unfold State.setCheck
  with_reducible repeat' first
    | assumption | apply hk | refine State.bumpPort_keeps ?_ (sub (by decide) hS)
    | refine State.bump_keeps ?_ (sub (by decide) hS) | refine State.raise_keeps ?_ (sub (by decide) hS)
    | refine KeepsBut.ite (fun _ => ?_) (fun _ => ?_) | split | dsimp -proj only
    | refine upd_pool ?_ (sub (by decide) hS)

theorem execSetFormationEnd_keeps {ps : List Area} {s0 s : State} (hK : KeepsBut ps s0 s) (hS : [.pool] ⊆ ps) :
    KeepsOut ps s0 (@execSetFormationEnd s) := by
  unfold execSetFormationEnd
  with_reducible repeat' first
    | assumption | refine KeepsOut.next ?_ | refine KeepsBut.ite (fun _ => ?_) (fun _ => ?_) | split
    | dsimp -proj only | refine upd_pool ?_ (sub (by decide) hS)

theorem State.setReq_keeps {ps : List Area} {s0 s : State} {h : ReqHdr} {gen : Nat} {k : State → Nat → State} (hK :
    KeepsBut ps s0 s) (hk : ∀ (v0 : State) (v1 : Nat), KeepsBut ps s0 v0 → KeepsBut ps s0 (k v0 v1)) (hS : [.fab,
    .pool, .twin, .evs, .ctrs] ⊆ ps) : KeepsBut ps s0 (@State.setReq s h gen k) := by
  unfold State.setReq
  with_reducible repeat' first
    | assumption | apply hk | refine State.setCheck_keeps ?_ (fun v0F v1F hF => ?_) (sub (by decide) hS)
    | refine State.journalIn_keeps ?_ (sub (by decide) hS) | refine State.forward_keeps ?_ (sub (by decide) hS)
    | refine KeepsBut.ite (fun _ => ?_) (fun _ => ?_) | split | dsimp -proj only
    | refine upd_twin ?_ (sub (by decide) hS)

theorem execSetJoin_keeps {ps : List Area} {s0 : State} {h : ReqHdr} {setGen size digest : Nat} {s : State} (hK :
    KeepsBut ps s0 s) (hS : [.fab, .pool, .twin, .evs, .ctrs] ⊆ ps) : KeepsOut ps s0 (@execSetJoin h setGen size
    digest s) := by
  unfold execSetJoin
  with_reducible repeat' first
    | assumption | refine KeepsOut.next ?_ | refine State.setReq_keeps ?_ (fun v0F v1F hF => ?_) (sub (by decide) hS)
    | refine State.journalOut_keeps ?_ (sub (by decide) hS) | refine State.setReply_keeps ?_ (sub (by decide) hS)
    | refine KeepsBut.ite (fun _ => ?_) (fun _ => ?_) | split | dsimp -proj only

theorem State.applyMaster_keeps {ps : List Area} {s0 s : State} (hK : KeepsBut ps s0 s) (hS : [.fab, .pool, .twin] ⊆
    ps) : KeepsBut ps s0 (@State.applyMaster s) := by
  unfold State.applyMaster
  with_reducible repeat' first
    | assumption | refine State.logChange_keeps ?_ (sub (by decide) hS)
    | refine State.damage_keeps ?_ (sub (by decide) hS) | refine State.noticeAll_keeps ?_ (sub (by decide) hS)
    | refine KeepsBut.foldl ?_ (fun sF xF hF => ?_) | refine KeepsBut.foldl1 ?_ (fun sF xF hF => ?_)
    | refine KeepsBut.ite (fun _ => ?_) (fun _ => ?_) | split | refine KeepsBut.ite1 (fun _ => ?_) (fun _ => ?_)
    | dsimp -proj only | refine KeepsBut.of_pair ?_ (by assumption) | refine upd_pool ?_ (sub (by decide) hS)

theorem State.unplace_keeps {ps : List Area} {s0 s : State} {e : Nat} {refused : List Nat} (hK : KeepsBut ps s0 s) (hS
    : [.boot, .fab, .pool, .repro, .mem, .twin, .sec, .rsl, .ctrs] ⊆ ps) : KeepsBut ps s0 (@State.unplace s e refused)
    := by
  unfold State.unplace
  with_reducible repeat' first
    | assumption | refine State.dropGrant_keeps ?_ (sub (by decide) hS)
    | refine State.setExt_keeps ?_ (sub (by decide) hS) | refine State.orderMask_keeps ?_ (sub (by decide) hS)
    | refine State.extentFree_keeps ?_ (sub (by decide) hS) | refine KeepsBut.foldl ?_ (fun sF xF hF => ?_)
    | refine KeepsBut.foldl1 ?_ (fun sF xF hF => ?_) | refine KeepsBut.ite (fun _ => ?_) (fun _ => ?_) | split
    | dsimp -proj only | refine KeepsBut.of_pair ?_ (by assumption)

theorem State.clearValid_keeps {ps : List Area} {s0 s : State} {e : Nat} (hK : KeepsBut ps s0 s) (hS : [.mem, .twin] ⊆
    ps) : KeepsBut ps s0 (@State.clearValid s e) := by
  unfold State.clearValid
  with_reducible repeat' first
    | assumption | refine State.wipePages_keeps ?_ (sub (by decide) hS)
    | refine KeepsBut.foldl ?_ (fun sF xF hF => ?_) | refine KeepsBut.foldl1 ?_ (fun sF xF hF => ?_) | split
    | dsimp -proj only | refine KeepsBut.of_pair ?_ (by assumption)

theorem State.unbind_keeps {ps : List Area} {s0 s : State} {e : Nat} {refused : List Nat} (hK : KeepsBut ps s0 s) (hS
    : [.fab, .pool, .mem, .twin, .sec, .rsl, .ctrs] ⊆ ps) : KeepsBut ps s0 (@State.unbind s e refused) := by
  unfold State.unbind
  with_reducible repeat' first
    | assumption | refine State.clearValid_keeps ?_ (sub (by decide) hS)
    | refine State.setExt_keeps ?_ (sub (by decide) hS) | refine State.orderMask_keeps ?_ (sub (by decide) hS)
    | dsimp -proj only

theorem State.orderEnd_keeps {ps : List Area} {s0 s : State} {r : SetOrderRec} (hK : KeepsBut ps s0 s) (hS : [.boot,
    .fab, .pool, .repro, .mem, .twin, .sec, .rsl, .ctrs] ⊆ ps) : KeepsBut ps s0 (@State.orderEnd s r) := by
  unfold State.orderEnd
  with_reducible repeat' first
    | assumption | refine State.unplace_keeps ?_ (sub (by decide) hS)
    | refine State.extCpl_keeps ?_ (sub (by decide) hS) | refine State.unbind_keeps ?_ (sub (by decide) hS)
    | refine State.release_keeps ?_ (sub (by decide) hS) | refine State.releaseAll_keeps ?_ (sub (by decide) hS)
    | split | dsimp -proj only

theorem State.applyRecord_keeps {ps : List Area} {s0 s : State} {r : LeaseRec} (hK : KeepsBut ps s0 s) (hS : [.fab,
    .pool, .coh, .coach, .stock, .repro, .mem, .twin, .sec, .rsl, .evs, .ctrs, .fresh] ⊆ ps) : KeepsBut ps s0
    (@State.applyRecord s r) := by
  unfold State.applyRecord
  with_reducible repeat' first
    | assumption | refine State.setLease_keeps ?_ (sub (by decide) hS)
    | refine State.setLeaseGone_keeps ?_ (sub (by decide) hS) | refine State.domainDown_keeps ?_ (sub (by decide) hS)
    | refine State.endBarrier_keeps ?_ (sub (by decide) hS) | refine State.forceClose_keeps ?_ (sub (by decide) hS)
    | refine State.stopRingsOf_keeps ?_ (sub (by decide) hS) | refine State.disown_keeps ?_ (sub (by decide) hS)
    | refine State.endSessions_keeps ?_ (sub (by decide) hS) | refine KeepsBut.foldl ?_ (fun sF xF hF => ?_)
    | refine KeepsBut.foldl1 ?_ (fun sF xF hF => ?_) | refine KeepsBut.ite (fun _ => ?_) (fun _ => ?_) | split
    | refine KeepsBut.ite1 (fun _ => ?_) (fun _ => ?_) | dsimp -proj only | refine KeepsBut.of_pair ?_ (by assumption)

theorem execSetDelta_keeps {ps : List Area} {s0 : State} {h : ReqHdr} {setGen epoch : Nat} {recs : List LeaseRec} {s :
    State} (hK : KeepsBut ps s0 s) (hS : [.fab, .pool, .coh, .coach, .stock, .repro, .mem, .twin, .sec, .rsl, .evs,
    .ctrs, .fresh] ⊆ ps) : KeepsOut ps s0 (@execSetDelta h setGen epoch recs s) := by
  unfold execSetDelta
  with_reducible repeat' first
    | assumption | refine KeepsOut.next ?_ | refine State.setReq_keeps ?_ (fun v0F v1F hF => ?_) (sub (by decide) hS)
    | refine State.journalOut_keeps ?_ (sub (by decide) hS) | refine State.applyRecord_keeps ?_ (sub (by decide) hS)
    | refine State.logChange_keeps ?_ (sub (by decide) hS) | refine State.setReply_keeps ?_ (sub (by decide) hS)
    | refine KeepsBut.foldl ?_ (fun sF xF hF => ?_) | refine KeepsBut.foldl1 ?_ (fun sF xF hF => ?_)
    | refine KeepsBut.ite (fun _ => ?_) (fun _ => ?_) | split | dsimp -proj only
    | refine KeepsBut.of_pair ?_ (by assumption) | refine upd_pool ?_ (sub (by decide) hS)

theorem State.setIn_keeps {ps : List Area} {s0 s : State} {h : ReqHdr} {gen : Nat} {k : State → Nat → State} (hK :
    KeepsBut ps s0 s) (hk : ∀ (v0 : State) (v1 : Nat), KeepsBut ps s0 v0 → KeepsBut ps s0 (k v0 v1)) (hS : [.pool,
    .evs, .ctrs] ⊆ ps) : KeepsBut ps s0 (@State.setIn s h gen k) := by
  unfold State.setIn
  with_reducible repeat' first
    | assumption | apply hk | refine State.setCheck_keeps ?_ (fun v0F v1F hF => ?_) (sub (by decide) hS)
    | refine KeepsBut.ite (fun _ => ?_) (fun _ => ?_) | split | dsimp -proj only

theorem execSetMasterLoss_keeps {ps : List Area} {s0 s : State} (hK : KeepsBut ps s0 s) (hS : [.fab, .pool, .twin,
    .evs, .ctrs] ⊆ ps) : KeepsOut ps s0 (@execSetMasterLoss s) := by
  unfold execSetMasterLoss
  with_reducible repeat' first
    | assumption | refine KeepsOut.next ?_ | refine State.logChange_keeps ?_ (sub (by decide) hS)
    | refine State.noticeAll_keeps ?_ (sub (by decide) hS) | refine State.raise_keeps ?_ (sub (by decide) hS)
    | refine KeepsBut.ite (fun _ => ?_) (fun _ => ?_) | split | dsimp -proj only
    | refine upd_pool ?_ (sub (by decide) hS)

theorem State.setMember_keeps {ps : List Area} {s0 s : State} {i : Nat} {m : Member} (hK : KeepsBut ps s0 s) (hS :
    [.pool, .twin] ⊆ ps) : KeepsBut ps s0 (@State.setMember s i m) := by
  unfold State.setMember
  with_reducible repeat' first
    | assumption | refine State.logChange_keeps ?_ (sub (by decide) hS) | dsimp -proj only
    | refine upd_pool ?_ (sub (by decide) hS)

theorem State.settleFormation_keeps {ps : List Area} {s0 s : State} (hK : KeepsBut ps s0 s) (hS : [.pool] ⊆ ps) :
    KeepsBut ps s0 (@State.settleFormation s) := by
  unfold State.settleFormation
  with_reducible repeat' first
    | assumption | refine KeepsBut.ite (fun _ => ?_) (fun _ => ?_) | split | dsimp -proj only
    | refine upd_pool ?_ (sub (by decide) hS)

theorem execSetJoinAck_keeps {ps : List Area} {s0 : State} {h : ReqHdr} {setGen index size code : Nat} {s : State} (hK
    : KeepsBut ps s0 s) (hS : [.fab, .pool, .twin, .evs, .ctrs] ⊆ ps) : KeepsOut ps s0 (@execSetJoinAck h setGen index
    size code s) := by
  unfold execSetJoinAck
  with_reducible repeat' first
    | assumption | refine KeepsOut.next ?_ | refine State.setIn_keeps ?_ (fun v0F v1F hF => ?_) (sub (by decide) hS)
    | refine State.setMember_keeps ?_ (sub (by decide) hS) | refine State.sendOrders_keeps ?_ (sub (by decide) hS)
    | refine State.settleFormation_keeps ?_ (sub (by decide) hS) | refine State.raise_keeps ?_ (sub (by decide) hS)
    | refine KeepsBut.ite (fun _ => ?_) (fun _ => ?_) | split | refine KeepsBut.ite1 (fun _ => ?_) (fun _ => ?_)
    | dsimp -proj only | refine KeepsBut.of_pair ?_ (by assumption) | refine upd_pool ?_ (sub (by decide) hS)

theorem execSetJoinSend_keeps {ps : List Area} {s0 s : State} (hK : KeepsBut ps s0 s) (hS : [.fab] ⊆ ps) : KeepsOut ps
    s0 (@execSetJoinSend s) := by
  unfold execSetJoinSend
  with_reducible repeat' first
    | assumption | refine KeepsOut.next ?_ | refine State.setMsg_keeps ?_ (sub (by decide) hS)
    | refine KeepsBut.foldl ?_ (fun sF xF hF => ?_) | refine KeepsBut.foldl1 ?_ (fun sF xF hF => ?_)
    | refine KeepsBut.ite (fun _ => ?_) (fun _ => ?_) | split | dsimp -proj only
    | refine KeepsBut.of_pair ?_ (by assumption)

theorem State.orderDone_keeps {ps : List Area} {s0 s : State} {h : ReqHdr} {code : Nat} (hK : KeepsBut ps s0 s) (hS :
    [.fab] ⊆ ps) : KeepsBut ps s0 (@State.orderDone s h code) := by
  unfold State.orderDone
  with_reducible repeat' first
    | assumption | refine State.send_keeps ?_ (sub (by decide) hS) | dsimp -proj only

theorem execSetMaster_keeps {ps : List Area} {s0 : State} {c : RslCmd} {newMaster : Nat} {lostMask : BitVec 8} {setGen
    : Nat} {s : State} (hK : KeepsBut ps s0 s) (hS : [.pool, .twin, .rsl, .ctrs] ⊆ ps) : KeepsOut ps s0
    (@execSetMaster c newMaster lostMask setGen s) := by
  unfold execSetMaster
  with_reducible repeat' first
    | assumption | refine KeepsOut.next ?_ | refine State.rslGate_keeps ?_ (fun v0F hF => ?_) (sub (by decide) hS)
    | refine State.rslAnswer_keeps ?_ (sub (by decide) hS) | refine KeepsBut.ite (fun _ => ?_) (fun _ => ?_) | split
    | dsimp -proj only | refine upd_pool ?_ (sub (by decide) hS)

theorem State.settleOrders_keeps {ps : List Area} {s0 s : State} (hK : KeepsBut ps s0 s) (hS : [.boot, .fab, .pool,
    .repro, .mem, .twin, .sec, .rsl, .ctrs] ⊆ ps) : KeepsBut ps s0 (@State.settleOrders s) := by
  unfold State.settleOrders
  with_reducible repeat' first
    | assumption | refine State.orderEnd_keeps ?_ (sub (by decide) hS) | refine KeepsBut.foldl ?_ (fun sF xF hF => ?_)
    | refine KeepsBut.foldl1 ?_ (fun sF xF hF => ?_) | dsimp -proj only | refine KeepsBut.of_pair ?_ (by assumption)
    | refine upd_pool ?_ (sub (by decide) hS)

theorem execSetAck_keeps {ps : List Area} {s0 : State} {h : ReqHdr} {setGen epoch : Nat} {s : State} (hK : KeepsBut ps
    s0 s) (hS : [.fab, .pool, .coach, .stock, .repro, .mem, .twin, .sec, .rsl, .evs, .ctrs, .fresh] ⊆ ps) : KeepsOut
    ps s0 (@execSetAck h setGen epoch s) := by
  unfold execSetAck
  with_reducible repeat' first
    | assumption | refine KeepsOut.next ?_ | refine State.setIn_keeps ?_ (fun v0F v1F hF => ?_) (sub (by decide) hS)
    | refine State.startReclaims_keeps ?_ (sub (by decide) hS) | refine State.setMember_keeps ?_ (sub (by decide) hS)
    | refine KeepsBut.ite (fun _ => ?_) (fun _ => ?_) | split | dsimp -proj only

theorem State.answerOrder_keeps {ps : List Area} {s0 s : State} {w : Sent} {more : List Sent} {who : List Nat} (hK :
    KeepsBut ps s0 s) (hS : [.pool] ⊆ ps) : KeepsBut ps s0 (@State.answerOrder s w more who) := by
  unfold State.answerOrder
  with_reducible repeat' first
    | assumption | refine KeepsBut.ite (fun _ => ?_) (fun _ => ?_) | split | dsimp -proj only
    | refine upd_pool ?_ (sub (by decide) hS)

theorem execSetDone_keeps {ps : List Area} {s0 : State} {h : ReqHdr} {setGen code : Nat} {s : State} (hK : KeepsBut ps
    s0 s) (hS : [.boot, .fab, .pool, .repro, .mem, .twin, .sec, .rsl, .evs, .ctrs] ⊆ ps) : KeepsOut ps s0
    (@execSetDone h setGen code s) := by
  unfold execSetDone
  with_reducible repeat' first
    | assumption | refine KeepsOut.next ?_ | refine State.setIn_keeps ?_ (fun v0F v1F hF => ?_) (sub (by decide) hS)
    | refine State.settleOrders_keeps ?_ (sub (by decide) hS) | refine State.answerOrder_keeps ?_ (sub (by decide) hS)
    | refine State.sendOrder_keeps ?_ (sub (by decide) hS) | refine KeepsBut.ite (fun _ => ?_) (fun _ => ?_) | split
    | refine KeepsBut.ite1 (fun _ => ?_) (fun _ => ?_) | dsimp -proj only | refine KeepsBut.of_pair ?_ (by assumption)

theorem execSetMemberLoss_keeps {ps : List Area} {s0 : State} {index : Nat} {s : State} (hK : KeepsBut ps s0 s) (hS :
    [.boot, .fab, .pool, .coach, .stock, .repro, .mem, .twin, .sec, .rsl, .evs, .ctrs, .fresh] ⊆ ps) : KeepsOut ps s0
    (@execSetMemberLoss index s) := by
  unfold execSetMemberLoss
  with_reducible repeat' first
    | assumption | refine KeepsOut.next ?_ | refine State.setMember_keeps ?_ (sub (by decide) hS)
    | refine State.damage_keeps ?_ (sub (by decide) hS) | refine State.raise_keeps ?_ (sub (by decide) hS)
    | refine State.startReclaims_keeps ?_ (sub (by decide) hS)
    | refine State.settleOrders_keeps ?_ (sub (by decide) hS) | refine KeepsBut.foldl ?_ (fun sF xF hF => ?_)
    | refine KeepsBut.foldl1 ?_ (fun sF xF hF => ?_) | refine KeepsBut.ite (fun _ => ?_) (fun _ => ?_) | split
    | refine KeepsBut.ite1 (fun _ => ?_) (fun _ => ?_) | dsimp -proj only | refine KeepsBut.of_pair ?_ (by assumption)
    | refine upd_pool ?_ (sub (by decide) hS)

theorem State.sendDeltas_keeps {ps : List Area} {s0 s : State} {e : Nat} (hK : KeepsBut ps s0 s) (hS : [.fab, .pool] ⊆
    ps) : KeepsBut ps s0 (@State.sendDeltas s e) := by
  unfold State.sendDeltas
  with_reducible repeat' first
    | assumption | refine State.setMsg_keeps ?_ (sub (by decide) hS) | refine KeepsBut.foldl ?_ (fun sF xF hF => ?_)
    | refine KeepsBut.foldl1 ?_ (fun sF xF hF => ?_) | refine KeepsBut.ite (fun _ => ?_) (fun _ => ?_) | split
    | refine KeepsBut.ite1 (fun _ => ?_) (fun _ => ?_) | dsimp -proj only | refine KeepsBut.of_pair ?_ (by assumption)
    | refine upd_pool ?_ (sub (by decide) hS)

theorem State.carryOut_keeps {ps : List Area} {s0 s : State} {h : ReqHdr} {y2 : SetOrder} (hK : KeepsBut ps s0 s) (hS
    : [.fab, .pool, .coh, .coach, .stock, .mem, .twin, .sec, .rsl, .evs, .ctrs, .fresh] ⊆ ps) : KeepsBut ps s0
    (@State.carryOut s h y2).1 := by
  unfold State.carryOut
  with_reducible repeat' first
    | assumption | refine State.place_keeps ?_ (sub (by decide) hS)
    | refine State.logChange_keeps ?_ (sub (by decide) hS) | refine State.withdraw_keeps ?_ (sub (by decide) hS)
    | refine State.endSessions_keeps ?_ (sub (by decide) hS) | refine State.setLease_keeps ?_ (sub (by decide) hS)
    | refine State.domainFalls_keeps ?_ (sub (by decide) hS) | refine State.setDomain_keeps ?_ (sub (by decide) hS)
    | refine State.clearValid_keeps ?_ (sub (by decide) hS) | refine State.loadKey_keeps ?_ (sub (by decide) hS)
    | refine State.zeroKey_keeps ?_ (sub (by decide) hS) | refine State.setExt_keeps ?_ (sub (by decide) hS)
    | refine KeepsBut.of_some ?_ (by assumption) | refine KeepsBut.foldl ?_ (fun sF xF hF => ?_)
    | refine KeepsBut.foldl1 ?_ (fun sF xF hF => ?_) | refine KeepsBut.ite1 (fun _ => ?_) (fun _ => ?_) | split
    | refine KeepsBut.ite1 (fun _ => ?_) (fun _ => ?_) | dsimp -proj only | refine KeepsBut.of_pair ?_ (by assumption)
    | refine upd_pool ?_ (sub (by decide) hS)

theorem execSetCmd_keeps {ps : List Area} {s0 : State} {h : ReqHdr} {setGen : Nat} {order : SetOrder} {s : State} (hK
    : KeepsBut ps s0 s) (hS : [.fab, .pool, .coh, .coach, .stock, .mem, .twin, .sec, .rsl, .evs, .ctrs, .fresh] ⊆ ps)
    : KeepsOut ps s0 (@execSetCmd h setGen order s) := by
  unfold execSetCmd
  with_reducible repeat' first
    | assumption | refine KeepsOut.next ?_ | refine State.setReq_keeps ?_ (fun v0F v1F hF => ?_) (sub (by decide) hS)
    | refine State.journalOut_keeps ?_ (sub (by decide) hS) | refine State.carryOut_keeps ?_ (sub (by decide) hS)
    | refine State.orderDone_keeps ?_ (sub (by decide) hS) | refine KeepsBut.ite (fun _ => ?_) (fun _ => ?_) | split
    | refine KeepsBut.ite1 (fun _ => ?_) (fun _ => ?_) | dsimp -proj only | refine KeepsBut.of_pair ?_ (by assumption)

end Sys2Proof.Machine
end

