-- ==== Sys2Proof/Laws/FrameHomeOps.lean ====
section
/-! SUPPORT. The frame of each operation of Machine/HomeOps.lean: the parts of the state that it may change, and no others. -/

set_option Elab.async false

namespace Sys2Proof.Machine
open Sys2Proof

set_option maxRecDepth 4000
set_option linter.all false

theorem State.respond_keeps {ps : List Area} {s0 s : State} {t : Tracker} {data : Line} (hK : KeepsBut ps s0 s) (hS :
    [.fab, .coh, .coach, .ctrs] ⊆ ps) : KeepsBut ps s0 (@State.respond s t data) := by
  unfold State.respond
  with_reducible repeat' first
    | assumption | refine State.freeTracker_keeps ?_ (sub (by decide) hS)
    | refine State.answerCoach_keeps ?_ (sub (by decide) hS) | refine State.rdData_keeps ?_ (sub (by decide) hS)
    | refine State.setTracker_keeps ?_ (sub (by decide) hS) | refine State.atCpl_keeps ?_ (sub (by decide) hS)
    | refine State.cohCpl_keeps ?_ (sub (by decide) hS) | refine KeepsBut.ite (fun _ => ?_) (fun _ => ?_) | split
    | dsimp -proj only

theorem State.noteRetry_keeps {ps : List Area} {s0 s : State} {line : Nat} (hK : KeepsBut ps s0 s) (hS : [.coh] ⊆ ps)
    : KeepsBut ps s0 (@State.noteRetry s line) := by
  unfold State.noteRetry
  with_reducible repeat' first
    | assumption | refine KeepsBut.ite (fun _ => ?_) (fun _ => ?_) | split | dsimp -proj only
    | refine upd_coh ?_ (sub (by decide) hS)

theorem State.nakBusy_keeps {ps : List Area} {s0 s : State} {h : ReqHdr} {line d : Nat} (hK : KeepsBut ps s0 s) (hS :
    [.fab, .coh, .ctrs] ⊆ ps) : KeepsBut ps s0 (@State.nakBusy s h line d) := by
  unfold State.nakBusy
  with_reducible repeat' first
    | assumption | refine State.bump_keeps ?_ (sub (by decide) hS) | refine State.cohNak_keeps ?_ (sub (by decide) hS)
    | refine State.noteRetry_keeps ?_ (sub (by decide) hS) | refine KeepsBut.ite (fun _ => ?_) (fun _ => ?_) | split
    | dsimp -proj only | refine upd_coh ?_ (sub (by decide) hS)

theorem State.sendSnoop_keeps {ps : List Area} {s0 s : State} {t : Tracker} {share : Bool} {m : Nat × Nat} (hK :
    KeepsBut ps s0 s) (hS : [.fab, .coh, .ctrs] ⊆ ps) : KeepsBut ps s0 (@State.sendSnoop s t share m).1 := by
  unfold State.sendSnoop
  with_reducible repeat' first
    | assumption | refine State.send_keeps ?_ (sub (by decide) hS) | refine State.bump_keeps ?_ (sub (by decide) hS)
    | refine KeepsBut.ite1 (fun _ => ?_) (fun _ => ?_) | split | refine KeepsBut.ite1 (fun _ => ?_) (fun _ => ?_)
    | dsimp -proj only | refine upd_coh ?_ (sub (by decide) hS)

theorem State.openTracker_keeps {ps : List Area} {s0 s : State} {t : Tracker} (hK : KeepsBut ps s0 s) (hS : [.coh,
    .ctrs] ⊆ ps) : KeepsBut ps s0 (@State.openTracker s t) := by
  unfold State.openTracker
  with_reducible repeat' first
    | assumption | refine State.bump_keeps ?_ (sub (by decide) hS) | dsimp -proj only
    | refine upd_coh ?_ (sub (by decide) hS)

theorem State.admitHome_keeps {ps : List Area} {s0 s : State} {kind : HomeReq} {h : ReqHdr} {addr ext d : Nat} {mask :
    BitVec 64} {data : Line} {operand : BitVec 256} (hK : KeepsBut ps s0 s) (hS : [.fab, .coh, .ctrs] ⊆ ps) : KeepsBut
    ps s0 (@State.admitHome s kind h addr ext d mask data operand) := by
  unfold State.admitHome
  with_reducible repeat' first
    | assumption | refine State.nakBusy_keeps ?_ (sub (by decide) hS)
    | refine State.openTracker_keeps ?_ (sub (by decide) hS) | refine State.cohNak_keeps ?_ (sub (by decide) hS)
    | refine State.bump_keeps ?_ (sub (by decide) hS) | refine State.noteRetry_keeps ?_ (sub (by decide) hS)
    | refine KeepsBut.ite (fun _ => ?_) (fun _ => ?_) | split | dsimp -proj only

theorem State.protocolError_keeps {ps : List Area} {s0 s : State} {d : Nat} (hK : KeepsBut ps s0 s) (hS : [.fab,
    .pool, .coh, .coach, .twin, .sec, .rsl, .evs, .ctrs] ⊆ ps) : KeepsBut ps s0 (@State.protocolError s d) := by
  unfold State.protocolError
  with_reducible repeat' first
    | assumption | refine State.domainDown_keeps ?_ (sub (by decide) hS) | dsimp -proj only

theorem State.homeAccess_keeps {ps : List Area} {s0 s : State} {kind : HomeReq} {h : ReqHdr} {addr need : Nat} {member
    : Bool} {k : State → Nat → Nat → State} (hK : KeepsBut ps s0 s) (hk : ∀ (v0 : State) (v1 : Nat) (v2 : Nat),
    KeepsBut ps s0 v0 → KeepsBut ps s0 (k v0 v1 v2)) (hS : [.fab, .pool, .coh, .coach, .twin, .sec, .rsl, .evs, .ctrs]
    ⊆ ps) : KeepsBut ps s0 (@State.homeAccess s kind h addr need member k) := by
  unfold State.homeAccess
  with_reducible repeat' first
    | assumption | apply hk | refine State.homeCpl_keeps ?_ (sub (by decide) hS)
    | refine State.countAccessFail_keeps ?_ (sub (by decide) hS) | refine State.dataLost_keeps ?_ (sub (by decide) hS)
    | refine KeepsBut.ite (fun _ => ?_) (fun _ => ?_) | split | dsimp -proj only

theorem State.applyHome_keeps {ps : List Area} {s0 s : State} {t : Tracker} {cur : Line} {fromMember : Bool} (hK :
    KeepsBut ps s0 s) (hS : [.fab, .coh, .coach, .mem, .twin, .ctrs] ⊆ ps) : KeepsBut ps s0 (@State.applyHome s t cur
    fromMember) := by
  unfold State.applyHome
  with_reducible repeat' first
    | assumption | refine State.queueWrite_keeps ?_ (sub (by decide) hS)
    | refine State.setTracker_keeps ?_ (sub (by decide) hS) | refine State.respond_keeps ?_ (sub (by decide) hS)
    | refine State.retireAnswers_keeps ?_ (sub (by decide) hS) | refine KeepsBut.ite (fun _ => ?_) (fun _ => ?_)
    | split | dsimp -proj only

theorem State.pastGuard_keeps {ps : List Area} {s0 s : State} {kind : HomeReq} {h : ReqHdr} {addr : Nat} {k : State →
    State} (hK : KeepsBut ps s0 s) (hk : ∀ (v0 : State), KeepsBut ps s0 v0 → KeepsBut ps s0 (k v0)) (hS : [.fab,
    .ctrs] ⊆ ps) : KeepsBut ps s0 (@State.pastGuard s kind h addr k) := by
  unfold State.pastGuard
  with_reducible repeat' first
    | assumption | apply hk | refine State.homeCpl_keeps ?_ (sub (by decide) hS) | split | dsimp -proj only

theorem State.snoopAll_keeps {ps : List Area} {s0 s : State} {t : Tracker} {share : Bool} {y3 : List (Nat × Nat)} (hK
    : KeepsBut ps s0 s) (hS : [.fab, .coh, .ctrs] ⊆ ps) : KeepsBut ps s0 (@State.snoopAll s t share y3) := by
  unfold State.snoopAll
  with_reducible repeat' first
    | assumption | refine State.sendSnoop_keeps ?_ (sub (by decide) hS)
    | refine State.setTracker_keeps ?_ (sub (by decide) hS) | refine State.snoopAll_keeps ?_ (sub (by decide) hS)
    | split | refine KeepsBut.ite1 (fun _ => ?_) (fun _ => ?_) | dsimp -proj only
    | refine KeepsBut.of_pair ?_ (by assumption)

theorem State.snoopsDone_keeps {ps : List Area} {s0 s : State} {id : Nat} (hK : KeepsBut ps s0 s) (hS : [.fab, .coh,
    .coach, .mem, .twin, .ctrs] ⊆ ps) : KeepsBut ps s0 (@State.snoopsDone s id) := by
  unfold State.snoopsDone
  with_reducible repeat' first
    | assumption | refine State.applyHome_keeps ?_ (sub (by decide) hS)
    | refine KeepsBut.ite (fun _ => ?_) (fun _ => ?_) | split | dsimp -proj only

end Sys2Proof.Machine
end

