-- ==== Sys2Proof/Laws/FrameCoherence.lean ====
section
/-! SUPPORT. The frame of each operation of Machine/Coherence.lean: the parts of the state that it may change, and no others. -/

set_option Elab.async false

namespace Sys2Proof.Machine
open Sys2Proof

set_option maxRecDepth 4000
set_option linter.all false

theorem State.joinWb_keeps {ps : List Area} {s0 s : State} {t : Tracker} {h : ReqHdr} {data : Option Line} (hK :
    KeepsBut ps s0 s) (hS : [.fab, .coh, .coach, .mem, .twin, .ctrs] ⊆ ps) : KeepsBut ps s0 (@State.joinWb s t h data)
    := by
  unfold State.joinWb
  with_reducible repeat' first
    | assumption | refine State.snoopsDone_keeps ?_ (sub (by decide) hS)
    | refine State.cohCpl_keeps ?_ (sub (by decide) hS) | refine State.setTracker_keeps ?_ (sub (by decide) hS)
    | refine KeepsBut.ite (fun _ => ?_) (fun _ => ?_) | split | dsimp -proj only

theorem execStarvationEntryTimeout_keeps {ps : List Area} {s0 : State} {line : Nat} {s : State} (hK : KeepsBut ps s0
    s) (hS : [.coh] ⊆ ps) : KeepsOut ps s0 (@execStarvationEntryTimeout line s) := by
  unfold execStarvationEntryTimeout
  with_reducible repeat' first
    | assumption | refine KeepsOut.next ?_ | dsimp -proj only | refine upd_coh ?_ (sub (by decide) hS)

theorem State.domainCmd_keeps {ps : List Area} {s0 s : State} {c : RslCmd} {cmd : Nat} {k : State → State} (hK :
    KeepsBut ps s0 s) (hk : ∀ (v0 : State), KeepsBut ps s0 v0 → KeepsBut ps s0 (k v0)) (hS : [.twin, .rsl, .ctrs] ⊆
    ps) : KeepsBut ps s0 (@State.domainCmd s c cmd k) := by
  unfold State.domainCmd
  with_reducible repeat' first
    | assumption | apply hk | refine State.rslGate_keeps ?_ (fun v0F hF => ?_) (sub (by decide) hS)
    | refine State.poolGuard_keeps ?_ (fun v0F v1F v2F hF => ?_) (fun v0F hF => ?_) (sub (by decide) hS)
    | refine State.rslAnswer_keeps ?_ (sub (by decide) hS) | dsimp -proj only

theorem execCohExtUnbind_keeps {ps : List Area} {s0 : State} {c : RslCmd} {ext : Nat} {s : State} (hK : KeepsBut ps s0
    s) (hS : [.fab, .pool, .mem, .twin, .sec, .rsl, .ctrs] ⊆ ps) : KeepsOut ps s0 (@execCohExtUnbind c ext s) := by
  unfold execCohExtUnbind
  with_reducible repeat' first
    | assumption | refine KeepsOut.next ?_ | refine State.domainCmd_keeps ?_ (fun v0F hF => ?_) (sub (by decide) hS)
    | refine State.rslAnswer_keeps ?_ (sub (by decide) hS) | refine State.clearValid_keeps ?_ (sub (by decide) hS)
    | refine State.setExt_keeps ?_ (sub (by decide) hS) | refine State.orderMask_keeps ?_ (sub (by decide) hS)
    | refine KeepsBut.ite (fun _ => ?_) (fun _ => ?_) | split | dsimp -proj only

theorem State.answerIn_keeps {ps : List Area} {s0 s : State} {h : ReqHdr} {k : State → State} (hK : KeepsBut ps s0 s)
    (hk : ∀ (v0 : State), KeepsBut ps s0 v0 → KeepsBut ps s0 (k v0)) (hS : [.fab, .twin, .ctrs] ⊆ ps) : KeepsBut ps s0
    (@State.answerIn s h k) := by
  unfold State.answerIn
  with_reducible repeat' first
    | assumption | apply hk | refine State.bumpPort_keeps ?_ (sub (by decide) hS)
    | refine State.journalIn_keeps ?_ (sub (by decide) hS) | refine State.forward_keeps ?_ (sub (by decide) hS)
    | refine KeepsBut.ite (fun _ => ?_) (fun _ => ?_) | split | dsimp -proj only

theorem State.staleAnswer_keeps {ps : List Area} {s0 s : State} {h : ReqHdr} (hK : KeepsBut ps s0 s) (hS : [.twin,
    .ctrs] ⊆ ps) : KeepsBut ps s0 (@State.staleAnswer s h) := by
  unfold State.staleAnswer
  with_reducible repeat' first
    | assumption | refine State.bump_keeps ?_ (sub (by decide) hS)
    | refine State.journalOut_keeps ?_ (sub (by decide) hS) | dsimp -proj only

theorem execGrantAck_keeps {ps : List Area} {s0 : State} {h : ReqHdr} {s : State} (hK : KeepsBut ps s0 s) (hS : [.fab,
    .pool, .coh, .coach, .twin, .sec, .rsl, .evs, .ctrs] ⊆ ps) : KeepsOut ps s0 (@execGrantAck h s) := by
  unfold execGrantAck
  with_reducible repeat' first
    | assumption | refine KeepsOut.next ?_ | refine State.answerIn_keeps ?_ (fun v0F hF => ?_) (sub (by decide) hS)
    | refine State.staleAnswer_keeps ?_ (sub (by decide) hS) | refine State.journalOut_keeps ?_ (sub (by decide) hS)
    | refine State.protocolError_keeps ?_ (sub (by decide) hS)
    | refine State.freeTracker_keeps ?_ (sub (by decide) hS) | refine KeepsBut.ite (fun _ => ?_) (fun _ => ?_) | split
    | dsimp -proj only

theorem execCohDownReport_keeps {ps : List Area} {s0 : State} {h : ReqHdr} {setGen domain dgen cause : Nat} {s :
    State} (hK : KeepsBut ps s0 s) (hS : [.fab, .pool, .coh, .coach, .twin, .sec, .rsl, .evs, .ctrs] ⊆ ps) : KeepsOut
    ps s0 (@execCohDownReport h setGen domain dgen cause s) := by
  unfold execCohDownReport
  with_reducible repeat' first
    | assumption | refine KeepsOut.next ?_ | refine State.setReq_keeps ?_ (fun v0F v1F hF => ?_) (sub (by decide) hS)
    | refine State.journalOut_keeps ?_ (sub (by decide) hS) | refine State.domainDown_keeps ?_ (sub (by decide) hS)
    | refine KeepsBut.ite (fun _ => ?_) (fun _ => ?_) | split | dsimp -proj only

theorem State.domainOrder_keeps {ps : List Area} {s0 s : State} {d : Nat} {keyed : Bool} {held : HeldCpl} (hK :
    KeepsBut ps s0 s) (hS : [.fab, .pool, .twin, .sec, .rsl, .ctrs] ⊆ ps) : KeepsBut ps s0 (@State.domainOrder s d
    keyed held) := by
  unfold State.domainOrder
  with_reducible repeat' first
    | assumption | refine State.keyChange_keeps ?_ (sub (by decide) hS)
    | refine State.release_keeps ?_ (sub (by decide) hS) | refine State.orderMask_keeps ?_ (sub (by decide) hS)
    | refine KeepsBut.ite (fun _ => ?_) (fun _ => ?_) | split | dsimp -proj only

theorem State.accepted_keeps {ps : List Area} {s0 s : State} {hub : Nat} {h : ReqHdr} {code value : Nat} (hK :
    KeepsBut ps s0 s) (hS : [.mem] ⊆ ps) : KeepsBut ps s0 (@State.accepted s hub h code value) := by
  unfold State.accepted
  with_reducible repeat' first
    | assumption | refine State.commit_keeps ?_ (sub (by decide) hS) | dsimp -proj only

theorem State.homePoison_keeps {ps : List Area} {s0 s : State} {t : Tracker} (hK : KeepsBut ps s0 s) (hS : [.fab,
    .pool, .coh, .coach, .twin, .sec, .rsl, .evs, .ctrs] ⊆ ps) : KeepsBut ps s0 (@State.homePoison s t) := by
  unfold State.homePoison
  with_reducible repeat' first
    | assumption | refine State.retireAnswers_keeps ?_ (sub (by decide) hS)
    | refine State.trkCpl_keeps ?_ (sub (by decide) hS) | refine State.dataLost_keeps ?_ (sub (by decide) hS)
    | refine State.freeTracker_keeps ?_ (sub (by decide) hS) | refine KeepsBut.ite (fun _ => ?_) (fun _ => ?_) | split
    | dsimp -proj only

theorem State.acceptWrite_keeps {ps : List Area} {s0 s : State} {hub : Nat} {y2 : HubWrite} (hK : KeepsBut ps s0 s)
    (hS : [.fab, .pool, .coh, .coach, .mem, .twin, .sec, .rsl, .evs, .ctrs, .fresh] ⊆ ps) : KeepsBut ps s0
    (@State.acceptWrite s hub y2) := by
  unfold State.acceptWrite
  with_reducible repeat' first
    | assumption | refine State.writeLine_keeps ?_ (sub (by decide) hS)
    | refine State.cohCpl_keeps ?_ (sub (by decide) hS) | refine State.accepted_keeps ?_ (sub (by decide) hS)
    | refine State.readLine_keeps ?_ (sub (by decide) hS) | refine State.atCpl_keeps ?_ (sub (by decide) hS)
    | refine State.homePoison_keeps ?_ (sub (by decide) hS) | refine State.respond_keeps ?_ (sub (by decide) hS)
    | refine State.retireAnswers_keeps ?_ (sub (by decide) hS) | refine KeepsBut.ite (fun _ => ?_) (fun _ => ?_)
    | split | refine KeepsBut.ite1 (fun _ => ?_) (fun _ => ?_) | dsimp -proj only
    | refine KeepsBut.of_pair ?_ (by assumption)

theorem State.hubOnly_keeps {ps : List Area} {s0 s t : State} (hK : KeepsBut ps s0 s) (hT : KeepsBut ps s0 t) :
    KeepsBut ps s0 (s.hubOnly t) := by
  unfold State.hubOnly
  split
  · intro a ha
    cases a <;> first | exact hT .mem ha | exact hK _ ha
  · exact hT

theorem State.takeWrite_keeps {ps : List Area} {s0 s : State} {hub : Nat} (hK : KeepsBut ps s0 s) (hS : [.fab, .pool, .coh, .coach, .mem, .twin, .sec, .rsl, .evs, .ctrs, .fresh] ⊆ ps) :
    KeepsBut ps s0 (s.takeWrite hub) := by
  unfold State.takeWrite
  split
  · exact hK
  · split
    · have h := fun q => State.setHubQueue_keeps (hub := hub) (q := q) hK (sub (by decide) hS)
      exact State.hubOnly_keeps (h _) (State.acceptWrite_keeps (h _) (sub (by decide) hS))
    · exact hK

theorem execHubWriteAccepted_keeps {ps : List Area} {s0 : State} {hub : Nat} {s : State} (hK : KeepsBut ps s0 s) (hS :
    [.fab, .pool, .coh, .coach, .mem, .twin, .sec, .rsl, .evs, .ctrs, .fresh] ⊆ ps) : KeepsOut ps s0
    (@execHubWriteAccepted hub s) := by
  unfold execHubWriteAccepted
  with_reducible repeat' first
    | assumption | refine KeepsOut.next ?_ | refine State.bump_keeps ?_ (sub (by decide) hS)
    | refine State.setHubQueue_keeps ?_ (sub (by decide) hS) | refine State.takeWrite_keeps ?_ (sub (by decide) hS)
    | refine KeepsBut.ite (fun _ => ?_) (fun _ => ?_) | split | dsimp -proj only

theorem execCohDeadlineExpiry_keeps {ps : List Area} {s0 : State} {tracker : Nat} {s : State} (hK : KeepsBut ps s0 s)
    (hS : [.fab, .pool, .coh, .coach, .twin, .sec, .rsl, .evs, .ctrs] ⊆ ps) : KeepsOut ps s0 (@execCohDeadlineExpiry
    tracker s) := by
  unfold execCohDeadlineExpiry
  with_reducible repeat' first
    | assumption | refine KeepsOut.next ?_ | refine State.domainDown_keeps ?_ (sub (by decide) hS)
    | refine KeepsBut.ite (fun _ => ?_) (fun _ => ?_) | split | dsimp -proj only

theorem execCohExtBind_keeps {ps : List Area} {s0 : State} {c : RslCmd} {ext domain : Nat} {s : State} (hK : KeepsBut
    ps s0 s) (hS : [.fab, .pool, .mem, .twin, .sec, .rsl, .ctrs] ⊆ ps) : KeepsOut ps s0 (@execCohExtBind c ext domain
    s) := by
  unfold execCohExtBind
  with_reducible repeat' first
    | assumption | refine KeepsOut.next ?_ | refine State.domainCmd_keeps ?_ (fun v0F hF => ?_) (sub (by decide) hS)
    | refine State.rslAnswer_keeps ?_ (sub (by decide) hS) | refine State.clearValid_keeps ?_ (sub (by decide) hS)
    | refine State.setExt_keeps ?_ (sub (by decide) hS) | refine State.orderMask_keeps ?_ (sub (by decide) hS)
    | refine KeepsBut.ite (fun _ => ?_) (fun _ => ?_) | split | dsimp -proj only

theorem execCohDomainFree_keeps {ps : List Area} {s0 : State} {c : RslCmd} {domain : Nat} {s : State} (hK : KeepsBut
    ps s0 s) (hS : [.fab, .pool, .coh, .mem, .twin, .sec, .rsl, .ctrs] ⊆ ps) : KeepsOut ps s0 (@execCohDomainFree c
    domain s) := by
  unfold execCohDomainFree
  with_reducible repeat' first
    | assumption | refine KeepsOut.next ?_ | refine State.domainCmd_keeps ?_ (fun v0F hF => ?_) (sub (by decide) hS)
    | refine State.rslAnswer_keeps ?_ (sub (by decide) hS) | refine State.zeroKey_keeps ?_ (sub (by decide) hS)
    | refine State.setDomain_keeps ?_ (sub (by decide) hS) | refine State.domainOrder_keeps ?_ (sub (by decide) hS)
    | refine KeepsBut.ite (fun _ => ?_) (fun _ => ?_) | split | dsimp -proj only

theorem State.homeRequest_keeps {ps : List Area} {s0 s : State} {kind : HomeReq} {h : ReqHdr} {cls : Nat} {lens : List
    Nat} {mask : BitVec 32} {bad : Bool} {k : State → State} (hK : KeepsBut ps s0 s) (hk : ∀ (v0 : State), KeepsBut ps
    s0 v0 → KeepsBut ps s0 (k v0)) (hS : [.fab, .twin, .ctrs] ⊆ ps) : KeepsBut ps s0 (@State.homeRequest s kind h cls
    lens mask bad k) := by
  unfold State.homeRequest
  with_reducible repeat' first
    | assumption | apply hk | refine State.homeCpl_keeps ?_ (sub (by decide) hS)
    | refine State.arrive_keeps ?_ (fun v0F v1F v2F hF => ?_) (fun v0F hF => ?_) (sub (by decide) hS)
    | refine State.countRecorded_keeps ?_ (sub (by decide) hS)
    | refine State.colander_keeps ?_ (fun v0F v1F v2F hF => ?_) (fun v0F hF => ?_) (sub (by decide) hS)
    | refine KeepsBut.ite (fun _ => ?_) (fun _ => ?_) | split | dsimp -proj only

theorem State.answerRequest_keeps {ps : List Area} {s0 s : State} {kind : HomeReq} {h : ReqHdr} {lens : List Nat} {bad
    : Bool} {k : State → State} (hK : KeepsBut ps s0 s) (hk : ∀ (v0 : State), KeepsBut ps s0 v0 → KeepsBut ps s0 (k
    v0)) (hS : [.fab, .twin, .ctrs] ⊆ ps) : KeepsBut ps s0 (@State.answerRequest s kind h lens bad k) := by
  unfold State.answerRequest
  with_reducible repeat' first
    | assumption | apply hk | refine State.homeCpl_keeps ?_ (sub (by decide) hS)
    | refine State.arrive_keeps ?_ (fun v0F v1F v2F hF => ?_) (fun v0F hF => ?_) (sub (by decide) hS)
    | refine KeepsBut.ite (fun _ => ?_) (fun _ => ?_) | split | dsimp -proj only

theorem execCohDomainDown_keeps {ps : List Area} {s0 : State} {c : RslCmd} {domain : Nat} {s : State} (hK : KeepsBut
    ps s0 s) (hS : [.fab, .pool, .coh, .coach, .twin, .sec, .rsl, .evs, .ctrs] ⊆ ps) : KeepsOut ps s0
    (@execCohDomainDown c domain s) := by
  unfold execCohDomainDown
  with_reducible repeat' first
    | assumption | refine KeepsOut.next ?_ | refine State.domainCmd_keeps ?_ (fun v0F hF => ?_) (sub (by decide) hS)
    | refine State.rslAnswer_keeps ?_ (sub (by decide) hS) | refine State.domainFalls_keeps ?_ (sub (by decide) hS)
    | refine KeepsBut.ite (fun _ => ?_) (fun _ => ?_) | split | dsimp -proj only

theorem State.markAnswer_keeps {ps : List Area} {s0 s : State} {j : Nat} (hK : KeepsBut ps s0 s) (hS : [.twin] ⊆ ps) :
    KeepsBut ps s0 (@State.markAnswer s j) := by
  unfold State.markAnswer
  with_reducible repeat' first
    | assumption | refine KeepsBut.ite (fun _ => ?_) (fun _ => ?_) | split | dsimp -proj only
    | refine upd_twin ?_ (sub (by decide) hS)

theorem State.orphanData_keeps {ps : List Area} {s0 s : State} {h : ReqHdr} {addr domain : Nat} {data : Line} (hK :
    KeepsBut ps s0 s) (hS : [.mem, .twin, .evs, .ctrs, .fresh] ⊆ ps) : KeepsBut ps s0 (@State.orphanData s h addr
    domain data) := by
  unfold State.orphanData
  with_reducible repeat' first
    | assumption | refine State.writeLine_keeps ?_ (sub (by decide) hS)
    | refine State.bump_keeps ?_ (sub (by decide) hS) | refine State.journalOut_keeps ?_ (sub (by decide) hS)
    | refine State.staleAnswer_keeps ?_ (sub (by decide) hS) | refine KeepsBut.ite (fun _ => ?_) (fun _ => ?_) | split
    | refine KeepsBut.ite1 (fun _ => ?_) (fun _ => ?_) | dsimp -proj only | refine KeepsBut.of_pair ?_ (by assumption)

theorem execHomeLineReadDone_keeps {ps : List Area} {s0 : State} {tracker : Nat} {err : Err} {s : State} (hK :
    KeepsBut ps s0 s) (hS : [.fab, .pool, .coh, .coach, .mem, .twin, .sec, .rsl, .evs, .ctrs, .fresh] ⊆ ps) : KeepsOut
    ps s0 (@execHomeLineReadDone tracker err s) := by
  unfold execHomeLineReadDone
  with_reducible repeat' first
    | assumption | refine KeepsOut.next ?_ | refine State.bump_keeps ?_ (sub (by decide) hS)
    | refine State.readLine_keeps ?_ (sub (by decide) hS) | refine State.homePoison_keeps ?_ (sub (by decide) hS)
    | refine State.protocolError_keeps ?_ (sub (by decide) hS) | refine State.setTracker_keeps ?_ (sub (by decide) hS)
    | refine State.applyHome_keeps ?_ (sub (by decide) hS) | refine State.snoopAll_keeps ?_ (sub (by decide) hS)
    | refine KeepsBut.ite (fun _ => ?_) (fun _ => ?_) | split | refine KeepsBut.ite1 (fun _ => ?_) (fun _ => ?_)
    | dsimp -proj only | refine KeepsBut.of_pair ?_ (by assumption)

theorem execCohDomainReset_keeps {ps : List Area} {s0 : State} {c : RslCmd} {domain : Nat} {s : State} (hK : KeepsBut
    ps s0 s) (hS : [.fab, .pool, .coh, .mem, .twin, .sec, .rsl, .ctrs, .fresh] ⊆ ps) : KeepsOut ps s0
    (@execCohDomainReset c domain s) := by
  unfold execCohDomainReset
  with_reducible repeat' first
    | assumption | refine KeepsOut.next ?_ | refine State.domainCmd_keeps ?_ (fun v0F hF => ?_) (sub (by decide) hS)
    | refine State.rslAnswer_keeps ?_ (sub (by decide) hS) | refine State.loadKey_keeps ?_ (sub (by decide) hS)
    | refine State.setDomain_keeps ?_ (sub (by decide) hS) | refine State.clearValid_keeps ?_ (sub (by decide) hS)
    | refine State.domainOrder_keeps ?_ (sub (by decide) hS)
    | refine State.domainNotices_keeps ?_ (sub (by decide) hS) | refine KeepsBut.foldl ?_ (fun sF xF hF => ?_)
    | refine KeepsBut.foldl1 ?_ (fun sF xF hF => ?_) | refine KeepsBut.ite (fun _ => ?_) (fun _ => ?_) | split
    | dsimp -proj only | refine KeepsBut.of_pair ?_ (by assumption)

theorem execRdShared_keeps {ps : List Area} {s0 : State} {h : ReqHdr} {addr maskOrDomain : Nat} {s : State} (hK :
    KeepsBut ps s0 s) (hS : [.fab, .pool, .coh, .coach, .twin, .sec, .rsl, .evs, .ctrs] ⊆ ps) : KeepsOut ps s0
    (@execRdShared h addr maskOrDomain s) := by
  unfold execRdShared
  with_reducible repeat' first
    | assumption | refine KeepsOut.next ?_ | refine State.homeRequest_keeps ?_ (fun v0F hF => ?_) (sub (by decide) hS)
    | refine State.homeAccess_keeps ?_ (fun v0F v1F v2F hF => ?_) (sub (by decide) hS)
    | refine State.pastGuard_keeps ?_ (fun v0F hF => ?_) (sub (by decide) hS)
    | refine State.admitHome_keeps ?_ (sub (by decide) hS) | dsimp -proj only

theorem execCohDomainQuery_keeps {ps : List Area} {s0 : State} {c : RslCmd} {domain : Nat} {s : State} (hK : KeepsBut
    ps s0 s) (hS : [.twin, .rsl, .ctrs] ⊆ ps) : KeepsOut ps s0 (@execCohDomainQuery c domain s) := by
  unfold execCohDomainQuery
  with_reducible repeat' first
    | assumption | refine KeepsOut.next ?_ | refine State.rslGate_keeps ?_ (fun v0F hF => ?_) (sub (by decide) hS)
    | refine State.rslAnswer_keeps ?_ (sub (by decide) hS) | refine KeepsBut.ite (fun _ => ?_) (fun _ => ?_) | split
    | dsimp -proj only

theorem execRdNc_keeps {ps : List Area} {s0 : State} {h : ReqHdr} {addr maskOrDomain : Nat} {err : Err} {s : State}
    (hK : KeepsBut ps s0 s) (hS : [.fab, .pool, .coh, .coach, .mem, .twin, .sec, .rsl, .evs, .ctrs, .fresh] ⊆ ps) :
    KeepsOut ps s0 (@execRdNc h addr maskOrDomain err s) := by
  unfold execRdNc
  with_reducible repeat' first
    | assumption | refine KeepsOut.next ?_ | refine State.homeRequest_keeps ?_ (fun v0F hF => ?_) (sub (by decide) hS)
    | refine State.homeAccess_keeps ?_ (fun v0F v1F v2F hF => ?_) (sub (by decide) hS)
    | refine State.pastGuard_keeps ?_ (fun v0F hF => ?_) (sub (by decide) hS)
    | refine State.admitHome_keeps ?_ (sub (by decide) hS) | refine State.bump_keeps ?_ (sub (by decide) hS)
    | refine State.readLine_keeps ?_ (sub (by decide) hS) | refine State.cohCpl_keeps ?_ (sub (by decide) hS)
    | refine State.rdData_keeps ?_ (sub (by decide) hS) | refine KeepsBut.ite (fun _ => ?_) (fun _ => ?_) | split
    | refine KeepsBut.ite1 (fun _ => ?_) (fun _ => ?_) | dsimp -proj only | refine KeepsBut.of_pair ?_ (by assumption)

theorem execRdOwn_keeps {ps : List Area} {s0 : State} {h : ReqHdr} {addr maskOrDomain : Nat} {s : State} (hK :
    KeepsBut ps s0 s) (hS : [.fab, .pool, .coh, .coach, .twin, .sec, .rsl, .evs, .ctrs] ⊆ ps) : KeepsOut ps s0
    (@execRdOwn h addr maskOrDomain s) := by
  unfold execRdOwn
  with_reducible repeat' first
    | assumption | refine KeepsOut.next ?_ | refine State.homeRequest_keeps ?_ (fun v0F hF => ?_) (sub (by decide) hS)
    | refine State.homeAccess_keeps ?_ (fun v0F v1F v2F hF => ?_) (sub (by decide) hS)
    | refine State.pastGuard_keeps ?_ (fun v0F hF => ?_) (sub (by decide) hS)
    | refine State.admitHome_keeps ?_ (sub (by decide) hS) | dsimp -proj only

theorem execSnpAck_keeps {ps : List Area} {s0 : State} {h : ReqHdr} {s : State} (hK : KeepsBut ps s0 s) (hS : [.fab,
    .pool, .coh, .coach, .mem, .twin, .sec, .rsl, .evs, .ctrs] ⊆ ps) : KeepsOut ps s0 (@execSnpAck h s) := by
  unfold execSnpAck
  with_reducible repeat' first
    | assumption | refine KeepsOut.next ?_ | refine State.answerIn_keeps ?_ (fun v0F hF => ?_) (sub (by decide) hS)
    | refine State.staleAnswer_keeps ?_ (sub (by decide) hS)
    | refine State.protocolError_keeps ?_ (sub (by decide) hS) | refine State.journalOut_keeps ?_ (sub (by decide) hS)
    | refine State.snoopsDone_keeps ?_ (sub (by decide) hS) | refine State.setTracker_keeps ?_ (sub (by decide) hS)
    | refine KeepsBut.ite (fun _ => ?_) (fun _ => ?_) | split | dsimp -proj only

theorem execSnpData_keeps {ps : List Area} {s0 : State} {h : ReqHdr} {addr domain dgen resv : Nat} {data : Line} {s :
    State} (hK : KeepsBut ps s0 s) (hS : [.fab, .pool, .coh, .coach, .mem, .twin, .sec, .rsl, .evs, .ctrs, .fresh] ⊆
    ps) : KeepsOut ps s0 (@execSnpData h addr domain dgen resv data s) := by
  unfold execSnpData
  with_reducible repeat' first
    | assumption | refine KeepsOut.next ?_ | refine State.answerIn_keeps ?_ (fun v0F hF => ?_) (sub (by decide) hS)
    | refine State.orphanData_keeps ?_ (sub (by decide) hS) | refine State.protocolError_keeps ?_ (sub (by decide) hS)
    | refine State.journalOut_keeps ?_ (sub (by decide) hS) | refine State.staleAnswer_keeps ?_ (sub (by decide) hS)
    | refine State.snoopsDone_keeps ?_ (sub (by decide) hS) | refine State.setTracker_keeps ?_ (sub (by decide) hS)
    | refine KeepsBut.ite (fun _ => ?_) (fun _ => ?_) | split | dsimp -proj only

theorem execCohMemberRemove_keeps {ps : List Area} {s0 : State} {c : RslCmd} {domain index : Nat} {s : State} (hK :
    KeepsBut ps s0 s) (hS : [.fab, .pool, .coh, .twin, .sec, .rsl, .ctrs] ⊆ ps) : KeepsOut ps s0 (@execCohMemberRemove
    c domain index s) := by
  unfold execCohMemberRemove
  with_reducible repeat' first
    | assumption | refine KeepsOut.next ?_ | refine State.domainCmd_keeps ?_ (fun v0F hF => ?_) (sub (by decide) hS)
    | refine State.rslAnswer_keeps ?_ (sub (by decide) hS) | refine State.setDomain_keeps ?_ (sub (by decide) hS)
    | refine State.domainOrder_keeps ?_ (sub (by decide) hS) | refine KeepsBut.ite (fun _ => ?_) (fun _ => ?_) | split
    | dsimp -proj only

theorem State.answerAccess_keeps {ps : List Area} {s0 s : State} {kind : HomeReq} {h : ReqHdr} {addr : Nat} {k : State
    → Nat → Nat → State} (hK : KeepsBut ps s0 s) (hk : ∀ (v0 : State) (v1 : Nat) (v2 : Nat), KeepsBut ps s0 v0 →
    KeepsBut ps s0 (k v0 v1 v2)) (hS : [.fab, .pool, .coh, .coach, .twin, .sec, .rsl, .evs, .ctrs] ⊆ ps) : KeepsBut ps
    s0 (@State.answerAccess s kind h addr k) := by
  unfold State.answerAccess
  with_reducible repeat' first
    | assumption | apply hk | refine State.homeCpl_keeps ?_ (sub (by decide) hS)
    | refine State.bump_keeps ?_ (sub (by decide) hS) | refine State.dataLost_keeps ?_ (sub (by decide) hS)
    | refine KeepsBut.ite (fun _ => ?_) (fun _ => ?_) | split | dsimp -proj only

theorem execEvict_keeps {ps : List Area} {s0 : State} {h : ReqHdr} {addr maskOrDomain : Nat} {s : State} (hK :
    KeepsBut ps s0 s) (hS : [.fab, .pool, .coh, .coach, .twin, .sec, .rsl, .evs, .ctrs] ⊆ ps) : KeepsOut ps s0
    (@execEvict h addr maskOrDomain s) := by
  unfold execEvict
  with_reducible repeat' first
    | assumption | refine KeepsOut.next ?_
    | refine State.answerRequest_keeps ?_ (fun v0F hF => ?_) (sub (by decide) hS)
    | refine State.answerAccess_keeps ?_ (fun v0F v1F v2F hF => ?_) (sub (by decide) hS)
    | refine State.openTracker_keeps ?_ (sub (by decide) hS) | refine KeepsBut.ite (fun _ => ?_) (fun _ => ?_) | split
    | dsimp -proj only

theorem State.drainHub_keeps {ps : List Area} {s0 s : State} {hub : Nat} (hK : KeepsBut ps s0 s) (hS : [.fab, .pool,
    .coh, .coach, .mem, .twin, .sec, .rsl, .evs, .ctrs, .fresh] ⊆ ps) : KeepsBut ps s0 (@State.drainHub s hub) := by
  unfold State.drainHub
  with_reducible repeat' first
    | assumption | refine State.takeWrite_keeps ?_ (sub (by decide) hS)
    | refine KeepsBut.foldl ?_ (fun sF xF hF => ?_) | refine KeepsBut.foldl1 ?_ (fun sF xF hF => ?_)
    | dsimp -proj only | refine KeepsBut.of_pair ?_ (by assumption)

theorem execCohDomainCreate_keeps {ps : List Area} {s0 : State} {c : RslCmd} {tenant : Nat} {s : State} (hK : KeepsBut
    ps s0 s) (hS : [.fab, .pool, .coh, .mem, .twin, .sec, .rsl, .ctrs, .fresh] ⊆ ps) : KeepsOut ps s0
    (@execCohDomainCreate c tenant s) := by
  unfold execCohDomainCreate
  with_reducible repeat' first
    | assumption | refine KeepsOut.next ?_ | refine State.domainCmd_keeps ?_ (fun v0F hF => ?_) (sub (by decide) hS)
    | refine State.rslAnswer_keeps ?_ (sub (by decide) hS) | refine State.loadKey_keeps ?_ (sub (by decide) hS)
    | refine State.setDomain_keeps ?_ (sub (by decide) hS) | refine State.domainOrder_keeps ?_ (sub (by decide) hS)
    | refine KeepsBut.ite (fun _ => ?_) (fun _ => ?_) | split | refine KeepsBut.ite1 (fun _ => ?_) (fun _ => ?_)
    | dsimp -proj only

theorem execCohMemberAdd_keeps {ps : List Area} {s0 : State} {c : RslCmd} {domain index host : Nat} {s : State} (hK :
    KeepsBut ps s0 s) (hS : [.fab, .pool, .coh, .twin, .sec, .rsl, .ctrs] ⊆ ps) : KeepsOut ps s0 (@execCohMemberAdd c
    domain index host s) := by
  unfold execCohMemberAdd
  with_reducible repeat' first
    | assumption | refine KeepsOut.next ?_ | refine State.domainCmd_keeps ?_ (fun v0F hF => ?_) (sub (by decide) hS)
    | refine State.rslAnswer_keeps ?_ (sub (by decide) hS) | refine State.setDomain_keeps ?_ (sub (by decide) hS)
    | refine State.domainOrder_keeps ?_ (sub (by decide) hS) | refine KeepsBut.ite (fun _ => ?_) (fun _ => ?_) | split
    | dsimp -proj only

theorem execAtomic_keeps {ps : List Area} {s0 : State} {h : ReqHdr} {addr maskOrDomain : Nat} {operand : BitVec 256}
    {err : Err} {s : State} (hK : KeepsBut ps s0 s) (hS : [.fab, .pool, .coh, .coach, .mem, .twin, .sec, .rsl, .evs,
    .ctrs] ⊆ ps) : KeepsOut ps s0 (@execAtomic h addr maskOrDomain operand err s) := by
  unfold execAtomic
  with_reducible repeat' first
    | assumption | refine KeepsOut.next ?_ | refine State.homeRequest_keeps ?_ (fun v0F hF => ?_) (sub (by decide) hS)
    | refine State.homeAccess_keeps ?_ (fun v0F v1F v2F hF => ?_) (sub (by decide) hS)
    | refine State.pastGuard_keeps ?_ (fun v0F hF => ?_) (sub (by decide) hS)
    | refine State.admitHome_keeps ?_ (sub (by decide) hS) | refine State.queueWrite_keeps ?_ (sub (by decide) hS)
    | refine KeepsBut.ite (fun _ => ?_) (fun _ => ?_) | split | dsimp -proj only

theorem execWrNc_keeps {ps : List Area} {s0 : State} {h : ReqHdr} {addr : Nat} {mask : BitVec 64} {data : Line} {err :
    Err} {s : State} (hK : KeepsBut ps s0 s) (hS : [.fab, .pool, .coh, .coach, .mem, .twin, .sec, .rsl, .evs, .ctrs] ⊆
    ps) : KeepsOut ps s0 (@execWrNc h addr mask data err s) := by
  unfold execWrNc
  with_reducible repeat' first
    | assumption | refine KeepsOut.next ?_ | refine State.homeRequest_keeps ?_ (fun v0F hF => ?_) (sub (by decide) hS)
    | refine State.homeAccess_keeps ?_ (fun v0F v1F v2F hF => ?_) (sub (by decide) hS)
    | refine State.pastGuard_keeps ?_ (fun v0F hF => ?_) (sub (by decide) hS)
    | refine State.admitHome_keeps ?_ (sub (by decide) hS) | refine State.queueWrite_keeps ?_ (sub (by decide) hS)
    | refine KeepsBut.ite (fun _ => ?_) (fun _ => ?_) | split | dsimp -proj only

theorem execWbDirty_keeps {ps : List Area} {s0 : State} {h : ReqHdr} {addr : Nat} {mask : BitVec 64} {data : Line} {s
    : State} (hK : KeepsBut ps s0 s) (hS : [.fab, .pool, .coh, .coach, .mem, .twin, .sec, .rsl, .evs, .ctrs] ⊆ ps) :
    KeepsOut ps s0 (@execWbDirty h addr mask data s) := by
  unfold execWbDirty
  with_reducible repeat' first
    | assumption | refine KeepsOut.next ?_
    | refine State.answerRequest_keeps ?_ (fun v0F hF => ?_) (sub (by decide) hS)
    | refine State.joinWb_keeps ?_ (sub (by decide) hS) | refine State.countRecorded_keeps ?_ (sub (by decide) hS)
    | refine State.cohCpl_keeps ?_ (sub (by decide) hS)
    | refine State.answerAccess_keeps ?_ (fun v0F v1F v2F hF => ?_) (sub (by decide) hS)
    | refine State.markAnswer_keeps ?_ (sub (by decide) hS) | refine State.openTracker_keeps ?_ (sub (by decide) hS)
    | refine KeepsBut.ite (fun _ => ?_) (fun _ => ?_) | split | dsimp -proj only

end Sys2Proof.Machine
end

