-- ==== Sys2Proof/Laws/FrameEngineOps.lean ====
section
/-! SUPPORT. The frame of each operation of Machine/EngineOps.lean: the parts of the state that it may change, and no others. -/

set_option Elab.async false

namespace Sys2Proof.Machine
open Sys2Proof

set_option maxRecDepth 4000
set_option linter.all false

theorem State.updDesc_keeps {ps : List Area} {s0 s : State} {d : Desc} {f : Desc → Desc} (hK : KeepsBut ps s0 s) (hS :
    [.coach] ⊆ ps) : KeepsBut ps s0 (@State.updDesc s d f) := by
  unfold State.updDesc
  with_reducible repeat' first
    | assumption | refine State.setDesc_keeps ?_ (sub (by decide) hS) | split | dsimp -proj only

theorem State.useLine_keeps {ps : List Area} {s0 s : State} {d : Desc} {place : Nat} {write : Bool} (hK : KeepsBut ps
    s0 s) (hS : [.coach] ⊆ ps) : KeepsBut ps s0 (@State.useLine s d place write) := by
  unfold State.useLine
  with_reducible repeat' first
    | assumption | refine State.updDesc_keeps ?_ (sub (by decide) hS) | dsimp -proj only

theorem State.coachEnter_keeps {ps : List Area} {s0 s : State} {kind : HomeReq} {owner : Nat} {d : Desc} {place pa key
    dom : Nat} {data : Line} (hK : KeepsBut ps s0 s) (hS : [.coh, .ctrs] ⊆ ps) : KeepsBut ps s0 (@State.coachEnter s
    kind owner d place pa key dom data).1 := by
  unfold State.coachEnter
  with_reducible repeat' first
    | assumption | refine State.openTracker_keeps ?_ (sub (by decide) hS)
    | refine KeepsBut.ite1 (fun _ => ?_) (fun _ => ?_) | split | dsimp -proj only

theorem State.atHub_keeps {ps : List Area} {s0 s : State} {key : Nat} {k : State → State × LineRes} (hK : KeepsBut ps
    s0 s) (hk : ∀ (v0 : State), KeepsBut ps s0 v0 → KeepsBut ps s0 (k v0).1) (hS : [.ctrs] ⊆ ps) : KeepsBut ps s0
    (@State.atHub s key k).1 := by
  unfold State.atHub
  with_reducible repeat' first
    | assumption | apply hk | refine State.bump_keeps ?_ (sub (by decide) hS)
    | refine KeepsBut.ite1 (fun _ => ?_) (fun _ => ?_) | split | dsimp -proj only

theorem State.coachRead_keeps {ps : List Area} {s0 s : State} {owner : Nat} {d : Desc} {place pa key : Nat} {err :
    Err} (hK : KeepsBut ps s0 s) (hS : [.coh, .coach, .mem, .twin, .evs, .ctrs, .fresh] ⊆ ps) : KeepsBut ps s0
    (@State.coachRead s owner d place pa key err).1 := by
  unfold State.coachRead
  with_reducible repeat' first
    | assumption | refine State.useLine_keeps ?_ (sub (by decide) hS)
    | refine State.coachEnter_keeps ?_ (sub (by decide) hS)
    | refine State.atHub_keeps ?_ (fun v0F hF => ?_) (sub (by decide) hS)
    | refine State.readLine_keeps ?_ (sub (by decide) hS) | refine KeepsBut.ite1 (fun _ => ?_) (fun _ => ?_) | split
    | refine KeepsBut.ite1 (fun _ => ?_) (fun _ => ?_) | dsimp -proj only | refine KeepsBut.of_pair ?_ (by assumption)

theorem State.reduceScales_keeps {ps : List Area} {s0 s : State} {owner : Nat} {d : Desc} {lines : List (Nat × Nat)}
    {per j : Nat} (hK : KeepsBut ps s0 s) (hS : [.coh, .coach, .mem, .twin, .evs, .ctrs, .fresh] ⊆ ps) : KeepsBut ps
    s0 (@State.reduceScales s owner d lines per j).1 := by
  unfold State.reduceScales
  with_reducible repeat' first
    | assumption | refine State.coachRead_keeps ?_ (sub (by decide) hS)
    | refine KeepsBut.ite1 (fun _ => ?_) (fun _ => ?_) | split | refine KeepsBut.ite1 (fun _ => ?_) (fun _ => ?_)
    | dsimp -proj only | refine KeepsBut.of_pair ?_ (by assumption)

theorem State.reduceLine_keeps {ps : List Area} {s0 s : State} {owner : Nat} {d : Desc} {l : Line} {scales : List
    Byte} {pos : Nat} (hK : KeepsBut ps s0 s) (hS : [.fab, .coach, .stock, .mem, .twin, .evs, .ctrs, .fresh] ⊆ ps) :
    KeepsBut ps s0 (@State.reduceLine s owner d l scales pos).1 := by
  unfold State.reduceLine
  with_reducible repeat' first
    | assumption | refine State.bump_keeps ?_ (sub (by decide) hS)
    | refine State.countOpenWait_keeps ?_ (sub (by decide) hS) | refine State.updDesc_keeps ?_ (sub (by decide) hS)
    | refine State.takeLine_keeps ?_ (sub (by decide) hS) | refine KeepsBut.ite1 (fun _ => ?_) (fun _ => ?_) | split
    | refine KeepsBut.ite1 (fun _ => ?_) (fun _ => ?_) | dsimp -proj only | refine KeepsBut.of_pair ?_ (by assumption)

theorem State.keepLine_keeps {ps : List Area} {s0 s : State} {d : Desc} {place : Nat} {data : Line} (hK : KeepsBut ps
    s0 s) (hS : [.coach] ⊆ ps) : KeepsBut ps s0 (@State.keepLine s d place data) := by
  unfold State.keepLine
  with_reducible repeat' first
    | assumption | refine State.updDesc_keeps ?_ (sub (by decide) hS) | dsimp -proj only

theorem State.reduceStep_keeps {ps : List Area} {s0 s : State} {owner : Nat} {d : Desc} {all : List (Nat × Nat)}
    {p : Nat × Nat} {err : Err} {pos : Nat} (hK : KeepsBut ps s0 s) (hS : [.fab, .coh, .coach, .stock, .mem, .twin, .evs, .ctrs, .fresh] ⊆ ps) :
    KeepsBut ps s0 (s.reduceStep owner d all p err pos).1 := by
  have h1 := State.coachRead_keeps (owner := owner) (d := d) (place := pos) (pa := p.1) (key := p.2) (err := err) hK
    (sub (by decide) hS)
  have h2 := fun (t : State) (h : KeepsBut ps s0 t) => State.reduceScales_keeps (owner := owner) (d := d) (lines := all)
    (per := (s.buf d.redBuf).runsPerLine) (j := pos) h (sub (by decide) hS)
  have h3 := fun (t : State) (l : Line) (b : List Byte) (h : KeepsBut ps s0 t) =>
    State.reduceLine_keeps (owner := owner) (d := d) (l := l) (scales := b) (pos := pos) h (sub (by decide) hS)
  have h4 := fun (t : State) (n : Nat) (l : Line) (h : KeepsBut ps s0 t) =>
    State.keepLine_keeps (d := d) (place := n) (data := l) h (sub (by decide) hS)
  unfold State.reduceStep
  dsimp only
  rcases e : s.coachRead owner d pos p.1 p.2 err with ⟨t, r⟩
  have g1 : KeepsBut ps s0 t := KeepsBut.of_pair h1 e
  cases r with
  | wait => exact g1
  | fail c => exact g1
  | data l =>
    dsimp only
    rcases e2 : t.reduceScales owner d all (s.buf d.redBuf).runsPerLine pos with ⟨u, r2⟩
    have g2 : KeepsBut ps s0 u := KeepsBut.of_pair (h2 _ g1) e2
    cases r2 with
    | wait => exact h4 _ _ _ g2
    | fail c => exact g2
    | data sc =>
      dsimp only
      rcases e3 : u.reduceLine owner d l (((lineBytes sc).drop ((s.buf d.redBuf).runsPerLine * pos % 64)).take
        (s.buf d.redBuf).runsPerLine) pos with ⟨w, r3⟩
      have g3 : KeepsBut ps s0 w := KeepsBut.of_pair (h3 _ _ _ g2) e3
      cases r3 with
      | wait => exact h4 _ _ _ (h4 _ _ _ g3)
      | fail c => exact g3
      | data v =>
        dsimp only
        with_reducible exact KeepsBut.ite (fun _ => h4 _ _ _ g3) (fun _ => g3)

theorem State.readSome_keeps {ps : List Area} {s0 s : State} {owner : Nat} {d : Desc} {l : List (Nat × Nat)}
    {pos n : Nat} (hK : KeepsBut ps s0 s) (hS : [.coh, .coach, .mem, .twin, .evs, .ctrs, .fresh] ⊆ ps) :
    KeepsBut ps s0 (State.readSome s owner d l pos n).1 := by
  induction n generalizing s l pos with
  | zero =>
    cases l <;> rw [State.readSome] <;> exact hK
  | succ n ih =>
    cases l with
    | nil =>
      rw [State.readSome]
      with_reducible exact KeepsBut.ite1 (fun _ => ih (l := []) hK) (fun _ => hK)
    | cons p ps' =>
      have h1 := State.coachRead_keeps (owner := owner) (d := d) (place := pos) (pa := p.1) (key := p.2) (err := []) hK
        (sub (by decide) hS)
      rw [State.readSome]
      split
      · next s' l' e => exact ih (KeepsBut.of_pair h1 e)
      · next s' r' _ e => exact KeepsBut.of_pair h1 e

theorem State.countMoved_keeps {ps : List Area} {s0 s : State} {ring rd wr : Nat} (hK : KeepsBut ps s0 s) (hS :
    [.ctrs] ⊆ ps) : KeepsBut ps s0 (@State.countMoved s ring rd wr) := by
  unfold State.countMoved
  with_reducible repeat' first
    | assumption | refine State.bump_keeps ?_ (sub (by decide) hS) | dsimp -proj only

theorem State.countReduced_keeps {ps : List Area} {s0 s : State} {d : Desc} {pos : Nat} (hK : KeepsBut ps s0 s) (hS :
    [.ctrs] ⊆ ps) : KeepsBut ps s0 (@State.countReduced s d pos) := by
  unfold State.countReduced
  with_reducible repeat' first
    | assumption | refine State.countMoved_keeps ?_ (sub (by decide) hS)
    | refine KeepsBut.ite (fun _ => ?_) (fun _ => ?_) | split | dsimp -proj only

theorem State.reduceLines_keeps {ps : List Area} {s0 s : State} {owner : Nat} {d : Desc} {all : List (Nat × Nat)}
    {errAt : Option Nat} {err : Err} {y6 : List (Nat × Nat)} {y7 : Nat} (hK : KeepsBut ps s0 s) (hS : [.fab, .coh,
    .coach, .stock, .mem, .twin, .evs, .ctrs, .fresh] ⊆ ps) : KeepsBut ps s0 (@State.reduceLines s owner d all errAt
    err y6 y7).1 := by
  unfold State.reduceLines
  with_reducible repeat' first
    | assumption | refine State.reduceStep_keeps ?_ (sub (by decide) hS)
    | refine State.countReduced_keeps ?_ (sub (by decide) hS) | refine State.reduceLines_keeps ?_ (sub (by decide) hS)
    | split | refine KeepsBut.ite1 (fun _ => ?_) (fun _ => ?_) | dsimp -proj only
    | refine KeepsBut.of_pair ?_ (by assumption)

theorem State.coachSend_keeps {ps : List Area} {s0 s : State} {owner engine : Nat} {d : Desc} {y4 : Nat} (hK :
    KeepsBut ps s0 s) (hS : [.fab, .coh, .coach, .mem, .twin, .evs, .ctrs, .fresh] ⊆ ps) : KeepsBut ps s0
    (@State.coachSend s owner engine d y4).1 := by
  unfold State.coachSend
  with_reducible repeat' first
    | assumption | refine State.readSome_keeps ?_ (sub (by decide) hS)
    | refine State.countMoved_keeps ?_ (sub (by decide) hS) | refine State.send_keeps ?_ (sub (by decide) hS)
    | refine State.coachSend_keeps ?_ (sub (by decide) hS) | refine KeepsBut.ite1 (fun _ => ?_) (fun _ => ?_) | split
    | refine KeepsBut.ite1 (fun _ => ?_) (fun _ => ?_) | dsimp -proj only | refine KeepsBut.of_pair ?_ (by assumption)

theorem State.coachWrite_keeps {ps : List Area} {s0 s : State} {owner : Nat} {d : Desc} {place pa key : Nat} {data :
    Line} (hK : KeepsBut ps s0 s) (hS : [.coh, .coach, .mem, .twin, .evs, .ctrs, .fresh] ⊆ ps) : KeepsBut ps s0
    (@State.coachWrite s owner d place pa key data).1 := by
  unfold State.coachWrite
  with_reducible repeat' first
    | assumption | refine State.useLine_keeps ?_ (sub (by decide) hS)
    | refine State.coachEnter_keeps ?_ (sub (by decide) hS) | refine State.bump_keeps ?_ (sub (by decide) hS)
    | refine State.updDesc_keeps ?_ (sub (by decide) hS)
    | refine State.atHub_keeps ?_ (fun v0F hF => ?_) (sub (by decide) hS)
    | refine State.writeLine_keeps ?_ (sub (by decide) hS) | refine KeepsBut.ite1 (fun _ => ?_) (fun _ => ?_) | split
    | refine KeepsBut.ite1 (fun _ => ?_) (fun _ => ?_) | dsimp -proj only | refine KeepsBut.of_pair ?_ (by assumption)

theorem State.moveLines_keeps {ps : List Area} {s0 s : State} {owner : Nat} {d : Desc} {errAt : Option Nat} {err :
    Err} {y5 : List (Option (Nat × Nat) × Nat × Nat)} {y6 : Nat} (hK : KeepsBut ps s0 s) (hS : [.coh, .coach, .mem,
    .twin, .evs, .ctrs, .fresh] ⊆ ps) : KeepsBut ps s0 (@State.moveLines s owner d errAt err y5 y6).1 := by
  unfold State.moveLines
  with_reducible repeat' first
    | assumption | refine State.coachRead_keeps ?_ (sub (by decide) hS)
    | refine State.coachWrite_keeps ?_ (sub (by decide) hS) | refine State.keepLine_keeps ?_ (sub (by decide) hS)
    | refine State.countMoved_keeps ?_ (sub (by decide) hS) | refine State.moveLines_keeps ?_ (sub (by decide) hS)
    | refine KeepsBut.ite1 (fun _ => ?_) (fun _ => ?_) | split | refine KeepsBut.ite1 (fun _ => ?_) (fun _ => ?_)
    | dsimp -proj only | refine KeepsBut.of_pair ?_ (by assumption)

theorem State.coachOutput_keeps {ps : List Area} {s0 s : State} {d : Desc} (hK : KeepsBut ps s0 s) (hS : [.fab, .coh,
    .coach, .mem, .twin, .evs, .ctrs, .fresh] ⊆ ps) : KeepsBut ps s0 (@State.coachOutput s d) := by
  unfold State.coachOutput
  with_reducible repeat' first
    | assumption | refine State.coachSend_keeps ?_ (sub (by decide) hS)
    | refine State.setDesc_keeps ?_ (sub (by decide) hS) | split | refine KeepsBut.ite1 (fun _ => ?_) (fun _ => ?_)
    | dsimp -proj only | refine KeepsBut.of_pair ?_ (by assumption)

end Sys2Proof.Machine
end

