-- ==== Sys2Proof/Laws/FrameCoach.lean ====
section
/-! SUPPORT. The frame of each operation of Machine/Coach.lean: the parts of the state that it may change, and no others. -/

set_option Elab.async false

namespace Sys2Proof.Machine
open Sys2Proof

set_option maxRecDepth 4000
set_option linter.all false

theorem ringArmAct_keeps {ps : List Area} {s0 : State} {v : Via} {a : RingArgs} {s : State} (hK : KeepsBut ps s0 s)
    (hS : [.fab, .coach, .mem, .twin, .sec, .rsl, .evs, .ctrs, .fresh] ⊆ ps) : KeepsBut ps s0 (@ringArmAct v a s) :=
    by
  unfold ringArmAct
  with_reducible repeat' first
    | assumption | refine State.coachCpl_keeps ?_ (sub (by decide) hS)
    | refine State.countAccessFail_keeps ?_ (sub (by decide) hS) | refine State.readPool_keeps ?_ (sub (by decide) hS)
    | refine State.writeLine1_keeps ?_ (sub (by decide) hS) | refine State.setRing_keeps ?_ (sub (by decide) hS)
    | refine KeepsBut.ite (fun _ => ?_) (fun _ => ?_) | split | refine KeepsBut.ite1 (fun _ => ?_) (fun _ => ?_)
    | dsimp -proj only | refine KeepsBut.of_pair ?_ (by assumption)

theorem execRingArm_keeps {ps : List Area} {s0 : State} {v : Via} {a : RingArgs} {s : State} (hK : KeepsBut ps s0 s)
    (hS : [.fab, .coach, .mem, .twin, .sec, .rsl, .evs, .ctrs, .fresh] ⊆ ps) : KeepsOut ps s0 (@execRingArm v a s) :=
    by
  unfold execRingArm
  with_reducible repeat' first
    | assumption | refine KeepsOut.next ?_ | refine State.coachCpl_keeps ?_ (sub (by decide) hS)
    | refine State.classThree_keeps ?_ (fun v0F v1F v2F hF => ?_) (fun v0F hF => ?_) (sub (by decide) hS)
    | refine ringArmAct_keeps ?_ (sub (by decide) hS) | dsimp -proj only

theorem execEngineDispatch_keeps {ps : List Area} {s0 : State} {engine : Nat} {s : State} (hK : KeepsBut ps s0 s) (hS
    : [.fab, .coh, .coach, .mem, .twin, .evs, .ctrs, .fresh] ⊆ ps) : KeepsOut ps s0 (@execEngineDispatch engine s) :=
    by
  unfold execEngineDispatch
  with_reducible repeat' first
    | assumption | refine KeepsOut.next ?_ | refine State.setDesc_keeps ?_ (sub (by decide) hS)
    | refine State.coachOutput_keeps ?_ (sub (by decide) hS) | refine KeepsBut.ite (fun _ => ?_) (fun _ => ?_) | split
    | dsimp -proj only | refine upd_coach ?_ (sub (by decide) hS)

theorem State.releaseFault_keeps {ps : List Area} {s0 s : State} {f : Nat} (hK : KeepsBut ps s0 s) (hS : [.coach,
    .twin] ⊆ ps) : KeepsBut ps s0 (@State.releaseFault s f) := by
  unfold State.releaseFault
  with_reducible repeat' first
    | assumption | refine State.setFrec_keeps ?_ (sub (by decide) hS) | dsimp -proj only

theorem execFaultQuery_keeps {ps : List Area} {s0 : State} {c : RslCmd} {fid : Nat} {s : State} (hK : KeepsBut ps s0
    s) (hS : [.twin, .rsl, .ctrs] ⊆ ps) : KeepsOut ps s0 (@execFaultQuery c fid s) := by
  unfold execFaultQuery
  with_reducible repeat' first
    | assumption | refine KeepsOut.next ?_ | refine State.rslGate_keeps ?_ (fun v0F hF => ?_) (sub (by decide) hS)
    | refine State.rslAnswer_keeps ?_ (sub (by decide) hS) | refine KeepsBut.ite (fun _ => ?_) (fun _ => ?_) | split
    | dsimp -proj only

theorem State.runDone_keeps {ps : List Area} {s0 s : State} {d : Desc} {code pos : Nat} (hK : KeepsBut ps s0 s) (hS :
    [.fab, .coach, .mem, .twin, .sec, .rsl, .evs, .ctrs, .fresh] ⊆ ps) : KeepsBut ps s0 (@State.runDone s d code pos)
    := by
  unfold State.runDone
  with_reducible repeat' first
    | assumption | refine State.settle_keeps ?_ (sub (by decide) hS)
    | refine State.descDone_keeps ?_ (sub (by decide) hS) | dsimp -proj only

theorem execDescriptorComplete_keeps {ps : List Area} {s0 : State} {ring index : Nat} {errAt : Option Nat} {err : Err}
    {s : State} (hK : KeepsBut ps s0 s) (hS : [.fab, .coh, .coach, .stock, .mem, .twin, .sec, .rsl, .evs, .ctrs,
    .fresh] ⊆ ps) : KeepsOut ps s0 (@execDescriptorComplete ring index errAt err s) := by
  unfold execDescriptorComplete
  with_reducible repeat' first
    | assumption | refine KeepsOut.next ?_ | refine State.hubsRefuse_keeps ?_ (sub (by decide) hS)
    | refine State.runDone_keeps ?_ (sub (by decide) hS) | refine State.coachOutput_keeps ?_ (sub (by decide) hS)
    | refine State.reduceLines_keeps ?_ (sub (by decide) hS) | refine State.moveLines_keeps ?_ (sub (by decide) hS)
    | refine State.updDesc_keeps ?_ (sub (by decide) hS) | refine KeepsBut.ite (fun _ => ?_) (fun _ => ?_) | split
    | refine KeepsBut.ite1 (fun _ => ?_) (fun _ => ?_) | dsimp -proj only | refine KeepsBut.of_pair ?_ (by assumption)

theorem ringStopAct_keeps {ps : List Area} {s0 : State} {v : Via} {ring mode : Nat} {s : State} (hK : KeepsBut ps s0
    s) (hS : [.fab, .coach, .mem, .twin, .sec, .rsl, .evs, .ctrs, .fresh] ⊆ ps) : KeepsBut ps s0 (@ringStopAct v ring
    mode s) := by
  unfold ringStopAct
  with_reducible repeat' first
    | assumption | refine State.coachCpl_keeps ?_ (sub (by decide) hS)
    | refine State.setRing_keeps ?_ (sub (by decide) hS) | refine State.stopRing_keeps ?_ (sub (by decide) hS)
    | refine State.settle_keeps ?_ (sub (by decide) hS) | refine KeepsBut.ite (fun _ => ?_) (fun _ => ?_) | split
    | dsimp -proj only

theorem State.retryDesc_keeps {ps : List Area} {s0 s : State} {d : Desc} (hK : KeepsBut ps s0 s) (hS : [.coach, .mem,
    .twin, .evs, .ctrs, .fresh] ⊆ ps) : KeepsBut ps s0 (@State.retryDesc s d) := by
  unfold State.retryDesc
  with_reducible repeat' first
    | assumption | refine State.resumeRing_keeps ?_ (sub (by decide) hS)
    | refine State.setDesc_keeps ?_ (sub (by decide) hS) | dsimp -proj only

theorem execRingQuery_keeps {ps : List Area} {s0 : State} {c : RslCmd} {ring : Nat} {s : State} (hK : KeepsBut ps s0
    s) (hS : [.twin, .rsl, .ctrs] ⊆ ps) : KeepsOut ps s0 (@execRingQuery c ring s) := by
  unfold execRingQuery
  with_reducible repeat' first
    | assumption | refine KeepsOut.next ?_ | refine State.rslGate_keeps ?_ (fun v0F hF => ?_) (sub (by decide) hS)
    | refine State.rslAnswer_keeps ?_ (sub (by decide) hS) | refine KeepsBut.ite (fun _ => ?_) (fun _ => ?_) | split
    | dsimp -proj only

theorem faultResolveAct_keeps {ps : List Area} {s0 : State} {v : Via} {fid gen action resv : Nat} {s : State} (hK :
    KeepsBut ps s0 s) (hS : [.fab, .coach, .mem, .twin, .sec, .rsl, .evs, .ctrs, .fresh] ⊆ ps) : KeepsBut ps s0
    (@faultResolveAct v fid gen action resv s) := by
  unfold faultResolveAct
  with_reducible repeat' first
    | assumption | refine State.coachCpl_keeps ?_ (sub (by decide) hS)
    | refine State.retryDesc_keeps ?_ (sub (by decide) hS) | refine State.descDone_keeps ?_ (sub (by decide) hS)
    | refine State.releaseFault_keeps ?_ (sub (by decide) hS) | refine State.settle_keeps ?_ (sub (by decide) hS)
    | refine KeepsBut.foldl ?_ (fun sF xF hF => ?_) | refine KeepsBut.foldl1 ?_ (fun sF xF hF => ?_)
    | refine KeepsBut.ite (fun _ => ?_) (fun _ => ?_) | split | dsimp -proj only
    | refine KeepsBut.of_pair ?_ (by assumption)

theorem execFaultResolve_keeps {ps : List Area} {s0 : State} {v : Via} {fid gen action resv : Nat} {s : State} (hK :
    KeepsBut ps s0 s) (hS : [.fab, .coach, .mem, .twin, .sec, .rsl, .evs, .ctrs, .fresh] ⊆ ps) : KeepsOut ps s0
    (@execFaultResolve v fid gen action resv s) := by
  unfold execFaultResolve
  with_reducible repeat' first
    | assumption | refine KeepsOut.next ?_ | refine State.coachCpl_keeps ?_ (sub (by decide) hS)
    | refine State.classThree_keeps ?_ (fun v0F v1F v2F hF => ?_) (fun v0F hF => ?_) (sub (by decide) hS)
    | refine faultResolveAct_keeps ?_ (sub (by decide) hS) | dsimp -proj only

theorem execCoachAck_keeps {ps : List Area} {s0 : State} {h : ReqHdr} {s : State} (hK : KeepsBut ps s0 s) (hS : [.fab,
    .coh, .coach, .mem, .twin, .evs, .ctrs, .fresh] ⊆ ps) : KeepsOut ps s0 (@execCoachAck h s) := by
  unfold execCoachAck
  with_reducible repeat' first
    | assumption | refine KeepsOut.next ?_ | refine State.answerIn_keeps ?_ (fun v0F hF => ?_) (sub (by decide) hS)
    | refine State.journalOut_keeps ?_ (sub (by decide) hS) | refine State.bump_keeps ?_ (sub (by decide) hS)
    | refine State.coachOutput_keeps ?_ (sub (by decide) hS) | refine State.setDesc_keeps ?_ (sub (by decide) hS)
    | refine KeepsBut.ite (fun _ => ?_) (fun _ => ?_) | split | dsimp -proj only

theorem execWalkDone_keeps {ps : List Area} {s0 : State} {ring index : Nat} {err : Err} {s : State} (hK : KeepsBut ps
    s0 s) (hS : [.fab, .coach, .mem, .twin, .sec, .rsl, .evs, .ctrs, .fresh] ⊆ ps) : KeepsOut ps s0 (@execWalkDone
    ring index err s) := by
  unfold execWalkDone
  with_reducible repeat' first
    | assumption | refine KeepsOut.next ?_ | refine State.hubsRefuse_keeps ?_ (sub (by decide) hS)
    | refine State.settle_keeps ?_ (sub (by decide) hS) | refine State.endDesc_keeps ?_ (sub (by decide) hS)
    | refine State.walkDesc_keeps ?_ (sub (by decide) hS) | refine State.setDesc_keeps ?_ (sub (by decide) hS)
    | refine State.submissionFault_keeps ?_ (sub (by decide) hS) | refine KeepsBut.ite (fun _ => ?_) (fun _ => ?_)
    | split | refine KeepsBut.ite1 (fun _ => ?_) (fun _ => ?_) | dsimp -proj only
    | refine KeepsBut.of_pair ?_ (by assumption) | refine upd_coach ?_ (sub (by decide) hS)

theorem execInvalidate_keeps {ps : List Area} {s0 : State} {c : RslCmd} {tenant scope src len s1Root : Nat} {s :
    State} (hK : KeepsBut ps s0 s) (hS : [.fab, .coach, .mem, .twin, .sec, .rsl, .evs, .ctrs, .fresh] ⊆ ps) : KeepsOut
    ps s0 (@execInvalidate c tenant scope src len s1Root s) := by
  unfold execInvalidate
  with_reducible repeat' first
    | assumption | refine KeepsOut.next ?_ | refine State.rslGate_keeps ?_ (fun v0F hF => ?_) (sub (by decide) hS)
    | refine State.rslAnswer_keeps ?_ (sub (by decide) hS) | refine State.invalidateAct_keeps ?_ (sub (by decide) hS)
    | refine KeepsBut.ite (fun _ => ?_) (fun _ => ?_) | split | dsimp -proj only

theorem execRingStop_keeps {ps : List Area} {s0 : State} {v : Via} {ring mode : Nat} {s : State} (hK : KeepsBut ps s0
    s) (hS : [.fab, .coach, .mem, .twin, .sec, .rsl, .evs, .ctrs, .fresh] ⊆ ps) : KeepsOut ps s0 (@execRingStop v ring
    mode s) := by
  unfold execRingStop
  with_reducible repeat' first
    | assumption | refine KeepsOut.next ?_ | refine State.coachCpl_keeps ?_ (sub (by decide) hS)
    | refine State.classThree_keeps ?_ (fun v0F v1F v2F hF => ?_) (fun v0F hF => ?_) (sub (by decide) hS)
    | refine ringStopAct_keeps ?_ (sub (by decide) hS) | dsimp -proj only

theorem execFaultRecordExpiry_keeps {ps : List Area} {s0 : State} {fid : Nat} {s : State} (hK : KeepsBut ps s0 s) (hS
    : [.coach, .twin] ⊆ ps) : KeepsOut ps s0 (@execFaultRecordExpiry fid s) := by
  unfold execFaultRecordExpiry
  with_reducible repeat' first
    | assumption | refine KeepsOut.next ?_ | refine State.releaseFault_keeps ?_ (sub (by decide) hS)
    | refine KeepsBut.ite (fun _ => ?_) (fun _ => ?_) | split | dsimp -proj only

end Sys2Proof.Machine
end

