-- ==== Sys2Proof/Laws/FrameStockpot.lean ====
section
/-! SUPPORT. The frame of each operation of Machine/Stockpot.lean: the parts of the state that it may change, and no others. -/

set_option Elab.async false

namespace Sys2Proof.Machine
open Sys2Proof

set_option maxRecDepth 4000
set_option linter.all false

theorem State.wipeAcc_keeps {ps : List Area} {s0 s : State} {x : Buf} (hK : KeepsBut ps s0 s) (hS : [.mem, .twin] ⊆
    ps) : KeepsBut ps s0 (@State.wipeAcc s x) := by
  unfold State.wipeAcc
  with_reducible repeat' first
    | assumption | refine State.wipePages_keeps ?_ (sub (by decide) hS)
    | refine KeepsBut.foldl ?_ (fun sF xF hF => ?_) | refine KeepsBut.foldl1 ?_ (fun sF xF hF => ?_)
    | refine KeepsBut.ite (fun _ => ?_) (fun _ => ?_) | split | dsimp -proj only
    | refine KeepsBut.of_pair ?_ (by assumption)

theorem redOpenAct_keeps {ps : List Area} {s0 : State} {v : Via} {a : RedArgs} {s : State} (hK : KeepsBut ps s0 s) (hS
    : [.fab, .stock, .mem, .twin, .sec, .rsl, .ctrs] ⊆ ps) : KeepsBut ps s0 (@redOpenAct v a s) := by
  unfold redOpenAct
  with_reducible repeat' first
    | assumption | refine State.redCpl_keeps ?_ (sub (by decide) hS) | refine State.bump_keeps ?_ (sub (by decide) hS)
    | refine State.setBuf_keeps ?_ (sub (by decide) hS) | refine State.wipeAcc_keeps ?_ (sub (by decide) hS)
    | refine KeepsBut.ite (fun _ => ?_) (fun _ => ?_) | split | refine KeepsBut.ite1 (fun _ => ?_) (fun _ => ?_)
    | dsimp -proj only

theorem execRedOpen_keeps {ps : List Area} {s0 : State} {v : Via} {a : RedArgs} {s : State} (hK : KeepsBut ps s0 s)
    (hS : [.fab, .stock, .mem, .twin, .sec, .rsl, .ctrs] ⊆ ps) : KeepsOut ps s0 (@execRedOpen v a s) := by
  unfold execRedOpen
  with_reducible repeat' first
    | assumption | refine KeepsOut.next ?_ | refine State.redCpl_keeps ?_ (sub (by decide) hS)
    | refine State.classThree_keeps ?_ (fun v0F v1F v2F hF => ?_) (fun v0F hF => ?_) (sub (by decide) hS)
    | refine redOpenAct_keeps ?_ (sub (by decide) hS) | dsimp -proj only

theorem State.redNamed_keeps {ps : List Area} {s0 s : State} {v : Via} {cmd buf : Nat} {resv : Bool} {right : Buf →
    Bool} {k : Buf → State} (hK : KeepsBut ps s0 s) (hk : ∀ (v0 : Buf), KeepsBut ps s0 (k v0)) (hS : [.fab, .twin,
    .sec, .rsl, .ctrs] ⊆ ps) : KeepsBut ps s0 (@State.redNamed s v cmd buf resv right k) := by
  unfold State.redNamed
  with_reducible repeat' first
    | assumption | apply hk | refine State.redCpl_keeps ?_ (sub (by decide) hS)
    | refine KeepsBut.ite (fun _ => ?_) (fun _ => ?_) | split | dsimp -proj only

theorem execRedClose_keeps {ps : List Area} {s0 : State} {v : Via} {buf : Nat} {s : State} (hK : KeepsBut ps s0 s) (hS
    : [.fab, .stock, .twin, .sec, .rsl, .ctrs] ⊆ ps) : KeepsOut ps s0 (@execRedClose v buf s) := by
  unfold execRedClose
  with_reducible repeat' first
    | assumption | refine KeepsOut.next ?_ | refine State.redCpl_keeps ?_ (sub (by decide) hS)
    | refine State.classThree_keeps ?_ (fun v0F v1F v2F hF => ?_) (fun v0F hF => ?_) (sub (by decide) hS)
    | refine State.redNamed_keeps ?_ (fun v0F => ?_) (sub (by decide) hS)
    | refine State.closeDone_keeps ?_ (sub (by decide) hS) | refine State.setBuf_keeps ?_ (sub (by decide) hS)
    | dsimp -proj only

theorem redWrAct_keeps {ps : List Area} {s0 : State} {h : ReqHdr} {addr contrib : Nat} {scales : List Byte} {lines :
    List Line} {s : State} (hK : KeepsBut ps s0 s) (hS : [.fab, .stock, .ctrs] ⊆ ps) : KeepsBut ps s0 (@redWrAct h
    addr contrib scales lines s) := by
  unfold redWrAct
  with_reducible repeat' first
    | assumption | refine State.redAck_keeps ?_ (sub (by decide) hS) | refine State.bump_keeps ?_ (sub (by decide) hS)
    | refine KeepsBut.ite (fun _ => ?_) (fun _ => ?_) | split | refine KeepsBut.ite1 (fun _ => ?_) (fun _ => ?_)
    | dsimp -proj only | refine upd_stock ?_ (sub (by decide) hS)

theorem State.dropJobs_keeps {ps : List Area} {s0 s : State} {b code : Nat} (hK : KeepsBut ps s0 s) (hS : [.fab,
    .stock, .ctrs] ⊆ ps) : KeepsBut ps s0 (@State.dropJobs s b code) := by
  unfold State.dropJobs
  with_reducible repeat' first
    | assumption | refine State.redAck_keeps ?_ (sub (by decide) hS) | refine KeepsBut.foldl ?_ (fun sF xF hF => ?_)
    | refine KeepsBut.foldl1 ?_ (fun sF xF hF => ?_) | dsimp -proj only | refine KeepsBut.of_pair ?_ (by assumption)
    | refine upd_stock ?_ (sub (by decide) hS)

theorem redResetAct_keeps {ps : List Area} {s0 : State} {v : Via} {buf seed resv : Nat} {s : State} (hK : KeepsBut ps
    s0 s) (hS : [.fab, .stock, .mem, .twin, .sec, .rsl, .ctrs] ⊆ ps) : KeepsBut ps s0 (@redResetAct v buf seed resv s)
    := by
  unfold redResetAct
  with_reducible repeat' first
    | assumption | refine State.redNamed_keeps ?_ (fun v0F => ?_) (sub (by decide) hS)
    | refine State.redCpl_keeps ?_ (sub (by decide) hS) | refine State.dropJobs_keeps ?_ (sub (by decide) hS)
    | refine State.setBuf_keeps ?_ (sub (by decide) hS) | refine State.wipeAcc_keeps ?_ (sub (by decide) hS)
    | refine KeepsBut.ite (fun _ => ?_) (fun _ => ?_) | split | dsimp -proj only
    | refine upd_stock ?_ (sub (by decide) hS)

theorem execRedReset_keeps {ps : List Area} {s0 : State} {v : Via} {buf seed resv : Nat} {s : State} (hK : KeepsBut ps
    s0 s) (hS : [.fab, .stock, .mem, .twin, .sec, .rsl, .ctrs] ⊆ ps) : KeepsOut ps s0 (@execRedReset v buf seed resv
    s) := by
  unfold execRedReset
  with_reducible repeat' first
    | assumption | refine KeepsOut.next ?_ | refine State.redCpl_keeps ?_ (sub (by decide) hS)
    | refine State.classThree_keeps ?_ (fun v0F v1F v2F hF => ?_) (fun v0F hF => ?_) (sub (by decide) hS)
    | refine redResetAct_keeps ?_ (sub (by decide) hS) | dsimp -proj only

theorem execRedWr_keeps {ps : List Area} {s0 : State} {h : ReqHdr} {addr contrib resv : Nat} {scales : List Byte}
    {lines : List Line} {s : State} (hK : KeepsBut ps s0 s) (hS : [.fab, .stock, .twin, .ctrs] ⊆ ps) : KeepsOut ps s0
    (@execRedWr h addr contrib resv scales lines s) := by
  unfold execRedWr
  with_reducible repeat' first
    | assumption | refine KeepsOut.next ?_ | refine State.redAck_keeps ?_ (sub (by decide) hS)
    | refine State.arrive_keeps ?_ (fun v0F v1F v2F hF => ?_) (fun v0F hF => ?_) (sub (by decide) hS)
    | refine State.countRecorded_keeps ?_ (sub (by decide) hS)
    | refine State.colander_keeps ?_ (fun v0F v1F v2F hF => ?_) (fun v0F hF => ?_) (sub (by decide) hS)
    | refine State.countAccessFail_keeps ?_ (sub (by decide) hS) | refine redWrAct_keeps ?_ (sub (by decide) hS)
    | refine KeepsBut.ite (fun _ => ?_) (fun _ => ?_) | split | dsimp -proj only

theorem State.updJob_keeps {ps : List Area} {s0 s : State} {jidx : Nat} {f : RedJob → RedJob} (hK : KeepsBut ps s0 s)
    (hS : [.stock] ⊆ ps) : KeepsBut ps s0 (@State.updJob s jidx f) := by
  unfold State.updJob
  with_reducible repeat' first
    | assumption | dsimp -proj only | refine upd_stock ?_ (sub (by decide) hS)

theorem execRedLineCombine_keeps {ps : List Area} {s0 : State} {jidx : Nat} {err : Err} {s : State} (hK : KeepsBut ps
    s0 s) (hS : [.fab, .stock, .mem, .twin, .sec, .rsl, .evs, .ctrs, .fresh] ⊆ ps) : KeepsOut ps s0
    (@execRedLineCombine jidx err s) := by
  unfold execRedLineCombine
  with_reducible repeat' first
    | assumption | refine KeepsOut.next ?_ | refine State.hubsRefuse_keeps ?_ (sub (by decide) hS)
    | refine State.updJob_keeps ?_ (sub (by decide) hS) | refine State.countOpenWait_keeps ?_ (sub (by decide) hS)
    | refine State.takeLine_keeps ?_ (sub (by decide) hS) | refine State.closeDone_keeps ?_ (sub (by decide) hS)
    | refine State.redAck_keeps ?_ (sub (by decide) hS) | refine KeepsBut.ite (fun _ => ?_) (fun _ => ?_) | split
    | refine KeepsBut.ite1 (fun _ => ?_) (fun _ => ?_) | dsimp -proj only | refine KeepsBut.of_pair ?_ (by assumption)
    | refine upd_stock ?_ (sub (by decide) hS)

theorem execRedQuery_keeps {ps : List Area} {s0 : State} {v : Via} {buf : Nat} {s : State} (hK : KeepsBut ps s0 s) (hS
    : [.fab, .twin, .sec, .rsl, .ctrs] ⊆ ps) : KeepsOut ps s0 (@execRedQuery v buf s) := by
  unfold execRedQuery
  with_reducible repeat' first
    | assumption | refine KeepsOut.next ?_ | refine State.redCpl_keeps ?_ (sub (by decide) hS)
    | refine State.classThree_keeps ?_ (fun v0F v1F v2F hF => ?_) (fun v0F hF => ?_) (sub (by decide) hS)
    | refine State.redNamed_keeps ?_ (fun v0F => ?_) (sub (by decide) hS)
    | refine KeepsBut.ite (fun _ => ?_) (fun _ => ?_) | split | dsimp -proj only

end Sys2Proof.Machine
end

