-- ==== Sys2Proof/Laws/FrameRepro.lean ====
section
/-! SUPPORT. The frame of each operation of Machine/Repro.lean: the parts of the state that it may change, and no others. -/

set_option Elab.async false

namespace Sys2Proof.Machine
open Sys2Proof

set_option maxRecDepth 4000
set_option linter.all false

theorem execBarrierTimeout_keeps {ps : List Area} {s0 : State} {bar : Nat} {s : State} (hK : KeepsBut ps s0 s) (hS :
    [.fab, .repro, .twin, .sec, .rsl, .ctrs] ⊆ ps) : KeepsOut ps s0 (@execBarrierTimeout bar s) := by
  unfold execBarrierTimeout
  with_reducible repeat' first
    | assumption | refine KeepsOut.next ?_ | refine State.endBarrier_keeps ?_ (sub (by decide) hS)
    | refine KeepsBut.ite (fun _ => ?_) (fun _ => ?_) | split | dsimp -proj only

theorem State.launchFire_keeps {ps : List Area} {s0 s : State} {ring : Nat} (hK : KeepsBut ps s0 s) (hS : [.fab,
    .coach, .twin, .sec, .rsl, .ctrs] ⊆ ps) : KeepsBut ps s0 (@State.launchFire s ring) := by
  unfold State.launchFire
  with_reducible repeat' first
    | assumption | refine State.cancelLaunch_keeps ?_ (sub (by decide) hS)
    | refine State.logChange_keeps ?_ (sub (by decide) hS) | refine State.setRing_keeps ?_ (sub (by decide) hS)
    | refine State.reproCpl_keeps ?_ (sub (by decide) hS) | refine KeepsBut.ite (fun _ => ?_) (fun _ => ?_) | split
    | dsimp -proj only

theorem State.fireLaunches_keeps {ps : List Area} {s0 s : State} (hK : KeepsBut ps s0 s) (hS : [.fab, .coach, .twin,
    .sec, .rsl, .ctrs] ⊆ ps) : KeepsBut ps s0 (@State.fireLaunches s) := by
  unfold State.fireLaunches
  with_reducible repeat' first
    | assumption | refine State.launchFire_keeps ?_ (sub (by decide) hS)
    | refine KeepsBut.foldl ?_ (fun sF xF hF => ?_) | refine KeepsBut.foldl1 ?_ (fun sF xF hF => ?_)
    | refine KeepsBut.ite1 (fun _ => ?_) (fun _ => ?_) | dsimp -proj only | refine KeepsBut.of_pair ?_ (by assumption)

theorem State.setBarrier_keeps {ps : List Area} {s0 s : State} {b : Nat} {x : Barrier} (hK : KeepsBut ps s0 s) (hS :
    [.repro, .twin] ⊆ ps) : KeepsBut ps s0 (@State.setBarrier s b x) := by
  unfold State.setBarrier
  with_reducible repeat' first
    | assumption | refine State.logChange_keeps ?_ (sub (by decide) hS) | dsimp -proj only
    | refine upd_repro ?_ (sub (by decide) hS)

theorem barrierAct_keeps {ps : List Area} {s0 : State} {v : Via} {bar count lead resv : Nat} {s : State} (hK :
    KeepsBut ps s0 s) (hS : [.fab, .repro, .twin, .sec, .rsl, .ctrs] ⊆ ps) : KeepsBut ps s0 (@barrierAct v bar count
    lead resv s) := by
  unfold barrierAct
  with_reducible repeat' first
    | assumption | refine State.reproCpl_keeps ?_ (sub (by decide) hS)
    | refine State.setBarrier_keeps ?_ (sub (by decide) hS) | refine State.endBarrier_keeps ?_ (sub (by decide) hS)
    | refine KeepsBut.ite (fun _ => ?_) (fun _ => ?_) | split | refine KeepsBut.ite1 (fun _ => ?_) (fun _ => ?_)
    | dsimp -proj only

theorem State.endBarriers_keeps {ps : List Area} {s0 s : State} (hK : KeepsBut ps s0 s) (hS : [.fab, .repro, .twin,
    .sec, .rsl, .ctrs] ⊆ ps) : KeepsBut ps s0 (@State.endBarriers s) := by
  unfold State.endBarriers
  with_reducible repeat' first
    | assumption | refine State.endBarrier_keeps ?_ (sub (by decide) hS)
    | refine KeepsBut.foldl ?_ (fun sF xF hF => ?_) | refine KeepsBut.foldl1 ?_ (fun sF xF hF => ?_)
    | refine KeepsBut.ite1 (fun _ => ?_) (fun _ => ?_) | dsimp -proj only | refine KeepsBut.of_pair ?_ (by assumption)

theorem State.pairedOwed_keeps {ps : List Area} {s0 s : State} {owed : List Owed} (hK : KeepsBut ps s0 s) (hS :
    [.twin, .rsl, .ctrs] ⊆ ps) : KeepsBut ps s0 (@State.pairedOwed s owed) := by
  unfold State.pairedOwed
  with_reducible repeat' first
    | assumption | refine State.rslDone_keeps ?_ (sub (by decide) hS) | refine KeepsBut.foldl ?_ (fun sF xF hF => ?_)
    | refine KeepsBut.foldl1 ?_ (fun sF xF hF => ?_) | split | dsimp -proj only
    | refine KeepsBut.of_pair ?_ (by assumption)

theorem execPairedEntryDone_keeps {ps : List Area} {s0 s : State} (hK : KeepsBut ps s0 s) (hS : [.repro, .twin, .rsl,
    .evs, .ctrs] ⊆ ps) : KeepsOut ps s0 (@execPairedEntryDone s) := by
  unfold execPairedEntryDone
  with_reducible repeat' first
    | assumption | refine KeepsOut.next ?_ | refine State.pairedOwed_keeps ?_ (sub (by decide) hS)
    | refine State.raise_keeps ?_ (sub (by decide) hS) | refine KeepsBut.ite (fun _ => ?_) (fun _ => ?_) | split
    | dsimp -proj only | refine upd_repro_twin ?_ (sub (by decide) hS)

theorem execBarrier_keeps {ps : List Area} {s0 : State} {v : Via} {bar count lead resv : Nat} {s : State} (hK :
    KeepsBut ps s0 s) (hS : [.fab, .repro, .twin, .sec, .rsl, .ctrs] ⊆ ps) : KeepsOut ps s0 (@execBarrier v bar count
    lead resv s) := by
  unfold execBarrier
  with_reducible repeat' first
    | assumption | refine KeepsOut.next ?_ | refine State.reproCpl_keeps ?_ (sub (by decide) hS)
    | refine State.classThree_keeps ?_ (fun v0F v1F v2F hF => ?_) (fun v0F hF => ?_) (sub (by decide) hS)
    | refine barrierAct_keeps ?_ (sub (by decide) hS) | dsimp -proj only

theorem pairedCheckAct_keeps {ps : List Area} {s0 : State} {c : RslCmd} {on : Nat} {s : State} (hK : KeepsBut ps s0 s)
    (hS : [.repro, .twin, .rsl, .ctrs] ⊆ ps) : KeepsBut ps s0 (@pairedCheckAct c on s) := by
  unfold pairedCheckAct
  with_reducible repeat' first
    | assumption | refine State.rslAnswer_keeps ?_ (sub (by decide) hS)
    | refine KeepsBut.ite (fun _ => ?_) (fun _ => ?_) | split | dsimp -proj only
    | refine upd_repro ?_ (sub (by decide) hS)

theorem execPairedMismatch_keeps {ps : List Area} {s0 : State} {unit : Nat} {s : State} (hK : KeepsBut ps s0 s) (hS :
    [.tok, .fab, .evs, .ctrs] ⊆ ps) : KeepsOut ps s0 (@execPairedMismatch unit s) := by
  unfold execPairedMismatch
  with_reducible repeat' first
    | assumption | refine KeepsOut.next ?_ | refine State.poolFatal_keeps ?_ (sub (by decide) hS)
    | refine State.raise_keeps ?_ (sub (by decide) hS) | refine KeepsBut.ite (fun _ => ?_) (fun _ => ?_) | split
    | dsimp -proj only

theorem execPairedCheck_keeps {ps : List Area} {s0 : State} {c : RslCmd} {on : Nat} {s : State} (hK : KeepsBut ps s0
    s) (hS : [.repro, .twin, .rsl, .ctrs] ⊆ ps) : KeepsOut ps s0 (@execPairedCheck c on s) := by
  unfold execPairedCheck
  with_reducible repeat' first
    | assumption | refine KeepsOut.next ?_ | refine State.rslGate_keeps ?_ (fun v0F hF => ?_) (sub (by decide) hS)
    | refine pairedCheckAct_keeps ?_ (sub (by decide) hS) | dsimp -proj only

theorem launchAct_keeps {ps : List Area} {s0 : State} {v : Via} {ring epoch resv : Nat} {s : State} (hK : KeepsBut ps
    s0 s) (hS : [.fab, .coach, .twin, .sec, .rsl, .ctrs] ⊆ ps) : KeepsBut ps s0 (@launchAct v ring epoch resv s) := by
  unfold launchAct
  with_reducible repeat' first
    | assumption | refine State.reproCpl_keeps ?_ (sub (by decide) hS)
    | refine State.logChange_keeps ?_ (sub (by decide) hS) | refine State.setRing_keeps ?_ (sub (by decide) hS)
    | refine KeepsBut.ite (fun _ => ?_) (fun _ => ?_) | split | dsimp -proj only

theorem execLaunch_keeps {ps : List Area} {s0 : State} {v : Via} {ring epoch resv : Nat} {s : State} (hK : KeepsBut ps
    s0 s) (hS : [.fab, .coach, .twin, .sec, .rsl, .ctrs] ⊆ ps) : KeepsOut ps s0 (@execLaunch v ring epoch resv s) :=
    by
  unfold execLaunch
  with_reducible repeat' first
    | assumption | refine KeepsOut.next ?_ | refine State.reproCpl_keeps ?_ (sub (by decide) hS)
    | refine State.classThree_keeps ?_ (fun v0F v1F v2F hF => ?_) (fun v0F hF => ?_) (sub (by decide) hS)
    | refine launchAct_keeps ?_ (sub (by decide) hS) | dsimp -proj only

theorem execLaunchFire_keeps {ps : List Area} {s0 : State} {ring : Nat} {s : State} (hK : KeepsBut ps s0 s) (hS :
    [.fab, .coach, .twin, .sec, .rsl, .ctrs] ⊆ ps) : KeepsOut ps s0 (@execLaunchFire ring s) := by
  unfold execLaunchFire
  with_reducible repeat' first
    | assumption | refine KeepsOut.next ?_ | refine State.launchFire_keeps ?_ (sub (by decide) hS) | dsimp -proj only

theorem State.cancelLaunches_keeps {ps : List Area} {s0 s : State} (hK : KeepsBut ps s0 s) (hS : [.fab, .coach, .twin,
    .sec, .rsl, .ctrs] ⊆ ps) : KeepsBut ps s0 (@State.cancelLaunches s) := by
  unfold State.cancelLaunches
  with_reducible repeat' first
    | assumption | refine State.cancelLaunch_keeps ?_ (sub (by decide) hS)
    | refine KeepsBut.foldl ?_ (fun sF xF hF => ?_) | refine KeepsBut.foldl1 ?_ (fun sF xF hF => ?_)
    | refine KeepsBut.ite1 (fun _ => ?_) (fun _ => ?_) | dsimp -proj only | refine KeepsBut.of_pair ?_ (by assumption)

theorem State.pairedExit_keeps {ps : List Area} {s0 s : State} (hK : KeepsBut ps s0 s) (hS : [.repro, .twin, .rsl,
    .ctrs] ⊆ ps) : KeepsBut ps s0 (@State.pairedExit s) := by
  unfold State.pairedExit
  with_reducible repeat' first
    | assumption | refine State.pairedOwed_keeps ?_ (sub (by decide) hS)
    | refine KeepsBut.ite (fun _ => ?_) (fun _ => ?_) | split | dsimp -proj only
    | refine upd_repro_twin ?_ (sub (by decide) hS)

end Sys2Proof.Machine
end

