-- ==== Sys2Proof/Laws/FramePublish.lean ====
section
/-! SUPPORT. The frame of each operation of Machine/Publish.lean: the parts of the state that it may change, and no others. -/

set_option Elab.async false

namespace Sys2Proof.Machine
open Sys2Proof

set_option maxRecDepth 4000
set_option linter.all false

theorem State.markFanOut_keeps {ps : List Area} {s0 s : State} {n : Nat} (hK : KeepsBut ps s0 s) (hS : [.fab] ⊆ ps) :
    KeepsBut ps s0 (@State.markFanOut s n) := by
  unfold State.markFanOut
  with_reducible repeat' first
    | assumption | dsimp -proj only | refine upd_fab ?_ (sub (by decide) hS)

theorem State.applyPublish_keeps {ps : List Area} {s0 s : State} {p : PubHeld} (hK : KeepsBut ps s0 s) (hS : [.fab,
    .pool, .coach, .stock, .repro, .mem, .twin, .sec, .rsl, .evs, .ctrs, .fresh] ⊆ ps) : KeepsBut ps s0
    (@State.applyPublish s p) := by
  unfold State.applyPublish
  with_reducible repeat' first
    | assumption | refine State.dropGrant_keeps ?_ (sub (by decide) hS)
    | refine State.setExt_keeps ?_ (sub (by decide) hS) | refine State.setRegion_keeps ?_ (sub (by decide) hS)
    | refine State.bump_keeps ?_ (sub (by decide) hS) | refine State.trimRegion_keeps ?_ (sub (by decide) hS)
    | refine State.release_keeps ?_ (sub (by decide) hS) | refine State.markFanOut_keeps ?_ (sub (by decide) hS)
    | refine State.orderMask_keeps ?_ (sub (by decide) hS) | refine KeepsBut.foldl ?_ (fun sF xF hF => ?_)
    | refine KeepsBut.foldl1 ?_ (fun sF xF hF => ?_) | split | dsimp -proj only
    | refine KeepsBut.of_pair ?_ (by assumption)

theorem State.judge_keeps {ps : List Area} {s0 s : State} {p : PubHeld} (hK : KeepsBut ps s0 s) (hS : [.fab, .pool,
    .coach, .stock, .repro, .mem, .twin, .sec, .rsl, .evs, .ctrs, .fresh] ⊆ ps) : KeepsBut ps s0 (@State.judge s p) :=
    by
  unfold State.judge
  with_reducible repeat' first
    | assumption | refine State.pubCpl_keeps ?_ (sub (by decide) hS) | refine State.bump_keeps ?_ (sub (by decide) hS)
    | refine State.applyPublish_keeps ?_ (sub (by decide) hS) | refine KeepsBut.ite (fun _ => ?_) (fun _ => ?_)
    | split | dsimp -proj only

theorem State.publishJudge_keeps {ps : List Area} {s0 s : State} (hK : KeepsBut ps s0 s) (hS : [.fab, .pool, .coach,
    .stock, .repro, .mem, .twin, .sec, .rsl, .evs, .ctrs, .fresh] ⊆ ps) : KeepsBut ps s0 (@State.publishJudge s) := by
  unfold State.publishJudge
  with_reducible repeat' first
    | assumption | refine State.judge_keeps ?_ (sub (by decide) hS) | refine KeepsBut.foldl ?_ (fun sF xF hF => ?_)
    | refine KeepsBut.foldl1 ?_ (fun sF xF hF => ?_) | dsimp -proj only | refine KeepsBut.of_pair ?_ (by assumption)
    | refine upd_repro ?_ (sub (by decide) hS)

theorem execPublishJudge_keeps {ps : List Area} {s0 s : State} (hK : KeepsBut ps s0 s) (hS : [.fab, .pool, .coach,
    .stock, .repro, .mem, .twin, .sec, .rsl, .evs, .ctrs, .fresh] ⊆ ps) : KeepsOut ps s0 (@execPublishJudge s) := by
  unfold execPublishJudge
  with_reducible repeat' first
    | assumption | refine KeepsOut.next ?_ | refine State.publishJudge_keeps ?_ (sub (by decide) hS)
    | refine KeepsBut.ite (fun _ => ?_) (fun _ => ?_) | split | dsimp -proj only

theorem pubMapAct_keeps {ps : List Area} {s0 : State} {v : Via} {region : Nat} {x : Region} {s : State} (hK : KeepsBut
    ps s0 s) (hS : [.fab, .pool, .repro, .twin, .sec, .rsl, .ctrs] ⊆ ps) : KeepsBut ps s0 (@pubMapAct v region x s) :=
    by
  unfold pubMapAct
  with_reducible repeat' first
    | assumption | refine State.pubCpl_keeps ?_ (sub (by decide) hS)
    | refine State.makeGrant_keeps ?_ (sub (by decide) hS) | refine State.setRegion_keeps ?_ (sub (by decide) hS)
    | refine State.orderMask_keeps ?_ (sub (by decide) hS) | refine State.bump_keeps ?_ (sub (by decide) hS)
    | refine KeepsBut.ite (fun _ => ?_) (fun _ => ?_) | split | dsimp -proj only

theorem State.pubCommand_keeps {ps : List Area} {s0 s : State} {v : Via} {cmd : Nat} {k : State → State} (hK :
    KeepsBut ps s0 s) (hk : ∀ (v0 : State), KeepsBut ps s0 v0 → KeepsBut ps s0 (k v0)) (hS : [.fab, .twin, .sec, .rsl,
    .ctrs] ⊆ ps) : KeepsBut ps s0 (@State.pubCommand s v cmd k) := by
  unfold State.pubCommand
  with_reducible repeat' first
    | assumption | apply hk | refine State.pubCpl_keeps ?_ (sub (by decide) hS)
    | refine State.classThree_keeps ?_ (fun v0F v1F v2F hF => ?_) (fun v0F hF => ?_) (sub (by decide) hS)
    | refine State.poolGuard_keeps ?_ (fun v0F v1F v2F hF => ?_) (fun v0F hF => ?_) (sub (by decide) hS)
    | refine KeepsBut.ite (fun _ => ?_) (fun _ => ?_) | split | dsimp -proj only

theorem execPubCreate_keeps {ps : List Area} {s0 : State} {v : Via} {sealed : Nat} {s : State} (hK : KeepsBut ps s0 s)
    (hS : [.fab, .repro, .twin, .sec, .rsl, .ctrs] ⊆ ps) : KeepsOut ps s0 (@execPubCreate v sealed s) := by
  unfold execPubCreate
  with_reducible repeat' first
    | assumption | refine KeepsOut.next ?_ | refine State.pubCommand_keeps ?_ (fun v0F hF => ?_) (sub (by decide) hS)
    | refine State.pubCpl_keeps ?_ (sub (by decide) hS) | refine State.setRegion_keeps ?_ (sub (by decide) hS)
    | refine KeepsBut.ite (fun _ => ?_) (fun _ => ?_) | split | refine KeepsBut.ite1 (fun _ => ?_) (fun _ => ?_)
    | dsimp -proj only

theorem State.regionNamed_keeps {ps : List Area} {s0 s : State} {v : Via} {cmd region : Nat} {bad deletingToo : Bool}
    {k : Region → State} (hK : KeepsBut ps s0 s) (hk : ∀ (v0 : Region), KeepsBut ps s0 (k v0)) (hS : [.fab, .twin,
    .sec, .rsl, .ctrs] ⊆ ps) : KeepsBut ps s0 (@State.regionNamed s v cmd region bad deletingToo k) := by
  unfold State.regionNamed
  with_reducible repeat' first
    | assumption | apply hk | refine State.pubCpl_keeps ?_ (sub (by decide) hS)
    | refine KeepsBut.ite (fun _ => ?_) (fun _ => ?_) | split | dsimp -proj only

theorem execPubDelete_keeps {ps : List Area} {s0 : State} {v : Via} {region : Nat} {s : State} (hK : KeepsBut ps s0 s)
    (hS : [.fab, .pool, .coach, .stock, .repro, .mem, .twin, .sec, .rsl, .evs, .ctrs, .fresh] ⊆ ps) : KeepsOut ps s0
    (@execPubDelete v region s) := by
  unfold execPubDelete
  with_reducible repeat' first
    | assumption | refine KeepsOut.next ?_ | refine State.pubCommand_keeps ?_ (fun v0F hF => ?_) (sub (by decide) hS)
    | refine State.regionNamed_keeps ?_ (fun v0F => ?_) (sub (by decide) hS)
    | refine State.deleteRegion_keeps ?_ (sub (by decide) hS) | dsimp -proj only

theorem publishAct_keeps {ps : List Area} {s0 : State} {v : Via} {region expected src : Nat} {x : Region} {s : State}
    (hK : KeepsBut ps s0 s) (hS : [.fab, .repro, .twin, .sec, .rsl, .ctrs] ⊆ ps) : KeepsBut ps s0 (@publishAct v
    region expected src x s) := by
  unfold publishAct
  with_reducible repeat' first
    | assumption | refine State.pubCpl_keeps ?_ (sub (by decide) hS) | refine State.bump_keeps ?_ (sub (by decide) hS)
    | refine KeepsBut.ite (fun _ => ?_) (fun _ => ?_) | split | dsimp -proj only
    | refine upd_repro ?_ (sub (by decide) hS)

theorem execPublish_keeps {ps : List Area} {s0 : State} {v : Via} {region expected srcExt resv : Nat} {s : State} (hK
    : KeepsBut ps s0 s) (hS : [.fab, .repro, .twin, .sec, .rsl, .ctrs] ⊆ ps) : KeepsOut ps s0 (@execPublish v region
    expected srcExt resv s) := by
  unfold execPublish
  with_reducible repeat' first
    | assumption | refine KeepsOut.next ?_ | refine State.pubCommand_keeps ?_ (fun v0F hF => ?_) (sub (by decide) hS)
    | refine State.regionNamed_keeps ?_ (fun v0F => ?_) (sub (by decide) hS)
    | refine publishAct_keeps ?_ (sub (by decide) hS) | dsimp -proj only

theorem execPubQuery_keeps {ps : List Area} {s0 : State} {v : Via} {region : Nat} {s : State} (hK : KeepsBut ps s0 s)
    (hS : [.fab, .twin, .sec, .rsl, .ctrs] ⊆ ps) : KeepsOut ps s0 (@execPubQuery v region s) := by
  unfold execPubQuery
  with_reducible repeat' first
    | assumption | refine KeepsOut.next ?_ | refine State.pubCommand_keeps ?_ (fun v0F hF => ?_) (sub (by decide) hS)
    | refine State.regionNamed_keeps ?_ (fun v0F => ?_) (sub (by decide) hS)
    | refine State.release_keeps ?_ (sub (by decide) hS) | refine KeepsBut.ite (fun _ => ?_) (fun _ => ?_) | split
    | dsimp -proj only

theorem execPubMap_keeps {ps : List Area} {s0 : State} {v : Via} {region : Nat} {s : State} (hK : KeepsBut ps s0 s)
    (hS : [.fab, .pool, .repro, .twin, .sec, .rsl, .ctrs] ⊆ ps) : KeepsOut ps s0 (@execPubMap v region s) := by
  unfold execPubMap
  with_reducible repeat' first
    | assumption | refine KeepsOut.next ?_ | refine State.pubCommand_keeps ?_ (fun v0F hF => ?_) (sub (by decide) hS)
    | refine State.regionNamed_keeps ?_ (fun v0F => ?_) (sub (by decide) hS)
    | refine pubMapAct_keeps ?_ (sub (by decide) hS) | dsimp -proj only

theorem execPubRelease_keeps {ps : List Area} {s0 : State} {v : Via} {region version : Nat} {s : State} (hK : KeepsBut
    ps s0 s) (hS : [.fab, .pool, .coach, .stock, .repro, .mem, .twin, .sec, .rsl, .evs, .ctrs, .fresh] ⊆ ps) :
    KeepsOut ps s0 (@execPubRelease v region version s) := by
  unfold execPubRelease
  with_reducible repeat' first
    | assumption | refine KeepsOut.next ?_ | refine State.pubCommand_keeps ?_ (fun v0F hF => ?_) (sub (by decide) hS)
    | refine State.regionNamed_keeps ?_ (fun v0F => ?_) (sub (by decide) hS)
    | refine State.unmap_keeps ?_ (sub (by decide) hS) | dsimp -proj only

end Sys2Proof.Machine
end

