-- ==== Sys2Proof/Laws/FrameIntegrity.lean ====
section
/-! SUPPORT. The frame of each operation of Machine/Integrity.lean: the parts of the state that it may change, and no others. -/

set_option Elab.async false

namespace Sys2Proof.Machine
open Sys2Proof

set_option maxRecDepth 4000
set_option linter.all false

theorem execOpenSweepDone_keeps {ps : List Area} {s0 : State} {ppn : Nat} {s : State} (hK : KeepsBut ps s0 s) (hS :
    [.mem, .twin] ⊆ ps) : KeepsOut ps s0 (@execOpenSweepDone ppn s) := by
  unfold execOpenSweepDone
  with_reducible repeat' first
    | assumption | refine KeepsOut.next ?_ | refine State.logChange_keeps ?_ (sub (by decide) hS)
    | refine KeepsBut.ite (fun _ => ?_) (fun _ => ?_) | split | dsimp -proj only
    | refine upd_mem ?_ (sub (by decide) hS)

theorem State.passEnds_keeps {ps : List Area} {s0 s : State} {n : Nat} (hK : KeepsBut ps s0 s) (hS : [.mem, .ctrs] ⊆
    ps) : KeepsBut ps s0 (@State.passEnds s n) := by
  unfold State.passEnds
  with_reducible repeat' first
    | assumption | refine State.bump_keeps ?_ (sub (by decide) hS)
    | refine State.setChannel_keeps ?_ (sub (by decide) hS) | refine KeepsBut.ite (fun _ => ?_) (fun _ => ?_)

theorem execStackOvfHalve_keeps {ps : List Area} {s0 s : State} (hK : KeepsBut ps s0 s) (hS : [.mem] ⊆ ps) : KeepsOut
    ps s0 (@execStackOvfHalve s) := by
  unfold execStackOvfHalve
  with_reducible repeat' first
    | assumption | refine KeepsOut.next ?_ | refine KeepsBut.ite (fun _ => ?_) (fun _ => ?_) | split
    | dsimp -proj only | refine upd_mem ?_ (sub (by decide) hS)

theorem State.rowError_keeps {ps : List Area} {s0 s : State} {die array row : Nat} (hK : KeepsBut ps s0 s) (hS :
    [.mem] ⊆ ps) : KeepsBut ps s0 (@State.rowError s die array row) := by
  unfold State.rowError
  with_reducible repeat' first
    | assumption | refine KeepsBut.ite (fun _ => ?_) (fun _ => ?_) | split | dsimp -proj only
    | refine upd_mem ?_ (sub (by decide) hS)

theorem State.logKeyCe_keeps {ps : List Area} {s0 s : State} {row : Nat} (hK : KeepsBut ps s0 s) (hS : [.mem, .twin,
    .evs, .ctrs, .fresh] ⊆ ps) : KeepsBut ps s0 (@State.logKeyCe s row) := by
  unfold State.logKeyCe
  with_reducible repeat' first
    | assumption | refine State.logCe_keeps ?_ (sub (by decide) hS) | dsimp -proj only
    | refine upd_fresh ?_ (sub (by decide) hS)

theorem execSramCorrectable_keeps {ps : List Area} {s0 : State} {die array row : Nat} {s : State} (hK : KeepsBut ps s0
    s) (hS : [.mem, .twin, .evs, .ctrs, .fresh] ⊆ ps) : KeepsOut ps s0 (@execSramCorrectable die array row s) := by
  unfold execSramCorrectable
  with_reducible repeat' first
    | assumption | refine KeepsOut.next ?_ | refine KeepsBut.ite (fun _ => ?_) (fun _ => ?_)
    | refine State.rowError_keeps ?_ (sub (by decide) hS) | refine State.logKeyCe_keeps ?_ (sub (by decide) hS)

theorem State.rememberCe_keeps {ps : List Area} {s0 s : State} {hub key sym : Nat} (hK : KeepsBut ps s0 s) (hS :
    [.mem] ⊆ ps) : KeepsBut ps s0 (@State.rememberCe s hub key sym) := by
  unfold State.rememberCe
  with_reducible repeat' first
    | assumption | refine KeepsBut.ite1 (fun _ => ?_) (fun _ => ?_) | dsimp -proj only
    | refine upd_mem ?_ (sub (by decide) hS)

theorem State.wipeStack_keeps {ps : List Area} {s0 s : State} {n : Nat} (hK : KeepsBut ps s0 s) (hS : [.pool, .mem] ⊆
    ps) : KeepsBut ps s0 (@State.wipeStack s n) := by
  unfold State.wipeStack
  with_reducible repeat' first
    | assumption | refine KeepsBut.ite1 (fun _ => ?_) (fun _ => ?_) | dsimp -proj only
    | refine upd_pool_mem ?_ (sub (by decide) hS)

theorem State.poisonPage_keeps {ps : List Area} {s0 s : State} {ppn : Nat} (hK : KeepsBut ps s0 s) (hS : [.mem] ⊆ ps)
    : KeepsBut ps s0 (@State.poisonPage s ppn) := by
  unfold State.poisonPage
  with_reducible repeat' first
    | assumption | refine State.setMeta_keeps ?_ (sub (by decide) hS) | refine KeepsBut.foldl ?_ (fun sF xF hF => ?_)
    | refine KeepsBut.foldl1 ?_ (fun sF xF hF => ?_) | dsimp -proj only | refine KeepsBut.of_pair ?_ (by assumption)

theorem execStackResetDone_keeps {ps : List Area} {s0 : State} {stack : Nat} {pass : Bool} {s : State} (hK : KeepsBut
    ps s0 s) (hS : [.boot, .pool, .mem, .twin, .rsl, .ctrs] ⊆ ps) : KeepsOut ps s0 (@execStackResetDone stack pass s)
    := by
  unfold execStackResetDone
  with_reducible repeat' first
    | assumption | refine KeepsOut.next ?_ | refine State.setStack_keeps ?_ (sub (by decide) hS)
    | refine State.wipeStack_keeps ?_ (sub (by decide) hS) | refine State.poisonPage_keeps ?_ (sub (by decide) hS)
    | refine State.rslDone_keeps ?_ (sub (by decide) hS) | refine KeepsBut.foldl ?_ (fun sF xF hF => ?_)
    | refine KeepsBut.foldl1 ?_ (fun sF xF hF => ?_) | refine KeepsBut.ite (fun _ => ?_) (fun _ => ?_) | split
    | dsimp -proj only | refine KeepsBut.of_pair ?_ (by assumption) | refine upd_boot ?_ (sub (by decide) hS)

theorem State.switchPage_keeps {ps : List Area} {s0 s : State} {ppn : Nat} {mv : Move} (hK : KeepsBut ps s0 s) (hS :
    [.mem, .evs, .ctrs] ⊆ ps) : KeepsBut ps s0 (@State.switchPage s ppn mv) := by
  unfold State.switchPage
  with_reducible repeat' first
    | assumption | refine State.bump_keeps ?_ (sub (by decide) hS) | refine State.raise_keeps ?_ (sub (by decide) hS)
    | refine KeepsBut.ite (fun _ => ?_) (fun _ => ?_) | split | dsimp -proj only
    | refine upd_mem ?_ (sub (by decide) hS)

theorem State.settleMigration_keeps {ps : List Area} {s0 s : State} (hK : KeepsBut ps s0 s) (hS : [.mem, .evs, .ctrs]
    ⊆ ps) : KeepsBut ps s0 (@State.settleMigration s) := by
  unfold State.settleMigration
  with_reducible repeat' first
    | assumption | refine State.raise_keeps ?_ (sub (by decide) hS)
    | refine State.setStack_keeps ?_ (sub (by decide) hS) | split | dsimp -proj only

theorem State.remapSwitches_keeps {ps : List Area} {s0 s : State} (hK : KeepsBut ps s0 s) (hS : [.mem, .twin, .evs,
    .ctrs] ⊆ ps) : KeepsBut ps s0 (@State.remapSwitches s) := by
  unfold State.remapSwitches
  with_reducible repeat' first
    | assumption | refine State.switchPage_keeps ?_ (sub (by decide) hS)
    | refine State.logChange_keeps ?_ (sub (by decide) hS)
    | refine State.settleMigration_keeps ?_ (sub (by decide) hS) | refine KeepsBut.foldl ?_ (fun sF xF hF => ?_)
    | refine KeepsBut.foldl1 ?_ (fun sF xF hF => ?_) | refine KeepsBut.ite (fun _ => ?_) (fun _ => ?_) | split
    | refine KeepsBut.ite1 (fun _ => ?_) (fun _ => ?_) | dsimp -proj only | refine KeepsBut.of_pair ?_ (by assumption)

theorem execLaneGroupFault_keeps {ps : List Area} {s0 : State} {group : Nat} {s : State} (hK : KeepsBut ps s0 s) (hS :
    [.stock, .evs, .ctrs] ⊆ ps) : KeepsOut ps s0 (@execLaneGroupFault group s) := by
  unfold execLaneGroupFault
  with_reducible repeat' first
    | assumption | refine KeepsOut.next ?_ | refine State.bump_keeps ?_ (sub (by decide) hS)
    | refine State.raise_keeps ?_ (sub (by decide) hS) | refine KeepsBut.ite (fun _ => ?_) (fun _ => ?_) | split
    | dsimp -proj only | refine upd_stock ?_ (sub (by decide) hS)

theorem State.dumpCpl_keeps {ps : List Area} {s0 s : State} {v : Via} {cmd code ext value : Nat} {extra : List Byte}
    (hK : KeepsBut ps s0 s) (hS : [.fab, .twin, .sec, .rsl, .ctrs] ⊆ ps) : KeepsBut ps s0 (@State.dumpCpl s v cmd code
    ext value extra) := by
  unfold State.dumpCpl
  with_reducible repeat' first
    | assumption | refine State.finish_keeps ?_ (sub (by decide) hS) | dsimp -proj only

theorem State.argRefuse_keeps {ps : List Area} {s0 s : State} {v : Via} {f : Nat × Nat} {no : State → Nat → Nat →
    State} (hK : KeepsBut ps s0 s) (hno : ∀ (v0 : State) (v1 : Nat) (v2 : Nat), KeepsBut ps s0 v0 → KeepsBut ps s0 (no
    v0 v1 v2)) (hS : [.ctrs] ⊆ ps) : KeepsBut ps s0 (@State.argRefuse s v f no) := by
  unfold State.argRefuse
  with_reducible repeat' first
    | assumption | apply hno | refine State.countAccessFail_keeps ?_ (sub (by decide) hS)
    | refine KeepsBut.ite (fun _ => ?_) (fun _ => ?_) | split | refine KeepsBut.ite1 (fun _ => ?_) (fun _ => ?_)
    | dsimp -proj only

theorem State.deliver_keeps {ps : List Area} {s0 s : State} {v : Via} {dst : Nat} {bytes : List Byte} {reply : State →
    Nat → Nat → List Byte → State} (hK : KeepsBut ps s0 s) (hreply : ∀ (v0 : State) (v1 : Nat) (v2 : Nat) (v3 : List
    Byte), KeepsBut ps s0 v0 → KeepsBut ps s0 (reply v0 v1 v2 v3)) (hS : [.mem, .twin, .evs, .ctrs, .fresh] ⊆ ps) :
    KeepsBut ps s0 (@State.deliver s v dst bytes reply) := by
  unfold State.deliver
  with_reducible repeat' first
    | assumption | apply hreply | refine State.argRefuse_keeps ?_ (fun v0F v1F v2F hF => ?_) (sub (by decide) hS)
    | refine State.putPool_keeps ?_ (sub (by decide) hS) | refine KeepsBut.ite (fun _ => ?_) (fun _ => ?_) | split
    | dsimp -proj only

theorem accessDumpAct_keeps {ps : List Area} {s0 : State} {v : Via} {ext first count dst : Nat} {s : State} (hK :
    KeepsBut ps s0 s) (hS : [.fab, .mem, .twin, .sec, .rsl, .evs, .ctrs, .fresh] ⊆ ps) : KeepsBut ps s0
    (@accessDumpAct v ext first count dst s) := by
  unfold accessDumpAct
  with_reducible repeat' first
    | assumption | refine State.dumpCpl_keeps ?_ (sub (by decide) hS)
    | refine State.deliver_keeps ?_ (fun v0F v1F v2F v3F hF => ?_) (sub (by decide) hS)
    | refine KeepsBut.ite (fun _ => ?_) (fun _ => ?_) | split | dsimp -proj only

theorem execAccessDump_keeps {ps : List Area} {s0 : State} {v : Via} {ext first count dst : Nat} {s : State} (hK :
    KeepsBut ps s0 s) (hS : [.fab, .mem, .twin, .sec, .rsl, .evs, .ctrs, .fresh] ⊆ ps) : KeepsOut ps s0
    (@execAccessDump v ext first count dst s) := by
  unfold execAccessDump
  with_reducible repeat' first
    | assumption | refine KeepsOut.next ?_ | refine State.dumpCpl_keeps ?_ (sub (by decide) hS)
    | refine State.classThree_keeps ?_ (fun v0F v1F v2F hF => ?_) (fun v0F hF => ?_) (sub (by decide) hS)
    | refine accessDumpAct_keeps ?_ (sub (by decide) hS) | dsimp -proj only

theorem State.copyPage_keeps {ps : List Area} {s0 s : State} {ppn target : Nat} (hK : KeepsBut ps s0 s) (hS : [.mem,
    .twin] ⊆ ps) : KeepsBut ps s0 (@State.copyPage s ppn target) := by
  unfold State.copyPage
  with_reducible repeat' first
    | assumption | refine State.overwritePages_keeps ?_ (sub (by decide) hS)
    | refine State.setMeta_keeps ?_ (sub (by decide) hS) | refine KeepsBut.foldl ?_ (fun sF xF hF => ?_)
    | refine KeepsBut.foldl1 ?_ (fun sF xF hF => ?_) | refine KeepsBut.ite (fun _ => ?_) (fun _ => ?_) | split
    | dsimp -proj only | refine KeepsBut.of_pair ?_ (by assumption) | refine upd_mem ?_ (sub (by decide) hS)

theorem execPageMoveCopyDone_keeps {ps : List Area} {s0 : State} {ppn : Nat} {s : State} (hK : KeepsBut ps s0 s) (hS :
    [.mem, .twin, .evs, .ctrs] ⊆ ps) : KeepsOut ps s0 (@execPageMoveCopyDone ppn s) := by
  unfold execPageMoveCopyDone
  with_reducible repeat' first
    | assumption | refine KeepsOut.next ?_ | refine State.copyPage_keeps ?_ (sub (by decide) hS)
    | refine State.hubsRefuse_keeps ?_ (sub (by decide) hS) | refine State.nextTarget_keeps ?_ (sub (by decide) hS)
    | refine State.markMoving_keeps ?_ (sub (by decide) hS) | refine KeepsBut.of_somep ?_ (by assumption)
    | refine KeepsBut.ite (fun _ => ?_) (fun _ => ?_) | split | dsimp -proj only
    | refine upd_mem ?_ (sub (by decide) hS)

theorem State.judgeLevel_keeps {ps : List Area} {s0 s : State} (hK : KeepsBut ps s0 s) (hS : [.mem, .evs, .ctrs] ⊆ ps)
    : KeepsBut ps s0 (@State.judgeLevel s) := by
  unfold State.judgeLevel
  with_reducible repeat' first
    | assumption | refine State.raise_keeps ?_ (sub (by decide) hS) | refine KeepsBut.ite (fun _ => ?_) (fun _ => ?_)
    | split | dsimp -proj only | refine upd_mem ?_ (sub (by decide) hS)

theorem State.stackDead_keeps {ps : List Area} {s0 s : State} {n : Nat} (hK : KeepsBut ps s0 s) (hS : [.mem, .twin,
    .evs, .ctrs] ⊆ ps) : KeepsBut ps s0 (@State.stackDead s n) := by
  unfold State.stackDead
  with_reducible repeat' first
    | assumption | refine State.setStack_keeps ?_ (sub (by decide) hS)
    | refine State.retirePage_keeps ?_ (sub (by decide) hS) | refine KeepsBut.foldl ?_ (fun sF xF hF => ?_)
    | refine KeepsBut.foldl1 ?_ (fun sF xF hF => ?_) | refine KeepsBut.ite (fun _ => ?_) (fun _ => ?_) | split
    | refine KeepsBut.ite1 (fun _ => ?_) (fun _ => ?_) | dsimp -proj only | refine KeepsBut.of_pair ?_ (by assumption)
    | refine upd_mem ?_ (sub (by decide) hS)

theorem State.retryRetire_keeps {ps : List Area} {s0 s : State} (hK : KeepsBut ps s0 s) (hS : [.mem, .twin, .evs,
    .ctrs] ⊆ ps) : KeepsBut ps s0 (@State.retryRetire s) := by
  unfold State.retryRetire
  with_reducible repeat' first
    | assumption | refine State.retirePage_keeps ?_ (sub (by decide) hS)
    | refine KeepsBut.foldl ?_ (fun sF xF hF => ?_) | refine KeepsBut.foldl1 ?_ (fun sF xF hF => ?_)
    | dsimp -proj only | refine KeepsBut.of_pair ?_ (by assumption) | refine upd_mem ?_ (sub (by decide) hS)

theorem execStackRemove_keeps {ps : List Area} {s0 : State} {c : RslCmd} {stack : Nat} {s : State} (hK : KeepsBut ps
    s0 s) (hS : [.mem, .twin, .rsl, .evs, .ctrs] ⊆ ps) : KeepsOut ps s0 (@execStackRemove c stack s) := by
  unfold execStackRemove
  with_reducible repeat' first
    | assumption | refine KeepsOut.next ?_ | refine State.rslGate_keeps ?_ (fun v0F hF => ?_) (sub (by decide) hS)
    | refine State.rslAnswer_keeps ?_ (sub (by decide) hS) | refine State.startMigration_keeps ?_ (sub (by decide) hS)
    | refine KeepsBut.ite (fun _ => ?_) (fun _ => ?_) | split | dsimp -proj only

theorem execCalibrationSlot_keeps {ps : List Area} {s0 : State} {channel : Nat} {s : State} (hK : KeepsBut ps s0 s)
    (hS : [.mem, .evs, .ctrs] ⊆ ps) : KeepsOut ps s0 (@execCalibrationSlot channel s) := by
  unfold execCalibrationSlot
  with_reducible repeat' first
    | assumption | refine KeepsOut.next ?_ | refine State.setChannel_keeps ?_ (sub (by decide) hS)
    | refine State.raise_keeps ?_ (sub (by decide) hS) | refine KeepsBut.foldl ?_ (fun sF xF hF => ?_)
    | refine KeepsBut.ite (fun _ => ?_) (fun _ => ?_) | split | dsimp -proj only

theorem execLadleOverwriteDone_keeps {ps : List Area} {s0 : State} {ppn : Nat} {s : State} (hK : KeepsBut ps s0 s) (hS
    : [.pool, .mem, .twin] ⊆ ps) : KeepsOut ps s0 (@execLadleOverwriteDone ppn s) := by
  unfold execLadleOverwriteDone
  with_reducible repeat' first
    | assumption | refine KeepsOut.next ?_ | refine State.overwritePages_keeps ?_ (sub (by decide) hS)
    | refine KeepsBut.ite (fun _ => ?_) (fun _ => ?_) | split | dsimp -proj only
    | refine upd_pool ?_ (sub (by decide) hS)

theorem execRdmRefresh_keeps {ps : List Area} {s0 : State} {stack row activations : Nat} {s : State} (hK : KeepsBut ps
    s0 s) (hS : [.ctrs] ⊆ ps) : KeepsOut ps s0 (@execRdmRefresh stack row activations s) := by
  unfold execRdmRefresh
  with_reducible repeat' first
    | assumption | refine KeepsOut.next ?_ | refine State.bump_keeps ?_ (sub (by decide) hS)
    | refine KeepsBut.ite (fun _ => ?_) (fun _ => ?_) | split | dsimp -proj only

theorem execCeBucketLeak_keeps {ps : List Area} {s0 s : State} (hK : KeepsBut ps s0 s) (hS : [.mem] ⊆ ps) : KeepsOut
    ps s0 (@execCeBucketLeak s) := by
  unfold execCeBucketLeak
  with_reducible repeat' first
    | assumption | refine KeepsOut.next ?_ | refine KeepsBut.ite (fun _ => ?_) (fun _ => ?_) | split
    | dsimp -proj only | refine upd_mem ?_ (sub (by decide) hS)

theorem State.spareRows_keeps {ps : List Area} {s0 s : State} (hK : KeepsBut ps s0 s) (hS : [.mem, .evs, .ctrs] ⊆ ps)
    : KeepsBut ps s0 (@State.spareRows s) := by
  unfold State.spareRows
  with_reducible repeat' first
    | assumption | refine State.bump_keeps ?_ (sub (by decide) hS) | refine State.raise_keeps ?_ (sub (by decide) hS)
    | refine KeepsBut.foldl ?_ (fun sF xF hF => ?_) | refine KeepsBut.foldl1 ?_ (fun sF xF hF => ?_)
    | refine KeepsBut.ite (fun _ => ?_) (fun _ => ?_) | split | refine KeepsBut.ite1 (fun _ => ?_) (fun _ => ?_)
    | dsimp -proj only | refine KeepsBut.of_pair ?_ (by assumption) | refine upd_mem ?_ (sub (by decide) hS)

theorem execStackReset_keeps {ps : List Area} {s0 : State} {c : RslCmd} {stack : Nat} {s : State} (hK : KeepsBut ps s0
    s) (hS : [.boot, .twin, .rsl, .ctrs] ⊆ ps) : KeepsOut ps s0 (@execStackReset c stack s) := by
  unfold execStackReset
  with_reducible repeat' first
    | assumption | refine KeepsOut.next ?_ | refine State.rslGate_keeps ?_ (fun v0F hF => ?_) (sub (by decide) hS)
    | refine State.rslAnswer_keeps ?_ (sub (by decide) hS) | refine KeepsBut.ite (fun _ => ?_) (fun _ => ?_) | split
    | dsimp -proj only | refine upd_boot ?_ (sub (by decide) hS)

theorem execStackReturn_keeps {ps : List Area} {s0 : State} {c : RslCmd} {stack : Nat} {s : State} (hK : KeepsBut ps
    s0 s) (hS : [.mem, .twin, .rsl, .evs, .ctrs] ⊆ ps) : KeepsOut ps s0 (@execStackReturn c stack s) := by
  unfold execStackReturn
  with_reducible repeat' first
    | assumption | refine KeepsOut.next ?_ | refine State.rslGate_keeps ?_ (fun v0F hF => ?_) (sub (by decide) hS)
    | refine State.rslAnswer_keeps ?_ (sub (by decide) hS) | refine State.raiseStack_keeps ?_ (sub (by decide) hS)
    | refine State.setStack_keeps ?_ (sub (by decide) hS) | refine KeepsBut.ite (fun _ => ?_) (fun _ => ?_) | split
    | dsimp -proj only

theorem execCeLogRead_keeps {ps : List Area} {s0 : State} {c : RslCmd} {s : State} (hK : KeepsBut ps s0 s) (hS :
    [.mem, .twin, .rsl, .ctrs] ⊆ ps) : KeepsOut ps s0 (@execCeLogRead c s) := by
  unfold execCeLogRead
  with_reducible repeat' first
    | assumption | refine KeepsOut.next ?_ | refine State.rslGate_keeps ?_ (fun v0F hF => ?_) (sub (by decide) hS)
    | refine State.logChange_keeps ?_ (sub (by decide) hS) | refine State.rslAnswer_keeps ?_ (sub (by decide) hS)
    | dsimp -proj only | refine upd_mem ?_ (sub (by decide) hS)

end Sys2Proof.Machine
end

