-- ==== Sys2Proof/Laws/FrameTrafficOps.lean ====
section
/-! SUPPORT. The frame of each operation of Machine/TrafficOps.lean: the parts of the state that it may change, and no others. -/

set_option Elab.async false

namespace Sys2Proof.Machine
open Sys2Proof

set_option maxRecDepth 4000
set_option linter.all false

theorem State.rechoose_keeps {ps : List Area} {s0 s : State} {n kind cls : Nat} (hK : KeepsBut ps s0 s) (hS : [.ports]
    ⊆ ps) : KeepsBut ps s0 (@State.rechoose s n kind cls) := by
  unfold State.rechoose
  with_reducible repeat' first
    | assumption | refine State.setPort_keeps ?_ (sub (by decide) hS) | refine KeepsBut.foldl ?_ (fun sF xF hF => ?_)
    | refine KeepsBut.foldl1 ?_ (fun sF xF hF => ?_) | refine KeepsBut.ite (fun _ => ?_) (fun _ => ?_) | split
    | dsimp -proj only | refine KeepsBut.of_pair ?_ (by assumption)

theorem State.formBurst_keeps {ps : List Area} {s0 s : State} {n kind cls : Nat} (hK : KeepsBut ps s0 s) (hS :
    [.ports, .ctrs] ⊆ ps) : KeepsBut ps s0 (@State.formBurst s n kind cls) := by
  unfold State.formBurst
  with_reducible repeat' first
    | assumption | refine State.rechoose_keeps ?_ (sub (by decide) hS)
    | refine State.setPort_keeps ?_ (sub (by decide) hS) | refine State.bumpPort_keeps ?_ (sub (by decide) hS)
    | refine KeepsBut.ite (fun _ => ?_) (fun _ => ?_) | split | refine KeepsBut.ite1 (fun _ => ?_) (fun _ => ?_)
    | dsimp -proj only

theorem State.judgeThrottle_keeps {ps : List Area} {s0 s : State} {n : Nat} (hK : KeepsBut ps s0 s) (hS : [.ports] ⊆
    ps) : KeepsBut ps s0 (@State.judgeThrottle s n) := by
  unfold State.judgeThrottle
  with_reducible repeat' first
    | assumption | refine State.setPort_keeps ?_ (sub (by decide) hS)
    | refine KeepsBut.ite (fun _ => ?_) (fun _ => ?_) | split | dsimp -proj only

theorem State.startBurst_keeps {ps : List Area} {s0 s : State} {n kind cls off stretch : Nat} (hK : KeepsBut ps s0 s)
    (hS : [.ports, .ctrs] ⊆ ps) : KeepsBut ps s0 (@State.startBurst s n kind cls off stretch) := by
  unfold State.startBurst
  with_reducible repeat' first
    | assumption | refine State.formBurst_keeps ?_ (sub (by decide) hS)
    | refine State.judgeThrottle_keeps ?_ (sub (by decide) hS) | refine State.setPort_keeps ?_ (sub (by decide) hS)
    | refine KeepsBut.foldl ?_ (fun sF xF hF => ?_) | refine KeepsBut.foldl1 ?_ (fun sF xF hF => ?_)
    | refine KeepsBut.ite (fun _ => ?_) (fun _ => ?_) | split | dsimp -proj only
    | refine KeepsBut.of_pair ?_ (by assumption)

theorem State.setRoutes_keeps {ps : List Area} {s0 s : State} {v : Nat} {t : Tab (BitVec 32)} (hK : KeepsBut ps s0 s)
    (hS : [.fab] ⊆ ps) : KeepsBut ps s0 (@State.setRoutes s v t) := by
  unfold State.setRoutes
  with_reducible repeat' first
    | assumption | refine KeepsBut.ite (fun _ => ?_) (fun _ => ?_) | split | dsimp -proj only
    | refine upd_fab ?_ (sub (by decide) hS)

theorem State.countNoRoute_keeps {ps : List Area} {s0 s : State} {m : OutMsg} {c : Option Nat} (hK : KeepsBut ps s0 s)
    (hS : [.ctrs] ⊆ ps) : KeepsBut ps s0 (@State.countNoRoute s m c).1 := by
  unfold State.countNoRoute
  with_reducible repeat' first
    | assumption | refine State.bumpPort_keeps ?_ (sub (by decide) hS)
    | refine State.bump_keeps ?_ (sub (by decide) hS) | refine KeepsBut.ite1 (fun _ => ?_) (fun _ => ?_) | split
    | dsimp -proj only

theorem State.startDeadline_keeps {ps : List Area} {s0 s : State} {m : OutMsg} (hK : KeepsBut ps s0 s) (hS : [.coh] ⊆
    ps) : KeepsBut ps s0 (@State.startDeadline s m) := by
  unfold State.startDeadline
  with_reducible repeat' first
    | assumption | refine KeepsBut.ite (fun _ => ?_) (fun _ => ?_) | split | dsimp -proj only
    | refine upd_coh ?_ (sub (by decide) hS)

theorem State.setInflight_keeps {ps : List Area} {s0 s : State} {v n : Nat} (hK : KeepsBut ps s0 s) (hS : [.fab] ⊆ ps)
    : KeepsBut ps s0 (@State.setInflight s v n) := by
  unfold State.setInflight
  with_reducible repeat' first
    | assumption | refine KeepsBut.ite (fun _ => ?_) (fun _ => ?_) | split | dsimp -proj only
    | refine upd_fab ?_ (sub (by decide) hS)

theorem State.retire_keeps {ps : List Area} {s0 s : State} {j : Nat} (hK : KeepsBut ps s0 s) (hS : [.twin] ⊆ ps) :
    KeepsBut ps s0 (@State.retire s j) := by
  unfold State.retire
  with_reducible repeat' first
    | assumption | refine State.journalOut_keeps ?_ (sub (by decide) hS)
    | refine KeepsBut.ite (fun _ => ?_) (fun _ => ?_) | split | dsimp -proj only

theorem State.bindAt_keeps {ps : List Area} {s0 s : State} {p : Nat} {m : OutMsg} (hK : KeepsBut ps s0 s) (hS :
    [.ports, .fab, .coh, .twin, .sec] ⊆ ps) : KeepsBut ps s0 (@State.bindAt s p m) := by
  unfold State.bindAt
  with_reducible repeat' first
    | assumption | refine State.sealMsg_keeps ?_ (sub (by decide) hS)
    | refine State.judgeThrottle_keeps ?_ (sub (by decide) hS) | refine State.setPort_keeps ?_ (sub (by decide) hS)
    | refine State.startDeadline_keeps ?_ (sub (by decide) hS)
    | refine State.setInflight_keeps ?_ (sub (by decide) hS) | refine State.retire_keeps ?_ (sub (by decide) hS)
    | split | refine KeepsBut.ite1 (fun _ => ?_) (fun _ => ?_) | dsimp -proj only
    | refine KeepsBut.of_pair ?_ (by assumption)

theorem State.bindFirst_keeps {ps : List Area} {s0 s : State} {kept y2 : List OutMsg} (hK : KeepsBut ps s0 s) (hS :
    [.ports, .fab, .coh, .twin, .sec, .ctrs] ⊆ ps) : KeepsBut ps s0 (@State.bindFirst s kept y2) := by
  unfold State.bindFirst
  with_reducible repeat' first
    | assumption | refine State.bindAt_keeps ?_ (sub (by decide) hS)
    | refine State.countNoRoute_keeps ?_ (sub (by decide) hS) | refine State.bindFirst_keeps ?_ (sub (by decide) hS)
    | split | refine KeepsBut.ite1 (fun _ => ?_) (fun _ => ?_) | dsimp -proj only
    | refine KeepsBut.of_pair ?_ (by assumption) | refine upd_fab ?_ (sub (by decide) hS)

theorem State.setRouteState_keeps {ps : List Area} {s0 s : State} {v : Nat} {x : RouteState} (hK : KeepsBut ps s0 s)
    (hS : [.fab] ⊆ ps) : KeepsBut ps s0 (@State.setRouteState s v x) := by
  unfold State.setRouteState
  with_reducible repeat' first
    | assumption | refine KeepsBut.ite (fun _ => ?_) (fun _ => ?_) | split | dsimp -proj only
    | refine upd_fab ?_ (sub (by decide) hS)

theorem State.setCircuit_keeps {ps : List Area} {s0 s : State} {c : Nat} {x : Circuit} (hK : KeepsBut ps s0 s) (hS :
    [.fab, .twin] ⊆ ps) : KeepsBut ps s0 (@State.setCircuit s c x) := by
  unfold State.setCircuit
  with_reducible repeat' first
    | assumption | refine State.logChange_keeps ?_ (sub (by decide) hS) | dsimp -proj only
    | refine upd_fab ?_ (sub (by decide) hS)

theorem State.removeCircuit_keeps {ps : List Area} {s0 s : State} {c : Nat} (hK : KeepsBut ps s0 s) (hS : [.ports,
    .fab, .twin] ⊆ ps) : KeepsBut ps s0 (@State.removeCircuit s c) := by
  unfold State.removeCircuit
  with_reducible repeat' first
    | assumption | refine State.setCircuit_keeps ?_ (sub (by decide) hS)
    | refine State.setPort_keeps ?_ (sub (by decide) hS) | refine KeepsBut.ite (fun _ => ?_) (fun _ => ?_) | split
    | dsimp -proj only

theorem State.activateCircuit_keeps {ps : List Area} {s0 s : State} {c : Nat} (hK : KeepsBut ps s0 s) (hS : [.ports,
    .fab, .twin] ⊆ ps) : KeepsBut ps s0 (@State.activateCircuit s c) := by
  unfold State.activateCircuit
  with_reducible repeat' first
    | assumption | refine State.setCircuit_keeps ?_ (sub (by decide) hS)
    | refine State.setPort_keeps ?_ (sub (by decide) hS) | refine KeepsBut.ite (fun _ => ?_) (fun _ => ?_) | split
    | refine KeepsBut.ite1 (fun _ => ?_) (fun _ => ?_) | dsimp -proj only

theorem State.stepCircuits_keeps {ps : List Area} {s0 s : State} (hK : KeepsBut ps s0 s) (hS : [.ports, .fab, .twin] ⊆
    ps) : KeepsBut ps s0 (@State.stepCircuits s) := by
  unfold State.stepCircuits
  with_reducible repeat' first
    | assumption | refine State.removeCircuit_keeps ?_ (sub (by decide) hS)
    | refine State.activateCircuit_keeps ?_ (sub (by decide) hS) | refine KeepsBut.foldl ?_ (fun sF xF hF => ?_)
    | refine KeepsBut.foldl1 ?_ (fun sF xF hF => ?_) | refine KeepsBut.ite1 (fun _ => ?_) (fun _ => ?_)
    | dsimp -proj only | refine KeepsBut.of_pair ?_ (by assumption) | refine upd_fab ?_ (sub (by decide) hS)

theorem State.burstWaits_keeps {ps : List Area} {s0 s : State} {n kind cls : Nat} {noTime : Bool} (hK : KeepsBut ps s0
    s) (hS : [.ports, .ctrs] ⊆ ps) : KeepsBut ps s0 (@State.burstWaits s n kind cls noTime) := by
  unfold State.burstWaits
  with_reducible repeat' first
    | assumption | refine State.bumpPort_keeps ?_ (sub (by decide) hS)
    | refine State.setPort_keeps ?_ (sub (by decide) hS) | refine KeepsBut.ite (fun _ => ?_) (fun _ => ?_) | split
    | dsimp -proj only

end Sys2Proof.Machine
end

