-- ==== Sys2Proof/Laws/FrameTraffic.lean ====
section
/-! SUPPORT. The frame of each operation of Machine/Traffic.lean: the parts of the state that it may change, and no others. -/

set_option Elab.async false

namespace Sys2Proof.Machine
open Sys2Proof

set_option maxRecDepth 4000
set_option linter.all false

theorem execRouteDrained_keeps {ps : List Area} {s0 : State} {version : Nat} {s : State} (hK : KeepsBut ps s0 s) (hS :
    [.fab, .evs, .ctrs] ⊆ ps) : KeepsOut ps s0 (@execRouteDrained version s) := by
  unfold execRouteDrained
  with_reducible repeat' first
    | assumption | refine KeepsOut.next ?_ | refine State.raise_keeps ?_ (sub (by decide) hS)
    | refine State.setRouteState_keeps ?_ (sub (by decide) hS) | refine KeepsBut.ite (fun _ => ?_) (fun _ => ?_)
    | split | dsimp -proj only

theorem State.routeSwitch_keeps {ps : List Area} {s0 s : State} (hK : KeepsBut ps s0 s) (hS : [.fab, .twin, .sec,
    .rsl, .ctrs] ⊆ ps) : KeepsBut ps s0 (@State.routeSwitch s) := by
  unfold State.routeSwitch
  with_reducible repeat' first
    | assumption | refine State.setRouteState_keeps ?_ (sub (by decide) hS)
    | refine State.release_keeps ?_ (sub (by decide) hS) | refine KeepsBut.foldl ?_ (fun sF xF hF => ?_)
    | refine KeepsBut.foldl1 ?_ (fun sF xF hF => ?_) | refine KeepsBut.ite (fun _ => ?_) (fun _ => ?_) | split
    | dsimp -proj only | refine KeepsBut.of_pair ?_ (by assumption) | refine upd_fab ?_ (sub (by decide) hS)

theorem execCircuitRemove_keeps {ps : List Area} {s0 : State} {ckt : Nat} {s : State} (hK : KeepsBut ps s0 s) (hS :
    [.ports, .fab, .twin] ⊆ ps) : KeepsOut ps s0 (@execCircuitRemove ckt s) := by
  unfold execCircuitRemove
  with_reducible repeat' first
    | assumption | refine KeepsOut.next ?_ | refine State.removeCircuit_keeps ?_ (sub (by decide) hS)
    | dsimp -proj only

theorem execPolicerSet_keeps {ps : List Area} {s0 : State} {c : RslCmd} {host cls enable cir pir cbs pbs : Nat} {s :
    State} (hK : KeepsBut ps s0 s) (hS : [.fab, .twin, .rsl, .ctrs] ⊆ ps) : KeepsOut ps s0 (@execPolicerSet c host cls
    enable cir pir cbs pbs s) := by
  unfold execPolicerSet
  with_reducible repeat' first
    | assumption | refine KeepsOut.next ?_ | refine State.rslGate_keeps ?_ (fun v0F hF => ?_) (sub (by decide) hS)
    | refine State.rslAnswer_keeps ?_ (sub (by decide) hS) | refine State.logChange_keeps ?_ (sub (by decide) hS)
    | refine KeepsBut.ite (fun _ => ?_) (fun _ => ?_) | split | dsimp -proj only
    | refine upd_fab ?_ (sub (by decide) hS)

theorem execGateBurstStart_keeps {ps : List Area} {s0 : State} {port kind cls offsetNs : Nat} {s : State} (hK :
    KeepsBut ps s0 s) (hS : [.ports, .ctrs] ⊆ ps) : KeepsOut ps s0 (@execGateBurstStart port kind cls offsetNs s) :=
    by
  unfold execGateBurstStart
  with_reducible repeat' first
    | assumption | refine KeepsOut.next ?_ | refine State.formBurst_keeps ?_ (sub (by decide) hS)
    | refine State.burstWaits_keeps ?_ (sub (by decide) hS) | refine State.startBurst_keeps ?_ (sub (by decide) hS)
    | refine KeepsBut.ite (fun _ => ?_) (fun _ => ?_) | split | dsimp -proj only

theorem execCircuitActivate_keeps {ps : List Area} {s0 : State} {ckt : Nat} {s : State} (hK : KeepsBut ps s0 s) (hS :
    [.ports, .fab, .twin] ⊆ ps) : KeepsOut ps s0 (@execCircuitActivate ckt s) := by
  unfold execCircuitActivate
  with_reducible repeat' first
    | assumption | refine KeepsOut.next ?_ | refine State.activateCircuit_keeps ?_ (sub (by decide) hS)
    | dsimp -proj only

theorem execRouteLoad_keeps {ps : List Area} {s0 : State} {c : RslCmd} {version first : Nat} {entries : List (BitVec
    32)} {s : State} (hK : KeepsBut ps s0 s) (hS : [.fab, .twin, .rsl, .ctrs] ⊆ ps) : KeepsOut ps s0 (@execRouteLoad c
    version first entries s) := by
  unfold execRouteLoad
  with_reducible repeat' first
    | assumption | refine KeepsOut.next ?_ | refine State.rslGate_keeps ?_ (fun v0F hF => ?_) (sub (by decide) hS)
    | refine State.rslAnswer_keeps ?_ (sub (by decide) hS) | refine State.setRouteState_keeps ?_ (sub (by decide) hS)
    | refine State.setRoutes_keeps ?_ (sub (by decide) hS) | refine KeepsBut.ite (fun _ => ?_) (fun _ => ?_) | split
    | dsimp -proj only

theorem execCktTeardown_keeps {ps : List Area} {s0 : State} {c : RslCmd} {ckt endEpoch : Nat} {s : State} (hK :
    KeepsBut ps s0 s) (hS : [.fab, .twin, .rsl, .ctrs] ⊆ ps) : KeepsOut ps s0 (@execCktTeardown c ckt endEpoch s) :=
    by
  unfold execCktTeardown
  with_reducible repeat' first
    | assumption | refine KeepsOut.next ?_ | refine State.rslGate_keeps ?_ (fun v0F hF => ?_) (sub (by decide) hS)
    | refine State.rslAnswer_keeps ?_ (sub (by decide) hS) | refine State.setCircuit_keeps ?_ (sub (by decide) hS)
    | refine KeepsBut.ite (fun _ => ?_) (fun _ => ?_) | split | dsimp -proj only

theorem execMessageBind_keeps {ps : List Area} {s0 s : State} (hK : KeepsBut ps s0 s) (hS : [.ports, .fab, .coh,
    .twin, .sec, .ctrs] ⊆ ps) : KeepsOut ps s0 (@execMessageBind s) := by
  unfold execMessageBind
  with_reducible repeat' first
    | assumption | refine KeepsOut.next ?_ | refine State.bindFirst_keeps ?_ (sub (by decide) hS)
    | refine KeepsBut.ite (fun _ => ?_) (fun _ => ?_) | split | dsimp -proj only

theorem execUndefinedOpcode_keeps {ps : List Area} {s0 : State} {v : Via} {cls opcode : Nat} {s : State} (hK :
    KeepsBut ps s0 s) (hS : [.fab, .twin, .rsl, .ctrs] ⊆ ps) : KeepsOut ps s0 (@execUndefinedOpcode v cls opcode s) :=
    by
  unfold execUndefinedOpcode
  with_reducible repeat' first
    | assumption | refine KeepsOut.next ?_ | refine State.cohCpl_keeps ?_ (sub (by decide) hS)
    | refine State.arrive_keeps ?_ (fun v0F v1F v2F hF => ?_) (fun v0F hF => ?_) (sub (by decide) hS)
    | refine State.colander_keeps ?_ (fun v0F v1F v2F hF => ?_) (fun v0F hF => ?_) (sub (by decide) hS)
    | refine State.bumpPort_keeps ?_ (sub (by decide) hS) | refine State.bump_keeps ?_ (sub (by decide) hS)
    | refine State.rslGate_keeps ?_ (fun v0F hF => ?_) (sub (by decide) hS)
    | refine KeepsBut.ite (fun _ => ?_) (fun _ => ?_) | split | dsimp -proj only

theorem execRouteCommit_keeps {ps : List Area} {s0 : State} {c : RslCmd} {version : Nat} {s : State} (hK : KeepsBut ps
    s0 s) (hS : [.fab, .twin, .rsl, .ctrs] ⊆ ps) : KeepsOut ps s0 (@execRouteCommit c version s) := by
  unfold execRouteCommit
  with_reducible repeat' first
    | assumption | refine KeepsOut.next ?_ | refine State.rslGate_keeps ?_ (fun v0F hF => ?_) (sub (by decide) hS)
    | refine State.rslAnswer_keeps ?_ (sub (by decide) hS) | refine State.setRouteState_keeps ?_ (sub (by decide) hS)
    | refine KeepsBut.ite (fun _ => ?_) (fun _ => ?_) | split | dsimp -proj only
    | refine upd_fab ?_ (sub (by decide) hS)

theorem execCktSetup_keeps {ps : List Area} {s0 : State} {c : RslCmd} {host port direction startEpoch : Nat} {windows
    : List (Nat × Nat)} {s : State} (hK : KeepsBut ps s0 s) (hS : [.fab, .twin, .rsl, .ctrs] ⊆ ps) : KeepsOut ps s0
    (@execCktSetup c host port direction startEpoch windows s) := by
  unfold execCktSetup
  with_reducible repeat' first
    | assumption | refine KeepsOut.next ?_ | refine State.rslGate_keeps ?_ (fun v0F hF => ?_) (sub (by decide) hS)
    | refine State.rslAnswer_keeps ?_ (sub (by decide) hS) | refine State.setCircuit_keeps ?_ (sub (by decide) hS)
    | refine KeepsBut.ite (fun _ => ?_) (fun _ => ?_) | split | refine KeepsBut.ite1 (fun _ => ?_) (fun _ => ?_)
    | dsimp -proj only

end Sys2Proof.Machine
end

