-- ==== Sys2Proof/Laws/FrameLinkOps.lean ====
section
/-! SUPPORT. The frame of each operation of Machine/LinkOps.lean: the parts of the state that it may change, and no others. -/

set_option Elab.async false

namespace Sys2Proof.Machine
open Sys2Proof

set_option maxRecDepth 4000
set_option linter.all false

theorem State.moveFrames_keeps {ps : List Area} {s0 s : State} {r : Nat} (hK : KeepsBut ps s0 s) (hS : [.ports, .rsl,
    .evs, .ctrs] ⊆ ps) : KeepsBut ps s0 (@State.moveFrames s r) := by
  unfold State.moveFrames
  with_reducible repeat' first
    | assumption | refine State.setPort_keeps ?_ (sub (by decide) hS)
    | refine State.bump_keeps ?_ (sub (by decide) hS) | refine KeepsBut.ite (fun _ => ?_) (fun _ => ?_) | split
    | dsimp -proj only | refine upd_rsl_evs ?_ (sub (by decide) hS)

theorem State.nextFrame_keeps {ps : List Area} {s0 s : State} {r : Nat} (hK : KeepsBut ps s0 s) (hS : [.rsl, .evs,
    .ctrs] ⊆ ps) : KeepsBut ps s0 (@State.nextFrame s r).1 := by
  unfold State.nextFrame
  with_reducible repeat' first
    | assumption | refine State.bump_keeps ?_ (sub (by decide) hS) | refine KeepsBut.ite1 (fun _ => ?_) (fun _ => ?_)
    | split | refine KeepsBut.ite1 (fun _ => ?_) (fun _ => ?_) | dsimp -proj only
    | refine upd_evs ?_ (sub (by decide) hS) | refine upd_rsl ?_ (sub (by decide) hS)

theorem State.sendData_keeps {ps : List Area} {s0 s : State} {n : Nat} {f : Stored} {replay : Bool} {t : Nat} (hK :
    KeepsBut ps s0 s) (hS : [.ports, .ctrs] ⊆ ps) : KeepsBut ps s0 (@State.sendData s n f replay t) := by
  unfold State.sendData
  with_reducible repeat' first
    | assumption | refine State.bumpPort_keeps ?_ (sub (by decide) hS)
    | refine State.setPort_keeps ?_ (sub (by decide) hS) | refine KeepsBut.ite (fun _ => ?_) (fun _ => ?_) | split
    | dsimp -proj only

theorem State.startAttempt_keeps {ps : List Area} {s0 s : State} {n : Nat} {test : Bool} (hK : KeepsBut ps s0 s) (hS :
    [.ports, .fresh] ⊆ ps) : KeepsBut ps s0 (@State.startAttempt s n test) := by
  unfold State.startAttempt
  with_reducible repeat' first
    | assumption | refine State.draw_keeps ?_ (sub (by decide) hS)
    | refine State.setPort_keeps ?_ (sub (by decide) hS) | refine KeepsBut.ite (fun _ => ?_) (fun _ => ?_) | split
    | refine KeepsBut.ite1 (fun _ => ?_) (fun _ => ?_) | dsimp -proj only | refine KeepsBut.of_pair ?_ (by assumption)

theorem State.linkDown_keeps {ps : List Area} {s0 s : State} {n case : Nat} (hK : KeepsBut ps s0 s) (hS : [.ports,
    .rsl, .evs, .ctrs, .fresh] ⊆ ps) : KeepsBut ps s0 (@State.linkDown s n case) := by
  unfold State.linkDown
  with_reducible repeat' first
    | assumption | refine State.bumpPort_keeps ?_ (sub (by decide) hS)
    | refine State.setPort_keeps ?_ (sub (by decide) hS) | refine State.moveFrames_keeps ?_ (sub (by decide) hS)
    | refine State.raise_keeps ?_ (sub (by decide) hS) | refine State.startAttempt_keeps ?_ (sub (by decide) hS)
    | refine KeepsBut.ite (fun _ => ?_) (fun _ => ?_) | split | dsimp -proj only
    | refine upd_fresh ?_ (sub (by decide) hS)

theorem State.sendReplay_keeps {ps : List Area} {s0 s : State} {n : Nat} {r : Replay} {f : Stored} {t : Nat} (hK :
    KeepsBut ps s0 s) (hS : [.ports, .rsl, .evs, .ctrs, .fresh] ⊆ ps) : KeepsBut ps s0 (@State.sendReplay s n r f t)
    := by
  unfold State.sendReplay
  with_reducible repeat' first
    | assumption | refine State.setPort_keeps ?_ (sub (by decide) hS)
    | refine State.bumpPort_keeps ?_ (sub (by decide) hS) | refine State.sendData_keeps ?_ (sub (by decide) hS)
    | refine State.linkDown_keeps ?_ (sub (by decide) hS) | refine State.raise_keeps ?_ (sub (by decide) hS)
    | refine KeepsBut.ite (fun _ => ?_) (fun _ => ?_) | split | dsimp -proj only

theorem State.leaveFlight_keeps {ps : List Area} {s0 s : State} {n : Nat} {fs : List TxFlit} (hK : KeepsBut ps s0 s)
    (hS : [.fab] ⊆ ps) : KeepsBut ps s0 (@State.leaveFlight s n fs) := by
  unfold State.leaveFlight
  with_reducible repeat' first
    | assumption | refine State.setInflight_keeps ?_ (sub (by decide) hS)
    | refine KeepsBut.foldl ?_ (fun sF xF hF => ?_) | refine KeepsBut.foldl1 ?_ (fun sF xF hF => ?_)
    | refine KeepsBut.ite (fun _ => ?_) (fun _ => ?_) | split | dsimp -proj only
    | refine KeepsBut.of_pair ?_ (by assumption)

theorem State.freeTo_keeps {ps : List Area} {s0 s : State} {n upTo : Nat} (hK : KeepsBut ps s0 s) (hS : [.ports, .fab]
    ⊆ ps) : KeepsBut ps s0 (@State.freeTo s n upTo) := by
  unfold State.freeTo
  with_reducible repeat' first
    | assumption | refine State.leaveFlight_keeps ?_ (sub (by decide) hS)
    | refine State.setPort_keeps ?_ (sub (by decide) hS) | refine KeepsBut.ite (fun _ => ?_) (fun _ => ?_) | split
    | dsimp -proj only

theorem State.takeAck_keeps {ps : List Area} {s0 s : State} {n a : Nat} (hK : KeepsBut ps s0 s) (hS : [.ports, .fab,
    .ctrs] ⊆ ps) : KeepsBut ps s0 (@State.takeAck s n a) := by
  unfold State.takeAck
  with_reducible repeat' first
    | assumption | refine State.freeTo_keeps ?_ (sub (by decide) hS)
    | refine State.bumpPort_keeps ?_ (sub (by decide) hS) | refine KeepsBut.ite (fun _ => ?_) (fun _ => ?_) | split
    | dsimp -proj only

theorem State.badFlit_keeps {ps : List Area} {s0 s : State} {n : Nat} (hK : KeepsBut ps s0 s) (hS : [.ports, .ctrs] ⊆
    ps) : KeepsBut ps s0 (@State.badFlit s n) := by
  unfold State.badFlit
  with_reducible repeat' first
    | assumption | refine State.bumpPort_keeps ?_ (sub (by decide) hS)
    | refine State.setPort_keeps ?_ (sub (by decide) hS) | dsimp -proj only

theorem State.sendNew_keeps {ps : List Area} {s0 s : State} {n : Nat} {f : TxFlit} {t : Nat} (hK : KeepsBut ps s0 s)
    (hS : [.ports, .ctrs] ⊆ ps) : KeepsBut ps s0 (@State.sendNew s n f t) := by
  unfold State.sendNew
  with_reducible repeat' first
    | assumption | refine State.setPort_keeps ?_ (sub (by decide) hS)
    | refine State.bumpPort_keeps ?_ (sub (by decide) hS) | refine State.sendData_keeps ?_ (sub (by decide) hS)
    | refine KeepsBut.ite (fun _ => ?_) (fun _ => ?_) | split | dsimp -proj only

theorem State.raisePortFault_keeps {ps : List Area} {s0 s : State} {n lost : Nat} (hK : KeepsBut ps s0 s) (hS : [.evs,
    .ctrs] ⊆ ps) : KeepsBut ps s0 (@State.raisePortFault s n lost) := by
  unfold State.raisePortFault
  with_reducible repeat' first
    | assumption | refine State.raise_keeps ?_ (sub (by decide) hS) | dsimp -proj only

theorem State.freshPort_keeps {ps : List Area} {s0 s : State} {n : Nat} {q : LinkParam} (hK : KeepsBut ps s0 s) (hS :
    [.ports, .fab, .evs, .ctrs] ⊆ ps) : KeepsBut ps s0 (@State.freshPort s n q) := by
  unfold State.freshPort
  with_reducible repeat' first
    | assumption | refine State.leaveFlight_keeps ?_ (sub (by decide) hS)
    | refine State.setPort_keeps ?_ (sub (by decide) hS) | refine State.bumpPort_keeps ?_ (sub (by decide) hS)
    | refine State.raise_keeps ?_ (sub (by decide) hS) | refine KeepsBut.ite (fun _ => ?_) (fun _ => ?_) | split
    | dsimp -proj only

theorem State.sendCtl_keeps {ps : List Area} {s0 s : State} {n : Nat} {x : Ctl} (hK : KeepsBut ps s0 s) (hS : [.ports]
    ⊆ ps) : KeepsBut ps s0 (@State.sendCtl s n x) := by
  unfold State.sendCtl
  with_reducible repeat' first
    | assumption | refine State.setPort_keeps ?_ (sub (by decide) hS) | split | dsimp -proj only

theorem State.sendDue_keeps {ps : List Area} {s0 s : State} {n : Nat} {x : Ctl} {t : Nat} (hK : KeepsBut ps s0 s) (hS
    : [.ports, .ctrs] ⊆ ps) : KeepsBut ps s0 (@State.sendDue s n x t) := by
  unfold State.sendDue
  with_reducible repeat' first
    | assumption | refine State.sendCtl_keeps ?_ (sub (by decide) hS)
    | refine State.setPort_keeps ?_ (sub (by decide) hS) | refine State.bumpPort_keeps ?_ (sub (by decide) hS) | split
    | dsimp -proj only

theorem State.markStall_keeps {ps : List Area} {s0 s : State} {n : Nat} (hK : KeepsBut ps s0 s) (hS : [.ports] ⊆ ps) :
    KeepsBut ps s0 (@State.markStall s n) := by
  unfold State.markStall
  with_reducible repeat' first
    | assumption | refine State.setPort_keeps ?_ (sub (by decide) hS)
    | refine KeepsBut.ite (fun _ => ?_) (fun _ => ?_) | split | dsimp -proj only

theorem State.startReplay_keeps {ps : List Area} {s0 s : State} {n q : Nat} (hK : KeepsBut ps s0 s) (hS : [.ports] ⊆
    ps) : KeepsBut ps s0 (@State.startReplay s n q) := by
  unfold State.startReplay
  with_reducible repeat' first
    | assumption | refine State.setPort_keeps ?_ (sub (by decide) hS)
    | refine KeepsBut.ite (fun _ => ?_) (fun _ => ?_) | split | dsimp -proj only

theorem State.resumePort_keeps {ps : List Area} {s0 s : State} {n : Nat} {q : LinkParam} (hK : KeepsBut ps s0 s) (hS :
    [.ports, .fab, .ctrs] ⊆ ps) : KeepsBut ps s0 (@State.resumePort s n q) := by
  unfold State.resumePort
  with_reducible repeat' first
    | assumption | refine State.takeAck_keeps ?_ (sub (by decide) hS)
    | refine State.startReplay_keeps ?_ (sub (by decide) hS) | refine State.setPort_keeps ?_ (sub (by decide) hS)
    | dsimp -proj only

theorem State.goodFlit_keeps {ps : List Area} {s0 s : State} {n : Nat} {h : FlitHdr} (hK : KeepsBut ps s0 s) (hS :
    [.ports, .fab, .ctrs] ⊆ ps) : KeepsBut ps s0 (@State.goodFlit s n h) := by
  unfold State.goodFlit
  with_reducible repeat' first
    | assumption | refine State.takeAck_keeps ?_ (sub (by decide) hS)
    | refine State.setPort_keeps ?_ (sub (by decide) hS) | refine KeepsBut.ite (fun _ => ?_) (fun _ => ?_) | split
    | dsimp -proj only

theorem State.sendFresh_keeps {ps : List Area} {s0 s : State} {n t : Nat} (hK : KeepsBut ps s0 s) (hS : [.ports, .rsl,
    .evs, .ctrs] ⊆ ps) : KeepsBut ps s0 (@State.sendFresh s n t) := by
  unfold State.sendFresh
  with_reducible repeat' first
    | assumption | refine State.nextFrame_keeps ?_ (sub (by decide) hS)
    | refine State.markStall_keeps ?_ (sub (by decide) hS) | refine State.setPort_keeps ?_ (sub (by decide) hS)
    | refine State.sendCtl_keeps ?_ (sub (by decide) hS) | refine State.sendNew_keeps ?_ (sub (by decide) hS)
    | refine KeepsBut.ite (fun _ => ?_) (fun _ => ?_) | split | refine KeepsBut.ite1 (fun _ => ?_) (fun _ => ?_)
    | dsimp -proj only | refine KeepsBut.of_pair ?_ (by assumption)

end Sys2Proof.Machine
end

