-- ==== Sys2Proof/Laws/FrameLink.lean ====
section
/-! SUPPORT. The frame of each operation of Machine/Link.lean: the parts of the state that it may change, and no others. -/

set_option Elab.async false

namespace Sys2Proof.Machine
open Sys2Proof

set_option maxRecDepth 4000
set_option linter.all false

theorem execTrainingStart_keeps {ps : List Area} {s0 : State} {port : Nat} {bad : BitVec 5} {s : State} (hK : KeepsBut
    ps s0 s) (hS : [.ports, .fresh] ⊆ ps) : KeepsOut ps s0 (@execTrainingStart port bad s) := by
  unfold execTrainingStart
  with_reducible repeat' first
    | assumption | refine KeepsOut.next ?_ | refine State.setPort_keeps ?_ (sub (by decide) hS)
    | refine State.startAttempt_keeps ?_ (sub (by decide) hS) | refine KeepsBut.ite (fun _ => ?_) (fun _ => ?_)
    | split | dsimp -proj only

theorem State.takeNak_keeps {ps : List Area} {s0 s : State} {port q : Nat} (hK : KeepsBut ps s0 s) (hS : [.ports,
    .fab, .ctrs] ⊆ ps) : KeepsBut ps s0 (@State.takeNak s port q) := by
  unfold State.takeNak
  with_reducible repeat' first
    | assumption | refine State.bumpPort_keeps ?_ (sub (by decide) hS)
    | refine State.freeTo_keeps ?_ (sub (by decide) hS) | refine State.startReplay_keeps ?_ (sub (by decide) hS)
    | refine KeepsBut.ite (fun _ => ?_) (fun _ => ?_) | split | dsimp -proj only

theorem State.malformed_keeps {ps : List Area} {s0 s : State} {n : Nat} (hK : KeepsBut ps s0 s) (hS : [.ctrs] ⊆ ps) :
    KeepsBut ps s0 (@State.malformed s n) := by
  unfold State.malformed
  with_reducible repeat' first
    | assumption | refine State.bumpPort_keeps ?_ (sub (by decide) hS) | dsimp -proj only

theorem State.onControl_keeps {ps : List Area} {s0 s : State} {n : Nat} {f : RawFlit} {typ : Nat} {k : State → State}
    (hK : KeepsBut ps s0 s) (hk : ∀ (v0 : State), KeepsBut ps s0 v0 → KeepsBut ps s0 (k v0)) (hS : [.ports, .fab,
    .ctrs] ⊆ ps) : KeepsBut ps s0 (@State.onControl s n f typ k) := by
  unfold State.onControl
  with_reducible repeat' first
    | assumption | apply hk | refine State.bumpPort_keeps ?_ (sub (by decide) hS)
    | refine State.badFlit_keeps ?_ (sub (by decide) hS) | refine State.malformed_keeps ?_ (sub (by decide) hS)
    | refine State.goodFlit_keeps ?_ (sub (by decide) hS) | refine KeepsBut.ite (fun _ => ?_) (fun _ => ?_) | split
    | dsimp -proj only

theorem State.takeParam_keeps {ps : List Area} {s0 s : State} {port : Nat} {q : LinkParam} (hK : KeepsBut ps s0 s) (hS
    : [.ports, .fab, .evs, .ctrs] ⊆ ps) : KeepsBut ps s0 (@State.takeParam s port q) := by
  unfold State.takeParam
  with_reducible repeat' first
    | assumption | refine State.setPort_keeps ?_ (sub (by decide) hS)
    | refine State.resumePort_keeps ?_ (sub (by decide) hS) | refine State.freshPort_keeps ?_ (sub (by decide) hS)
    | refine KeepsBut.ite (fun _ => ?_) (fun _ => ?_) | split | dsimp -proj only

theorem execLinkParam_keeps {ps : List Area} {s0 : State} {port : Nat} {f : RawFlit} {patternPort : Nat} {s : State}
    (hK : KeepsBut ps s0 s) (hS : [.ports, .fab, .evs, .ctrs] ⊆ ps) : KeepsOut ps s0 (@execLinkParam port f
    patternPort s) := by
  unfold execLinkParam
  with_reducible repeat' first
    | assumption | refine KeepsOut.next ?_ | refine State.onControl_keeps ?_ (fun v0F hF => ?_) (sub (by decide) hS)
    | refine State.takeParam_keeps ?_ (sub (by decide) hS) | refine KeepsBut.ite (fun _ => ?_) (fun _ => ?_) | split
    | dsimp -proj only

theorem execPortResetIdleEnd_keeps {ps : List Area} {s0 : State} {port : Nat} {s : State} (hK : KeepsBut ps s0 s) (hS
    : [.boot, .ports, .fab, .twin, .sec, .rsl, .ctrs, .fresh] ⊆ ps) : KeepsOut ps s0 (@execPortResetIdleEnd port s) :=
    by
  unfold execPortResetIdleEnd
  with_reducible repeat' first
    | assumption | refine KeepsOut.next ?_ | refine State.setPort_keeps ?_ (sub (by decide) hS)
    | refine State.startAttempt_keeps ?_ (sub (by decide) hS) | refine State.release_keeps ?_ (sub (by decide) hS)
    | refine KeepsBut.foldl ?_ (fun sF xF hF => ?_) | refine KeepsBut.foldl1 ?_ (fun sF xF hF => ?_)
    | refine KeepsBut.ite (fun _ => ?_) (fun _ => ?_) | split | dsimp -proj only
    | refine KeepsBut.of_pair ?_ (by assumption) | refine upd_boot ?_ (sub (by decide) hS)

theorem State.control_keeps {ps : List Area} {s0 s : State} {n : Nat} {f : RawFlit} {typ : Nat} {k : State → State}
    (hK : KeepsBut ps s0 s) (hk : ∀ (v0 : State), KeepsBut ps s0 v0 → KeepsBut ps s0 (k v0)) (hS : [.ports, .fab,
    .ctrs] ⊆ ps) : KeepsBut ps s0 (@State.control s n f typ k) := by
  unfold State.control
  with_reducible repeat' first
    | assumption | apply hk | refine State.onControl_keeps ?_ (fun v0F hF => ?_) (sub (by decide) hS)
    | refine KeepsBut.ite (fun _ => ?_) (fun _ => ?_) | split | dsimp -proj only

theorem execMalformedControlFlit_keeps {ps : List Area} {s0 : State} {port : Nat} {f : RawFlit} {s : State} (hK :
    KeepsBut ps s0 s) (hS : [.ports, .fab, .ctrs] ⊆ ps) : KeepsOut ps s0 (@execMalformedControlFlit port f s) := by
  unfold execMalformedControlFlit
  with_reducible repeat' first
    | assumption | refine KeepsOut.next ?_ | refine State.control_keeps ?_ (fun v0F hF => ?_) (sub (by decide) hS)
    | dsimp -proj only

theorem execLaneSwapDone_keeps {ps : List Area} {s0 : State} {port : Nat} {s : State} (hK : KeepsBut ps s0 s) (hS :
    [.ports, .evs, .ctrs] ⊆ ps) : KeepsOut ps s0 (@execLaneSwapDone port s) := by
  unfold execLaneSwapDone
  with_reducible repeat' first
    | assumption | refine KeepsOut.next ?_ | refine State.setPort_keeps ?_ (sub (by decide) hS)
    | refine State.raise_keeps ?_ (sub (by decide) hS) | refine KeepsBut.ite (fun _ => ?_) (fun _ => ?_) | split
    | dsimp -proj only

theorem execFlitTx_keeps {ps : List Area} {s0 : State} {port atNs : Nat} {s : State} (hK : KeepsBut ps s0 s) (hS :
    [.ports, .rsl, .evs, .ctrs, .fresh] ⊆ ps) : KeepsOut ps s0 (@execFlitTx port atNs s) := by
  unfold execFlitTx
  with_reducible repeat' first
    | assumption | refine KeepsOut.next ?_ | refine State.markStall_keeps ?_ (sub (by decide) hS)
    | refine State.sendDue_keeps ?_ (sub (by decide) hS) | refine State.judgeThrottle_keeps ?_ (sub (by decide) hS)
    | refine State.sendFresh_keeps ?_ (sub (by decide) hS) | refine State.sendReplay_keeps ?_ (sub (by decide) hS)
    | refine State.bumpPort_keeps ?_ (sub (by decide) hS) | refine State.setPort_keeps ?_ (sub (by decide) hS)
    | refine KeepsBut.ite (fun _ => ?_) (fun _ => ?_) | split | dsimp -proj only

theorem execTrainingRetry_keeps {ps : List Area} {s0 : State} {port : Nat} {s : State} (hK : KeepsBut ps s0 s) (hS :
    [.ports, .fresh] ⊆ ps) : KeepsOut ps s0 (@execTrainingRetry port s) := by
  unfold execTrainingRetry
  with_reducible repeat' first
    | assumption | refine KeepsOut.next ?_ | refine State.startAttempt_keeps ?_ (sub (by decide) hS)
    | refine KeepsBut.ite (fun _ => ?_) (fun _ => ?_) | split | dsimp -proj only

theorem execPortReset_keeps {ps : List Area} {s0 : State} {c : RslCmd} {port : Nat} {s : State} (hK : KeepsBut ps s0
    s) (hS : [.boot, .ports, .twin, .rsl, .evs, .ctrs, .fresh] ⊆ ps) : KeepsOut ps s0 (@execPortReset c port s) := by
  unfold execPortReset
  with_reducible repeat' first
    | assumption | refine KeepsOut.next ?_ | refine State.rslGate_keeps ?_ (fun v0F hF => ?_) (sub (by decide) hS)
    | refine State.rslAnswer_keeps ?_ (sub (by decide) hS) | refine State.linkDown_keeps ?_ (sub (by decide) hS)
    | refine State.setPort_keeps ?_ (sub (by decide) hS) | refine KeepsBut.ite (fun _ => ?_) (fun _ => ?_) | split
    | dsimp -proj only | refine upd_boot ?_ (sub (by decide) hS)

theorem State.laneFaulty_keeps {ps : List Area} {s0 s : State} {n lane : Nat} (hK : KeepsBut ps s0 s) (hS : [.ports,
    .rsl, .evs, .ctrs, .fresh] ⊆ ps) : KeepsBut ps s0 (@State.laneFaulty s n lane) := by
  unfold State.laneFaulty
  with_reducible repeat' first
    | assumption | refine State.setPort_keeps ?_ (sub (by decide) hS)
    | refine State.linkDown_keeps ?_ (sub (by decide) hS) | refine KeepsBut.ite (fun _ => ?_) (fun _ => ?_) | split
    | dsimp -proj only

theorem State.syncClass_keeps {ps : List Area} {s0 s : State} {n cls total : Nat} (hK : KeepsBut ps s0 s) (hS :
    [.ports, .evs, .ctrs] ⊆ ps) : KeepsBut ps s0 (@State.syncClass s n cls total) := by
  unfold State.syncClass
  with_reducible repeat' first
    | assumption | refine State.bumpPort_keeps ?_ (sub (by decide) hS)
    | refine State.setPort_keeps ?_ (sub (by decide) hS) | refine State.raise_keeps ?_ (sub (by decide) hS)
    | refine KeepsBut.ite (fun _ => ?_) (fun _ => ?_) | split | dsimp -proj only

theorem execCreditSync_keeps {ps : List Area} {s0 : State} {port : Nat} {f : RawFlit} {s : State} (hK : KeepsBut ps s0
    s) (hS : [.ports, .fab, .evs, .ctrs] ⊆ ps) : KeepsOut ps s0 (@execCreditSync port f s) := by
  unfold execCreditSync
  with_reducible repeat' first
    | assumption | refine KeepsOut.next ?_ | refine State.control_keeps ?_ (fun v0F hF => ?_) (sub (by decide) hS)
    | refine State.syncClass_keeps ?_ (sub (by decide) hS) | refine State.bumpPort_keeps ?_ (sub (by decide) hS)
    | refine KeepsBut.foldl ?_ (fun sF xF hF => ?_) | refine KeepsBut.foldl1 ?_ (fun sF xF hF => ?_)
    | refine KeepsBut.ite (fun _ => ?_) (fun _ => ?_) | split | dsimp -proj only
    | refine KeepsBut.of_pair ?_ (by assumption)

theorem State.laneTraining_keeps {ps : List Area} {s0 s : State} {n : Nat} {lanes : BitVec 5} (hK : KeepsBut ps s0 s)
    (hS : [.ports, .rsl, .evs, .ctrs, .fresh] ⊆ ps) : KeepsBut ps s0 (@State.laneTraining s n lanes) := by
  unfold State.laneTraining
  with_reducible repeat' first
    | assumption | refine State.setPort_keeps ?_ (sub (by decide) hS)
    | refine State.linkDown_keeps ?_ (sub (by decide) hS) | refine KeepsBut.ite (fun _ => ?_) (fun _ => ?_) | split
    | dsimp -proj only

theorem State.swapRequest_keeps {ps : List Area} {s0 s : State} {port lane : Nat} (hK : KeepsBut ps s0 s) (hS :
    [.ports, .rsl, .evs, .ctrs, .fresh] ⊆ ps) : KeepsBut ps s0 (@State.swapRequest s port lane) := by
  unfold State.swapRequest
  with_reducible repeat' first
    | assumption | refine State.setPort_keeps ?_ (sub (by decide) hS)
    | refine State.linkDown_keeps ?_ (sub (by decide) hS) | refine KeepsBut.ite (fun _ => ?_) (fun _ => ?_) | split
    | dsimp -proj only

theorem State.swapGo_keeps {ps : List Area} {s0 s : State} {port lane : Nat} (hK : KeepsBut ps s0 s) (hS : [.ports] ⊆
    ps) : KeepsBut ps s0 (@State.swapGo s port lane) := by
  unfold State.swapGo
  with_reducible repeat' first
    | assumption | refine State.setPort_keeps ?_ (sub (by decide) hS)
    | refine KeepsBut.ite (fun _ => ?_) (fun _ => ?_) | split | dsimp -proj only

theorem execLaneSwap_keeps {ps : List Area} {s0 : State} {port : Nat} {f : RawFlit} {s : State} (hK : KeepsBut ps s0
    s) (hS : [.ports, .fab, .rsl, .evs, .ctrs, .fresh] ⊆ ps) : KeepsOut ps s0 (@execLaneSwap port f s) := by
  unfold execLaneSwap
  with_reducible repeat' first
    | assumption | refine KeepsOut.next ?_ | refine State.control_keeps ?_ (fun v0F hF => ?_) (sub (by decide) hS)
    | refine State.swapRequest_keeps ?_ (sub (by decide) hS) | refine State.swapGo_keeps ?_ (sub (by decide) hS)
    | refine KeepsBut.ite (fun _ => ?_) (fun _ => ?_) | split | dsimp -proj only

theorem State.takeMessage_keeps {ps : List Area} {s0 s : State} {cls : Nat} {m : ReqHdr} (hK : KeepsBut ps s0 s) (hS :
    [.fab, .twin, .ctrs] ⊆ ps) : KeepsBut ps s0 (@State.takeMessage s cls m).1 := by
  unfold State.takeMessage
  with_reducible repeat' first
    | assumption | refine State.bumpPort_keeps ?_ (sub (by decide) hS)
    | refine State.journalIn_keeps ?_ (sub (by decide) hS) | refine KeepsBut.ite1 (fun _ => ?_) (fun _ => ?_) | split
    | dsimp -proj only | refine upd_fab ?_ (sub (by decide) hS) | refine upd_twin ?_ (sub (by decide) hS)

theorem State.takeMessages_keeps {ps : List Area} {s0 s : State} {cls : Nat} {y2 : List ReqHdr} (hK : KeepsBut ps s0
    s) (hS : [.fab, .twin, .ctrs] ⊆ ps) : KeepsBut ps s0 (@State.takeMessages s cls y2).1 := by
  unfold State.takeMessages
  with_reducible repeat' first
    | assumption | refine State.takeMessage_keeps ?_ (sub (by decide) hS)
    | refine State.takeMessages_keeps ?_ (sub (by decide) hS) | split
    | refine KeepsBut.ite1 (fun _ => ?_) (fun _ => ?_) | dsimp -proj only | refine KeepsBut.of_pair ?_ (by assumption)

theorem execIdle_keeps {ps : List Area} {s0 : State} {port : Nat} {f : RawFlit} {s : State} (hK : KeepsBut ps s0 s)
    (hS : [.ports, .fab, .ctrs] ⊆ ps) : KeepsOut ps s0 (@execIdle port f s) := by
  unfold execIdle
  with_reducible repeat' first
    | assumption | refine KeepsOut.next ?_ | refine State.control_keeps ?_ (fun v0F hF => ?_) (sub (by decide) hS)
    | dsimp -proj only

theorem execIngressSlotRelease_keeps {ps : List Area} {s0 : State} {port cls : Nat} {s : State} (hK : KeepsBut ps s0
    s) (hS : [.ports, .fab] ⊆ ps) : KeepsOut ps s0 (@execIngressSlotRelease port cls s) := by
  unfold execIngressSlotRelease
  with_reducible repeat' first
    | assumption | refine KeepsOut.next ?_ | refine State.setPort_keeps ?_ (sub (by decide) hS)
    | refine KeepsBut.ite (fun _ => ?_) (fun _ => ?_) | split | dsimp -proj only
    | refine upd_fab ?_ (sub (by decide) hS)

theorem execTimeProbe_keeps {ps : List Area} {s0 : State} {port : Nat} {f : RawFlit} {t2 : Nat} {s : State} (hK :
    KeepsBut ps s0 s) (hS : [.ports, .fab, .ctrs] ⊆ ps) : KeepsOut ps s0 (@execTimeProbe port f t2 s) := by
  unfold execTimeProbe
  with_reducible repeat' first
    | assumption | refine KeepsOut.next ?_ | refine State.control_keeps ?_ (fun v0F hF => ?_) (sub (by decide) hS)
    | refine State.setPort_keeps ?_ (sub (by decide) hS) | dsimp -proj only

theorem execTimeEcho_keeps {ps : List Area} {s0 : State} {port : Nat} {f : RawFlit} {t4 : Nat} {s : State} (hK :
    KeepsBut ps s0 s) (hS : [.ports, .fab, .evs, .ctrs] ⊆ ps) : KeepsOut ps s0 (@execTimeEcho port f t4 s) := by
  unfold execTimeEcho
  with_reducible repeat' first
    | assumption | refine KeepsOut.next ?_ | refine State.control_keeps ?_ (fun v0F hF => ?_) (sub (by decide) hS)
    | refine State.setPort_keeps ?_ (sub (by decide) hS) | refine State.raise_keeps ?_ (sub (by decide) hS)
    | refine KeepsBut.ite (fun _ => ?_) (fun _ => ?_) | split | dsimp -proj only

theorem execLaneLockLoss_keeps {ps : List Area} {s0 : State} {port : Nat} {lanes : BitVec 5} {s : State} (hK :
    KeepsBut ps s0 s) (hS : [.ports, .rsl, .evs, .ctrs, .fresh] ⊆ ps) : KeepsOut ps s0 (@execLaneLockLoss port lanes
    s) := by
  unfold execLaneLockLoss
  with_reducible repeat' first
    | assumption | refine KeepsOut.next ?_ | refine State.laneTraining_keeps ?_ (sub (by decide) hS)
    | refine State.linkDown_keeps ?_ (sub (by decide) hS) | refine State.setPort_keeps ?_ (sub (by decide) hS)
    | refine State.laneFaulty_keeps ?_ (sub (by decide) hS) | refine KeepsBut.foldl ?_ (fun sF xF hF => ?_)
    | refine KeepsBut.foldl1 ?_ (fun sF xF hF => ?_) | refine KeepsBut.ite (fun _ => ?_) (fun _ => ?_) | split
    | dsimp -proj only | refine KeepsBut.of_pair ?_ (by assumption)

theorem execLaneFecFault_keeps {ps : List Area} {s0 : State} {port lane : Nat} {corrected : List Nat} {s : State} (hK
    : KeepsBut ps s0 s) (hS : [.ports, .rsl, .evs, .ctrs, .fresh] ⊆ ps) : KeepsOut ps s0 (@execLaneFecFault port lane
    corrected s) := by
  unfold execLaneFecFault
  with_reducible repeat' first
    | assumption | refine KeepsOut.next ?_ | refine State.laneFaulty_keeps ?_ (sub (by decide) hS)
    | refine State.laneTraining_keeps ?_ (sub (by decide) hS) | refine KeepsBut.ite (fun _ => ?_) (fun _ => ?_)
    | split | dsimp -proj only

theorem execTrainingDone_keeps {ps : List Area} {s0 : State} {port : Nat} {s : State} (hK : KeepsBut ps s0 s) (hS :
    [.boot, .ports, .evs, .ctrs] ⊆ ps) : KeepsOut ps s0 (@execTrainingDone port s) := by
  unfold execTrainingDone
  with_reducible repeat' first
    | assumption | refine KeepsOut.next ?_ | refine State.raise_keeps ?_ (sub (by decide) hS)
    | refine State.setPort_keeps ?_ (sub (by decide) hS) | refine State.raisePortFault_keeps ?_ (sub (by decide) hS)
    | refine KeepsBut.ite (fun _ => ?_) (fun _ => ?_) | split | dsimp -proj only
    | refine upd_boot ?_ (sub (by decide) hS)

theorem State.acceptFlit_keeps {ps : List Area} {s0 s : State} {n cls : Nat} {msgs : List ReqHdr} (hK : KeepsBut ps s0
    s) (hS : [.ports, .fab, .twin, .ctrs] ⊆ ps) : KeepsBut ps s0 (@State.acceptFlit s n cls msgs) := by
  unfold State.acceptFlit
  with_reducible repeat' first
    | assumption | refine State.bumpPort_keeps ?_ (sub (by decide) hS)
    | refine State.setPort_keeps ?_ (sub (by decide) hS) | refine State.takeMessages_keeps ?_ (sub (by decide) hS)
    | refine KeepsBut.ite (fun _ => ?_) (fun _ => ?_) | split | refine KeepsBut.ite1 (fun _ => ?_) (fun _ => ?_)
    | dsimp -proj only | refine KeepsBut.of_pair ?_ (by assumption)

theorem execReplayTimerExpiry_keeps {ps : List Area} {s0 : State} {port atNs : Nat} {s : State} (hK : KeepsBut ps s0
    s) (hS : [.ports, .ctrs] ⊆ ps) : KeepsOut ps s0 (@execReplayTimerExpiry port atNs s) := by
  unfold execReplayTimerExpiry
  with_reducible repeat' first
    | assumption | refine KeepsOut.next ?_ | refine State.bumpPort_keeps ?_ (sub (by decide) hS)
    | refine State.startReplay_keeps ?_ (sub (by decide) hS) | refine KeepsBut.ite (fun _ => ?_) (fun _ => ?_) | split
    | dsimp -proj only

theorem execNak_keeps {ps : List Area} {s0 : State} {port : Nat} {f : RawFlit} {s : State} (hK : KeepsBut ps s0 s) (hS
    : [.ports, .fab, .ctrs] ⊆ ps) : KeepsOut ps s0 (@execNak port f s) := by
  unfold execNak
  with_reducible repeat' first
    | assumption | refine KeepsOut.next ?_ | refine State.control_keeps ?_ (fun v0F hF => ?_) (sub (by decide) hS)
    | refine State.takeNak_keeps ?_ (sub (by decide) hS) | dsimp -proj only

theorem execLinkSilenceTimeout_keeps {ps : List Area} {s0 : State} {port : Nat} {s : State} (hK : KeepsBut ps s0 s)
    (hS : [.ports, .rsl, .evs, .ctrs, .fresh] ⊆ ps) : KeepsOut ps s0 (@execLinkSilenceTimeout port s) := by
  unfold execLinkSilenceTimeout
  with_reducible repeat' first
    | assumption | refine KeepsOut.next ?_ | refine State.linkDown_keeps ?_ (sub (by decide) hS) | dsimp -proj only

theorem execTrainingTimeout_keeps {ps : List Area} {s0 : State} {port : Nat} {s : State} (hK : KeepsBut ps s0 s) (hS :
    [.ports] ⊆ ps) : KeepsOut ps s0 (@execTrainingTimeout port s) := by
  unfold execTrainingTimeout
  with_reducible repeat' first
    | assumption | refine KeepsOut.next ?_ | refine State.setPort_keeps ?_ (sub (by decide) hS)
    | refine KeepsBut.ite (fun _ => ?_) (fun _ => ?_) | split | dsimp -proj only

theorem execDataFlitRx_keeps {ps : List Area} {s0 : State} {port : Nat} {f : RawFlit} {marks : List (Nat × Nat)} {s :
    State} (hK : KeepsBut ps s0 s) (hS : [.ports, .fab, .twin, .ctrs] ⊆ ps) : KeepsOut ps s0 (@execDataFlitRx port f
    marks s) := by
  unfold execDataFlitRx
  with_reducible repeat' first
    | assumption | refine KeepsOut.next ?_ | refine State.bumpPort_keeps ?_ (sub (by decide) hS)
    | refine State.badFlit_keeps ?_ (sub (by decide) hS) | refine State.goodFlit_keeps ?_ (sub (by decide) hS)
    | refine State.acceptFlit_keeps ?_ (sub (by decide) hS) | refine State.setPort_keeps ?_ (sub (by decide) hS)
    | refine KeepsBut.ite (fun _ => ?_) (fun _ => ?_) | split | dsimp -proj only

end Sys2Proof.Machine
end

