-- ==== Sys2Proof/Laws/FrameControlOps.lean ====
section
/-! SUPPORT. The frame of each operation of Machine/ControlOps.lean: the parts of the state that it may change, and no others. -/

set_option Elab.async false

namespace Sys2Proof.Machine
open Sys2Proof

set_option maxRecDepth 4000
set_option linter.all false

theorem State.setRail_keeps {ps : List Area} {s0 s : State} {r : Nat} {x : Rail} (hK : KeepsBut ps s0 s) (hS :
    [.power] ⊆ ps) : KeepsBut ps s0 (@State.setRail s r x) := by
  unfold State.setRail
  with_reducible repeat' first
    | assumption | dsimp -proj only | refine upd_power ?_ (sub (by decide) hS)

theorem State.dropCopy_keeps {ps : List Area} {s0 s : State} (hK : KeepsBut ps s0 s) (hS : [.fab, .twin, .sec, .rsl,
    .ctrs] ⊆ ps) : KeepsBut ps s0 (@State.dropCopy s) := by
  unfold State.dropCopy
  with_reducible repeat' first
    | assumption | refine State.releaseAll_keeps ?_ (sub (by decide) hS) | dsimp -proj only
    | refine upd_twin_sec ?_ (sub (by decide) hS)

theorem State.sendTok_keeps {ps : List Area} {s0 s : State} {k : TokKind} {die od : Nat} (hK : KeepsBut ps s0 s) (hS :
    [.tok] ⊆ ps) : KeepsBut ps s0 (@State.sendTok s k die od) := by
  unfold State.sendTok
  with_reducible repeat' first
    | assumption | refine KeepsBut.ite (fun _ => ?_) (fun _ => ?_) | split | dsimp -proj only
    | refine upd_tok ?_ (sub (by decide) hS)

theorem State.sendToks_keeps {ps : List Area} {s0 s : State} {k : TokKind} {die : Nat} {ods : List Nat} (hK : KeepsBut
    ps s0 s) (hS : [.tok] ⊆ ps) : KeepsBut ps s0 (@State.sendToks s k die ods) := by
  unfold State.sendToks
  with_reducible repeat' first
    | assumption | refine State.sendTok_keeps ?_ (sub (by decide) hS) | refine KeepsBut.foldl ?_ (fun sF xF hF => ?_)
    | refine KeepsBut.foldl1 ?_ (fun sF xF hF => ?_) | dsimp -proj only | refine KeepsBut.of_pair ?_ (by assumption)

theorem State.loseFaults_keeps {ps : List Area} {s0 s : State} {bad : Nat → Bool} (hK : KeepsBut ps s0 s) (hS : [.fab,
    .coach, .mem, .twin, .sec, .rsl, .evs, .ctrs, .fresh] ⊆ ps) : KeepsBut ps s0 (@State.loseFaults s bad) := by
  unfold State.loseFaults
  with_reducible repeat' first
    | assumption | refine State.settle_keeps ?_ (sub (by decide) hS)
    | refine State.releaseFault_keeps ?_ (sub (by decide) hS) | refine State.descDone_keeps ?_ (sub (by decide) hS)
    | refine KeepsBut.foldl ?_ (fun sF xF hF => ?_) | refine KeepsBut.foldl1 ?_ (fun sF xF hF => ?_)
    | refine KeepsBut.ite (fun _ => ?_) (fun _ => ?_) | split | refine KeepsBut.ite1 (fun _ => ?_) (fun _ => ?_)
    | dsimp -proj only | refine KeepsBut.of_pair ?_ (by assumption)

theorem State.replyTok_keeps {ps : List Area} {s0 s : State} {die od : Nat} {r : TokReply} (hK : KeepsBut ps s0 s) (hS
    : [.tok] ⊆ ps) : KeepsBut ps s0 (@State.replyTok s die od r) := by
  unfold State.replyTok
  with_reducible repeat' first
    | assumption | refine KeepsBut.ite (fun _ => ?_) (fun _ => ?_) | split | dsimp -proj only
    | refine upd_tok ?_ (sub (by decide) hS)

theorem State.resetDie_keeps {ps : List Area} {s0 s : State} {die : Nat} (hK : KeepsBut ps s0 s) (hS : [.clk, .boot,
    .tok] ⊆ ps) : KeepsBut ps s0 (@State.resetDie s die) := by
  unfold State.resetDie
  with_reducible repeat' first
    | assumption | refine KeepsBut.foldl ?_ (fun sF xF hF => ?_) | refine KeepsBut.foldl1 ?_ (fun sF xF hF => ?_)
    | dsimp -proj only | refine KeepsBut.of_pair ?_ (by assumption) | refine upd_clk_boot_tok ?_ (sub (by decide) hS)

theorem State.restartPolicy_keeps {ps : List Area} {s0 s : State} {gone : Bool} (hK : KeepsBut ps s0 s) (hS : [.clk,
    .boot, .tok, .twin, .evs, .ctrs] ⊆ ps) : KeepsBut ps s0 (@State.restartPolicy s gone) := by
  unfold State.restartPolicy
  with_reducible repeat' first
    | assumption | refine State.resetDie_keeps ?_ (sub (by decide) hS)
    | refine State.raise_keeps ?_ (sub (by decide) hS) | refine KeepsBut.ite (fun _ => ?_) (fun _ => ?_) | split
    | dsimp -proj only | refine upd_twin ?_ (sub (by decide) hS)

theorem State.loseDescs_keeps {ps : List Area} {s0 s : State} {bad : Nat → Bool} (hK : KeepsBut ps s0 s) (hS : [.fab,
    .coach, .mem, .twin, .sec, .rsl, .evs, .ctrs, .fresh] ⊆ ps) : KeepsBut ps s0 (@State.loseDescs s bad) := by
  unfold State.loseDescs
  with_reducible repeat' first
    | assumption | refine State.settle_keeps ?_ (sub (by decide) hS)
    | refine State.endDesc_keeps ?_ (sub (by decide) hS) | refine State.setDesc_keeps ?_ (sub (by decide) hS)
    | refine KeepsBut.foldl ?_ (fun sF xF hF => ?_) | refine KeepsBut.foldl1 ?_ (fun sF xF hF => ?_)
    | refine KeepsBut.ite (fun _ => ?_) (fun _ => ?_) | split | dsimp -proj only
    | refine KeepsBut.of_pair ?_ (by assumption)

theorem State.loseCounts_keeps {ps : List Area} {s0 s : State} {bad : Nat → Bool} (hK : KeepsBut ps s0 s) (hS : [.mem]
    ⊆ ps) : KeepsBut ps s0 (@State.loseCounts s bad) := by
  unfold State.loseCounts
  with_reducible repeat' first
    | assumption | refine KeepsBut.ite1 (fun _ => ?_) (fun _ => ?_) | dsimp -proj only
    | refine upd_mem ?_ (sub (by decide) hS)

theorem State.loseSpill_keeps {ps : List Area} {s0 s : State} {bad : Nat → Bool} (hK : KeepsBut ps s0 s) (hS : [.fab,
    .stock, .twin] ⊆ ps) : KeepsBut ps s0 (@State.loseSpill s bad) := by
  unfold State.loseSpill
  with_reducible repeat' first
    | assumption | refine State.failBlock_keeps ?_ (sub (by decide) hS)
    | refine KeepsBut.foldl ?_ (fun sF xF hF => ?_) | refine KeepsBut.foldl1 ?_ (fun sF xF hF => ?_)
    | refine KeepsBut.ite (fun _ => ?_) (fun _ => ?_) | split | refine KeepsBut.ite1 (fun _ => ?_) (fun _ => ?_)
    | dsimp -proj only | refine KeepsBut.of_pair ?_ (by assumption)

theorem State.loseReplay_keeps {ps : List Area} {s0 s : State} {bad : Nat → Bool} (hK : KeepsBut ps s0 s) (hS :
    [.ports, .rsl, .evs, .ctrs, .fresh] ⊆ ps) : KeepsBut ps s0 (@State.loseReplay s bad) := by
  unfold State.loseReplay
  with_reducible repeat' first
    | assumption | refine State.linkDown_keeps ?_ (sub (by decide) hS)
    | refine State.setPort_keeps ?_ (sub (by decide) hS) | refine KeepsBut.foldl ?_ (fun sF xF hF => ?_)
    | refine KeepsBut.foldl1 ?_ (fun sF xF hF => ?_) | refine KeepsBut.ite1 (fun _ => ?_) (fun _ => ?_)
    | dsimp -proj only | refine KeepsBut.of_pair ?_ (by assumption)

theorem State.pantryLost_keeps {ps : List Area} {s0 s : State} {bad : Nat → Bool} (hK : KeepsBut ps s0 s) (hS :
    [.ports, .fab, .coach, .stock, .mem, .twin, .sec, .rsl, .evs, .ctrs, .fresh] ⊆ ps) : KeepsBut ps s0
    (@State.pantryLost s bad) := by
  unfold State.pantryLost
  with_reducible repeat' first
    | assumption | refine State.loseFaults_keeps ?_ (sub (by decide) hS)
    | refine State.loseCounts_keeps ?_ (sub (by decide) hS) | refine State.loseSpill_keeps ?_ (sub (by decide) hS)
    | refine State.loseDescs_keeps ?_ (sub (by decide) hS) | refine State.loseReplay_keeps ?_ (sub (by decide) hS)
    | dsimp -proj only

theorem State.activeStops_keeps {ps : List Area} {s0 s : State} {speaks release : Bool} (hK : KeepsBut ps s0 s) (hS :
    [.tok, .fab, .twin, .evs, .ctrs] ⊆ ps) : KeepsBut ps s0 (@State.activeStops s speaks release) := by
  unfold State.activeStops
  with_reducible repeat' first
    | assumption | refine State.sendToks_keeps ?_ (sub (by decide) hS)
    | refine State.poolFatal_keeps ?_ (sub (by decide) hS) | refine KeepsBut.ite (fun _ => ?_) (fun _ => ?_) | split
    | dsimp -proj only | refine upd_tok_twin ?_ (sub (by decide) hS)

theorem State.endPaired_keeps {ps : List Area} {s0 s : State} {code value : Nat} (hK : KeepsBut ps s0 s) (hS :
    [.repro, .twin, .rsl, .ctrs] ⊆ ps) : KeepsBut ps s0 (@State.endPaired s code value) := by
  unfold State.endPaired
  with_reducible repeat' first
    | assumption | refine State.rslDone_keeps ?_ (sub (by decide) hS) | refine KeepsBut.foldl ?_ (fun sF xF hF => ?_)
    | refine KeepsBut.foldl1 ?_ (fun sF xF hF => ?_) | split | dsimp -proj only
    | refine KeepsBut.of_pair ?_ (by assumption) | refine upd_repro ?_ (sub (by decide) hS)

theorem State.loseTender_keeps {ps : List Area} {s0 s : State} {gone : Bool} (hK : KeepsBut ps s0 s) (hS : [.clk,
    .boot, .tok, .fab, .repro, .twin, .sec, .rsl, .evs, .ctrs] ⊆ ps) : KeepsBut ps s0 (@State.loseTender s gone) := by
  unfold State.loseTender
  with_reducible repeat' first
    | assumption | refine State.restartPolicy_keeps ?_ (sub (by decide) hS)
    | refine State.endPaired_keeps ?_ (sub (by decide) hS) | refine State.dropCopy_keeps ?_ (sub (by decide) hS)
    | refine State.raise_keeps ?_ (sub (by decide) hS) | refine KeepsBut.ite (fun _ => ?_) (fun _ => ?_) | split
    | dsimp -proj only | refine upd_twin ?_ (sub (by decide) hS)

theorem State.dieLost_keeps {ps : List Area} {s0 s : State} {die : Nat} {gone : Bool} (hK : KeepsBut ps s0 s) (hS :
    [.clk, .boot, .tok, .fab, .repro, .twin, .sec, .rsl, .evs, .ctrs] ⊆ ps) : KeepsBut ps s0 (@State.dieLost s die
    gone) := by
  unfold State.dieLost
  with_reducible repeat' first
    | assumption | refine State.activeStops_keeps ?_ (sub (by decide) hS)
    | refine State.loseTender_keeps ?_ (sub (by decide) hS) | refine KeepsBut.ite (fun _ => ?_) (fun _ => ?_) | split
    | dsimp -proj only | refine upd_boot_tok_twin ?_ (sub (by decide) hS)

theorem State.judgeLost_keeps {ps : List Area} {s0 s : State} {cause : Nat} (hK : KeepsBut ps s0 s) (hS : [.tok,
    .twin] ⊆ ps) : KeepsBut ps s0 (@State.judgeLost s cause) := by
  unfold State.judgeLost
  with_reducible repeat' first
    | assumption | refine KeepsBut.ite (fun _ => ?_) (fun _ => ?_) | split | dsimp -proj only
    | refine upd_tok_twin ?_ (sub (by decide) hS)

theorem State.loseTrackers_keeps {ps : List Area} {s0 s : State} {ns : List Nat} (hK : KeepsBut ps s0 s) (hS : [.fab,
    .pool, .coh, .coach, .twin, .sec, .rsl, .evs, .ctrs] ⊆ ps) : KeepsBut ps s0 (@State.loseTrackers s ns) := by
  unfold State.loseTrackers
  with_reducible repeat' first
    | assumption | refine State.homePoison_keeps ?_ (sub (by decide) hS)
    | refine KeepsBut.foldl ?_ (fun sF xF hF => ?_) | refine KeepsBut.foldl1 ?_ (fun sF xF hF => ?_)
    | refine KeepsBut.ite (fun _ => ?_) (fun _ => ?_) | split | dsimp -proj only
    | refine KeepsBut.of_pair ?_ (by assumption)

theorem State.partFailed_keeps {ps : List Area} {s0 s : State} {ns : List Nat} (hK : KeepsBut ps s0 s) (hS : [.ports,
    .fab, .pool, .coh, .coach, .stock, .mem, .twin, .sec, .rsl, .evs, .ctrs, .fresh] ⊆ ps) : KeepsBut ps s0
    (@State.partFailed s ns) := by
  unfold State.partFailed
  with_reducible repeat' first
    | assumption | refine State.loseTrackers_keeps ?_ (sub (by decide) hS)
    | refine State.stackDead_keeps ?_ (sub (by decide) hS) | refine State.pantryLost_keeps ?_ (sub (by decide) hS)
    | refine State.damage_keeps ?_ (sub (by decide) hS) | refine KeepsBut.foldl ?_ (fun sF xF hF => ?_)
    | refine KeepsBut.foldl1 ?_ (fun sF xF hF => ?_) | refine KeepsBut.ite1 (fun _ => ?_) (fun _ => ?_)
    | dsimp -proj only | refine KeepsBut.of_pair ?_ (by assumption)

theorem State.pdLoss_keeps {ps : List Area} {s0 s : State} (hK : KeepsBut ps s0 s) (hS : [.tok, .ports] ⊆ ps) :
    KeepsBut ps s0 (@State.pdLoss s) := by
  unfold State.pdLoss
  with_reducible repeat' first
    | assumption | refine KeepsBut.ite1 (fun _ => ?_) (fun _ => ?_) | dsimp -proj only
    | refine upd_tok_ports ?_ (sub (by decide) hS)

theorem State.hubLoss_keeps {ps : List Area} {s0 s : State} {hub : Nat} (hK : KeepsBut ps s0 s) (hS : [.tok, .ports,
    .fab, .pool, .coh, .coach, .stock, .mem, .twin, .sec, .rsl, .evs, .ctrs, .fresh] ⊆ ps) : KeepsBut ps s0
    (@State.hubLoss s hub) := by
  unfold State.hubLoss
  with_reducible repeat' first
    | assumption | refine State.partFailed_keeps ?_ (sub (by decide) hS)
    | refine State.poolFatal_keeps ?_ (sub (by decide) hS) | refine KeepsBut.ite (fun _ => ?_) (fun _ => ?_) | split
    | dsimp -proj only | refine upd_tok ?_ (sub (by decide) hS)

theorem State.wiped_keeps {ps : List Area} {s0 s : State} {p : Power} (hK : KeepsBut ps s0 s)
    (hS : [.power, .clk, .boot, .cfg, .tok, .ports, .fab, .pool, .coh, .coach, .stock, .repro, .mem, .twin, .sec, .rsl,
      .evs, .ctrs] ⊆ ps) : KeepsBut ps s0 (s.wiped p) := by
  intro a ha
  cases a <;> first | exact absurd (hS (by decide)) ha | exact hK _ ha

theorem State.moduleReset_keeps {ps : List Area} {s0 s : State} {cause : Nat} (hK : KeepsBut ps s0 s) (hS : [.pending,
    .power, .clk, .boot, .cfg, .tok, .ports, .fab, .pool, .coh, .coach, .stock, .repro, .mem, .twin, .sec, .rsl, .evs,
    .ctrs, .fresh] ⊆ ps) : KeepsBut ps s0 (@State.moduleReset s cause) := by
  unfold State.moduleReset
  with_reducible repeat' first
    | assumption | refine State.wiped_keeps ?_ (sub (by decide) hS) | refine KeepsBut.ite (fun _ => ?_) (fun _ => ?_)
    | split | dsimp -proj only | refine upd_boot ?_ (sub (by decide) hS)

theorem State.turnOff_keeps {ps : List Area} {s0 s : State} (hK : KeepsBut ps s0 s) (hS : [.pending, .power, .clk,
    .boot, .cfg, .tok, .ports, .fab, .pool, .coh, .coach, .stock, .repro, .mem, .twin, .sec, .rsl, .evs, .ctrs,
    .fresh] ⊆ ps) : KeepsBut ps s0 (@State.turnOff s) := by
  unfold State.turnOff
  with_reducible repeat' first
    | assumption | refine State.wiped_keeps ?_ (sub (by decide) hS) | dsimp -proj only

theorem State.portsLost_keeps {ps : List Area} {s0 s : State} {y1 : List Nat} (hK : KeepsBut ps s0 s) (hS : [.clk,
    .ports, .rsl, .evs, .ctrs, .fresh] ⊆ ps) : KeepsBut ps s0 (@State.portsLost s y1) := by
  unfold State.portsLost
  with_reducible repeat' first
    | assumption | refine State.linkDown_keeps ?_ (sub (by decide) hS) | refine KeepsBut.foldl ?_ (fun sF xF hF => ?_)
    | refine KeepsBut.foldl1 ?_ (fun sF xF hF => ?_) | dsimp -proj only | refine KeepsBut.of_pair ?_ (by assumption)
    | refine upd_clk ?_ (sub (by decide) hS)

theorem State.applyPower_keeps {ps : List Area} {s0 s : State} {cause : Nat} (hK : KeepsBut ps s0 s) (hS : [.power,
    .boot] ⊆ ps) : KeepsBut ps s0 (@State.applyPower s cause) := by
  unfold State.applyPower
  with_reducible repeat' first
    | assumption | dsimp -proj only | refine upd_boot ?_ (sub (by decide) hS)
    | refine upd_power ?_ (sub (by decide) hS)

theorem State.coreRailLost_keeps {ps : List Area} {s0 s : State} {r : Nat} (hK : KeepsBut ps s0 s) (hS : [.pending,
    .power, .clk, .boot, .cfg, .tok, .ports, .fab, .pool, .coh, .coach, .stock, .repro, .mem, .twin, .sec, .rsl, .evs,
    .ctrs, .fresh] ⊆ ps) : KeepsBut ps s0 (@State.coreRailLost s r) := by
  unfold State.coreRailLost
  with_reducible repeat' first
    | assumption | refine State.wiped_keeps ?_ (sub (by decide) hS) | dsimp -proj only

theorem State.railLost_keeps {ps : List Area} {s0 s : State} {r : Nat} (hK : KeepsBut ps s0 s) (hS : [.pending,
    .power, .clk, .boot, .cfg, .tok, .ports, .fab, .pool, .coh, .coach, .stock, .repro, .mem, .twin, .sec, .rsl, .evs,
    .ctrs, .fresh] ⊆ ps) : KeepsBut ps s0 (@State.railLost s r) := by
  unfold State.railLost
  with_reducible repeat' first
    | assumption | refine State.coreRailLost_keeps ?_ (sub (by decide) hS)
    | refine State.setRail_keeps ?_ (sub (by decide) hS) | refine State.pdLoss_keeps ?_ (sub (by decide) hS)
    | refine State.raise_keeps ?_ (sub (by decide) hS) | refine State.dieLost_keeps ?_ (sub (by decide) hS)
    | refine State.hubLoss_keeps ?_ (sub (by decide) hS) | refine State.portsLost_keeps ?_ (sub (by decide) hS)
    | refine State.partFailed_keeps ?_ (sub (by decide) hS) | refine KeepsBut.ite (fun _ => ?_) (fun _ => ?_) | split
    | dsimp -proj only | refine upd_power ?_ (sub (by decide) hS)

end Sys2Proof.Machine
end

