-- ==== Sys2Proof/Laws/FrameLadle.lean ====
section
/-! SUPPORT. The frame of each operation of Machine/Ladle.lean: the parts of the state that it may change, and no others. -/

set_option Elab.async false

namespace Sys2Proof.Machine
open Sys2Proof

set_option maxRecDepth 4000
set_option linter.all false

theorem execLadleScrubRead_keeps {ps : List Area} {s0 : State} {ppn line : Nat} {err : Err} {endsPass : Bool} {s :
    State} (hK : KeepsBut ps s0 s) (hS : [.ports, .fab, .pool, .coh, .coach, .stock, .mem, .twin, .sec, .rsl, .evs,
    .ctrs, .fresh] ⊆ ps) : KeepsOut ps s0 (@execLadleScrubRead ppn line err endsPass s) := by
  unfold execLadleScrubRead
  with_reducible repeat' first
    | assumption | refine KeepsOut.next ?_ | refine State.hubRead_keeps ?_ (sub (by decide) hS)
    | refine State.pantryLost_keeps ?_ (sub (by decide) hS) | refine State.dataLostPage_keeps ?_ (sub (by decide) hS)
    | refine State.retirePage_keeps ?_ (sub (by decide) hS) | refine State.rememberCe_keeps ?_ (sub (by decide) hS)
    | refine State.passEnds_keeps ?_ (sub (by decide) hS) | refine KeepsBut.ite (fun _ => ?_) (fun _ => ?_) | split
    | refine KeepsBut.ite1 (fun _ => ?_) (fun _ => ?_) | dsimp -proj only | refine KeepsBut.of_pair ?_ (by assumption)
    | refine upd_mem ?_ (sub (by decide) hS)

theorem execStackFail_keeps {ps : List Area} {s0 : State} {stack : Nat} {s : State} (hK : KeepsBut ps s0 s) (hS :
    [.ports, .fab, .pool, .coh, .coach, .stock, .mem, .twin, .sec, .rsl, .evs, .ctrs, .fresh] ⊆ ps) : KeepsOut ps s0
    (@execStackFail stack s) := by
  unfold execStackFail
  with_reducible repeat' first
    | assumption | refine KeepsOut.next ?_ | refine State.partFailed_keeps ?_ (sub (by decide) hS)
    | refine KeepsBut.ite (fun _ => ?_) (fun _ => ?_) | split | dsimp -proj only

end Sys2Proof.Machine
end

