-- ==== Sys2Proof/Laws/FramePower.lean ====
section
/-! SUPPORT. The frame of each operation of Machine/Power.lean: the parts of the state that it may change, and no others. -/

set_option Elab.async false

namespace Sys2Proof.Machine
open Sys2Proof

set_option maxRecDepth 4000
set_option linter.all false

theorem State.pulseTakes_keeps {ps : List Area} {s0 s : State} {ns : Nat} (hK : KeepsBut ps s0 s) (hS : [.fresh] ⊆ ps)
    : KeepsBut ps s0 (@State.pulseTakes s ns).1 := by
  unfold State.pulseTakes
  with_reducible repeat' first
    | assumption | refine KeepsBut.ite1 (fun _ => ?_) (fun _ => ?_) | split | dsimp -proj only
    | refine upd_fresh ?_ (sub (by decide) hS)

theorem State.resetInput_keeps {ps : List Area} {s0 s : State} {ns cause : Nat} (hK : KeepsBut ps s0 s) (hS :
    [.pending, .power, .clk, .boot, .cfg, .tok, .ports, .fab, .pool, .coh, .coach, .stock, .repro, .mem, .twin, .sec,
    .rsl, .evs, .ctrs, .fresh] ⊆ ps) : KeepsBut ps s0 (@State.resetInput s ns cause) := by
  unfold State.resetInput
  with_reducible repeat' first
    | assumption | refine State.pulseTakes_keeps ?_ (sub (by decide) hS)
    | refine State.moduleReset_keeps ?_ (sub (by decide) hS) | refine KeepsBut.ite (fun _ => ?_) (fun _ => ?_) | split
    | refine KeepsBut.ite1 (fun _ => ?_) (fun _ => ?_) | dsimp -proj only | refine KeepsBut.of_pair ?_ (by assumption)
    | refine upd_power ?_ (sub (by decide) hS)

theorem execSvcRstN_keeps {ps : List Area} {s0 : State} {lowNs : Nat} {s : State} (hK : KeepsBut ps s0 s) (hS :
    [.pending, .power, .clk, .boot, .cfg, .tok, .ports, .fab, .pool, .coh, .coach, .stock, .repro, .mem, .twin, .sec,
    .rsl, .evs, .ctrs, .fresh] ⊆ ps) : KeepsOut ps s0 (@execSvcRstN lowNs s) := by
  unfold execSvcRstN
  with_reducible repeat' first
    | assumption | refine KeepsOut.next ?_ | refine State.resetInput_keeps ?_ (sub (by decide) hS) | dsimp -proj only

theorem State.setMon_keeps {ps : List Area} {s0 s : State} {i : Nat} {m : Monitor} (hK : KeepsBut ps s0 s) (hS :
    [.power] ⊆ ps) : KeepsBut ps s0 (@State.setMon s i m) := by
  unfold State.setMon
  with_reducible repeat' first
    | assumption | dsimp -proj only | refine upd_power ?_ (sub (by decide) hS)

theorem execTripInputOff_keeps {ps : List Area} {s0 s : State} (hK : KeepsBut ps s0 s) (hS : [.pending, .power, .clk,
    .boot, .cfg, .tok, .ports, .fab, .pool, .coh, .coach, .stock, .repro, .mem, .twin, .sec, .rsl, .evs, .ctrs,
    .fresh] ⊆ ps) : KeepsOut ps s0 (@execTripInputOff s) := by
  unfold execTripInputOff
  with_reducible repeat' first
    | assumption | refine KeepsOut.next ?_ | refine State.turnOff_keeps ?_ (sub (by decide) hS)
    | refine KeepsBut.ite (fun _ => ?_) (fun _ => ?_) | split | dsimp -proj only
    | refine upd_power ?_ (sub (by decide) hS)

theorem State.stackSteps_keeps {ps : List Area} {s0 s : State} {p : Nat} (hK : KeepsBut ps s0 s) (hS : [.mem] ⊆ ps) :
    KeepsBut ps s0 (@State.stackSteps s p) := by
  unfold State.stackSteps
  with_reducible repeat' first
    | assumption | refine State.setStack_keeps ?_ (sub (by decide) hS)
    | refine KeepsBut.ite (fun _ => ?_) (fun _ => ?_) | split | dsimp -proj only

theorem State.setPart_keeps {ps : List Area} {s0 s : State} {p : Nat} {x : Part} (hK : KeepsBut ps s0 s) (hS :
    [.power] ⊆ ps) : KeepsBut ps s0 (@State.setPart s p x) := by
  unfold State.setPart
  with_reducible repeat' first
    | assumption | dsimp -proj only | refine upd_power ?_ (sub (by decide) hS)

theorem State.judgePart_keeps {ps : List Area} {s0 s : State} {sensor : Nat} (hK : KeepsBut ps s0 s) (hS : [.power,
    .tok, .fab, .mem, .evs, .ctrs] ⊆ ps) : KeepsBut ps s0 (@State.judgePart s sensor) := by
  unfold State.judgePart
  with_reducible repeat' first
    | assumption | refine State.stackSteps_keeps ?_ (sub (by decide) hS)
    | refine State.setPart_keeps ?_ (sub (by decide) hS) | refine State.raise_keeps ?_ (sub (by decide) hS)
    | refine State.poolFatal_keeps ?_ (sub (by decide) hS) | refine KeepsBut.foldl ?_ (fun sF xF hF => ?_)
    | refine KeepsBut.foldl1 ?_ (fun sF xF hF => ?_) | refine KeepsBut.ite (fun _ => ?_) (fun _ => ?_) | split
    | dsimp -proj only | refine KeepsBut.of_pair ?_ (by assumption) | refine upd_power ?_ (sub (by decide) hS)

theorem execSenseLineOpen_keeps {ps : List Area} {s0 : State} {rail : Nat} {s : State} (hK : KeepsBut ps s0 s) (hS :
    [.power, .evs, .ctrs] ⊆ ps) : KeepsOut ps s0 (@execSenseLineOpen rail s) := by
  unfold execSenseLineOpen
  with_reducible repeat' first
    | assumption | refine KeepsOut.next ?_ | refine State.setRail_keeps ?_ (sub (by decide) hS)
    | refine State.setMon_keeps ?_ (sub (by decide) hS) | refine State.raise_keeps ?_ (sub (by decide) hS)
    | refine KeepsBut.ite (fun _ => ?_) (fun _ => ?_) | split | dsimp -proj only

theorem State.sampleTemp_keeps {ps : List Area} {s0 s : State} {n : Nat} {value : BitVec 16} {fault : Bool} (hK :
    KeepsBut ps s0 s) (hS : [.power, .tok, .fab, .mem, .evs, .ctrs] ⊆ ps) : KeepsBut ps s0 (@State.sampleTemp s n
    value fault) := by
  unfold State.sampleTemp
  with_reducible repeat' first
    | assumption | refine State.setMon_keeps ?_ (sub (by decide) hS)
    | refine State.raise_keeps ?_ (sub (by decide) hS) | refine State.stackSteps_keeps ?_ (sub (by decide) hS)
    | refine State.setPart_keeps ?_ (sub (by decide) hS) | refine State.judgePart_keeps ?_ (sub (by decide) hS)
    | refine KeepsBut.ite (fun _ => ?_) (fun _ => ?_) | split | dsimp -proj only

theorem execInputHighEntry_keeps {ps : List Area} {s0 : State} {mv : Nat} {s : State} (hK : KeepsBut ps s0 s) (hS :
    [.power, .evs, .ctrs] ⊆ ps) : KeepsOut ps s0 (@execInputHighEntry mv s) := by
  unfold execInputHighEntry
  with_reducible repeat' first
    | assumption | refine KeepsOut.next ?_ | refine State.raise_keeps ?_ (sub (by decide) hS)
    | refine KeepsBut.ite (fun _ => ?_) (fun _ => ?_) | split | dsimp -proj only
    | refine upd_power ?_ (sub (by decide) hS)

theorem execModuleResetBegin_keeps {ps : List Area} {s0 s : State} (hK : KeepsBut ps s0 s) (hS : [.pending, .power,
    .clk, .boot, .cfg, .tok, .ports, .fab, .pool, .coh, .coach, .stock, .repro, .mem, .twin, .sec, .rsl, .evs, .ctrs,
    .fresh] ⊆ ps) : KeepsOut ps s0 (@execModuleResetBegin s) := by
  unfold execModuleResetBegin
  with_reducible repeat' first
    | assumption | refine KeepsOut.next ?_ | refine State.moduleReset_keeps ?_ (sub (by decide) hS)
    | refine KeepsBut.ite (fun _ => ?_) (fun _ => ?_) | split | dsimp -proj only
    | refine upd_power ?_ (sub (by decide) hS)

theorem execOvervoltageCutoff_keeps {ps : List Area} {s0 : State} {mv : Nat} {s : State} (hK : KeepsBut ps s0 s) (hS :
    [.pending, .power, .clk, .boot, .cfg, .tok, .ports, .fab, .pool, .coh, .coach, .stock, .repro, .mem, .twin, .sec,
    .rsl, .evs, .ctrs, .fresh] ⊆ ps) : KeepsOut ps s0 (@execOvervoltageCutoff mv s) := by
  unfold execOvervoltageCutoff
  with_reducible repeat' first
    | assumption | refine KeepsOut.next ?_ | refine State.turnOff_keeps ?_ (sub (by decide) hS)
    | refine KeepsBut.ite (fun _ => ?_) (fun _ => ?_) | split | dsimp -proj only
    | refine upd_power ?_ (sub (by decide) hS)

theorem State.sampleProcess_keeps {ps : List Area} {s0 s : State} {n : Nat} {value : BitVec 16} {fault : Bool} (hK :
    KeepsBut ps s0 s) (hS : [.power, .evs, .ctrs] ⊆ ps) : KeepsBut ps s0 (@State.sampleProcess s n value fault) := by
  unfold State.sampleProcess
  with_reducible repeat' first
    | assumption | refine State.setMon_keeps ?_ (sub (by decide) hS)
    | refine State.raise_keeps ?_ (sub (by decide) hS) | refine KeepsBut.ite (fun _ => ?_) (fun _ => ?_) | split
    | dsimp -proj only

theorem execVinTurnOn_keeps {ps : List Area} {s0 : State} {mv : Nat} {s : State} (hK : KeepsBut ps s0 s) (hS :
    [.power, .boot] ⊆ ps) : KeepsOut ps s0 (@execVinTurnOn mv s) := by
  unfold execVinTurnOn
  with_reducible repeat' first
    | assumption | refine KeepsOut.next ?_ | refine State.applyPower_keeps ?_ (sub (by decide) hS)
    | refine KeepsBut.ite (fun _ => ?_) (fun _ => ?_) | split | dsimp -proj only
    | refine upd_power ?_ (sub (by decide) hS)

theorem State.sampleRail_keeps {ps : List Area} {s0 s : State} {n : Nat} {value : BitVec 16} (hK : KeepsBut ps s0 s)
    (hS : [.power] ⊆ ps) : KeepsBut ps s0 (@State.sampleRail s n value) := by
  unfold State.sampleRail
  with_reducible repeat' first
    | assumption | refine State.setMon_keeps ?_ (sub (by decide) hS) | refine KeepsBut.ite (fun _ => ?_) (fun _ => ?_)
    | split | dsimp -proj only | refine upd_power ?_ (sub (by decide) hS)

theorem execMonitorSample_keeps {ps : List Area} {s0 : State} {mon : Nat} {value : BitVec 16} {fault : Bool} {s :
    State} (hK : KeepsBut ps s0 s) (hS : [.power, .tok, .fab, .mem, .evs, .ctrs] ⊆ ps) : KeepsOut ps s0
    (@execMonitorSample mon value fault s) := by
  unfold execMonitorSample
  with_reducible repeat' first
    | assumption | refine KeepsOut.next ?_ | refine State.sampleTemp_keeps ?_ (sub (by decide) hS)
    | refine State.sampleRail_keeps ?_ (sub (by decide) hS) | refine State.sampleProcess_keeps ?_ (sub (by decide) hS)
    | refine KeepsBut.ite (fun _ => ?_) (fun _ => ?_) | split | dsimp -proj only

theorem execThermalComparator_keeps {ps : List Area} {s0 : State} {sensor : Nat} {s : State} (hK : KeepsBut ps s0 s)
    (hS : [.pending, .power, .clk, .boot, .cfg, .tok, .ports, .fab, .pool, .coh, .coach, .stock, .repro, .mem, .twin,
    .sec, .rsl, .evs, .ctrs, .fresh] ⊆ ps) : KeepsOut ps s0 (@execThermalComparator sensor s) := by
  unfold execThermalComparator
  with_reducible repeat' first
    | assumption | refine KeepsOut.next ?_ | refine State.turnOff_keeps ?_ (sub (by decide) hS)
    | refine KeepsBut.ite (fun _ => ?_) (fun _ => ?_) | split | dsimp -proj only
    | refine upd_power ?_ (sub (by decide) hS)

theorem State.setCable_keeps {ps : List Area} {s0 s : State} {k : Nat} {x : Cable} (hK : KeepsBut ps s0 s) (hS :
    [.power] ⊆ ps) : KeepsBut ps s0 (@State.setCable s k x) := by
  unfold State.setCable
  with_reducible repeat' first
    | assumption | dsimp -proj only | refine upd_power ?_ (sub (by decide) hS)

theorem execCableRemoved_keeps {ps : List Area} {s0 : State} {fab : Nat} {s : State} (hK : KeepsBut ps s0 s) (hS :
    [.power, .ports, .rsl, .evs, .ctrs, .fresh] ⊆ ps) : KeepsOut ps s0 (@execCableRemoved fab s) := by
  unfold execCableRemoved
  with_reducible repeat' first
    | assumption | refine KeepsOut.next ?_ | refine State.linkDown_keeps ?_ (sub (by decide) hS)
    | refine State.setCable_keeps ?_ (sub (by decide) hS) | refine KeepsBut.foldl ?_ (fun sF xF hF => ?_)
    | refine KeepsBut.foldl1 ?_ (fun sF xF hF => ?_) | refine KeepsBut.ite (fun _ => ?_) (fun _ => ?_) | split
    | dsimp -proj only | refine KeepsBut.of_pair ?_ (by assumption)

theorem execModuleResetRelease_keeps {ps : List Area} {s0 s : State} (hK : KeepsBut ps s0 s) (hS : [.power] ⊆ ps) :
    KeepsOut ps s0 (@execModuleResetRelease s) := by
  unfold execModuleResetRelease
  with_reducible repeat' first
    | assumption | refine KeepsOut.next ?_ | refine KeepsBut.ite (fun _ => ?_) (fun _ => ?_) | split
    | dsimp -proj only | refine upd_power ?_ (sub (by decide) hS)

theorem execCableFault_keeps {ps : List Area} {s0 : State} {fab : Nat} {s : State} (hK : KeepsBut ps s0 s) (hS :
    [.power, .ports, .rsl, .evs, .ctrs, .fresh] ⊆ ps) : KeepsOut ps s0 (@execCableFault fab s) := by
  unfold execCableFault
  with_reducible repeat' first
    | assumption | refine KeepsOut.next ?_ | refine State.linkDown_keeps ?_ (sub (by decide) hS)
    | refine State.setCable_keeps ?_ (sub (by decide) hS) | refine KeepsBut.foldl ?_ (fun sF xF hF => ?_)
    | refine KeepsBut.foldl1 ?_ (fun sF xF hF => ?_) | refine KeepsBut.ite (fun _ => ?_) (fun _ => ?_) | split
    | dsimp -proj only | refine KeepsBut.of_pair ?_ (by assumption)

theorem execModRstN_keeps {ps : List Area} {s0 : State} {lowNs : Nat} {s : State} (hK : KeepsBut ps s0 s) (hS :
    [.pending, .power, .clk, .boot, .cfg, .tok, .ports, .fab, .pool, .coh, .coach, .stock, .repro, .mem, .twin, .sec,
    .rsl, .evs, .ctrs, .fresh] ⊆ ps) : KeepsOut ps s0 (@execModRstN lowNs s) := by
  unfold execModRstN
  with_reducible repeat' first
    | assumption | refine KeepsOut.next ?_ | refine State.resetInput_keeps ?_ (sub (by decide) hS) | dsimp -proj only

theorem execPowerAverageUpdate_keeps {ps : List Area} {s0 : State} {avgW : Nat} {s : State} (hK : KeepsBut ps s0 s)
    (hS : [.power, .fresh] ⊆ ps) : KeepsOut ps s0 (@execPowerAverageUpdate avgW s) := by
  unfold execPowerAverageUpdate
  with_reducible repeat' first
    | assumption | refine KeepsOut.next ?_ | refine KeepsBut.ite (fun _ => ?_) (fun _ => ?_) | split
    | dsimp -proj only | refine upd_power ?_ (sub (by decide) hS) | refine upd_power_fresh ?_ (sub (by decide) hS)

theorem execPowerStepUndo_keeps {ps : List Area} {s0 s : State} (hK : KeepsBut ps s0 s) (hS : [.power] ⊆ ps) :
    KeepsOut ps s0 (@execPowerStepUndo s) := by
  unfold execPowerStepUndo
  with_reducible repeat' first
    | assumption | refine KeepsOut.next ?_ | refine KeepsBut.ite (fun _ => ?_) (fun _ => ?_) | split
    | dsimp -proj only | refine upd_power ?_ (sub (by decide) hS)

theorem execEfuseOpen_keeps {ps : List Area} {s0 : State} {rail deciAmps mv : Nat} {s : State} (hK : KeepsBut ps s0 s)
    (hS : [.pending, .power, .clk, .boot, .cfg, .tok, .ports, .fab, .pool, .coh, .coach, .stock, .repro, .mem, .twin,
    .sec, .rsl, .evs, .ctrs, .fresh] ⊆ ps) : KeepsOut ps s0 (@execEfuseOpen rail deciAmps mv s) := by
  unfold execEfuseOpen
  with_reducible repeat' first
    | assumption | refine KeepsOut.next ?_ | refine State.railLost_keeps ?_ (sub (by decide) hS)
    | refine KeepsBut.ite (fun _ => ?_) (fun _ => ?_) | split | dsimp -proj only

theorem execCableFitted_keeps {ps : List Area} {s0 : State} {fab identity : Nat} {s : State} (hK : KeepsBut ps s0 s)
    (hS : [.power, .ports] ⊆ ps) : KeepsOut ps s0 (@execCableFitted fab identity s) := by
  unfold execCableFitted
  with_reducible repeat' first
    | assumption | refine KeepsOut.next ?_ | refine State.setCable_keeps ?_ (sub (by decide) hS)
    | refine State.setPort_keeps ?_ (sub (by decide) hS) | refine KeepsBut.foldl ?_ (fun sF xF hF => ?_)
    | refine KeepsBut.foldl1 ?_ (fun sF xF hF => ?_) | refine KeepsBut.ite (fun _ => ?_) (fun _ => ?_) | split
    | dsimp -proj only | refine KeepsBut.of_pair ?_ (by assumption)

theorem execThermalStepUndo_keeps {ps : List Area} {s0 : State} {part : Nat} {s : State} (hK : KeepsBut ps s0 s) (hS :
    [.power, .mem] ⊆ ps) : KeepsOut ps s0 (@execThermalStepUndo part s) := by
  unfold execThermalStepUndo
  with_reducible repeat' first
    | assumption | refine KeepsOut.next ?_ | refine State.stackSteps_keeps ?_ (sub (by decide) hS)
    | refine State.setPart_keeps ?_ (sub (by decide) hS) | refine KeepsBut.ite (fun _ => ?_) (fun _ => ?_) | split
    | dsimp -proj only

theorem execRestartAfterCutoff_keeps {ps : List Area} {s0 : State} {belowMs mv : Nat} {s : State} (hK : KeepsBut ps s0
    s) (hS : [.power, .boot] ⊆ ps) : KeepsOut ps s0 (@execRestartAfterCutoff belowMs mv s) := by
  unfold execRestartAfterCutoff
  with_reducible repeat' first
    | assumption | refine KeepsOut.next ?_ | refine State.applyPower_keeps ?_ (sub (by decide) hS)
    | refine KeepsBut.ite (fun _ => ?_) (fun _ => ?_) | split | dsimp -proj only
    | refine upd_power ?_ (sub (by decide) hS)

theorem execInputReversal_keeps {ps : List Area} {s0 : State} {mv : Nat} {s : State} (hK : KeepsBut ps s0 s) (hS :
    [.pending, .power, .clk, .boot, .cfg, .tok, .ports, .fab, .pool, .coh, .coach, .stock, .repro, .mem, .twin, .sec,
    .rsl, .evs, .ctrs, .fresh] ⊆ ps) : KeepsOut ps s0 (@execInputReversal mv s) := by
  unfold execInputReversal
  with_reducible repeat' first
    | assumption | refine KeepsOut.next ?_ | refine State.turnOff_keeps ?_ (sub (by decide) hS)
    | refine KeepsBut.ite (fun _ => ?_) (fun _ => ?_) | split | dsimp -proj only
    | refine upd_power ?_ (sub (by decide) hS)

theorem execRailOutOfRange_keeps {ps : List Area} {s0 : State} {rail mv : Nat} {s : State} (hK : KeepsBut ps s0 s) (hS
    : [.pending, .power, .clk, .boot, .cfg, .tok, .ports, .fab, .pool, .coh, .coach, .stock, .repro, .mem, .twin,
    .sec, .rsl, .evs, .ctrs, .fresh] ⊆ ps) : KeepsOut ps s0 (@execRailOutOfRange rail mv s) := by
  unfold execRailOutOfRange
  with_reducible repeat' first
    | assumption | refine KeepsOut.next ?_ | refine State.setMon_keeps ?_ (sub (by decide) hS)
    | refine State.railLost_keeps ?_ (sub (by decide) hS) | refine State.raise_keeps ?_ (sub (by decide) hS)
    | refine KeepsBut.ite (fun _ => ?_) (fun _ => ?_) | split | dsimp -proj only
    | refine upd_power ?_ (sub (by decide) hS)

theorem execModuleReset_keeps {ps : List Area} {s0 : State} {c : RslCmd} {s : State} (hK : KeepsBut ps s0 s) (hS :
    [.boot, .twin, .rsl, .ctrs] ⊆ ps) : KeepsOut ps s0 (@execModuleReset c s) := by
  unfold execModuleReset
  with_reducible repeat' first
    | assumption | refine KeepsOut.next ?_ | refine State.rslGate_keeps ?_ (fun v0F hF => ?_) (sub (by decide) hS)
    | refine State.rslAnswer_keeps ?_ (sub (by decide) hS) | dsimp -proj only
    | refine upd_boot ?_ (sub (by decide) hS)

theorem execSoftStartDone_keeps {ps : List Area} {s0 s : State} (hK : KeepsBut ps s0 s) (hS : [.power] ⊆ ps) :
    KeepsOut ps s0 (@execSoftStartDone s) := by
  unfold execSoftStartDone
  with_reducible repeat' first
    | assumption | refine KeepsOut.next ?_ | refine KeepsBut.ite (fun _ => ?_) (fun _ => ?_) | split
    | dsimp -proj only | refine upd_power ?_ (sub (by decide) hS)

theorem execPowerClockStep_keeps {ps : List Area} {s0 s : State} (hK : KeepsBut ps s0 s) (hS : [.power, .evs, .ctrs] ⊆
    ps) : KeepsOut ps s0 (@execPowerClockStep s) := by
  unfold execPowerClockStep
  with_reducible repeat' first
    | assumption | refine KeepsOut.next ?_ | refine State.raise_keeps ?_ (sub (by decide) hS)
    | refine KeepsBut.ite (fun _ => ?_) (fun _ => ?_) | split | dsimp -proj only
    | refine upd_power ?_ (sub (by decide) hS)

theorem execInputReversalEnd_keeps {ps : List Area} {s0 s : State} (hK : KeepsBut ps s0 s) (hS : [.power] ⊆ ps) :
    KeepsOut ps s0 (@execInputReversalEnd s) := by
  unfold execInputReversalEnd
  with_reducible repeat' first
    | assumption | refine KeepsOut.next ?_ | refine KeepsBut.ite (fun _ => ?_) (fun _ => ?_) | split
    | dsimp -proj only | refine upd_power ?_ (sub (by decide) hS)

theorem execInputLowEntry_keeps {ps : List Area} {s0 : State} {mv : Nat} {s : State} (hK : KeepsBut ps s0 s) (hS :
    [.power, .evs, .ctrs] ⊆ ps) : KeepsOut ps s0 (@execInputLowEntry mv s) := by
  unfold execInputLowEntry
  with_reducible repeat' first
    | assumption | refine KeepsOut.next ?_ | refine State.raise_keeps ?_ (sub (by decide) hS)
    | refine KeepsBut.ite (fun _ => ?_) (fun _ => ?_) | split | dsimp -proj only
    | refine upd_power ?_ (sub (by decide) hS)

theorem execDebugAccess_keeps {ps : List Area} {s0 : State} {inputs : Nat} {s : State} (hK : KeepsBut ps s0 s) (hS :
    [.power, .fresh] ⊆ ps) : KeepsOut ps s0 (@execDebugAccess inputs s) := by
  unfold execDebugAccess
  with_reducible repeat' first
    | assumption | refine KeepsOut.next ?_ | refine KeepsBut.ite (fun _ => ?_) (fun _ => ?_) | split
    | dsimp -proj only | refine upd_power ?_ (sub (by decide) hS) | refine upd_power_fresh ?_ (sub (by decide) hS)

theorem execRailGroupEnable_keeps {ps : List Area} {s0 : State} {inWindow : BitVec 18} {s : State} (hK : KeepsBut ps
    s0 s) (hS : [.power] ⊆ ps) : KeepsOut ps s0 (@execRailGroupEnable inWindow s) := by
  unfold execRailGroupEnable
  with_reducible repeat' first
    | assumption | refine KeepsOut.next ?_ | refine State.setRail_keeps ?_ (sub (by decide) hS)
    | refine KeepsBut.foldl ?_ (fun sF xF hF => ?_) | refine KeepsBut.foldl1 ?_ (fun sF xF hF => ?_)
    | refine KeepsBut.ite (fun _ => ?_) (fun _ => ?_) | split | dsimp -proj only
    | refine KeepsBut.of_pair ?_ (by assumption) | refine upd_power ?_ (sub (by decide) hS)

theorem execRailEnableTimeout_keeps {ps : List Area} {s0 : State} {rail : Nat} {s : State} (hK : KeepsBut ps s0 s) (hS
    : [.pending, .power, .clk, .boot, .cfg, .tok, .ports, .fab, .pool, .coh, .coach, .stock, .repro, .mem, .twin,
    .sec, .rsl, .evs, .ctrs, .fresh] ⊆ ps) : KeepsOut ps s0 (@execRailEnableTimeout rail s) := by
  unfold execRailEnableTimeout
  with_reducible repeat' first
    | assumption | refine KeepsOut.next ?_ | refine State.railLost_keeps ?_ (sub (by decide) hS)
    | refine KeepsBut.ite (fun _ => ?_) (fun _ => ?_) | split | dsimp -proj only

theorem execVinTurnOff_keeps {ps : List Area} {s0 : State} {dipUs : Nat} {s : State} (hK : KeepsBut ps s0 s) (hS :
    [.pending, .power, .clk, .boot, .cfg, .tok, .ports, .fab, .pool, .coh, .coach, .stock, .repro, .mem, .twin, .sec,
    .rsl, .evs, .ctrs, .fresh] ⊆ ps) : KeepsOut ps s0 (@execVinTurnOff dipUs s) := by
  unfold execVinTurnOff
  with_reducible repeat' first
    | assumption | refine KeepsOut.next ?_ | refine State.turnOff_keeps ?_ (sub (by decide) hS)
    | refine KeepsBut.ite (fun _ => ?_) (fun _ => ?_) | split | dsimp -proj only
    | refine upd_power ?_ (sub (by decide) hS)

end Sys2Proof.Machine
end

