-- ==== Sys2Proof/Laws/FrameClock.lean ====
section
/-! SUPPORT. The frame of each operation of Machine/Clock.lean: the parts of the state that it may change, and no others. -/

set_option Elab.async false

namespace Sys2Proof.Machine
open Sys2Proof

set_option maxRecDepth 4000
set_option linter.all false

theorem execLoopLockLoss_keeps {ps : List Area} {s0 : State} {die : Nat} {ports : List Nat} {s : State} (hK : KeepsBut
    ps s0 s) (hS : [.clk, .boot, .tok, .ports, .fab, .pool, .coh, .coach, .stock, .repro, .mem, .twin, .sec, .rsl,
    .evs, .ctrs, .fresh] ⊆ ps) : KeepsOut ps s0 (@execLoopLockLoss die ports s) := by
  unfold execLoopLockLoss
  with_reducible repeat' first
    | assumption | refine KeepsOut.next ?_ | refine State.dieLost_keeps ?_ (sub (by decide) hS)
    | refine State.hubLoss_keeps ?_ (sub (by decide) hS) | refine State.portsLost_keeps ?_ (sub (by decide) hS)
    | refine KeepsBut.ite (fun _ => ?_) (fun _ => ?_) | split | dsimp -proj only
    | refine upd_clk ?_ (sub (by decide) hS)

theorem State.flagCrystal_keeps {ps : List Area} {s0 s : State} {xb : Bool} (hK : KeepsBut ps s0 s) (hS : [.clk, .tok,
    .fab, .evs, .ctrs] ⊆ ps) : KeepsBut ps s0 (@State.flagCrystal s xb) := by
  unfold State.flagCrystal
  with_reducible repeat' first
    | assumption | refine State.poolFatal_keeps ?_ (sub (by decide) hS)
    | refine State.raise_keeps ?_ (sub (by decide) hS) | refine KeepsBut.ite (fun _ => ?_) (fun _ => ?_) | split
    | dsimp -proj only | refine upd_clk ?_ (sub (by decide) hS)

theorem execCrystalFrequencyFlag_keeps {ps : List Area} {s0 : State} {xb : Bool} {count : Nat} {s : State} (hK :
    KeepsBut ps s0 s) (hS : [.clk, .tok, .fab, .evs, .ctrs] ⊆ ps) : KeepsOut ps s0 (@execCrystalFrequencyFlag xb count
    s) := by
  unfold execCrystalFrequencyFlag
  with_reducible repeat' first
    | assumption | refine KeepsOut.next ?_ | refine State.flagCrystal_keeps ?_ (sub (by decide) hS)
    | refine KeepsBut.ite (fun _ => ?_) (fun _ => ?_) | split | dsimp -proj only

theorem State.raiseTime_keeps {ps : List Area} {s0 s : State} {code sev : Nat} (hK : KeepsBut ps s0 s) (hS : [.evs,
    .ctrs] ⊆ ps) : KeepsBut ps s0 (@State.raiseTime s code sev) := by
  unfold State.raiseTime
  with_reducible repeat' first
    | assumption | refine State.raise_keeps ?_ (sub (by decide) hS) | dsimp -proj only

theorem State.takeSource_keeps {ps : List Area} {s0 s : State} {n : Nat} (hK : KeepsBut ps s0 s) (hS : [.clk, .evs,
    .ctrs] ⊆ ps) : KeepsBut ps s0 (@State.takeSource s n) := by
  unfold State.takeSource
  with_reducible repeat' first
    | assumption | refine State.raiseTime_keeps ?_ (sub (by decide) hS)
    | refine KeepsBut.ite (fun _ => ?_) (fun _ => ?_) | split | dsimp -proj only
    | refine upd_clk ?_ (sub (by decide) hS)

theorem State.stepClock_keeps {ps : List Area} {s0 s : State} {n t : Nat} (hK : KeepsBut ps s0 s) (hS : [.clk, .fresh]
    ⊆ ps) : KeepsBut ps s0 (@State.stepClock s n t) := by
  unfold State.stepClock
  with_reducible repeat' first
    | assumption | refine KeepsBut.ite (fun _ => ?_) (fun _ => ?_) | split | dsimp -proj only
    | refine upd_clk_fresh ?_ (sub (by decide) hS)

theorem State.reviewSource_keeps {ps : List Area} {s0 s : State} {t : Nat} (hK : KeepsBut ps s0 s) (hS : [.clk, .evs,
    .ctrs, .fresh] ⊆ ps) : KeepsBut ps s0 (@State.reviewSource s t) := by
  unfold State.reviewSource
  with_reducible repeat' first
    | assumption | refine State.takeSource_keeps ?_ (sub (by decide) hS)
    | refine State.stepClock_keeps ?_ (sub (by decide) hS) | refine KeepsBut.ite (fun _ => ?_) (fun _ => ?_) | split
    | dsimp -proj only | refine upd_clk ?_ (sub (by decide) hS)

theorem execTimeSourceIneligible_keeps {ps : List Area} {s0 : State} {port : Nat} {s : State} (hK : KeepsBut ps s0 s)
    (hS : [.clk, .evs, .ctrs, .fresh] ⊆ ps) : KeepsOut ps s0 (@execTimeSourceIneligible port s) := by
  unfold execTimeSourceIneligible
  with_reducible repeat' first
    | assumption | refine KeepsOut.next ?_ | refine State.reviewSource_keeps ?_ (sub (by decide) hS)
    | refine KeepsBut.ite (fun _ => ?_) (fun _ => ?_) | split | dsimp -proj only

theorem State.loseTime_keeps {ps : List Area} {s0 s : State} (hK : KeepsBut ps s0 s) (hS : [.clk, .fab, .repro, .twin,
    .sec, .rsl, .evs, .ctrs] ⊆ ps) : KeepsBut ps s0 (@State.loseTime s) := by
  unfold State.loseTime
  with_reducible repeat' first
    | assumption | refine State.endBarriers_keeps ?_ (sub (by decide) hS)
    | refine State.raiseTime_keeps ?_ (sub (by decide) hS) | dsimp -proj only
    | refine upd_clk_fab ?_ (sub (by decide) hS)

theorem execHoldoverExpiry_keeps {ps : List Area} {s0 s : State} (hK : KeepsBut ps s0 s) (hS : [.clk, .fab, .repro,
    .twin, .sec, .rsl, .evs, .ctrs] ⊆ ps) : KeepsOut ps s0 (@execHoldoverExpiry s) := by
  unfold execHoldoverExpiry
  with_reducible repeat' first
    | assumption | refine KeepsOut.next ?_ | refine State.loseTime_keeps ?_ (sub (by decide) hS)
    | refine KeepsBut.ite (fun _ => ?_) (fun _ => ?_) | split | dsimp -proj only

theorem execCrystalMissingEdge_keeps {ps : List Area} {s0 : State} {xb : Bool} {s : State} (hK : KeepsBut ps s0 s) (hS
    : [.clk, .tok, .fab, .evs, .ctrs] ⊆ ps) : KeepsOut ps s0 (@execCrystalMissingEdge xb s) := by
  unfold execCrystalMissingEdge
  with_reducible repeat' first
    | assumption | refine KeepsOut.next ?_ | refine State.flagCrystal_keeps ?_ (sub (by decide) hS) | dsimp -proj only

theorem execCrystalHoldEnd_keeps {ps : List Area} {s0 s : State} (hK : KeepsBut ps s0 s) (hS : [.clk] ⊆ ps) : KeepsOut
    ps s0 (@execCrystalHoldEnd s) := by
  unfold execCrystalHoldEnd
  with_reducible repeat' first
    | assumption | refine KeepsOut.next ?_ | refine KeepsBut.ite (fun _ => ?_) (fun _ => ?_) | split
    | dsimp -proj only | refine upd_clk ?_ (sub (by decide) hS)

theorem execTimeRelock_keeps {ps : List Area} {s0 : State} {c : RslCmd} {s : State} (hK : KeepsBut ps s0 s) (hS :
    [.clk, .twin, .rsl, .evs, .ctrs, .fresh] ⊆ ps) : KeepsOut ps s0 (@execTimeRelock c s) := by
  unfold execTimeRelock
  with_reducible repeat' first
    | assumption | refine KeepsOut.next ?_ | refine State.rslGate_keeps ?_ (fun v0F hF => ?_) (sub (by decide) hS)
    | refine State.rslAnswer_keeps ?_ (sub (by decide) hS) | refine State.stepClock_keeps ?_ (sub (by decide) hS)
    | refine State.takeSource_keeps ?_ (sub (by decide) hS) | refine State.raise_keeps ?_ (sub (by decide) hS)
    | refine KeepsBut.ite (fun _ => ?_) (fun _ => ?_) | split | dsimp -proj only

theorem State.steer_keeps {ps : List Area} {s0 s : State} {n : Nat} {o : Int} (hK : KeepsBut ps s0 s) (hS : [.clk,
    .ports, .evs, .ctrs] ⊆ ps) : KeepsBut ps s0 (@State.steer s n o) := by
  unfold State.steer
  with_reducible repeat' first
    | assumption | refine State.setPort_keeps ?_ (sub (by decide) hS)
    | refine State.raiseTime_keeps ?_ (sub (by decide) hS) | refine KeepsBut.ite (fun _ => ?_) (fun _ => ?_) | split
    | dsimp -proj only | refine upd_clk ?_ (sub (by decide) hS)

theorem State.takeTime_keeps {ps : List Area} {s0 s : State} {port stamp domain hops flags resv arrival : Nat} (hK :
    KeepsBut ps s0 s) (hS : [.clk, .ports, .evs, .ctrs, .fresh] ⊆ ps) : KeepsBut ps s0 (@State.takeTime s port stamp
    domain hops flags resv arrival) := by
  unfold State.takeTime
  with_reducible repeat' first
    | assumption | refine State.bumpPort_keeps ?_ (sub (by decide) hS)
    | refine State.setPort_keeps ?_ (sub (by decide) hS) | refine State.steer_keeps ?_ (sub (by decide) hS)
    | refine State.reviewSource_keeps ?_ (sub (by decide) hS) | refine KeepsBut.ite (fun _ => ?_) (fun _ => ?_)
    | split | dsimp -proj only

theorem execTime_keeps {ps : List Area} {s0 : State} {port : Nat} {f : RawFlit} {arrival : Nat} {s : State} (hK :
    KeepsBut ps s0 s) (hS : [.clk, .ports, .fab, .evs, .ctrs, .fresh] ⊆ ps) : KeepsOut ps s0 (@execTime port f arrival
    s) := by
  unfold execTime
  with_reducible repeat' first
    | assumption | refine KeepsOut.next ?_ | refine State.control_keeps ?_ (fun v0F hF => ?_) (sub (by decide) hS)
    | refine State.takeTime_keeps ?_ (sub (by decide) hS) | refine State.bumpPort_keeps ?_ (sub (by decide) hS)
    | refine KeepsBut.ite (fun _ => ?_) (fun _ => ?_) | split | dsimp -proj only

end Sys2Proof.Machine
end

