-- ==== Sys2Proof/Laws/FrameEpochOps.lean ====
section
/-! SUPPORT. The frame of each operation of Machine/EpochOps.lean: the parts of the state that it may change, and no others. -/

set_option Elab.async false

namespace Sys2Proof.Machine
open Sys2Proof

set_option maxRecDepth 4000
set_option linter.all false

theorem State.markMissing_keeps {ps : List Area} {s0 s : State} {die : Nat} {running mark : Bool} (hK : KeepsBut ps s0
    s) (hS : [.evs, .ctrs] ⊆ ps) : KeepsBut ps s0 (@State.markMissing s die running mark) := by
  unfold State.markMissing
  with_reducible repeat' first
    | assumption | refine State.raise_keeps ?_ (sub (by decide) hS) | refine KeepsBut.ite (fun _ => ?_) (fun _ => ?_)
    | split | dsimp -proj only

theorem State.controlBoundary_keeps {ps : List Area} {s0 s : State} {die : Nat} {mark : Bool} (hK : KeepsBut ps s0 s)
    (hS : [.tok, .evs, .ctrs] ⊆ ps) : KeepsBut ps s0 (@State.controlBoundary s die mark) := by
  unfold State.controlBoundary
  with_reducible repeat' first
    | assumption | refine State.markMissing_keeps ?_ (sub (by decide) hS)
    | refine KeepsBut.ite (fun _ => ?_) (fun _ => ?_) | split | dsimp -proj only
    | refine upd_tok ?_ (sub (by decide) hS)

theorem State.applyField_keeps {ps : List Area} {s0 s : State} {id v : Nat} (hK : KeepsBut ps s0 s) (hS : [.power, .cfg,
    .ports, .twin, .rsl, .evs, .ctrs, .fresh] ⊆ ps) : KeepsBut ps s0 (@State.applyField s id v) := by
  unfold State.applyField
  with_reducible repeat' first
    | assumption | refine State.logChange_keeps ?_ (sub (by decide) hS)
    | refine State.linkDown_keeps ?_ (sub (by decide) hS) | refine KeepsBut.foldl ?_ (fun sF xF hF => ?_)
    | refine KeepsBut.foldl1 ?_ (fun sF xF hF => ?_) | refine KeepsBut.ite (fun _ => ?_) (fun _ => ?_) | split
    | dsimp -proj only | refine KeepsBut.of_pair ?_ (by assumption) | refine upd_power ?_ (sub (by decide) hS)
    | refine upd_cfg ?_ (sub (by decide) hS)

theorem State.countEpoch_keeps {ps : List Area} {s0 s : State} (hK : KeepsBut ps s0 s) (hS : [.coach, .twin, .ctrs] ⊆
    ps) : KeepsBut ps s0 (@State.countEpoch s) := by
  unfold State.countEpoch
  with_reducible repeat' first
    | assumption | refine State.bump_keeps ?_ (sub (by decide) hS) | refine KeepsBut.ite (fun _ => ?_) (fun _ => ?_)
    | split | dsimp -proj only | refine upd_coach ?_ (sub (by decide) hS) | refine upd_twin ?_ (sub (by decide) hS)

theorem State.applyShadow_keeps {ps : List Area} {s0 s : State} (hK : KeepsBut ps s0 s) (hS : [.power, .cfg, .ports, .twin,
    .rsl, .evs, .ctrs, .fresh] ⊆ ps) : KeepsBut ps s0 (@State.applyShadow s) := by
  unfold State.applyShadow
  with_reducible repeat' first
    | assumption | refine State.applyField_keeps ?_ (sub (by decide) hS)
    | refine KeepsBut.foldl ?_ (fun sF xF hF => ?_) | refine KeepsBut.foldl1 ?_ (fun sF xF hF => ?_) | split
    | refine KeepsBut.ite1 (fun _ => ?_) (fun _ => ?_) | dsimp -proj only | refine KeepsBut.of_pair ?_ (by assumption)
    | refine upd_cfg ?_ (sub (by decide) hS)

theorem State.journalCounters_keeps {ps : List Area} {s0 s : State} (hK : KeepsBut ps s0 s) (hS : [.twin] ⊆ ps) :
    KeepsBut ps s0 (@State.journalCounters s) := by
  unfold State.journalCounters
  with_reducible repeat' first
    | assumption | refine State.logChange_keeps ?_ (sub (by decide) hS)
    | refine KeepsBut.foldl ?_ (fun sF xF hF => ?_) | refine KeepsBut.foldl1 ?_ (fun sF xF hF => ?_)
    | refine KeepsBut.ite1 (fun _ => ?_) (fun _ => ?_) | dsimp -proj only | refine KeepsBut.of_pair ?_ (by assumption)

theorem State.writeCut_keeps {ps : List Area} {s0 s : State} (hK : KeepsBut ps s0 s) (hS : [.twin, .ctrs] ⊆ ps) :
    KeepsBut ps s0 (@State.writeCut s) := by
  unfold State.writeCut
  with_reducible repeat' first
    | assumption | refine State.journalCounters_keeps ?_ (sub (by decide) hS)
    | refine State.logChange_keeps ?_ (sub (by decide) hS) | refine State.bump_keeps ?_ (sub (by decide) hS)
    | dsimp -proj only | refine upd_twin ?_ (sub (by decide) hS)

theorem State.shiftControl_keeps {ps : List Area} {s0 s : State} {d : Int} (hK : KeepsBut ps s0 s) (hS : [.power,
    .clk, .boot, .cfg, .tok, .twin, .sec, .rsl, .evs] ⊆ ps) : KeepsBut ps s0 (@State.shiftControl s d) := by
  unfold State.shiftControl
  with_reducible repeat' first
    | assumption | refine KeepsBut.ite1 (fun _ => ?_) (fun _ => ?_) | dsimp -proj only
    | refine upd_power_clk_boot_cfg_tok_twin_sec_rsl_evs ?_ (sub (by decide) hS)

theorem State.pruneCpls_keeps {ps : List Area} {s0 s : State} (hK : KeepsBut ps s0 s) (hS : [.twin] ⊆ ps) : KeepsBut
    ps s0 (@State.pruneCpls s) := by
  unfold State.pruneCpls
  with_reducible repeat' first
    | assumption | refine KeepsBut.ite1 (fun _ => ?_) (fun _ => ?_) | dsimp -proj only
    | refine upd_twin ?_ (sub (by decide) hS)

theorem State.countPortEpoch_keeps {ps : List Area} {s0 s : State} {n : Nat} (hK : KeepsBut ps s0 s) (hS : [.ports,
    .ctrs] ⊆ ps) : KeepsBut ps s0 (@State.countPortEpoch s n) := by
  unfold State.countPortEpoch
  with_reducible repeat' first
    | assumption | refine State.bumpPort_keeps ?_ (sub (by decide) hS)
    | refine State.setPort_keeps ?_ (sub (by decide) hS) | refine KeepsBut.ite (fun _ => ?_) (fun _ => ?_) | split
    | dsimp -proj only

theorem State.shiftTables_keeps {ps : List Area} {s0 s : State} {d : Int} (hK : KeepsBut ps s0 s) (hS : [.ports, .fab,
    .pool, .coh, .coach, .repro, .mem] ⊆ ps) : KeepsBut ps s0 (@State.shiftTables s d) := by
  unfold State.shiftTables
  with_reducible repeat' first
    | assumption | refine KeepsBut.ite1 (fun _ => ?_) (fun _ => ?_) | dsimp -proj only
    | refine upd_ports_fab_pool_coh_coach_repro_mem ?_ (sub (by decide) hS)

theorem State.nextEpoch_keeps {ps : List Area} {s0 s : State} (hK : KeepsBut ps s0 s) (hS : [.power, .clk, .boot,
    .cfg, .tok, .ports, .fab, .pool, .coh, .coach, .repro, .mem, .twin, .sec, .rsl, .evs, .ctrs] ⊆ ps) : KeepsBut ps
    s0 (@State.nextEpoch s) := by
  unfold State.nextEpoch
  with_reducible repeat' first
    | assumption | refine State.cancelLaunches_keeps ?_ (sub (by decide) hS)
    | refine State.shiftTables_keeps ?_ (sub (by decide) hS) | refine State.shiftControl_keeps ?_ (sub (by decide) hS)
    | refine KeepsBut.ite (fun _ => ?_) (fun _ => ?_) | split | dsimp -proj only
    | refine upd_clk ?_ (sub (by decide) hS)

theorem State.boundaryLeases_keeps {ps : List Area} {s0 s : State} (hK : KeepsBut ps s0 s) (hS : [.fab, .pool, .coh,
    .coach, .stock, .repro, .mem, .twin, .sec, .rsl, .evs, .ctrs, .fresh] ⊆ ps) : KeepsBut ps s0
    (@State.boundaryLeases s) := by
  unfold State.boundaryLeases
  with_reducible repeat' first
    | assumption | refine State.leaseAccounting_keeps ?_ (sub (by decide) hS)
    | refine State.applyMaster_keeps ?_ (sub (by decide) hS)
    | refine State.startReclaims_keeps ?_ (sub (by decide) hS) | refine State.sendDeltas_keeps ?_ (sub (by decide) hS)
    | dsimp -proj only

theorem State.dueControl_keeps {ps : List Area} {s0 s : State} {n : Nat} (hK : KeepsBut ps s0 s) (hS : [.ports] ⊆ ps)
    : KeepsBut ps s0 (@State.dueControl s n) := by
  unfold State.dueControl
  with_reducible repeat' first
    | assumption | refine State.setPort_keeps ?_ (sub (by decide) hS)
    | refine KeepsBut.ite (fun _ => ?_) (fun _ => ?_) | split | dsimp -proj only

theorem State.portsBoundary_keeps {ps : List Area} {s0 s : State} (hK : KeepsBut ps s0 s) (hS : [.ports, .fab, .ctrs]
    ⊆ ps) : KeepsBut ps s0 (@State.portsBoundary s) := by
  unfold State.portsBoundary
  with_reducible repeat' first
    | assumption | refine State.countPortEpoch_keeps ?_ (sub (by decide) hS)
    | refine State.dueControl_keeps ?_ (sub (by decide) hS) | refine KeepsBut.foldl ?_ (fun sF xF hF => ?_)
    | refine KeepsBut.foldl1 ?_ (fun sF xF hF => ?_) | refine KeepsBut.ite1 (fun _ => ?_) (fun _ => ?_)
    | dsimp -proj only | refine KeepsBut.of_pair ?_ (by assumption) | refine upd_fab ?_ (sub (by decide) hS)

theorem State.boundaryRuns_keeps {ps : List Area} {s0 s : State} (hK : KeepsBut ps s0 s) (hS : [.ports, .fab, .coach,
    .mem, .twin, .sec, .rsl, .evs, .ctrs, .fresh] ⊆ ps) : KeepsBut ps s0 (@State.boundaryRuns s) := by
  unfold State.boundaryRuns
  with_reducible repeat' first
    | assumption | refine State.ringScan_keeps ?_ (sub (by decide) hS)
    | refine State.stepCircuits_keeps ?_ (sub (by decide) hS)
    | refine State.fireLaunches_keeps ?_ (sub (by decide) hS) | dsimp -proj only

theorem State.journalHeld_keeps {ps : List Area} {s0 s : State} (hK : KeepsBut ps s0 s) (hS : [.fab, .twin] ⊆ ps) :
    KeepsBut ps s0 (@State.journalHeld s) := by
  unfold State.journalHeld
  with_reducible repeat' first
    | assumption | refine State.retire_keeps ?_ (sub (by decide) hS)
    | refine State.logChange_keeps ?_ (sub (by decide) hS) | refine KeepsBut.foldl ?_ (fun sF xF hF => ?_)
    | refine KeepsBut.foldl1 ?_ (fun sF xF hF => ?_) | split | dsimp -proj only
    | refine KeepsBut.of_pair ?_ (by assumption) | refine upd_fab ?_ (sub (by decide) hS)

theorem State.boundaryMemory_keeps {ps : List Area} {s0 s : State} (hK : KeepsBut ps s0 s) (hS : [.mem, .twin, .evs,
    .ctrs] ⊆ ps) : KeepsBut ps s0 (@State.boundaryMemory s) := by
  unfold State.boundaryMemory
  with_reducible repeat' first
    | assumption | refine State.judgeLevel_keeps ?_ (sub (by decide) hS)
    | refine State.retryRetire_keeps ?_ (sub (by decide) hS) | refine State.spareRows_keeps ?_ (sub (by decide) hS)
    | dsimp -proj only

theorem State.applyShadowPd_keeps {ps : List Area} {s0 s : State} (hK : KeepsBut ps s0 s) (hS : [.power, .cfg, .ports, .twin,
    .rsl, .evs, .ctrs, .fresh] ⊆ ps) : KeepsBut ps s0 (@State.applyShadowPd s) := by
  unfold State.applyShadowPd
  with_reducible repeat' first
    | assumption | refine State.applyField_keeps ?_ (sub (by decide) hS)
    | refine KeepsBut.foldl ?_ (fun sF xF hF => ?_) | refine KeepsBut.foldl1 ?_ (fun sF xF hF => ?_)
    | refine KeepsBut.ite (fun _ => ?_) (fun _ => ?_) | split | refine KeepsBut.ite1 (fun _ => ?_) (fun _ => ?_)
    | dsimp -proj only | refine KeepsBut.of_pair ?_ (by assumption) | refine upd_cfg ?_ (sub (by decide) hS)

theorem State.atEpoch_keeps {ps : List Area} {s0 s : State} {e : Nat} {f : State → State} (hK : KeepsBut ps s0 s) (hf
    : ∀ (v0 : State), KeepsBut ps s0 v0 → KeepsBut ps s0 (f v0)) (hS : [.clk] ⊆ ps) : KeepsBut ps s0 (@State.atEpoch s
    e f) := by
  unfold State.atEpoch
  with_reducible repeat' first
    | assumption | apply hf | dsimp -proj only | refine upd_clk ?_ (sub (by decide) hS)

theorem State.writeResume_keeps {ps : List Area} {s0 s : State} (hK : KeepsBut ps s0 s) (hS : [.coach] ⊆ ps) :
    KeepsBut ps s0 (@State.writeResume s) := by
  unfold State.writeResume
  with_reducible repeat' first
    | assumption | refine KeepsBut.foldl ?_ (fun sF xF hF => ?_) | refine KeepsBut.foldl1 ?_ (fun sF xF hF => ?_)
    | refine KeepsBut.ite (fun _ => ?_) (fun _ => ?_) | split | dsimp -proj only
    | refine KeepsBut.of_pair ?_ (by assumption) | refine upd_coach ?_ (sub (by decide) hS)

theorem State.stateCopy_keeps {ps : List Area} {s0 s : State} (hK : KeepsBut ps s0 s) (hS : [.fab, .coach, .mem,
    .twin, .evs, .ctrs] ⊆ ps) : KeepsBut ps s0 (@State.stateCopy s) := by
  unfold State.stateCopy
  with_reducible repeat' first
    | assumption | refine State.writeResume_keeps ?_ (sub (by decide) hS)
    | refine State.writeCut_keeps ?_ (sub (by decide) hS) | refine State.journalHeld_keeps ?_ (sub (by decide) hS)
    | refine State.remapSwitches_keeps ?_ (sub (by decide) hS) | refine KeepsBut.ite (fun _ => ?_) (fun _ => ?_)
    | split | dsimp -proj only

theorem State.raiseStart_keeps {ps : List Area} {s0 s : State} (hK : KeepsBut ps s0 s) (hS : [.evs, .ctrs] ⊆ ps) :
    KeepsBut ps s0 (@State.raiseStart s) := by
  unfold State.raiseStart
  with_reducible repeat' first
    | assumption | refine State.raise_keeps ?_ (sub (by decide) hS)
    | refine State.queueEv_keeps ?_ (sub (by decide) hS) | refine KeepsBut.foldl ?_ (fun sF xF hF => ?_)
    | refine KeepsBut.foldl1 ?_ (fun sF xF hF => ?_) | refine KeepsBut.ite (fun _ => ?_) (fun _ => ?_) | split
    | dsimp -proj only | refine KeepsBut.of_pair ?_ (by assumption) | refine upd_evs ?_ (sub (by decide) hS)

theorem State.resetWindow_keeps {ps : List Area} {s0 s : State} {was : Nat} (hK : KeepsBut ps s0 s) (hS : [.twin] ⊆
    ps) : KeepsBut ps s0 (@State.resetWindow s was) := by
  unfold State.resetWindow
  with_reducible repeat' first
    | assumption | refine KeepsBut.ite (fun _ => ?_) (fun _ => ?_) | split | dsimp -proj only
    | refine upd_twin ?_ (sub (by decide) hS)

theorem State.countRenewals_keeps {ps : List Area} {s0 s : State} (hK : KeepsBut ps s0 s) (hS : [.tok, .fab, .twin,
    .evs, .ctrs] ⊆ ps) : KeepsBut ps s0 (@State.countRenewals s) := by
  unfold State.countRenewals
  with_reducible repeat' first
    | assumption | refine State.activeStops_keeps ?_ (sub (by decide) hS)
    | refine KeepsBut.ite (fun _ => ?_) (fun _ => ?_) | split | dsimp -proj only
    | refine upd_tok ?_ (sub (by decide) hS)

theorem State.startClaim_keeps {ps : List Area} {s0 s : State} (hK : KeepsBut ps s0 s) (hS : [.tok] ⊆ ps) : KeepsBut
    ps s0 (@State.startClaim s) := by
  unfold State.startClaim
  with_reducible repeat' first
    | assumption | refine KeepsBut.ite (fun _ => ?_) (fun _ => ?_) | split | dsimp -proj only
    | refine upd_tok ?_ (sub (by decide) hS)

theorem State.answerWrites_keeps {ps : List Area} {s0 s : State} (hK : KeepsBut ps s0 s) (hS : [.cfg, .twin, .rsl,
    .ctrs] ⊆ ps) : KeepsBut ps s0 (@State.answerWrites s) := by
  unfold State.answerWrites
  with_reducible repeat' first
    | assumption | refine State.rslAnswer_keeps ?_ (sub (by decide) hS)
    | refine KeepsBut.foldl ?_ (fun sF xF hF => ?_) | refine KeepsBut.foldl1 ?_ (fun sF xF hF => ?_) | split
    | refine KeepsBut.ite1 (fun _ => ?_) (fun _ => ?_) | dsimp -proj only | refine KeepsBut.of_pair ?_ (by assumption)
    | refine upd_cfg ?_ (sub (by decide) hS)

theorem State.pinnedPd_keeps {ps : List Area} {s0 s : State} (hK : KeepsBut ps s0 s) (hS : [.power, .cfg, .ports, .fab, .twin,
    .sec, .rsl, .evs, .ctrs, .fresh] ⊆ ps) : KeepsBut ps s0 (@State.pinnedPd s) := by
  unfold State.pinnedPd
  with_reducible repeat' first
    | assumption | refine State.portsBoundary_keeps ?_ (sub (by decide) hS)
    | refine State.stepCircuits_keeps ?_ (sub (by decide) hS) | refine State.routeSwitch_keeps ?_ (sub (by decide) hS)
    | refine State.applyShadowPd_keeps ?_ (sub (by decide) hS) | dsimp -proj only

theorem State.pinned_keeps {ps : List Area} {s0 s : State} (hK : KeepsBut ps s0 s) (hS : [.power, .cfg, .ports, .fab, .pool,
    .coh, .coach, .stock, .repro, .mem, .twin, .sec, .rsl, .evs, .ctrs, .fresh] ⊆ ps) : KeepsBut ps s0 (@State.pinned
    s) := by
  unfold State.pinned
  with_reducible repeat' first
    | assumption | refine State.boundaryMemory_keeps ?_ (sub (by decide) hS)
    | refine State.pairedExit_keeps ?_ (sub (by decide) hS) | refine State.portsBoundary_keeps ?_ (sub (by decide) hS)
    | refine State.boundaryRuns_keeps ?_ (sub (by decide) hS)
    | refine State.boundaryLeases_keeps ?_ (sub (by decide) hS)
    | refine State.routeSwitch_keeps ?_ (sub (by decide) hS) | refine State.applyShadow_keeps ?_ (sub (by decide) hS)
    | refine State.pruneCpls_keeps ?_ (sub (by decide) hS) | refine State.answerWrites_keeps ?_ (sub (by decide) hS)
    | refine State.stateCopy_keeps ?_ (sub (by decide) hS) | refine KeepsBut.ite (fun _ => ?_) (fun _ => ?_) | split
    | dsimp -proj only

theorem State.dropStale_keeps {ps : List Area} {s0 s : State} (hK : KeepsBut ps s0 s) (hS : [.tok] ⊆ ps) : KeepsBut ps
    s0 (@State.dropStale s) := by
  unfold State.dropStale
  with_reducible repeat' first
    | assumption | dsimp -proj only | refine upd_tok ?_ (sub (by decide) hS)

theorem State.renewTokens_keeps {ps : List Area} {s0 s : State} (hK : KeepsBut ps s0 s) (hS : [.tok] ⊆ ps) : KeepsBut
    ps s0 (@State.renewTokens s) := by
  unfold State.renewTokens
  with_reducible repeat' first
    | assumption | refine State.dropStale_keeps ?_ (sub (by decide) hS)
    | refine State.sendToks_keeps ?_ (sub (by decide) hS) | refine KeepsBut.ite (fun _ => ?_) (fun _ => ?_) | split
    | dsimp -proj only | refine upd_tok ?_ (sub (by decide) hS)

end Sys2Proof.Machine
end

