-- ==== Sys2Proof/Laws/FrameTakeoverOps.lean ====
section
/-! SUPPORT. The frame of each operation of Machine/TakeoverOps.lean: the parts of the state that it may change, and no others. -/

set_option Elab.async false

namespace Sys2Proof.Machine
open Sys2Proof

set_option maxRecDepth 4000
set_option linter.all false

theorem State.undoImport_keeps {ps : List Area} {s0 s : State} {n : Nat} (hK : KeepsBut ps s0 s) (hS : [.fab, .pool,
    .mem, .twin, .sec, .rsl, .ctrs] ⊆ ps) : KeepsBut ps s0 (@State.undoImport s n) := by
  unfold State.undoImport
  with_reducible repeat' first
    | assumption | refine State.setExt_keeps ?_ (sub (by decide) hS)
    | refine State.freeSlot_keeps ?_ (sub (by decide) hS) | refine State.clearValid_keeps ?_ (sub (by decide) hS)
    | refine KeepsBut.ite (fun _ => ?_) (fun _ => ?_) | split | dsimp -proj only

theorem State.changeRoot_keeps {ps : List Area} {s0 s : State} (hK : KeepsBut ps s0 s) (hS : [.fab, .pool, .mem,
    .twin, .sec, .rsl, .ctrs] ⊆ ps) : KeepsBut ps s0 (@State.changeRoot s) := by
  unfold State.changeRoot
  with_reducible repeat' first
    | assumption | refine State.undoImport_keeps ?_ (sub (by decide) hS)
    | refine KeepsBut.foldl ?_ (fun sF xF hF => ?_) | refine KeepsBut.foldl1 ?_ (fun sF xF hF => ?_)
    | refine KeepsBut.ite1 (fun _ => ?_) (fun _ => ?_) | dsimp -proj only | refine KeepsBut.of_pair ?_ (by assumption)
    | refine upd_sec ?_ (sub (by decide) hS)

theorem State.formerDie_keeps {ps : List Area} {s0 s : State} {former : Nat} (hK : KeepsBut ps s0 s) (hS : [.clk,
    .boot, .tok, .twin, .evs, .ctrs] ⊆ ps) : KeepsBut ps s0 (@State.formerDie s former) := by
  unfold State.formerDie
  with_reducible repeat' first
    | assumption | refine State.resetDie_keeps ?_ (sub (by decide) hS)
    | refine State.restartPolicy_keeps ?_ (sub (by decide) hS) | refine KeepsBut.ite (fun _ => ?_) (fun _ => ?_)
    | split | dsimp -proj only | refine upd_twin ?_ (sub (by decide) hS)

theorem State.missList_keeps {ps : List Area} {s0 s : State} (hK : KeepsBut ps s0 s) (hS : [.twin, .ctrs] ⊆ ps) :
    KeepsBut ps s0 (@State.missList s) := by
  unfold State.missList
  with_reducible repeat' first
    | assumption | refine State.bump_keeps ?_ (sub (by decide) hS) | refine KeepsBut.ite (fun _ => ?_) (fun _ => ?_)
    | split | dsimp -proj only | refine upd_twin ?_ (sub (by decide) hS)

theorem State.markReplay_keeps {ps : List Area} {s0 s : State} (hK : KeepsBut ps s0 s) (hS : [.twin, .rsl, .ctrs] ⊆
    ps) : KeepsBut ps s0 (@State.markReplay s) := by
  unfold State.markReplay
  with_reducible repeat' first
    | assumption | refine State.bump_keeps ?_ (sub (by decide) hS) | dsimp -proj only
    | refine upd_twin_rsl ?_ (sub (by decide) hS)

theorem State.firstActive_keeps {ps : List Area} {s0 s : State} {die : Nat} (hK : KeepsBut ps s0 s) (hS : [.boot,
    .tok, .twin] ⊆ ps) : KeepsBut ps s0 (@State.firstActive s die) := by
  unfold State.firstActive
  with_reducible repeat' first
    | assumption | refine KeepsBut.ite (fun _ => ?_) (fun _ => ?_) | split | dsimp -proj only
    | refine upd_boot_tok_twin ?_ (sub (by decide) hS)

theorem State.emptyStore_keeps {ps : List Area} {s0 s : State} (hK : KeepsBut ps s0 s) (hS : [.stock] ⊆ ps) : KeepsBut
    ps s0 (@State.emptyStore s) := by
  unfold State.emptyStore
  with_reducible repeat' first
    | assumption | refine KeepsBut.ite (fun _ => ?_) (fun _ => ?_) | split | dsimp -proj only
    | refine upd_stock ?_ (sub (by decide) hS)

theorem State.restoreCounters_keeps {ps : List Area} {s0 s : State} (hK : KeepsBut ps s0 s) (hS : [.ctrs] ⊆ ps) :
    KeepsBut ps s0 (@State.restoreCounters s) := by
  unfold State.restoreCounters
  with_reducible repeat' first
    | assumption | refine KeepsBut.foldl ?_ (fun sF xF hF => ?_) | refine KeepsBut.foldl1 ?_ (fun sF xF hF => ?_)
    | refine KeepsBut.ite1 (fun _ => ?_) (fun _ => ?_) | dsimp -proj only | refine KeepsBut.of_pair ?_ (by assumption)
    | refine upd_ctrs ?_ (sub (by decide) hS)

theorem State.catchUpLeases_keeps {ps : List Area} {s0 s : State} (hK : KeepsBut ps s0 s) (hS : [.fab, .pool, .coh,
    .coach, .stock, .repro, .mem, .twin, .sec, .rsl, .evs, .ctrs, .fresh] ⊆ ps) : KeepsBut ps s0 (@State.catchUpLeases
    s) := by
  unfold State.catchUpLeases
  with_reducible repeat' first
    | assumption | refine State.leaseEnd_keeps ?_ (sub (by decide) hS)
    | refine State.graceEnd_keeps ?_ (sub (by decide) hS) | refine KeepsBut.foldl ?_ (fun sF xF hF => ?_)
    | refine KeepsBut.foldl1 ?_ (fun sF xF hF => ?_) | refine KeepsBut.ite (fun _ => ?_) (fun _ => ?_) | split
    | refine KeepsBut.ite1 (fun _ => ?_) (fun _ => ?_) | dsimp -proj only | refine KeepsBut.of_pair ?_ (by assumption)

theorem State.missedBoundary_keeps {ps : List Area} {s0 s : State} (hK : KeepsBut ps s0 s) (hS : [.power, .cfg, .ports, .fab,
    .pool, .coh, .coach, .stock, .repro, .mem, .twin, .sec, .rsl, .evs, .ctrs, .fresh] ⊆ ps) : KeepsBut ps s0
    (@State.missedBoundary s) := by
  unfold State.missedBoundary
  with_reducible repeat' first
    | assumption | refine State.catchUpLeases_keeps ?_ (sub (by decide) hS)
    | refine State.applyMaster_keeps ?_ (sub (by decide) hS) | refine State.applyShadow_keeps ?_ (sub (by decide) hS)
    | refine State.startReclaims_keeps ?_ (sub (by decide) hS) | refine State.sendDeltas_keeps ?_ (sub (by decide) hS)
    | dsimp -proj only

theorem State.catchUp_keeps {ps : List Area} {s0 s : State} {cut : Nat} (hK : KeepsBut ps s0 s) (hS : [.power, .clk, .cfg,
    .ports, .fab, .pool, .coh, .coach, .stock, .repro, .mem, .twin, .sec, .rsl, .evs, .ctrs, .fresh] ⊆ ps) : KeepsBut
    ps s0 (@State.catchUp s cut) := by
  unfold State.catchUp
  with_reducible repeat' first
    | assumption | refine State.atEpoch_keeps ?_ (fun v0F hF => ?_) (sub (by decide) hS)
    | refine State.missedBoundary_keeps ?_ (sub (by decide) hS)
    | refine State.answerWrites_keeps ?_ (sub (by decide) hS) | refine State.stateCopy_keeps ?_ (sub (by decide) hS)
    | refine State.boundaryMemory_keeps ?_ (sub (by decide) hS) | refine State.ringScan_keeps ?_ (sub (by decide) hS)
    | refine State.fireLaunches_keeps ?_ (sub (by decide) hS) | refine KeepsBut.foldl ?_ (fun sF xF hF => ?_)
    | refine KeepsBut.foldl1 ?_ (fun sF xF hF => ?_) | dsimp -proj only | refine KeepsBut.of_pair ?_ (by assumption)

theorem State.loseStore_keeps {ps : List Area} {s0 s : State} {b : Nat} (hK : KeepsBut ps s0 s) (hS : [.fab, .stock,
    .twin, .ctrs] ⊆ ps) : KeepsBut ps s0 (@State.loseStore s b) := by
  unfold State.loseStore
  with_reducible repeat' first
    | assumption | refine State.setBlk_keeps ?_ (sub (by decide) hS)
    | refine State.setBuf_keeps ?_ (sub (by decide) hS) | refine State.redNotice_keeps ?_ (sub (by decide) hS)
    | refine State.bump_keeps ?_ (sub (by decide) hS) | refine KeepsBut.foldl ?_ (fun sF xF hF => ?_)
    | refine KeepsBut.foldl1 ?_ (fun sF xF hF => ?_) | refine KeepsBut.ite (fun _ => ?_) (fun _ => ?_) | split
    | dsimp -proj only | refine KeepsBut.of_pair ?_ (by assumption) | refine upd_stock ?_ (sub (by decide) hS)

theorem State.loseUncopied_keeps {ps : List Area} {s0 s : State} (hK : KeepsBut ps s0 s) (hS : [.boot, .fab, .pool,
    .coh, .coach, .stock, .mem, .twin, .sec, .rsl, .ctrs] ⊆ ps) : KeepsBut ps s0 (@State.loseUncopied s) := by
  unfold State.loseUncopied
  with_reducible repeat' first
    | assumption | refine State.loseStore_keeps ?_ (sub (by decide) hS)
    | refine State.changeRoot_keeps ?_ (sub (by decide) hS) | refine State.emptyStore_keeps ?_ (sub (by decide) hS)
    | refine KeepsBut.foldl ?_ (fun sF xF hF => ?_) | refine KeepsBut.foldl1 ?_ (fun sF xF hF => ?_)
    | refine KeepsBut.ite (fun _ => ?_) (fun _ => ?_) | split | dsimp -proj only
    | refine KeepsBut.of_pair ?_ (by assumption) | refine upd_boot_fab_coh_coach_stock_mem_sec ?_ (sub (by decide) hS)

theorem State.dropWaiters_keeps {ps : List Area} {s0 s : State} {planned : Bool} (hK : KeepsBut ps s0 s) (hS : [.boot,
    .cfg, .pool, .stock, .repro, .twin] ⊆ ps) : KeepsBut ps s0 (@State.dropWaiters s planned) := by
  unfold State.dropWaiters
  with_reducible repeat' first
    | assumption | refine KeepsBut.ite (fun _ => ?_) (fun _ => ?_) | split | dsimp -proj only
    | refine upd_boot_cfg_pool_stock_repro_twin ?_ (sub (by decide) hS)

theorem State.answerSwitch_keeps {ps : List Area} {s0 s : State} (hK : KeepsBut ps s0 s) (hS : [.twin, .rsl, .ctrs] ⊆
    ps) : KeepsBut ps s0 (@State.answerSwitch s) := by
  unfold State.answerSwitch
  with_reducible repeat' first
    | assumption | refine State.rslAnswer_keeps ?_ (sub (by decide) hS)
    | refine KeepsBut.foldl ?_ (fun sF xF hF => ?_) | refine KeepsBut.foldl1 ?_ (fun sF xF hF => ?_) | split
    | dsimp -proj only | refine KeepsBut.of_pair ?_ (by assumption) | refine upd_twin ?_ (sub (by decide) hS)

theorem State.takeover_keeps {ps : List Area} {s0 s : State} {die : Nat} (hK : KeepsBut ps s0 s) (hS : [.power, .clk, .boot,
    .cfg, .tok, .ports, .fab, .pool, .coh, .coach, .stock, .repro, .mem, .twin, .sec, .rsl, .evs, .ctrs, .fresh] ⊆ ps)
    : KeepsBut ps s0 (@State.takeover s die) := by
  unfold State.takeover
  with_reducible repeat' first
    | assumption | refine State.restoreCounters_keeps ?_ (sub (by decide) hS)
    | refine State.markReplay_keeps ?_ (sub (by decide) hS) | refine State.catchUp_keeps ?_ (sub (by decide) hS)
    | refine State.loseUncopied_keeps ?_ (sub (by decide) hS) | refine State.dropWaiters_keeps ?_ (sub (by decide) hS)
    | refine State.raise_keeps ?_ (sub (by decide) hS) | refine State.formerDie_keeps ?_ (sub (by decide) hS)
    | refine State.answerSwitch_keeps ?_ (sub (by decide) hS) | dsimp -proj only
    | refine upd_twin ?_ (sub (by decide) hS) | refine upd_tok_twin ?_ (sub (by decide) hS)

theorem State.claimed_keeps {ps : List Area} {s0 s : State} {die : Nat} (hK : KeepsBut ps s0 s) (hS : [.power, .clk, .boot,
    .cfg, .tok, .ports, .fab, .pool, .coh, .coach, .stock, .repro, .mem, .twin, .sec, .rsl, .evs, .ctrs, .fresh] ⊆ ps)
    : KeepsBut ps s0 (@State.claimed s die) := by
  unfold State.claimed
  with_reducible repeat' first
    | assumption | refine State.firstActive_keeps ?_ (sub (by decide) hS)
    | refine State.takeover_keeps ?_ (sub (by decide) hS) | refine KeepsBut.ite (fun _ => ?_) (fun _ => ?_) | split
    | dsimp -proj only | refine upd_tok ?_ (sub (by decide) hS)

theorem State.startResync_keeps {ps : List Area} {s0 s : State} (hK : KeepsBut ps s0 s) (hS : [.twin, .sec] ⊆ ps) :
    KeepsBut ps s0 (@State.startResync s) := by
  unfold State.startResync
  with_reducible repeat' first
    | assumption | dsimp -proj only | refine upd_twin_sec ?_ (sub (by decide) hS)

end Sys2Proof.Machine
end

