-- ==== Sys2Proof/Laws/FrameToken.lean ====
section
/-! SUPPORT. The frame of each operation of Machine/Token.lean: the parts of the state that it may change, and no others. -/

set_option Elab.async false

namespace Sys2Proof.Machine
open Sys2Proof

set_option maxRecDepth 4000
set_option linter.all false

theorem execCdBClaimWaitEnd_keeps {ps : List Area} {s0 s : State} (hK : KeepsBut ps s0 s) (hS : [.tok] ⊆ ps) :
    KeepsOut ps s0 (@execCdBClaimWaitEnd s) := by
  unfold execCdBClaimWaitEnd
  with_reducible repeat' first
    | assumption | refine KeepsOut.next ?_ | refine State.sendToks_keeps ?_ (sub (by decide) hS)
    | refine KeepsBut.ite (fun _ => ?_) (fun _ => ?_) | split | dsimp -proj only
    | refine upd_tok ?_ (sub (by decide) hS)

theorem State.takeTok_keeps {ps : List Area} {s0 s : State} {k : TokKind} {od die : Nat} (hK : KeepsBut ps s0 s) (hS :
    [.tok] ⊆ ps) : KeepsBut ps s0 (@State.takeTok s k od die) := by
  unfold State.takeTok
  with_reducible repeat' first
    | assumption | dsimp -proj only | refine upd_tok ?_ (sub (by decide) hS)

theorem State.holdToken_keeps {ps : List Area} {s0 s : State} {od die : Nat} (hK : KeepsBut ps s0 s) (hS : [.tok] ⊆
    ps) : KeepsBut ps s0 (@State.holdToken s od die) := by
  unfold State.holdToken
  with_reducible repeat' first
    | assumption | refine State.setOb_keeps ?_ (sub (by decide) hS) | dsimp -proj only

theorem execTokenClaim_keeps {ps : List Area} {s0 : State} {od die : Nat} {s : State} (hK : KeepsBut ps s0 s) (hS :
    [.tok] ⊆ ps) : KeepsOut ps s0 (@execTokenClaim od die s) := by
  unfold execTokenClaim
  with_reducible repeat' first
    | assumption | refine KeepsOut.next ?_ | refine State.takeTok_keeps ?_ (sub (by decide) hS)
    | refine State.replyTok_keeps ?_ (sub (by decide) hS) | refine State.holdToken_keeps ?_ (sub (by decide) hS)
    | refine KeepsBut.ite (fun _ => ?_) (fun _ => ?_) | split | dsimp -proj only

theorem State.tokenRefused_keeps {ps : List Area} {s0 s : State} {od : Nat} (hK : KeepsBut ps s0 s) (hS : [.ctrs] ⊆
    ps) : KeepsBut ps s0 (@State.tokenRefused s od) := by
  unfold State.tokenRefused
  with_reducible repeat' first
    | assumption | refine State.bump_keeps ?_ (sub (by decide) hS) | dsimp -proj only

theorem execTokenRenew_keeps {ps : List Area} {s0 : State} {od die : Nat} {s : State} (hK : KeepsBut ps s0 s) (hS :
    [.tok, .ctrs] ⊆ ps) : KeepsOut ps s0 (@execTokenRenew od die s) := by
  unfold execTokenRenew
  with_reducible repeat' first
    | assumption | refine KeepsOut.next ?_ | refine State.takeTok_keeps ?_ (sub (by decide) hS)
    | refine State.replyTok_keeps ?_ (sub (by decide) hS) | refine State.holdToken_keeps ?_ (sub (by decide) hS)
    | refine State.tokenRefused_keeps ?_ (sub (by decide) hS) | refine KeepsBut.ite (fun _ => ?_) (fun _ => ?_)
    | split | dsimp -proj only

theorem State.gotReleased_keeps {ps : List Area} {s0 s : State} {die od : Nat} (hK : KeepsBut ps s0 s) (hS : [.tok,
    .twin, .ctrs] ⊆ ps) : KeepsBut ps s0 (@State.gotReleased s die od) := by
  unfold State.gotReleased
  with_reducible repeat' first
    | assumption | refine State.logChange_keeps ?_ (sub (by decide) hS)
    | refine State.bump_keeps ?_ (sub (by decide) hS) | refine State.judgeLost_keeps ?_ (sub (by decide) hS)
    | refine KeepsBut.ite (fun _ => ?_) (fun _ => ?_) | split | dsimp -proj only
    | refine upd_tok ?_ (sub (by decide) hS) | refine upd_twin ?_ (sub (by decide) hS)

theorem State.rotateLists_keeps {ps : List Area} {s0 s : State} {hub : Nat} (hK : KeepsBut ps s0 s) (hS : [.mem] ⊆ ps)
    : KeepsBut ps s0 (@State.rotateLists s hub) := by
  unfold State.rotateLists
  with_reducible repeat' first
    | assumption | refine KeepsBut.ite (fun _ => ?_) (fun _ => ?_) | split | dsimp -proj only
    | refine upd_mem ?_ (sub (by decide) hS)

theorem execRenewalSilence_keeps {ps : List Area} {s0 s : State} (hK : KeepsBut ps s0 s) (hS : [.tok, .fab, .twin,
    .evs, .ctrs] ⊆ ps) : KeepsOut ps s0 (@execRenewalSilence s) := by
  unfold execRenewalSilence
  with_reducible repeat' first
    | assumption | refine KeepsOut.next ?_ | refine State.activeStops_keeps ?_ (sub (by decide) hS)
    | refine KeepsBut.ite (fun _ => ?_) (fun _ => ?_) | split | dsimp -proj only

theorem State.halveCounts_keeps {ps : List Area} {s0 s : State} {hub : Nat} (hK : KeepsBut ps s0 s) (hS : [.mem] ⊆ ps)
    : KeepsBut ps s0 (@State.halveCounts s hub) := by
  unfold State.halveCounts
  with_reducible repeat' first
    | assumption | refine KeepsBut.ite (fun _ => ?_) (fun _ => ?_) | split
    | refine KeepsBut.ite1 (fun _ => ?_) (fun _ => ?_) | dsimp -proj only | refine upd_mem ?_ (sub (by decide) hS)

theorem execHubEpochBoundary_keeps {ps : List Area} {s0 : State} {hub : Nat} {mark : Bool} {s : State} (hK : KeepsBut
    ps s0 s) (hS : [.tok, .mem, .twin, .evs, .ctrs] ⊆ ps) : KeepsOut ps s0 (@execHubEpochBoundary hub mark s) := by
  unfold execHubEpochBoundary
  with_reducible repeat' first
    | assumption | refine KeepsOut.next ?_ | refine State.setOb_keeps ?_ (sub (by decide) hS)
    | refine State.markMissing_keeps ?_ (sub (by decide) hS) | refine State.missList_keeps ?_ (sub (by decide) hS)
    | refine State.rotateLists_keeps ?_ (sub (by decide) hS) | refine State.halveCounts_keeps ?_ (sub (by decide) hS)
    | refine KeepsBut.ite (fun _ => ?_) (fun _ => ?_) | split | dsimp -proj only
    | refine upd_twin ?_ (sub (by decide) hS)

theorem execTokenExpiry_keeps {ps : List Area} {s0 : State} {od : Nat} {s : State} (hK : KeepsBut ps s0 s) (hS :
    [.tok] ⊆ ps) : KeepsOut ps s0 (@execTokenExpiry od s) := by
  unfold execTokenExpiry
  with_reducible repeat' first
    | assumption | refine KeepsOut.next ?_ | refine State.setOb_keeps ?_ (sub (by decide) hS)
    | refine KeepsBut.ite (fun _ => ?_) (fun _ => ?_) | split | dsimp -proj only
    | refine upd_tok ?_ (sub (by decide) hS)

theorem execD2dCrcError_keeps {ps : List Area} {s0 : State} {link : Nat} {retry : Bool} {s : State} (hK : KeepsBut ps
    s0 s) (hS : [.tok] ⊆ ps) : KeepsOut ps s0 (@execD2dCrcError link retry s) := by
  unfold execD2dCrcError
  with_reducible repeat' first
    | assumption | refine KeepsOut.next ?_ | refine KeepsBut.ite (fun _ => ?_) (fun _ => ?_) | split
    | dsimp -proj only | refine upd_tok ?_ (sub (by decide) hS)

theorem execEpochBoundary_keeps {ps : List Area} {s0 : State} {markToA markToB : Bool} {s : State} (hK : KeepsBut ps
    s0 s) (hS : [.power, .clk, .boot, .cfg, .tok, .ports, .fab, .pool, .coh, .coach, .stock, .repro, .mem, .twin,
    .sec, .rsl, .evs, .ctrs, .fresh] ⊆ ps) : KeepsOut ps s0 (@execEpochBoundary markToA markToB s) := by
  unfold execEpochBoundary
  with_reducible repeat' first
    | assumption | refine KeepsOut.next ?_ | refine State.resetWindow_keeps ?_ (sub (by decide) hS)
    | refine State.nextEpoch_keeps ?_ (sub (by decide) hS) | refine State.setOb_keeps ?_ (sub (by decide) hS)
    | refine State.controlBoundary_keeps ?_ (sub (by decide) hS)
    | refine State.countEpoch_keeps ?_ (sub (by decide) hS) | refine State.raiseStart_keeps ?_ (sub (by decide) hS)
    | refine State.renewTokens_keeps ?_ (sub (by decide) hS) | refine State.startClaim_keeps ?_ (sub (by decide) hS)
    | refine State.countRenewals_keeps ?_ (sub (by decide) hS) | refine State.pinned_keeps ?_ (sub (by decide) hS)
    | refine State.pinnedPd_keeps ?_ (sub (by decide) hS) | refine KeepsBut.ite (fun _ => ?_) (fun _ => ?_) | split
    | dsimp -proj only

theorem execTokenRelease_keeps {ps : List Area} {s0 : State} {od die : Nat} {s : State} (hK : KeepsBut ps s0 s) (hS :
    [.tok, .fab, .pool, .coh, .coach, .mem, .twin, .sec, .rsl, .evs, .ctrs, .fresh] ⊆ ps) : KeepsOut ps s0
    (@execTokenRelease od die s) := by
  unfold execTokenRelease
  with_reducible repeat' first
    | assumption | refine KeepsOut.next ?_ | refine State.takeTok_keeps ?_ (sub (by decide) hS)
    | refine State.drainHub_keeps ?_ (sub (by decide) hS) | refine State.setOb_keeps ?_ (sub (by decide) hS)
    | refine State.replyTok_keeps ?_ (sub (by decide) hS) | refine KeepsBut.ite (fun _ => ?_) (fun _ => ?_) | split
    | dsimp -proj only

theorem State.gotGrant_keeps {ps : List Area} {s0 s : State} {die od : Nat} (hK : KeepsBut ps s0 s) (hS : [.power, .clk,
    .boot, .cfg, .tok, .ports, .fab, .pool, .coh, .coach, .stock, .repro, .mem, .twin, .sec, .rsl, .evs, .ctrs,
    .fresh] ⊆ ps) : KeepsBut ps s0 (@State.gotGrant s die od) := by
  unfold State.gotGrant
  with_reducible repeat' first
    | assumption | refine State.claimed_keeps ?_ (sub (by decide) hS)
    | refine KeepsBut.ite (fun _ => ?_) (fun _ => ?_) | split | dsimp -proj only
    | refine upd_tok ?_ (sub (by decide) hS)

theorem execTokenReply_keeps {ps : List Area} {s0 : State} {die od : Nat} {reply : TokReply} {s : State} (hK :
    KeepsBut ps s0 s) (hS : [.power, .clk, .boot, .cfg, .tok, .ports, .fab, .pool, .coh, .coach, .stock, .repro, .mem, .twin,
    .sec, .rsl, .evs, .ctrs, .fresh] ⊆ ps) : KeepsOut ps s0 (@execTokenReply die od reply s) := by
  unfold execTokenReply
  with_reducible repeat' first
    | assumption | refine KeepsOut.next ?_ | refine State.gotGrant_keeps ?_ (sub (by decide) hS)
    | refine State.gotReleased_keeps ?_ (sub (by decide) hS) | refine KeepsBut.ite (fun _ => ?_) (fun _ => ?_) | split
    | dsimp -proj only | refine upd_tok ?_ (sub (by decide) hS)

theorem execObeyingDieCommand_keeps {ps : List Area} {s0 : State} {od die : Nat} {kind : OdKind} {s : State} (hK :
    KeepsBut ps s0 s) (hS : [.ctrs] ⊆ ps) : KeepsOut ps s0 (@execObeyingDieCommand od die kind s) := by
  unfold execObeyingDieCommand
  with_reducible repeat' first
    | assumption | refine KeepsOut.next ?_ | refine State.tokenRefused_keeps ?_ (sub (by decide) hS)
    | refine KeepsBut.ite (fun _ => ?_) (fun _ => ?_) | split | dsimp -proj only

theorem execD2dLinkFail_keeps {ps : List Area} {s0 : State} {link : Nat} {s : State} (hK : KeepsBut ps s0 s) (hS :
    [.clk, .boot, .tok, .fab, .repro, .twin, .sec, .rsl, .evs, .ctrs] ⊆ ps) : KeepsOut ps s0 (@execD2dLinkFail link s)
    := by
  unfold execD2dLinkFail
  with_reducible repeat' first
    | assumption | refine KeepsOut.next ?_ | refine State.loseTender_keeps ?_ (sub (by decide) hS)
    | refine State.raise_keeps ?_ (sub (by decide) hS) | refine State.dieLost_keeps ?_ (sub (by decide) hS)
    | refine KeepsBut.ite (fun _ => ?_) (fun _ => ?_) | split | dsimp -proj only
    | refine upd_tok ?_ (sub (by decide) hS)

end Sys2Proof.Machine
end

