-- ==== Sys2Proof/Laws/FrameTwin.lean ====
section
/-! SUPPORT. The frame of each operation of Machine/Twin.lean: the parts of the state that it may change, and no others. -/

set_option Elab.async false

namespace Sys2Proof.Machine
open Sys2Proof

set_option maxRecDepth 4000
set_option linter.all false

theorem execTenderReady_keeps {ps : List Area} {s0 s : State} (hK : KeepsBut ps s0 s) (hS : [.twin] ⊆ ps) : KeepsOut
    ps s0 (@execTenderReady s) := by
  unfold execTenderReady
  with_reducible repeat' first
    | assumption | refine KeepsOut.next ?_ | refine KeepsBut.ite (fun _ => ?_) (fun _ => ?_) | split
    | dsimp -proj only | refine upd_twin ?_ (sub (by decide) hS)

theorem execFailNotice_keeps {ps : List Area} {s0 : State} {fromTender : Bool} {s : State} (hK : KeepsBut ps s0 s) (hS
    : [.clk, .boot, .tok, .fab, .repro, .twin, .sec, .rsl, .evs, .ctrs] ⊆ ps) : KeepsOut ps s0 (@execFailNotice
    fromTender s) := by
  unfold execFailNotice
  with_reducible repeat' first
    | assumption | refine KeepsOut.next ?_ | refine State.loseTender_keeps ?_ (sub (by decide) hS)
    | refine State.judgeLost_keeps ?_ (sub (by decide) hS) | refine KeepsBut.ite (fun _ => ?_) (fun _ => ?_) | split
    | dsimp -proj only | refine upd_twin ?_ (sub (by decide) hS)

theorem State.endDieReset_keeps {ps : List Area} {s0 s : State} {code : Nat} (hK : KeepsBut ps s0 s) (hS : [.boot,
    .twin, .rsl, .ctrs] ⊆ ps) : KeepsBut ps s0 (@State.endDieReset s code) := by
  unfold State.endDieReset
  with_reducible repeat' first
    | assumption | refine State.rslAnswer_keeps ?_ (sub (by decide) hS)
    | refine KeepsBut.foldl ?_ (fun sF xF hF => ?_) | refine KeepsBut.foldl1 ?_ (fun sF xF hF => ?_) | split
    | dsimp -proj only | refine KeepsBut.of_pair ?_ (by assumption) | refine upd_boot ?_ (sub (by decide) hS)

theorem execSilentDetect_keeps {ps : List Area} {s0 s : State} (hK : KeepsBut ps s0 s) (hS : [.tok, .twin] ⊆ ps) :
    KeepsOut ps s0 (@execSilentDetect s) := by
  unfold execSilentDetect
  with_reducible repeat' first
    | assumption | refine KeepsOut.next ?_ | refine State.judgeLost_keeps ?_ (sub (by decide) hS)
    | refine KeepsBut.ite (fun _ => ?_) (fun _ => ?_) | split | dsimp -proj only

theorem execTwinSwitch_keeps {ps : List Area} {s0 : State} {c : RslCmd} {s : State} (hK : KeepsBut ps s0 s) (hS :
    [.twin, .rsl, .ctrs] ⊆ ps) : KeepsOut ps s0 (@execTwinSwitch c s) := by
  unfold execTwinSwitch
  with_reducible repeat' first
    | assumption | refine KeepsOut.next ?_ | refine State.rslGate_keeps ?_ (fun v0F hF => ?_) (sub (by decide) hS)
    | refine State.rslAnswer_keeps ?_ (sub (by decide) hS) | refine KeepsBut.ite (fun _ => ?_) (fun _ => ?_) | split
    | dsimp -proj only | refine upd_twin ?_ (sub (by decide) hS)

theorem State.portArrayLost_keeps {ps : List Area} {s0 s : State} {n : Nat} (hK : KeepsBut ps s0 s) (hS : [.ports,
    .fab, .evs, .ctrs] ⊆ ps) : KeepsBut ps s0 (@State.portArrayLost s n) := by
  unfold State.portArrayLost
  with_reducible repeat' first
    | assumption | refine State.leaveFlight_keeps ?_ (sub (by decide) hS)
    | refine State.setPort_keeps ?_ (sub (by decide) hS) | refine State.raisePortFault_keeps ?_ (sub (by decide) hS)
    | split | dsimp -proj only

theorem execTenderLinkRetrain_keeps {ps : List Area} {s0 : State} {ok : Bool} {s : State} (hK : KeepsBut ps s0 s) (hS
    : [.clk, .boot, .tok, .twin, .evs, .ctrs] ⊆ ps) : KeepsOut ps s0 (@execTenderLinkRetrain ok s) := by
  unfold execTenderLinkRetrain
  with_reducible repeat' first
    | assumption | refine KeepsOut.next ?_ | refine State.restartPolicy_keeps ?_ (sub (by decide) hS)
    | refine KeepsBut.ite (fun _ => ?_) (fun _ => ?_) | split | dsimp -proj only
    | refine upd_tok ?_ (sub (by decide) hS)

theorem State.dropHandover_keeps {ps : List Area} {s0 s : State} (hK : KeepsBut ps s0 s) (hS : [.boot, .twin, .rsl,
    .ctrs] ⊆ ps) : KeepsBut ps s0 (@State.dropHandover s) := by
  unfold State.dropHandover
  with_reducible repeat' first
    | assumption | refine State.rslAnswer_keeps ?_ (sub (by decide) hS)
    | refine KeepsBut.foldl ?_ (fun sF xF hF => ?_) | refine KeepsBut.foldl1 ?_ (fun sF xF hF => ?_)
    | refine KeepsBut.ite (fun _ => ?_) (fun _ => ?_) | split | dsimp -proj only
    | refine KeepsBut.of_pair ?_ (by assumption) | refine upd_boot_twin ?_ (sub (by decide) hS)

theorem execHandover_keeps {ps : List Area} {s0 s : State} (hK : KeepsBut ps s0 s) (hS : [.boot, .tok, .fab, .twin,
    .rsl, .ctrs] ⊆ ps) : KeepsOut ps s0 (@execHandover s) := by
  unfold execHandover
  with_reducible repeat' first
    | assumption | refine KeepsOut.next ?_ | refine State.dropHandover_keeps ?_ (sub (by decide) hS)
    | refine State.journalHeld_keeps ?_ (sub (by decide) hS) | refine State.sendToks_keeps ?_ (sub (by decide) hS)
    | refine KeepsBut.ite (fun _ => ?_) (fun _ => ?_) | split | dsimp -proj only
    | refine upd_tok_twin ?_ (sub (by decide) hS)

theorem execResyncStart_keeps {ps : List Area} {s0 s : State} (hK : KeepsBut ps s0 s) (hS : [.twin, .sec] ⊆ ps) :
    KeepsOut ps s0 (@execResyncStart s) := by
  unfold execResyncStart
  with_reducible repeat' first
    | assumption | refine KeepsOut.next ?_ | refine State.startResync_keeps ?_ (sub (by decide) hS)
    | refine KeepsBut.ite (fun _ => ?_) (fun _ => ?_) | split | dsimp -proj only

theorem execCommitListRead_keeps {ps : List Area} {s0 : State} {hub : Nat} {ok : Bool} {s : State} (hK : KeepsBut ps
    s0 s) (hS : [.twin, .ctrs] ⊆ ps) : KeepsOut ps s0 (@execCommitListRead hub ok s) := by
  unfold execCommitListRead
  with_reducible repeat' first
    | assumption | refine KeepsOut.next ?_ | refine State.missList_keeps ?_ (sub (by decide) hS)
    | refine KeepsBut.ite (fun _ => ?_) (fun _ => ?_) | split | dsimp -proj only
    | refine upd_twin ?_ (sub (by decide) hS)

theorem execActiveSelfFault_keeps {ps : List Area} {s0 s : State} (hK : KeepsBut ps s0 s) (hS : [.tok, .fab, .twin,
    .evs, .ctrs] ⊆ ps) : KeepsOut ps s0 (@execActiveSelfFault s) := by
  unfold execActiveSelfFault
  with_reducible repeat' first
    | assumption | refine KeepsOut.next ?_ | refine State.activeStops_keeps ?_ (sub (by decide) hS) | dsimp -proj only

theorem execDieReady_keeps {ps : List Area} {s0 : State} {die : Nat} {checksPass : Bool} {s : State} (hK : KeepsBut ps
    s0 s) (hS : [.boot, .twin, .rsl, .evs, .ctrs] ⊆ ps) : KeepsOut ps s0 (@execDieReady die checksPass s) := by
  unfold execDieReady
  with_reducible repeat' first
    | assumption | refine KeepsOut.next ?_ | refine State.endDieReset_keeps ?_ (sub (by decide) hS)
    | refine State.raise_keeps ?_ (sub (by decide) hS) | refine KeepsBut.ite (fun _ => ?_) (fun _ => ?_) | split
    | dsimp -proj only | refine upd_boot ?_ (sub (by decide) hS) | refine upd_twin ?_ (sub (by decide) hS)

theorem State.clearCounts_keeps {ps : List Area} {s0 s : State} {hub : Nat} (hK : KeepsBut ps s0 s) (hS : [.mem] ⊆ ps)
    : KeepsBut ps s0 (@State.clearCounts s hub) := by
  unfold State.clearCounts
  with_reducible repeat' first
    | assumption | refine KeepsBut.ite1 (fun _ => ?_) (fun _ => ?_) | dsimp -proj only
    | refine upd_mem ?_ (sub (by decide) hS)

theorem execSramUncorrectable_keeps {ps : List Area} {s0 : State} {die array index : Nat} {s : State} (hK : KeepsBut
    ps s0 s) (hS : [.clk, .boot, .tok, .ports, .fab, .stock, .repro, .mem, .twin, .sec, .rsl, .evs, .ctrs] ⊆ ps) :
    KeepsOut ps s0 (@execSramUncorrectable die array index s) := by
  unfold execSramUncorrectable
  with_reducible repeat' first
    | assumption | refine KeepsOut.next ?_ | refine State.activeStops_keeps ?_ (sub (by decide) hS)
    | refine State.failBlock_keeps ?_ (sub (by decide) hS) | refine State.loseTender_keeps ?_ (sub (by decide) hS)
    | refine State.clearCounts_keeps ?_ (sub (by decide) hS)
    | refine State.portArrayLost_keeps ?_ (sub (by decide) hS) | refine KeepsBut.ite (fun _ => ?_) (fun _ => ?_)
    | split | dsimp -proj only | refine upd_mem ?_ (sub (by decide) hS)

theorem execClaimTimeout_keeps {ps : List Area} {s0 s : State} (hK : KeepsBut ps s0 s) (hS : [.tok, .fab, .evs, .ctrs]
    ⊆ ps) : KeepsOut ps s0 (@execClaimTimeout s) := by
  unfold execClaimTimeout
  with_reducible repeat' first
    | assumption | refine KeepsOut.next ?_ | refine State.poolFatal_keeps ?_ (sub (by decide) hS)
    | refine State.raise_keeps ?_ (sub (by decide) hS) | refine KeepsBut.ite (fun _ => ?_) (fun _ => ?_) | split
    | dsimp -proj only | refine upd_tok ?_ (sub (by decide) hS)

theorem execDieReset_keeps {ps : List Area} {s0 : State} {c : RslCmd} {die : Nat} {s : State} (hK : KeepsBut ps s0 s)
    (hS : [.clk, .boot, .tok, .fab, .twin, .sec, .rsl, .ctrs] ⊆ ps) : KeepsOut ps s0 (@execDieReset c die s) := by
  unfold execDieReset
  with_reducible repeat' first
    | assumption | refine KeepsOut.next ?_ | refine State.rslGate_keeps ?_ (fun v0F hF => ?_) (sub (by decide) hS)
    | refine State.rslAnswer_keeps ?_ (sub (by decide) hS) | refine State.resetDie_keeps ?_ (sub (by decide) hS)
    | refine State.dropCopy_keeps ?_ (sub (by decide) hS) | refine KeepsBut.ite (fun _ => ?_) (fun _ => ?_) | split
    | dsimp -proj only | refine upd_boot ?_ (sub (by decide) hS) | refine upd_twin ?_ (sub (by decide) hS)

theorem execTokenExpiryIndication_keeps {ps : List Area} {s0 s : State} (hK : KeepsBut ps s0 s) (hS : [.tok, .twin] ⊆
    ps) : KeepsOut ps s0 (@execTokenExpiryIndication s) := by
  unfold execTokenExpiryIndication
  with_reducible repeat' first
    | assumption | refine KeepsOut.next ?_ | refine State.judgeLost_keeps ?_ (sub (by decide) hS)
    | refine KeepsBut.ite (fun _ => ?_) (fun _ => ?_) | split | dsimp -proj only
    | refine upd_tok ?_ (sub (by decide) hS)

theorem execCutLagTimeout_keeps {ps : List Area} {s0 s : State} (hK : KeepsBut ps s0 s) (hS : [.clk, .boot, .tok,
    .fab, .repro, .twin, .sec, .rsl, .evs, .ctrs] ⊆ ps) : KeepsOut ps s0 (@execCutLagTimeout s) := by
  unfold execCutLagTimeout
  with_reducible repeat' first
    | assumption | refine KeepsOut.next ?_ | refine State.loseTender_keeps ?_ (sub (by decide) hS)
    | refine KeepsBut.ite (fun _ => ?_) (fun _ => ?_) | split | refine KeepsBut.ite1 (fun _ => ?_) (fun _ => ?_)
    | dsimp -proj only

theorem execCutAck_keeps {ps : List Area} {s0 : State} {epoch : Nat} {s : State} (hK : KeepsBut ps s0 s) (hS : [.twin,
    .evs, .ctrs] ⊆ ps) : KeepsOut ps s0 (@execCutAck epoch s) := by
  unfold execCutAck
  with_reducible repeat' first
    | assumption | refine KeepsOut.next ?_ | refine State.raise_keeps ?_ (sub (by decide) hS)
    | refine KeepsBut.ite (fun _ => ?_) (fun _ => ?_) | split | refine KeepsBut.ite1 (fun _ => ?_) (fun _ => ?_)
    | dsimp -proj only | refine upd_twin ?_ (sub (by decide) hS)

end Sys2Proof.Machine
end

