-- ==== Sys2Proof/Laws/FrameBootOps.lean ====
section
/-! SUPPORT. The frame of each operation of Machine/BootOps.lean: the parts of the state that it may change, and no others. -/

set_option Elab.async false

namespace Sys2Proof.Machine
open Sys2Proof

set_option maxRecDepth 4000
set_option linter.all false

theorem State.calSettled_keeps {ps : List Area} {s0 s : State} (hK : KeepsBut ps s0 s) (hS : [.boot] ⊆ ps) : KeepsBut
    ps s0 (@State.calSettled s) := by
  unfold State.calSettled
  with_reducible repeat' first
    | assumption | refine KeepsBut.ite (fun _ => ?_) (fun _ => ?_) | split | dsimp -proj only
    | refine upd_boot ?_ (sub (by decide) hS)

theorem State.fallbackEv_keeps {ps : List Area} {s0 s : State} {die : Nat} (hK : KeepsBut ps s0 s) (hS : [.evs, .ctrs]
    ⊆ ps) : KeepsBut ps s0 (@State.fallbackEv s die) := by
  unfold State.fallbackEv
  with_reducible repeat' first
    | assumption | refine State.raise_keeps ?_ (sub (by decide) hS) | dsimp -proj only

theorem State.holdB_keeps {ps : List Area} {s0 s : State} (hK : KeepsBut ps s0 s) (hS : [.boot, .twin, .evs, .ctrs] ⊆
    ps) : KeepsBut ps s0 (@State.holdB s) := by
  unfold State.holdB
  with_reducible repeat' first
    | assumption | refine State.fallbackEv_keeps ?_ (sub (by decide) hS) | dsimp -proj only
    | refine upd_boot_twin ?_ (sub (by decide) hS)

theorem State.loadTenantKeys_keeps {ps : List Area} {s0 s : State} (hK : KeepsBut ps s0 s) (hS : [.mem, .fresh] ⊆ ps)
    : KeepsBut ps s0 (@State.loadTenantKeys s) := by
  unfold State.loadTenantKeys
  with_reducible repeat' first
    | assumption | refine KeepsBut.ite1 (fun _ => ?_) (fun _ => ?_) | dsimp -proj only
    | refine upd_mem_fresh ?_ (sub (by decide) hS)

theorem State.loadModule_keeps {ps : List Area} {s0 s : State} (hK : KeepsBut ps s0 s) (hS : [.boot, .fab, .mem, .evs,
    .ctrs, .fresh] ⊆ ps) : KeepsBut ps s0 (@State.loadModule s) := by
  unfold State.loadModule
  with_reducible repeat' first
    | assumption | refine State.loadTenantKeys_keeps ?_ (sub (by decide) hS)
    | refine State.raise_keeps ?_ (sub (by decide) hS) | refine KeepsBut.ite (fun _ => ?_) (fun _ => ?_) | split
    | dsimp -proj only | refine upd_boot_fab ?_ (sub (by decide) hS)

theorem State.imageFails_keeps {ps : List Area} {s0 s : State} (hK : KeepsBut ps s0 s) (hS : [.boot] ⊆ ps) : KeepsBut
    ps s0 (@State.imageFails s) := by
  unfold State.imageFails
  with_reducible repeat' first
    | assumption | split | dsimp -proj only | refine upd_boot ?_ (sub (by decide) hS)

theorem State.enterRecovery_keeps {ps : List Area} {s0 s : State} (hK : KeepsBut ps s0 s) (hS : [.boot] ⊆ ps) :
    KeepsBut ps s0 (@State.enterRecovery s) := by
  unfold State.enterRecovery
  with_reducible repeat' first
    | assumption | dsimp -proj only | refine upd_boot ?_ (sub (by decide) hS)

theorem State.releaseAllTokens_keeps {ps : List Area} {s0 s : State} (hK : KeepsBut ps s0 s) (hS : [.boot, .tok, .evs]
    ⊆ ps) : KeepsBut ps s0 (@State.releaseAllTokens s) := by
  unfold State.releaseAllTokens
  with_reducible repeat' first
    | assumption | refine State.sendToks_keeps ?_ (sub (by decide) hS) | dsimp -proj only
    | refine upd_boot_tok_evs ?_ (sub (by decide) hS)

end Sys2Proof.Machine
end

