-- ==== Sys2Proof/Laws/FrameStartup.lean ====
section
/-! SUPPORT. The frame of each operation of Machine/Startup.lean: the parts of the state that it may change, and no others. -/

set_option Elab.async false

namespace Sys2Proof.Machine
open Sys2Proof

set_option maxRecDepth 4000
set_option linter.all false

theorem execConfigCheckDone_keeps {ps : List Area} {s0 : State} {die : Nat} {s : State} (hK : KeepsBut ps s0 s) (hS :
    [.boot, .cfg] ⊆ ps) : KeepsOut ps s0 (@execConfigCheckDone die s) := by
  unfold execConfigCheckDone
  with_reducible repeat' first
    | assumption | refine KeepsOut.next ?_ | refine State.imageFails_keeps ?_ (sub (by decide) hS)
    | refine KeepsBut.ite (fun _ => ?_) (fun _ => ?_) | split | dsimp -proj only
    | refine upd_boot ?_ (sub (by decide) hS) | refine upd_boot_cfg ?_ (sub (by decide) hS)

theorem execCfgWrite_keeps {ps : List Area} {s0 : State} {c : RslCmd} {fieldId value : Nat} {s : State} (hK : KeepsBut
    ps s0 s) (hS : [.cfg, .twin, .rsl, .ctrs] ⊆ ps) : KeepsOut ps s0 (@execCfgWrite c fieldId value s) := by
  unfold execCfgWrite
  with_reducible repeat' first
    | assumption | refine KeepsOut.next ?_ | refine State.rslGate_keeps ?_ (fun v0F hF => ?_) (sub (by decide) hS)
    | refine State.rslAnswer_keeps ?_ (sub (by decide) hS) | refine State.logChange_keeps ?_ (sub (by decide) hS)
    | refine KeepsBut.ite (fun _ => ?_) (fun _ => ?_) | split | dsimp -proj only
    | refine upd_cfg ?_ (sub (by decide) hS)

theorem execCfgRead_keeps {ps : List Area} {s0 : State} {c : RslCmd} {fieldId : Nat} {s : State} (hK : KeepsBut ps s0
    s) (hS : [.twin, .rsl, .ctrs] ⊆ ps) : KeepsOut ps s0 (@execCfgRead c fieldId s) := by
  unfold execCfgRead
  with_reducible repeat' first
    | assumption | refine KeepsOut.next ?_ | refine State.rslGate_keeps ?_ (fun v0F hF => ?_) (sub (by decide) hS)
    | refine State.rslAnswer_keeps ?_ (sub (by decide) hS) | split | dsimp -proj only

theorem execStackCalDone_keeps {ps : List Area} {s0 : State} {stack : Nat} {pass : Bool} {s : State} (hK : KeepsBut ps
    s0 s) (hS : [.boot, .ports, .fab, .pool, .coh, .coach, .stock, .mem, .twin, .sec, .rsl, .evs, .ctrs, .fresh] ⊆ ps)
    : KeepsOut ps s0 (@execStackCalDone stack pass s) := by
  unfold execStackCalDone
  with_reducible repeat' first
    | assumption | refine KeepsOut.next ?_ | refine State.partFailed_keeps ?_ (sub (by decide) hS)
    | refine State.raise_keeps ?_ (sub (by decide) hS) | refine State.calSettled_keeps ?_ (sub (by decide) hS)
    | refine KeepsBut.ite (fun _ => ?_) (fun _ => ?_) | split | dsimp -proj only
    | refine upd_boot ?_ (sub (by decide) hS)

theorem execLcAdvance_keeps {ps : List Area} {s0 : State} {c : RslCmd} {target : Nat} {s : State} (hK : KeepsBut ps s0
    s) (hS : [.boot, .fab, .pool, .coh, .coach, .stock, .repro, .mem, .twin, .sec, .rsl, .evs, .ctrs, .fresh] ⊆ ps) :
    KeepsOut ps s0 (@execLcAdvance c target s) := by
  unfold execLcAdvance
  with_reducible repeat' first
    | assumption | refine KeepsOut.next ?_ | refine State.rslGate_keeps ?_ (fun v0F hF => ?_) (sub (by decide) hS)
    | refine State.rslAnswer_keeps ?_ (sub (by decide) hS) | refine State.settleLc_keeps ?_ (sub (by decide) hS)
    | refine State.withdrawAll_keeps ?_ (sub (by decide) hS) | refine KeepsBut.ite (fun _ => ?_) (fun _ => ?_) | split
    | dsimp -proj only | refine upd_boot ?_ (sub (by decide) hS)

theorem execProvision_keeps {ps : List Area} {s0 : State} {c : RslCmd} {tokenOk : Bool} {s : State} (hK : KeepsBut ps
    s0 s) (hS : [.boot, .twin, .sec, .rsl, .ctrs, .fresh] ⊆ ps) : KeepsOut ps s0 (@execProvision c tokenOk s) := by
  unfold execProvision
  with_reducible repeat' first
    | assumption | refine KeepsOut.next ?_ | refine State.rslGate_keeps ?_ (fun v0F hF => ?_) (sub (by decide) hS)
    | refine State.rslAnswer_keeps ?_ (sub (by decide) hS) | refine State.draw_keeps ?_ (sub (by decide) hS)
    | refine KeepsBut.ite (fun _ => ?_) (fun _ => ?_) | split | refine KeepsBut.ite1 (fun _ => ?_) (fun _ => ?_)
    | dsimp -proj only | refine KeepsBut.of_pair ?_ (by assumption) | refine upd_boot_sec ?_ (sub (by decide) hS)

theorem execBootStatus_keeps {ps : List Area} {s0 : State} {c : RslCmd} {s : State} (hK : KeepsBut ps s0 s) (hS :
    [.twin, .rsl, .ctrs] ⊆ ps) : KeepsOut ps s0 (@execBootStatus c s) := by
  unfold execBootStatus
  with_reducible repeat' first
    | assumption | refine KeepsOut.next ?_ | refine State.rslGate_keeps ?_ (fun v0F hF => ?_) (sub (by decide) hS)
    | refine State.rslAnswer_keeps ?_ (sub (by decide) hS) | dsimp -proj only

theorem execOscStartDelayEnd_keeps {ps : List Area} {s0 : State} {xaAmp : Bool} {xaCount : Nat} {xbAmp : Bool}
    {xbCount : Nat} {s : State} (hK : KeepsBut ps s0 s) (hS : [.clk, .boot, .evs, .ctrs] ⊆ ps) : KeepsOut ps s0
    (@execOscStartDelayEnd xaAmp xaCount xbAmp xbCount s) := by
  unfold execOscStartDelayEnd
  with_reducible repeat' first
    | assumption | refine KeepsOut.next ?_ | refine State.raise_keeps ?_ (sub (by decide) hS)
    | refine KeepsBut.ite (fun _ => ?_) (fun _ => ?_) | split | dsimp -proj only
    | refine upd_clk_boot ?_ (sub (by decide) hS)

theorem execDieFirmwareDone_keeps {ps : List Area} {s0 : State} {die : Nat} {s : State} (hK : KeepsBut ps s0 s) (hS :
    [.boot] ⊆ ps) : KeepsOut ps s0 (@execDieFirmwareDone die s) := by
  unfold execDieFirmwareDone
  with_reducible repeat' first
    | assumption | refine KeepsOut.next ?_ | refine State.imageFails_keeps ?_ (sub (by decide) hS)
    | refine KeepsBut.ite (fun _ => ?_) (fun _ => ?_) | split | dsimp -proj only
    | refine upd_boot ?_ (sub (by decide) hS)

theorem execLoadStageDone_keeps {ps : List Area} {s0 s : State} (hK : KeepsBut ps s0 s) (hS : [.boot, .tok, .fab,
    .mem, .evs, .ctrs, .fresh] ⊆ ps) : KeepsOut ps s0 (@execLoadStageDone s) := by
  unfold execLoadStageDone
  with_reducible repeat' first
    | assumption | refine KeepsOut.next ?_ | refine State.imageFails_keeps ?_ (sub (by decide) hS)
    | refine State.releaseAllTokens_keeps ?_ (sub (by decide) hS)
    | refine State.loadModule_keeps ?_ (sub (by decide) hS) | refine KeepsBut.ite (fun _ => ?_) (fun _ => ?_) | split
    | dsimp -proj only

theorem execWipeRangeDone_keeps {ps : List Area} {s0 s : State} (hK : KeepsBut ps s0 s) (hS : [.boot, .mem, .twin,
    .evs, .ctrs] ⊆ ps) : KeepsOut ps s0 (@execWipeRangeDone s) := by
  unfold execWipeRangeDone
  with_reducible repeat' first
    | assumption | refine KeepsOut.next ?_ | refine State.overwritePages_keeps ?_ (sub (by decide) hS)
    | refine State.raise_keeps ?_ (sub (by decide) hS) | refine KeepsBut.ite (fun _ => ?_) (fun _ => ?_) | split
    | refine KeepsBut.ite1 (fun _ => ?_) (fun _ => ?_) | dsimp -proj only | refine upd_boot ?_ (sub (by decide) hS)

theorem execPorRelease_keeps {ps : List Area} {s0 : State} {oscDly setIndex : BitVec 3} {s : State} (hK : KeepsBut ps
    s0 s) (hS : [.power, .clk, .boot] ⊆ ps) : KeepsOut ps s0 (@execPorRelease oscDly setIndex s) := by
  unfold execPorRelease
  with_reducible repeat' first
    | assumption | refine KeepsOut.next ?_ | refine KeepsBut.ite (fun _ => ?_) (fun _ => ?_) | split
    | refine KeepsBut.ite1 (fun _ => ?_) (fun _ => ?_) | dsimp -proj only
    | refine upd_power_clk_boot ?_ (sub (by decide) hS)

theorem execImageChoiceDone_keeps {ps : List Area} {s0 : State} {bReadsA bReadsB : Bool} {s : State} (hK : KeepsBut ps
    s0 s) (hS : [.boot, .twin, .evs, .ctrs] ⊆ ps) : KeepsOut ps s0 (@execImageChoiceDone bReadsA bReadsB s) := by
  unfold execImageChoiceDone
  with_reducible repeat' first
    | assumption | refine KeepsOut.next ?_ | refine State.enterRecovery_keeps ?_ (sub (by decide) hS)
    | refine State.fallbackEv_keeps ?_ (sub (by decide) hS) | refine State.holdB_keeps ?_ (sub (by decide) hS)
    | refine KeepsBut.ite (fun _ => ?_) (fun _ => ?_) | split | dsimp -proj only
    | refine upd_boot ?_ (sub (by decide) hS)

end Sys2Proof.Machine
end

