-- ==== Sys2Proof/Laws/FrameService.lean ====
section
/-! SUPPORT. The frame of each operation of Machine/Service.lean: the parts of the state that it may change, and no others. -/

set_option Elab.async false

namespace Sys2Proof.Machine
open Sys2Proof

set_option maxRecDepth 4000
set_option linter.all false

theorem execRslCommandRepeat_keeps {ps : List Area} {s0 : State} {port tag cmd : Nat} {s : State} (hK : KeepsBut ps s0
    s) (hS : [.rsl, .ctrs] ⊆ ps) : KeepsOut ps s0 (@execRslCommandRepeat port tag cmd s) := by
  unfold execRslCommandRepeat
  with_reducible repeat' first
    | assumption | refine KeepsOut.next ?_ | refine State.rslRepeat_keeps ?_ (sub (by decide) hS)
    | refine State.bump_keeps ?_ (sub (by decide) hS) | refine KeepsBut.ite (fun _ => ?_) (fun _ => ?_) | split
    | dsimp -proj only

theorem State.refillBucket_keeps {ps : List Area} {s0 s : State} {code : Nat} (hK : KeepsBut ps s0 s) (hS : [.evs,
    .ctrs] ⊆ ps) : KeepsBut ps s0 (@State.refillBucket s code) := by
  unfold State.refillBucket
  with_reducible repeat' first
    | assumption | refine State.raise_keeps ?_ (sub (by decide) hS) | refine KeepsBut.ite (fun _ => ?_) (fun _ => ?_)
    | split | dsimp -proj only | refine upd_evs ?_ (sub (by decide) hS)

theorem execEvBucketRefill_keeps {ps : List Area} {s0 s : State} (hK : KeepsBut ps s0 s) (hS : [.evs, .ctrs] ⊆ ps) :
    KeepsOut ps s0 (@execEvBucketRefill s) := by
  unfold execEvBucketRefill
  with_reducible repeat' first
    | assumption | refine KeepsOut.next ?_ | refine State.refillBucket_keeps ?_ (sub (by decide) hS)
    | refine KeepsBut.foldl ?_ (fun sF xF hF => ?_) | refine KeepsBut.foldl1 ?_ (fun sF xF hF => ?_)
    | refine KeepsBut.ite (fun _ => ?_) (fun _ => ?_) | split | refine KeepsBut.ite1 (fun _ => ?_) (fun _ => ?_)
    | dsimp -proj only | refine KeepsBut.of_pair ?_ (by assumption)

theorem ctrReadAct_keeps {ps : List Area} {s0 : State} {v : Via} {group count index dst : Nat} {s : State} (hK :
    KeepsBut ps s0 s) (hS : [.fab, .mem, .twin, .sec, .rsl, .evs, .ctrs, .fresh] ⊆ ps) : KeepsBut ps s0 (@ctrReadAct v
    group count index dst s) := by
  unfold ctrReadAct
  with_reducible repeat' first
    | assumption | refine State.dumpCpl_keeps ?_ (sub (by decide) hS)
    | refine State.deliver_keeps ?_ (fun v0F v1F v2F v3F hF => ?_) (sub (by decide) hS)
    | refine KeepsBut.ite (fun _ => ?_) (fun _ => ?_) | split | dsimp -proj only

theorem execCtrRead_keeps {ps : List Area} {s0 : State} {v : Via} {group count index dst : Nat} {s : State} (hK :
    KeepsBut ps s0 s) (hS : [.fab, .mem, .twin, .sec, .rsl, .evs, .ctrs, .fresh] ⊆ ps) : KeepsOut ps s0 (@execCtrRead
    v group count index dst s) := by
  unfold execCtrRead
  with_reducible repeat' first
    | assumption | refine KeepsOut.next ?_ | refine State.dumpCpl_keeps ?_ (sub (by decide) hS)
    | refine State.classThree_keeps ?_ (fun v0F v1F v2F hF => ?_) (fun v0F hF => ?_) (sub (by decide) hS)
    | refine ctrReadAct_keeps ?_ (sub (by decide) hS) | dsimp -proj only

theorem execRslFrameInvalid_keeps {ps : List Area} {s0 : State} {port frameLen : Nat} {s : State} (hK : KeepsBut ps s0
    s) (hS : [.ports, .rsl, .evs, .ctrs, .fresh] ⊆ ps) : KeepsOut ps s0 (@execRslFrameInvalid port frameLen s) := by
  unfold execRslFrameInvalid
  with_reducible repeat' first
    | assumption | refine KeepsOut.next ?_ | refine State.linkDown_keeps ?_ (sub (by decide) hS)
    | refine State.setPort_keeps ?_ (sub (by decide) hS) | refine KeepsBut.ite (fun _ => ?_) (fun _ => ?_) | split
    | dsimp -proj only

theorem objQueryAct_keeps {ps : List Area} {s0 : State} {v : Via} {obj index dst : Nat} {s : State} (hK : KeepsBut ps
    s0 s) (hS : [.fab, .mem, .twin, .sec, .rsl, .evs, .ctrs, .fresh] ⊆ ps) : KeepsBut ps s0 (@objQueryAct v obj index
    dst s) := by
  unfold objQueryAct
  with_reducible repeat' first
    | assumption | refine State.dumpCpl_keeps ?_ (sub (by decide) hS)
    | refine State.deliver_keeps ?_ (fun v0F v1F v2F v3F hF => ?_) (sub (by decide) hS)
    | refine KeepsBut.ite (fun _ => ?_) (fun _ => ?_) | split | dsimp -proj only

theorem execObjQuery_keeps {ps : List Area} {s0 : State} {v : Via} {obj index dst : Nat} {s : State} (hK : KeepsBut ps
    s0 s) (hS : [.fab, .mem, .twin, .sec, .rsl, .evs, .ctrs, .fresh] ⊆ ps) : KeepsOut ps s0 (@execObjQuery v obj index
    dst s) := by
  unfold execObjQuery
  with_reducible repeat' first
    | assumption | refine KeepsOut.next ?_ | refine State.dumpCpl_keeps ?_ (sub (by decide) hS)
    | refine State.classThree_keeps ?_ (fun v0F v1F v2F hF => ?_) (fun v0F hF => ?_) (sub (by decide) hS)
    | refine State.poolGuard_keeps ?_ (fun v0F v1F v2F hF => ?_) (fun v0F hF => ?_) (sub (by decide) hS)
    | refine objQueryAct_keeps ?_ (sub (by decide) hS) | refine KeepsBut.ite (fun _ => ?_) (fun _ => ?_) | split
    | dsimp -proj only

theorem execEvAck_keeps {ps : List Area} {s0 : State} {c : RslCmd} {seq : Nat} {s : State} (hK : KeepsBut ps s0 s) (hS
    : [.twin, .rsl, .evs, .ctrs] ⊆ ps) : KeepsOut ps s0 (@execEvAck c seq s) := by
  unfold execEvAck
  with_reducible repeat' first
    | assumption | refine KeepsOut.next ?_ | refine State.rslGate_keeps ?_ (fun v0F hF => ?_) (sub (by decide) hS)
    | refine State.rslAnswer_keeps ?_ (sub (by decide) hS) | dsimp -proj only | refine upd_evs ?_ (sub (by decide) hS)

theorem execRslEcho_keeps {ps : List Area} {s0 : State} {c : RslCmd} {echo : Nat} {s : State} (hK : KeepsBut ps s0 s)
    (hS : [.twin, .rsl, .ctrs] ⊆ ps) : KeepsOut ps s0 (@execRslEcho c echo s) := by
  unfold execRslEcho
  with_reducible repeat' first
    | assumption | refine KeepsOut.next ?_ | refine State.rslGate_keeps ?_ (fun v0F hF => ?_) (sub (by decide) hS)
    | refine State.rslAnswer_keeps ?_ (sub (by decide) hS) | dsimp -proj only

theorem execStatusRead_keeps {ps : List Area} {s0 : State} {c : RslCmd} {word count index : Nat} {s : State} (hK :
    KeepsBut ps s0 s) (hS : [.twin, .rsl, .ctrs] ⊆ ps) : KeepsOut ps s0 (@execStatusRead c word count index s) := by
  unfold execStatusRead
  with_reducible repeat' first
    | assumption | refine KeepsOut.next ?_ | refine State.rslGate_keeps ?_ (fun v0F hF => ?_) (sub (by decide) hS)
    | refine State.rslAnswer_keeps ?_ (sub (by decide) hS) | refine KeepsBut.ite (fun _ => ?_) (fun _ => ?_) | split
    | dsimp -proj only

end Sys2Proof.Machine
end

