-- ==== Sys2Proof/Laws/FrameAttest.lean ====
section
/-! SUPPORT. The frame of each operation of Machine/Attest.lean: the parts of the state that it may change, and no others. -/

set_option Elab.async false

namespace Sys2Proof.Machine
open Sys2Proof

set_option maxRecDepth 4000
set_option linter.all false

theorem attestAct_keeps {ps : List Area} {s0 : State} {v : Via} {nonce dst scope resv : Nat} {s : State} (hK :
    KeepsBut ps s0 s) (hS : [.fab, .twin, .sec, .rsl, .ctrs] ⊆ ps) : KeepsBut ps s0 (@attestAct v nonce dst scope resv
    s) := by
  unfold attestAct
  with_reducible repeat' first
    | assumption | refine State.secCpl_keeps ?_ (sub (by decide) hS)
    | refine State.argRefuse_keeps ?_ (fun v0F v1F v2F hF => ?_) (sub (by decide) hS)
    | refine KeepsBut.ite (fun _ => ?_) (fun _ => ?_) | split | dsimp -proj only
    | refine upd_sec ?_ (sub (by decide) hS)

theorem execCertGet_keeps {ps : List Area} {s0 : State} {v : Via} {dst resv : Nat} {s : State} (hK : KeepsBut ps s0 s)
    (hS : [.fab, .mem, .twin, .sec, .rsl, .evs, .ctrs, .fresh] ⊆ ps) : KeepsOut ps s0 (@execCertGet v dst resv s) :=
    by
  unfold execCertGet
  with_reducible repeat' first
    | assumption | refine KeepsOut.next ?_ | refine State.secCpl_keeps ?_ (sub (by decide) hS)
    | refine State.classThree_keeps ?_ (fun v0F v1F v2F hF => ?_) (fun v0F hF => ?_) (sub (by decide) hS)
    | refine State.deliver_keeps ?_ (fun v0F v1F v2F v3F hF => ?_) (sub (by decide) hS)
    | refine KeepsBut.ite (fun _ => ?_) (fun _ => ?_) | split | dsimp -proj only

theorem State.setPend_keeps {ps : List Area} {s0 s : State} {st : PendState} {next flash : Nat} (hK : KeepsBut ps s0
    s) (hS : [.boot, .sec] ⊆ ps) : KeepsBut ps s0 (@State.setPend s st next flash) := by
  unfold State.setPend
  with_reducible repeat' first
    | assumption | dsimp -proj only | refine upd_boot_sec ?_ (sub (by decide) hS)

theorem execSecMinRaise_keeps {ps : List Area} {s0 : State} {c : RslCmd} {value : Nat} {s : State} (hK : KeepsBut ps
    s0 s) (hS : [.boot, .twin, .sec, .rsl, .ctrs] ⊆ ps) : KeepsOut ps s0 (@execSecMinRaise c value s) := by
  unfold execSecMinRaise
  with_reducible repeat' first
    | assumption | refine KeepsOut.next ?_ | refine State.rslGate_keeps ?_ (fun v0F hF => ?_) (sub (by decide) hS)
    | refine State.rslAnswer_keeps ?_ (sub (by decide) hS) | refine State.setPend_keeps ?_ (sub (by decide) hS)
    | refine KeepsBut.ite (fun _ => ?_) (fun _ => ?_) | split | dsimp -proj only
    | refine upd_sec ?_ (sub (by decide) hS)

theorem execDebugOpen_keeps {ps : List Area} {s0 : State} {c : RslCmd} {tokenOk : Bool} {s : State} (hK : KeepsBut ps
    s0 s) (hS : [.boot, .fab, .pool, .coh, .coach, .stock, .repro, .mem, .twin, .sec, .rsl, .evs, .ctrs, .fresh] ⊆ ps)
    : KeepsOut ps s0 (@execDebugOpen c tokenOk s) := by
  unfold execDebugOpen
  with_reducible repeat' first
    | assumption | refine KeepsOut.next ?_ | refine State.rslGate_keeps ?_ (fun v0F hF => ?_) (sub (by decide) hS)
    | refine State.rslAnswer_keeps ?_ (sub (by decide) hS) | refine State.settleLc_keeps ?_ (sub (by decide) hS)
    | refine State.withdrawAll_keeps ?_ (sub (by decide) hS) | refine KeepsBut.ite (fun _ => ?_) (fun _ => ?_) | split
    | dsimp -proj only | refine upd_boot ?_ (sub (by decide) hS)

theorem State.setFlash_keeps {ps : List Area} {s0 s : State} {flash : Nat} {f : List Byte} (hK : KeepsBut ps s0 s) (hS
    : [.boot] ⊆ ps) : KeepsBut ps s0 (@State.setFlash s flash f) := by
  unfold State.setFlash
  with_reducible repeat' first
    | assumption | refine KeepsBut.ite (fun _ => ?_) (fun _ => ?_) | split | dsimp -proj only
    | refine upd_boot ?_ (sub (by decide) hS)

theorem State.imageWritten_keeps {ps : List Area} {s0 s : State} {c : RslCmd} {flash final : Nat} {f : List Byte} (hK
    : KeepsBut ps s0 s) (hS : [.boot, .twin, .sec, .rsl, .evs, .ctrs] ⊆ ps) : KeepsBut ps s0 (@State.imageWritten s c
    flash final f) := by
  unfold State.imageWritten
  with_reducible repeat' first
    | assumption | refine State.setFlash_keeps ?_ (sub (by decide) hS)
    | refine State.rslAnswer_keeps ?_ (sub (by decide) hS) | refine State.setPend_keeps ?_ (sub (by decide) hS)
    | refine State.raise_keeps ?_ (sub (by decide) hS) | refine KeepsBut.ite (fun _ => ?_) (fun _ => ?_) | split
    | dsimp -proj only

theorem imageWriteAct_keeps {ps : List Area} {s0 : State} {c : RslCmd} {flash final offset len : Nat} {data : List
    Byte} {s : State} (hK : KeepsBut ps s0 s) (hS : [.boot, .twin, .sec, .rsl, .evs, .ctrs] ⊆ ps) : KeepsBut ps s0
    (@imageWriteAct c flash final offset len data s) := by
  unfold imageWriteAct
  with_reducible repeat' first
    | assumption | refine State.rslAnswer_keeps ?_ (sub (by decide) hS)
    | refine State.imageWritten_keeps ?_ (sub (by decide) hS) | refine State.setPend_keeps ?_ (sub (by decide) hS)
    | refine KeepsBut.ite (fun _ => ?_) (fun _ => ?_) | split | dsimp -proj only

theorem execImageWrite_keeps {ps : List Area} {s0 : State} {c : RslCmd} {flash final offset len : Nat} {data : List
    Byte} {s : State} (hK : KeepsBut ps s0 s) (hS : [.boot, .twin, .sec, .rsl, .evs, .ctrs] ⊆ ps) : KeepsOut ps s0
    (@execImageWrite c flash final offset len data s) := by
  unfold execImageWrite
  with_reducible repeat' first
    | assumption | refine KeepsOut.next ?_ | refine State.rslGate_keeps ?_ (fun v0F hF => ?_) (sub (by decide) hS)
    | refine imageWriteAct_keeps ?_ (sub (by decide) hS) | dsimp -proj only

theorem State.judgeAttest_keeps {ps : List Area} {s0 s : State} {a : AttReq} (hK : KeepsBut ps s0 s) (hS : [.fab,
    .twin, .sec, .rsl, .ctrs] ⊆ ps) : KeepsBut ps s0 (@State.judgeAttest s a) := by
  unfold State.judgeAttest
  with_reducible repeat' first
    | assumption | refine State.secCpl_keeps ?_ (sub (by decide) hS) | split | dsimp -proj only
    | refine upd_sec ?_ (sub (by decide) hS)

theorem execAttest_keeps {ps : List Area} {s0 : State} {v : Via} {nonce dst scope resv : Nat} {s : State} (hK :
    KeepsBut ps s0 s) (hS : [.fab, .twin, .sec, .rsl, .ctrs] ⊆ ps) : KeepsOut ps s0 (@execAttest v nonce dst scope
    resv s) := by
  unfold execAttest
  with_reducible repeat' first
    | assumption | refine KeepsOut.next ?_ | refine State.secCpl_keeps ?_ (sub (by decide) hS)
    | refine State.classThree_keeps ?_ (fun v0F v1F v2F hF => ?_) (fun v0F hF => ?_) (sub (by decide) hS)
    | refine attestAct_keeps ?_ (sub (by decide) hS) | dsimp -proj only

theorem State.sign_keeps {ps : List Area} {s0 s : State} {m : List Byte} (hK : KeepsBut ps s0 s) (hS : [.fresh] ⊆ ps)
    : KeepsBut ps s0 (@State.sign s m).1 := by
  unfold State.sign
  with_reducible repeat' first
    | assumption | refine State.draw_keeps ?_ (sub (by decide) hS) | split
    | refine KeepsBut.ite1 (fun _ => ?_) (fun _ => ?_) | dsimp -proj only | refine KeepsBut.of_pair ?_ (by assumption)

theorem State.signReport_keeps {ps : List Area} {s0 s : State} {a : AttReq} (hK : KeepsBut ps s0 s) (hS : [.fab, .mem,
    .twin, .sec, .rsl, .evs, .ctrs, .fresh] ⊆ ps) : KeepsBut ps s0 (@State.signReport s a) := by
  unfold State.signReport
  with_reducible repeat' first
    | assumption | refine State.sign_keeps ?_ (sub (by decide) hS)
    | refine State.deliver_keeps ?_ (fun v0F v1F v2F v3F hF => ?_) (sub (by decide) hS)
    | refine State.secCpl_keeps ?_ (sub (by decide) hS) | refine KeepsBut.ite (fun _ => ?_) (fun _ => ?_) | split
    | refine KeepsBut.ite1 (fun _ => ?_) (fun _ => ?_) | dsimp -proj only | refine KeepsBut.of_pair ?_ (by assumption)

theorem execAttestSign_keeps {ps : List Area} {s0 s : State} (hK : KeepsBut ps s0 s) (hS : [.fab, .mem, .twin, .sec,
    .rsl, .evs, .ctrs, .fresh] ⊆ ps) : KeepsOut ps s0 (@execAttestSign s) := by
  unfold execAttestSign
  with_reducible repeat' first
    | assumption | refine KeepsOut.next ?_ | refine State.judgeAttest_keeps ?_ (sub (by decide) hS)
    | refine State.signReport_keeps ?_ (sub (by decide) hS) | refine KeepsBut.foldl ?_ (fun sF xF hF => ?_)
    | refine KeepsBut.foldl1 ?_ (fun sF xF hF => ?_) | refine KeepsBut.ite (fun _ => ?_) (fun _ => ?_) | split
    | dsimp -proj only | refine KeepsBut.of_pair ?_ (by assumption) | refine upd_sec ?_ (sub (by decide) hS)

theorem execKeystoreChangeAck_keeps {ps : List Area} {s0 s : State} (hK : KeepsBut ps s0 s) (hS : [.fab, .twin, .sec,
    .rsl, .ctrs] ⊆ ps) : KeepsOut ps s0 (@execKeystoreChangeAck s) := by
  unfold execKeystoreChangeAck
  with_reducible repeat' first
    | assumption | refine KeepsOut.next ?_ | refine State.releaseAll_keeps ?_ (sub (by decide) hS) | split
    | dsimp -proj only | refine upd_twin_sec ?_ (sub (by decide) hS)

end Sys2Proof.Machine
end

