-- ==== Sys2Proof/Laws/FrameSealing.lean ====
section
/-! SUPPORT. The frame of each operation of Machine/Sealing.lean: the parts of the state that it may change, and no others. -/

set_option Elab.async false

namespace Sys2Proof.Machine
open Sys2Proof

set_option maxRecDepth 4000
set_option linter.all false

theorem State.dropSession_keeps {ps : List Area} {s0 s : State} {id : Nat} (hK : KeepsBut ps s0 s) (hS : [.sec] ⊆ ps)
    : KeepsBut ps s0 (@State.dropSession s id) := by
  unfold State.dropSession
  with_reducible repeat' first
    | assumption | dsimp -proj only | refine upd_sec ?_ (sub (by decide) hS)

theorem State.readLines_keeps {ps : List Area} {s0 s : State} {addr y2 : Nat} (hK : KeepsBut ps s0 s) (hS : [.mem,
    .twin, .evs, .ctrs, .fresh] ⊆ ps) : KeepsBut ps s0 (@State.readLines s addr y2).1 := by
  unfold State.readLines
  with_reducible repeat' first
    | assumption | refine State.readPool_keeps ?_ (sub (by decide) hS)
    | refine State.readLines_keeps ?_ (sub (by decide) hS) | refine KeepsBut.ite1 (fun _ => ?_) (fun _ => ?_) | split
    | refine KeepsBut.ite1 (fun _ => ?_) (fun _ => ?_) | dsimp -proj only | refine KeepsBut.of_pair ?_ (by assumption)

theorem State.addSession_keeps {ps : List Area} {s0 s : State} {x : Session} (hK : KeepsBut ps s0 s) (hS : [.sec] ⊆
    ps) : KeepsBut ps s0 (@State.addSession s x) := by
  unfold State.addSession
  with_reducible repeat' first
    | assumption | dsimp -proj only | refine upd_sec ?_ (sub (by decide) hS)

theorem State.establish_keeps {ps : List Area} {s0 s : State} {v : Via} {x : Session} (hK : KeepsBut ps s0 s) (hS :
    [.fab, .twin, .sec, .rsl, .ctrs] ⊆ ps) : KeepsBut ps s0 (@State.establish s v x) := by
  unfold State.establish
  with_reducible repeat' first
    | assumption | refine State.dropSession_keeps ?_ (sub (by decide) hS)
    | refine State.endSessions_keeps ?_ (sub (by decide) hS) | refine State.keyChange_keeps ?_ (sub (by decide) hS)
    | refine State.addSession_keeps ?_ (sub (by decide) hS) | dsimp -proj only

theorem sessProveAct_keeps {ps : List Area} {s0 : State} {v : Via} {sid evidAddr evidLen : Nat} {s : State} (hK :
    KeepsBut ps s0 s) (hS : [.fab, .mem, .twin, .sec, .rsl, .evs, .ctrs, .fresh] ⊆ ps) : KeepsBut ps s0 (@sessProveAct
    v sid evidAddr evidLen s) := by
  unfold sessProveAct
  with_reducible repeat' first
    | assumption | refine State.secCpl_keeps ?_ (sub (by decide) hS)
    | refine State.establish_keeps ?_ (sub (by decide) hS)
    | refine State.argRefuse_keeps ?_ (fun v0F v1F v2F hF => ?_) (sub (by decide) hS)
    | refine State.readLines_keeps ?_ (sub (by decide) hS) | refine State.dropSession_keeps ?_ (sub (by decide) hS)
    | refine KeepsBut.ite (fun _ => ?_) (fun _ => ?_) | split | refine KeepsBut.ite1 (fun _ => ?_) (fun _ => ?_)
    | dsimp -proj only | refine KeepsBut.of_pair ?_ (by assumption)

theorem execSessionPendingTimeout_keeps {ps : List Area} {s0 : State} {sid : Nat} {s : State} (hK : KeepsBut ps s0 s)
    (hS : [.sec] ⊆ ps) : KeepsOut ps s0 (@execSessionPendingTimeout sid s) := by
  unfold execSessionPendingTimeout
  with_reducible repeat' first
    | assumption | refine KeepsOut.next ?_ | refine State.dropSession_keeps ?_ (sub (by decide) hS)
    | refine KeepsBut.ite (fun _ => ?_) (fun _ => ?_) | split | dsimp -proj only

theorem State.drawSession_keeps {ps : List Area} {s0 s : State} (hK : KeepsBut ps s0 s) (hS : [.sec, .fresh] ⊆ ps) :
    KeepsBut ps s0 (@State.drawSession s).1 := by
  unfold State.drawSession
  with_reducible repeat' first
    | assumption | refine State.draw_keeps ?_ (sub (by decide) hS) | split
    | refine KeepsBut.ite1 (fun _ => ?_) (fun _ => ?_) | dsimp -proj only | refine KeepsBut.of_pair ?_ (by assumption)
    | refine upd_sec ?_ (sub (by decide) hS)

theorem State.challenge_keeps {ps : List Area} {s0 s : State} {id : Nat} {hello : List Byte} (hK : KeepsBut ps s0 s)
    (hS : [.fresh] ⊆ ps) : KeepsBut ps s0 (@State.challenge s id hello).1 := by
  unfold State.challenge
  with_reducible repeat' first
    | assumption | refine State.draw_keeps ?_ (sub (by decide) hS) | refine State.sign_keeps ?_ (sub (by decide) hS)
    | split | refine KeepsBut.ite1 (fun _ => ?_) (fun _ => ?_) | dsimp -proj only
    | refine KeepsBut.of_pair ?_ (by assumption)

theorem sessOpenAct_keeps {ps : List Area} {s0 : State} {v : Via} {helloAddr outAddr : Nat} {s : State} (hK : KeepsBut
    ps s0 s) (hS : [.fab, .mem, .twin, .sec, .rsl, .evs, .ctrs, .fresh] ⊆ ps) : KeepsBut ps s0 (@sessOpenAct v
    helloAddr outAddr s) := by
  unfold sessOpenAct
  with_reducible repeat' first
    | assumption | refine State.secCpl_keeps ?_ (sub (by decide) hS)
    | refine State.argRefuse_keeps ?_ (fun v0F v1F v2F hF => ?_) (sub (by decide) hS)
    | refine State.readLines_keeps ?_ (sub (by decide) hS) | refine State.drawSession_keeps ?_ (sub (by decide) hS)
    | refine State.challenge_keeps ?_ (sub (by decide) hS) | refine State.putPool_keeps ?_ (sub (by decide) hS)
    | refine State.addSession_keeps ?_ (sub (by decide) hS) | refine KeepsBut.ite (fun _ => ?_) (fun _ => ?_) | split
    | refine KeepsBut.ite1 (fun _ => ?_) (fun _ => ?_) | dsimp -proj only | refine KeepsBut.of_pair ?_ (by assumption)

theorem sealQueryAct_keeps {ps : List Area} {s0 : State} {v : Via} {slot dst : Nat} {s : State} (hK : KeepsBut ps s0
    s) (hS : [.fab, .mem, .twin, .sec, .rsl, .evs, .ctrs, .fresh] ⊆ ps) : KeepsBut ps s0 (@sealQueryAct v slot dst s)
    := by
  unfold sealQueryAct
  with_reducible repeat' first
    | assumption | refine State.secCpl_keeps ?_ (sub (by decide) hS)
    | refine State.deliver_keeps ?_ (fun v0F v1F v2F v3F hF => ?_) (sub (by decide) hS)
    | refine KeepsBut.ite (fun _ => ?_) (fun _ => ?_) | split | dsimp -proj only

theorem execSealQuery_keeps {ps : List Area} {s0 : State} {v : Via} {slot dst resv : Nat} {s : State} (hK : KeepsBut
    ps s0 s) (hS : [.fab, .mem, .twin, .sec, .rsl, .evs, .ctrs, .fresh] ⊆ ps) : KeepsOut ps s0 (@execSealQuery v slot
    dst resv s) := by
  unfold execSealQuery
  with_reducible repeat' first
    | assumption | refine KeepsOut.next ?_ | refine State.secCpl_keeps ?_ (sub (by decide) hS)
    | refine State.classThree_keeps ?_ (fun v0F v1F v2F hF => ?_) (fun v0F hF => ?_) (sub (by decide) hS)
    | refine sealQueryAct_keeps ?_ (sub (by decide) hS) | dsimp -proj only

theorem State.setSession_keeps {ps : List Area} {s0 s : State} {x : Session} (hK : KeepsBut ps s0 s) (hS : [.sec] ⊆
    ps) : KeepsBut ps s0 (@State.setSession s x) := by
  unfold State.setSession
  with_reducible repeat' first
    | assumption | refine KeepsBut.ite (fun _ => ?_) (fun _ => ?_) | split | dsimp -proj only
    | refine upd_sec ?_ (sub (by decide) hS)

theorem State.receiveSeq_keeps {ps : List Area} {s0 s : State} {x : Session} {seq : Nat} {aad cipher tag : List Byte}
    (hK : KeepsBut ps s0 s) (hS : [.fab, .twin, .sec, .rsl, .ctrs] ⊆ ps) : KeepsBut ps s0 (@State.receiveSeq s x seq
    aad cipher tag).1 := by
  unfold State.receiveSeq
  with_reducible repeat' first
    | assumption | refine State.bump_keeps ?_ (sub (by decide) hS)
    | refine State.setSession_keeps ?_ (sub (by decide) hS) | refine State.endSession_keeps ?_ (sub (by decide) hS)
    | refine KeepsBut.ite1 (fun _ => ?_) (fun _ => ?_) | split | dsimp -proj only

theorem execEncryptedMessageRx_keeps {ps : List Area} {s0 : State} {h : ReqHdr} {opcode sid resv seq : Nat} {cipher
    tag : List Byte} {s : State} (hK : KeepsBut ps s0 s) (hS : [.fab, .twin, .sec, .rsl, .ctrs] ⊆ ps) : KeepsOut ps s0
    (@execEncryptedMessageRx h opcode sid resv seq cipher tag s) := by
  unfold execEncryptedMessageRx
  with_reducible repeat' first
    | assumption | refine KeepsOut.next ?_ | refine State.journalOut_keeps ?_ (sub (by decide) hS)
    | refine State.receiveSeq_keeps ?_ (sub (by decide) hS) | refine State.openMessage_keeps ?_ (sub (by decide) hS)
    | refine KeepsBut.ite (fun _ => ?_) (fun _ => ?_) | split | refine KeepsBut.ite1 (fun _ => ?_) (fun _ => ?_)
    | dsimp -proj only | refine KeepsBut.of_pair ?_ (by assumption)

theorem State.dropAtomics_keeps {ps : List Area} {s0 s : State} {e : Nat} (hK : KeepsBut ps s0 s) (hS : [.pool, .twin]
    ⊆ ps) : KeepsBut ps s0 (@State.dropAtomics s e) := by
  unfold State.dropAtomics
  with_reducible repeat' first
    | assumption | refine State.logChange_keeps ?_ (sub (by decide) hS)
    | refine KeepsBut.foldl ?_ (fun sF xF hF => ?_) | refine KeepsBut.foldl1 ?_ (fun sF xF hF => ?_)
    | dsimp -proj only | refine KeepsBut.of_pair ?_ (by assumption) | refine upd_pool ?_ (sub (by decide) hS)

theorem execSessOpen_keeps {ps : List Area} {s0 : State} {v : Via} {helloAddr outAddr resv : Nat} {s : State} (hK :
    KeepsBut ps s0 s) (hS : [.fab, .mem, .twin, .sec, .rsl, .evs, .ctrs, .fresh] ⊆ ps) : KeepsOut ps s0 (@execSessOpen
    v helloAddr outAddr resv s) := by
  unfold execSessOpen
  with_reducible repeat' first
    | assumption | refine KeepsOut.next ?_ | refine State.secCpl_keeps ?_ (sub (by decide) hS)
    | refine State.classThree_keeps ?_ (fun v0F v1F v2F hF => ?_) (fun v0F hF => ?_) (sub (by decide) hS)
    | refine sessOpenAct_keeps ?_ (sub (by decide) hS) | dsimp -proj only

theorem execSessProve_keeps {ps : List Area} {s0 : State} {v : Via} {sid evidAddr evidLen resv : Nat} {s : State} (hK
    : KeepsBut ps s0 s) (hS : [.fab, .mem, .twin, .sec, .rsl, .evs, .ctrs, .fresh] ⊆ ps) : KeepsOut ps s0
    (@execSessProve v sid evidAddr evidLen resv s) := by
  unfold execSessProve
  with_reducible repeat' first
    | assumption | refine KeepsOut.next ?_ | refine State.secCpl_keeps ?_ (sub (by decide) hS)
    | refine State.classThree_keeps ?_ (fun v0F v1F v2F hF => ?_) (fun v0F hF => ?_) (sub (by decide) hS)
    | refine sessProveAct_keeps ?_ (sub (by decide) hS) | dsimp -proj only

theorem sealImportAct_keeps {ps : List Area} {s0 : State} {v : Via} {dst stage offset resv : Nat} {s : State} (hK :
    KeepsBut ps s0 s) (hS : [.fab, .pool, .mem, .twin, .sec, .rsl, .ctrs, .fresh] ⊆ ps) : KeepsBut ps s0
    (@sealImportAct v dst stage offset resv s) := by
  unfold sealImportAct
  with_reducible repeat' first
    | assumption | refine State.secCpl_keeps ?_ (sub (by decide) hS)
    | refine State.setSlot_keeps ?_ (sub (by decide) hS) | refine State.loadKey_keeps ?_ (sub (by decide) hS)
    | refine State.setExt_keeps ?_ (sub (by decide) hS) | refine State.keyChange_keeps ?_ (sub (by decide) hS)
    | refine State.dropAtomics_keeps ?_ (sub (by decide) hS) | refine State.clearValid_keeps ?_ (sub (by decide) hS)
    | refine KeepsBut.ite (fun _ => ?_) (fun _ => ?_) | split | dsimp -proj only

theorem execSealImport_keeps {ps : List Area} {s0 : State} {v : Via} {dstExt stageExt stageOffset resv : Nat} {s :
    State} (hK : KeepsBut ps s0 s) (hS : [.fab, .pool, .mem, .twin, .sec, .rsl, .ctrs, .fresh] ⊆ ps) : KeepsOut ps s0
    (@execSealImport v dstExt stageExt stageOffset resv s) := by
  unfold execSealImport
  with_reducible repeat' first
    | assumption | refine KeepsOut.next ?_ | refine State.secCpl_keeps ?_ (sub (by decide) hS)
    | refine State.classThree_keeps ?_ (fun v0F v1F v2F hF => ?_) (fun v0F hF => ?_) (sub (by decide) hS)
    | refine sealImportAct_keeps ?_ (sub (by decide) hS) | dsimp -proj only

theorem execSessClose_keeps {ps : List Area} {s0 : State} {v : Via} {sid : Nat} {s : State} (hK : KeepsBut ps s0 s)
    (hS : [.fab, .twin, .sec, .rsl, .ctrs] ⊆ ps) : KeepsOut ps s0 (@execSessClose v sid s) := by
  unfold execSessClose
  with_reducible repeat' first
    | assumption | refine KeepsOut.next ?_ | refine State.secCpl_keeps ?_ (sub (by decide) hS)
    | refine State.classThree_keeps ?_ (fun v0F v1F v2F hF => ?_) (fun v0F hF => ?_) (sub (by decide) hS)
    | refine State.closeSession_keeps ?_ (sub (by decide) hS) | refine KeepsBut.ite (fun _ => ?_) (fun _ => ?_)
    | split | dsimp -proj only

theorem execSealImportDone_keeps {ps : List Area} {s0 : State} {slot : Nat} {s : State} (hK : KeepsBut ps s0 s) (hS :
    [.fab, .pool, .mem, .twin, .sec, .rsl, .evs, .ctrs, .fresh] ⊆ ps) : KeepsOut ps s0 (@execSealImportDone slot s) :=
    by
  unfold execSealImportDone
  with_reducible repeat' first
    | assumption | refine KeepsOut.next ?_ | refine State.putPool_keeps ?_ (sub (by decide) hS)
    | refine State.setSlot_keeps ?_ (sub (by decide) hS) | refine State.keyChange_keeps ?_ (sub (by decide) hS)
    | refine State.clearValid_keeps ?_ (sub (by decide) hS) | refine State.setExt_keeps ?_ (sub (by decide) hS)
    | refine State.freeSlot_keeps ?_ (sub (by decide) hS) | refine KeepsBut.ite (fun _ => ?_) (fun _ => ?_) | split
    | dsimp -proj only | refine upd_fresh ?_ (sub (by decide) hS) | refine upd_sec_fresh ?_ (sub (by decide) hS)

end Sys2Proof.Machine
end

