-- ==== Sys2Proof/Laws/FrameChannel.lean ====
section
/-! SUPPORT. The frame of each operation of Machine/Channel.lean: the parts of the state that it may change, and no others. -/

set_option Elab.async false

namespace Sys2Proof.Machine
open Sys2Proof

set_option maxRecDepth 4000
set_option linter.all false

theorem State.discardCmd_keeps {ps : List Area} {s0 s : State} {c : RslCmd} (hK : KeepsBut ps s0 s) (hS : [.rsl] ⊆ ps)
    : KeepsBut ps s0 (@State.discardCmd s c) := by
  unfold State.discardCmd
  with_reducible repeat' first
    | assumption | dsimp -proj only | refine upd_rsl ?_ (sub (by decide) hS)

theorem State.chRwCpl_keeps {ps : List Area} {s0 s : State} {v : Via} {code value : Nat} {data : List Byte} (hK :
    KeepsBut ps s0 s) (hS : [.fab, .twin, .sec, .rsl, .ctrs] ⊆ ps) : KeepsBut ps s0 (@State.chRwCpl s v code value
    data) := by
  unfold State.chRwCpl
  with_reducible repeat' first
    | assumption | refine State.finish_keeps ?_ (sub (by decide) hS) | dsimp -proj only

theorem chRwAct_keeps {ps : List Area} {s0 : State} {v : Via} {addr len dir : Nat} {data : List Line} {s : State} (hK
    : KeepsBut ps s0 s) (hS : [.fab, .mem, .twin, .sec, .rsl, .evs, .ctrs, .fresh] ⊆ ps) : KeepsBut ps s0 (@chRwAct v
    addr len dir data s) := by
  unfold chRwAct
  with_reducible repeat' first
    | assumption | refine State.chRwCpl_keeps ?_ (sub (by decide) hS)
    | refine State.argRefuse_keeps ?_ (fun v0F v1F v2F hF => ?_) (sub (by decide) hS)
    | refine State.putPool_keeps ?_ (sub (by decide) hS) | refine State.readLines_keeps ?_ (sub (by decide) hS)
    | refine KeepsBut.ite (fun _ => ?_) (fun _ => ?_) | split | refine KeepsBut.ite1 (fun _ => ?_) (fun _ => ?_)
    | dsimp -proj only | refine KeepsBut.of_pair ?_ (by assumption)

theorem afterOf_keeps {ps : List Area} {s0 s : State} {o : Out} (hK : KeepsBut ps s0 s) (hO : KeepsOut ps s0 o) :
    KeepsBut ps s0 (afterOf s o) := by
  cases o with
  | next t => exact hO t rfl
  | fault f => exact hK
  | refused r => exact hK

theorem execChOpen_keeps {ps : List Area} {s0 : State} {c : RslCmd} {host : Nat} {hello : List Byte} {s : State} (hK :
    KeepsBut ps s0 s) (hS : [.fab, .twin, .sec, .rsl, .ctrs, .fresh] ⊆ ps) : KeepsOut ps s0 (@execChOpen c host hello
    s) := by
  unfold execChOpen
  with_reducible repeat' first
    | assumption | refine KeepsOut.next ?_ | refine State.rslGate_keeps ?_ (fun v0F hF => ?_) (sub (by decide) hS)
    | refine State.rslAnswer_keeps ?_ (sub (by decide) hS) | refine State.endSessions_keeps ?_ (sub (by decide) hS)
    | refine State.drawSession_keeps ?_ (sub (by decide) hS) | refine State.challenge_keeps ?_ (sub (by decide) hS)
    | refine State.keyChange_keeps ?_ (sub (by decide) hS) | refine State.addSession_keeps ?_ (sub (by decide) hS)
    | refine KeepsBut.ite (fun _ => ?_) (fun _ => ?_) | split | refine KeepsBut.ite1 (fun _ => ?_) (fun _ => ?_)
    | dsimp -proj only | refine KeepsBut.of_pair ?_ (by assumption)

theorem chInner_keeps {ps : List Area} {s0 : State} {v : Via} {s : State} {y2 : ChInner} (hK : KeepsBut ps s0 s) (hS :
    [.fab, .pool, .coach, .stock, .repro, .mem, .twin, .sec, .rsl, .evs, .ctrs, .fresh] ⊆ ps) : KeepsBut ps s0
    (@chInner v s y2) := by
  unfold chInner
  with_reducible repeat' first
    | assumption | refine chRwAct_keeps ?_ (sub (by decide) hS) | refine afterOf_keeps ?_ ?_
    | refine execLeaseRenew_keeps ?_ (sub (by decide) hS) | refine execExtAlloc_keeps ?_ (sub (by decide) hS)
    | refine execExtGrant_keeps ?_ (sub (by decide) hS) | refine execExtRelease_keeps ?_ (sub (by decide) hS)
    | refine execExtWithdraw_keeps ?_ (sub (by decide) hS) | refine execSetInfo_keeps ?_ (sub (by decide) hS)
    | refine execRingArm_keeps ?_ (sub (by decide) hS) | refine execRingStop_keeps ?_ (sub (by decide) hS)
    | refine execFaultResolve_keeps ?_ (sub (by decide) hS) | refine execRedOpen_keeps ?_ (sub (by decide) hS)
    | refine execRedReset_keeps ?_ (sub (by decide) hS) | refine execRedClose_keeps ?_ (sub (by decide) hS)
    | refine execRedQuery_keeps ?_ (sub (by decide) hS) | refine execBarrier_keeps ?_ (sub (by decide) hS)
    | refine execLaunch_keeps ?_ (sub (by decide) hS) | refine execPubCreate_keeps ?_ (sub (by decide) hS)
    | refine execPublish_keeps ?_ (sub (by decide) hS) | refine execPubMap_keeps ?_ (sub (by decide) hS)
    | refine execPubRelease_keeps ?_ (sub (by decide) hS) | refine execPubDelete_keeps ?_ (sub (by decide) hS)
    | refine execPubQuery_keeps ?_ (sub (by decide) hS) | refine execAccessDump_keeps ?_ (sub (by decide) hS)
    | refine execAttest_keeps ?_ (sub (by decide) hS) | refine execCertGet_keeps ?_ (sub (by decide) hS)
    | refine execSealQuery_keeps ?_ (sub (by decide) hS) | refine execSessOpen_keeps ?_ (sub (by decide) hS)
    | refine execSessProve_keeps ?_ (sub (by decide) hS) | refine execSessClose_keeps ?_ (sub (by decide) hS)
    | refine execSealImport_keeps ?_ (sub (by decide) hS) | refine execCtrRead_keeps ?_ (sub (by decide) hS)
    | refine execObjQuery_keeps ?_ (sub (by decide) hS) | refine State.chRwCpl_keeps ?_ (sub (by decide) hS) | split
    | dsimp -proj only

theorem execChCmd_keeps {ps : List Area} {s0 : State} {c : RslCmd} {sid resv seq : Nat} {cipher tag : List Byte}
    {inner : ChInner} {s : State} (hK : KeepsBut ps s0 s) (hS : [.fab, .pool, .coach, .stock, .repro, .mem, .twin,
    .sec, .rsl, .evs, .ctrs, .fresh] ⊆ ps) : KeepsOut ps s0 (@execChCmd c sid resv seq cipher tag inner s) := by
  unfold execChCmd
  with_reducible repeat' first
    | assumption | refine KeepsOut.next ?_ | refine State.rslGate_keeps ?_ (fun v0F hF => ?_) (sub (by decide) hS)
    | refine State.discardCmd_keeps ?_ (sub (by decide) hS) | refine State.chRwCpl_keeps ?_ (sub (by decide) hS)
    | refine chInner_keeps ?_ (sub (by decide) hS) | refine State.receiveSeq_keeps ?_ (sub (by decide) hS)
    | refine State.openMessage_keeps ?_ (sub (by decide) hS) | refine KeepsBut.ite (fun _ => ?_) (fun _ => ?_) | split
    | refine KeepsBut.ite1 (fun _ => ?_) (fun _ => ?_) | dsimp -proj only | refine KeepsBut.of_pair ?_ (by assumption)

end Sys2Proof.Machine
end

