-- ==== Sys2Proof/Laws/Cells.lean ====
section
/-! SUPPORT. The operations that may change the state of the memory but move no stored byte. -/

set_option Elab.async false

namespace Sys2Proof.Machine
open Sys2Proof

set_option maxRecDepth 4000
set_option linter.all false

/-- From `s0` to `t` no stored byte moves. -/
def Cells (s0 t : State) : Prop := t.mem.cells = s0.mem.cells

theorem Cells.rfl0 {s : State} : Cells s s := rfl

theorem Cells.sameBytes {s0 t : State} (h : Cells s0 t) : SameBytes s0 t := by
  intro a
  unfold State.byteAt
  rw [h]

theorem Cells.after {ps : List Area} {s0 s t : State} (h : Cells s0 s) (k : KeepsBut ps s t) (hm : Area.mem ∉ ps) :
    Cells s0 t := by
  have e : t.mem = s.mem := k .mem hm
  unfold Cells
  rw [e]
  exact h

theorem Cells.mem {s0 s t : State} (h : Cells s0 s) (e : t.mem.cells = s.mem.cells) : Cells s0 t := e.trans h

theorem Cells.other {s0 s t : State} (h : Cells s0 s) (e : t.mem = s.mem) : Cells s0 t := by
  unfold Cells
  rw [e]
  exact h

/-- What holds of a command's next state. -/
def CellsOut (s0 : State) (o : Out) : Prop := ∀ t, o = .next t → Cells s0 t

theorem CellsOut.next {s0 t : State} (h : Cells s0 t) : CellsOut s0 (.next t) := by
  intro u hu
  cases hu
  exact h

theorem Cells.foldl {α : Type} {s0 : State} {f : State → α → State} {l : List α} {s : State}
    (h : Cells s0 s) (hf : ∀ s x, Cells s0 s → Cells s0 (f s x)) :
    Cells s0 (l.foldl f s) := by
  induction l generalizing s with
  | nil => exact h
  | cons a l ih => exact ih (hf _ _ h)

theorem Cells.foldl1 {α β : Type} {s0 : State} {f : State × β → α → State × β} {l : List α}
    {s : State × β} (h : Cells s0 s.1) (hf : ∀ s x, Cells s0 s.1 → Cells s0 (f s x).1) :
    Cells s0 (l.foldl f s).1 := by
  induction l generalizing s with
  | nil => exact h
  | cons a l ih => exact ih (hf _ _ h)

theorem Cells.of_pair {α : Type} {s0 a : State} {b : α} {p : State × α}
    (h : Cells s0 p.1) (e : p = (a, b)) : Cells s0 a := by
  rw [e] at h
  exact h

def CellsOpt (s0 : State) (o : Option State) : Prop := ∀ t, o = some t → Cells s0 t

theorem CellsOpt.some {s0 t : State} (h : Cells s0 t) : CellsOpt s0 (.some t) := by
  intro u hu
  cases hu
  exact h

theorem CellsOpt.none {s0 : State} : CellsOpt s0 .none := by
  intro u hu
  cases hu

def CellsOptP {α : Type} (s0 : State) (o : Option (State × α)) : Prop :=
  ∀ t, o = some t → Cells s0 t.1

theorem CellsOptP.some {α : Type} {s0 t : State} {a : α} (h : Cells s0 t) :
    CellsOptP s0 (.some (t, a)) := by
  intro u hu
  cases hu
  exact h

theorem CellsOptP.none {α : Type} {s0 : State} : CellsOptP (α := α) s0 .none := by
  intro u hu
  cases hu

theorem Cells.of_some {s0 a : State} {p : Option State} (h : CellsOpt s0 p)
    (e : p = Option.some a) : Cells s0 a := h _ e

theorem Cells.of_somep {α : Type} {s0 a : State} {b : α} {p : Option (State × α)}
    (h : CellsOptP s0 p) (e : p = Option.some (a, b)) : Cells s0 a := h _ e

theorem CellsOptP.map {α : Type} {s0 : State} {a : α} {o : Option State} (h : CellsOpt s0 o) :
    CellsOptP s0 (o.map fun s => (s, a)) := by
  intro t ht
  cases o with
  | none => cases ht
  | some u =>
    cases ht
    exact h _ rfl

theorem Cells.ite {s0 : State} {c : Prop} [Decidable c] {a b : State}
    (h1 : c → Cells s0 a) (h2 : ¬ c → Cells s0 b) : Cells s0 (if c then a else b) := by
  by_cases h : c <;> simp only [h, if_true, if_false] <;> first | exact h1 h | exact h2 h

theorem Cells.ite1 {α : Type} {s0 : State} {c : Prop} [Decidable c] {a b : State × α}
    (h1 : c → Cells s0 a.1) (h2 : ¬ c → Cells s0 b.1) : Cells s0 (if c then a else b).1 := by
  by_cases h : c <;> simp only [h, if_true, if_false] <;> first | exact h1 h | exact h2 h

theorem CellsOut.after {ps : List Area} {s0 s : State} {o : Out} (h : Cells s0 s) (k : KeepsOut ps s o)
    (hm : Area.mem ∉ ps) : CellsOut s0 o := fun t ht => h.after (k t ht) hm

theorem cells_boot_fab {s0 s : State} {xboot : Boot} {xfab : Fabric} (h : Cells s0 s) :
    Cells s0 { s with boot := xboot, fab := xfab } := h

theorem cells_boot_fab_coh_coach_stock_mem_sec {s0 s : State} {xboot : Boot} {xfab : Fabric} {xcoh : Coh} {xcoach : Coach} {xstock : Stock} {xmem : Mem} {xsec : Sec} (h : Cells s0 s) (hm : xmem.cells = s.mem.cells) :
    Cells s0 { s with boot := xboot, fab := xfab, coh := xcoh, coach := xcoach, stock := xstock, mem := xmem, sec := xsec } := hm.trans h

theorem cells_clk {s0 s : State} {xclk : Clocks} (h : Cells s0 s) :
    Cells s0 { s with clk := xclk } := h

theorem cells_coach {s0 s : State} {xcoach : Coach} (h : Cells s0 s) :
    Cells s0 { s with coach := xcoach } := h

theorem cells_fresh {s0 s : State} {xfresh : Nat} (h : Cells s0 s) :
    Cells s0 { s with fresh := xfresh } := h

theorem cells_mem {s0 s : State} {xmem : Mem} (h : Cells s0 s) (hm : xmem.cells = s.mem.cells) :
    Cells s0 { s with mem := xmem } := hm.trans h

theorem cells_mem_fresh {s0 s : State} {xmem : Mem} {xfresh : Nat} (h : Cells s0 s) (hm : xmem.cells = s.mem.cells) :
    Cells s0 { s with mem := xmem, fresh := xfresh } := hm.trans h

theorem cells_pool {s0 s : State} {xpool : Pool} (h : Cells s0 s) :
    Cells s0 { s with pool := xpool } := h

theorem cells_pool_mem {s0 s : State} {xpool : Pool} {xmem : Mem} (h : Cells s0 s) (hm : xmem.cells = s.mem.cells) :
    Cells s0 { s with pool := xpool, mem := xmem } := hm.trans h

theorem cells_ports_fab_pool_coh_coach_repro_mem {s0 s : State} {xports : Tab Port} {xfab : Fabric} {xpool : Pool} {xcoh : Coh} {xcoach : Coach} {xrepro : Repro} {xmem : Mem} (h : Cells s0 s) (hm : xmem.cells = s.mem.cells) :
    Cells s0 { s with ports := xports, fab := xfab, pool := xpool, coh := xcoh, coach := xcoach, repro := xrepro, mem := xmem } := hm.trans h

theorem cells_power {s0 s : State} {xpower : Power} (h : Cells s0 s) :
    Cells s0 { s with power := xpower } := h

theorem cells_sec {s0 s : State} {xsec : Sec} (h : Cells s0 s) :
    Cells s0 { s with sec := xsec } := h

theorem cells_stock {s0 s : State} {xstock : Stock} (h : Cells s0 s) :
    Cells s0 { s with stock := xstock } := h

theorem cells_twin {s0 s : State} {xtwin : Twin} (h : Cells s0 s) :
    Cells s0 { s with twin := xtwin } := h

theorem State.bump_cells {s0 s : State} {g o c n : Nat} (hK : Cells s0 s) : Cells s0 (@State.bump s g o c n) :=
  Cells.after hK (State.bump_keeps .rfl0 (List.Subset.refl _)) (by decide)

theorem State.rslRepeat_cells {s0 s : State} {tag port : Nat} {y3 : TagFound} (hK : Cells s0 s) : Cells s0
    (@State.rslRepeat s tag port y3) :=
  Cells.after hK (State.rslRepeat_keeps .rfl0 (List.Subset.refl _)) (by decide)

theorem State.raise_cells {s0 s : State} {code sev die : Nat} {detail : List Byte} (hK : Cells s0 s) : Cells s0
    (@State.raise s code sev die detail) :=
  Cells.after hK (State.raise_keeps .rfl0 (List.Subset.refl _)) (by decide)

theorem State.logChange_cells {s0 s : State} {kind index len : Nat} {jidx : Option Nat} (hK : Cells s0 s) : Cells s0
    (@State.logChange s kind index len jidx) :=
  Cells.after hK (State.logChange_keeps .rfl0 (List.Subset.refl _)) (by decide)

theorem State.rslDone_cells {s0 s : State} {cmd tag port code value : Nat} {data : List Byte} (hK : Cells s0 s) :
    Cells s0 (@State.rslDone s cmd tag port code value data) :=
  Cells.after hK (State.rslDone_keeps .rfl0 (List.Subset.refl _)) (by decide)

theorem State.rslAnswer_cells {s0 s : State} {c : RslCmd} {cmd code value : Nat} {data : List Byte} (hK : Cells s0 s)
    : Cells s0 (@State.rslAnswer s c cmd code value data) :=
  Cells.after hK (State.rslAnswer_keeps .rfl0 (List.Subset.refl _)) (by decide)

theorem State.send_cells {s0 s : State} {m : OutMsg} (hK : Cells s0 s) : Cells s0 (@State.send s m) :=
  Cells.after hK (State.send_keeps .rfl0 (List.Subset.refl _)) (by decide)

theorem State.setReplay_cells {s0 s : State} {tag : Nat} {b : Bool} (hK : Cells s0 s) : Cells s0 (@State.setReplay s
    tag b) :=
  Cells.after hK (State.setReplay_keeps .rfl0 (List.Subset.refl _)) (by decide)

theorem State.setOb_cells {s0 s : State} {od : Nat} {x : ObDie} (hK : Cells s0 s) : Cells s0 (@State.setOb s od x) :=
  Cells.after hK (State.setOb_keeps .rfl0 (List.Subset.refl _)) (by decide)

theorem State.rslOpen_cells {s0 s : State} {tag port cmd : Nat} (hK : Cells s0 s) : Cells s0 (@State.rslOpen s tag
    port cmd) :=
  Cells.after hK (State.rslOpen_keeps .rfl0 (List.Subset.refl _)) (by decide)

theorem State.bumpPort_cells {s0 s : State} {p c n : Nat} (hK : Cells s0 s) : Cells s0 (@State.bumpPort s p c n) :=
  Cells.after hK (State.bumpPort_keeps .rfl0 (List.Subset.refl _)) (by decide)

theorem State.draw_cells {s0 s : State} (hK : Cells s0 s) : Cells s0 (@State.draw s).1 :=
  Cells.after hK (State.draw_keeps .rfl0 (List.Subset.refl _)) (by decide)

theorem State.raiseStack_cells {s0 s : State} {n : Nat} (hK : Cells s0 s) : Cells s0 (@State.raiseStack s n) :=
  Cells.after hK (State.raiseStack_keeps .rfl0 (List.Subset.refl _)) (by decide)

theorem State.release_cells {s0 s : State} {h : HeldCpl} (hK : Cells s0 s) : Cells s0 (@State.release s h) :=
  Cells.after hK (State.release_keeps .rfl0 (List.Subset.refl _)) (by decide)

theorem State.releaseAll_cells {s0 s : State} {hs : List HeldCpl} (hK : Cells s0 s) : Cells s0 (@State.releaseAll s
    hs) :=
  Cells.after hK (State.releaseAll_keeps .rfl0 (List.Subset.refl _)) (by decide)

theorem State.forward_cells {s0 s : State} {j : Nat} (hK : Cells s0 s) : Cells s0 (@State.forward s j) :=
  Cells.after hK (State.forward_keeps .rfl0 (List.Subset.refl _)) (by decide)

theorem State.police_cells {s0 s : State} {h : ReqHdr} {cls : Nat} (hK : Cells s0 s) : Cells s0 (@State.police s h
    cls).1 :=
  Cells.after hK (State.police_keeps .rfl0 (List.Subset.refl _)) (by decide)

theorem State.journalIn_cells {s0 s : State} {h : ReqHdr} {answer : Bool} (hK : Cells s0 s) : Cells s0
    (@State.journalIn s h answer) :=
  Cells.after hK (State.journalIn_keeps .rfl0 (List.Subset.refl _)) (by decide)

theorem State.journalOut_cells {s0 s : State} {j : Nat} (hK : Cells s0 s) : Cells s0 (@State.journalOut s j) :=
  Cells.after hK (State.journalOut_keeps .rfl0 (List.Subset.refl _)) (by decide)

theorem State.sendOrder_cells {s0 s : State} {i : Nat} {o : SetOrder} (hK : Cells s0 s) : Cells s0 (@State.sendOrder s
    i o).1 :=
  Cells.after hK (State.sendOrder_keeps .rfl0 (List.Subset.refl _)) (by decide)

theorem State.poolFatal_cells {s0 s : State} {cause : Nat} (hK : Cells s0 s) : Cells s0 (@State.poolFatal s cause) :=
  Cells.after hK (State.poolFatal_keeps .rfl0 (List.Subset.refl _)) (by decide)

theorem State.countAccessFail_cells {s0 s : State} {host check : Nat} (hK : Cells s0 s) : Cells s0
    (@State.countAccessFail s host check) :=
  Cells.after hK (State.countAccessFail_keeps .rfl0 (List.Subset.refl _)) (by decide)

theorem State.orderMask_cells {s0 s : State} {mask : BitVec 8} {first : SetOrder} {more : List SetOrder} {held :
    Option HeldCpl} (hK : Cells s0 s) : Cells s0 (@State.orderMask s mask first more held) :=
  Cells.after hK (State.orderMask_keeps .rfl0 (List.Subset.refl _)) (by decide)

theorem State.dropGrant_cells {s0 s : State} {e h : Nat} (hK : Cells s0 s) : Cells s0 (@State.dropGrant s e h) :=
  Cells.after hK (State.dropGrant_keeps .rfl0 (List.Subset.refl _)) (by decide)

theorem State.setExt_cells {s0 s : State} {e : Nat} {x : Ext} (hK : Cells s0 s) : Cells s0 (@State.setExt s e x) :=
  Cells.after hK (State.setExt_keeps .rfl0 (List.Subset.refl _)) (by decide)

theorem State.countRecorded_cells {s0 s : State} (hK : Cells s0 s) : Cells s0 (@State.countRecorded s) :=
  Cells.after hK (State.countRecorded_keeps .rfl0 (List.Subset.refl _)) (by decide)

theorem State.setReply_cells {s0 s : State} {i tag opcode : Nat} {jidx : Option Nat} {body : List Byte} (hK : Cells s0
    s) : Cells s0 (@State.setReply s i tag opcode jidx body) :=
  Cells.after hK (State.setReply_keeps .rfl0 (List.Subset.refl _)) (by decide)

theorem State.makeGrant_cells {s0 s : State} {e h rights epoch : Nat} (hK : Cells s0 s) : Cells s0 (@State.makeGrant s
    e h rights epoch) :=
  Cells.after hK (State.makeGrant_keeps .rfl0 (List.Subset.refl _)) (by decide)

theorem State.extCpl_cells {s0 s : State} {v : Via} {cmd code mask ext value : Nat} (hK : Cells s0 s) : Cells s0
    (@State.extCpl s v cmd code mask ext value) :=
  Cells.after hK (State.extCpl_keeps .rfl0 (List.Subset.refl _)) (by decide)

theorem State.setDomain_cells {s0 s : State} {d : Nat} {x : Domain} (hK : Cells s0 s) : Cells s0 (@State.setDomain s d
    x) :=
  Cells.after hK (State.setDomain_keeps .rfl0 (List.Subset.refl _)) (by decide)

theorem State.retireAnswers_cells {s0 s : State} {t : Tracker} (hK : Cells s0 s) : Cells s0 (@State.retireAnswers s t)
    :=
  Cells.after hK (State.retireAnswers_keeps .rfl0 (List.Subset.refl _)) (by decide)

theorem State.setDesc_cells {s0 s : State} {d : Desc} (hK : Cells s0 s) : Cells s0 (@State.setDesc s d) :=
  Cells.after hK (State.setDesc_keeps .rfl0 (List.Subset.refl _)) (by decide)

theorem State.cohCpl_cells {s0 s : State} {h : ReqHdr} {code value : Nat} (hK : Cells s0 s) : Cells s0 (@State.cohCpl
    s h code value) :=
  Cells.after hK (State.cohCpl_keeps .rfl0 (List.Subset.refl _)) (by decide)

theorem State.homeCpl_cells {s0 s : State} {kind : HomeReq} {h : ReqHdr} {code value : Nat} (hK : Cells s0 s) : Cells
    s0 (@State.homeCpl s kind h code value) :=
  Cells.after hK (State.homeCpl_keeps .rfl0 (List.Subset.refl _)) (by decide)

theorem State.domainNotices_cells {s0 s : State} {d kind cause : Nat} (hK : Cells s0 s) : Cells s0
    (@State.domainNotices s d kind cause) :=
  Cells.after hK (State.domainNotices_keeps .rfl0 (List.Subset.refl _)) (by decide)

theorem State.dataLost_cells {s0 s : State} {e : Nat} (hK : Cells s0 s) : Cells s0 (@State.dataLost s e) :=
  Cells.after hK (State.dataLost_keeps .rfl0 (List.Subset.refl _)) (by decide)

theorem State.rdData_cells {s0 s : State} {h : ReqHdr} {granted : Nat} {data : Line} (hK : Cells s0 s) : Cells s0
    (@State.rdData s h granted data) :=
  Cells.after hK (State.rdData_keeps .rfl0 (List.Subset.refl _)) (by decide)

theorem State.setTracker_cells {s0 s : State} {t : Tracker} (hK : Cells s0 s) : Cells s0 (@State.setTracker s t) :=
  Cells.after hK (State.setTracker_keeps .rfl0 (List.Subset.refl _)) (by decide)

theorem State.setBuf_cells {s0 s : State} {b : Nat} {x : Buf} (hK : Cells s0 s) : Cells s0 (@State.setBuf s b x) :=
  Cells.after hK (State.setBuf_keeps .rfl0 (List.Subset.refl _)) (by decide)

theorem State.failBlock_cells {s0 s : State} {b k code : Nat} (hK : Cells s0 s) : Cells s0 (@State.failBlock s b k
    code) :=
  Cells.after hK (State.failBlock_keeps .rfl0 (List.Subset.refl _)) (by decide)

theorem State.redCpl_cells {s0 s : State} {v : Via} {cmd code buf value : Nat} {extra : List Byte} (hK : Cells s0 s) :
    Cells s0 (@State.redCpl s v cmd code buf value extra) :=
  Cells.after hK (State.redCpl_keeps .rfl0 (List.Subset.refl _)) (by decide)

theorem State.keyChange_cells {s0 s : State} {hs : List HeldCpl} (hK : Cells s0 s) : Cells s0 (@State.keyChange s hs)
    :=
  Cells.after hK (State.keyChange_keeps .rfl0 (List.Subset.refl _)) (by decide)

theorem State.setSlot_cells {s0 s : State} {n : Nat} {x : SealSlot} (hK : Cells s0 s) : Cells s0 (@State.setSlot s n
    x) :=
  Cells.after hK (State.setSlot_keeps .rfl0 (List.Subset.refl _)) (by decide)

theorem State.secCpl_cells {s0 s : State} {v : Via} {cmd code value : Nat} {extra : List Byte} (hK : Cells s0 s) :
    Cells s0 (@State.secCpl s v cmd code value extra) :=
  Cells.after hK (State.secCpl_keeps .rfl0 (List.Subset.refl _)) (by decide)

theorem State.pubCpl_cells {s0 s : State} {v : Via} {cmd code mask ext value : Nat} (hK : Cells s0 s) : Cells s0
    (@State.pubCpl s v cmd code mask ext value) :=
  Cells.after hK (State.pubCpl_keeps .rfl0 (List.Subset.refl _)) (by decide)

theorem State.settleRegion_cells {s0 s : State} {r : Nat} (hK : Cells s0 s) : Cells s0 (@State.settleRegion s r) :=
  Cells.after hK (State.settleRegion_keeps .rfl0 (List.Subset.refl _)) (by decide)

theorem State.settleLc_cells {s0 s : State} (hK : Cells s0 s) : Cells s0 (@State.settleLc s) :=
  Cells.after hK (State.settleLc_keeps .rfl0 (List.Subset.refl _)) (by decide)

theorem State.answerOrder_cells {s0 s : State} {w : Sent} {more : List Sent} {who : List Nat} (hK : Cells s0 s) :
    Cells s0 (@State.answerOrder s w more who) :=
  Cells.after hK (State.answerOrder_keeps .rfl0 (List.Subset.refl _)) (by decide)

theorem State.respond_cells {s0 s : State} {t : Tracker} {data : Line} (hK : Cells s0 s) : Cells s0 (@State.respond s
    t data) :=
  Cells.after hK (State.respond_keeps .rfl0 (List.Subset.refl _)) (by decide)

theorem State.openTracker_cells {s0 s : State} {t : Tracker} (hK : Cells s0 s) : Cells s0 (@State.openTracker s t) :=
  Cells.after hK (State.openTracker_keeps .rfl0 (List.Subset.refl _)) (by decide)

theorem State.admitHome_cells {s0 s : State} {kind : HomeReq} {h : ReqHdr} {addr ext d : Nat} {mask : BitVec 64} {data
    : Line} {operand : BitVec 256} (hK : Cells s0 s) : Cells s0 (@State.admitHome s kind h addr ext d mask data
    operand) :=
  Cells.after hK (State.admitHome_keeps .rfl0 (List.Subset.refl _)) (by decide)

theorem State.protocolError_cells {s0 s : State} {d : Nat} (hK : Cells s0 s) : Cells s0 (@State.protocolError s d) :=
  Cells.after hK (State.protocolError_keeps .rfl0 (List.Subset.refl _)) (by decide)

theorem State.snoopAll_cells {s0 s : State} {t : Tracker} {share : Bool} {y3 : List (Nat × Nat)} (hK : Cells s0 s) :
    Cells s0 (@State.snoopAll s t share y3) :=
  Cells.after hK (State.snoopAll_keeps .rfl0 (List.Subset.refl _)) (by decide)

theorem State.staleAnswer_cells {s0 s : State} {h : ReqHdr} (hK : Cells s0 s) : Cells s0 (@State.staleAnswer s h) :=
  Cells.after hK (State.staleAnswer_keeps .rfl0 (List.Subset.refl _)) (by decide)

theorem State.domainOrder_cells {s0 s : State} {d : Nat} {keyed : Bool} {held : HeldCpl} (hK : Cells s0 s) : Cells s0
    (@State.domainOrder s d keyed held) :=
  Cells.after hK (State.domainOrder_keeps .rfl0 (List.Subset.refl _)) (by decide)

theorem State.homePoison_cells {s0 s : State} {t : Tracker} (hK : Cells s0 s) : Cells s0 (@State.homePoison s t) :=
  Cells.after hK (State.homePoison_keeps .rfl0 (List.Subset.refl _)) (by decide)

theorem State.markAnswer_cells {s0 s : State} {j : Nat} (hK : Cells s0 s) : Cells s0 (@State.markAnswer s j) :=
  Cells.after hK (State.markAnswer_keeps .rfl0 (List.Subset.refl _)) (by decide)

theorem State.useLine_cells {s0 s : State} {d : Desc} {place : Nat} {write : Bool} (hK : Cells s0 s) : Cells s0
    (@State.useLine s d place write) :=
  Cells.after hK (State.useLine_keeps .rfl0 (List.Subset.refl _)) (by decide)

theorem State.coachEnter_cells {s0 s : State} {kind : HomeReq} {owner : Nat} {d : Desc} {place pa key dom : Nat} {data
    : Line} (hK : Cells s0 s) : Cells s0 (@State.coachEnter s kind owner d place pa key dom data).1 :=
  Cells.after hK (State.coachEnter_keeps .rfl0 (List.Subset.refl _)) (by decide)

theorem State.countMoved_cells {s0 s : State} {ring rd wr : Nat} (hK : Cells s0 s) : Cells s0 (@State.countMoved s
    ring rd wr) :=
  Cells.after hK (State.countMoved_keeps .rfl0 (List.Subset.refl _)) (by decide)

theorem State.dropJobs_cells {s0 s : State} {b code : Nat} (hK : Cells s0 s) : Cells s0 (@State.dropJobs s b code) :=
  Cells.after hK (State.dropJobs_keeps .rfl0 (List.Subset.refl _)) (by decide)

theorem State.cancelLaunches_cells {s0 s : State} (hK : Cells s0 s) : Cells s0 (@State.cancelLaunches s) :=
  Cells.after hK (State.cancelLaunches_keeps .rfl0 (List.Subset.refl _)) (by decide)

theorem State.badFlit_cells {s0 s : State} {n : Nat} (hK : Cells s0 s) : Cells s0 (@State.badFlit s n) :=
  Cells.after hK (State.badFlit_keeps .rfl0 (List.Subset.refl _)) (by decide)

theorem State.goodFlit_cells {s0 s : State} {n : Nat} {h : FlitHdr} (hK : Cells s0 s) : Cells s0 (@State.goodFlit s n
    h) :=
  Cells.after hK (State.goodFlit_keeps .rfl0 (List.Subset.refl _)) (by decide)

theorem State.malformed_cells {s0 s : State} {n : Nat} (hK : Cells s0 s) : Cells s0 (@State.malformed s n) :=
  Cells.after hK (State.malformed_keeps .rfl0 (List.Subset.refl _)) (by decide)

theorem State.activeStops_cells {s0 s : State} {speaks release : Bool} (hK : Cells s0 s) : Cells s0
    (@State.activeStops s speaks release) :=
  Cells.after hK (State.activeStops_keeps .rfl0 (List.Subset.refl _)) (by decide)

theorem State.loseTender_cells {s0 s : State} {gone : Bool} (hK : Cells s0 s) : Cells s0 (@State.loseTender s gone) :=
  Cells.after hK (State.loseTender_keeps .rfl0 (List.Subset.refl _)) (by decide)

theorem State.setMon_cells {s0 s : State} {i : Nat} {m : Monitor} (hK : Cells s0 s) : Cells s0 (@State.setMon s i m)
    :=
  Cells.after hK (State.setMon_keeps .rfl0 (List.Subset.refl _)) (by decide)

theorem State.setPart_cells {s0 s : State} {p : Nat} {x : Part} (hK : Cells s0 s) : Cells s0 (@State.setPart s p x) :=
  Cells.after hK (State.setPart_keeps .rfl0 (List.Subset.refl _)) (by decide)

theorem State.sampleProcess_cells {s0 s : State} {n : Nat} {value : BitVec 16} {fault : Bool} (hK : Cells s0 s) :
    Cells s0 (@State.sampleProcess s n value fault) :=
  Cells.after hK (State.sampleProcess_keeps .rfl0 (List.Subset.refl _)) (by decide)

theorem State.sampleRail_cells {s0 s : State} {n : Nat} {value : BitVec 16} (hK : Cells s0 s) : Cells s0
    (@State.sampleRail s n value) :=
  Cells.after hK (State.sampleRail_keeps .rfl0 (List.Subset.refl _)) (by decide)

theorem State.markMissing_cells {s0 s : State} {die : Nat} {running mark : Bool} (hK : Cells s0 s) : Cells s0
    (@State.markMissing s die running mark) :=
  Cells.after hK (State.markMissing_keeps .rfl0 (List.Subset.refl _)) (by decide)

theorem State.writeCut_cells {s0 s : State} (hK : Cells s0 s) : Cells s0 (@State.writeCut s) :=
  Cells.after hK (State.writeCut_keeps .rfl0 (List.Subset.refl _)) (by decide)

theorem State.shiftControl_cells {s0 s : State} {d : Int} (hK : Cells s0 s) : Cells s0 (@State.shiftControl s d) :=
  Cells.after hK (State.shiftControl_keeps .rfl0 (List.Subset.refl _)) (by decide)

theorem State.journalHeld_cells {s0 s : State} (hK : Cells s0 s) : Cells s0 (@State.journalHeld s) :=
  Cells.after hK (State.journalHeld_keeps .rfl0 (List.Subset.refl _)) (by decide)

theorem State.writeResume_cells {s0 s : State} (hK : Cells s0 s) : Cells s0 (@State.writeResume s) :=
  Cells.after hK (State.writeResume_keeps .rfl0 (List.Subset.refl _)) (by decide)

theorem State.missList_cells {s0 s : State} (hK : Cells s0 s) : Cells s0 (@State.missList s) :=
  Cells.after hK (State.missList_keeps .rfl0 (List.Subset.refl _)) (by decide)

theorem State.emptyStore_cells {s0 s : State} (hK : Cells s0 s) : Cells s0 (@State.emptyStore s) :=
  Cells.after hK (State.emptyStore_keeps .rfl0 (List.Subset.refl _)) (by decide)

theorem State.loseStore_cells {s0 s : State} {b : Nat} (hK : Cells s0 s) : Cells s0 (@State.loseStore s b) :=
  Cells.after hK (State.loseStore_keeps .rfl0 (List.Subset.refl _)) (by decide)

theorem State.portArrayLost_cells {s0 s : State} {n : Nat} (hK : Cells s0 s) : Cells s0 (@State.portArrayLost s n) :=
  Cells.after hK (State.portArrayLost_keeps .rfl0 (List.Subset.refl _)) (by decide)

theorem State.imageFails_cells {s0 s : State} (hK : Cells s0 s) : Cells s0 (@State.imageFails s) :=
  Cells.after hK (State.imageFails_keeps .rfl0 (List.Subset.refl _)) (by decide)

theorem State.releaseAllTokens_cells {s0 s : State} (hK : Cells s0 s) : Cells s0 (@State.releaseAllTokens s) :=
  Cells.after hK (State.releaseAllTokens_keeps .rfl0 (List.Subset.refl _)) (by decide)

theorem State.dropSession_cells {s0 s : State} {id : Nat} (hK : Cells s0 s) : Cells s0 (@State.dropSession s id) :=
  Cells.after hK (State.dropSession_keeps .rfl0 (List.Subset.refl _)) (by decide)

theorem State.establish_cells {s0 s : State} {v : Via} {x : Session} (hK : Cells s0 s) : Cells s0 (@State.establish s
    v x) :=
  Cells.after hK (State.establish_keeps .rfl0 (List.Subset.refl _)) (by decide)

theorem State.dropAtomics_cells {s0 s : State} {e : Nat} (hK : Cells s0 s) : Cells s0 (@State.dropAtomics s e) :=
  Cells.after hK (State.dropAtomics_keeps .rfl0 (List.Subset.refl _)) (by decide)

theorem State.rslJudge_cells {s0 s : State} {c : RslCmd} {cmd : Nat} {resv : Bool} {k : State → State} (hK : Cells s0
    s) (hk : ∀ (v0 : State), Cells s0 v0 → Cells s0 (k v0)) : Cells s0 (@State.rslJudge s c cmd resv k) := by
  unfold State.rslJudge
  with_reducible repeat' first
    | assumption | apply hk | refine State.rslDone_cells ?_ | refine Cells.ite (fun _ => ?_) (fun _ => ?_) | split
    | dsimp -proj only

theorem State.rslGate_cells {s0 s : State} {c : RslCmd} {cmd : Nat} {resv : Bool} {k : State → State} (hK : Cells s0
    s) (hk : ∀ (v0 : State), Cells s0 v0 → Cells s0 (k v0)) : Cells s0 (@State.rslGate s c cmd resv k) := by
  unfold State.rslGate
  with_reducible repeat' first
    | assumption | apply hk | refine State.rslRepeat_cells ?_ | refine State.bump_cells ?_
    | refine State.setReplay_cells ?_ | refine State.rslJudge_cells ?_ (fun v0F hF => ?_)
    | refine State.rslOpen_cells ?_ | refine Cells.ite (fun _ => ?_) (fun _ => ?_) | split | dsimp -proj only

theorem State.setChannel_cells {s0 s : State} {c : Nat} {x : Channel} (hK : Cells s0 s) : Cells s0 (@State.setChannel
    s c x) := by
  unfold State.setChannel
  with_reducible repeat' first
    | assumption | dsimp -proj only | refine cells_mem ?_ rfl

theorem State.setStack_cells {s0 s : State} {n : Nat} {x : Stack} (hK : Cells s0 s) : Cells s0 (@State.setStack s n x)
    := by
  unfold State.setStack
  with_reducible repeat' first
    | assumption | dsimp -proj only | refine cells_mem ?_ rfl

theorem State.markMoving_cells {s0 s : State} {ppn target : Nat} {retire : Bool} (hK : Cells s0 s) : Cells s0
    (@State.markMoving s ppn target retire) := by
  unfold State.markMoving
  with_reducible repeat' first
    | assumption | refine State.logChange_cells ?_ | dsimp -proj only | refine cells_mem ?_ rfl

theorem State.startMigration_cells {s0 s : State} {n : Nat} (hK : Cells s0 s) : Cells s0 (@State.startMigration s n)
    := by
  unfold State.startMigration
  with_reducible repeat' first
    | assumption | refine State.raiseStack_cells ?_ | refine State.setStack_cells ?_ | dsimp -proj only

theorem State.degradeStack_cells {s0 s : State} {n : Nat} (hK : Cells s0 s) : Cells s0 (@State.degradeStack s n) := by
  unfold State.degradeStack
  with_reducible repeat' first
    | assumption | refine State.setStack_cells ?_ | refine State.startMigration_cells ?_
    | refine State.raiseStack_cells ?_ | refine Cells.ite (fun _ => ?_) (fun _ => ?_) | split | dsimp -proj only

theorem State.takeSpare_cells {s0 s : State} {n : Nat} (hK : Cells s0 s) : Cells s0 (@State.takeSpare s n) := by
  unfold State.takeSpare
  with_reducible repeat' first
    | assumption | refine State.setStack_cells ?_ | refine State.degradeStack_cells ?_ | refine State.raise_cells ?_
    | refine Cells.ite (fun _ => ?_) (fun _ => ?_) | split | dsimp -proj only

theorem State.retirePage_cells {s0 s : State} {ppn : Nat} (hK : Cells s0 s) : Cells s0 (@State.retirePage s ppn) := by
  unfold State.retirePage
  with_reducible repeat' first
    | assumption | refine State.markMoving_cells ?_ | refine State.takeSpare_cells ?_
    | refine Cells.ite (fun _ => ?_) (fun _ => ?_) | split | dsimp -proj only | refine cells_mem ?_ rfl

theorem State.countAccess_cells {s0 s : State} {ppn r w : Nat} (hK : Cells s0 s) : Cells s0 (@State.countAccess s ppn
    r w) := by
  unfold State.countAccess
  with_reducible repeat' first
    | assumption | refine Cells.ite1 (fun _ => ?_) (fun _ => ?_) | dsimp -proj only | refine cells_mem ?_ rfl

theorem State.setMeta_cells {s0 s : State} {ppn line : Nat} {m : LineMeta} (hK : Cells s0 s) : Cells s0
    (@State.setMeta s ppn line m) := by
  unfold State.setMeta
  with_reducible repeat' first
    | assumption | dsimp -proj only | refine cells_mem ?_ rfl

theorem State.lineLost_cells {s0 s : State} {ppn line : Nat} (hK : Cells s0 s) : Cells s0 (@State.lineLost s ppn line)
    := by
  unfold State.lineLost
  with_reducible repeat' first
    | assumption | refine State.bump_cells ?_ | refine State.setMeta_cells ?_ | refine State.retirePage_cells ?_
    | refine State.raise_cells ?_ | dsimp -proj only

theorem State.countCe_cells {s0 s : State} {ch sym : Nat} (hK : Cells s0 s) : Cells s0 (@State.countCe s ch sym) := by
  unfold State.countCe
  with_reducible repeat' first
    | assumption | refine State.bump_cells ?_ | refine State.setChannel_cells ?_ | refine State.raise_cells ?_
    | refine State.setStack_cells ?_ | refine State.degradeStack_cells ?_
    | refine Cells.ite (fun _ => ?_) (fun _ => ?_) | split | refine Cells.ite1 (fun _ => ?_) (fun _ => ?_)
    | dsimp -proj only

theorem State.logCe_cells {s0 s : State} {e : CeEntry} (hK : Cells s0 s) : Cells s0 (@State.logCe s e) := by
  unfold State.logCe
  with_reducible repeat' first
    | assumption | refine State.bump_cells ?_ | refine State.logChange_cells ?_ | refine State.raise_cells ?_
    | refine Cells.ite (fun _ => ?_) (fun _ => ?_) | split | dsimp -proj only | refine cells_mem ?_ rfl

theorem State.hubRead_cells {s0 s : State} {ppn line : Nat} {err : Err} {who : Reader} {dirRead : Bool} (hK : Cells s0
    s) : Cells s0 (@State.hubRead s ppn line err who dirRead).1 := by
  unfold State.hubRead
  with_reducible repeat' first
    | assumption | refine State.countAccess_cells ?_ | refine State.lineLost_cells ?_ | refine State.countCe_cells ?_
    | refine State.bump_cells ?_ | refine State.logCe_cells ?_ | refine Cells.ite1 (fun _ => ?_) (fun _ => ?_) | split
    | dsimp -proj only | refine cells_fresh ?_

theorem State.readLine_cells {s0 s : State} {l : Nat} {err : Err} {who : Reader} {dirRead : Bool} (hK : Cells s0 s) :
    Cells s0 (@State.readLine s l err who dirRead).1 := by
  unfold State.readLine
  with_reducible repeat' first
    | assumption | refine State.hubRead_cells ?_ | dsimp -proj only | refine Cells.of_pair ?_ (by assumption)

theorem State.setHubQueue_cells {s0 s : State} {hub : Nat} {q : List HubWrite} (hK : Cells s0 s) : Cells s0
    (@State.setHubQueue s hub q) := by
  unfold State.setHubQueue
  with_reducible repeat' first
    | assumption | refine Cells.ite (fun _ => ?_) (fun _ => ?_) | split | dsimp -proj only | refine cells_mem ?_ rfl

theorem State.commit_cells {s0 s : State} {hub : Nat} {c : Commit} (hK : Cells s0 s) : Cells s0 (@State.commit s hub
    c) := by
  unfold State.commit
  with_reducible repeat' first
    | assumption | refine Cells.ite (fun _ => ?_) (fun _ => ?_) | split | dsimp -proj only | refine cells_mem ?_ rfl

theorem State.queueWrite_cells {s0 s : State} {l : Nat} {w : HubWrite} (hK : Cells s0 s) : Cells s0 (@State.queueWrite
    s l w) := by
  unfold State.queueWrite
  with_reducible repeat' first
    | assumption | refine State.bump_cells ?_ | refine State.setHubQueue_cells ?_
    | refine Cells.ite (fun _ => ?_) (fun _ => ?_) | split | dsimp -proj only

theorem State.wipePages_cells {s0 s : State} {ppn n : Nat} (hK : Cells s0 s) : Cells s0 (@State.wipePages s ppn n) :=
    by
  unfold State.wipePages
  with_reducible repeat' first
    | assumption | refine State.logChange_cells ?_ | dsimp -proj only | refine cells_mem ?_ rfl

theorem State.arrive_cells {s0 s : State} {h : ReqHdr} {wait : Bool} {refuse : State → Nat → Nat → State} {k : State →
    State} (hK : Cells s0 s) (hrefuse : ∀ (v0 : State) (v1 : Nat) (v2 : Nat), Cells s0 v0 → Cells s0 (refuse v0 v1
    v2)) (hk : ∀ (v0 : State), Cells s0 v0 → Cells s0 (k v0)) : Cells s0 (@State.arrive s h wait refuse k) := by
  unfold State.arrive
  with_reducible repeat' first
    | assumption | apply hrefuse | apply hk | refine State.bumpPort_cells ?_ | refine State.journalIn_cells ?_
    | refine State.forward_cells ?_ | refine State.journalOut_cells ?_ | refine Cells.ite (fun _ => ?_) (fun _ => ?_)
    | split | dsimp -proj only | refine cells_twin ?_

theorem State.nextTarget_cells {s0 s : State} (hK : Cells s0 s) : CellsOptP s0 (@State.nextTarget s) := by
  unfold State.nextTarget
  with_reducible repeat' first
    | assumption | refine CellsOptP.some ?_ | refine CellsOptP.map ?_ | exact CellsOptP.none
    | refine State.takeSpare_cells ?_ | split | dsimp -proj only | refine cells_mem ?_ rfl

theorem State.remapAll_cells {s0 s : State} {y1 : List Nat} (hK : Cells s0 s) : CellsOpt s0 (@State.remapAll s y1) :=
    by
  unfold State.remapAll
  with_reducible repeat' first
    | assumption | refine CellsOpt.some ?_ | exact CellsOpt.none | refine State.nextTarget_cells ?_
    | refine State.remapAll_cells ?_ | refine Cells.of_some ?_ (by assumption)
    | refine Cells.of_somep ?_ (by assumption) | refine Cells.ite (fun _ => ?_) (fun _ => ?_) | split
    | dsimp -proj only | refine cells_mem ?_ rfl

theorem State.placeShare_cells {s0 s : State} {n : Nat} (hK : Cells s0 s) : CellsOptP s0 (@State.placeShare s n) := by
  unfold State.placeShare
  with_reducible repeat' first
    | assumption | refine CellsOptP.some ?_ | refine CellsOptP.map ?_ | exact CellsOptP.none
    | refine State.remapAll_cells ?_ | refine Cells.of_some ?_ (by assumption)
    | refine Cells.ite (fun _ => ?_) (fun _ => ?_) | split | dsimp -proj only

theorem State.colander_cells {s0 s : State} {h : ReqHdr} {cls : Nat} {refuse : State → Nat → Nat → State} {k : State →
    State} (hK : Cells s0 s) (hrefuse : ∀ (v0 : State) (v1 : Nat) (v2 : Nat), Cells s0 v0 → Cells s0 (refuse v0 v1
    v2)) (hk : ∀ (v0 : State), Cells s0 v0 → Cells s0 (k v0)) : Cells s0 (@State.colander s h cls refuse k) := by
  unfold State.colander
  with_reducible repeat' first
    | assumption | apply hrefuse | apply hk | refine State.police_cells ?_
    | refine Cells.ite (fun _ => ?_) (fun _ => ?_) | split | refine Cells.ite1 (fun _ => ?_) (fun _ => ?_)
    | dsimp -proj only | refine Cells.of_pair ?_ (by assumption)

theorem State.classThree_cells {s0 s : State} {v : Via} {cmd : Nat} {lens : List Nat} {mask : BitVec 32} {resv : Bool}
    {no : State → Nat → Nat → State} {k : State → State} (hK : Cells s0 s) (hno : ∀ (v0 : State) (v1 : Nat) (v2 :
    Nat), Cells s0 v0 → Cells s0 (no v0 v1 v2)) (hk : ∀ (v0 : State), Cells s0 v0 → Cells s0 (k v0)) : Cells s0
    (@State.classThree s v cmd lens mask resv no k) := by
  unfold State.classThree
  with_reducible repeat' first
    | assumption | apply hno | apply hk | refine State.arrive_cells ?_ (fun v0F v1F v2F hF => ?_) (fun v0F hF => ?_)
    | refine State.send_cells ?_ | refine State.countRecorded_cells ?_
    | refine State.colander_cells ?_ (fun v0F v1F v2F hF => ?_) (fun v0F hF => ?_)
    | refine State.rslGate_cells ?_ (fun v0F hF => ?_) | refine Cells.ite (fun _ => ?_) (fun _ => ?_) | split
    | dsimp -proj only

theorem State.readPool_cells {s0 s : State} {addr : Nat} {err : Err} {who : Reader} (hK : Cells s0 s) : Cells s0
    (@State.readPool s addr err who).1 := by
  unfold State.readPool
  with_reducible repeat' first
    | assumption | refine State.readLine_cells ?_ | dsimp -proj only | refine Cells.of_pair ?_ (by assumption)

theorem State.walkRead_cells {s0 s : State} {addr : Nat} {err : Err} (hK : Cells s0 s) : Cells s0 (@State.walkRead s
    addr err).1 := by
  unfold State.walkRead
  with_reducible repeat' first
    | assumption | refine State.readPool_cells ?_ | refine Cells.ite1 (fun _ => ?_) (fun _ => ?_) | split
    | dsimp -proj only | refine Cells.of_pair ?_ (by assumption)

theorem State.walkS1_cells {s0 s : State} {owner tva need y4 y5 y6 : Nat} {y7 : Err} (hK : Cells s0 s) : Cells s0
    (@State.walkS1 s owner tva need y4 y5 y6 y7).1 := by
  unfold State.walkS1
  with_reducible repeat' first
    | assumption | refine State.walkRead_cells ?_ | refine State.walkS1_cells ?_
    | refine Cells.ite1 (fun _ => ?_) (fun _ => ?_) | split | dsimp -proj only
    | refine Cells.of_pair ?_ (by assumption)

theorem State.translate_cells {s0 s : State} {x : Ring} {addr need : Nat} {err : Err} (hK : Cells s0 s) : Cells s0
    (@State.translate s x addr need err).1 := by
  unfold State.translate
  with_reducible repeat' first
    | assumption | refine State.walkS1_cells ?_ | refine Cells.ite1 (fun _ => ?_) (fun _ => ?_) | split
    | dsimp -proj only | refine Cells.of_pair ?_ (by assumption)

theorem State.walkRange_cells {s0 s : State} {x : Ring} {need : Nat} {dst : Bool} {y4 y5 y6 : Nat} {y7 : Err} {y8 :
    List (PageEnt × Nat)} (hK : Cells s0 s) : Cells s0 (@State.walkRange s x need dst y4 y5 y6 y7 y8).1 := by
  unfold State.walkRange
  with_reducible repeat' first
    | assumption | refine State.translate_cells ?_ | refine State.walkRange_cells ?_
    | refine Cells.ite1 (fun _ => ?_) (fun _ => ?_) | split | dsimp -proj only
    | refine Cells.of_pair ?_ (by assumption)

theorem State.walkRanges_cells {s0 s : State} {x : Ring} {need : Nat} {dst : Bool} {y4 : List (Nat × Nat)} {y5 : List
    (PageEnt × Nat)} {y6 : Err} (hK : Cells s0 s) : Cells s0 (@State.walkRanges s x need dst y4 y5 y6).1 := by
  unfold State.walkRanges
  with_reducible repeat' first
    | assumption | refine State.walkRange_cells ?_ | refine State.walkRanges_cells ?_ | split | dsimp -proj only
    | refine Cells.of_pair ?_ (by assumption)

theorem State.readList_cells {s0 s : State} {x : Ring} {host : Bool} {y3 y4 : Nat} {y5 : Err} {y6 : List (Nat × Nat)}
    (hK : Cells s0 s) : Cells s0 (@State.readList s x host y3 y4 y5 y6).1 := by
  unfold State.readList
  with_reducible repeat' first
    | assumption | refine State.translate_cells ?_ | refine State.readPool_cells ?_ | refine State.readList_cells ?_
    | refine Cells.ite1 (fun _ => ?_) (fun _ => ?_) | split | dsimp -proj only
    | refine Cells.of_pair ?_ (by assumption)

theorem State.walkDesc_cells {s0 s : State} {x : Ring} {d : Desc} {scales : Nat} {err : Err} (hK : Cells s0 s) : Cells
    s0 (@State.walkDesc s x d scales err).1 := by
  unfold State.walkDesc
  with_reducible repeat' first
    | assumption | refine State.readList_cells ?_ | refine State.walkRanges_cells ?_
    | refine Cells.ite1 (fun _ => ?_) (fun _ => ?_) | split | dsimp -proj only
    | refine Cells.of_pair ?_ (by assumption)

theorem State.readAccLine_cells {s0 s : State} {b : Nat} {x : Buf} {k i : Nat} {err : Err} (hK : Cells s0 s) : Cells
    s0 (@State.readAccLine s b x k i err).1 := by
  unfold State.readAccLine
  with_reducible repeat' first
    | assumption | refine State.readPool_cells ?_ | refine Cells.ite1 (fun _ => ?_) (fun _ => ?_) | split
    | dsimp -proj only | refine Cells.of_pair ?_ (by assumption)

theorem State.readAcc_cells {s0 s : State} {b : Nat} {x : Buf} {k : Nat} {err : Err} (hK : Cells s0 s) : Cells s0
    (@State.readAcc s b x k err).1 := by
  unfold State.readAcc
  with_reducible repeat' first
    | assumption | refine State.readAccLine_cells ?_ | refine Cells.foldl ?_ (fun sF xF hF => ?_)
    | refine Cells.foldl1 ?_ (fun sF xF hF => ?_) | refine Cells.ite1 (fun _ => ?_) (fun _ => ?_) | split
    | dsimp -proj only | refine Cells.of_pair ?_ (by assumption)

theorem State.oldAcc_cells {s0 s : State} {b : Nat} {x : Buf} {k count : Nat} {err : Err} (hK : Cells s0 s) : Cells s0
    (@State.oldAcc s b x k count err).1 := by
  unfold State.oldAcc
  with_reducible repeat' first
    | assumption | refine State.readAcc_cells ?_ | refine Cells.ite1 (fun _ => ?_) (fun _ => ?_) | split
    | dsimp -proj only | refine Cells.of_pair ?_ (by assumption)

theorem State.loadKey_cells {s0 s : State} {k : Nat} (hK : Cells s0 s) : Cells s0 (@State.loadKey s k) := by
  unfold State.loadKey
  with_reducible repeat' first
    | assumption | refine State.draw_cells ?_ | split | refine Cells.ite1 (fun _ => ?_) (fun _ => ?_)
    | dsimp -proj only | refine Cells.of_pair ?_ (by assumption) | refine cells_mem ?_ rfl

theorem State.zeroKey_cells {s0 s : State} {k : Nat} (hK : Cells s0 s) : Cells s0 (@State.zeroKey s k) := by
  unfold State.zeroKey
  with_reducible repeat' first
    | assumption | dsimp -proj only | refine cells_mem ?_ rfl

theorem State.freeSlot_cells {s0 s : State} {n : Nat} {hs : List HeldCpl} (hK : Cells s0 s) : Cells s0
    (@State.freeSlot s n hs) := by
  unfold State.freeSlot
  with_reducible repeat' first
    | assumption | refine State.keyChange_cells ?_ | refine State.zeroKey_cells ?_ | refine State.setSlot_cells ?_
    | dsimp -proj only

theorem State.freeRemaps_cells {s0 s : State} {lo hi : Nat} (hK : Cells s0 s) : Cells s0 (@State.freeRemaps s lo hi)
    := by
  unfold State.freeRemaps
  with_reducible repeat' first
    | assumption | refine State.wipePages_cells ?_ | refine Cells.foldl ?_ (fun sF xF hF => ?_)
    | refine Cells.foldl1 ?_ (fun sF xF hF => ?_) | split | refine Cells.ite1 (fun _ => ?_) (fun _ => ?_)
    | dsimp -proj only | refine Cells.of_pair ?_ (by assumption) | refine cells_pool_mem ?_ rfl

theorem State.freePages_cells {s0 s : State} {x : Ext} (hK : Cells s0 s) : Cells s0 (@State.freePages s x) := by
  unfold State.freePages
  with_reducible repeat' first
    | assumption | refine State.wipePages_cells ?_ | refine State.freeRemaps_cells ?_ | dsimp -proj only
    | refine cells_pool ?_

theorem State.extentFree_cells {s0 s : State} {e : Nat} (hK : Cells s0 s) : Cells s0 (@State.extentFree s e) := by
  unfold State.extentFree
  with_reducible repeat' first
    | assumption | refine State.dropGrant_cells ?_ | refine State.freePages_cells ?_ | refine State.setExt_cells ?_
    | refine State.freeSlot_cells ?_ | refine State.releaseAll_cells ?_ | refine State.setReply_cells ?_
    | refine State.settleRegion_cells ?_ | refine State.settleLc_cells ?_ | refine Cells.foldl ?_ (fun sF xF hF => ?_)
    | refine Cells.foldl1 ?_ (fun sF xF hF => ?_) | split | refine Cells.ite1 (fun _ => ?_) (fun _ => ?_)
    | dsimp -proj only | refine Cells.of_pair ?_ (by assumption) | refine cells_pool ?_

theorem State.poolGuard_cells {s0 s : State} {no : State → Nat → Nat → State} {k : State → State} (hK : Cells s0 s)
    (hno : ∀ (v0 : State) (v1 : Nat) (v2 : Nat), Cells s0 v0 → Cells s0 (no v0 v1 v2)) (hk : ∀ (v0 : State), Cells s0
    v0 → Cells s0 (k v0)) : Cells s0 (@State.poolGuard s no k) := by
  unfold State.poolGuard
  with_reducible repeat' first
    | assumption | apply hno | apply hk | refine Cells.ite (fun _ => ?_) (fun _ => ?_) | split | dsimp -proj only

theorem State.place_cells {s0 s : State} {e kind tenant owner len : Nat} {mask : BitVec 8} (hK : Cells s0 s) :
    CellsOpt s0 (s.place e kind tenant owner len mask) := by
  intro t ht
  unfold State.place at ht
  obtain ⟨p, hp, rfl⟩ := Option.map_eq_some_iff.mp ht
  exact State.setExt_cells (State.placeShare_cells hK _ hp)

theorem extAllocAct_cells {s0 : State} {v : Via} {kind rights len resv : Nat} {s : State} (hK : Cells s0 s) : Cells s0
    (@extAllocAct v kind rights len resv s) := by
  unfold extAllocAct
  with_reducible repeat' first
    | assumption | refine State.extCpl_cells ?_ | refine State.place_cells ?_ | refine State.orderMask_cells ?_
    | refine State.makeGrant_cells ?_ | refine Cells.of_some ?_ (by assumption)
    | refine Cells.ite (fun _ => ?_) (fun _ => ?_) | split | refine Cells.ite1 (fun _ => ?_) (fun _ => ?_)
    | dsimp -proj only

theorem execExtAlloc_cells {s0 : State} {v : Via} {kind rights lenGran resv : Nat} {s : State} (hK : Cells s0 s) :
    CellsOut s0 (@execExtAlloc v kind rights lenGran resv s) := by
  unfold execExtAlloc
  with_reducible repeat' first
    | assumption | refine CellsOut.next ?_ | refine State.extCpl_cells ?_
    | refine State.classThree_cells ?_ (fun v0F v1F v2F hF => ?_) (fun v0F hF => ?_)
    | refine State.poolGuard_cells ?_ (fun v0F v1F v2F hF => ?_) (fun v0F hF => ?_) | refine extAllocAct_cells ?_
    | dsimp -proj only

theorem execExtentFree_cells {s0 : State} {ext : Nat} {s : State} (hK : Cells s0 s) : CellsOut s0 (@execExtentFree ext
    s) := by
  unfold execExtentFree
  with_reducible repeat' first
    | assumption | refine CellsOut.next ?_ | refine State.extentFree_cells ?_
    | refine Cells.ite (fun _ => ?_) (fun _ => ?_) | split | dsimp -proj only

theorem State.setCheck_cells {s0 s : State} {h : ReqHdr} {gen : Nat} {k : State → Nat → State} (hK : Cells s0 s) (hk :
    ∀ (v0 : State) (v1 : Nat), Cells s0 v0 → Cells s0 (k v0 v1)) : Cells s0 (@State.setCheck s h gen k) := by
  unfold State.setCheck
  with_reducible repeat' first
    | assumption | apply hk | refine State.bumpPort_cells ?_ | refine State.bump_cells ?_
    | refine State.raise_cells ?_ | refine Cells.ite (fun _ => ?_) (fun _ => ?_) | split | dsimp -proj only
    | refine cells_pool ?_

theorem State.setReq_cells {s0 s : State} {h : ReqHdr} {gen : Nat} {k : State → Nat → State} (hK : Cells s0 s) (hk : ∀
    (v0 : State) (v1 : Nat), Cells s0 v0 → Cells s0 (k v0 v1)) : Cells s0 (@State.setReq s h gen k) := by
  unfold State.setReq
  with_reducible repeat' first
    | assumption | apply hk | refine State.setCheck_cells ?_ (fun v0F v1F hF => ?_) | refine State.journalIn_cells ?_
    | refine State.forward_cells ?_ | refine Cells.ite (fun _ => ?_) (fun _ => ?_) | split | dsimp -proj only
    | refine cells_twin ?_

theorem State.unplace_cells {s0 s : State} {e : Nat} {refused : List Nat} (hK : Cells s0 s) : Cells s0 (@State.unplace
    s e refused) := by
  unfold State.unplace
  with_reducible repeat' first
    | assumption | refine State.dropGrant_cells ?_ | refine State.setExt_cells ?_ | refine State.orderMask_cells ?_
    | refine State.extentFree_cells ?_ | refine Cells.foldl ?_ (fun sF xF hF => ?_)
    | refine Cells.foldl1 ?_ (fun sF xF hF => ?_) | refine Cells.ite (fun _ => ?_) (fun _ => ?_) | split
    | dsimp -proj only | refine Cells.of_pair ?_ (by assumption)

theorem State.clearValid_cells {s0 s : State} {e : Nat} (hK : Cells s0 s) : Cells s0 (@State.clearValid s e) := by
  unfold State.clearValid
  with_reducible repeat' first
    | assumption | refine State.wipePages_cells ?_ | refine Cells.foldl ?_ (fun sF xF hF => ?_)
    | refine Cells.foldl1 ?_ (fun sF xF hF => ?_) | split | dsimp -proj only | refine Cells.of_pair ?_ (by assumption)

theorem State.unbind_cells {s0 s : State} {e : Nat} {refused : List Nat} (hK : Cells s0 s) : Cells s0 (@State.unbind s
    e refused) := by
  unfold State.unbind
  with_reducible repeat' first
    | assumption | refine State.clearValid_cells ?_ | refine State.setExt_cells ?_ | refine State.orderMask_cells ?_
    | dsimp -proj only

theorem State.orderEnd_cells {s0 s : State} {r : SetOrderRec} (hK : Cells s0 s) : Cells s0 (@State.orderEnd s r) := by
  unfold State.orderEnd
  with_reducible repeat' first
    | assumption | refine State.unplace_cells ?_ | refine State.extCpl_cells ?_ | refine State.unbind_cells ?_
    | refine State.release_cells ?_ | refine State.releaseAll_cells ?_ | split | dsimp -proj only

theorem State.setIn_cells {s0 s : State} {h : ReqHdr} {gen : Nat} {k : State → Nat → State} (hK : Cells s0 s) (hk : ∀
    (v0 : State) (v1 : Nat), Cells s0 v0 → Cells s0 (k v0 v1)) : Cells s0 (@State.setIn s h gen k) := by
  unfold State.setIn
  with_reducible repeat' first
    | assumption | apply hk | refine State.setCheck_cells ?_ (fun v0F v1F hF => ?_)
    | refine Cells.ite (fun _ => ?_) (fun _ => ?_) | split | dsimp -proj only

theorem State.settleOrders_cells {s0 s : State} (hK : Cells s0 s) : Cells s0 (@State.settleOrders s) := by
  unfold State.settleOrders
  with_reducible repeat' first
    | assumption | refine State.orderEnd_cells ?_ | refine Cells.foldl ?_ (fun sF xF hF => ?_)
    | refine Cells.foldl1 ?_ (fun sF xF hF => ?_) | dsimp -proj only | refine Cells.of_pair ?_ (by assumption)
    | refine cells_pool ?_

theorem execSetDone_cells {s0 : State} {h : ReqHdr} {setGen code : Nat} {s : State} (hK : Cells s0 s) : CellsOut s0
    (@execSetDone h setGen code s) := by
  unfold execSetDone
  with_reducible repeat' first
    | assumption | refine CellsOut.next ?_ | refine State.setIn_cells ?_ (fun v0F v1F hF => ?_)
    | refine State.settleOrders_cells ?_ | refine State.answerOrder_cells ?_ | refine State.sendOrder_cells ?_
    | refine Cells.ite (fun _ => ?_) (fun _ => ?_) | split | refine Cells.ite1 (fun _ => ?_) (fun _ => ?_)
    | dsimp -proj only | refine Cells.of_pair ?_ (by assumption)

theorem State.homeAccess_cells {s0 s : State} {kind : HomeReq} {h : ReqHdr} {addr need : Nat} {member : Bool} {k :
    State → Nat → Nat → State} (hK : Cells s0 s) (hk : ∀ (v0 : State) (v1 : Nat) (v2 : Nat), Cells s0 v0 → Cells s0 (k
    v0 v1 v2)) : Cells s0 (@State.homeAccess s kind h addr need member k) := by
  unfold State.homeAccess
  with_reducible repeat' first
    | assumption | apply hk | refine State.homeCpl_cells ?_ | refine State.countAccessFail_cells ?_
    | refine State.dataLost_cells ?_ | refine Cells.ite (fun _ => ?_) (fun _ => ?_) | split | dsimp -proj only

theorem State.applyHome_cells {s0 s : State} {t : Tracker} {cur : Line} {fromMember : Bool} (hK : Cells s0 s) : Cells
    s0 (@State.applyHome s t cur fromMember) := by
  unfold State.applyHome
  with_reducible repeat' first
    | assumption | refine State.queueWrite_cells ?_ | refine State.setTracker_cells ?_ | refine State.respond_cells ?_
    | refine State.retireAnswers_cells ?_ | refine Cells.ite (fun _ => ?_) (fun _ => ?_) | split | dsimp -proj only

theorem State.pastGuard_cells {s0 s : State} {kind : HomeReq} {h : ReqHdr} {addr : Nat} {k : State → State} (hK :
    Cells s0 s) (hk : ∀ (v0 : State), Cells s0 v0 → Cells s0 (k v0)) : Cells s0 (@State.pastGuard s kind h addr k) :=
    by
  unfold State.pastGuard
  with_reducible repeat' first
    | assumption | apply hk | refine State.homeCpl_cells ?_ | split | dsimp -proj only

theorem State.snoopsDone_cells {s0 s : State} {id : Nat} (hK : Cells s0 s) : Cells s0 (@State.snoopsDone s id) := by
  unfold State.snoopsDone
  with_reducible repeat' first
    | assumption | refine State.applyHome_cells ?_ | refine Cells.ite (fun _ => ?_) (fun _ => ?_) | split
    | dsimp -proj only

theorem State.joinWb_cells {s0 s : State} {t : Tracker} {h : ReqHdr} {data : Option Line} (hK : Cells s0 s) : Cells s0
    (@State.joinWb s t h data) := by
  unfold State.joinWb
  with_reducible repeat' first
    | assumption | refine State.snoopsDone_cells ?_ | refine State.cohCpl_cells ?_ | refine State.setTracker_cells ?_
    | refine Cells.ite (fun _ => ?_) (fun _ => ?_) | split | dsimp -proj only

theorem State.domainCmd_cells {s0 s : State} {c : RslCmd} {cmd : Nat} {k : State → State} (hK : Cells s0 s) (hk : ∀
    (v0 : State), Cells s0 v0 → Cells s0 (k v0)) : Cells s0 (@State.domainCmd s c cmd k) := by
  unfold State.domainCmd
  with_reducible repeat' first
    | assumption | apply hk | refine State.rslGate_cells ?_ (fun v0F hF => ?_)
    | refine State.poolGuard_cells ?_ (fun v0F v1F v2F hF => ?_) (fun v0F hF => ?_) | refine State.rslAnswer_cells ?_
    | dsimp -proj only

theorem execCohExtUnbind_cells {s0 : State} {c : RslCmd} {ext : Nat} {s : State} (hK : Cells s0 s) : CellsOut s0
    (@execCohExtUnbind c ext s) := by
  unfold execCohExtUnbind
  with_reducible repeat' first
    | assumption | refine CellsOut.next ?_ | refine State.domainCmd_cells ?_ (fun v0F hF => ?_)
    | refine State.rslAnswer_cells ?_ | refine State.clearValid_cells ?_ | refine State.setExt_cells ?_
    | refine State.orderMask_cells ?_ | refine Cells.ite (fun _ => ?_) (fun _ => ?_) | split | dsimp -proj only

theorem State.answerIn_cells {s0 s : State} {h : ReqHdr} {k : State → State} (hK : Cells s0 s) (hk : ∀ (v0 : State),
    Cells s0 v0 → Cells s0 (k v0)) : Cells s0 (@State.answerIn s h k) := by
  unfold State.answerIn
  with_reducible repeat' first
    | assumption | apply hk | refine State.bumpPort_cells ?_ | refine State.journalIn_cells ?_
    | refine State.forward_cells ?_ | refine Cells.ite (fun _ => ?_) (fun _ => ?_) | split | dsimp -proj only

theorem State.accepted_cells {s0 s : State} {hub : Nat} {h : ReqHdr} {code value : Nat} (hK : Cells s0 s) : Cells s0
    (@State.accepted s hub h code value) := by
  unfold State.accepted
  with_reducible repeat' first
    | assumption | refine State.commit_cells ?_ | dsimp -proj only

theorem execCohExtBind_cells {s0 : State} {c : RslCmd} {ext domain : Nat} {s : State} (hK : Cells s0 s) : CellsOut s0
    (@execCohExtBind c ext domain s) := by
  unfold execCohExtBind
  with_reducible repeat' first
    | assumption | refine CellsOut.next ?_ | refine State.domainCmd_cells ?_ (fun v0F hF => ?_)
    | refine State.rslAnswer_cells ?_ | refine State.clearValid_cells ?_ | refine State.setExt_cells ?_
    | refine State.orderMask_cells ?_ | refine Cells.ite (fun _ => ?_) (fun _ => ?_) | split | dsimp -proj only

theorem execCohDomainFree_cells {s0 : State} {c : RslCmd} {domain : Nat} {s : State} (hK : Cells s0 s) : CellsOut s0
    (@execCohDomainFree c domain s) := by
  unfold execCohDomainFree
  with_reducible repeat' first
    | assumption | refine CellsOut.next ?_ | refine State.domainCmd_cells ?_ (fun v0F hF => ?_)
    | refine State.rslAnswer_cells ?_ | refine State.zeroKey_cells ?_ | refine State.setDomain_cells ?_
    | refine State.domainOrder_cells ?_ | refine Cells.ite (fun _ => ?_) (fun _ => ?_) | split | dsimp -proj only

theorem State.homeRequest_cells {s0 s : State} {kind : HomeReq} {h : ReqHdr} {cls : Nat} {lens : List Nat} {mask :
    BitVec 32} {bad : Bool} {k : State → State} (hK : Cells s0 s) (hk : ∀ (v0 : State), Cells s0 v0 → Cells s0 (k v0))
    : Cells s0 (@State.homeRequest s kind h cls lens mask bad k) := by
  unfold State.homeRequest
  with_reducible repeat' first
    | assumption | apply hk | refine State.homeCpl_cells ?_
    | refine State.arrive_cells ?_ (fun v0F v1F v2F hF => ?_) (fun v0F hF => ?_) | refine State.countRecorded_cells ?_
    | refine State.colander_cells ?_ (fun v0F v1F v2F hF => ?_) (fun v0F hF => ?_)
    | refine Cells.ite (fun _ => ?_) (fun _ => ?_) | split | dsimp -proj only

theorem State.answerRequest_cells {s0 s : State} {kind : HomeReq} {h : ReqHdr} {lens : List Nat} {bad : Bool} {k :
    State → State} (hK : Cells s0 s) (hk : ∀ (v0 : State), Cells s0 v0 → Cells s0 (k v0)) : Cells s0
    (@State.answerRequest s kind h lens bad k) := by
  unfold State.answerRequest
  with_reducible repeat' first
    | assumption | apply hk | refine State.homeCpl_cells ?_
    | refine State.arrive_cells ?_ (fun v0F v1F v2F hF => ?_) (fun v0F hF => ?_)
    | refine Cells.ite (fun _ => ?_) (fun _ => ?_) | split | dsimp -proj only

theorem execHomeLineReadDone_cells {s0 : State} {tracker : Nat} {err : Err} {s : State} (hK : Cells s0 s) : CellsOut
    s0 (@execHomeLineReadDone tracker err s) := by
  unfold execHomeLineReadDone
  with_reducible repeat' first
    | assumption | refine CellsOut.next ?_ | refine State.bump_cells ?_ | refine State.readLine_cells ?_
    | refine State.homePoison_cells ?_ | refine State.protocolError_cells ?_ | refine State.setTracker_cells ?_
    | refine State.applyHome_cells ?_ | refine State.snoopAll_cells ?_ | refine Cells.ite (fun _ => ?_) (fun _ => ?_)
    | split | refine Cells.ite1 (fun _ => ?_) (fun _ => ?_) | dsimp -proj only
    | refine Cells.of_pair ?_ (by assumption)

theorem execCohDomainReset_cells {s0 : State} {c : RslCmd} {domain : Nat} {s : State} (hK : Cells s0 s) : CellsOut s0
    (@execCohDomainReset c domain s) := by
  unfold execCohDomainReset
  with_reducible repeat' first
    | assumption | refine CellsOut.next ?_ | refine State.domainCmd_cells ?_ (fun v0F hF => ?_)
    | refine State.rslAnswer_cells ?_ | refine State.loadKey_cells ?_ | refine State.setDomain_cells ?_
    | refine State.clearValid_cells ?_ | refine State.domainOrder_cells ?_ | refine State.domainNotices_cells ?_
    | refine Cells.foldl ?_ (fun sF xF hF => ?_) | refine Cells.foldl1 ?_ (fun sF xF hF => ?_)
    | refine Cells.ite (fun _ => ?_) (fun _ => ?_) | split | dsimp -proj only
    | refine Cells.of_pair ?_ (by assumption)

theorem execRdNc_cells {s0 : State} {h : ReqHdr} {addr maskOrDomain : Nat} {err : Err} {s : State} (hK : Cells s0 s) :
    CellsOut s0 (@execRdNc h addr maskOrDomain err s) := by
  unfold execRdNc
  with_reducible repeat' first
    | assumption | refine CellsOut.next ?_ | refine State.homeRequest_cells ?_ (fun v0F hF => ?_)
    | refine State.homeAccess_cells ?_ (fun v0F v1F v2F hF => ?_) | refine State.pastGuard_cells ?_ (fun v0F hF => ?_)
    | refine State.admitHome_cells ?_ | refine State.bump_cells ?_ | refine State.readLine_cells ?_
    | refine State.cohCpl_cells ?_ | refine State.rdData_cells ?_ | refine Cells.ite (fun _ => ?_) (fun _ => ?_)
    | split | refine Cells.ite1 (fun _ => ?_) (fun _ => ?_) | dsimp -proj only
    | refine Cells.of_pair ?_ (by assumption)

theorem execSnpAck_cells {s0 : State} {h : ReqHdr} {s : State} (hK : Cells s0 s) : CellsOut s0 (@execSnpAck h s) := by
  unfold execSnpAck
  with_reducible repeat' first
    | assumption | refine CellsOut.next ?_ | refine State.answerIn_cells ?_ (fun v0F hF => ?_)
    | refine State.staleAnswer_cells ?_ | refine State.protocolError_cells ?_ | refine State.journalOut_cells ?_
    | refine State.snoopsDone_cells ?_ | refine State.setTracker_cells ?_
    | refine Cells.ite (fun _ => ?_) (fun _ => ?_) | split | dsimp -proj only

theorem State.answerAccess_cells {s0 s : State} {kind : HomeReq} {h : ReqHdr} {addr : Nat} {k : State → Nat → Nat →
    State} (hK : Cells s0 s) (hk : ∀ (v0 : State) (v1 : Nat) (v2 : Nat), Cells s0 v0 → Cells s0 (k v0 v1 v2)) : Cells
    s0 (@State.answerAccess s kind h addr k) := by
  unfold State.answerAccess
  with_reducible repeat' first
    | assumption | apply hk | refine State.homeCpl_cells ?_ | refine State.bump_cells ?_
    | refine State.dataLost_cells ?_ | refine Cells.ite (fun _ => ?_) (fun _ => ?_) | split | dsimp -proj only

theorem execCohDomainCreate_cells {s0 : State} {c : RslCmd} {tenant : Nat} {s : State} (hK : Cells s0 s) : CellsOut s0
    (@execCohDomainCreate c tenant s) := by
  unfold execCohDomainCreate
  with_reducible repeat' first
    | assumption | refine CellsOut.next ?_ | refine State.domainCmd_cells ?_ (fun v0F hF => ?_)
    | refine State.rslAnswer_cells ?_ | refine State.loadKey_cells ?_ | refine State.setDomain_cells ?_
    | refine State.domainOrder_cells ?_ | refine Cells.ite (fun _ => ?_) (fun _ => ?_) | split
    | refine Cells.ite1 (fun _ => ?_) (fun _ => ?_) | dsimp -proj only

theorem execAtomic_cells {s0 : State} {h : ReqHdr} {addr maskOrDomain : Nat} {operand : BitVec 256} {err : Err} {s :
    State} (hK : Cells s0 s) : CellsOut s0 (@execAtomic h addr maskOrDomain operand err s) := by
  unfold execAtomic
  with_reducible repeat' first
    | assumption | refine CellsOut.next ?_ | refine State.homeRequest_cells ?_ (fun v0F hF => ?_)
    | refine State.homeAccess_cells ?_ (fun v0F v1F v2F hF => ?_) | refine State.pastGuard_cells ?_ (fun v0F hF => ?_)
    | refine State.admitHome_cells ?_ | refine State.queueWrite_cells ?_
    | refine Cells.ite (fun _ => ?_) (fun _ => ?_) | split | dsimp -proj only

theorem execWrNc_cells {s0 : State} {h : ReqHdr} {addr : Nat} {mask : BitVec 64} {data : Line} {err : Err} {s : State}
    (hK : Cells s0 s) : CellsOut s0 (@execWrNc h addr mask data err s) := by
  unfold execWrNc
  with_reducible repeat' first
    | assumption | refine CellsOut.next ?_ | refine State.homeRequest_cells ?_ (fun v0F hF => ?_)
    | refine State.homeAccess_cells ?_ (fun v0F v1F v2F hF => ?_) | refine State.pastGuard_cells ?_ (fun v0F hF => ?_)
    | refine State.admitHome_cells ?_ | refine State.queueWrite_cells ?_
    | refine Cells.ite (fun _ => ?_) (fun _ => ?_) | split | dsimp -proj only

theorem execWbDirty_cells {s0 : State} {h : ReqHdr} {addr : Nat} {mask : BitVec 64} {data : Line} {s : State} (hK :
    Cells s0 s) : CellsOut s0 (@execWbDirty h addr mask data s) := by
  unfold execWbDirty
  with_reducible repeat' first
    | assumption | refine CellsOut.next ?_ | refine State.answerRequest_cells ?_ (fun v0F hF => ?_)
    | refine State.joinWb_cells ?_ | refine State.countRecorded_cells ?_ | refine State.cohCpl_cells ?_
    | refine State.answerAccess_cells ?_ (fun v0F v1F v2F hF => ?_) | refine State.markAnswer_cells ?_
    | refine State.openTracker_cells ?_ | refine Cells.ite (fun _ => ?_) (fun _ => ?_) | split | dsimp -proj only

theorem State.atHub_cells {s0 s : State} {key : Nat} {k : State → State × LineRes} (hK : Cells s0 s) (hk : ∀ (v0 :
    State), Cells s0 v0 → Cells s0 (k v0).1) : Cells s0 (@State.atHub s key k).1 := by
  unfold State.atHub
  with_reducible repeat' first
    | assumption | apply hk | refine State.bump_cells ?_ | refine Cells.ite1 (fun _ => ?_) (fun _ => ?_) | split
    | dsimp -proj only

theorem State.coachRead_cells {s0 s : State} {owner : Nat} {d : Desc} {place pa key : Nat} {err : Err} (hK : Cells s0
    s) : Cells s0 (@State.coachRead s owner d place pa key err).1 := by
  unfold State.coachRead
  with_reducible repeat' first
    | assumption | refine State.useLine_cells ?_ | refine State.coachEnter_cells ?_
    | refine State.atHub_cells ?_ (fun v0F hF => ?_) | refine State.readLine_cells ?_
    | refine Cells.ite1 (fun _ => ?_) (fun _ => ?_) | split | dsimp -proj only
    | refine Cells.of_pair ?_ (by assumption)

theorem State.reduceScales_cells {s0 s : State} {owner : Nat} {d : Desc} {lines : List (Nat × Nat)} {per j : Nat} (hK
    : Cells s0 s) : Cells s0 (@State.reduceScales s owner d lines per j).1 := by
  unfold State.reduceScales
  with_reducible repeat' first
    | assumption | refine State.coachRead_cells ?_ | refine Cells.ite1 (fun _ => ?_) (fun _ => ?_) | split
    | dsimp -proj only | refine Cells.of_pair ?_ (by assumption)

theorem State.readSome_cells {s0 s : State} {owner : Nat} {d : Desc} {l : List (Nat × Nat)} {pos n : Nat}
    (hK : Cells s0 s) : Cells s0 (State.readSome s owner d l pos n).1 := by
  induction n generalizing s l pos with
  | zero =>
    cases l <;> rw [State.readSome] <;> exact hK
  | succ n ih =>
    cases l with
    | nil =>
      rw [State.readSome]
      with_reducible exact Cells.ite1 (fun _ => ih (l := []) hK) (fun _ => hK)
    | cons p ps' =>
      have h1 := State.coachRead_cells (owner := owner) (d := d) (place := pos) (pa := p.1) (key := p.2) (err := []) hK
      rw [State.readSome]
      split
      · next s' l' e => exact ih (Cells.of_pair h1 e)
      · next s' r' _ e => exact Cells.of_pair h1 e

theorem State.coachSend_cells {s0 s : State} {owner engine : Nat} {d : Desc} {y4 : Nat} (hK : Cells s0 s) : Cells s0
    (@State.coachSend s owner engine d y4).1 := by
  unfold State.coachSend
  with_reducible repeat' first
    | assumption | refine State.readSome_cells ?_ | refine State.countMoved_cells ?_ | refine State.send_cells ?_
    | refine State.coachSend_cells ?_ | refine Cells.ite1 (fun _ => ?_) (fun _ => ?_) | split | dsimp -proj only
    | refine Cells.of_pair ?_ (by assumption)

theorem State.coachOutput_cells {s0 s : State} {d : Desc} (hK : Cells s0 s) : Cells s0 (@State.coachOutput s d) := by
  unfold State.coachOutput
  with_reducible repeat' first
    | assumption | refine State.coachSend_cells ?_ | refine State.setDesc_cells ?_ | split
    | refine Cells.ite1 (fun _ => ?_) (fun _ => ?_) | dsimp -proj only | refine Cells.of_pair ?_ (by assumption)

theorem execEngineDispatch_cells {s0 : State} {engine : Nat} {s : State} (hK : Cells s0 s) : CellsOut s0
    (@execEngineDispatch engine s) := by
  unfold execEngineDispatch
  with_reducible repeat' first
    | assumption | refine CellsOut.next ?_ | refine State.setDesc_cells ?_ | refine State.coachOutput_cells ?_
    | refine Cells.ite (fun _ => ?_) (fun _ => ?_) | split | dsimp -proj only | refine cells_coach ?_

theorem execCoachAck_cells {s0 : State} {h : ReqHdr} {s : State} (hK : Cells s0 s) : CellsOut s0 (@execCoachAck h s)
    := by
  unfold execCoachAck
  with_reducible repeat' first
    | assumption | refine CellsOut.next ?_ | refine State.answerIn_cells ?_ (fun v0F hF => ?_)
    | refine State.journalOut_cells ?_ | refine State.bump_cells ?_ | refine State.coachOutput_cells ?_
    | refine State.setDesc_cells ?_ | refine Cells.ite (fun _ => ?_) (fun _ => ?_) | split | dsimp -proj only

theorem State.wipeAcc_cells {s0 s : State} {x : Buf} (hK : Cells s0 s) : Cells s0 (@State.wipeAcc s x) := by
  unfold State.wipeAcc
  with_reducible repeat' first
    | assumption | refine State.wipePages_cells ?_ | refine Cells.foldl ?_ (fun sF xF hF => ?_)
    | refine Cells.foldl1 ?_ (fun sF xF hF => ?_) | refine Cells.ite (fun _ => ?_) (fun _ => ?_) | split
    | dsimp -proj only | refine Cells.of_pair ?_ (by assumption)

theorem redOpenAct_cells {s0 : State} {v : Via} {a : RedArgs} {s : State} (hK : Cells s0 s) : Cells s0 (@redOpenAct v
    a s) := by
  unfold redOpenAct
  with_reducible repeat' first
    | assumption | refine State.redCpl_cells ?_ | refine State.bump_cells ?_ | refine State.setBuf_cells ?_
    | refine State.wipeAcc_cells ?_ | refine Cells.ite (fun _ => ?_) (fun _ => ?_) | split
    | refine Cells.ite1 (fun _ => ?_) (fun _ => ?_) | dsimp -proj only

theorem execRedOpen_cells {s0 : State} {v : Via} {a : RedArgs} {s : State} (hK : Cells s0 s) : CellsOut s0
    (@execRedOpen v a s) := by
  unfold execRedOpen
  with_reducible repeat' first
    | assumption | refine CellsOut.next ?_ | refine State.redCpl_cells ?_
    | refine State.classThree_cells ?_ (fun v0F v1F v2F hF => ?_) (fun v0F hF => ?_) | refine redOpenAct_cells ?_
    | dsimp -proj only

theorem State.redNamed_cells {s0 s : State} {v : Via} {cmd buf : Nat} {resv : Bool} {right : Buf → Bool} {k : Buf →
    State} (hK : Cells s0 s) (hk : ∀ (v0 : Buf), Cells s0 (k v0)) : Cells s0 (@State.redNamed s v cmd buf resv right
    k) := by
  unfold State.redNamed
  with_reducible repeat' first
    | assumption | apply hk | refine State.redCpl_cells ?_ | refine Cells.ite (fun _ => ?_) (fun _ => ?_) | split
    | dsimp -proj only

theorem redResetAct_cells {s0 : State} {v : Via} {buf seed resv : Nat} {s : State} (hK : Cells s0 s) : Cells s0
    (@redResetAct v buf seed resv s) := by
  unfold redResetAct
  with_reducible repeat' first
    | assumption | refine State.redNamed_cells ?_ (fun v0F => ?_) | refine State.redCpl_cells ?_
    | refine State.dropJobs_cells ?_ | refine State.setBuf_cells ?_ | refine State.wipeAcc_cells ?_
    | refine Cells.ite (fun _ => ?_) (fun _ => ?_) | split | dsimp -proj only | refine cells_stock ?_

theorem execRedReset_cells {s0 : State} {v : Via} {buf seed resv : Nat} {s : State} (hK : Cells s0 s) : CellsOut s0
    (@execRedReset v buf seed resv s) := by
  unfold execRedReset
  with_reducible repeat' first
    | assumption | refine CellsOut.next ?_ | refine State.redCpl_cells ?_
    | refine State.classThree_cells ?_ (fun v0F v1F v2F hF => ?_) (fun v0F hF => ?_) | refine redResetAct_cells ?_
    | dsimp -proj only

theorem State.pubCommand_cells {s0 s : State} {v : Via} {cmd : Nat} {k : State → State} (hK : Cells s0 s) (hk : ∀ (v0
    : State), Cells s0 v0 → Cells s0 (k v0)) : Cells s0 (@State.pubCommand s v cmd k) := by
  unfold State.pubCommand
  with_reducible repeat' first
    | assumption | apply hk | refine State.pubCpl_cells ?_
    | refine State.classThree_cells ?_ (fun v0F v1F v2F hF => ?_) (fun v0F hF => ?_)
    | refine State.poolGuard_cells ?_ (fun v0F v1F v2F hF => ?_) (fun v0F hF => ?_)
    | refine Cells.ite (fun _ => ?_) (fun _ => ?_) | split | dsimp -proj only

theorem State.regionNamed_cells {s0 s : State} {v : Via} {cmd region : Nat} {bad deletingToo : Bool} {k : Region →
    State} (hK : Cells s0 s) (hk : ∀ (v0 : Region), Cells s0 (k v0)) : Cells s0 (@State.regionNamed s v cmd region bad
    deletingToo k) := by
  unfold State.regionNamed
  with_reducible repeat' first
    | assumption | apply hk | refine State.pubCpl_cells ?_ | refine Cells.ite (fun _ => ?_) (fun _ => ?_) | split
    | dsimp -proj only

theorem execOpenSweepDone_cells {s0 : State} {ppn : Nat} {s : State} (hK : Cells s0 s) : CellsOut s0
    (@execOpenSweepDone ppn s) := by
  unfold execOpenSweepDone
  with_reducible repeat' first
    | assumption | refine CellsOut.next ?_ | refine State.logChange_cells ?_
    | refine Cells.ite (fun _ => ?_) (fun _ => ?_) | split | dsimp -proj only | refine cells_mem ?_ rfl

theorem State.passEnds_cells {s0 s : State} {n : Nat} (hK : Cells s0 s) : Cells s0 (@State.passEnds s n) := by
  unfold State.passEnds
  with_reducible repeat' first
    | assumption | refine Cells.ite (fun _ => ?_) (fun _ => ?_) | refine State.bump_cells ?_ | refine State.setChannel_cells ?_
    | refine Cells.foldl ?_ (fun sF xF hF => ?_) | refine Cells.foldl1 ?_ (fun sF xF hF => ?_) | dsimp -proj only
    | refine Cells.of_pair ?_ (by assumption)

theorem execStackOvfHalve_cells {s0 s : State} (hK : Cells s0 s) : CellsOut s0 (@execStackOvfHalve s) := by
  unfold execStackOvfHalve
  with_reducible repeat' first
    | assumption | refine CellsOut.next ?_ | refine Cells.ite (fun _ => ?_) (fun _ => ?_) | split | dsimp -proj only
    | refine cells_mem ?_ rfl

theorem State.rowError_cells {s0 s : State} {die array row : Nat} (hK : Cells s0 s) : Cells s0 (@State.rowError s die
    array row) := by
  unfold State.rowError
  with_reducible repeat' first
    | assumption | refine Cells.ite (fun _ => ?_) (fun _ => ?_) | split | dsimp -proj only | refine cells_mem ?_ rfl

theorem State.logKeyCe_cells {s0 s : State} {row : Nat} (hK : Cells s0 s) : Cells s0 (@State.logKeyCe s row) := by
  unfold State.logKeyCe
  with_reducible repeat' first
    | assumption | refine State.logCe_cells ?_ | dsimp -proj only | refine cells_fresh ?_

theorem execSramCorrectable_cells {s0 : State} {die array row : Nat} {s : State} (hK : Cells s0 s) : CellsOut s0
    (@execSramCorrectable die array row s) := by
  unfold execSramCorrectable
  with_reducible repeat' first
    | assumption | refine CellsOut.next ?_ | refine Cells.ite (fun _ => ?_) (fun _ => ?_) | refine State.rowError_cells ?_
    | refine State.logKeyCe_cells ?_

theorem State.rememberCe_cells {s0 s : State} {hub key sym : Nat} (hK : Cells s0 s) : Cells s0 (@State.rememberCe s
    hub key sym) := by
  unfold State.rememberCe
  with_reducible repeat' first
    | assumption | refine Cells.ite1 (fun _ => ?_) (fun _ => ?_) | dsimp -proj only | refine cells_mem ?_ rfl

theorem State.poisonPage_cells {s0 s : State} {ppn : Nat} (hK : Cells s0 s) : Cells s0 (@State.poisonPage s ppn) := by
  unfold State.poisonPage
  with_reducible repeat' first
    | assumption | refine State.setMeta_cells ?_ | refine Cells.foldl ?_ (fun sF xF hF => ?_)
    | refine Cells.foldl1 ?_ (fun sF xF hF => ?_) | dsimp -proj only | refine Cells.of_pair ?_ (by assumption)

theorem State.switchPage_cells {s0 s : State} {ppn : Nat} {mv : Move} (hK : Cells s0 s) : Cells s0 (@State.switchPage
    s ppn mv) := by
  unfold State.switchPage
  with_reducible repeat' first
    | assumption | refine State.bump_cells ?_ | refine State.raise_cells ?_
    | refine Cells.ite (fun _ => ?_) (fun _ => ?_) | split | dsimp -proj only | refine cells_mem ?_ rfl

theorem State.settleMigration_cells {s0 s : State} (hK : Cells s0 s) : Cells s0 (@State.settleMigration s) := by
  unfold State.settleMigration
  with_reducible repeat' first
    | assumption | refine State.raise_cells ?_ | refine State.setStack_cells ?_ | split | dsimp -proj only

theorem State.remapSwitches_cells {s0 s : State} (hK : Cells s0 s) : Cells s0 (@State.remapSwitches s) := by
  unfold State.remapSwitches
  with_reducible repeat' first
    | assumption | refine State.switchPage_cells ?_ | refine State.logChange_cells ?_
    | refine State.settleMigration_cells ?_ | refine Cells.foldl ?_ (fun sF xF hF => ?_)
    | refine Cells.foldl1 ?_ (fun sF xF hF => ?_) | refine Cells.ite (fun _ => ?_) (fun _ => ?_) | split
    | refine Cells.ite1 (fun _ => ?_) (fun _ => ?_) | dsimp -proj only | refine Cells.of_pair ?_ (by assumption)

theorem State.argRefuse_cells {s0 s : State} {v : Via} {f : Nat × Nat} {no : State → Nat → Nat → State} (hK : Cells s0
    s) (hno : ∀ (v0 : State) (v1 : Nat) (v2 : Nat), Cells s0 v0 → Cells s0 (no v0 v1 v2)) : Cells s0 (@State.argRefuse
    s v f no) := by
  unfold State.argRefuse
  with_reducible repeat' first
    | assumption | apply hno | refine State.countAccessFail_cells ?_ | refine Cells.ite (fun _ => ?_) (fun _ => ?_)
    | split | refine Cells.ite1 (fun _ => ?_) (fun _ => ?_) | dsimp -proj only

theorem State.judgeLevel_cells {s0 s : State} (hK : Cells s0 s) : Cells s0 (@State.judgeLevel s) := by
  unfold State.judgeLevel
  with_reducible repeat' first
    | assumption | refine State.raise_cells ?_ | refine Cells.ite (fun _ => ?_) (fun _ => ?_) | split
    | dsimp -proj only | refine cells_mem ?_ rfl

theorem State.stackDead_cells {s0 s : State} {n : Nat} (hK : Cells s0 s) : Cells s0 (@State.stackDead s n) := by
  unfold State.stackDead
  with_reducible repeat' first
    | assumption | refine State.setStack_cells ?_ | refine State.retirePage_cells ?_
    | refine Cells.foldl ?_ (fun sF xF hF => ?_) | refine Cells.foldl1 ?_ (fun sF xF hF => ?_)
    | refine Cells.ite (fun _ => ?_) (fun _ => ?_) | split | refine Cells.ite1 (fun _ => ?_) (fun _ => ?_)
    | dsimp -proj only | refine Cells.of_pair ?_ (by assumption) | refine cells_mem ?_ rfl

theorem State.retryRetire_cells {s0 s : State} (hK : Cells s0 s) : Cells s0 (@State.retryRetire s) := by
  unfold State.retryRetire
  with_reducible repeat' first
    | assumption | refine State.retirePage_cells ?_ | refine Cells.foldl ?_ (fun sF xF hF => ?_)
    | refine Cells.foldl1 ?_ (fun sF xF hF => ?_) | dsimp -proj only | refine Cells.of_pair ?_ (by assumption)
    | refine cells_mem ?_ rfl

theorem execStackRemove_cells {s0 : State} {c : RslCmd} {stack : Nat} {s : State} (hK : Cells s0 s) : CellsOut s0
    (@execStackRemove c stack s) := by
  unfold execStackRemove
  with_reducible repeat' first
    | assumption | refine CellsOut.next ?_ | refine State.rslGate_cells ?_ (fun v0F hF => ?_)
    | refine State.rslAnswer_cells ?_ | refine State.startMigration_cells ?_
    | refine Cells.ite (fun _ => ?_) (fun _ => ?_) | split | dsimp -proj only

theorem execCalibrationSlot_cells {s0 : State} {channel : Nat} {s : State} (hK : Cells s0 s) : CellsOut s0
    (@execCalibrationSlot channel s) := by
  unfold execCalibrationSlot
  with_reducible repeat' first
    | assumption | refine CellsOut.next ?_ | refine State.setChannel_cells ?_ | refine State.raise_cells ?_
    | refine Cells.foldl ?_ (fun sF xF hF => ?_) | refine Cells.ite (fun _ => ?_) (fun _ => ?_) | split | dsimp -proj only

theorem execCeBucketLeak_cells {s0 s : State} (hK : Cells s0 s) : CellsOut s0 (@execCeBucketLeak s) := by
  unfold execCeBucketLeak
  with_reducible repeat' first
    | assumption | refine CellsOut.next ?_ | refine Cells.ite (fun _ => ?_) (fun _ => ?_) | split | dsimp -proj only
    | refine cells_mem ?_ rfl

theorem State.spareRows_cells {s0 s : State} (hK : Cells s0 s) : Cells s0 (@State.spareRows s) := by
  unfold State.spareRows
  with_reducible repeat' first
    | assumption | refine State.bump_cells ?_ | refine State.raise_cells ?_
    | refine Cells.foldl ?_ (fun sF xF hF => ?_) | refine Cells.foldl1 ?_ (fun sF xF hF => ?_)
    | refine Cells.ite (fun _ => ?_) (fun _ => ?_) | split | refine Cells.ite1 (fun _ => ?_) (fun _ => ?_)
    | dsimp -proj only | refine Cells.of_pair ?_ (by assumption) | refine cells_mem ?_ rfl

theorem execStackReturn_cells {s0 : State} {c : RslCmd} {stack : Nat} {s : State} (hK : Cells s0 s) : CellsOut s0
    (@execStackReturn c stack s) := by
  unfold execStackReturn
  with_reducible repeat' first
    | assumption | refine CellsOut.next ?_ | refine State.rslGate_cells ?_ (fun v0F hF => ?_)
    | refine State.rslAnswer_cells ?_ | refine State.raiseStack_cells ?_ | refine State.setStack_cells ?_
    | refine Cells.ite (fun _ => ?_) (fun _ => ?_) | split | dsimp -proj only

theorem execCeLogRead_cells {s0 : State} {c : RslCmd} {s : State} (hK : Cells s0 s) : CellsOut s0 (@execCeLogRead c s)
    := by
  unfold execCeLogRead
  with_reducible repeat' first
    | assumption | refine CellsOut.next ?_ | refine State.rslGate_cells ?_ (fun v0F hF => ?_)
    | refine State.logChange_cells ?_ | refine State.rslAnswer_cells ?_ | dsimp -proj only | refine cells_mem ?_ rfl

theorem State.onControl_cells {s0 s : State} {n : Nat} {f : RawFlit} {typ : Nat} {k : State → State} (hK : Cells s0 s)
    (hk : ∀ (v0 : State), Cells s0 v0 → Cells s0 (k v0)) : Cells s0 (@State.onControl s n f typ k) := by
  unfold State.onControl
  with_reducible repeat' first
    | assumption | apply hk | refine State.bumpPort_cells ?_ | refine State.badFlit_cells ?_
    | refine State.malformed_cells ?_ | refine State.goodFlit_cells ?_ | refine Cells.ite (fun _ => ?_) (fun _ => ?_)
    | split | dsimp -proj only

theorem State.control_cells {s0 s : State} {n : Nat} {f : RawFlit} {typ : Nat} {k : State → State} (hK : Cells s0 s)
    (hk : ∀ (v0 : State), Cells s0 v0 → Cells s0 (k v0)) : Cells s0 (@State.control s n f typ k) := by
  unfold State.control
  with_reducible repeat' first
    | assumption | apply hk | refine State.onControl_cells ?_ (fun v0F hF => ?_)
    | refine Cells.ite (fun _ => ?_) (fun _ => ?_) | split | dsimp -proj only

theorem State.loseCounts_cells {s0 s : State} {bad : Nat → Bool} (hK : Cells s0 s) : Cells s0 (@State.loseCounts s
    bad) := by
  unfold State.loseCounts
  with_reducible repeat' first
    | assumption | refine Cells.ite1 (fun _ => ?_) (fun _ => ?_) | dsimp -proj only | refine cells_mem ?_ rfl

theorem State.stackSteps_cells {s0 s : State} {p : Nat} (hK : Cells s0 s) : Cells s0 (@State.stackSteps s p) := by
  unfold State.stackSteps
  with_reducible repeat' first
    | assumption | refine State.setStack_cells ?_ | refine Cells.ite (fun _ => ?_) (fun _ => ?_) | split
    | dsimp -proj only

theorem State.judgePart_cells {s0 s : State} {sensor : Nat} (hK : Cells s0 s) : Cells s0 (@State.judgePart s sensor)
    := by
  unfold State.judgePart
  with_reducible repeat' first
    | assumption | refine State.stackSteps_cells ?_ | refine State.setPart_cells ?_ | refine State.raise_cells ?_
    | refine State.poolFatal_cells ?_ | refine Cells.foldl ?_ (fun sF xF hF => ?_)
    | refine Cells.foldl1 ?_ (fun sF xF hF => ?_) | refine Cells.ite (fun _ => ?_) (fun _ => ?_) | split
    | dsimp -proj only | refine Cells.of_pair ?_ (by assumption) | refine cells_power ?_

theorem State.sampleTemp_cells {s0 s : State} {n : Nat} {value : BitVec 16} {fault : Bool} (hK : Cells s0 s) : Cells
    s0 (@State.sampleTemp s n value fault) := by
  unfold State.sampleTemp
  with_reducible repeat' first
    | assumption | refine State.setMon_cells ?_ | refine State.raise_cells ?_ | refine State.stackSteps_cells ?_
    | refine State.setPart_cells ?_ | refine State.judgePart_cells ?_ | refine Cells.ite (fun _ => ?_) (fun _ => ?_)
    | split | dsimp -proj only

theorem execMonitorSample_cells {s0 : State} {mon : Nat} {value : BitVec 16} {fault : Bool} {s : State} (hK : Cells s0
    s) : CellsOut s0 (@execMonitorSample mon value fault s) := by
  unfold execMonitorSample
  with_reducible repeat' first
    | assumption | refine CellsOut.next ?_ | refine State.sampleTemp_cells ?_ | refine State.sampleRail_cells ?_
    | refine State.sampleProcess_cells ?_ | refine Cells.ite (fun _ => ?_) (fun _ => ?_) | split | dsimp -proj only

theorem execThermalStepUndo_cells {s0 : State} {part : Nat} {s : State} (hK : Cells s0 s) : CellsOut s0
    (@execThermalStepUndo part s) := by
  unfold execThermalStepUndo
  with_reducible repeat' first
    | assumption | refine CellsOut.next ?_ | refine State.stackSteps_cells ?_ | refine State.setPart_cells ?_
    | refine Cells.ite (fun _ => ?_) (fun _ => ?_) | split | dsimp -proj only

theorem State.shiftTables_cells {s0 s : State} {d : Int} (hK : Cells s0 s) : Cells s0 (@State.shiftTables s d) := by
  unfold State.shiftTables
  with_reducible repeat' first
    | assumption | refine Cells.ite1 (fun _ => ?_) (fun _ => ?_) | dsimp -proj only
    | refine cells_ports_fab_pool_coh_coach_repro_mem ?_ rfl

theorem State.nextEpoch_cells {s0 s : State} (hK : Cells s0 s) : Cells s0 (@State.nextEpoch s) := by
  unfold State.nextEpoch
  with_reducible repeat' first
    | assumption | refine State.cancelLaunches_cells ?_ | refine State.shiftTables_cells ?_
    | refine State.shiftControl_cells ?_ | refine Cells.ite (fun _ => ?_) (fun _ => ?_) | split | dsimp -proj only
    | refine cells_clk ?_

theorem State.boundaryMemory_cells {s0 s : State} (hK : Cells s0 s) : Cells s0 (@State.boundaryMemory s) := by
  unfold State.boundaryMemory
  with_reducible repeat' first
    | assumption | refine State.judgeLevel_cells ?_ | refine State.retryRetire_cells ?_
    | refine State.spareRows_cells ?_ | dsimp -proj only

theorem State.atEpoch_cells {s0 s : State} {e : Nat} {f : State → State} (hK : Cells s0 s) (hf : ∀ (v0 : State), Cells
    s0 v0 → Cells s0 (f v0)) : Cells s0 (@State.atEpoch s e f) := by
  unfold State.atEpoch
  with_reducible repeat' first
    | assumption | apply hf | dsimp -proj only | refine cells_clk ?_

theorem State.stateCopy_cells {s0 s : State} (hK : Cells s0 s) : Cells s0 (@State.stateCopy s) := by
  unfold State.stateCopy
  with_reducible repeat' first
    | assumption | refine State.writeResume_cells ?_ | refine State.writeCut_cells ?_
    | refine State.journalHeld_cells ?_ | refine State.remapSwitches_cells ?_
    | refine Cells.ite (fun _ => ?_) (fun _ => ?_) | split | dsimp -proj only

theorem State.undoImport_cells {s0 s : State} {n : Nat} (hK : Cells s0 s) : Cells s0 (@State.undoImport s n) := by
  unfold State.undoImport
  with_reducible repeat' first
    | assumption | refine State.setExt_cells ?_ | refine State.freeSlot_cells ?_ | refine State.clearValid_cells ?_
    | refine Cells.ite (fun _ => ?_) (fun _ => ?_) | split | dsimp -proj only

theorem State.changeRoot_cells {s0 s : State} (hK : Cells s0 s) : Cells s0 (@State.changeRoot s) := by
  unfold State.changeRoot
  with_reducible repeat' first
    | assumption | refine State.undoImport_cells ?_ | refine Cells.foldl ?_ (fun sF xF hF => ?_)
    | refine Cells.foldl1 ?_ (fun sF xF hF => ?_) | refine Cells.ite1 (fun _ => ?_) (fun _ => ?_) | dsimp -proj only
    | refine Cells.of_pair ?_ (by assumption) | refine cells_sec ?_

theorem State.loseUncopied_cells {s0 s : State} (hK : Cells s0 s) : Cells s0 (@State.loseUncopied s) := by
  unfold State.loseUncopied
  with_reducible repeat' first
    | assumption | refine State.loseStore_cells ?_ | refine State.changeRoot_cells ?_
    | refine State.emptyStore_cells ?_ | refine Cells.foldl ?_ (fun sF xF hF => ?_)
    | refine Cells.foldl1 ?_ (fun sF xF hF => ?_) | refine Cells.ite (fun _ => ?_) (fun _ => ?_) | split
    | dsimp -proj only | refine Cells.of_pair ?_ (by assumption)
    | refine cells_boot_fab_coh_coach_stock_mem_sec ?_ rfl

theorem State.rotateLists_cells {s0 s : State} {hub : Nat} (hK : Cells s0 s) : Cells s0 (@State.rotateLists s hub) :=
    by
  unfold State.rotateLists
  with_reducible repeat' first
    | assumption | refine Cells.ite (fun _ => ?_) (fun _ => ?_) | split | dsimp -proj only | refine cells_mem ?_ rfl

theorem State.halveCounts_cells {s0 s : State} {hub : Nat} (hK : Cells s0 s) : Cells s0 (@State.halveCounts s hub) :=
    by
  unfold State.halveCounts
  with_reducible repeat' first
    | assumption | refine Cells.ite (fun _ => ?_) (fun _ => ?_) | split
    | refine Cells.ite1 (fun _ => ?_) (fun _ => ?_) | dsimp -proj only | refine cells_mem ?_ rfl

theorem execHubEpochBoundary_cells {s0 : State} {hub : Nat} {mark : Bool} {s : State} (hK : Cells s0 s) : CellsOut s0
    (@execHubEpochBoundary hub mark s) := by
  unfold execHubEpochBoundary
  with_reducible repeat' first
    | assumption | refine CellsOut.next ?_ | refine State.setOb_cells ?_ | refine State.markMissing_cells ?_
    | refine State.missList_cells ?_ | refine State.rotateLists_cells ?_ | refine State.halveCounts_cells ?_
    | refine Cells.ite (fun _ => ?_) (fun _ => ?_) | split | dsimp -proj only | refine cells_twin ?_

theorem State.clearCounts_cells {s0 s : State} {hub : Nat} (hK : Cells s0 s) : Cells s0 (@State.clearCounts s hub) :=
    by
  unfold State.clearCounts
  with_reducible repeat' first
    | assumption | refine Cells.ite1 (fun _ => ?_) (fun _ => ?_) | dsimp -proj only | refine cells_mem ?_ rfl

theorem execSramUncorrectable_cells {s0 : State} {die array index : Nat} {s : State} (hK : Cells s0 s) : CellsOut s0
    (@execSramUncorrectable die array index s) := by
  unfold execSramUncorrectable
  with_reducible repeat' first
    | assumption | refine CellsOut.next ?_ | refine State.activeStops_cells ?_ | refine State.failBlock_cells ?_
    | refine State.loseTender_cells ?_ | refine State.clearCounts_cells ?_ | refine State.portArrayLost_cells ?_
    | refine Cells.ite (fun _ => ?_) (fun _ => ?_) | split | dsimp -proj only | refine cells_mem ?_ rfl

theorem State.loadTenantKeys_cells {s0 s : State} (hK : Cells s0 s) : Cells s0 (@State.loadTenantKeys s) := by
  unfold State.loadTenantKeys
  with_reducible repeat' first
    | assumption | refine Cells.ite1 (fun _ => ?_) (fun _ => ?_) | dsimp -proj only | refine cells_mem_fresh ?_ rfl

theorem State.loadModule_cells {s0 s : State} (hK : Cells s0 s) : Cells s0 (@State.loadModule s) := by
  unfold State.loadModule
  with_reducible repeat' first
    | assumption | refine State.loadTenantKeys_cells ?_ | refine State.raise_cells ?_
    | refine Cells.ite (fun _ => ?_) (fun _ => ?_) | split | dsimp -proj only | refine cells_boot_fab ?_

theorem execLoadStageDone_cells {s0 s : State} (hK : Cells s0 s) : CellsOut s0 (@execLoadStageDone s) := by
  unfold execLoadStageDone
  with_reducible repeat' first
    | assumption | refine CellsOut.next ?_ | refine State.imageFails_cells ?_ | refine State.releaseAllTokens_cells ?_
    | refine State.loadModule_cells ?_ | refine Cells.ite (fun _ => ?_) (fun _ => ?_) | split | dsimp -proj only

theorem State.readLines_cells {s0 s : State} {addr y2 : Nat} (hK : Cells s0 s) : Cells s0 (@State.readLines s addr
    y2).1 := by
  unfold State.readLines
  with_reducible repeat' first
    | assumption | refine State.readPool_cells ?_ | refine State.readLines_cells ?_
    | refine Cells.ite1 (fun _ => ?_) (fun _ => ?_) | split | dsimp -proj only
    | refine Cells.of_pair ?_ (by assumption)

theorem sessProveAct_cells {s0 : State} {v : Via} {sid evidAddr evidLen : Nat} {s : State} (hK : Cells s0 s) : Cells
    s0 (@sessProveAct v sid evidAddr evidLen s) := by
  unfold sessProveAct
  with_reducible repeat' first
    | assumption | refine State.secCpl_cells ?_ | refine State.establish_cells ?_
    | refine State.argRefuse_cells ?_ (fun v0F v1F v2F hF => ?_) | refine State.readLines_cells ?_
    | refine State.dropSession_cells ?_ | refine Cells.ite (fun _ => ?_) (fun _ => ?_) | split
    | refine Cells.ite1 (fun _ => ?_) (fun _ => ?_) | dsimp -proj only | refine Cells.of_pair ?_ (by assumption)

theorem execSessProve_cells {s0 : State} {v : Via} {sid evidAddr evidLen resv : Nat} {s : State} (hK : Cells s0 s) :
    CellsOut s0 (@execSessProve v sid evidAddr evidLen resv s) := by
  unfold execSessProve
  with_reducible repeat' first
    | assumption | refine CellsOut.next ?_ | refine State.secCpl_cells ?_
    | refine State.classThree_cells ?_ (fun v0F v1F v2F hF => ?_) (fun v0F hF => ?_) | refine sessProveAct_cells ?_
    | dsimp -proj only

theorem sealImportAct_cells {s0 : State} {v : Via} {dst stage offset resv : Nat} {s : State} (hK : Cells s0 s) : Cells
    s0 (@sealImportAct v dst stage offset resv s) := by
  unfold sealImportAct
  with_reducible repeat' first
    | assumption | refine State.secCpl_cells ?_ | refine State.setSlot_cells ?_ | refine State.loadKey_cells ?_
    | refine State.setExt_cells ?_ | refine State.keyChange_cells ?_ | refine State.dropAtomics_cells ?_
    | refine State.clearValid_cells ?_ | refine Cells.ite (fun _ => ?_) (fun _ => ?_) | split | dsimp -proj only

theorem execSealImport_cells {s0 : State} {v : Via} {dstExt stageExt stageOffset resv : Nat} {s : State} (hK : Cells
    s0 s) : CellsOut s0 (@execSealImport v dstExt stageExt stageOffset resv s) := by
  unfold execSealImport
  with_reducible repeat' first
    | assumption | refine CellsOut.next ?_ | refine State.secCpl_cells ?_
    | refine State.classThree_cells ?_ (fun v0F v1F v2F hF => ?_) (fun v0F hF => ?_) | refine sealImportAct_cells ?_
    | dsimp -proj only

end Sys2Proof.Machine
end

