-- ==== Sys2Proof/Laws/Tab.lean ====
section
/-! SUPPORT. The laws of the tables, and of the stored bytes, which are one: what a key reads after a write, and that
every write keeps the canonical form. -/

set_option Elab.async false

namespace Sys2Proof

theorem Tab.get_insert {α : Type} (d : α) (t : Tab α) (k : Nat) (v : α) (q : Nat) :
    Tab.get d (Tab.insert t k v) q = if q = k then v else Tab.get d t q := by
  induction t with
  | nil => simp [Tab.insert, Tab.get]
  | cons e t ih =>
    obtain ⟨j, w⟩ := e
    simp only [Tab.insert]
    split
    · next h => subst h; by_cases hq : q = k <;> simp [Tab.get, hq]
    · next h =>
      split
      · by_cases hq : q = k <;> simp [Tab.get, hq]
      · simp only [Tab.get, ih]
        by_cases hq : q = k
        · subst hq; simp [h]
        · simp [hq]

theorem Tab.get_erase {α : Type} (d : α) (t : Tab α) (k q : Nat) :
    Tab.get d (Tab.erase t k) q = if q = k then d else Tab.get d t q := by
  induction t with
  | nil => simp [Tab.erase, Tab.get]
  | cons e t ih =>
    obtain ⟨j, w⟩ := e
    unfold Tab.erase at ih ⊢
    by_cases h : j = k
    · subst h
      by_cases hq : q = j <;> simp_all [Tab.get]
    · by_cases hq : q = k
      · subst hq
        have hj : q ≠ j := fun e => h e.symm
        simp_all [Tab.get]
      · simp_all [Tab.get]

/-- What a table reads after a write. -/
theorem Tab.get_set {α : Type} [DecidableEq α] (d : α) (t : Tab α) (k : Nat) (v : α) (q : Nat) :
    Tab.get d (Tab.set d t k v) q = if q = k then v else Tab.get d t q := by
  unfold Tab.set
  split
  · next h => rw [Tab.get_erase, h]
  · rw [Tab.get_insert]

@[simp] theorem Tab.get_set_self {α : Type} [DecidableEq α] (d : α) (t : Tab α) (k : Nat) (v : α) :
    Tab.get d (Tab.set d t k v) k = v := by simp [Tab.get_set]

theorem Tab.get_set_ne {α : Type} [DecidableEq α] (d : α) (t : Tab α) {k q : Nat} (v : α) (h : q ≠ k) :
    Tab.get d (Tab.set d t k v) q = Tab.get d t q := by simp [Tab.get_set, h]

/-- Giving every listed key a new value, by a function that leaves the default alone. -/
theorem Tab.get_mapVals {α : Type} [DecidableEq α] (d : α) (f : Nat → α → α) (t : Tab α) (q : Nat) (hf : f q d = d) :
    Tab.get d (Tab.mapVals d f t) q = f q (Tab.get d t q) := by
  induction t with
  | nil => simp [Tab.mapVals, Tab.get, hf]
  | cons e t ih =>
    obtain ⟨j, w⟩ := e
    unfold Tab.mapVals at ih ⊢
    simp only [List.foldr_cons, Tab.get_set, ih, Tab.get]
    by_cases h : q = j
    · subst h; simp
    · simp [h]

theorem Tab.get_eraseRange {α : Type} (d : α) (t : Tab α) (lo hi q : Nat) :
    Tab.get d (Tab.eraseRange t lo hi) q = if lo ≤ q ∧ q < hi then d else Tab.get d t q := by
  induction t with
  | nil => simp [Tab.eraseRange, Tab.get]
  | cons e t ih =>
    obtain ⟨j, w⟩ := e
    unfold Tab.eraseRange at ih ⊢
    by_cases h : j < lo ∨ hi ≤ j
    · simp only [List.filter_cons, h, decide_true, if_true, Tab.get, ih]
      by_cases hq : q = j
      · subst hq
        have : ¬(lo ≤ q ∧ q < hi) := by omega
        simp [this]
      · simp [hq]
    · simp only [List.filter_cons, h, decide_false, Bool.false_eq_true, if_false, ih, Tab.get]
      by_cases hq : q = j
      · subst hq
        have : lo ≤ q ∧ q < hi := by omega
        simp [this]
      · simp [hq]

/-! ## The canonical form -/

theorem Tab.sortedFrom_mono {α : Type} {b c : Nat} (h : b ≤ c) (t : Tab α) (ht : Tab.sortedFrom c t = true) :
    Tab.sortedFrom b t = true := by
  cases t with
  | nil => rfl
  | cons e t =>
    simp only [Tab.sortedFrom, Bool.and_eq_true, decide_eq_true_eq] at ht ⊢
    exact ⟨by omega, ht.2⟩

theorem Tab.sortedFrom_insert {α : Type} {b k : Nat} (h : b ≤ k) (t : Tab α) (v : α)
    (ht : Tab.sortedFrom b t = true) : Tab.sortedFrom b (Tab.insert t k v) = true := by
  induction t generalizing b with
  | nil => simp [Tab.insert, Tab.sortedFrom, h]
  | cons e t ih =>
    obtain ⟨j, w⟩ := e
    simp only [Tab.sortedFrom, Bool.and_eq_true, decide_eq_true_eq] at ht
    simp only [Tab.insert]
    split
    · next hk => subst hk; simp [Tab.sortedFrom, h, ht.2]
    · split
      · simp only [Tab.sortedFrom, Bool.and_eq_true, decide_eq_true_eq]
        exact ⟨h, by omega, ht.2⟩
      · simp only [Tab.sortedFrom, Bool.and_eq_true, decide_eq_true_eq]
        exact ⟨ht.1, ih (by omega) ht.2⟩

theorem Tab.sortedFrom_filter {α : Type} (p : Nat × α → Bool) {b : Nat} (t : Tab α) (ht : Tab.sortedFrom b t = true) :
    Tab.sortedFrom b (t.filter p) = true := by
  induction t generalizing b with
  | nil => rfl
  | cons e t ih =>
    obtain ⟨j, w⟩ := e
    simp only [Tab.sortedFrom, Bool.and_eq_true, decide_eq_true_eq] at ht
    simp only [List.filter_cons]
    split
    · simp only [Tab.sortedFrom, Bool.and_eq_true, decide_eq_true_eq]
      exact ⟨ht.1, ih ht.2⟩
    · exact ih (Tab.sortedFrom_mono (by omega) t ht.2)

theorem Tab.mem_insert {α : Type} {t : Tab α} {k : Nat} {v : α} {e : Nat × α} (h : e ∈ Tab.insert t k v) :
    e = (k, v) ∨ e ∈ t := by
  induction t with
  | nil => simpa [Tab.insert] using h
  | cons x t ih =>
    obtain ⟨j, w⟩ := x
    simp only [Tab.insert] at h
    split at h
    · simp only [List.mem_cons] at h ⊢
      rcases h with h | h
      · exact .inl h
      · exact .inr (.inr h)
    · split at h
      · simpa using h
      · simp only [List.mem_cons] at h ⊢
        rcases h with h | h
        · exact .inr (.inl h)
        · rcases ih h with h | h
          · exact .inl h
          · exact .inr (.inr h)

theorem Tab.wf_filter {α : Type} [DecidableEq α] (d : α) (p : Nat × α → Bool) (t : Tab α) (h : Tab.wf d t = true) :
    Tab.wf d (t.filter p) = true := by
  simp only [Tab.wf, Bool.and_eq_true, List.all_eq_true] at h ⊢
  exact ⟨Tab.sortedFrom_filter p t h.1, fun e he => h.2 e (List.mem_filter.mp he).1⟩

/-- A write keeps a table's canonical form. -/
theorem Tab.wf_set {α : Type} [DecidableEq α] (d : α) (t : Tab α) (k : Nat) (v : α) (h : Tab.wf d t = true) :
    Tab.wf d (Tab.set d t k v) = true := by
  unfold Tab.set
  split
  · exact Tab.wf_filter d _ t h
  · next hv =>
    simp only [Tab.wf, Bool.and_eq_true, List.all_eq_true] at h ⊢
    refine ⟨Tab.sortedFrom_insert (Nat.zero_le _) t v h.1, fun e he => ?_⟩
    rcases Tab.mem_insert he with rfl | he
    · simpa using hv
    · exact h.2 e he

theorem Tab.wf_mapVals {α : Type} [DecidableEq α] (d : α) (f : Nat → α → α) (t : Tab α) :
    Tab.wf d (Tab.mapVals d f t) = true := by
  induction t with
  | nil => rfl
  | cons e t ih => exact Tab.wf_set d _ e.1 _ ih

end Sys2Proof

namespace Sys2Proof.Machine
open Sys2Proof

/-! ## The stored bytes -/

theorem Memory.wf_writeByte (mem : List Host.Cell) (a : Nat) (b : Byte) (h : Memory.wf mem = true) :
    Memory.wf (writeByte mem a b) = true := Tab.wf_set 0 mem a b h

theorem Memory.wf_writeBytes (mem : List Host.Cell) (a : Nat) (bs : List Byte) (h : Memory.wf mem = true) :
    Memory.wf (writeBytes mem a bs) = true := by
  induction bs generalizing mem a with
  | nil => exact h
  | cons b bs ih => exact ih _ _ (Memory.wf_writeByte mem a b h)

theorem Memory.wf_storeLine (mem : List Host.Cell) (p l : Nat) (d : Line) (h : Memory.wf mem = true) :
    Memory.wf (storeLine mem p l d) = true := Memory.wf_writeBytes _ _ _ h

theorem Memory.wf_filter (mem : List Host.Cell) (p : Host.Cell → Bool) (h : Memory.wf mem = true) :
    Memory.wf (mem.filter p) = true := Tab.wf_filter 0 p mem h

theorem Memory.wf_eraseRange (mem : List Host.Cell) (lo hi : Nat) (h : Memory.wf mem = true) :
    Memory.wf (Tab.eraseRange mem lo hi) = true := Tab.wf_filter 0 _ mem h

/-- What a byte reads after a run of writes. -/
theorem readByte_writeBytes (mem : List Host.Cell) (a : Nat) (bs : List Byte) (x : Nat) :
    readByte (writeBytes mem a bs) x =
      if a ≤ x ∧ x < a + bs.length then bs.getD (x - a) 0 else readByte mem x := by
  induction bs generalizing mem a with
  | nil =>
    have : ¬(a ≤ x ∧ x < a + 0) := by omega
    simp only [writeBytes, List.length_nil]
    rw [if_neg this]
  | cons b bs ih =>
    simp only [writeBytes, ih, List.length_cons]
    unfold writeByte readByte
    rw [Tab.get_set]
    by_cases h : x = a
    · subst h
      have h1 : ¬(x + 1 ≤ x ∧ x < x + 1 + bs.length) := by omega
      have h2 : x ≤ x ∧ x < x + (bs.length + 1) := by omega
      rw [if_neg h1, if_pos rfl, if_pos h2, Nat.sub_self, List.getD_cons_zero]
    · by_cases h3 : a + 1 ≤ x ∧ x < a + 1 + bs.length
      · have h4 : a ≤ x ∧ x < a + (bs.length + 1) := by omega
        have h5 : x - a = (x - (a + 1)) + 1 := by omega
        rw [if_pos h3, if_pos h4, h5, List.getD_cons_succ]
      · have h4 : ¬(a ≤ x ∧ x < a + (bs.length + 1)) := by omega
        rw [if_neg h3, if_neg h, if_neg h4]

end Sys2Proof.Machine
end

