-- ==== Sys2Proof/Laws/State.lean ====
section
/-! SUPPORT. What each field of the state holds after each update of one part of it, and what an entry reads as after it
has been written. -/

set_option Elab.async false

namespace Sys2Proof.Machine
open Sys2Proof

/-! ### bump: only `ctrs` -/

@[simp] theorem State.bump_pending (s : State) (g o c n : Nat) : (s.bump g o c n).pending = s.pending := rfl
@[simp] theorem State.bump_power (s : State) (g o c n : Nat) : (s.bump g o c n).power = s.power := rfl
@[simp] theorem State.bump_clk (s : State) (g o c n : Nat) : (s.bump g o c n).clk = s.clk := rfl
@[simp] theorem State.bump_boot (s : State) (g o c n : Nat) : (s.bump g o c n).boot = s.boot := rfl
@[simp] theorem State.bump_cfg (s : State) (g o c n : Nat) : (s.bump g o c n).cfg = s.cfg := rfl
@[simp] theorem State.bump_tok (s : State) (g o c n : Nat) : (s.bump g o c n).tok = s.tok := rfl
@[simp] theorem State.bump_ports (s : State) (g o c n : Nat) : (s.bump g o c n).ports = s.ports := rfl
@[simp] theorem State.bump_fab (s : State) (g o c n : Nat) : (s.bump g o c n).fab = s.fab := rfl
@[simp] theorem State.bump_pool (s : State) (g o c n : Nat) : (s.bump g o c n).pool = s.pool := rfl
@[simp] theorem State.bump_coh (s : State) (g o c n : Nat) : (s.bump g o c n).coh = s.coh := rfl
@[simp] theorem State.bump_coach (s : State) (g o c n : Nat) : (s.bump g o c n).coach = s.coach := rfl
@[simp] theorem State.bump_stock (s : State) (g o c n : Nat) : (s.bump g o c n).stock = s.stock := rfl
@[simp] theorem State.bump_repro (s : State) (g o c n : Nat) : (s.bump g o c n).repro = s.repro := rfl
@[simp] theorem State.bump_mem (s : State) (g o c n : Nat) : (s.bump g o c n).mem = s.mem := rfl
@[simp] theorem State.bump_twin (s : State) (g o c n : Nat) : (s.bump g o c n).twin = s.twin := rfl
@[simp] theorem State.bump_sec (s : State) (g o c n : Nat) : (s.bump g o c n).sec = s.sec := rfl
@[simp] theorem State.bump_rsl (s : State) (g o c n : Nat) : (s.bump g o c n).rsl = s.rsl := rfl
@[simp] theorem State.bump_evs (s : State) (g o c n : Nat) : (s.bump g o c n).evs = s.evs := rfl
@[simp] theorem State.bump_fresh (s : State) (g o c n : Nat) : (s.bump g o c n).fresh = s.fresh := rfl

/-! ### setPort: only `ports` -/

@[simp] theorem State.setPort_pending (s : State) (p : Nat) (x : Port) : (s.setPort p x).pending = s.pending := rfl
@[simp] theorem State.setPort_power (s : State) (p : Nat) (x : Port) : (s.setPort p x).power = s.power := rfl
@[simp] theorem State.setPort_clk (s : State) (p : Nat) (x : Port) : (s.setPort p x).clk = s.clk := rfl
@[simp] theorem State.setPort_boot (s : State) (p : Nat) (x : Port) : (s.setPort p x).boot = s.boot := rfl
@[simp] theorem State.setPort_cfg (s : State) (p : Nat) (x : Port) : (s.setPort p x).cfg = s.cfg := rfl
@[simp] theorem State.setPort_tok (s : State) (p : Nat) (x : Port) : (s.setPort p x).tok = s.tok := rfl
@[simp] theorem State.setPort_fab (s : State) (p : Nat) (x : Port) : (s.setPort p x).fab = s.fab := rfl
@[simp] theorem State.setPort_pool (s : State) (p : Nat) (x : Port) : (s.setPort p x).pool = s.pool := rfl
@[simp] theorem State.setPort_coh (s : State) (p : Nat) (x : Port) : (s.setPort p x).coh = s.coh := rfl
@[simp] theorem State.setPort_coach (s : State) (p : Nat) (x : Port) : (s.setPort p x).coach = s.coach := rfl
@[simp] theorem State.setPort_stock (s : State) (p : Nat) (x : Port) : (s.setPort p x).stock = s.stock := rfl
@[simp] theorem State.setPort_repro (s : State) (p : Nat) (x : Port) : (s.setPort p x).repro = s.repro := rfl
@[simp] theorem State.setPort_mem (s : State) (p : Nat) (x : Port) : (s.setPort p x).mem = s.mem := rfl
@[simp] theorem State.setPort_twin (s : State) (p : Nat) (x : Port) : (s.setPort p x).twin = s.twin := rfl
@[simp] theorem State.setPort_sec (s : State) (p : Nat) (x : Port) : (s.setPort p x).sec = s.sec := rfl
@[simp] theorem State.setPort_rsl (s : State) (p : Nat) (x : Port) : (s.setPort p x).rsl = s.rsl := rfl
@[simp] theorem State.setPort_evs (s : State) (p : Nat) (x : Port) : (s.setPort p x).evs = s.evs := rfl
@[simp] theorem State.setPort_ctrs (s : State) (p : Nat) (x : Port) : (s.setPort p x).ctrs = s.ctrs := rfl
@[simp] theorem State.setPort_fresh (s : State) (p : Nat) (x : Port) : (s.setPort p x).fresh = s.fresh := rfl

@[simp] theorem State.port_setPort (s : State) (p : Nat) (x : Port) : (s.setPort p x).port p = x := by
  unfold State.port State.setPort; exact Tab.get_set_self _ _ _ _

theorem State.port_setPort_ne (s : State) (p : Nat) (x : Port) (q : Nat) (h : q ≠ p) :
    (s.setPort p x).port q = s.port q := by
  unfold State.port State.setPort; exact Tab.get_set_ne _ _ _ h

/-! ### setOb: only `tok` -/

@[simp] theorem State.setOb_pending (s : State) (od : Nat) (x : ObDie) : (s.setOb od x).pending = s.pending := rfl
@[simp] theorem State.setOb_power (s : State) (od : Nat) (x : ObDie) : (s.setOb od x).power = s.power := rfl
@[simp] theorem State.setOb_clk (s : State) (od : Nat) (x : ObDie) : (s.setOb od x).clk = s.clk := rfl
@[simp] theorem State.setOb_boot (s : State) (od : Nat) (x : ObDie) : (s.setOb od x).boot = s.boot := rfl
@[simp] theorem State.setOb_cfg (s : State) (od : Nat) (x : ObDie) : (s.setOb od x).cfg = s.cfg := rfl
@[simp] theorem State.setOb_ports (s : State) (od : Nat) (x : ObDie) : (s.setOb od x).ports = s.ports := rfl
@[simp] theorem State.setOb_fab (s : State) (od : Nat) (x : ObDie) : (s.setOb od x).fab = s.fab := rfl
@[simp] theorem State.setOb_pool (s : State) (od : Nat) (x : ObDie) : (s.setOb od x).pool = s.pool := rfl
@[simp] theorem State.setOb_coh (s : State) (od : Nat) (x : ObDie) : (s.setOb od x).coh = s.coh := rfl
@[simp] theorem State.setOb_coach (s : State) (od : Nat) (x : ObDie) : (s.setOb od x).coach = s.coach := rfl
@[simp] theorem State.setOb_stock (s : State) (od : Nat) (x : ObDie) : (s.setOb od x).stock = s.stock := rfl
@[simp] theorem State.setOb_repro (s : State) (od : Nat) (x : ObDie) : (s.setOb od x).repro = s.repro := rfl
@[simp] theorem State.setOb_mem (s : State) (od : Nat) (x : ObDie) : (s.setOb od x).mem = s.mem := rfl
@[simp] theorem State.setOb_twin (s : State) (od : Nat) (x : ObDie) : (s.setOb od x).twin = s.twin := rfl
@[simp] theorem State.setOb_sec (s : State) (od : Nat) (x : ObDie) : (s.setOb od x).sec = s.sec := rfl
@[simp] theorem State.setOb_rsl (s : State) (od : Nat) (x : ObDie) : (s.setOb od x).rsl = s.rsl := rfl
@[simp] theorem State.setOb_evs (s : State) (od : Nat) (x : ObDie) : (s.setOb od x).evs = s.evs := rfl
@[simp] theorem State.setOb_ctrs (s : State) (od : Nat) (x : ObDie) : (s.setOb od x).ctrs = s.ctrs := rfl
@[simp] theorem State.setOb_fresh (s : State) (od : Nat) (x : ObDie) : (s.setOb od x).fresh = s.fresh := rfl

@[simp] theorem State.ob_setOb (s : State) (od : Nat) (x : ObDie) : (s.setOb od x).ob od = x := by
  unfold State.ob State.setOb; exact Tab.get_set_self _ _ _ _

theorem State.ob_setOb_ne (s : State) (od : Nat) (x : ObDie) (q : Nat) (h : q ≠ od) :
    (s.setOb od x).ob q = s.ob q := by
  unfold State.ob State.setOb; exact Tab.get_set_ne _ _ _ h

/-! ### send: only `fab` -/

@[simp] theorem State.send_pending (s : State) (m : OutMsg) : (s.send m).pending = s.pending := rfl
@[simp] theorem State.send_power (s : State) (m : OutMsg) : (s.send m).power = s.power := rfl
@[simp] theorem State.send_clk (s : State) (m : OutMsg) : (s.send m).clk = s.clk := rfl
@[simp] theorem State.send_boot (s : State) (m : OutMsg) : (s.send m).boot = s.boot := rfl
@[simp] theorem State.send_cfg (s : State) (m : OutMsg) : (s.send m).cfg = s.cfg := rfl
@[simp] theorem State.send_tok (s : State) (m : OutMsg) : (s.send m).tok = s.tok := rfl
@[simp] theorem State.send_ports (s : State) (m : OutMsg) : (s.send m).ports = s.ports := rfl
@[simp] theorem State.send_pool (s : State) (m : OutMsg) : (s.send m).pool = s.pool := rfl
@[simp] theorem State.send_coh (s : State) (m : OutMsg) : (s.send m).coh = s.coh := rfl
@[simp] theorem State.send_coach (s : State) (m : OutMsg) : (s.send m).coach = s.coach := rfl
@[simp] theorem State.send_stock (s : State) (m : OutMsg) : (s.send m).stock = s.stock := rfl
@[simp] theorem State.send_repro (s : State) (m : OutMsg) : (s.send m).repro = s.repro := rfl
@[simp] theorem State.send_mem (s : State) (m : OutMsg) : (s.send m).mem = s.mem := rfl
@[simp] theorem State.send_twin (s : State) (m : OutMsg) : (s.send m).twin = s.twin := rfl
@[simp] theorem State.send_sec (s : State) (m : OutMsg) : (s.send m).sec = s.sec := rfl
@[simp] theorem State.send_rsl (s : State) (m : OutMsg) : (s.send m).rsl = s.rsl := rfl
@[simp] theorem State.send_evs (s : State) (m : OutMsg) : (s.send m).evs = s.evs := rfl
@[simp] theorem State.send_ctrs (s : State) (m : OutMsg) : (s.send m).ctrs = s.ctrs := rfl
@[simp] theorem State.send_fresh (s : State) (m : OutMsg) : (s.send m).fresh = s.fresh := rfl

/-! ### rslOpen: only `rsl` and the next journal index -/

@[simp] theorem State.rslOpen_pending (s : State) (tag port cmd : Nat) : (s.rslOpen tag port cmd).pending = s.pending :=
  rfl
@[simp] theorem State.rslOpen_power (s : State) (tag port cmd : Nat) : (s.rslOpen tag port cmd).power = s.power := rfl
@[simp] theorem State.rslOpen_clk (s : State) (tag port cmd : Nat) : (s.rslOpen tag port cmd).clk = s.clk := rfl
@[simp] theorem State.rslOpen_boot (s : State) (tag port cmd : Nat) : (s.rslOpen tag port cmd).boot = s.boot := rfl
@[simp] theorem State.rslOpen_cfg (s : State) (tag port cmd : Nat) : (s.rslOpen tag port cmd).cfg = s.cfg := rfl
@[simp] theorem State.rslOpen_tok (s : State) (tag port cmd : Nat) : (s.rslOpen tag port cmd).tok = s.tok := rfl
@[simp] theorem State.rslOpen_ports (s : State) (tag port cmd : Nat) : (s.rslOpen tag port cmd).ports = s.ports := rfl
@[simp] theorem State.rslOpen_fab (s : State) (tag port cmd : Nat) : (s.rslOpen tag port cmd).fab = s.fab := rfl
@[simp] theorem State.rslOpen_pool (s : State) (tag port cmd : Nat) : (s.rslOpen tag port cmd).pool = s.pool := rfl
@[simp] theorem State.rslOpen_coh (s : State) (tag port cmd : Nat) : (s.rslOpen tag port cmd).coh = s.coh := rfl
@[simp] theorem State.rslOpen_coach (s : State) (tag port cmd : Nat) : (s.rslOpen tag port cmd).coach = s.coach := rfl
@[simp] theorem State.rslOpen_stock (s : State) (tag port cmd : Nat) : (s.rslOpen tag port cmd).stock = s.stock := rfl
@[simp] theorem State.rslOpen_repro (s : State) (tag port cmd : Nat) : (s.rslOpen tag port cmd).repro = s.repro := rfl
@[simp] theorem State.rslOpen_mem (s : State) (tag port cmd : Nat) : (s.rslOpen tag port cmd).mem = s.mem := rfl
@[simp] theorem State.rslOpen_sec (s : State) (tag port cmd : Nat) : (s.rslOpen tag port cmd).sec = s.sec := rfl
@[simp] theorem State.rslOpen_evs (s : State) (tag port cmd : Nat) : (s.rslOpen tag port cmd).evs = s.evs := rfl
@[simp] theorem State.rslOpen_ctrs (s : State) (tag port cmd : Nat) : (s.rslOpen tag port cmd).ctrs = s.ctrs := rfl
@[simp] theorem State.rslOpen_fresh (s : State) (tag port cmd : Nat) : (s.rslOpen tag port cmd).fresh = s.fresh := rfl

/-! ### setReplay: only `rsl` -/

@[simp] theorem State.setReplay_pending (s : State) (tag : Nat) (b : Bool) : (s.setReplay tag b).pending = s.pending :=
  rfl
@[simp] theorem State.setReplay_power (s : State) (tag : Nat) (b : Bool) : (s.setReplay tag b).power = s.power := rfl
@[simp] theorem State.setReplay_clk (s : State) (tag : Nat) (b : Bool) : (s.setReplay tag b).clk = s.clk := rfl
@[simp] theorem State.setReplay_boot (s : State) (tag : Nat) (b : Bool) : (s.setReplay tag b).boot = s.boot := rfl
@[simp] theorem State.setReplay_cfg (s : State) (tag : Nat) (b : Bool) : (s.setReplay tag b).cfg = s.cfg := rfl
@[simp] theorem State.setReplay_tok (s : State) (tag : Nat) (b : Bool) : (s.setReplay tag b).tok = s.tok := rfl
@[simp] theorem State.setReplay_ports (s : State) (tag : Nat) (b : Bool) : (s.setReplay tag b).ports = s.ports := rfl
@[simp] theorem State.setReplay_fab (s : State) (tag : Nat) (b : Bool) : (s.setReplay tag b).fab = s.fab := rfl
@[simp] theorem State.setReplay_pool (s : State) (tag : Nat) (b : Bool) : (s.setReplay tag b).pool = s.pool := rfl
@[simp] theorem State.setReplay_coh (s : State) (tag : Nat) (b : Bool) : (s.setReplay tag b).coh = s.coh := rfl
@[simp] theorem State.setReplay_coach (s : State) (tag : Nat) (b : Bool) : (s.setReplay tag b).coach = s.coach := rfl
@[simp] theorem State.setReplay_stock (s : State) (tag : Nat) (b : Bool) : (s.setReplay tag b).stock = s.stock := rfl
@[simp] theorem State.setReplay_repro (s : State) (tag : Nat) (b : Bool) : (s.setReplay tag b).repro = s.repro := rfl
@[simp] theorem State.setReplay_mem (s : State) (tag : Nat) (b : Bool) : (s.setReplay tag b).mem = s.mem := rfl
@[simp] theorem State.setReplay_twin (s : State) (tag : Nat) (b : Bool) : (s.setReplay tag b).twin = s.twin := rfl
@[simp] theorem State.setReplay_sec (s : State) (tag : Nat) (b : Bool) : (s.setReplay tag b).sec = s.sec := rfl
@[simp] theorem State.setReplay_evs (s : State) (tag : Nat) (b : Bool) : (s.setReplay tag b).evs = s.evs := rfl
@[simp] theorem State.setReplay_ctrs (s : State) (tag : Nat) (b : Bool) : (s.setReplay tag b).ctrs = s.ctrs := rfl
@[simp] theorem State.setReplay_fresh (s : State) (tag : Nat) (b : Bool) : (s.setReplay tag b).fresh = s.fresh := rfl

/-! ### forward: only `twin` -/

@[simp] theorem State.forward_pending (s : State) (j : Nat) : (s.forward j).pending = s.pending := rfl
@[simp] theorem State.forward_power (s : State) (j : Nat) : (s.forward j).power = s.power := rfl
@[simp] theorem State.forward_clk (s : State) (j : Nat) : (s.forward j).clk = s.clk := rfl
@[simp] theorem State.forward_boot (s : State) (j : Nat) : (s.forward j).boot = s.boot := rfl
@[simp] theorem State.forward_cfg (s : State) (j : Nat) : (s.forward j).cfg = s.cfg := rfl
@[simp] theorem State.forward_tok (s : State) (j : Nat) : (s.forward j).tok = s.tok := rfl
@[simp] theorem State.forward_ports (s : State) (j : Nat) : (s.forward j).ports = s.ports := rfl
@[simp] theorem State.forward_fab (s : State) (j : Nat) : (s.forward j).fab = s.fab := rfl
@[simp] theorem State.forward_pool (s : State) (j : Nat) : (s.forward j).pool = s.pool := rfl
@[simp] theorem State.forward_coh (s : State) (j : Nat) : (s.forward j).coh = s.coh := rfl
@[simp] theorem State.forward_coach (s : State) (j : Nat) : (s.forward j).coach = s.coach := rfl
@[simp] theorem State.forward_stock (s : State) (j : Nat) : (s.forward j).stock = s.stock := rfl
@[simp] theorem State.forward_repro (s : State) (j : Nat) : (s.forward j).repro = s.repro := rfl
@[simp] theorem State.forward_mem (s : State) (j : Nat) : (s.forward j).mem = s.mem := rfl
@[simp] theorem State.forward_sec (s : State) (j : Nat) : (s.forward j).sec = s.sec := rfl
@[simp] theorem State.forward_rsl (s : State) (j : Nat) : (s.forward j).rsl = s.rsl := rfl
@[simp] theorem State.forward_evs (s : State) (j : Nat) : (s.forward j).evs = s.evs := rfl
@[simp] theorem State.forward_ctrs (s : State) (j : Nat) : (s.forward j).ctrs = s.ctrs := rfl
@[simp] theorem State.forward_fresh (s : State) (j : Nat) : (s.forward j).fresh = s.fresh := rfl

/-! ### setDesc: only `coach` -/

@[simp] theorem State.setDesc_pending (s : State) (d : Desc) : (s.setDesc d).pending = s.pending := rfl
@[simp] theorem State.setDesc_power (s : State) (d : Desc) : (s.setDesc d).power = s.power := rfl
@[simp] theorem State.setDesc_clk (s : State) (d : Desc) : (s.setDesc d).clk = s.clk := rfl
@[simp] theorem State.setDesc_boot (s : State) (d : Desc) : (s.setDesc d).boot = s.boot := rfl
@[simp] theorem State.setDesc_cfg (s : State) (d : Desc) : (s.setDesc d).cfg = s.cfg := rfl
@[simp] theorem State.setDesc_tok (s : State) (d : Desc) : (s.setDesc d).tok = s.tok := rfl
@[simp] theorem State.setDesc_ports (s : State) (d : Desc) : (s.setDesc d).ports = s.ports := rfl
@[simp] theorem State.setDesc_fab (s : State) (d : Desc) : (s.setDesc d).fab = s.fab := rfl
@[simp] theorem State.setDesc_pool (s : State) (d : Desc) : (s.setDesc d).pool = s.pool := rfl
@[simp] theorem State.setDesc_coh (s : State) (d : Desc) : (s.setDesc d).coh = s.coh := rfl
@[simp] theorem State.setDesc_stock (s : State) (d : Desc) : (s.setDesc d).stock = s.stock := rfl
@[simp] theorem State.setDesc_repro (s : State) (d : Desc) : (s.setDesc d).repro = s.repro := rfl
@[simp] theorem State.setDesc_mem (s : State) (d : Desc) : (s.setDesc d).mem = s.mem := rfl
@[simp] theorem State.setDesc_twin (s : State) (d : Desc) : (s.setDesc d).twin = s.twin := rfl
@[simp] theorem State.setDesc_sec (s : State) (d : Desc) : (s.setDesc d).sec = s.sec := rfl
@[simp] theorem State.setDesc_rsl (s : State) (d : Desc) : (s.setDesc d).rsl = s.rsl := rfl
@[simp] theorem State.setDesc_evs (s : State) (d : Desc) : (s.setDesc d).evs = s.evs := rfl
@[simp] theorem State.setDesc_ctrs (s : State) (d : Desc) : (s.setDesc d).ctrs = s.ctrs := rfl
@[simp] theorem State.setDesc_fresh (s : State) (d : Desc) : (s.setDesc d).fresh = s.fresh := rfl

/-! ### setRail: only `power` -/

@[simp] theorem State.setRail_pending (s : State) (r : Nat) (x : Rail) : (s.setRail r x).pending = s.pending := rfl
@[simp] theorem State.setRail_clk (s : State) (r : Nat) (x : Rail) : (s.setRail r x).clk = s.clk := rfl
@[simp] theorem State.setRail_boot (s : State) (r : Nat) (x : Rail) : (s.setRail r x).boot = s.boot := rfl
@[simp] theorem State.setRail_cfg (s : State) (r : Nat) (x : Rail) : (s.setRail r x).cfg = s.cfg := rfl
@[simp] theorem State.setRail_tok (s : State) (r : Nat) (x : Rail) : (s.setRail r x).tok = s.tok := rfl
@[simp] theorem State.setRail_ports (s : State) (r : Nat) (x : Rail) : (s.setRail r x).ports = s.ports := rfl
@[simp] theorem State.setRail_fab (s : State) (r : Nat) (x : Rail) : (s.setRail r x).fab = s.fab := rfl
@[simp] theorem State.setRail_pool (s : State) (r : Nat) (x : Rail) : (s.setRail r x).pool = s.pool := rfl
@[simp] theorem State.setRail_coh (s : State) (r : Nat) (x : Rail) : (s.setRail r x).coh = s.coh := rfl
@[simp] theorem State.setRail_coach (s : State) (r : Nat) (x : Rail) : (s.setRail r x).coach = s.coach := rfl
@[simp] theorem State.setRail_stock (s : State) (r : Nat) (x : Rail) : (s.setRail r x).stock = s.stock := rfl
@[simp] theorem State.setRail_repro (s : State) (r : Nat) (x : Rail) : (s.setRail r x).repro = s.repro := rfl
@[simp] theorem State.setRail_mem (s : State) (r : Nat) (x : Rail) : (s.setRail r x).mem = s.mem := rfl
@[simp] theorem State.setRail_twin (s : State) (r : Nat) (x : Rail) : (s.setRail r x).twin = s.twin := rfl
@[simp] theorem State.setRail_sec (s : State) (r : Nat) (x : Rail) : (s.setRail r x).sec = s.sec := rfl
@[simp] theorem State.setRail_rsl (s : State) (r : Nat) (x : Rail) : (s.setRail r x).rsl = s.rsl := rfl
@[simp] theorem State.setRail_evs (s : State) (r : Nat) (x : Rail) : (s.setRail r x).evs = s.evs := rfl
@[simp] theorem State.setRail_ctrs (s : State) (r : Nat) (x : Rail) : (s.setRail r x).ctrs = s.ctrs := rfl
@[simp] theorem State.setRail_fresh (s : State) (r : Nat) (x : Rail) : (s.setRail r x).fresh = s.fresh := rfl

@[simp] theorem State.rail_setRail (s : State) (r : Nat) (x : Rail) : (s.setRail r x).rail r = x := by
  unfold State.rail State.setRail; exact Tab.get_set_self _ _ _ _

theorem State.rail_setRail_ne (s : State) (r : Nat) (x : Rail) (q : Nat) (h : q ≠ r) :
    (s.setRail r x).rail q = s.rail q := by
  unfold State.rail State.setRail; exact Tab.get_set_ne _ _ _ h

/-! ### setMon: only `power` -/

@[simp] theorem State.setMon_pending (s : State) (i : Nat) (m : Monitor) : (s.setMon i m).pending = s.pending := rfl
@[simp] theorem State.setMon_clk (s : State) (i : Nat) (m : Monitor) : (s.setMon i m).clk = s.clk := rfl
@[simp] theorem State.setMon_boot (s : State) (i : Nat) (m : Monitor) : (s.setMon i m).boot = s.boot := rfl
@[simp] theorem State.setMon_cfg (s : State) (i : Nat) (m : Monitor) : (s.setMon i m).cfg = s.cfg := rfl
@[simp] theorem State.setMon_tok (s : State) (i : Nat) (m : Monitor) : (s.setMon i m).tok = s.tok := rfl
@[simp] theorem State.setMon_ports (s : State) (i : Nat) (m : Monitor) : (s.setMon i m).ports = s.ports := rfl
@[simp] theorem State.setMon_fab (s : State) (i : Nat) (m : Monitor) : (s.setMon i m).fab = s.fab := rfl
@[simp] theorem State.setMon_pool (s : State) (i : Nat) (m : Monitor) : (s.setMon i m).pool = s.pool := rfl
@[simp] theorem State.setMon_coh (s : State) (i : Nat) (m : Monitor) : (s.setMon i m).coh = s.coh := rfl
@[simp] theorem State.setMon_coach (s : State) (i : Nat) (m : Monitor) : (s.setMon i m).coach = s.coach := rfl
@[simp] theorem State.setMon_stock (s : State) (i : Nat) (m : Monitor) : (s.setMon i m).stock = s.stock := rfl
@[simp] theorem State.setMon_repro (s : State) (i : Nat) (m : Monitor) : (s.setMon i m).repro = s.repro := rfl
@[simp] theorem State.setMon_mem (s : State) (i : Nat) (m : Monitor) : (s.setMon i m).mem = s.mem := rfl
@[simp] theorem State.setMon_twin (s : State) (i : Nat) (m : Monitor) : (s.setMon i m).twin = s.twin := rfl
@[simp] theorem State.setMon_sec (s : State) (i : Nat) (m : Monitor) : (s.setMon i m).sec = s.sec := rfl
@[simp] theorem State.setMon_rsl (s : State) (i : Nat) (m : Monitor) : (s.setMon i m).rsl = s.rsl := rfl
@[simp] theorem State.setMon_evs (s : State) (i : Nat) (m : Monitor) : (s.setMon i m).evs = s.evs := rfl
@[simp] theorem State.setMon_ctrs (s : State) (i : Nat) (m : Monitor) : (s.setMon i m).ctrs = s.ctrs := rfl
@[simp] theorem State.setMon_fresh (s : State) (i : Nat) (m : Monitor) : (s.setMon i m).fresh = s.fresh := rfl

@[simp] theorem State.mon_setMon (s : State) (i : Nat) (m : Monitor) : (s.setMon i m).mon i = m := by
  unfold State.mon State.setMon; exact Tab.get_set_self _ _ _ _

theorem State.mon_setMon_ne (s : State) (i : Nat) (m : Monitor) (q : Nat) (h : q ≠ i) :
    (s.setMon i m).mon q = s.mon q := by
  unfold State.mon State.setMon; exact Tab.get_set_ne _ _ _ h

/-! ### setCable: only `power` -/

@[simp] theorem State.setCable_pending (s : State) (k : Nat) (x : Cable) : (s.setCable k x).pending = s.pending := rfl
@[simp] theorem State.setCable_clk (s : State) (k : Nat) (x : Cable) : (s.setCable k x).clk = s.clk := rfl
@[simp] theorem State.setCable_boot (s : State) (k : Nat) (x : Cable) : (s.setCable k x).boot = s.boot := rfl
@[simp] theorem State.setCable_cfg (s : State) (k : Nat) (x : Cable) : (s.setCable k x).cfg = s.cfg := rfl
@[simp] theorem State.setCable_tok (s : State) (k : Nat) (x : Cable) : (s.setCable k x).tok = s.tok := rfl
@[simp] theorem State.setCable_ports (s : State) (k : Nat) (x : Cable) : (s.setCable k x).ports = s.ports := rfl
@[simp] theorem State.setCable_fab (s : State) (k : Nat) (x : Cable) : (s.setCable k x).fab = s.fab := rfl
@[simp] theorem State.setCable_pool (s : State) (k : Nat) (x : Cable) : (s.setCable k x).pool = s.pool := rfl
@[simp] theorem State.setCable_coh (s : State) (k : Nat) (x : Cable) : (s.setCable k x).coh = s.coh := rfl
@[simp] theorem State.setCable_coach (s : State) (k : Nat) (x : Cable) : (s.setCable k x).coach = s.coach := rfl
@[simp] theorem State.setCable_stock (s : State) (k : Nat) (x : Cable) : (s.setCable k x).stock = s.stock := rfl
@[simp] theorem State.setCable_repro (s : State) (k : Nat) (x : Cable) : (s.setCable k x).repro = s.repro := rfl
@[simp] theorem State.setCable_mem (s : State) (k : Nat) (x : Cable) : (s.setCable k x).mem = s.mem := rfl
@[simp] theorem State.setCable_twin (s : State) (k : Nat) (x : Cable) : (s.setCable k x).twin = s.twin := rfl
@[simp] theorem State.setCable_sec (s : State) (k : Nat) (x : Cable) : (s.setCable k x).sec = s.sec := rfl
@[simp] theorem State.setCable_rsl (s : State) (k : Nat) (x : Cable) : (s.setCable k x).rsl = s.rsl := rfl
@[simp] theorem State.setCable_evs (s : State) (k : Nat) (x : Cable) : (s.setCable k x).evs = s.evs := rfl
@[simp] theorem State.setCable_ctrs (s : State) (k : Nat) (x : Cable) : (s.setCable k x).ctrs = s.ctrs := rfl
@[simp] theorem State.setCable_fresh (s : State) (k : Nat) (x : Cable) : (s.setCable k x).fresh = s.fresh := rfl

@[simp] theorem State.cable_setCable (s : State) (k : Nat) (x : Cable) : (s.setCable k x).cable k = x := by
  unfold State.cable State.setCable; exact Tab.get_set_self _ _ _ _

theorem State.cable_setCable_ne (s : State) (k : Nat) (x : Cable) (q : Nat) (h : q ≠ k) :
    (s.setCable k x).cable q = s.cable q := by
  unfold State.cable State.setCable; exact Tab.get_set_ne _ _ _ h

/-! ### setPart: only `power` -/

@[simp] theorem State.setPart_pending (s : State) (p : Nat) (x : Part) : (s.setPart p x).pending = s.pending := rfl
@[simp] theorem State.setPart_clk (s : State) (p : Nat) (x : Part) : (s.setPart p x).clk = s.clk := rfl
@[simp] theorem State.setPart_boot (s : State) (p : Nat) (x : Part) : (s.setPart p x).boot = s.boot := rfl
@[simp] theorem State.setPart_cfg (s : State) (p : Nat) (x : Part) : (s.setPart p x).cfg = s.cfg := rfl
@[simp] theorem State.setPart_tok (s : State) (p : Nat) (x : Part) : (s.setPart p x).tok = s.tok := rfl
@[simp] theorem State.setPart_ports (s : State) (p : Nat) (x : Part) : (s.setPart p x).ports = s.ports := rfl
@[simp] theorem State.setPart_fab (s : State) (p : Nat) (x : Part) : (s.setPart p x).fab = s.fab := rfl
@[simp] theorem State.setPart_pool (s : State) (p : Nat) (x : Part) : (s.setPart p x).pool = s.pool := rfl
@[simp] theorem State.setPart_coh (s : State) (p : Nat) (x : Part) : (s.setPart p x).coh = s.coh := rfl
@[simp] theorem State.setPart_coach (s : State) (p : Nat) (x : Part) : (s.setPart p x).coach = s.coach := rfl
@[simp] theorem State.setPart_stock (s : State) (p : Nat) (x : Part) : (s.setPart p x).stock = s.stock := rfl
@[simp] theorem State.setPart_repro (s : State) (p : Nat) (x : Part) : (s.setPart p x).repro = s.repro := rfl
@[simp] theorem State.setPart_mem (s : State) (p : Nat) (x : Part) : (s.setPart p x).mem = s.mem := rfl
@[simp] theorem State.setPart_twin (s : State) (p : Nat) (x : Part) : (s.setPart p x).twin = s.twin := rfl
@[simp] theorem State.setPart_sec (s : State) (p : Nat) (x : Part) : (s.setPart p x).sec = s.sec := rfl
@[simp] theorem State.setPart_rsl (s : State) (p : Nat) (x : Part) : (s.setPart p x).rsl = s.rsl := rfl
@[simp] theorem State.setPart_evs (s : State) (p : Nat) (x : Part) : (s.setPart p x).evs = s.evs := rfl
@[simp] theorem State.setPart_ctrs (s : State) (p : Nat) (x : Part) : (s.setPart p x).ctrs = s.ctrs := rfl
@[simp] theorem State.setPart_fresh (s : State) (p : Nat) (x : Part) : (s.setPart p x).fresh = s.fresh := rfl

@[simp] theorem State.part_setPart (s : State) (p : Nat) (x : Part) : (s.setPart p x).part p = x := by
  unfold State.part State.setPart; exact Tab.get_set_self _ _ _ _

theorem State.part_setPart_ne (s : State) (p : Nat) (x : Part) (q : Nat) (h : q ≠ p) :
    (s.setPart p x).part q = s.part q := by
  unfold State.part State.setPart; exact Tab.get_set_ne _ _ _ h

/-! ### setStack: only `mem` -/

@[simp] theorem State.setStack_pending (s : State) (n : Nat) (x : Stack) : (s.setStack n x).pending = s.pending := rfl
@[simp] theorem State.setStack_power (s : State) (n : Nat) (x : Stack) : (s.setStack n x).power = s.power := rfl
@[simp] theorem State.setStack_clk (s : State) (n : Nat) (x : Stack) : (s.setStack n x).clk = s.clk := rfl
@[simp] theorem State.setStack_boot (s : State) (n : Nat) (x : Stack) : (s.setStack n x).boot = s.boot := rfl
@[simp] theorem State.setStack_cfg (s : State) (n : Nat) (x : Stack) : (s.setStack n x).cfg = s.cfg := rfl
@[simp] theorem State.setStack_tok (s : State) (n : Nat) (x : Stack) : (s.setStack n x).tok = s.tok := rfl
@[simp] theorem State.setStack_ports (s : State) (n : Nat) (x : Stack) : (s.setStack n x).ports = s.ports := rfl
@[simp] theorem State.setStack_fab (s : State) (n : Nat) (x : Stack) : (s.setStack n x).fab = s.fab := rfl
@[simp] theorem State.setStack_pool (s : State) (n : Nat) (x : Stack) : (s.setStack n x).pool = s.pool := rfl
@[simp] theorem State.setStack_coh (s : State) (n : Nat) (x : Stack) : (s.setStack n x).coh = s.coh := rfl
@[simp] theorem State.setStack_coach (s : State) (n : Nat) (x : Stack) : (s.setStack n x).coach = s.coach := rfl
@[simp] theorem State.setStack_stock (s : State) (n : Nat) (x : Stack) : (s.setStack n x).stock = s.stock := rfl
@[simp] theorem State.setStack_repro (s : State) (n : Nat) (x : Stack) : (s.setStack n x).repro = s.repro := rfl
@[simp] theorem State.setStack_twin (s : State) (n : Nat) (x : Stack) : (s.setStack n x).twin = s.twin := rfl
@[simp] theorem State.setStack_sec (s : State) (n : Nat) (x : Stack) : (s.setStack n x).sec = s.sec := rfl
@[simp] theorem State.setStack_rsl (s : State) (n : Nat) (x : Stack) : (s.setStack n x).rsl = s.rsl := rfl
@[simp] theorem State.setStack_evs (s : State) (n : Nat) (x : Stack) : (s.setStack n x).evs = s.evs := rfl
@[simp] theorem State.setStack_ctrs (s : State) (n : Nat) (x : Stack) : (s.setStack n x).ctrs = s.ctrs := rfl
@[simp] theorem State.setStack_fresh (s : State) (n : Nat) (x : Stack) : (s.setStack n x).fresh = s.fresh := rfl

@[simp] theorem State.stack_setStack (s : State) (n : Nat) (x : Stack) : (s.setStack n x).stack n = x := by
  unfold State.stack State.setStack; exact Tab.get_set_self _ _ _ _

theorem State.stack_setStack_ne (s : State) (n : Nat) (x : Stack) (q : Nat) (h : q ≠ n) :
    (s.setStack n x).stack q = s.stack q := by
  unfold State.stack State.setStack; exact Tab.get_set_ne _ _ _ h

/-! ### setChannel: only `mem` -/

@[simp] theorem State.setChannel_pending (s : State) (c : Nat) (x : Channel) : (s.setChannel c x).pending = s.pending :=
  rfl
@[simp] theorem State.setChannel_power (s : State) (c : Nat) (x : Channel) : (s.setChannel c x).power = s.power := rfl
@[simp] theorem State.setChannel_clk (s : State) (c : Nat) (x : Channel) : (s.setChannel c x).clk = s.clk := rfl
@[simp] theorem State.setChannel_boot (s : State) (c : Nat) (x : Channel) : (s.setChannel c x).boot = s.boot := rfl
@[simp] theorem State.setChannel_cfg (s : State) (c : Nat) (x : Channel) : (s.setChannel c x).cfg = s.cfg := rfl
@[simp] theorem State.setChannel_tok (s : State) (c : Nat) (x : Channel) : (s.setChannel c x).tok = s.tok := rfl
@[simp] theorem State.setChannel_ports (s : State) (c : Nat) (x : Channel) : (s.setChannel c x).ports = s.ports := rfl
@[simp] theorem State.setChannel_fab (s : State) (c : Nat) (x : Channel) : (s.setChannel c x).fab = s.fab := rfl
@[simp] theorem State.setChannel_pool (s : State) (c : Nat) (x : Channel) : (s.setChannel c x).pool = s.pool := rfl
@[simp] theorem State.setChannel_coh (s : State) (c : Nat) (x : Channel) : (s.setChannel c x).coh = s.coh := rfl
@[simp] theorem State.setChannel_coach (s : State) (c : Nat) (x : Channel) : (s.setChannel c x).coach = s.coach := rfl
@[simp] theorem State.setChannel_stock (s : State) (c : Nat) (x : Channel) : (s.setChannel c x).stock = s.stock := rfl
@[simp] theorem State.setChannel_repro (s : State) (c : Nat) (x : Channel) : (s.setChannel c x).repro = s.repro := rfl
@[simp] theorem State.setChannel_twin (s : State) (c : Nat) (x : Channel) : (s.setChannel c x).twin = s.twin := rfl
@[simp] theorem State.setChannel_sec (s : State) (c : Nat) (x : Channel) : (s.setChannel c x).sec = s.sec := rfl
@[simp] theorem State.setChannel_rsl (s : State) (c : Nat) (x : Channel) : (s.setChannel c x).rsl = s.rsl := rfl
@[simp] theorem State.setChannel_evs (s : State) (c : Nat) (x : Channel) : (s.setChannel c x).evs = s.evs := rfl
@[simp] theorem State.setChannel_ctrs (s : State) (c : Nat) (x : Channel) : (s.setChannel c x).ctrs = s.ctrs := rfl
@[simp] theorem State.setChannel_fresh (s : State) (c : Nat) (x : Channel) : (s.setChannel c x).fresh = s.fresh := rfl

@[simp] theorem State.channel_setChannel (s : State) (c : Nat) (x : Channel) : (s.setChannel c x).channel c = x := by
  unfold State.channel State.setChannel; exact Tab.get_set_self _ _ _ _

theorem State.channel_setChannel_ne (s : State) (c : Nat) (x : Channel) (q : Nat) (h : q ≠ c) :
    (s.setChannel c x).channel q = s.channel q := by
  unfold State.channel State.setChannel; exact Tab.get_set_ne _ _ _ h

/-! ### setMeta: only `mem` -/

@[simp] theorem State.setMeta_pending (s : State) (ppn line : Nat) (m : LineMeta) : (s.setMeta ppn line m).pending = s.pending :=
  rfl
@[simp] theorem State.setMeta_power (s : State) (ppn line : Nat) (m : LineMeta) : (s.setMeta ppn line m).power = s.power :=
  rfl
@[simp] theorem State.setMeta_clk (s : State) (ppn line : Nat) (m : LineMeta) : (s.setMeta ppn line m).clk = s.clk :=
  rfl
@[simp] theorem State.setMeta_boot (s : State) (ppn line : Nat) (m : LineMeta) : (s.setMeta ppn line m).boot = s.boot :=
  rfl
@[simp] theorem State.setMeta_cfg (s : State) (ppn line : Nat) (m : LineMeta) : (s.setMeta ppn line m).cfg = s.cfg :=
  rfl
@[simp] theorem State.setMeta_tok (s : State) (ppn line : Nat) (m : LineMeta) : (s.setMeta ppn line m).tok = s.tok :=
  rfl
@[simp] theorem State.setMeta_ports (s : State) (ppn line : Nat) (m : LineMeta) : (s.setMeta ppn line m).ports = s.ports :=
  rfl
@[simp] theorem State.setMeta_fab (s : State) (ppn line : Nat) (m : LineMeta) : (s.setMeta ppn line m).fab = s.fab :=
  rfl
@[simp] theorem State.setMeta_pool (s : State) (ppn line : Nat) (m : LineMeta) : (s.setMeta ppn line m).pool = s.pool :=
  rfl
@[simp] theorem State.setMeta_coh (s : State) (ppn line : Nat) (m : LineMeta) : (s.setMeta ppn line m).coh = s.coh :=
  rfl
@[simp] theorem State.setMeta_coach (s : State) (ppn line : Nat) (m : LineMeta) : (s.setMeta ppn line m).coach = s.coach :=
  rfl
@[simp] theorem State.setMeta_stock (s : State) (ppn line : Nat) (m : LineMeta) : (s.setMeta ppn line m).stock = s.stock :=
  rfl
@[simp] theorem State.setMeta_repro (s : State) (ppn line : Nat) (m : LineMeta) : (s.setMeta ppn line m).repro = s.repro :=
  rfl
@[simp] theorem State.setMeta_twin (s : State) (ppn line : Nat) (m : LineMeta) : (s.setMeta ppn line m).twin = s.twin :=
  rfl
@[simp] theorem State.setMeta_sec (s : State) (ppn line : Nat) (m : LineMeta) : (s.setMeta ppn line m).sec = s.sec :=
  rfl
@[simp] theorem State.setMeta_rsl (s : State) (ppn line : Nat) (m : LineMeta) : (s.setMeta ppn line m).rsl = s.rsl :=
  rfl
@[simp] theorem State.setMeta_evs (s : State) (ppn line : Nat) (m : LineMeta) : (s.setMeta ppn line m).evs = s.evs :=
  rfl
@[simp] theorem State.setMeta_ctrs (s : State) (ppn line : Nat) (m : LineMeta) : (s.setMeta ppn line m).ctrs = s.ctrs :=
  rfl
@[simp] theorem State.setMeta_fresh (s : State) (ppn line : Nat) (m : LineMeta) : (s.setMeta ppn line m).fresh = s.fresh :=
  rfl

/-! ### setTracker: only `coh` -/

@[simp] theorem State.setTracker_pending (s : State) (x : Tracker) : (s.setTracker x).pending = s.pending := rfl
@[simp] theorem State.setTracker_power (s : State) (x : Tracker) : (s.setTracker x).power = s.power := rfl
@[simp] theorem State.setTracker_clk (s : State) (x : Tracker) : (s.setTracker x).clk = s.clk := rfl
@[simp] theorem State.setTracker_boot (s : State) (x : Tracker) : (s.setTracker x).boot = s.boot := rfl
@[simp] theorem State.setTracker_cfg (s : State) (x : Tracker) : (s.setTracker x).cfg = s.cfg := rfl
@[simp] theorem State.setTracker_tok (s : State) (x : Tracker) : (s.setTracker x).tok = s.tok := rfl
@[simp] theorem State.setTracker_ports (s : State) (x : Tracker) : (s.setTracker x).ports = s.ports := rfl
@[simp] theorem State.setTracker_fab (s : State) (x : Tracker) : (s.setTracker x).fab = s.fab := rfl
@[simp] theorem State.setTracker_pool (s : State) (x : Tracker) : (s.setTracker x).pool = s.pool := rfl
@[simp] theorem State.setTracker_coach (s : State) (x : Tracker) : (s.setTracker x).coach = s.coach := rfl
@[simp] theorem State.setTracker_stock (s : State) (x : Tracker) : (s.setTracker x).stock = s.stock := rfl
@[simp] theorem State.setTracker_repro (s : State) (x : Tracker) : (s.setTracker x).repro = s.repro := rfl
@[simp] theorem State.setTracker_mem (s : State) (x : Tracker) : (s.setTracker x).mem = s.mem := rfl
@[simp] theorem State.setTracker_twin (s : State) (x : Tracker) : (s.setTracker x).twin = s.twin := rfl
@[simp] theorem State.setTracker_sec (s : State) (x : Tracker) : (s.setTracker x).sec = s.sec := rfl
@[simp] theorem State.setTracker_rsl (s : State) (x : Tracker) : (s.setTracker x).rsl = s.rsl := rfl
@[simp] theorem State.setTracker_evs (s : State) (x : Tracker) : (s.setTracker x).evs = s.evs := rfl
@[simp] theorem State.setTracker_ctrs (s : State) (x : Tracker) : (s.setTracker x).ctrs = s.ctrs := rfl
@[simp] theorem State.setTracker_fresh (s : State) (x : Tracker) : (s.setTracker x).fresh = s.fresh := rfl

/-! ### setSlot: only `sec` -/

@[simp] theorem State.setSlot_pending (s : State) (n : Nat) (x : SealSlot) : (s.setSlot n x).pending = s.pending :=
  rfl
@[simp] theorem State.setSlot_power (s : State) (n : Nat) (x : SealSlot) : (s.setSlot n x).power = s.power := rfl
@[simp] theorem State.setSlot_clk (s : State) (n : Nat) (x : SealSlot) : (s.setSlot n x).clk = s.clk := rfl
@[simp] theorem State.setSlot_boot (s : State) (n : Nat) (x : SealSlot) : (s.setSlot n x).boot = s.boot := rfl
@[simp] theorem State.setSlot_cfg (s : State) (n : Nat) (x : SealSlot) : (s.setSlot n x).cfg = s.cfg := rfl
@[simp] theorem State.setSlot_tok (s : State) (n : Nat) (x : SealSlot) : (s.setSlot n x).tok = s.tok := rfl
@[simp] theorem State.setSlot_ports (s : State) (n : Nat) (x : SealSlot) : (s.setSlot n x).ports = s.ports := rfl
@[simp] theorem State.setSlot_fab (s : State) (n : Nat) (x : SealSlot) : (s.setSlot n x).fab = s.fab := rfl
@[simp] theorem State.setSlot_pool (s : State) (n : Nat) (x : SealSlot) : (s.setSlot n x).pool = s.pool := rfl
@[simp] theorem State.setSlot_coh (s : State) (n : Nat) (x : SealSlot) : (s.setSlot n x).coh = s.coh := rfl
@[simp] theorem State.setSlot_coach (s : State) (n : Nat) (x : SealSlot) : (s.setSlot n x).coach = s.coach := rfl
@[simp] theorem State.setSlot_stock (s : State) (n : Nat) (x : SealSlot) : (s.setSlot n x).stock = s.stock := rfl
@[simp] theorem State.setSlot_repro (s : State) (n : Nat) (x : SealSlot) : (s.setSlot n x).repro = s.repro := rfl
@[simp] theorem State.setSlot_mem (s : State) (n : Nat) (x : SealSlot) : (s.setSlot n x).mem = s.mem := rfl
@[simp] theorem State.setSlot_twin (s : State) (n : Nat) (x : SealSlot) : (s.setSlot n x).twin = s.twin := rfl
@[simp] theorem State.setSlot_rsl (s : State) (n : Nat) (x : SealSlot) : (s.setSlot n x).rsl = s.rsl := rfl
@[simp] theorem State.setSlot_evs (s : State) (n : Nat) (x : SealSlot) : (s.setSlot n x).evs = s.evs := rfl
@[simp] theorem State.setSlot_ctrs (s : State) (n : Nat) (x : SealSlot) : (s.setSlot n x).ctrs = s.ctrs := rfl
@[simp] theorem State.setSlot_fresh (s : State) (n : Nat) (x : SealSlot) : (s.setSlot n x).fresh = s.fresh := rfl

@[simp] theorem State.slot_setSlot (s : State) (n : Nat) (x : SealSlot) : (s.setSlot n x).slot n = x := by
  unfold State.slot State.setSlot; exact Tab.get_set_self _ _ _ _

theorem State.slot_setSlot_ne (s : State) (n : Nat) (x : SealSlot) (q : Nat) (h : q ≠ n) :
    (s.setSlot n x).slot q = s.slot q := by
  unfold State.slot State.setSlot; exact Tab.get_set_ne _ _ _ h

/-! ### setSession: only `sec` -/

@[simp] theorem State.setSession_pending (s : State) (x : Session) : (s.setSession x).pending = s.pending := rfl
@[simp] theorem State.setSession_power (s : State) (x : Session) : (s.setSession x).power = s.power := rfl
@[simp] theorem State.setSession_clk (s : State) (x : Session) : (s.setSession x).clk = s.clk := rfl
@[simp] theorem State.setSession_boot (s : State) (x : Session) : (s.setSession x).boot = s.boot := rfl
@[simp] theorem State.setSession_cfg (s : State) (x : Session) : (s.setSession x).cfg = s.cfg := rfl
@[simp] theorem State.setSession_tok (s : State) (x : Session) : (s.setSession x).tok = s.tok := rfl
@[simp] theorem State.setSession_ports (s : State) (x : Session) : (s.setSession x).ports = s.ports := rfl
@[simp] theorem State.setSession_fab (s : State) (x : Session) : (s.setSession x).fab = s.fab := rfl
@[simp] theorem State.setSession_pool (s : State) (x : Session) : (s.setSession x).pool = s.pool := rfl
@[simp] theorem State.setSession_coh (s : State) (x : Session) : (s.setSession x).coh = s.coh := rfl
@[simp] theorem State.setSession_coach (s : State) (x : Session) : (s.setSession x).coach = s.coach := rfl
@[simp] theorem State.setSession_stock (s : State) (x : Session) : (s.setSession x).stock = s.stock := rfl
@[simp] theorem State.setSession_repro (s : State) (x : Session) : (s.setSession x).repro = s.repro := rfl
@[simp] theorem State.setSession_mem (s : State) (x : Session) : (s.setSession x).mem = s.mem := rfl
@[simp] theorem State.setSession_twin (s : State) (x : Session) : (s.setSession x).twin = s.twin := rfl
@[simp] theorem State.setSession_rsl (s : State) (x : Session) : (s.setSession x).rsl = s.rsl := rfl
@[simp] theorem State.setSession_evs (s : State) (x : Session) : (s.setSession x).evs = s.evs := rfl
@[simp] theorem State.setSession_ctrs (s : State) (x : Session) : (s.setSession x).ctrs = s.ctrs := rfl
@[simp] theorem State.setSession_fresh (s : State) (x : Session) : (s.setSession x).fresh = s.fresh := rfl

/-! ### addSession: only `sec` -/

@[simp] theorem State.addSession_pending (s : State) (x : Session) : (s.addSession x).pending = s.pending := rfl
@[simp] theorem State.addSession_power (s : State) (x : Session) : (s.addSession x).power = s.power := rfl
@[simp] theorem State.addSession_clk (s : State) (x : Session) : (s.addSession x).clk = s.clk := rfl
@[simp] theorem State.addSession_boot (s : State) (x : Session) : (s.addSession x).boot = s.boot := rfl
@[simp] theorem State.addSession_cfg (s : State) (x : Session) : (s.addSession x).cfg = s.cfg := rfl
@[simp] theorem State.addSession_tok (s : State) (x : Session) : (s.addSession x).tok = s.tok := rfl
@[simp] theorem State.addSession_ports (s : State) (x : Session) : (s.addSession x).ports = s.ports := rfl
@[simp] theorem State.addSession_fab (s : State) (x : Session) : (s.addSession x).fab = s.fab := rfl
@[simp] theorem State.addSession_pool (s : State) (x : Session) : (s.addSession x).pool = s.pool := rfl
@[simp] theorem State.addSession_coh (s : State) (x : Session) : (s.addSession x).coh = s.coh := rfl
@[simp] theorem State.addSession_coach (s : State) (x : Session) : (s.addSession x).coach = s.coach := rfl
@[simp] theorem State.addSession_stock (s : State) (x : Session) : (s.addSession x).stock = s.stock := rfl
@[simp] theorem State.addSession_repro (s : State) (x : Session) : (s.addSession x).repro = s.repro := rfl
@[simp] theorem State.addSession_mem (s : State) (x : Session) : (s.addSession x).mem = s.mem := rfl
@[simp] theorem State.addSession_twin (s : State) (x : Session) : (s.addSession x).twin = s.twin := rfl
@[simp] theorem State.addSession_rsl (s : State) (x : Session) : (s.addSession x).rsl = s.rsl := rfl
@[simp] theorem State.addSession_evs (s : State) (x : Session) : (s.addSession x).evs = s.evs := rfl
@[simp] theorem State.addSession_ctrs (s : State) (x : Session) : (s.addSession x).ctrs = s.ctrs := rfl
@[simp] theorem State.addSession_fresh (s : State) (x : Session) : (s.addSession x).fresh = s.fresh := rfl

/-! ### dropSession: only `sec` -/

@[simp] theorem State.dropSession_pending (s : State) (id : Nat) : (s.dropSession id).pending = s.pending := rfl
@[simp] theorem State.dropSession_power (s : State) (id : Nat) : (s.dropSession id).power = s.power := rfl
@[simp] theorem State.dropSession_clk (s : State) (id : Nat) : (s.dropSession id).clk = s.clk := rfl
@[simp] theorem State.dropSession_boot (s : State) (id : Nat) : (s.dropSession id).boot = s.boot := rfl
@[simp] theorem State.dropSession_cfg (s : State) (id : Nat) : (s.dropSession id).cfg = s.cfg := rfl
@[simp] theorem State.dropSession_tok (s : State) (id : Nat) : (s.dropSession id).tok = s.tok := rfl
@[simp] theorem State.dropSession_ports (s : State) (id : Nat) : (s.dropSession id).ports = s.ports := rfl
@[simp] theorem State.dropSession_fab (s : State) (id : Nat) : (s.dropSession id).fab = s.fab := rfl
@[simp] theorem State.dropSession_pool (s : State) (id : Nat) : (s.dropSession id).pool = s.pool := rfl
@[simp] theorem State.dropSession_coh (s : State) (id : Nat) : (s.dropSession id).coh = s.coh := rfl
@[simp] theorem State.dropSession_coach (s : State) (id : Nat) : (s.dropSession id).coach = s.coach := rfl
@[simp] theorem State.dropSession_stock (s : State) (id : Nat) : (s.dropSession id).stock = s.stock := rfl
@[simp] theorem State.dropSession_repro (s : State) (id : Nat) : (s.dropSession id).repro = s.repro := rfl
@[simp] theorem State.dropSession_mem (s : State) (id : Nat) : (s.dropSession id).mem = s.mem := rfl
@[simp] theorem State.dropSession_twin (s : State) (id : Nat) : (s.dropSession id).twin = s.twin := rfl
@[simp] theorem State.dropSession_rsl (s : State) (id : Nat) : (s.dropSession id).rsl = s.rsl := rfl
@[simp] theorem State.dropSession_evs (s : State) (id : Nat) : (s.dropSession id).evs = s.evs := rfl
@[simp] theorem State.dropSession_ctrs (s : State) (id : Nat) : (s.dropSession id).ctrs = s.ctrs := rfl
@[simp] theorem State.dropSession_fresh (s : State) (id : Nat) : (s.dropSession id).fresh = s.fresh := rfl

/-! ### logChange: only `twin` -/

@[simp] theorem State.logChange_pending (s : State) (kind index len : Nat) (j : Option Nat) : (s.logChange kind index len j).pending = s.pending := by
  unfold State.logChange; split <;> rfl
@[simp] theorem State.logChange_power (s : State) (kind index len : Nat) (j : Option Nat) : (s.logChange kind index len j).power = s.power := by
  unfold State.logChange; split <;> rfl
@[simp] theorem State.logChange_clk (s : State) (kind index len : Nat) (j : Option Nat) : (s.logChange kind index len j).clk = s.clk := by
  unfold State.logChange; split <;> rfl
@[simp] theorem State.logChange_boot (s : State) (kind index len : Nat) (j : Option Nat) : (s.logChange kind index len j).boot = s.boot := by
  unfold State.logChange; split <;> rfl
@[simp] theorem State.logChange_cfg (s : State) (kind index len : Nat) (j : Option Nat) : (s.logChange kind index len j).cfg = s.cfg := by
  unfold State.logChange; split <;> rfl
@[simp] theorem State.logChange_tok (s : State) (kind index len : Nat) (j : Option Nat) : (s.logChange kind index len j).tok = s.tok := by
  unfold State.logChange; split <;> rfl
@[simp] theorem State.logChange_ports (s : State) (kind index len : Nat) (j : Option Nat) : (s.logChange kind index len j).ports = s.ports := by
  unfold State.logChange; split <;> rfl
@[simp] theorem State.logChange_fab (s : State) (kind index len : Nat) (j : Option Nat) : (s.logChange kind index len j).fab = s.fab := by
  unfold State.logChange; split <;> rfl
@[simp] theorem State.logChange_pool (s : State) (kind index len : Nat) (j : Option Nat) : (s.logChange kind index len j).pool = s.pool := by
  unfold State.logChange; split <;> rfl
@[simp] theorem State.logChange_coh (s : State) (kind index len : Nat) (j : Option Nat) : (s.logChange kind index len j).coh = s.coh := by
  unfold State.logChange; split <;> rfl
@[simp] theorem State.logChange_coach (s : State) (kind index len : Nat) (j : Option Nat) : (s.logChange kind index len j).coach = s.coach := by
  unfold State.logChange; split <;> rfl
@[simp] theorem State.logChange_stock (s : State) (kind index len : Nat) (j : Option Nat) : (s.logChange kind index len j).stock = s.stock := by
  unfold State.logChange; split <;> rfl
@[simp] theorem State.logChange_repro (s : State) (kind index len : Nat) (j : Option Nat) : (s.logChange kind index len j).repro = s.repro := by
  unfold State.logChange; split <;> rfl
@[simp] theorem State.logChange_mem (s : State) (kind index len : Nat) (j : Option Nat) : (s.logChange kind index len j).mem = s.mem := by
  unfold State.logChange; split <;> rfl
@[simp] theorem State.logChange_sec (s : State) (kind index len : Nat) (j : Option Nat) : (s.logChange kind index len j).sec = s.sec := by
  unfold State.logChange; split <;> rfl
@[simp] theorem State.logChange_rsl (s : State) (kind index len : Nat) (j : Option Nat) : (s.logChange kind index len j).rsl = s.rsl := by
  unfold State.logChange; split <;> rfl
@[simp] theorem State.logChange_evs (s : State) (kind index len : Nat) (j : Option Nat) : (s.logChange kind index len j).evs = s.evs := by
  unfold State.logChange; split <;> rfl
@[simp] theorem State.logChange_ctrs (s : State) (kind index len : Nat) (j : Option Nat) : (s.logChange kind index len j).ctrs = s.ctrs := by
  unfold State.logChange; split <;> rfl
@[simp] theorem State.logChange_fresh (s : State) (kind index len : Nat) (j : Option Nat) : (s.logChange kind index len j).fresh = s.fresh := by
  unfold State.logChange; split <;> rfl

/-! ### setExt: only `pool` and the state copy's journal -/

@[simp] theorem State.setExt_pending (s : State) (e : Nat) (x : Ext) : (s.setExt e x).pending = s.pending :=
  State.logChange_pending _ _ _ _ _
@[simp] theorem State.setExt_power (s : State) (e : Nat) (x : Ext) : (s.setExt e x).power = s.power :=
  State.logChange_power _ _ _ _ _
@[simp] theorem State.setExt_clk (s : State) (e : Nat) (x : Ext) : (s.setExt e x).clk = s.clk :=
  State.logChange_clk _ _ _ _ _
@[simp] theorem State.setExt_boot (s : State) (e : Nat) (x : Ext) : (s.setExt e x).boot = s.boot :=
  State.logChange_boot _ _ _ _ _
@[simp] theorem State.setExt_cfg (s : State) (e : Nat) (x : Ext) : (s.setExt e x).cfg = s.cfg :=
  State.logChange_cfg _ _ _ _ _
@[simp] theorem State.setExt_tok (s : State) (e : Nat) (x : Ext) : (s.setExt e x).tok = s.tok :=
  State.logChange_tok _ _ _ _ _
@[simp] theorem State.setExt_ports (s : State) (e : Nat) (x : Ext) : (s.setExt e x).ports = s.ports :=
  State.logChange_ports _ _ _ _ _
@[simp] theorem State.setExt_fab (s : State) (e : Nat) (x : Ext) : (s.setExt e x).fab = s.fab :=
  State.logChange_fab _ _ _ _ _
@[simp] theorem State.setExt_coh (s : State) (e : Nat) (x : Ext) : (s.setExt e x).coh = s.coh :=
  State.logChange_coh _ _ _ _ _
@[simp] theorem State.setExt_coach (s : State) (e : Nat) (x : Ext) : (s.setExt e x).coach = s.coach :=
  State.logChange_coach _ _ _ _ _
@[simp] theorem State.setExt_stock (s : State) (e : Nat) (x : Ext) : (s.setExt e x).stock = s.stock :=
  State.logChange_stock _ _ _ _ _
@[simp] theorem State.setExt_repro (s : State) (e : Nat) (x : Ext) : (s.setExt e x).repro = s.repro :=
  State.logChange_repro _ _ _ _ _
@[simp] theorem State.setExt_mem (s : State) (e : Nat) (x : Ext) : (s.setExt e x).mem = s.mem :=
  State.logChange_mem _ _ _ _ _
@[simp] theorem State.setExt_sec (s : State) (e : Nat) (x : Ext) : (s.setExt e x).sec = s.sec :=
  State.logChange_sec _ _ _ _ _
@[simp] theorem State.setExt_rsl (s : State) (e : Nat) (x : Ext) : (s.setExt e x).rsl = s.rsl :=
  State.logChange_rsl _ _ _ _ _
@[simp] theorem State.setExt_evs (s : State) (e : Nat) (x : Ext) : (s.setExt e x).evs = s.evs :=
  State.logChange_evs _ _ _ _ _
@[simp] theorem State.setExt_ctrs (s : State) (e : Nat) (x : Ext) : (s.setExt e x).ctrs = s.ctrs :=
  State.logChange_ctrs _ _ _ _ _
@[simp] theorem State.setExt_fresh (s : State) (e : Nat) (x : Ext) : (s.setExt e x).fresh = s.fresh :=
  State.logChange_fresh _ _ _ _ _

@[simp] theorem State.ext_setExt (s : State) (e : Nat) (x : Ext) : (s.setExt e x).ext e = x := by
  unfold State.ext State.setExt; rw [State.logChange_pool]; exact Tab.get_set_self _ _ _ _

theorem State.ext_setExt_ne (s : State) (e : Nat) (x : Ext) (q : Nat) (h : q ≠ e) :
    (s.setExt e x).ext q = s.ext q := by
  unfold State.ext State.setExt; rw [State.logChange_pool]; exact Tab.get_set_ne _ _ _ h

/-! ### setMember: only `pool` and the state copy's journal -/

@[simp] theorem State.setMember_pending (s : State) (i : Nat) (m : Member) : (s.setMember i m).pending = s.pending :=
  State.logChange_pending _ _ _ _ _
@[simp] theorem State.setMember_power (s : State) (i : Nat) (m : Member) : (s.setMember i m).power = s.power :=
  State.logChange_power _ _ _ _ _
@[simp] theorem State.setMember_clk (s : State) (i : Nat) (m : Member) : (s.setMember i m).clk = s.clk :=
  State.logChange_clk _ _ _ _ _
@[simp] theorem State.setMember_boot (s : State) (i : Nat) (m : Member) : (s.setMember i m).boot = s.boot :=
  State.logChange_boot _ _ _ _ _
@[simp] theorem State.setMember_cfg (s : State) (i : Nat) (m : Member) : (s.setMember i m).cfg = s.cfg :=
  State.logChange_cfg _ _ _ _ _
@[simp] theorem State.setMember_tok (s : State) (i : Nat) (m : Member) : (s.setMember i m).tok = s.tok :=
  State.logChange_tok _ _ _ _ _
@[simp] theorem State.setMember_ports (s : State) (i : Nat) (m : Member) : (s.setMember i m).ports = s.ports :=
  State.logChange_ports _ _ _ _ _
@[simp] theorem State.setMember_fab (s : State) (i : Nat) (m : Member) : (s.setMember i m).fab = s.fab :=
  State.logChange_fab _ _ _ _ _
@[simp] theorem State.setMember_coh (s : State) (i : Nat) (m : Member) : (s.setMember i m).coh = s.coh :=
  State.logChange_coh _ _ _ _ _
@[simp] theorem State.setMember_coach (s : State) (i : Nat) (m : Member) : (s.setMember i m).coach = s.coach :=
  State.logChange_coach _ _ _ _ _
@[simp] theorem State.setMember_stock (s : State) (i : Nat) (m : Member) : (s.setMember i m).stock = s.stock :=
  State.logChange_stock _ _ _ _ _
@[simp] theorem State.setMember_repro (s : State) (i : Nat) (m : Member) : (s.setMember i m).repro = s.repro :=
  State.logChange_repro _ _ _ _ _
@[simp] theorem State.setMember_mem (s : State) (i : Nat) (m : Member) : (s.setMember i m).mem = s.mem :=
  State.logChange_mem _ _ _ _ _
@[simp] theorem State.setMember_sec (s : State) (i : Nat) (m : Member) : (s.setMember i m).sec = s.sec :=
  State.logChange_sec _ _ _ _ _
@[simp] theorem State.setMember_rsl (s : State) (i : Nat) (m : Member) : (s.setMember i m).rsl = s.rsl :=
  State.logChange_rsl _ _ _ _ _
@[simp] theorem State.setMember_evs (s : State) (i : Nat) (m : Member) : (s.setMember i m).evs = s.evs :=
  State.logChange_evs _ _ _ _ _
@[simp] theorem State.setMember_ctrs (s : State) (i : Nat) (m : Member) : (s.setMember i m).ctrs = s.ctrs :=
  State.logChange_ctrs _ _ _ _ _
@[simp] theorem State.setMember_fresh (s : State) (i : Nat) (m : Member) : (s.setMember i m).fresh = s.fresh :=
  State.logChange_fresh _ _ _ _ _

@[simp] theorem State.member_setMember (s : State) (i : Nat) (m : Member) : (s.setMember i m).member i = m := by
  unfold State.member State.setMember; rw [State.logChange_pool]; exact Tab.get_set_self _ _ _ _

theorem State.member_setMember_ne (s : State) (i : Nat) (m : Member) (q : Nat) (h : q ≠ i) :
    (s.setMember i m).member q = s.member q := by
  unfold State.member State.setMember; rw [State.logChange_pool]; exact Tab.get_set_ne _ _ _ h

/-! ### setDomain: only `coh` and the state copy's journal -/

@[simp] theorem State.setDomain_pending (s : State) (d : Nat) (x : Domain) : (s.setDomain d x).pending = s.pending :=
  State.logChange_pending _ _ _ _ _
@[simp] theorem State.setDomain_power (s : State) (d : Nat) (x : Domain) : (s.setDomain d x).power = s.power :=
  State.logChange_power _ _ _ _ _
@[simp] theorem State.setDomain_clk (s : State) (d : Nat) (x : Domain) : (s.setDomain d x).clk = s.clk :=
  State.logChange_clk _ _ _ _ _
@[simp] theorem State.setDomain_boot (s : State) (d : Nat) (x : Domain) : (s.setDomain d x).boot = s.boot :=
  State.logChange_boot _ _ _ _ _
@[simp] theorem State.setDomain_cfg (s : State) (d : Nat) (x : Domain) : (s.setDomain d x).cfg = s.cfg :=
  State.logChange_cfg _ _ _ _ _
@[simp] theorem State.setDomain_tok (s : State) (d : Nat) (x : Domain) : (s.setDomain d x).tok = s.tok :=
  State.logChange_tok _ _ _ _ _
@[simp] theorem State.setDomain_ports (s : State) (d : Nat) (x : Domain) : (s.setDomain d x).ports = s.ports :=
  State.logChange_ports _ _ _ _ _
@[simp] theorem State.setDomain_fab (s : State) (d : Nat) (x : Domain) : (s.setDomain d x).fab = s.fab :=
  State.logChange_fab _ _ _ _ _
@[simp] theorem State.setDomain_pool (s : State) (d : Nat) (x : Domain) : (s.setDomain d x).pool = s.pool :=
  State.logChange_pool _ _ _ _ _
@[simp] theorem State.setDomain_coach (s : State) (d : Nat) (x : Domain) : (s.setDomain d x).coach = s.coach :=
  State.logChange_coach _ _ _ _ _
@[simp] theorem State.setDomain_stock (s : State) (d : Nat) (x : Domain) : (s.setDomain d x).stock = s.stock :=
  State.logChange_stock _ _ _ _ _
@[simp] theorem State.setDomain_repro (s : State) (d : Nat) (x : Domain) : (s.setDomain d x).repro = s.repro :=
  State.logChange_repro _ _ _ _ _
@[simp] theorem State.setDomain_mem (s : State) (d : Nat) (x : Domain) : (s.setDomain d x).mem = s.mem :=
  State.logChange_mem _ _ _ _ _
@[simp] theorem State.setDomain_sec (s : State) (d : Nat) (x : Domain) : (s.setDomain d x).sec = s.sec :=
  State.logChange_sec _ _ _ _ _
@[simp] theorem State.setDomain_rsl (s : State) (d : Nat) (x : Domain) : (s.setDomain d x).rsl = s.rsl :=
  State.logChange_rsl _ _ _ _ _
@[simp] theorem State.setDomain_evs (s : State) (d : Nat) (x : Domain) : (s.setDomain d x).evs = s.evs :=
  State.logChange_evs _ _ _ _ _
@[simp] theorem State.setDomain_ctrs (s : State) (d : Nat) (x : Domain) : (s.setDomain d x).ctrs = s.ctrs :=
  State.logChange_ctrs _ _ _ _ _
@[simp] theorem State.setDomain_fresh (s : State) (d : Nat) (x : Domain) : (s.setDomain d x).fresh = s.fresh :=
  State.logChange_fresh _ _ _ _ _

@[simp] theorem State.domain_setDomain (s : State) (d : Nat) (x : Domain) : (s.setDomain d x).domain d = x := by
  unfold State.domain State.setDomain; rw [State.logChange_coh]; exact Tab.get_set_self _ _ _ _

theorem State.domain_setDomain_ne (s : State) (d : Nat) (x : Domain) (q : Nat) (h : q ≠ d) :
    (s.setDomain d x).domain q = s.domain q := by
  unfold State.domain State.setDomain; rw [State.logChange_coh]; exact Tab.get_set_ne _ _ _ h

/-! ### setRing: only `coach` and the state copy's journal -/

@[simp] theorem State.setRing_pending (s : State) (r : Nat) (x : Ring) : (s.setRing r x).pending = s.pending :=
  State.logChange_pending _ _ _ _ _
@[simp] theorem State.setRing_power (s : State) (r : Nat) (x : Ring) : (s.setRing r x).power = s.power :=
  State.logChange_power _ _ _ _ _
@[simp] theorem State.setRing_clk (s : State) (r : Nat) (x : Ring) : (s.setRing r x).clk = s.clk :=
  State.logChange_clk _ _ _ _ _
@[simp] theorem State.setRing_boot (s : State) (r : Nat) (x : Ring) : (s.setRing r x).boot = s.boot :=
  State.logChange_boot _ _ _ _ _
@[simp] theorem State.setRing_cfg (s : State) (r : Nat) (x : Ring) : (s.setRing r x).cfg = s.cfg :=
  State.logChange_cfg _ _ _ _ _
@[simp] theorem State.setRing_tok (s : State) (r : Nat) (x : Ring) : (s.setRing r x).tok = s.tok :=
  State.logChange_tok _ _ _ _ _
@[simp] theorem State.setRing_ports (s : State) (r : Nat) (x : Ring) : (s.setRing r x).ports = s.ports :=
  State.logChange_ports _ _ _ _ _
@[simp] theorem State.setRing_fab (s : State) (r : Nat) (x : Ring) : (s.setRing r x).fab = s.fab :=
  State.logChange_fab _ _ _ _ _
@[simp] theorem State.setRing_pool (s : State) (r : Nat) (x : Ring) : (s.setRing r x).pool = s.pool :=
  State.logChange_pool _ _ _ _ _
@[simp] theorem State.setRing_coh (s : State) (r : Nat) (x : Ring) : (s.setRing r x).coh = s.coh :=
  State.logChange_coh _ _ _ _ _
@[simp] theorem State.setRing_stock (s : State) (r : Nat) (x : Ring) : (s.setRing r x).stock = s.stock :=
  State.logChange_stock _ _ _ _ _
@[simp] theorem State.setRing_repro (s : State) (r : Nat) (x : Ring) : (s.setRing r x).repro = s.repro :=
  State.logChange_repro _ _ _ _ _
@[simp] theorem State.setRing_mem (s : State) (r : Nat) (x : Ring) : (s.setRing r x).mem = s.mem :=
  State.logChange_mem _ _ _ _ _
@[simp] theorem State.setRing_sec (s : State) (r : Nat) (x : Ring) : (s.setRing r x).sec = s.sec :=
  State.logChange_sec _ _ _ _ _
@[simp] theorem State.setRing_rsl (s : State) (r : Nat) (x : Ring) : (s.setRing r x).rsl = s.rsl :=
  State.logChange_rsl _ _ _ _ _
@[simp] theorem State.setRing_evs (s : State) (r : Nat) (x : Ring) : (s.setRing r x).evs = s.evs :=
  State.logChange_evs _ _ _ _ _
@[simp] theorem State.setRing_ctrs (s : State) (r : Nat) (x : Ring) : (s.setRing r x).ctrs = s.ctrs :=
  State.logChange_ctrs _ _ _ _ _
@[simp] theorem State.setRing_fresh (s : State) (r : Nat) (x : Ring) : (s.setRing r x).fresh = s.fresh :=
  State.logChange_fresh _ _ _ _ _

@[simp] theorem State.ring_setRing (s : State) (r : Nat) (x : Ring) : (s.setRing r x).ring r = x := by
  unfold State.ring State.setRing; rw [State.logChange_coach]; exact Tab.get_set_self _ _ _ _

theorem State.ring_setRing_ne (s : State) (r : Nat) (x : Ring) (q : Nat) (h : q ≠ r) :
    (s.setRing r x).ring q = s.ring q := by
  unfold State.ring State.setRing; rw [State.logChange_coach]; exact Tab.get_set_ne _ _ _ h

/-! ### setFrec: only `coach` and the state copy's journal -/

@[simp] theorem State.setFrec_pending (s : State) (f : Nat) (x : FaultRec) : (s.setFrec f x).pending = s.pending :=
  State.logChange_pending _ _ _ _ _
@[simp] theorem State.setFrec_power (s : State) (f : Nat) (x : FaultRec) : (s.setFrec f x).power = s.power :=
  State.logChange_power _ _ _ _ _
@[simp] theorem State.setFrec_clk (s : State) (f : Nat) (x : FaultRec) : (s.setFrec f x).clk = s.clk :=
  State.logChange_clk _ _ _ _ _
@[simp] theorem State.setFrec_boot (s : State) (f : Nat) (x : FaultRec) : (s.setFrec f x).boot = s.boot :=
  State.logChange_boot _ _ _ _ _
@[simp] theorem State.setFrec_cfg (s : State) (f : Nat) (x : FaultRec) : (s.setFrec f x).cfg = s.cfg :=
  State.logChange_cfg _ _ _ _ _
@[simp] theorem State.setFrec_tok (s : State) (f : Nat) (x : FaultRec) : (s.setFrec f x).tok = s.tok :=
  State.logChange_tok _ _ _ _ _
@[simp] theorem State.setFrec_ports (s : State) (f : Nat) (x : FaultRec) : (s.setFrec f x).ports = s.ports :=
  State.logChange_ports _ _ _ _ _
@[simp] theorem State.setFrec_fab (s : State) (f : Nat) (x : FaultRec) : (s.setFrec f x).fab = s.fab :=
  State.logChange_fab _ _ _ _ _
@[simp] theorem State.setFrec_pool (s : State) (f : Nat) (x : FaultRec) : (s.setFrec f x).pool = s.pool :=
  State.logChange_pool _ _ _ _ _
@[simp] theorem State.setFrec_coh (s : State) (f : Nat) (x : FaultRec) : (s.setFrec f x).coh = s.coh :=
  State.logChange_coh _ _ _ _ _
@[simp] theorem State.setFrec_stock (s : State) (f : Nat) (x : FaultRec) : (s.setFrec f x).stock = s.stock :=
  State.logChange_stock _ _ _ _ _
@[simp] theorem State.setFrec_repro (s : State) (f : Nat) (x : FaultRec) : (s.setFrec f x).repro = s.repro :=
  State.logChange_repro _ _ _ _ _
@[simp] theorem State.setFrec_mem (s : State) (f : Nat) (x : FaultRec) : (s.setFrec f x).mem = s.mem :=
  State.logChange_mem _ _ _ _ _
@[simp] theorem State.setFrec_sec (s : State) (f : Nat) (x : FaultRec) : (s.setFrec f x).sec = s.sec :=
  State.logChange_sec _ _ _ _ _
@[simp] theorem State.setFrec_rsl (s : State) (f : Nat) (x : FaultRec) : (s.setFrec f x).rsl = s.rsl :=
  State.logChange_rsl _ _ _ _ _
@[simp] theorem State.setFrec_evs (s : State) (f : Nat) (x : FaultRec) : (s.setFrec f x).evs = s.evs :=
  State.logChange_evs _ _ _ _ _
@[simp] theorem State.setFrec_ctrs (s : State) (f : Nat) (x : FaultRec) : (s.setFrec f x).ctrs = s.ctrs :=
  State.logChange_ctrs _ _ _ _ _
@[simp] theorem State.setFrec_fresh (s : State) (f : Nat) (x : FaultRec) : (s.setFrec f x).fresh = s.fresh :=
  State.logChange_fresh _ _ _ _ _

@[simp] theorem State.frec_setFrec (s : State) (f : Nat) (x : FaultRec) : (s.setFrec f x).frec f = x := by
  unfold State.frec State.setFrec; rw [State.logChange_coach]; exact Tab.get_set_self _ _ _ _

theorem State.frec_setFrec_ne (s : State) (f : Nat) (x : FaultRec) (q : Nat) (h : q ≠ f) :
    (s.setFrec f x).frec q = s.frec q := by
  unfold State.frec State.setFrec; rw [State.logChange_coach]; exact Tab.get_set_ne _ _ _ h

/-! ### setBuf: only `stock` and the state copy's journal -/

@[simp] theorem State.setBuf_pending (s : State) (b : Nat) (x : Buf) : (s.setBuf b x).pending = s.pending :=
  State.logChange_pending _ _ _ _ _
@[simp] theorem State.setBuf_power (s : State) (b : Nat) (x : Buf) : (s.setBuf b x).power = s.power :=
  State.logChange_power _ _ _ _ _
@[simp] theorem State.setBuf_clk (s : State) (b : Nat) (x : Buf) : (s.setBuf b x).clk = s.clk :=
  State.logChange_clk _ _ _ _ _
@[simp] theorem State.setBuf_boot (s : State) (b : Nat) (x : Buf) : (s.setBuf b x).boot = s.boot :=
  State.logChange_boot _ _ _ _ _
@[simp] theorem State.setBuf_cfg (s : State) (b : Nat) (x : Buf) : (s.setBuf b x).cfg = s.cfg :=
  State.logChange_cfg _ _ _ _ _
@[simp] theorem State.setBuf_tok (s : State) (b : Nat) (x : Buf) : (s.setBuf b x).tok = s.tok :=
  State.logChange_tok _ _ _ _ _
@[simp] theorem State.setBuf_ports (s : State) (b : Nat) (x : Buf) : (s.setBuf b x).ports = s.ports :=
  State.logChange_ports _ _ _ _ _
@[simp] theorem State.setBuf_fab (s : State) (b : Nat) (x : Buf) : (s.setBuf b x).fab = s.fab :=
  State.logChange_fab _ _ _ _ _
@[simp] theorem State.setBuf_pool (s : State) (b : Nat) (x : Buf) : (s.setBuf b x).pool = s.pool :=
  State.logChange_pool _ _ _ _ _
@[simp] theorem State.setBuf_coh (s : State) (b : Nat) (x : Buf) : (s.setBuf b x).coh = s.coh :=
  State.logChange_coh _ _ _ _ _
@[simp] theorem State.setBuf_coach (s : State) (b : Nat) (x : Buf) : (s.setBuf b x).coach = s.coach :=
  State.logChange_coach _ _ _ _ _
@[simp] theorem State.setBuf_repro (s : State) (b : Nat) (x : Buf) : (s.setBuf b x).repro = s.repro :=
  State.logChange_repro _ _ _ _ _
@[simp] theorem State.setBuf_mem (s : State) (b : Nat) (x : Buf) : (s.setBuf b x).mem = s.mem :=
  State.logChange_mem _ _ _ _ _
@[simp] theorem State.setBuf_sec (s : State) (b : Nat) (x : Buf) : (s.setBuf b x).sec = s.sec :=
  State.logChange_sec _ _ _ _ _
@[simp] theorem State.setBuf_rsl (s : State) (b : Nat) (x : Buf) : (s.setBuf b x).rsl = s.rsl :=
  State.logChange_rsl _ _ _ _ _
@[simp] theorem State.setBuf_evs (s : State) (b : Nat) (x : Buf) : (s.setBuf b x).evs = s.evs :=
  State.logChange_evs _ _ _ _ _
@[simp] theorem State.setBuf_ctrs (s : State) (b : Nat) (x : Buf) : (s.setBuf b x).ctrs = s.ctrs :=
  State.logChange_ctrs _ _ _ _ _
@[simp] theorem State.setBuf_fresh (s : State) (b : Nat) (x : Buf) : (s.setBuf b x).fresh = s.fresh :=
  State.logChange_fresh _ _ _ _ _

@[simp] theorem State.buf_setBuf (s : State) (b : Nat) (x : Buf) : (s.setBuf b x).buf b = x := by
  unfold State.buf State.setBuf; rw [State.logChange_stock]; exact Tab.get_set_self _ _ _ _

theorem State.buf_setBuf_ne (s : State) (b : Nat) (x : Buf) (q : Nat) (h : q ≠ b) :
    (s.setBuf b x).buf q = s.buf q := by
  unfold State.buf State.setBuf; rw [State.logChange_stock]; exact Tab.get_set_ne _ _ _ h

/-! ### setRegion: only `repro` and the state copy's journal -/

@[simp] theorem State.setRegion_pending (s : State) (r : Nat) (x : Region) : (s.setRegion r x).pending = s.pending :=
  State.logChange_pending _ _ _ _ _
@[simp] theorem State.setRegion_power (s : State) (r : Nat) (x : Region) : (s.setRegion r x).power = s.power :=
  State.logChange_power _ _ _ _ _
@[simp] theorem State.setRegion_clk (s : State) (r : Nat) (x : Region) : (s.setRegion r x).clk = s.clk :=
  State.logChange_clk _ _ _ _ _
@[simp] theorem State.setRegion_boot (s : State) (r : Nat) (x : Region) : (s.setRegion r x).boot = s.boot :=
  State.logChange_boot _ _ _ _ _
@[simp] theorem State.setRegion_cfg (s : State) (r : Nat) (x : Region) : (s.setRegion r x).cfg = s.cfg :=
  State.logChange_cfg _ _ _ _ _
@[simp] theorem State.setRegion_tok (s : State) (r : Nat) (x : Region) : (s.setRegion r x).tok = s.tok :=
  State.logChange_tok _ _ _ _ _
@[simp] theorem State.setRegion_ports (s : State) (r : Nat) (x : Region) : (s.setRegion r x).ports = s.ports :=
  State.logChange_ports _ _ _ _ _
@[simp] theorem State.setRegion_fab (s : State) (r : Nat) (x : Region) : (s.setRegion r x).fab = s.fab :=
  State.logChange_fab _ _ _ _ _
@[simp] theorem State.setRegion_pool (s : State) (r : Nat) (x : Region) : (s.setRegion r x).pool = s.pool :=
  State.logChange_pool _ _ _ _ _
@[simp] theorem State.setRegion_coh (s : State) (r : Nat) (x : Region) : (s.setRegion r x).coh = s.coh :=
  State.logChange_coh _ _ _ _ _
@[simp] theorem State.setRegion_coach (s : State) (r : Nat) (x : Region) : (s.setRegion r x).coach = s.coach :=
  State.logChange_coach _ _ _ _ _
@[simp] theorem State.setRegion_stock (s : State) (r : Nat) (x : Region) : (s.setRegion r x).stock = s.stock :=
  State.logChange_stock _ _ _ _ _
@[simp] theorem State.setRegion_mem (s : State) (r : Nat) (x : Region) : (s.setRegion r x).mem = s.mem :=
  State.logChange_mem _ _ _ _ _
@[simp] theorem State.setRegion_sec (s : State) (r : Nat) (x : Region) : (s.setRegion r x).sec = s.sec :=
  State.logChange_sec _ _ _ _ _
@[simp] theorem State.setRegion_rsl (s : State) (r : Nat) (x : Region) : (s.setRegion r x).rsl = s.rsl :=
  State.logChange_rsl _ _ _ _ _
@[simp] theorem State.setRegion_evs (s : State) (r : Nat) (x : Region) : (s.setRegion r x).evs = s.evs :=
  State.logChange_evs _ _ _ _ _
@[simp] theorem State.setRegion_ctrs (s : State) (r : Nat) (x : Region) : (s.setRegion r x).ctrs = s.ctrs :=
  State.logChange_ctrs _ _ _ _ _
@[simp] theorem State.setRegion_fresh (s : State) (r : Nat) (x : Region) : (s.setRegion r x).fresh = s.fresh :=
  State.logChange_fresh _ _ _ _ _

@[simp] theorem State.region_setRegion (s : State) (r : Nat) (x : Region) : (s.setRegion r x).region r = x := by
  unfold State.region State.setRegion; rw [State.logChange_repro]; exact Tab.get_set_self _ _ _ _

theorem State.region_setRegion_ne (s : State) (r : Nat) (x : Region) (q : Nat) (h : q ≠ r) :
    (s.setRegion r x).region q = s.region q := by
  unfold State.region State.setRegion; rw [State.logChange_repro]; exact Tab.get_set_ne _ _ _ h

/-! ### setBarrier: only `repro` and the state copy's journal -/

@[simp] theorem State.setBarrier_pending (s : State) (b : Nat) (x : Barrier) : (s.setBarrier b x).pending = s.pending :=
  State.logChange_pending _ _ _ _ _
@[simp] theorem State.setBarrier_power (s : State) (b : Nat) (x : Barrier) : (s.setBarrier b x).power = s.power :=
  State.logChange_power _ _ _ _ _
@[simp] theorem State.setBarrier_clk (s : State) (b : Nat) (x : Barrier) : (s.setBarrier b x).clk = s.clk :=
  State.logChange_clk _ _ _ _ _
@[simp] theorem State.setBarrier_boot (s : State) (b : Nat) (x : Barrier) : (s.setBarrier b x).boot = s.boot :=
  State.logChange_boot _ _ _ _ _
@[simp] theorem State.setBarrier_cfg (s : State) (b : Nat) (x : Barrier) : (s.setBarrier b x).cfg = s.cfg :=
  State.logChange_cfg _ _ _ _ _
@[simp] theorem State.setBarrier_tok (s : State) (b : Nat) (x : Barrier) : (s.setBarrier b x).tok = s.tok :=
  State.logChange_tok _ _ _ _ _
@[simp] theorem State.setBarrier_ports (s : State) (b : Nat) (x : Barrier) : (s.setBarrier b x).ports = s.ports :=
  State.logChange_ports _ _ _ _ _
@[simp] theorem State.setBarrier_fab (s : State) (b : Nat) (x : Barrier) : (s.setBarrier b x).fab = s.fab :=
  State.logChange_fab _ _ _ _ _
@[simp] theorem State.setBarrier_pool (s : State) (b : Nat) (x : Barrier) : (s.setBarrier b x).pool = s.pool :=
  State.logChange_pool _ _ _ _ _
@[simp] theorem State.setBarrier_coh (s : State) (b : Nat) (x : Barrier) : (s.setBarrier b x).coh = s.coh :=
  State.logChange_coh _ _ _ _ _
@[simp] theorem State.setBarrier_coach (s : State) (b : Nat) (x : Barrier) : (s.setBarrier b x).coach = s.coach :=
  State.logChange_coach _ _ _ _ _
@[simp] theorem State.setBarrier_stock (s : State) (b : Nat) (x : Barrier) : (s.setBarrier b x).stock = s.stock :=
  State.logChange_stock _ _ _ _ _
@[simp] theorem State.setBarrier_mem (s : State) (b : Nat) (x : Barrier) : (s.setBarrier b x).mem = s.mem :=
  State.logChange_mem _ _ _ _ _
@[simp] theorem State.setBarrier_sec (s : State) (b : Nat) (x : Barrier) : (s.setBarrier b x).sec = s.sec :=
  State.logChange_sec _ _ _ _ _
@[simp] theorem State.setBarrier_rsl (s : State) (b : Nat) (x : Barrier) : (s.setBarrier b x).rsl = s.rsl :=
  State.logChange_rsl _ _ _ _ _
@[simp] theorem State.setBarrier_evs (s : State) (b : Nat) (x : Barrier) : (s.setBarrier b x).evs = s.evs :=
  State.logChange_evs _ _ _ _ _
@[simp] theorem State.setBarrier_ctrs (s : State) (b : Nat) (x : Barrier) : (s.setBarrier b x).ctrs = s.ctrs :=
  State.logChange_ctrs _ _ _ _ _
@[simp] theorem State.setBarrier_fresh (s : State) (b : Nat) (x : Barrier) : (s.setBarrier b x).fresh = s.fresh :=
  State.logChange_fresh _ _ _ _ _

@[simp] theorem State.barrier_setBarrier (s : State) (b : Nat) (x : Barrier) : (s.setBarrier b x).barrier b = x := by
  unfold State.barrier State.setBarrier; rw [State.logChange_repro]; exact Tab.get_set_self _ _ _ _

theorem State.barrier_setBarrier_ne (s : State) (b : Nat) (x : Barrier) (q : Nat) (h : q ≠ b) :
    (s.setBarrier b x).barrier q = s.barrier q := by
  unfold State.barrier State.setBarrier; rw [State.logChange_repro]; exact Tab.get_set_ne _ _ _ h

/-- The metadata of a line that has been written. -/
@[simp] theorem State.lineMeta_setMeta (s : State) (ppn line : Nat) (m : LineMeta) :
    (s.setMeta ppn line m).lineMeta ppn line = m := by
  unfold State.lineMeta State.setMeta; exact Tab.get_set_self _ _ _ _

/-- Counting adds to the one counter. -/
theorem State.ctr_bump (s : State) (g o c n : Nat) :
    (s.bump g o c n).ctr g o c = (s.ctr g o c + n) % two64 := by
  unfold State.ctr State.bump; exact Tab.get_set_self _ _ _ _

end Sys2Proof.Machine
end

