-- ==== Sys2Proof/Laws/Gate.lean ====
section
/-! SUPPORT. What the gates and the answers do: a request that is served reaches its handling table, a service-link
command that the link takes is carried out, and each is answered once. -/

set_option Elab.async false

namespace Sys2Proof.Machine
open Sys2Proof

theorem does_intro {i : Instr} {s t : State} {p : State → Prop} (h : exec i s = .next t) (hp : p t) : Does i s p :=
  ⟨t, h, hp⟩

theorem KeepsBut.refl (ps : List Area) (s : State) : KeepsBut ps s s := by
  intro p _; cases p <;> rfl

theorem KeepsBut.trans {ps : List Area} {s t u : State} (h : KeepsBut ps s t) (h' : KeepsBut ps t u) :
    KeepsBut ps s u := by
  intro p hp
  have a := h p hp
  have b := h' p hp
  cases p <;> exact Eq.trans b a

theorem same_bytes {s t : State} (h : t.mem.cells = s.mem.cells) : SameBytes s t :=
  fun a => by unfold State.byteAt; rw [h]

/-- Raising an event after changes that leave the queue, the epoch, the links, EV_BURST and the counters alone. -/
theorem raised_of {s t : State} {code sev die : Nat} {d : List Byte} (h : t.evs = s.evs) (h2 : t.epoch = s.epoch)
    (h3 : t.rslBothUp = s.rslBothUp) (h4 : t.cfgAt fEvBurst = s.cfgAt fEvBurst) (h5 : t.ctrs = s.ctrs) :
    Raised s (t.raise code sev die d) code sev die d := by
  unfold Raised State.raise State.queueEv
  simp only [h, h2, h3, h4, State.bump, h5]
  by_cases hs : s.evs.started = true <;> simp only [hs, ↓reduceIte, Bool.false_eq_true]
  split
  · split
    · rfl
    · split <;> rfl
  · split
    · rfl
    · split
      · rfl
      · split <;> rfl

/-- The stored bytes are in canonical form after reset. -/
theorem reset_memory_wf : Memory.wf State.reset.mem.cells = true := rfl

/-! ## The service link -/

/-- The link's gate carries out a command that it takes. -/
theorem rslGate_served {s : State} {c : RslCmd} {cmd : Nat} {resv : Bool} {k : State → State} (h : RslServed s c cmd)
    (hr : resv = false) : s.rslGate c cmd resv k = k (afterOpen s c cmd) := by
  subst hr
  obtain ⟨h1, h2, h3, h5, h6, h7, h8, h9⟩ := h
  have e1 : (State.bump s 10 0 25 1).rslOpen c.tag c.port cmd = afterOpen s c cmd := rfl
  have a1 : (afterOpen s c cmd).tokenHeld = true := h2
  have a2 : (afterOpen s c cmd).pairedEntry = none := h7
  have a3 : (afterOpen s c cmd).boot.recovery = s.boot.recovery := rfl
  have h6' : ¬ 1024 ≤ s.openCommands := by omega
  unfold State.rslGate
  simp only [h1, h3, h5, h6', e1, not_true_eq_false, if_false, Bool.false_eq_true]
  unfold State.rslJudge
  simp only [a1, a2, a3, h9]
  by_cases hr : s.boot.recovery = true
  · simp [hr, h8 hr]
  · simp [hr]

theorem answered_done {r : State} {c : RslCmd} {cmd code v : Nat} {d : List Byte} :
    RslAnswered r (r.rslAnswer c cmd code v d) c cmd code v d := by
  unfold State.rslAnswer State.rslDone RslAnswered
  dsimp only
  by_cases hr : rslReadOnly cmd = true
  · simp only [hr, if_true]
    split <;> split <;> exact ⟨_, rfl⟩
  · simp only [hr, Bool.false_eq_true, if_false, State.logChange_rsl]
    split <;> split <;> exact ⟨_, rfl⟩

theorem answered_of {r t : State} {c : RslCmd} {cmd code v : Nat} {d : List Byte} (h : t.rsl = r.rsl) :
    RslAnswered r (t.rslAnswer c cmd code v d) c cmd code v d := by
  have := @answered_done t c cmd code v d
  unfold RslAnswered at *; rw [h] at this; exact this

/-! ## Requests of the fabric -/

theorem arrive_served {s : State} {h : ReqHdr} {no : State → Nat → Nat → State} {k : State → State}
    (hs : ReqServed s h) : s.arrive h false no k = k (arrived s h) := by
  obtain ⟨h1, h2, h3, h4, h5, h6, h7⟩ := hs
  have e : ¬ (h.flags.getLsbD 2 ≠ decide (h.sess ≠ 0)) := not_not_intro h1
  have n : ¬ (h.sess ≠ 0 ∧ (arrived s h).isOpened h = false) := by
    rintro ⟨n1, n2⟩
    rcases h5 with h5 | h5
    · exact n1 h5
    · rw [h5] at n2; cases n2
  unfold State.arrive
  dsimp only
  rw [if_neg e]
  unfold arrived at *
  cases hj : (s.journaled h.jidx).isSome
  · obtain ⟨d, r, l⟩ : h.dst = s.fabricId ∧ s.srcAdmitted h.src = true ∧ s.twin.reqs.length < 262144 :=
      h2.resolve_left (by simp [hj])
    have l' : ¬ 262144 ≤ s.twin.reqs.length := by omega
    have ej : journalled s h = s.journalIn h false := by simp [journalled, hj]
    rw [ej] at h3 h4 h6 h7 n ⊢
    simp only [d, r, l', h3, h4, h6, h7, n, Bool.false_eq_true, not_true_eq_false, and_false, ne_eq,
      ↓reduceIte, Option.isSome_none, Bool.not_true, Bool.or_false]
  · have ej : journalled s h = s := by simp [journalled, hj]
    rw [ej] at h3 h4 h6 h7 n ⊢
    simp only [h3, h4, h6, h7, n, false_and, ↓reduceIte, Bool.false_eq_true, Bool.not_true, Bool.or_false,
      Option.isSome_none]

theorem colander_green {s : State} {h : ReqHdr} {cls : Nat} {no : State → Nat → Nat → State} {k : State → State}
    (hg : (s.police h cls).2 = false) : s.colander h cls no k = k (s.police h cls).1 := by
  unfold State.colander
  simp [hg]

/-- A class-3 command that reaches its handling table is handled there. -/
theorem classThree_reached {s : State} {v : Via} {cmd : Nat} {lens : List Nat} {mask : BitVec 32} {resv : Bool}
    {no : State → Nat → Nat → State} {k : State → State} (h : Reaches v cmd lens mask s) (hr : resv = false) :
    s.classThree v cmd lens mask resv no k = k (reached v cmd s) := by
  subst hr
  cases v with
  | fabric q =>
    obtain ⟨⟨a, b, c⟩, d, w⟩ := h
    unfold State.classThree
    have w' : (s.copyFull && !rslReadOnly cmd) = false := by
      cases hc : s.copyFull
      · rfl
      · simp [w hc]
    dsimp only
    rw [w', arrive_served a]
    simp [d, colander_green b, c, reached, admitted]
  | rsl c =>
    obtain ⟨a, b, d⟩ := h
    unfold State.classThree
    dsimp only
    rw [rslGate_served a (by rcases d with d | d <;> simp [d])]
    have : (afterOpen s c cmd).tok.fatal = none := b
    simp [this, reached]
  | ch c sid => simp [State.classThree, reached]

theorem countPoison_fab (s : State) (h c : Nat) : (s.countPoison h c).fab = s.fab := by
  unfold State.countPoison; split <;> simp

theorem countPoison_sec (s : State) (h c : Nat) : (s.countPoison h c).sec = s.sec := by
  unfold State.countPoison; split <;> simp

theorem countPoison_rsl (s : State) (h c : Nat) : (s.countPoison h c).rsl = s.rsl := by
  unfold State.countPoison; split <;> simp

theorem rslDone_answered {r t : State} {c : RslCmd} {cmd code v : Nat} {d : List Byte} (h : t.rsl = r.rsl) :
    RslAnswered r (t.rslDone cmd c.tag c.port code v d) c cmd code v d := answered_of h

/-- Finishing a class-3 command makes its completion. -/
theorem finish_completes {r t : State} {v : Via} {cmd rsp code value : Nat} {body extra : List Byte}
    (hf : t.fab = r.fab) (hl : t.rsl = r.rsl) (hs : t.sec = r.sec) :
    Completes r (t.finish v cmd rsp code value body extra) v cmd rsp code value body extra := by
  unfold State.finish
  cases v with
  | fabric h =>
    refine ⟨_, ?_, rfl⟩
    unfold State.send
    dsimp only
    split
    · rw [countPoison_fab, hf]
    · rw [State.logChange_fab, countPoison_fab, hf]
  | rsl c => exact rslDone_answered (by rw [countPoison_rsl, hl])
  | ch c sid =>
    have e : (t.countPoison (t.viaHost (.ch c sid)) code).session sid = r.session sid := by
      unfold State.session
      rw [countPoison_sec, hs]
    unfold Completes
    dsimp only
    rw [e]
    cases r.session sid with
    | none => exact rslDone_answered (by rw [countPoison_rsl, hl])
    | some x => exact rslDone_answered (by unfold State.useSeq; dsimp only; rw [countPoison_rsl, hl])

end Sys2Proof.Machine
end

