-- ==== Sys2Proof/Tests/Slice0.lean ====
section
/-! SUPPORT. Small checks. The first part shows that WellFormed refuses an ill-formed term for each of its checks; the
second shows, for each clause of each statement, a concrete state and operands that meet all its conditions together.
The base state `up` is a module that is up: powered, fabric time LOCKED, one control die active, a tenant with two hosts
and one extent; each witness changes in it what its clause needs. -/

namespace Sys2Proof.Tests
open Sys2Proof Sys2Proof.Machine

set_option maxRecDepth 10000
set_option Elab.async false

def okHdr : ReqHdr := ⟨0, 0, 0, 0, 1, 0, 0, 0, 0, 0, 0, 0⟩
def okCmd : RslCmd := ⟨0, 0, 0, 0, 0⟩
def okFlit : RawFlit := ⟨zeros 256, 0⟩
def okRing : RingArgs := ⟨0, 0, 4, 0, 0, 1, 0⟩
def okRed : RedArgs := ⟨0, 0, 0, 0, 0, 0, 0, 0, 0, 0, 0, 0, 0, 1, 0⟩

/-- Well-formed commands. -/
def wellFormedTerm1 : List Instr :=
  [.vinTurnOn 0, .vinTurnOff 0, .inputLowEntry 0, .inputHighEntry 0, .overvoltageCutoff 0, .restartAfterCutoff 0 0,
    .inputReversal 0, .modRstN 0, .svcRstN 0, .moduleResetRelease, .softStartDone, .railGroupEnable 0,
    .railEnableTimeout 0, .porRelease 0 0, .oscStartDelayEnd true 0 true 0, .imageChoiceDone true true,
    .dieFirmwareDone 0, .configCheckDone 0, .cdBClaimWaitEnd, .loadStageDone, .stackCalDone 0 true, .wipeRangeDone,
    .efuseOpen 0 0 0, .senseLineOpen 0, .railOutOfRange 0 0, .cableFitted 0 0, .cableRemoved 0, .cableFault 0,
    .debugAccess 0, .thermalStepUndo 0, .tripInputOff, .thermalComparator 0, .powerAverageUpdate 0, .powerClockStep,
    .powerStepUndo, .crystalMissingEdge true, .crystalFrequencyFlag true 0, .crystalHoldEnd, .loopLockLoss 0 [],
    .monitorSample 0 0 true, .epochBoundary true true, .hubEpochBoundary 0 true, .tokenClaim 0 0, .tokenRenew 0 0,
    .tokenRelease 0 0, .tokenExpiry 0, .obeyingDieCommand 0 0 .command, .tokenReply 0 0 .granted, .renewalSilence,
    .d2dCrcError 0 true, .d2dLinkFail 0, .flitTx 0 0, .dataFlitRx 0 okFlit [], .idle 0 okFlit, .nak 0 okFlit,
    .creditSync 0 okFlit, .time 0 okFlit 0, .timeProbe 0 okFlit 0, .timeEcho 0 okFlit 0, .linkParam 0 okFlit 0]

/-- Well-formed commands. -/
def wellFormedTerm2 : List Instr :=
  [.laneSwap 0 okFlit, .malformedControlFlit 0 okFlit, .replayTimerExpiry 0 0, .linkSilenceTimeout 0,
    .laneLockLoss 0 0, .laneFecFault 0 0 [], .trainingStart 0 0, .trainingDone 0, .trainingTimeout 0,
    .trainingRetry 0, .laneSwapDone 0, .ingressSlotRelease 0 0, .messageBind, .gateBurstStart 0 0 0 0,
    .routeDrained 0, .circuitActivate 0, .circuitRemove 0, .undefinedOpcode (.rsl okCmd) 0 0, .rdNc okHdr 0 0 [],
    .rdShared okHdr 0 0, .rdOwn okHdr 0 0, .wrNc okHdr 0 0 0 [], .wbDirty okHdr 0 0 0, .evict okHdr 0 0,
    .atomic okHdr 0 0 0 [], .snpAck okHdr, .snpData okHdr 0 0 0 0 0, .grantAck okHdr, .homeLineReadDone 0 [],
    .hubWriteAccepted 0, .starvationEntryTimeout 0, .cohDeadlineExpiry 0, .cohDownReport okHdr 0 0 0 0,
    .cohDomainCreate okCmd 0, .cohMemberAdd okCmd 0 0 0, .cohMemberRemove okCmd 0 0, .cohExtBind okCmd 0 0,
    .cohExtUnbind okCmd 0, .cohDomainDown okCmd 0, .cohDomainReset okCmd 0, .cohDomainFree okCmd 0,
    .cohDomainQuery okCmd 0, .leaseRenew (.rsl okCmd), .extAlloc (.rsl okCmd) 0 0 0 0,
    .extGrant (.rsl okCmd) 0 0 0 0, .extRelease (.rsl okCmd) 0 0 0, .extWithdraw (.rsl okCmd) 0 0 0,
    .setInfo (.rsl okCmd), .hostAssign okCmd 0 0 0, .tenantSet okCmd 0 0, .extQuery okCmd 0, .leaseQuery okCmd 0,
    .setMaster okCmd 0 0 0, .leaseEnd 0, .graceEnd 0, .reclaimDone 0, .extentFree 0, .setDelta okHdr 0 0 [],
    .setAck okHdr 0 0, .setCmd okHdr 0 (.withdraw 0 0)]

/-- Well-formed commands. -/
def wellFormedTerm3 : List Instr :=
  [.setDone okHdr 0 0, .setJoin okHdr 0 0 0, .setJoinAck okHdr 0 0 0 0, .setJoinSend, .setFormationEnd,
    .setMemberLoss 0, .setMasterLoss, .ringArm (.rsl okCmd) okRing, .ringStop (.rsl okCmd) 0 0,
    .faultResolve (.rsl okCmd) 0 0 0 0, .ringQuery okCmd 0, .faultQuery okCmd 0, .invalidate okCmd 0 0 0 0 0,
    .walkDone 0 0 [], .engineDispatch 0, .coachAck okHdr, .descriptorComplete 0 0 none [], .faultRecordExpiry 0,
    .redOpen (.rsl okCmd) okRed, .redReset (.rsl okCmd) 0 0 0, .redClose (.rsl okCmd) 0, .redQuery (.rsl okCmd) 0,
    .redWr okHdr 0 0 0 [] [], .redLineCombine 0 [], .laneGroupFault 0, .barrier (.rsl okCmd) 0 0 0 0,
    .barrierTimeout 0, .launch (.rsl okCmd) 0 0 0, .launchFire 0, .pairedCheck okCmd 0, .pairedEntryDone,
    .pairedMismatch 0, .pubCreate (.rsl okCmd) 0, .publish (.rsl okCmd) 0 0 0 0, .publishJudge,
    .pubMap (.rsl okCmd) 0, .pubRelease (.rsl okCmd) 0 0, .pubDelete (.rsl okCmd) 0, .pubQuery (.rsl okCmd) 0,
    .ceBucketLeak, .stackOvfHalve, .openSweepDone 0, .ladleOverwriteDone 0, .ladleScrubRead 0 0 [] true,
    .rdmRefresh 0 0 0, .calibrationSlot 0, .pageMoveCopyDone 0, .stackFail 0, .stackRemove okCmd 0,
    .stackReturn okCmd 0, .stackReset okCmd 0, .stackResetDone 0 true, .accessDump (.rsl okCmd) 0 0 0 0,
    .sramCorrectable 0 0 0, .sramUncorrectable 0 0 0, .ceLogRead okCmd, .cutAck 0, .cutLagTimeout, .tenderReady,
    .resyncStart]

/-- Well-formed commands. -/
def wellFormedTerm4 : List Instr :=
  [.commitListRead 0 true, .tenderLinkRetrain true, .failNotice true, .activeSelfFault, .silentDetect,
    .tokenExpiryIndication, .claimTimeout, .twinSwitch okCmd, .handover, .dieReset okCmd 0, .dieReady 0 true,
    .portReset okCmd 0, .portResetIdleEnd 0, .moduleReset okCmd, .bootStatus okCmd, .imageWrite okCmd 0 0 0 0 [],
    .lcAdvance okCmd 0, .provision okCmd true, .secMinRaise okCmd 0, .debugOpen okCmd true, .cfgWrite okCmd 0 0,
    .cfgRead okCmd 0, .statusRead okCmd 0 0 0, .timeRelock okCmd, .timeSourceIneligible 0, .holdoverExpiry,
    .evAck okCmd 0, .rslEcho okCmd 0, .routeLoad okCmd 0 0 [], .routeCommit okCmd 0,
    .policerSet okCmd 0 0 0 0 0 0 0, .cktSetup okCmd 0 0 0 0 [], .cktTeardown okCmd 0 0,
    .ctrRead (.rsl okCmd) 0 0 0 0, .objQuery (.rsl okCmd) 0 0 0, .rslFrameInvalid 0 0, .rslCommandRepeat 0 0 0,
    .evBucketRefill, .attest (.rsl okCmd) 0 0 0 0, .attestSign, .certGet (.rsl okCmd) 0 0,
    .sessOpen (.rsl okCmd) 0 0 0, .sessProve (.rsl okCmd) 0 0 0 0, .sessClose (.rsl okCmd) 0,
    .sessionPendingTimeout 0, .encryptedMessageRx okHdr 0 0 0 0 [] ((zeros 16)), .sealImport (.rsl okCmd) 0 0 0 0,
    .sealImportDone 0, .sealQuery (.rsl okCmd) 0 0 0, .keystoreChangeAck, .chOpen okCmd 0 ((zeros 160)),
    .chCmd okCmd 0 0 0 [] ((zeros 16)) .setInfo, .moduleResetBegin, .inputReversalEnd]

/-- Commands with one operand that does not fit. -/
def illFormedTerm1 : List Instr :=
  [.railEnableTimeout 18, .dieFirmwareDone 2, .configCheckDone 2, .stackCalDone 12 true, .efuseOpen 18 0 0,
    .senseLineOpen 18, .railOutOfRange 18 0, .cableFitted 8 0, .cableRemoved 8, .cableFault 8, .thermalStepUndo 17,
    .thermalComparator 24, .crystalFrequencyFlag true (256 ^ 4), .loopLockLoss 5 [], .monitorSample 52 0 true,
    .hubEpochBoundary 2 true, .tokenClaim 3 0, .tokenClaim 0 2, .tokenRenew 3 0, .tokenRenew 0 2, .tokenRelease 3 0,
    .tokenRelease 0 2, .tokenExpiry 3, .obeyingDieCommand 3 0 .command, .obeyingDieCommand 0 2 .command,
    .tokenReply 2 0 .granted, .tokenReply 0 3 .granted, .d2dCrcError 16 true, .d2dLinkFail 16, .flitTx 66 0,
    .dataFlitRx 66 okFlit [], .dataFlitRx 0 ⟨zeros 255, 0⟩ [], .idle 66 okFlit, .idle 0 ⟨zeros 255, 0⟩,
    .nak 66 okFlit, .nak 0 ⟨zeros 255, 0⟩, .creditSync 66 okFlit, .creditSync 0 ⟨zeros 255, 0⟩, .time 66 okFlit 0,
    .time 0 ⟨zeros 255, 0⟩ 0, .time 0 okFlit (256 ^ 8), .timeProbe 66 okFlit 0, .timeProbe 0 ⟨zeros 255, 0⟩ 0,
    .timeProbe 0 okFlit (256 ^ 8), .timeEcho 66 okFlit 0, .timeEcho 0 ⟨zeros 255, 0⟩ 0,
    .timeEcho 0 okFlit (256 ^ 8), .linkParam 66 okFlit 0, .linkParam 0 ⟨zeros 255, 0⟩ 0,
    .linkParam 0 okFlit (256 ^ 1), .laneSwap 66 okFlit, .laneSwap 0 ⟨zeros 255, 0⟩, .malformedControlFlit 66 okFlit,
    .malformedControlFlit 0 ⟨zeros 255, 0⟩, .replayTimerExpiry 66 0, .replayTimerExpiry 0 4096,
    .linkSilenceTimeout 66, .laneLockLoss 66 0, .laneFecFault 66 0 [], .laneFecFault 0 5 []]

/-- Commands with one operand that does not fit. -/
def illFormedTerm2 : List Instr :=
  [.trainingStart 66 0, .trainingDone 66, .trainingTimeout 66, .trainingRetry 66, .laneSwapDone 66,
    .ingressSlotRelease 66 0, .ingressSlotRelease 0 4, .gateBurstStart 66 0 0 0, .gateBurstStart 0 (256 ^ 2) 0 0,
    .gateBurstStart 0 0 4 0, .routeDrained 2, .circuitActivate (256 ^ 2), .circuitRemove (256 ^ 2),
    .undefinedOpcode (.rsl { okCmd with port := 2 }) 0 0, .undefinedOpcode (.rsl okCmd) (256 ^ 1) 0,
    .undefinedOpcode (.rsl okCmd) 0 (256 ^ 2), .rdNc { okHdr with port := 64 } 0 0 [], .rdNc okHdr (256 ^ 8) 0 [],
    .rdNc okHdr 0 (256 ^ 8) [], .rdNc okHdr 0 0 [(72, 1)], .rdShared { okHdr with port := 64 } 0 0,
    .rdShared okHdr (256 ^ 8) 0, .rdShared okHdr 0 (256 ^ 8), .rdOwn { okHdr with port := 64 } 0 0,
    .rdOwn okHdr (256 ^ 8) 0, .rdOwn okHdr 0 (256 ^ 8), .wrNc { okHdr with port := 64 } 0 0 0 [],
    .wrNc okHdr (256 ^ 8) 0 0 [], .wrNc okHdr 0 0 0 [(72, 1)], .wbDirty { okHdr with port := 64 } 0 0 0,
    .wbDirty okHdr (256 ^ 8) 0 0, .evict { okHdr with port := 64 } 0 0, .evict okHdr (256 ^ 8) 0,
    .evict okHdr 0 (256 ^ 8), .atomic { okHdr with port := 64 } 0 0 0 [], .atomic okHdr (256 ^ 8) 0 0 [],
    .atomic okHdr 0 (256 ^ 8) 0 [], .atomic okHdr 0 0 0 [(72, 1)], .snpAck { okHdr with port := 64 },
    .snpData { okHdr with port := 64 } 0 0 0 0 0, .snpData okHdr (256 ^ 8) 0 0 0 0,
    .snpData okHdr 0 (256 ^ 2) 0 0 0, .snpData okHdr 0 0 (256 ^ 2) 0 0, .grantAck { okHdr with port := 64 },
    .homeLineReadDone 0 [(72, 1)], .hubWriteAccepted 2, .cohDownReport { okHdr with port := 64 } 0 0 0 0,
    .cohDownReport okHdr (256 ^ 4) 0 0 0, .cohDownReport okHdr 0 (256 ^ 2) 0 0,
    .cohDownReport okHdr 0 0 (256 ^ 2) 0, .cohDomainCreate { okCmd with port := 2 } 0,
    .cohDomainCreate okCmd (256 ^ 2), .cohMemberAdd { okCmd with port := 2 } 0 0 0,
    .cohMemberAdd okCmd (256 ^ 2) 0 0, .cohMemberAdd okCmd 0 (256 ^ 4) 0, .cohMemberAdd okCmd 0 0 (256 ^ 2),
    .cohMemberRemove { okCmd with port := 2 } 0 0, .cohMemberRemove okCmd (256 ^ 2) 0,
    .cohMemberRemove okCmd 0 (256 ^ 4), .cohExtBind { okCmd with port := 2 } 0 0]

/-- Commands with one operand that does not fit. -/
def illFormedTerm3 : List Instr :=
  [.cohExtBind okCmd (256 ^ 2) 0, .cohExtBind okCmd 0 (256 ^ 2), .cohExtUnbind { okCmd with port := 2 } 0,
    .cohExtUnbind okCmd (256 ^ 2), .cohDomainDown { okCmd with port := 2 } 0, .cohDomainDown okCmd (256 ^ 2),
    .cohDomainReset { okCmd with port := 2 } 0, .cohDomainReset okCmd (256 ^ 2),
    .cohDomainFree { okCmd with port := 2 } 0, .cohDomainFree okCmd (256 ^ 2),
    .cohDomainQuery { okCmd with port := 2 } 0, .cohDomainQuery okCmd (256 ^ 2),
    .leaseRenew (.rsl { okCmd with port := 2 }), .extAlloc (.rsl { okCmd with port := 2 }) 0 0 0 0,
    .extAlloc (.rsl okCmd) (256 ^ 1) 0 0 0, .extAlloc (.rsl okCmd) 0 (256 ^ 1) 0 0,
    .extAlloc (.rsl okCmd) 0 0 (256 ^ 4) 0, .extGrant (.rsl { okCmd with port := 2 }) 0 0 0 0,
    .extGrant (.rsl okCmd) (256 ^ 2) 0 0 0, .extGrant (.rsl okCmd) 0 (256 ^ 2) 0 0,
    .extGrant (.rsl okCmd) 0 0 (256 ^ 1) 0, .extRelease (.rsl { okCmd with port := 2 }) 0 0 0,
    .extRelease (.rsl okCmd) (256 ^ 2) 0 0, .extRelease (.rsl okCmd) 0 (256 ^ 2) 0,
    .extWithdraw (.rsl { okCmd with port := 2 }) 0 0 0, .extWithdraw (.rsl okCmd) (256 ^ 2) 0 0,
    .extWithdraw (.rsl okCmd) 0 (256 ^ 1) 0, .setInfo (.rsl { okCmd with port := 2 }),
    .hostAssign { okCmd with port := 2 } 0 0 0, .hostAssign okCmd (256 ^ 2) 0 0, .hostAssign okCmd 0 (256 ^ 2) 0,
    .hostAssign okCmd 0 0 (256 ^ 1), .tenantSet { okCmd with port := 2 } 0 0, .tenantSet okCmd (256 ^ 2) 0,
    .tenantSet okCmd 0 (256 ^ 4), .extQuery { okCmd with port := 2 } 0, .extQuery okCmd (256 ^ 2),
    .leaseQuery { okCmd with port := 2 } 0, .leaseQuery okCmd (256 ^ 2), .setMaster { okCmd with port := 2 } 0 0 0,
    .setMaster okCmd (256 ^ 1) 0 0, .setMaster okCmd 0 0 (256 ^ 4), .leaseEnd (256 ^ 2), .graceEnd (256 ^ 2),
    .reclaimDone (256 ^ 2), .extentFree (256 ^ 2), .setDelta { okHdr with port := 64 } 0 0 [],
    .setDelta okHdr (256 ^ 4) 0 [], .setDelta okHdr 0 (256 ^ 8) [], .setDelta okHdr 0 0 [⟨256 ^ 2, true, 0, 0, 0⟩],
    .setAck { okHdr with port := 64 } 0 0, .setAck okHdr (256 ^ 4) 0, .setAck okHdr 0 (256 ^ 8),
    .setCmd { okHdr with port := 64 } 0 (.withdraw 0 0), .setCmd okHdr (256 ^ 4) (.withdraw 0 0),
    .setCmd okHdr 0 (.place (256 ^ 2) 0 0 0 0 0 0), .setCmd okHdr 0 (.place 0 (256 ^ 1) 0 0 0 0 0),
    .setCmd okHdr 0 (.place 0 0 (256 ^ 2) 0 0 0 0), .setCmd okHdr 0 (.place 0 0 0 (256 ^ 2) 0 0 0),
    .setCmd okHdr 0 (.place 0 0 0 0 (256 ^ 4) 0 0)]

/-- Commands with one operand that does not fit. -/
def illFormedTerm4 : List Instr :=
  [.setCmd okHdr 0 (.place 0 0 0 0 0 (256 ^ 1) 0), .setCmd okHdr 0 (.place 0 0 0 0 0 0 (256 ^ 1)),
    .setCmd okHdr 0 (.grant (256 ^ 2) 0 0), .setCmd okHdr 0 (.grant 0 (256 ^ 2) 0),
    .setCmd okHdr 0 (.grant 0 0 (256 ^ 1)), .setCmd okHdr 0 (.release (256 ^ 2) 0),
    .setCmd okHdr 0 (.release 0 (256 ^ 2)), .setCmd okHdr 0 (.withdraw (256 ^ 2) 0),
    .setCmd okHdr 0 (.withdraw 0 (256 ^ 1)), .setCmd okHdr 0 (.assign (256 ^ 2) 0 0),
    .setCmd okHdr 0 (.assign 0 (256 ^ 2) 0), .setCmd okHdr 0 (.assign 0 0 (256 ^ 1)),
    .setCmd okHdr 0 (.domain (256 ^ 2) 0 0 0 0 []), .setCmd okHdr 0 (.domain 0 (256 ^ 1) 0 0 0 []),
    .setCmd okHdr 0 (.domain 0 0 (256 ^ 2) 0 0 []), .setCmd okHdr 0 (.domain 0 0 0 (256 ^ 1) 0 []),
    .setCmd okHdr 0 (.domain 0 0 0 0 (256 ^ 2) []), .setCmd okHdr 0 (.domain 0 0 0 0 0 [(256, 0)]),
    .setCmd okHdr 0 (.domain 0 0 0 0 0 [(0, 65536)]), .setCmd okHdr 0 (.bind (256 ^ 2) none),
    .setCmd okHdr 0 (.bind 0 (some 65536)), .setCmd okHdr 0 (.entry (256 ^ 2) true true true 0 none),
    .setCmd okHdr 0 (.entry 0 true true true (256 ^ 2) none),
    .setCmd okHdr 0 (.entry 0 true true true 0 (some 65536)), .setDone { okHdr with port := 64 } 0 0,
    .setDone okHdr (256 ^ 4) 0, .setDone okHdr 0 (256 ^ 1), .setJoin { okHdr with port := 64 } 0 0 0,
    .setJoin okHdr (256 ^ 4) 0 0, .setJoin okHdr 0 (256 ^ 1) 0, .setJoin okHdr 0 0 (256 ^ 48),
    .setJoinAck { okHdr with port := 64 } 0 0 0 0, .setJoinAck okHdr (256 ^ 4) 0 0 0,
    .setJoinAck okHdr 0 (256 ^ 4) 0 0, .setJoinAck okHdr 0 0 (256 ^ 1) 0, .setJoinAck okHdr 0 0 0 (256 ^ 1),
    .setMemberLoss (256 ^ 4), .ringArm (.rsl { okCmd with port := 2 }) okRing,
    .ringArm (.rsl okCmd) { okRing with base := 256 ^ 8 }, .ringStop (.rsl { okCmd with port := 2 }) 0 0,
    .ringStop (.rsl okCmd) (256 ^ 2) 0, .ringStop (.rsl okCmd) 0 (256 ^ 1),
    .faultResolve (.rsl { okCmd with port := 2 }) 0 0 0 0, .faultResolve (.rsl okCmd) (256 ^ 2) 0 0 0,
    .faultResolve (.rsl okCmd) 0 (256 ^ 2) 0 0, .faultResolve (.rsl okCmd) 0 0 (256 ^ 1) 0,
    .ringQuery { okCmd with port := 2 } 0, .ringQuery okCmd (256 ^ 2), .faultQuery { okCmd with port := 2 } 0,
    .faultQuery okCmd (256 ^ 2), .invalidate { okCmd with port := 2 } 0 0 0 0 0,
    .invalidate okCmd (256 ^ 2) 0 0 0 0, .invalidate okCmd 0 (256 ^ 1) 0 0 0, .invalidate okCmd 0 0 (256 ^ 8) 0 0,
    .invalidate okCmd 0 0 0 (256 ^ 8) 0, .invalidate okCmd 0 0 0 0 (256 ^ 8), .walkDone (256 ^ 2) 0 [],
    .walkDone 0 (256 ^ 4) [], .walkDone 0 0 [(72, 1)], .engineDispatch 8192]

/-- Commands with one operand that does not fit. -/
def illFormedTerm5 : List Instr :=
  [.coachAck { okHdr with port := 64 }, .descriptorComplete (256 ^ 2) 0 none [],
    .descriptorComplete 0 (256 ^ 4) none [], .descriptorComplete 0 0 none [(72, 1)], .faultRecordExpiry (256 ^ 2),
    .redOpen (.rsl { okCmd with port := 2 }) okRed, .redOpen (.rsl okCmd) { okRed with contributors := 256 ^ 2 },
    .redReset (.rsl { okCmd with port := 2 }) 0 0 0, .redReset (.rsl okCmd) (256 ^ 2) 0 0,
    .redReset (.rsl okCmd) 0 (256 ^ 8) 0, .redClose (.rsl { okCmd with port := 2 }) 0,
    .redClose (.rsl okCmd) (256 ^ 2), .redQuery (.rsl { okCmd with port := 2 }) 0, .redQuery (.rsl okCmd) (256 ^ 2),
    .redWr { okHdr with port := 64 } 0 0 0 [] [], .redWr okHdr (256 ^ 8) 0 0 [] [],
    .redWr okHdr 0 (256 ^ 2) 0 [] [], .redLineCombine (256 ^ 4) [], .redLineCombine 0 [(72, 1)],
    .laneGroupFault (256 ^ 1), .barrier (.rsl { okCmd with port := 2 }) 0 0 0 0,
    .barrier (.rsl okCmd) (256 ^ 2) 0 0 0, .barrier (.rsl okCmd) 0 (256 ^ 4) 0 0,
    .barrier (.rsl okCmd) 0 0 (256 ^ 2) 0, .barrierTimeout (256 ^ 2), .launch (.rsl { okCmd with port := 2 }) 0 0 0,
    .launch (.rsl okCmd) (256 ^ 2) 0 0, .launch (.rsl okCmd) 0 (256 ^ 8) 0, .launchFire (256 ^ 2),
    .pairedCheck { okCmd with port := 2 } 0, .pairedCheck okCmd (256 ^ 1),
    .pubCreate (.rsl { okCmd with port := 2 }) 0, .pubCreate (.rsl okCmd) (256 ^ 1),
    .publish (.rsl { okCmd with port := 2 }) 0 0 0 0, .publish (.rsl okCmd) (256 ^ 2) 0 0 0,
    .publish (.rsl okCmd) 0 (256 ^ 8) 0 0, .publish (.rsl okCmd) 0 0 (256 ^ 2) 0,
    .pubMap (.rsl { okCmd with port := 2 }) 0, .pubMap (.rsl okCmd) (256 ^ 2),
    .pubRelease (.rsl { okCmd with port := 2 }) 0 0, .pubRelease (.rsl okCmd) (256 ^ 2) 0,
    .pubRelease (.rsl okCmd) 0 (256 ^ 8), .pubDelete (.rsl { okCmd with port := 2 }) 0,
    .pubDelete (.rsl okCmd) (256 ^ 2), .pubQuery (.rsl { okCmd with port := 2 }) 0,
    .pubQuery (.rsl okCmd) (256 ^ 2), .openSweepDone 15728640, .ladleOverwriteDone 15728640,
    .ladleScrubRead 15728640 0 [] true, .ladleScrubRead 0 0 [(72, 1)] true, .rdmRefresh 12 0 0,
    .calibrationSlot 384, .pageMoveCopyDone 15728640, .stackFail 12, .stackRemove { okCmd with port := 2 } 0,
    .stackRemove okCmd 256, .stackReturn { okCmd with port := 2 } 0, .stackReturn okCmd 256,
    .stackReset { okCmd with port := 2 } 0, .stackReset okCmd 256]

/-- Commands with one operand that does not fit. -/
def illFormedTerm6 : List Instr :=
  [.stackResetDone 12 true, .accessDump (.rsl { okCmd with port := 2 }) 0 0 0 0,
    .accessDump (.rsl okCmd) (256 ^ 2) 0 0 0, .accessDump (.rsl okCmd) 0 (256 ^ 4) 0 0,
    .accessDump (.rsl okCmd) 0 0 (256 ^ 4) 0, .accessDump (.rsl okCmd) 0 0 0 (256 ^ 8), .sramCorrectable 5 0 0,
    .sramUncorrectable 5 0 0, .sramUncorrectable 0 0 (256 ^ 8), .ceLogRead { okCmd with port := 2 },
    .cutAck (256 ^ 8), .commitListRead 2 true, .twinSwitch { okCmd with port := 2 },
    .dieReset { okCmd with port := 2 } 0, .dieReset okCmd (256 ^ 1), .dieReady 2 true,
    .portReset { okCmd with port := 2 } 0, .portReset okCmd (256 ^ 1), .portResetIdleEnd 66,
    .moduleReset { okCmd with port := 2 }, .bootStatus { okCmd with port := 2 },
    .imageWrite okCmd 0 0 0 0 (zeros 65537), .imageWrite { okCmd with port := 2 } 0 0 0 0 [],
    .imageWrite okCmd (256 ^ 1) 0 0 0 [], .imageWrite okCmd 0 (256 ^ 1) 0 0 [],
    .imageWrite okCmd 0 0 (256 ^ 4) 0 [], .imageWrite okCmd 0 0 0 (256 ^ 4) [],
    .lcAdvance { okCmd with port := 2 } 0, .lcAdvance okCmd (256 ^ 1), .provision { okCmd with port := 2 } true,
    .secMinRaise { okCmd with port := 2 } 0, .secMinRaise okCmd (256 ^ 1), .debugOpen { okCmd with port := 2 } true,
    .cfgWrite { okCmd with port := 2 } 0 0, .cfgWrite okCmd (256 ^ 4) 0, .cfgWrite okCmd 0 (256 ^ 8),
    .cfgRead { okCmd with port := 2 } 0, .cfgRead okCmd (256 ^ 4), .statusRead { okCmd with port := 2 } 0 0 0,
    .statusRead okCmd (256 ^ 1) 0 0, .statusRead okCmd 0 (256 ^ 4) 0, .statusRead okCmd 0 0 (256 ^ 4),
    .timeRelock { okCmd with port := 2 }, .timeSourceIneligible 66, .evAck { okCmd with port := 2 } 0,
    .evAck okCmd (256 ^ 4), .rslEcho { okCmd with port := 2 } 0, .rslEcho okCmd (256 ^ 8),
    .routeLoad { okCmd with port := 2 } 0 0 [], .routeLoad okCmd (256 ^ 1) 0 [], .routeLoad okCmd 0 (256 ^ 4) [],
    .routeCommit { okCmd with port := 2 } 0, .routeCommit okCmd (256 ^ 1),
    .policerSet { okCmd with port := 2 } 0 0 0 0 0 0 0, .policerSet okCmd (256 ^ 2) 0 0 0 0 0 0,
    .policerSet okCmd 0 (256 ^ 1) 0 0 0 0 0, .policerSet okCmd 0 0 (256 ^ 1) 0 0 0 0,
    .policerSet okCmd 0 0 0 (256 ^ 4) 0 0 0, .policerSet okCmd 0 0 0 0 (256 ^ 4) 0 0,
    .policerSet okCmd 0 0 0 0 0 (256 ^ 4) 0]

/-- Commands with one operand that does not fit. -/
def illFormedTerm7 : List Instr :=
  [.policerSet okCmd 0 0 0 0 0 0 (256 ^ 4), .cktSetup { okCmd with port := 2 } 0 0 0 0 [],
    .cktSetup okCmd (256 ^ 2) 0 0 0 [], .cktSetup okCmd 0 66 0 0 [], .cktSetup okCmd 0 0 (256 ^ 1) 0 [],
    .cktSetup okCmd 0 0 0 (256 ^ 8) [], .cktTeardown { okCmd with port := 2 } 0 0, .cktTeardown okCmd (256 ^ 2) 0,
    .cktTeardown okCmd 0 (256 ^ 8), .ctrRead (.rsl { okCmd with port := 2 }) 0 0 0 0,
    .ctrRead (.rsl okCmd) (256 ^ 1) 0 0 0, .ctrRead (.rsl okCmd) 0 (256 ^ 4) 0 0,
    .ctrRead (.rsl okCmd) 0 0 (256 ^ 4) 0, .ctrRead (.rsl okCmd) 0 0 0 (256 ^ 8),
    .objQuery (.rsl { okCmd with port := 2 }) 0 0 0, .objQuery (.rsl okCmd) (256 ^ 1) 0 0,
    .objQuery (.rsl okCmd) 0 (256 ^ 4) 0, .objQuery (.rsl okCmd) 0 0 (256 ^ 8), .rslFrameInvalid 2 0,
    .rslFrameInvalid 0 (256 ^ 4), .rslCommandRepeat 2 0 0, .rslCommandRepeat 0 (256 ^ 4) 0,
    .rslCommandRepeat 0 0 (256 ^ 2), .attest (.rsl { okCmd with port := 2 }) 0 0 0 0,
    .attest (.rsl okCmd) (256 ^ 32) 0 0 0, .attest (.rsl okCmd) 0 (256 ^ 8) 0 0,
    .attest (.rsl okCmd) 0 0 (256 ^ 1) 0, .certGet (.rsl { okCmd with port := 2 }) 0 0,
    .certGet (.rsl okCmd) (256 ^ 8) 0, .sessOpen (.rsl { okCmd with port := 2 }) 0 0 0,
    .sessOpen (.rsl okCmd) (256 ^ 8) 0 0, .sessOpen (.rsl okCmd) 0 (256 ^ 8) 0,
    .sessProve (.rsl { okCmd with port := 2 }) 0 0 0 0, .sessProve (.rsl okCmd) (256 ^ 4) 0 0 0,
    .sessProve (.rsl okCmd) 0 (256 ^ 8) 0 0, .sessProve (.rsl okCmd) 0 0 (256 ^ 4) 0,
    .sessClose (.rsl { okCmd with port := 2 }) 0, .sessClose (.rsl okCmd) (256 ^ 4),
    .sessionPendingTimeout (256 ^ 4), .encryptedMessageRx { okHdr with port := 64 } 0 0 0 0 [] ((zeros 16)),
    .encryptedMessageRx okHdr (256 ^ 1) 0 0 0 [] ((zeros 16)),
    .encryptedMessageRx okHdr 0 (256 ^ 4) 0 0 [] ((zeros 16)),
    .encryptedMessageRx okHdr 0 0 (256 ^ 4) 0 [] ((zeros 16)),
    .encryptedMessageRx okHdr 0 0 0 (256 ^ 8) [] ((zeros 16)),
    .encryptedMessageRx okHdr 0 0 0 0 (zeros 241) ((zeros 16)), .encryptedMessageRx okHdr 0 0 0 0 [] (zeros 15),
    .sealImport (.rsl { okCmd with port := 2 }) 0 0 0 0, .sealImport (.rsl okCmd) (256 ^ 2) 0 0 0,
    .sealImport (.rsl okCmd) 0 (256 ^ 2) 0 0, .sealImport (.rsl okCmd) 0 0 (256 ^ 8) 0, .sealImportDone (256 ^ 2),
    .sealQuery (.rsl { okCmd with port := 2 }) 0 0 0, .sealQuery (.rsl okCmd) (256 ^ 2) 0 0,
    .sealQuery (.rsl okCmd) 0 (256 ^ 8) 0, .chOpen { okCmd with port := 2 } 0 ((zeros 160)),
    .chOpen okCmd (256 ^ 2) ((zeros 160)), .chOpen okCmd 0 (zeros 159),
    .chCmd { okCmd with port := 2 } 0 0 0 [] ((zeros 16)) .setInfo,
    .chCmd okCmd (256 ^ 4) 0 0 [] ((zeros 16)) .setInfo, .chCmd okCmd 0 (256 ^ 4) 0 [] ((zeros 16)) .setInfo]

/-- Commands with one operand that does not fit. -/
def illFormedTerm8 : List Instr :=
  [.chCmd okCmd 0 0 (256 ^ 8) [] ((zeros 16)) .setInfo, .chCmd okCmd 0 0 0 (zeros 65505) ((zeros 16)) .setInfo,
    .chCmd okCmd 0 0 0 [] (zeros 15) .setInfo, .snpAck { okHdr with msgLen := 0 },
    .snpAck { okHdr with msgLen := 16 }, .snpAck { okHdr with atNs := 4096 }, .snpAck { okHdr with dst := 65536 },
    .snpAck { okHdr with src := 65536 }, .snpAck { okHdr with tag := 65536 }, .snpAck { okHdr with cktId := 65536 },
    .snpAck { okHdr with jidx := 256 ^ 4 }, .snpAck { okHdr with sess := 256 ^ 4 },
    .ceLogRead { okCmd with tag := 256 ^ 4 }, .ceLogRead { okCmd with host := 65536 },
    .ceLogRead { okCmd with tenant := 65536 }, .setInfo (.fabric { okHdr with port := 64 }),
    .setInfo (.ch { okCmd with port := 2 } 0), .setInfo (.ch okCmd (256 ^ 4)),
    .ringArm (.rsl okCmd) { okRing with s1Root := 256 ^ 8 }, .ringArm (.rsl okCmd) { okRing with log2Size := 256 },
    .ringArm (.rsl okCmd) { okRing with onFault := 256 }, .ringArm (.rsl okCmd) { okRing with s1Enable := 256 },
    .ringArm (.rsl okCmd) { okRing with maxEngines := 256 },
    .redOpen (.rsl okCmd) { okRed with winBase := 256 ^ 8 },
    .redOpen (.rsl okCmd) { okRed with resBase := 256 ^ 8 },
    .redOpen (.rsl okCmd) { okRed with accBase := 256 ^ 8 }, .redOpen (.rsl okCmd) { okRed with winLen := 256 ^ 8 },
    .redOpen (.rsl okCmd) { okRed with alpha := 256 ^ 8 }, .redOpen (.rsl okCmd) { okRed with seed := 256 ^ 8 },
    .redOpen (.rsl okCmd) { okRed with elemFmt := 256 }, .redOpen (.rsl okCmd) { okRed with accFmt := 256 },
    .redOpen (.rsl okCmd) { okRed with resFmt := 256 }, .setDelta okHdr 0 0 [⟨0, true, 0, 256 ^ 2, 0⟩],
    .setDelta okHdr 0 0 [⟨0, true, 0, 0, 256 ^ 8⟩], .setDelta okHdr 0 0 [⟨0, true, 4, 0, 0⟩]]

theorem test_wellFormed_accepts : (wellFormedTerm1 ++ wellFormedTerm2 ++ wellFormedTerm3 ++ wellFormedTerm4).all wellFormed = true := by decide +kernel

theorem test_wellFormed_refuses :
    (illFormedTerm1 ++ illFormedTerm2 ++ illFormedTerm3 ++ illFormedTerm4 ++ illFormedTerm5 ++ illFormedTerm6 ++ illFormedTerm7 ++ illFormedTerm8).all (fun i => !wellFormed i) = true := by
  decide +kernel

theorem tabAll {α : Type} (d : α) (t : Tab α) (p : α → Prop) (hd : p d) (ht : ∀ e, e ∈ t → p e.2) :
    ∀ k, p (Tab.get d t k) := by
  intro k
  induction t with
  | nil => exact hd
  | cons e t ih =>
    obtain ⟨j, v⟩ := e
    unfold Tab.get
    split
    · exact ht (j, v) (List.mem_cons_self ..)
    · exact ih fun e he => ht e (List.mem_cons_of_mem _ he)

theorem renewals (s : State) (h : ∀ od, od ∈ s.odsAlive → (s.ob od).renewedAt.getD 0 + 2 ≤ s.odEpoch od) :
    ∀ od e, od ∈ s.odsAlive → (s.ob od).renewedAt = some e → e + 2 ≤ s.odEpoch od := by
  intro od e ho hr
  have := h od ho
  rw [hr] at this
  exact this

theorem rings (s : State) (h : ∀ e, e ∈ s.coach.rings → e.2.st ≠ .stopping) : ∀ q, (s.ring q).st ≠ .stopping :=
  tabAll Ring.empty s.coach.rings (fun r => r.st ≠ .stopping) (by decide) h

theorem pairOf {α β : Type} {x : α × β} {a : α} {b : β} (ha : a = x.1) (h : x.2 = b) : x = (a, b) := by
  rw [← h, ha]

theorem opens {s : State} {x : SealSlot} {n : Nat} {p : List Byte} (hn : n = 1) (h : s.openSegment x 0 = some p) :
    s.openSegments x n = .ok p := by
  subst hn
  simp [State.openSegments, List.range_succ, h]

theorem opensNot {s : State} {x : SealSlot} {n : Nat} (hn : n = 1) (h : s.openSegment x 0 = none) :
    s.openSegments x n = .error 0 := by
  subst hn
  simp [State.openSegments, List.range_succ, h]

def rc : RslCmd := ⟨0, 77, 7, 0, 0⟩
def rq (len : Nat) : ReqHdr := { port := 3, dst := 0x1000, src := 7, tag := 9, msgLen := len, flags := 0, resv := 0, cktId := 0, opData := 0, jidx := 50, atNs := 100, sess := 0 }
def upPort : Port := { Port.empty with st := .up, next := 10, oldest := 10, es := 20, init := [(0,64),(1,64),(2,64),(3,64)], gen := 5, peerGen := 6 }
def up : State := { State.reset with
  power := { Power.reset with inputOn := true, modPg := true, railGroup := 4, rails := (List.range 18).map fun r => (r, ⟨.inWindow, false⟩), cables := [(0, ⟨true, true, false, 5, some 5⟩)] }
  clk := { Clocks.reset with running := true, now := 409600, tstate := .locked }
  boot := { Boot.reset with por := true, stage := 15, chosen := true, loaded := true, lc := 2, tokenEpoch := some 10, poolReady := some 20, readyA := true, fwA := true, aOk := true }
  tok := { Token.reset with dies := [(0, ⟨some 0, 1000, 100, some 99⟩), (1, ⟨some 0, 1000, 100, some 99⟩), (2, ⟨some 0, 1000, 100, some 99⟩)], active := some 0, granted := [0, 1, 2] }
  ports := [(3, upPort), (5, upPort), (64, upPort), (65, upPort)]
  twin := { Twin.reset with tender := .absent }
  pool := { Pool.reset with formEnded := true, leases := [(7, ⟨true, .live, 3, 200⟩), (8, ⟨true, .live, 3, 200⟩)], quotas := [(3, 100)], exts := [(5, { Ext.empty with st := .active, shared := true, tenant := 3, owner := 7, hasOwner := true, key := 3, mask := 1, base := 32000, localGran := 2, lenGran := 2 })], grants := [(5 * 4096 + 7, 7)] }
  mem := { Mem.reset with closed := [] }
  evs := { Events.reset with started := true } }
def sess1 : Session := ⟨11, 7, .established, false, 90, 0, 0, false, [], [], 0, 0, 0, [], List.replicate 32 1,
    List.replicate 32 2, []⟩
def oneMsg : OutMsg := ⟨7, 9, 0x20, 3, 0, [1,2,3], some 40, some 3, 11, none, false, false, false, false⟩
def h0 : FlitHdr := ⟨true, 10, 0, 1⟩
def h1 : FlitHdr := ⟨false, 10, 0, 1⟩
def ctl (x : Ctl) (h : FlitHdr) : RawFlit := ⟨ctlBytes x h, 0⟩
def ctlT (typ : Nat) (payload : List Byte) (h : FlitHdr) : RawFlit := ⟨flitBytes ⟨1, typ, h, 0, payload.length,
    0⟩ payload, 0⟩
def datF (cls seq : Nat) (payload : List Byte) : RawFlit := ⟨flitBytes ⟨0, cls, h0, seq, payload.length, 0⟩ payload,
    0⟩
def upN (f : Port → Port) : State := { up with ports := [(3, f upPort), (5, upPort), (64, f upPort), (65, upPort)] }
def st89 : Port →
    Port := fun p => { p with store := [⟨8, ⟨2, 0, 0, [oneMsg]⟩, false, 100⟩, ⟨9, ⟨0, 0, 0, []⟩, false, 100⟩], oldest := 8, next := 10 }
def hexs (n : Nat) (l : List Nat) : List Byte := l.flatMap (leBytes n)
def imgHead : List Byte := (hexs 57 [0x6cc657dc792eb8d970c7597084f8ce27319ee64fc2b6c8dbc24a43434c202d8e6e000000060000601000000001000000030960000143594d4d,
  0x3d74f430c6295c6162d25ad3edbad280c888e148a7cb0b4e1b38000000000000001000001000000000016b36f46e385e98d339da8dcafbca30,
  0x53c647beed7b8c66e115959135539f35791f4c00000000000000100000200000000002fad1886fdaa4d45662a132e47aa122c8edd1bc7de013,
  0x82614475a7c46391f08836b8000000000000001000003000000000036e6654adc8186cc323eea2b5fb0805a8bfbea394d0ef601531743f3de5,
  0x9b9fdf380500000000000000100000400000000004682ee5ae8c5521e6b738c6e94831a08bd476ae610f822bdecfb1ee2c9c924e539083cbb3,
  0x100000500000000005c6958638e66428422055b73f179a6d8b9e8ac1b0e2453db22c21ad05c630024f1f1e14b1a59bd5edb361e4,
  0x6000000000068dca0027b58c6edd7ba661e0c45924d0b22cf0909c5e46d7fbd1c766b458f9e1979836f80d91e89a7ea59aeb7fc6c6ae0000,
  0x32fead7a0e97df8d1ada24a1fe82dca8e1f0d04decd14639837497bedc79c074acaf35bf4de97109202a8e9201061c4f000000000000001000])
def imgSig : List Byte := hexs 48 [0x25049e64ac1e8bf58db3b0149276aee5e99d21e64ecc6c1fe3361cf65d9bca253ff149c10ee6985f95f1c60dc9579ea6,
  0xdfc8c66a0826fc6d9ad0ef4ca0aec8ed4c5bc9ba7eb8a68aea4ffd90b972051013ab21f33e9f19166ff34fa4e8bdb24f]
def imgCfg : List Byte := hexs 16 [0x7d0000000040b003000]
def imgRaw (head sig rot : List Byte) : List Byte :=
  head ++ zeros 1496 ++ sig ++ zeros 2048 ++ rot ++ zeros 4080 ++
      ((List.range 4).flatMap fun i => List.replicate 16 (BitVec.ofNat 8 (i + 2)) ++ zeros 4080) ++ imgCfg
def imgG : List Byte := imgRaw imgHead imgSig (List.replicate 16 1)
def imgBad : List Byte := imgRaw imgHead imgSig (List.replicate 16 9)

namespace C01

def ov : State := { State.reset with power := { Power.reset with cutOff := true, inFaultLow := true } }

theorem test_inputStageFollowsItsVoltage :
    (∃ (mv : Nat) (s : State), s.power.inputOn = false ∧ s.power.cutOff = false ∧ s.power.reversed = false ∧
      s.power.tripOff = false ∧ 46500 ≤ mv ∧ mv < 70000) ∧
    (∃ (us : Nat) (_s : State), us < 100) ∧
    (∃ (us : Nat) (s : State), 100 ≤ us ∧ s.power.inputOn = true) ∧
    (∃ (us : Nat) (s : State), 100 ≤ us ∧ s.power.inputOn = false) ∧
    (∃ (mv : Nat) (s : State), s.power.inputOn = true ∧ 44000 ≤ mv ∧ mv < 48000) ∧
    (∃ (mv : Nat) (s : State), s.power.inputOn = true ∧ 66000 < mv ∧ mv < 70000) ∧
    (∃ (mv : Nat) (_s : State), 70000 ≤ mv) ∧
    (∃ (ms : Nat) (mv : Nat) (s : State), s.power.cutOff = true ∧ 100 ≤ ms ∧ mv < 66000 ∧ s.power.reversed = true) ∧
    (∃ (ms : Nat) (mv : Nat) (s : State), s.power.cutOff = true ∧ 100 ≤ ms ∧ mv < 66000 ∧ s.power.reversed = false ∧
      44000 ≤ mv ∧ s.power.tripOff = false) ∧
    (∃ (ms : Nat) (mv : Nat) (s : State), s.power.cutOff = true ∧ 100 ≤ ms ∧ mv < 66000 ∧ s.power.reversed = false ∧
      (mv < 44000 ∨ s.power.tripOff = true)) ∧
    (∃ (mv : Nat) (_s : State), 10000 < mv) ∧
    (∃ (s : State), s.power.reversed = true) := by
  refine ⟨⟨48000, State.reset, ?_⟩,
    ⟨99, up, ?_⟩,
    ⟨100, up, ?_⟩,
    ⟨100, ov, ?_⟩,
    ⟨44000, up, ?_⟩,
    ⟨66001, up, ?_⟩,
    ⟨70000, up, ?_⟩,
    ⟨100, 65999, { ov with power := { ov.power with reversed := true } }, ?_⟩,
    ⟨100, 65999, ov, ?_⟩,
    ⟨100, 43999, ov, ?_⟩,
    ⟨10001, up, ?_⟩,
    ⟨{ State.reset with power := { Power.reset with reversed := true, inFaultLow := true } }, ?_⟩⟩
  all_goals
    repeat' apply And.intro
  all_goals first
    | decide +kernel

end C01

namespace C02


theorem test_moduleResetWipesAllButTheFuses :
    (∃ (ns : Nat) (s : State), s.power.inputOn = true ∧ s.power.tripOff = false ∧ 10000 ≤ ns) ∧
    (∃ (ns : Nat) (s : State), s.power.inputOn = true ∧ s.power.tripOff = false ∧ ns < 1000) ∧
    (∃ (ns : Nat) (s : State), s.power.inputOn = true ∧ s.power.tripOff = false ∧ 10000 ≤ ns) ∧
    (∃ (ns : Nat) (s : State), s.power.inputOn = true ∧ s.power.tripOff = false ∧ ns < 1000) ∧
    (∃ (ns : Nat) (s : State), s.power.tripOff = true ∧ 10000 ≤ ns) ∧
    (∃ (ns : Nat) (s : State), s.power.tripOff = true ∧ 10000 ≤ ns) ∧
    (∃ (s : State), s.power.inReset = true) ∧
    (∃ (c : RslCmd) (s : State), RslServed s c 256) ∧
    (∃ (e : Nat) (s : State), s.boot.resetAt = some e ∧ e ≤ s.epoch) := by
  refine ⟨⟨10000, up, ?_⟩,
    ⟨999, up, ?_⟩,
    ⟨10000, up, ?_⟩,
    ⟨999, up, ?_⟩,
    ⟨10000, { State.reset with power := { Power.reset with tripOff := true } }, ?_⟩,
    ⟨10000, { State.reset with power := { Power.reset with tripOff := true } }, ?_⟩,
    ⟨{ up with power := { up.power with inReset := true } }, ?_⟩,
    ⟨rc, up, ?_⟩,
    ⟨100, { up with boot := { up.boot with resetAt := some 100, resetCause := 5 } }, ?_⟩⟩
  all_goals
    try unfold RslServed
    repeat' apply And.intro
  all_goals first
    | decide +kernel

theorem test_railsComeUpByGroupsAndFailByFuse :
    (∃ (s : State), s.power.softStart = true) ∧
    (∃ (_w : BitVec 18) (s : State), s.power.inputOn = true ∧ s.power.softStart = false ∧ s.power.inReset = false ∧
      s.power.modPg = false ∧ s.boot.por = false ∧ (s.rail 0).st = RailState.inWindow ∧
      (s.rail 1).st = RailState.inWindow) ∧
    (∃ (r : Nat) (s : State), 2 ≤ r ∧ (s.rail r).st = RailState.enabled) ∧
    (∃ (r : Nat) (s : State), r ≤ 1 ∧ (s.rail r).st = RailState.enabled) ∧
    (∃ (r : Nat) (a : Nat) (mv : Nat) (s : State), 2 ≤ r ∧ r ≤ 17 ∧ s.power.inputOn = true ∧
      (s.rail r).st ≠ RailState.fuseOpen ∧ (13 * railMaxA r < a ∨ (s.rail r).st ≠ RailState.off ∧
      s.power.softStart = false ∧ 2 * mv < railNominal r)) ∧
    (∃ (r : Nat) (a : Nat) (mv : Nat) (s : State), r ≤ 1 ∧ s.power.inputOn = true ∧ (s.rail r).st ≠ RailState.fuseOpen ∧
      (13 * railMaxA r < a ∨ (s.rail r).st ≠ RailState.off ∧ s.power.softStart = false ∧ 2 * mv < railNominal r)) ∧
    (∃ (r : Nat) (s : State), railSensed r = true ∧ ((s.rail r).st = RailState.enabled ∨
      (s.rail r).st = RailState.inWindow) ∧ (s.rail r).senseOpen = false) ∧
    (∃ (r : Nat) (mv : Nat) (s : State), r ≤ 17 ∧ (s.rail r).st = RailState.inWindow ∧ railOff r mv 5 = true ∧
      railOff r mv 10 = false) ∧
    (∃ (r : Nat) (mv : Nat) (s : State), 2 ≤ r ∧ r ≤ 17 ∧ (s.rail r).st = RailState.inWindow ∧ railOff r mv 5 = true ∧
      railOff r mv 10 = true) := by
  refine ⟨⟨{ up with power := { up.power with softStart := true } }, ?_⟩,
    ⟨0x3ffff#18,
      { State.reset with power := { Power.reset with inputOn := true, rails := [(0, ⟨.inWindow, false⟩), (1, ⟨.inWindow, false⟩)] } },
      ?_⟩,
    ⟨4, { up with power := { up.power with rails := Tab.set Rail.empty up.power.rails 4 ⟨.enabled, false⟩ } }, ?_⟩,
    ⟨1, { up with power := { up.power with rails := Tab.set Rail.empty up.power.rails 1 ⟨.enabled, false⟩ } }, ?_⟩,
    ⟨17, 1000000, 0, up, ?_⟩,
    ⟨1, 1000000, 0, up, ?_⟩,
    ⟨2, up, ?_⟩,
    ⟨5, railNominal 5 * 107 / 100, up, ?_⟩,
    ⟨5, 0, up, ?_⟩⟩
  all_goals
    repeat' apply And.intro
  all_goals first
    | decide +kernel

end C02

namespace C03


theorem test_cablesAndDebugPortFollowTheirPins :
    (∃ (k : Nat) (_ident : Nat) (s : State), k ≤ 7 ∧ (s.cable k).present = false) ∧
    (∃ (k : Nat) (s : State), k ≤ 7 ∧ (s.cable k).present = true) ∧
    (∃ (k : Nat) (s : State), k ≤ 7 ∧ (s.cable k).present = true) ∧
    (∃ (_pins : Nat) (s : State), s.boot.por = true ∧ s.sec.dbgLock = true ∧ s.sec.dbgReopen = false) := by
  refine ⟨⟨7, 9, up, ?_⟩,
    ⟨0, up, ?_⟩,
    ⟨0, up, ?_⟩,
    ⟨3, up, ?_⟩⟩
  all_goals
    repeat' apply And.intro
  all_goals first
    | decide +kernel

theorem test_thermalAndPowerStepsProtectTheModule :
    (∃ (mon : Nat) (_v : BitVec 16) (s : State), s.boot.por = true ∧ 24 ≤ mon ∧ mon < 42) ∧
    (∃ (mon : Nat) (_v : BitVec 16) (s : State), s.boot.por = true ∧ mon < 24) ∧
    (∃ (mon : Nat) (v : BitVec 16) (s : State), s.boot.por = true ∧ mon < 24 ∧ s.tok.fatal = none ∧
      partTrip (sensorPart mon) ≤ v.toInt) ∧
    (∃ (p : Nat) (e : Nat) (s : State), ((s.part p).level = 2 ∧ (s.part p).cool2 = some e ∨ (s.part p).level = 1 ∧
      (s.part p).cool1 = some e) ∧ e + 4096 ≤ s.epoch) ∧
    (∃ (s : State), s.power.trip = true) ∧
    (∃ (n : Nat) (s : State), s.power.inputOn = true ∧ n ≤ 23 ∧ (s.mon n).fault = false) ∧
    (∃ (e : Nat) (s : State), s.power.floorSince = some e ∧ e + 1024 ≤ s.epoch ∧ s.power.arithPwr < 2) ∧
    (∃ (e : Nat) (s : State), s.power.belowSince = some e ∧ e + 4096 ≤ s.epoch) := by
  refine ⟨⟨24, 3#16, up, ?_⟩,
    ⟨23, 3#16, up, ?_⟩,
    ⟨0, 30000#16, up, ?_⟩,
    ⟨3, 4,
      { up with power := { up.power with parts := [(3, ⟨2, some 3, some 4, false⟩)] }, clk := { up.clk with now := 4100 * 4096 } },
      ?_⟩,
    ⟨{ up with power := { up.power with trip := true } }, ?_⟩,
    ⟨23, up, ?_⟩,
    ⟨4, { up with power := { up.power with floorSince := some 4 }, clk := { up.clk with now := 1028 * 4096 } }, ?_⟩,
    ⟨4,
      { up with power := { up.power with belowSince := some 4, arithPwr := 1 }, clk := { up.clk with now := 4100 * 4096 } },
      ?_⟩⟩
  all_goals
    repeat' apply And.intro
  all_goals first
    | decide +kernel

end C03

namespace C04

def tf (dom hops flags resv : Nat) : RawFlit := ctlT 3 (leBytes 8 1000 ++ leBytes 2 dom ++ leBytes 1 hops ++
    leBytes 1 flags ++ leBytes 4 resv) h0
def tfb : RawFlit := { tf 0 2 1 0 with fecBad := 1 }
def tokS (k : TokKind) (die od : Nat) (h : State) : State := { h with tok := { h.tok with sent := [⟨k, die, od⟩] } }
def tokR (r : TokReply) (die od : Nat) (h : State) : State := { h with tok := { h.tok with replies := [⟨die, od, r⟩] } }

theorem test_crystalsAndLoopsFailOverOrFail :
    (∃ (_xb : Bool) (s : State), s.clk.running = true ∧ s.clk.xaFlag = false ∧ s.clk.xbFlag = false) ∧
    (∃ (xb : Bool) (s : State), s.clk.running = true ∧ s.tok.fatal = none ∧
      (if xb = true then s.clk.xbFlag else s.clk.xaFlag) = false ∧
      (if xb = true then s.clk.xaFlag else s.clk.xbFlag) = true) ∧
    (∃ (xb : Bool) (n : Nat) (s : State), s.clk.running = true ∧ s.clk.xaFlag = false ∧ s.clk.xbFlag = false ∧
      crystalOff xb true n = true) ∧
    (∃ (xb : Bool) (n : Nat) (s : State), s.clk.running = true ∧ s.clk.xaFlag = false ∧ s.clk.xbFlag = false ∧
      crystalOff xb true n = false) ∧
    (∃ (s : State), s.clk.bothHold = true) ∧
    (∃ (die : Nat) (_ps : List Nat) (s : State), s.clk.running = true ∧ (s.clk.xaFlag && s.clk.xbFlag) = false ∧ 4 ≤ die) ∧
    (∃ (_die : Nat) (_ps : List Nat) (s : State), s.clk.running = true ∧ (s.clk.xaFlag && s.clk.xbFlag) = false) ∧
    (∃ (die : Nat) (_ps : List Nat) (s : State), s.clk.running = true ∧ (s.clk.xaFlag && s.clk.xbFlag) = false ∧ die ≤ 1 ∧
      s.tok.active = some die) ∧
    (∃ (die : Nat) (_ps : List Nat) (s : State), s.clk.running = true ∧ (s.clk.xaFlag && s.clk.xbFlag) = false ∧ die ≤ 1 ∧
      s.tok.active = some (1 - die)) ∧
    (∃ (die : Nat) (_ps : List Nat) (s : State), s.clk.running = true ∧ (s.clk.xaFlag && s.clk.xbFlag) = false ∧ die ≤ 1 ∧
      s.tok.active = none) := by
  refine ⟨⟨false, up, ?_⟩,
    ⟨true, { up with clk := { up.clk with xaFlag := true } }, ?_⟩,
    ⟨true, 805, up, ?_⟩,
    ⟨true, 804, up, ?_⟩,
    ⟨{ up with clk := { up.clk with bothHold := true } }, ?_⟩,
    ⟨4, [3, 64, 65, 7], up, ?_⟩,
    ⟨4, [3, 64, 65, 7], up, ?_⟩,
    ⟨0, [3], up, ?_⟩,
    ⟨1, [3], { up with twin := { up.twin with tender := .synced } }, ?_⟩,
    ⟨1, [3], { up with tok := { up.tok with active := none }, boot := { up.boot with readyB := true } }, ?_⟩⟩
  all_goals
    repeat' apply And.intro
  all_goals first
    | decide +kernel

theorem test_epochBoundaryAdvancesTimeAndAppliesSettings :
    (∃ (_a : Bool) (_b : Bool) (s : State), s.clk.running = true) ∧
    (∃ (_a : Bool) (_b : Bool) (s : State), s.clk.running = true ∧ s.clk.stepTo = none ∧ s.attended = true ∧
      s.tok.missed = 0 ∧ s.epoch + 1 < (s.ob odPd).expiry) := by
  refine ⟨⟨true, true, up, ?_⟩,
    ⟨true, true, up, ?_⟩⟩
  all_goals
    repeat' apply And.intro
  all_goals first
    | decide +kernel

theorem test_fabricTimeFollowsItsSource :
    (∃ (port : Nat) (f : RawFlit) (_arr : Nat) (s : State), isRsl port = false ∧ s.portUp port = true ∧
      CtlGood port f typTime ∧ rawField f 8 2 = s.cfgAt fTimeDomain ∧ (rawField f 11 1 = 1 ∨ rawField f 11 1 = 3) ∧
      rawField f 12 4 = 0) ∧
    (∃ (port : Nat) (f : RawFlit) (_arr : Nat) (s : State), isRsl port = false ∧ s.portUp port = true ∧
      CtlGood port f typTime ∧ (rawField f 8 2 ≠ s.cfgAt fTimeDomain ∨ rawField f 11 1 % 2 ≠ 1 ∨ 4 ≤ rawField f 11 1 ∨
      rawField f 12 4 ≠ 0)) ∧
    (∃ (port : Nat) (f : RawFlit) (_arr : Nat) (s : State), isRsl port = false ∧ s.portUp port = true ∧ rawBad f = true) ∧
    (∃ (port : Nat) (s : State), s.clk.source = some port ∧ s.timeUsable port = false ∧ (∀ (n : Nat), n < 64 →
      s.timeUsable n = false)) ∧
    (∃ (s : State), s.clk.tstate = TimeState.holdover ∧ s.clk.holdSince + 64 ≤ s.epoch) ∧
    (∃ (c : RslCmd) (n : Nat) (s : State), RslServed s c 275 ∧ s.clk.tstate = TimeState.lost ∧ s.relockPort = some n) := by
  refine ⟨⟨3, tf 0 2 1 0, 1500, up, ?_⟩,
    ⟨3, tf 1 2 3 0, 1500, up, ?_⟩,
    ⟨3, tfb, 1500, up, ?_⟩,
    ⟨3, { up with clk := { up.clk with source := some 3 } }, ?_⟩,
    ⟨{ up with clk := { up.clk with tstate := .holdover, holdSince := 36 } }, ?_⟩,
    ⟨rc, 3,
      { up with clk := { up.clk with tstate := .lost }, ports := [(3, { upPort with timeEpoch := some 99, timeHops := 2, delay := some 40, measured := true, timeOffset := 2000 }), (64, upPort), (65, upPort)], cfg := { up.cfg with vals := [(fTimeMask, some 0xffffffffffffffff)] } },
      ?_⟩⟩
  all_goals
    try unfold CtlGood
    try unfold RslServed
    repeat' apply And.intro
  all_goals first
    | decide +kernel

theorem test_obeyingDieGrantsTheTokenToOneDie :
    (∃ (od : Nat) (die : Nat) (s : State), s.tokArrives TokKind.claim od die = true ∧ s.odHolder od = none) ∧
    (∃ (od : Nat) (die : Nat) (holder : Nat) (s : State), s.tokArrives TokKind.claim od die = true ∧
      s.odHolder od = some holder) ∧
    (∃ (od : Nat) (die : Nat) (s : State), s.tokArrives TokKind.renew od die = true ∧ s.odHolder od = some die) ∧
    (∃ (od : Nat) (die : Nat) (s : State), s.tokArrives TokKind.renew od die = true ∧ s.odHolder od ≠ some die) ∧
    (∃ (od : Nat) (die : Nat) (s : State), s.tokArrives TokKind.release od die = true ∧ s.odHolder od = some die ∧
      (od ≠ odPd → s.hubQueue od = [])) ∧
    (∃ (od : Nat) (holder : Nat) (s : State), od ≤ 2 ∧ (s.ob od).holder = some holder ∧ (s.ob od).expiry ≤ s.odEpoch od) ∧
    (∃ (od : Nat) (die : Nat) (s : State), s.tokenEnds od die = true) ∧
    (∃ (od : Nat) (die : Nat) (s : State), s.tokenEnds od die = true) ∧
    (∃ (od : Nat) (die : Nat) (s : State), s.tokenEnds od die = true ∧ s.odHolder od = some die) ∧
    (∃ (od : Nat) (die : Nat) (s : State), s.tokenEnds od die = true ∧ s.odHolder od ≠ some die) := by
  refine ⟨⟨0, 1, tokS .claim 1 0 { up with tok := { up.tok with dies := [] } }, ?_⟩,
    ⟨2, 1, 0, tokS .claim 1 2 up, ?_⟩,
    ⟨2, 0, tokS .renew 0 2 up, ?_⟩,
    ⟨1, 1, tokS .renew 1 1 up, ?_⟩,
    ⟨1, 0, tokS .release 0 1 up, ?_⟩,
    ⟨1, 0, { up with tok := { up.tok with dies := [(1, ⟨some 0, 100, 100, none⟩)] } }, ?_⟩,
    ⟨1, 0, up, ?_⟩,
    ⟨1, 0, up, ?_⟩,
    ⟨1, 0, up, ?_⟩,
    ⟨2, 1, up, ?_⟩⟩
  all_goals
    repeat' apply And.intro
  all_goals first
    | decide +kernel

theorem test_controlDieLosesOrGainsTheActiveRole :
    (∃ (die : Nat) (od : Nat) (s : State), s.tokenEnds od die = true ∧
      { die := die, od := od, reply := TokReply.granted } ∈ s.tok.replies ∧ s.odHolder od = some die ∧
      s.tok.claimant ≠ some die ∧ s.tok.active = some die) ∧
    (∃ (die : Nat) (od : Nat) (s : State), s.tokenEnds od die = true ∧
      { die := die, od := od, reply := TokReply.granted } ∈ s.tok.replies ∧ s.odHolder od = some die ∧
      s.tok.claimant = some die ∧ s.allGranted (od :: List.filter (fun (x : Nat) => decide (x ≠ od ∧
      s.odHolder x = some die)) s.tok.claimGrants) = false) ∧
    (∃ (die : Nat) (od : Nat) (s : State), s.tokenEnds od die = true ∧
      { die := die, od := od, reply := TokReply.granted } ∈ s.tok.replies ∧ s.odHolder od = some die ∧
      s.tok.claimant = some die ∧ s.allGranted (od :: List.filter (fun (x : Nat) => decide (x ≠ od ∧
      s.odHolder x = some die)) s.tok.claimGrants) = true ∧ s.tok.active = none ∧ s.tok.fatal = none) ∧
    (∃ (od : Nat) (s : State), s.tokenEnds od s.tenderDie = true ∧
      { die := s.tenderDie, od := od, reply := TokReply.released } ∈ s.tok.replies ∧ s.tok.active.isSome = true ∧
      s.handingOver = false ∧ s.tok.active ≠ some s.tenderDie ∧ s.twin.tender = TenderState.synced ∧
      s.twin.detectedAt = none) ∧
    (∃ (s : State), s.tok.active.isSome = true ∧ s.tok.silent = false ∧ 2 ≤ s.tok.missed ∧
      s.allGranted s.tok.granted = false) ∧
    (∃ (s : State), s.boot.readyB = true ∧ s.dieDead dieCdB = false ∧ s.boot.readyEpochB + 8 ≤ s.tok.cdEpochB ∧
      s.tok.active = none ∧ s.tok.claimGrants = [] ∧ s.boot.tokenEpoch = none ∧ (∀ (od : Nat), od ∈ s.odsAlive →
      s.odHolder od = none)) ∧
    (∃ (link : Nat) (_retry : Bool) (s : State), link ≤ 8 ∧ Tab.get false s.tok.linkDown link = false) ∧
    (∃ (link : Nat) (s : State), 6 ≤ link ∧ link ≤ 7 ∧ Tab.get false s.tok.linkDown link = false ∧
      8 ≤ Tab.get 0 s.tok.retries link) ∧
    (∃ (s : State), Tab.get false s.tok.linkDown 8 = false ∧ 8 ≤ Tab.get 0 s.tok.retries 8) ∧
    (∃ (link : Nat) (s : State), link ≤ 8 ∧ Tab.get 0 s.tok.retries link < 8) := by
  refine ⟨⟨0, 2, tokR .granted 0 2 { up with tok := { up.tok with granted := [1] } }, ?_⟩,
    ⟨0, 2, tokR .granted 0 2 { up with tok := { up.tok with claimant := some 0, active := none } }, ?_⟩,
    ⟨0, 2, tokR .granted 0 2 { up with tok := { up.tok with claimant := some 0, active := none, claimGrants := [0, 1] } },
      ?_⟩,
    ⟨2, tokR .released 1 2 { up with twin := { up.twin with tender := .synced } }, ?_⟩,
    ⟨{ up with tok := { up.tok with missed := 2, granted := [1] } }, ?_⟩,
    ⟨{ up with tok := { up.tok with active := none, dies := [], cdEpochB := 100 }, boot := { up.boot with readyB := true, readyEpochB := 92, tokenEpoch := none } },
      ?_⟩,
    ⟨8, true, up, ?_⟩,
    ⟨7, { up with tok := { up.tok with retries := [(7, 8)] } }, ?_⟩,
    ⟨{ up with tok := { up.tok with retries := [(8, 8)] } }, ?_⟩,
    ⟨8, up, ?_⟩⟩
  all_goals
    repeat' apply And.intro
  all_goals first
    | decide +kernel

end C04

namespace C05

def pay1 : List Byte := headerBytes 0x1000 7 9 0 1 0 0 0 0
def f20 : RawFlit := datF 0 20 pay1
def lp (g pg es : Nat) : RawFlit := ctl (.linkParam ⟨3, g, pg, es, 3, 1, 4, 0, [64, 64, 64, 64]⟩) h0
def upT (f : Port → Port) : State := upN fun p => f { p with st := .training, attempt := true }

theorem test_linkReceivesFlitsInOrder :
    (∃ (n : Nat) (f : RawFlit) (marks : List (Nat × Nat)) (msgs : List ReqHdr) (s : State), s.portUp n = true ∧
      rawBad f = false ∧ (rawWord f).kind = 0 ∧ dataMsgs n f marks = some msgs ∧
      seqDist (rawWord f).seq ((headerTaken s n f).port n).es = 0 ∧
      ((headerTaken s n f).port n).slotsOf (rawWord f).typ < s.ownCrd n (rawWord f).typ) ∧
    (∃ (n : Nat) (f : RawFlit) (marks : List (Nat × Nat)) (msgs : List ReqHdr) (s : State), s.portUp n = true ∧
      rawBad f = false ∧ (rawWord f).kind = 0 ∧ dataMsgs n f marks = some msgs ∧
      seqDist (rawWord f).seq ((headerTaken s n f).port n).es = 0 ∧
      s.ownCrd n (rawWord f).typ ≤ ((headerTaken s n f).port n).slotsOf (rawWord f).typ) ∧
    (∃ (n : Nat) (f : RawFlit) (marks : List (Nat × Nat)) (msgs : List ReqHdr) (s : State), s.portUp n = true ∧
      rawBad f = false ∧ (rawWord f).kind = 0 ∧ dataMsgs n f marks = some msgs ∧
      1 ≤ seqDist (rawWord f).seq ((headerTaken s n f).port n).es ∧
      seqDist (rawWord f).seq ((headerTaken s n f).port n).es ≤ 32767) ∧
    (∃ (n : Nat) (f : RawFlit) (marks : List (Nat × Nat)) (msgs : List ReqHdr) (s : State), s.portUp n = true ∧
      rawBad f = false ∧ (rawWord f).kind = 0 ∧ dataMsgs n f marks = some msgs ∧
      32767 < seqDist (rawWord f).seq ((headerTaken s n f).port n).es) ∧
    (∃ (n : Nat) (f : RawFlit) (marks : List (Nat × Nat)) (s : State), s.portUp n = true ∧ (rawBad f = true ∨
      (rawWord f).kind ≠ 1 ∧ dataMsgs n f marks = none)) ∧
    (∃ (n : Nat) (f : RawFlit) (s : State), s.portUp n = true ∧ CtlGood n f typIdle) ∧
    (∃ (n : Nat) (f : RawFlit) (s : State), s.portUp n = true ∧ CtlGood n f typNak ∧
      ((headerTaken s n f).port n).timeoutMode = false ∧
      seqDist (rawField f 0 2) ((headerTaken s n f).port n).oldest ≤ ((headerTaken s n f).port n).outstanding ∧
      ((headerTaken s n f).port n).replay = none) ∧
    (∃ (n : Nat) (f : RawFlit) (c : Nat) (s : State), s.portUp n = true ∧ CtlGood n f typCreditSync ∧ c < 4 ∧
      Tab.get 0 ((headerTaken s n f).port n).returned c < two32 ∧ rawField f (4 * c) 4 < two32) ∧
    (∃ (n : Nat) (f : RawFlit) (s : State), s.portUp n = true ∧ rawBad f = true) ∧
    (∃ (n : Nat) (f : RawFlit) (s : State), s.portUp n = true ∧ rawBad f = false ∧ (rawWord f).kind = 1 ∧
      (rawFormed f = false ∨ rslForbids n (rawWord f).typ = true ∨ (rawWord f).typ = typLaneSwap ∧
      rawSwapFormed f = false)) ∧
    (∃ (n : Nat) (cls : Nat) (x : Slot) (rest : List Slot) (s : State), s.attended = true ∧ (isRsl n = true →
      s.openCommands < 1024) ∧ s.inflowSpent n = false ∧ takeSlot cls (s.port n).slots = some (x, rest) ∧
      (∀ (j : Nat), j ∈ x.jidxs → j < s.twin.nextJidx) ∧ s.stockPaces x = false) := by
  refine ⟨⟨3, f20, [(50, 100)], (dataMsgs 3 (f20) [(50, 100)]).getD [], up, ?_⟩,
    ⟨3, f20, [(50, 100)], (dataMsgs 3 (f20) [(50, 100)]).getD [],
      upN fun p => { p with slots := (List.range 3000).map fun i => ⟨0, [i], []⟩ }, ?_⟩,
    ⟨3, datF 0 21 pay1, [(50, 100)], (dataMsgs 3 (datF 0 21 pay1) [(50, 100)]).getD [], up, ?_⟩,
    ⟨3, datF 0 19 pay1, [(50, 100)], (dataMsgs 3 (datF 0 19 pay1) [(50, 100)]).getD [], up, ?_⟩,
    ⟨3, { f20 with fecBad := 2 }, [(50, 100)], up, ?_⟩,
    ⟨3, ctl .idle h0, upN st89, ?_⟩,
    ⟨3, ctl (.nak 9) h1, upN st89, ?_⟩,
    ⟨3, ctl (.creditSync [5, 0, 0, 0]) h0, 0, upN fun p => { p with sent := [(0, 7)], returned := [(0, 3)] }, ?_⟩,
    ⟨3, { ctl (.creditSync []) h0 with fecBad := 1 }, up, ?_⟩,
    ⟨3, ctlT 9 [] h0, up, ?_⟩,
    ⟨3, 0, ⟨0, [50], [50]⟩, [],
      { upN (fun p => { p with slots := [⟨0, [50], [50]⟩] }) with twin := { up.twin with nextJidx := 51 } }, ?_⟩⟩
  all_goals
    try unfold CtlGood
    repeat' apply And.intro
  all_goals first
    | decide +kernel

theorem test_linkSendsControlThenReplayThenData :
    (∃ (n : Nat) (_at_ : Nat) (x : Ctl) (s : State), (s.port n).resetIdle = false ∧ s.clk.txIdle = false ∧
      s.portUp n = true ∧ (s.port n).dueCtl = some x) ∧
    (∃ (n : Nat) (_at_ : Nat) (r : Replay) (f : Stored) (s : State), (s.port n).resetIdle = false ∧ s.clk.txIdle = false ∧
      s.portUp n = true ∧ (s.port n).dueCtl = none ∧ (s.port n).replay = some r ∧
      List.find? (fun (x : Stored) => decide (x.seq = r.pos)) (s.port n).store = some f ∧ r.pos ≠ (s.port n).oldest) ∧
    (∃ (n : Nat) (_at_ : Nat) (s : State), isRsl n = false ∧ (s.port n).resetIdle = false ∧ s.clk.txIdle = false ∧
      s.portUp n = true ∧ (s.port n).dueCtl = none ∧ (s.port n).replay = none ∧ (s.port n).sending = []) ∧
    (∃ (n : Nat) (_at_ : Nat) (f : TxFlit) (rest : List TxFlit) (s : State), isRsl n = false ∧
      (s.port n).resetIdle = false ∧ s.clk.txIdle = false ∧ s.portUp n = true ∧ (s.port n).dueCtl = none ∧
      (s.port n).replay = none ∧ (s.port n).sending = f :: rest ∧ (s.port n).outstanding < s.flitCap n ∧
      (s.port n).avail f.cls ≠ 0) ∧
    (∃ (n : Nat) (at_ : Nat) (s : State), s.portUp n = true ∧ (s.port n).outstanding ≠ 0 ∧
      s.timerRun n (s.epoch * 4096 + at_) = true ∧ seqDist (s.port n).next (s.port n).oldest ≠ 0) ∧
    (∃ (n : Nat) (at_ : Nat) (s : State), s.timerRun n (s.epoch * 4096 + at_) = false) ∧
    (∃ (n : Nat) (f : RawFlit) (_t2 : Nat) (s : State), isRsl n = false ∧ s.portUp n = true ∧ CtlGood n f typTimeProbe) ∧
    (∃ (n : Nat) (f : RawFlit) (t4 : Nat) (d : Nat) (s : State), isRsl n = false ∧ s.portUp n = true ∧
      CtlGood n f typTimeEcho ∧ ((headerTaken s n f).port n).probing = true ∧
      ((headerTaken s n f).port n).probeId = rawField f 0 8 ∧
      (↑t4 - ↑((headerTaken s n f).port n).probeAt - (↑(rawField f 16 8) - ↑(rawField f 8 8))) / 2 = ↑d ∧ d ≤ 100000) := by
  refine ⟨⟨3, 100, .idle, upN fun p => { p with due := [.idle] }, ?_⟩,
    ⟨3, 100, ⟨8, 9, 10⟩, ⟨9, ⟨0, 0, 0, []⟩, false, 100⟩, upN fun p => { st89 p with replay := some ⟨8, 9, 10⟩ }, ?_⟩,
    ⟨3, 100, up, ?_⟩,
    ⟨3, 100, ⟨2, 0, 0, [oneMsg]⟩, [], upN fun p => { p with sending := [⟨2, 0, 0, [oneMsg]⟩] }, ?_⟩,
    ⟨3, 100, upN st89, ?_⟩,
    ⟨3, 100, upN fun p => { st89 p with store := (st89 p).store.map fun x => { x with sentAt := 409600 } }, ?_⟩,
    ⟨3, ctl (.timeProbe 5) h0, 6, up, ?_⟩,
    ⟨3, ctl (.timeEcho 5 1100 1200) h0, 2500, 700, upN fun p => { p with probing := true, probeId := 5, probeAt := 1000 },
      ?_⟩⟩
  all_goals
    try unfold CtlGood
    repeat' apply And.intro
  all_goals first
    | decide +kernel

theorem test_linkTrainsAndSwapsLanes :
    (∃ (n : Nat) (s : State), n < 64 ∧ s.portUp n = true) ∧
    (∃ (n : Nat) (lanes : BitVec 5) (s : State), n < 64 ∧ s.portUp n = true ∧
      2 ≤ (List.filter (fun (i : Nat) => decide (i ∈ dataLanes n (s.port n))) (List.filter (fun (i : Nat) => lanes.getLsbD i) (List.range (laneCount n)))).length) ∧
    (∃ (n : Nat) (lane : Nat) (cs : List Nat) (s : State), n < 64 ∧ (s.port n).st = PortState.up ∧
      Port.standby n (s.port n) = true ∧ lane ∈ dataLanes n (s.port n) ∧ lane < laneCount n ∧
      (s.port n).badLanes.getLsbD lane = false ∧ 4 ≤ cs.length ∧ (∀ (c : Nat), c ∈ cs → 4096 < c)) ∧
    (∃ (n : Nat) (f : RawFlit) (s : State), isRsl n = false ∧ s.portUp n = true ∧ CtlGood n f typLaneSwap ∧
      rawField f 0 1 = 0 ∧ ((headerTaken s n f).port n).st = PortState.up ∧
      Port.standby n ((headerTaken s n f).port n) = true) ∧
    (∃ (n : Nat) (s : State), (s.port n).st = PortState.swap ∧ (s.port n).goSent = true ∧ (s.port n).goRcvd = true) ∧
    (∃ (n : Nat) (_bad : BitVec 5) (s : State), n < 64 ∧ (s.port n).resetIdle = false ∧ s.clk.txIdle = false ∧
      s.mayTrain n = true ∧ (s.port n).st = PortState.down) ∧
    (∃ (n : Nat) (f : RawFlit) (pp : Nat) (s : State), (s.port n).st = PortState.training ∧ (s.port n).attempt = true ∧
      (s.port n).testing = false ∧ Port.lanesOk n (s.port n) = true ∧ CtlGood n f typLinkParam ∧
      linkParamBad (rawParam f pp) n = false) ∧
    (∃ (n : Nat) (s : State), n < 64 ∧ (s.port n).st = PortState.training ∧ (s.port n).attempt = true ∧
      (s.port n).testing = false ∧ Port.lanesOk n (s.port n) = true ∧ (s.port n).paramSeen = true ∧
      (s.port n).paramSent = true) ∧
    (∃ (n : Nat) (s : State), n < 64 ∧ (s.port n).st = PortState.training ∧ (s.port n).attempt = true ∧
      (s.port n).testing = false ∧ Port.lanesOk n (s.port n) = false) ∧
    (∃ (n : Nat) (s : State), (s.port n).st = PortState.training ∧ (s.port n).attempt = true) ∧
    (∃ (n : Nat) (s : State), (s.port n).st = PortState.training ∧ (s.port n).attempt = false ∧
      (s.port n).resetIdle = false ∧ s.mayTrain n = true) ∧
    (∃ (c : RslCmd) (n : Nat) (s : State), RslServed s c 258 ∧ n ≤ 63 ∧ s.portUp n = false ∧ s.mayTrain n = true) ∧
    (∃ (n : Nat) (s : State), (s.port n).resetIdle = true ∧ s.mayTrain n = true) := by
  refine ⟨⟨3, up, ?_⟩,
    ⟨3, 3#5, up, ?_⟩,
    ⟨3, 2, [5000, 5000, 5000, 4097], up, ?_⟩,
    ⟨3, ctl (.laneSwap 0 3) h0, up, ?_⟩,
    ⟨3, upN fun p => { p with st := .swap, goSent := true, goRcvd := true, swapLane := some 2 }, ?_⟩,
    ⟨3, 0#5, upN fun p => { p with st := .down, gen := 0 }, ?_⟩,
    ⟨3, lp 9 5 0, 3, upT id, ?_⟩,
    ⟨3, upT fun p => { p with paramSeen := true, paramSent := true }, ?_⟩,
    ⟨3, upT fun p => { p with paramSeen := true, badLanes := 31 }, ?_⟩,
    ⟨3, upT fun p => { p with testing := true }, ?_⟩,
    ⟨3, upN fun p => { p with st := .training, newBad := true }, ?_⟩,
    ⟨rc, 3, upN fun p => { p with st := .down }, ?_⟩,
    ⟨3, upN fun p => { p with st := .training, resetIdle := true }, ?_⟩⟩
  all_goals
    try unfold CtlGood
    try unfold RslServed
    repeat' apply And.intro
  all_goals first
    | decide +kernel

end C05

namespace C06

def om : OutMsg := ⟨7, 9, 0x1B, 2, 0, [], some 40, some 3, 0, none, false, false, false, false⟩
def upQ : State := { up with fab := { up.fab with routes0 := [(7, 8)], heard := [(7, some 3)], unbound := [om] } }
def upF (k : Nat) : State := { up with ports := [(3, { upPort with fifos := [(k, [⟨k % 4, k / 4, 0, [om]⟩, ⟨k % 4, k / 4, 0, []⟩])] })] }

theorem test_messagesBindAndBurstsStart :
    (∃ (m : OutMsg) (ms : List OutMsg) (p : Nat) (s : State), s.twin.paused = false ∧ s.fab.unbound = m :: ms ∧
      s.chooseBind m = BindAns.port p) ∧
    (∃ (m : OutMsg) (ms : List OutMsg) (s : State), s.twin.paused = false ∧ s.fab.unbound = m :: ms ∧
      s.chooseBind m = BindAns.dropped) ∧
    (∃ (n : Nat) (kind : Nat) (cls : Nat) (off : Nat) (e : Nat) (s : State), s.portUp n = true ∧ (s.port n).sending = [] ∧
      (s.port n).fifo (fifoKey kind cls) ≠ [] ∧ cls < 4 ∧
      (s.formBurst n kind cls).judgeBurst n kind cls off = BurstAns.starts e ∧ (kind = 0 →
      (s.formBurst n kind cls).nextClass n off = some cls)) ∧
    (∃ (n : Nat) (kind : Nat) (cls : Nat) (off : Nat) (s : State), s.portUp n = true ∧ (s.port n).sending = [] ∧
      (s.port n).fifo (fifoKey kind cls) ≠ [] ∧ cls < 4 ∧
      (s.formBurst n kind cls).judgeBurst n kind cls off = BurstAns.noTime) := by
  refine ⟨⟨om, [], 3, upQ, ?_⟩,
    ⟨{ om with notice := true, dst := 7 }, [],
      { upQ with fab := { upQ.fab with leaseGone := [(7, true)], unbound := [{ om with notice := true, dst := 7 }] }, pool := { upQ.pool with leases := [] } },
      ?_⟩,
    ⟨3, 0, 2, 100, 4096, upF 2, ?_⟩,
    ⟨3, 0, 2, 4096, upF 2, ?_⟩⟩
  all_goals
    repeat' apply And.intro
  all_goals first
    | decide +kernel

theorem test_routeVersionsAndPolicersAreLoaded :
    (∃ (c : RslCmd) (v : Nat) (first : Nat) (es : List (BitVec 32)) (s : State), RslServed s c 288 ∧ v ≤ 1 ∧ es ≠ [] ∧
      es.length ≤ 256 ∧ first + es.length ≤ 4104 ∧ es.any entryBad = false ∧ s.routeState v = RouteState.loading) ∧
    (∃ (c : RslCmd) (v : Nat) (first : Nat) (es : List (BitVec 32)) (s : State), RslServed s c 288 ∧ v ≤ 1 ∧ es ≠ [] ∧
      es.length ≤ 256 ∧ first + es.length ≤ 4104 ∧ es.any entryBad = false ∧ s.routeState v = RouteState.free) ∧
    (∃ (c : RslCmd) (v : Nat) (s : State), RslServed s c 289 ∧ v ≤ 1 ∧ s.routeState v = RouteState.loading) ∧
    (∃ (v : Nat) (s : State), v ≤ 1 ∧ s.routeState v = RouteState.draining ∧ s.inflight v = 0) ∧
    (∃ (c : RslCmd) (host : Nat) (cls : Nat) (cir : Nat) (pir : Nat) (cbs : Nat) (pbs : Nat) (s : State),
      RslServed s c 290 ∧ host ≤ 4095 ∧ cls ≤ 3 ∧ cir ≤ pir ∧ pir ≤ 6400000 ∧ 240 ≤ cbs ∧ cbs ≤ pbs ∧ pbs ≤ 16777216) := by
  refine ⟨⟨rc, 1, 4103, [8#32], { up with fab := { up.fab with rst1 := .loading } }, ?_⟩,
    ⟨rc, 1, 7, [8#32, 0#32], up, ?_⟩,
    ⟨rc, 1, { up with fab := { up.fab with rst1 := .loading } }, ?_⟩,
    ⟨0, { up with fab := { up.fab with rst0 := .draining, rst1 := .current } }, ?_⟩,
    ⟨rc, 4095, 3, 6400000, 6400000, 240, 240, up, ?_⟩⟩
  all_goals
    try unfold RslServed
    repeat' apply And.intro
  all_goals first
    | decide +kernel

theorem test_circuitsAreArmedActivatedAndRemoved :
    (∃ (c : RslCmd) (host : Nat) (port : Nat) (dir : Nat) (start : Nat) (ws : List (Nat × Nat)) (s : State),
      RslServed s c 291 ∧ host ≤ 4095 ∧ port ≤ 63 ∧ dir ≤ 2 ∧ ws ≠ [] ∧ ws.length ≤ 16 ∧ s.epoch + 2 ≤ start ∧
      start ≤ s.epoch + 65536 ∧ (∀ (w : Nat × Nat), w ∈ ws → w.fst + w.snd ≤ 4096 ∧
      s.cfgIx fGateBurst port * 5 ≤ w.snd) ∧ s.timeless = false ∧ windowsClash (s.portWindows port ++ ws) = false ∧
      (s.portWindows port ++ ws).length ≤ 64 ∧ sumOf (List.map (fun (x : Nat × Nat) => x.snd) (s.portWindows port ++
      ws)) ≤ 3072 ∧ lowestFree 0 (List.map (fun (x : Nat × Circuit) => x.fst) s.fab.circuits) < 512) ∧
    (∃ (c : RslCmd) (k : Nat) (e : Nat) (s : State), RslServed s c 292 ∧ k ≤ 511 ∧ s.epoch + 2 ≤ e ∧ e ≤ s.epoch + 65536 ∧
      ((s.circuit k).st = CktState.armed ∨ (s.circuit k).st = CktState.active)) ∧
    (∃ (k : Nat) (s : State), (s.circuit k).st = CktState.armed ∧ (s.circuit k).startEpoch ≤ s.epoch ∧
      (s.circuit k).windows ≠ []) ∧
    (∃ (k : Nat) (s : State), (s.circuit k).st = CktState.tearing ∧
      max (s.circuit k).endEpoch (s.circuit k).startEpoch ≤ s.epoch) := by
  refine ⟨⟨rc, 7, 3, 2, 102, [(0, 4096 / 2)], up, ?_⟩,
    ⟨rc, 2, 102, { up with fab := { up.fab with circuits := [(2, ⟨.active, 7, 3, 2, 90, 0, [(100, 500)]⟩)] } }, ?_⟩,
    ⟨2, { up with fab := { up.fab with circuits := [(2, ⟨.armed, 7, 3, 2, 90, 0, [(100, 500)]⟩)] } }, ?_⟩,
    ⟨2,
      { up with fab := { up.fab with circuits := [(2, ⟨.tearing, 7, 3, 2, 90, 100, [(100, 500)]⟩)] }, ports := [(3, { upPort with windows := [⟨2, 100, 500⟩, ⟨3, 700, 100⟩] })] },
      ?_⟩⟩
  all_goals
    try unfold RslServed
    repeat' apply And.intro
  all_goals first
    | decide +kernel

theorem test_undefinedOpcodesCompleteMalformed :
    (∃ (h : ReqHdr) (op : Nat) (s : State), definedOpcode clsReq op = false ∧ ReqServed s h ∧
      ((arrived s h).police h 3).snd = false) ∧
    (∃ (h : ReqHdr) (cls : Nat) (op : Nat) (s : State), definedOpcode cls op = false ∧ cls ≠ clsReq ∧ h.dst = s.fabricId ∧
      s.srcAdmitted h.src = true) ∧
    (∃ (c : RslCmd) (op : Nat) (s : State), definedCmd op = false ∧ RslServed s c op) := by
  refine ⟨⟨rq 1, 0xff, up, ?_⟩,
    ⟨rq 1, 2, 0xff, up, ?_⟩,
    ⟨rc, 0xfff, up, ?_⟩⟩
  all_goals
    try unfold Admitted
    try unfold ReqServed
    try unfold RslServed
    repeat' apply And.intro
  all_goals first
    | decide +kernel

end C06

namespace C07

def vf : Via := .fabric (rq 1)
def vr : Via := .rsl rc
def pl (s : State) (v : Via) (kind len : Nat) : State := let r := reached v 0x41 s; ((r.place (lowestFree 0 (r.pool.exts.map (·.1))) kind 3 (r.viaHost v) len r.allocMask).getD r)

theorem test_leasesAreRenewedAndEnd :
    (∃ (v : Via) (s : State), Reaches v 64 [1] 0 s ∧ Mastered (reached v 64 s) ∧ (reached v 64 s).viaHost v < 4096 ∧
      (((reached v 64 s).lease ((reached v 64 s).viaHost v)).st = LState.live ∨
      ((reached v 64 s).lease ((reached v 64 s).viaHost v)).st = LState.grace)) ∧
    (∃ (v : Via) (s : State), Reaches v 64 [1] 0 s ∧ Mastered (reached v 64 s) ∧ (reached v 64 s).viaHost v < 4096 ∧
      (((reached v 64 s).lease ((reached v 64 s).viaHost v)).st = LState.none ∨
      ((reached v 64 s).lease ((reached v 64 s).viaHost v)).st = LState.reclaim)) ∧
    (∃ (h : Nat) (s : State), (s.lease h).st = LState.live ∧ (s.lease h).endEpoch ≤ s.epoch) ∧
    (∃ (h : Nat) (s : State), (s.lease h).st = LState.grace ∧ (s.lease h).endEpoch ≤ s.epoch) ∧
    (∃ (h : Nat) (s : State), (s.lease h).st = LState.reclaim ∧ s.grantsOf h = [] ∧ (∀ (e : Nat × Ext), e ∈ s.pool.exts →
      e.snd.ownedBy h = true → e.snd.shared = true) ∧ (∀ (w : Nat × Nat), w ∈ s.pool.reclaimWait → w.fst ≠ h)) := by
  refine ⟨⟨vf, up, ?_⟩,
    ⟨vf, { up with pool := { up.pool with leases := [(7, ⟨true, .reclaim, 3, 200⟩)] } }, ?_⟩,
    ⟨7, { up with pool := { up.pool with leases := [(7, ⟨true, .live, 3, 100⟩)] } }, ?_⟩,
    ⟨7, { up with pool := { up.pool with leases := [(7, ⟨true, .grace, 3, 100⟩)] } }, ?_⟩,
    ⟨7, { up with pool := { up.pool with leases := [(7, ⟨true, .reclaim, 3, 100⟩)], grants := [] } }, ?_⟩⟩
  all_goals
    try unfold Mastered
    try unfold Reaches
    try unfold Admitted
    try unfold ReqServed
    try unfold RslServed
    repeat' apply And.intro
  all_goals first
    | decide +kernel

theorem test_extentsAreAllocatedGrantedAndReleased :
    (∃ (v : Via) (kind : Nat) (rights : Nat) (len : Nat) (s : State) (tenant : Nat) (u : State), Reaches v 65 [1,
      5] (BitVec.allOnes 32) s ∧ Mastered (reached v 65 s) ∧ (reached v 65 s).joined = [] ∧ kind ≤ 1 ∧ 1 ≤ rights ∧
      rights ≤ 7 ∧ len ≠ 0 ∧ (reached v 65 s).viaHost v ≤ 4095 ∧
      (reached v 65 s).tenantOf ((reached v 65 s).viaHost v) = some tenant ∧ tenant ≤ 1023 ∧ (∀ (c : RslCmd),
      v = Via.rsl c → c.tenant = tenant) ∧ (reached v 65 s).decommissioned = false ∧
      (reached v 65 s).tenantGran tenant + len ≤ Tab.get 0 (reached v 65 s).pool.quotas tenant ∧
      (reached v 65 s).boot.poolReady.isSome = true ∧ (reached v 65 s).lcRunning = false ∧
      ((reached v 65 s).setSize = 1 ∨ (reached v 65 s).pool.formEnded = true) ∧
      (reached v 65 s).inReclaim ((reached v 65 s).viaHost v) = false ∧
      lowestFree 0 (List.map (fun (x : Nat × Ext) => x.fst) (reached v 65 s).pool.exts) ≤ 16383 ∧
      List.length (reached v 65 s).pool.grants < 65536 ∧
      (reached v 65 s).place (lowestFree 0 (List.map (fun (x : Nat × Ext) => x.fst) (reached v 65 s).pool.exts)) kind tenant ((reached v 65 s).viaHost v) len (reached v 65 s).allocMask = some u) ∧
    (∃ (v : Via) (ext : Nat) (host : Nat) (rights : Nat) (s : State), Reaches v 66 [1, 5] (BitVec.allOnes 32) s ∧
      Mastered (reached v 66 s) ∧ (reached v 66 s).joined = [] ∧ ext ≤ 16383 ∧ host ≤ 4095 ∧ 1 ≤ rights ∧ rights ≤ 7 ∧
      (reached v 66 s).decommissioned = false ∧ (reached v 66 s).lcRunning = false ∧
      (reached v 66 s).boot.poolReady.isSome = true ∧ ((reached v 66 s).ext ext).st = ExtState.active ∧
      (reached v 66 s).notOwner v ((reached v 66 s).ext ext) = false ∧ ((reached v 66 s).ext ext).shared = true ∧
      (reached v 66 s).isVersion ext = false ∧
      (reached v 66 s).tenantOf host = some ((reached v 66 s).ext ext).tenant ∧
      (((reached v 66 s).ext ext).sealed = true → bitOf rights 2 = false) ∧ (reached v 66 s).inReclaim host = false ∧
      ((reached v 66 s).grant ext host ≠ 0 ∨ List.length (reached v 66 s).pool.grants < 65536)) ∧
    (∃ (v : Via) (ext : Nat) (host : Nat) (s : State), Reaches v 67 [1, 5] (BitVec.allOnes 32) s ∧
      Mastered (reached v 67 s) ∧ (reached v 67 s).joined = [] ∧ ext ≤ 16383 ∧ host ≤ 4095 ∧
      ((reached v 67 s).ext ext).st ≠ ExtState.free ∧
      ((reached v 67 s).notOwner v ((reached v 67 s).ext ext) = false ∨ (reached v 67 s).viaHost v = host) ∧
      (reached v 67 s).isVersion ext = false ∧ ((reached v 67 s).ext ext).shared = true ∧
      (reached v 67 s).grant ext host ≠ 0) ∧
    (∃ (v : Via) (ext : Nat) (host : Nat) (s : State), Reaches v 67 [1, 5] (BitVec.allOnes 32) s ∧
      Mastered (reached v 67 s) ∧ ext ≤ 16383 ∧ host ≤ 4095 ∧ ((reached v 67 s).ext ext).st ≠ ExtState.free ∧
      ((reached v 67 s).notOwner v ((reached v 67 s).ext ext) = false ∨ (reached v 67 s).viaHost v = host) ∧
      (reached v 67 s).isVersion ext = false ∧ (reached v 67 s).grant ext host = 0) := by
  refine ⟨⟨vf, 1, 7, 3, up, 3, pl (up) vf 1 3, ?_⟩,
    ⟨vf, 5, 8, 7, up, ?_⟩,
    ⟨vf, 5, 7, up, ?_⟩,
    ⟨vf, 5, 8, up, ?_⟩⟩
  all_goals
    try unfold Mastered
    try unfold Reaches
    try unfold Admitted
    try unfold ReqServed
    try unfold RslServed
    repeat' apply And.intro
  all_goals first
    | decide +kernel
    | (intro c h; cases h)

theorem test_withdrawnExtentsDrainAndBecomeFree :
    (∃ (v : Via) (ext : Nat) (s : State), Reaches v 68 [1, 5] (BitVec.allOnes 32) s ∧ Mastered (reached v 68 s) ∧
      (reached v 68 s).joined = [] ∧ ext ≤ 16383 ∧ ((reached v 68 s).ext ext).st = ExtState.active ∧
      (reached v 68 s).notOwner v ((reached v 68 s).ext ext) = false ∧ (reached v 68 s).isVersion ext = false ∧
      (reached v 68 s).boundUp ((reached v 68 s).ext ext) = false) ∧
    (∃ (v : Via) (ext : Nat) (s : State), Reaches v 68 [1, 5] (BitVec.allOnes 32) s ∧ Mastered (reached v 68 s) ∧
      ext ≤ 16383 ∧ ((reached v 68 s).ext ext).st = ExtState.active ∧ viaOperator v = true ∧
      (reached v 68 s).isVersion ext = false ∧ (reached v 68 s).boundUp ((reached v 68 s).ext ext) = false) ∧
    (∃ (v : Via) (ext : Nat) (force : Nat) (s : State), Reaches v 68 [1, 5] (BitVec.allOnes 32) s ∧
      Mastered (reached v 68 s) ∧ ext ≤ 16383 ∧ force ≤ 1 ∧ ((reached v 68 s).ext ext).st = ExtState.free) ∧
    (∃ (ext : Nat) (s : State), s.extDrained ext = true) ∧
    (∃ (ext : Nat) (s : State), s.extDrained ext = false) := by
  refine ⟨⟨vf, 5, up, ?_⟩,
    ⟨vr, 5, up, ?_⟩,
    ⟨vf, 16383, 0, up, ?_⟩,
    ⟨5,
      { up with pool := { up.pool with exts := up.pool.exts.map (fun e => (e.1, { e.2 with st := .withdrawing })), grants := [], withdrawers := [(5, [(vr, 0x44)])] } },
      ?_⟩,
    ⟨5, up, ?_⟩⟩
  all_goals
    try unfold Mastered
    try unfold Reaches
    try unfold Admitted
    try unfold ReqServed
    try unfold RslServed
    repeat' apply And.intro
  all_goals first
    | decide +kernel

theorem test_poolTablesAreSetAndQueried :
    (∃ (v : Via) (s : State), Reaches v 69 [1] 0 s) ∧
    (∃ (c : RslCmd) (host : Nat) (tenant : Nat) (s : State), RslServed s c 304 ∧ host ≤ 4095 ∧ tenant ≤ 1023 ∧
      s.joined = [] ∧ s.tenantOf host ≠ some tenant ∧ (s.lease host).st = LState.none) ∧
    (∃ (c : RslCmd) (host : Nat) (tenant : Nat) (s : State), RslServed s c 304 ∧ host ≤ 4095 ∧ tenant ≤ 1023 ∧
      s.joined = [] ∧ s.tenantOf host = some tenant ∧ (s.lease host).st = LState.none) ∧
    (∃ (c : RslCmd) (host : Nat) (tenant : Nat) (assign : Nat) (s : State), RslServed s c 304 ∧ host ≤ 4095 ∧
      tenant ≤ 1023 ∧ (assign = 0 ∧ s.tenantOf host ≠ some tenant ∨ assign = 1 ∧ s.tenantOf host ≠ some tenant ∧
      (s.lease host).st ≠ LState.none)) ∧
    (∃ (c : RslCmd) (tenant : Nat) (quota : Nat) (s : State), RslServed s c 305 ∧ tenant ≤ 1023 ∧ quota ≤ 3686400) ∧
    (∃ (c : RslCmd) (ext : Nat) (s : State), RslServed s c 307 ∧ ext ≤ 16383) ∧
    (∃ (c : RslCmd) (host : Nat) (s : State), RslServed s c 308 ∧ host ≤ 4095) := by
  refine ⟨⟨vf, up, ?_⟩,
    ⟨rc, 9, 3, up, ?_⟩,
    ⟨rc, 8, 3, { up with pool := { up.pool with leases := [(8, ⟨true, .none, 3, 200⟩)] } }, ?_⟩,
    ⟨rc, 8, 4, 1, up, ?_⟩,
    ⟨rc, 1023, 3686400, up, ?_⟩,
    ⟨rc, 5, up, ?_⟩,
    ⟨rc, 7, up, ?_⟩⟩
  all_goals
    try unfold Reaches
    try unfold Admitted
    try unfold ReqServed
    try unfold RslServed
    repeat' apply And.intro
  all_goals first
    | decide +kernel

end C07

namespace C08

def set2 (s : State) : State := { s with cfg := { s.cfg with vals := [(fSetSize, some 2), (fMemberId, some 0x1000), (fMemberId + 1, some 0x1001)] } }
def hs (src : Nat) : ReqHdr := { rq 1 with src := src }
def m2 (st : MemberState) : State := set2 { up with pool := { up.pool with members := [(1, ⟨st, 90, 90⟩)] } }
def slave : State := { set2 up with boot := { up.boot with setIndex := 1 }, cfg := { (set2 up).cfg with vals := [(fFabricId, some 0x1001), (fSetSize, some 2), (fMemberId, some 0x1000), (fMemberId + 1, some 0x1001)] } }
def hm : ReqHdr := { rq 1 with src := 0x1000, dst := 0x1001 }

theorem test_setFormsAndOrdersAreCarriedOut :
    (∃ (e : Nat) (s : State), s.boot.poolReady = some e ∧ s.isMaster = true ∧ s.setSize ≠ 1 ∧ (s.epoch - e) % 16 = 0 ∧
      s.serving = true) ∧
    (∃ (h : ReqHdr) (gen : Nat) (i : Nat) (_size : Nat) (_digest : Nat) (s : State), SetReqServed s h gen i ∧
      h.src = s.cfgIx fMemberId 0) ∧
    (∃ (h : ReqHdr) (gen : Nat) (i : Nat) (s : State), SetMsgGood s h gen i ∧ (s.member i).st = MemberState.absent) ∧
    (∃ (h : ReqHdr) (gen : Nat) (i : Nat) (index : Nat) (size : Nat) (code : Nat) (s : State), SetMsgGood s h gen i ∧
      (s.member i).st = MemberState.absent ∧ (code ≠ cOk ∨ index ≠ i ∨ size ≠ s.setSize)) ∧
    (∃ (e : Nat) (s : State), s.boot.poolReady = some e ∧ s.isMaster = true ∧ e + s.cfgAt fFormEpochs ≤ s.epoch) ∧
    (∃ (h : ReqHdr) (gen : Nat) (i : Nat) (_e : Nat) (_g : Nat) (w : Nat) (s : State), SetReqServed s h gen i ∧
      i = s.pool.master ∧ w ≠ 0) ∧
    (∃ (h : ReqHdr) (gen : Nat) (i : Nat) (_o : SetOrder) (s : State), SetReqServed s h gen i ∧ i ≠ s.pool.master) ∧
    (∃ (h : ReqHdr) (gen : Nat) (i : Nat) (x : SetOrder) (o : SetOrder) (s : State), SetMsgGood s h gen i ∧
      s.pool.orders = [{ order := x, waiting := [{ member := i, tag := h.tag, order := o }], refused := [], held := none }]) ∧
    (∃ (h : ReqHdr) (gen : Nat) (i : Nat) (x : SetOrder) (o : SetOrder) (w : List Sent) (f : List Nat) (held : Option HeldCpl) (s : State),
      SetMsgGood s h gen i ∧
      s.pool.orders = [{ order := x, waiting := { member := i, tag := h.tag, order := o } :: w, refused := f, held := held }] ∧
      ¬{ member := i, tag := h.tag, order := o } ∈ w ∧ w ≠ []) ∧
    (∃ (h : ReqHdr) (gen : Nat) (i : Nat) (x : SetOrder) (o : SetOrder) (w : List Sent) (f : List Nat) (held : Option HeldCpl) (s : State),
      SetMsgGood s h gen i ∧
      s.pool.orders = [{ order := x, waiting := { member := i, tag := h.tag, order := o } :: w, refused := f, held := held }] ∧
      ¬{ member := i, tag := h.tag, order := o } ∈ w) ∧
    (∃ (h : ReqHdr) (gen : Nat) (i : Nat) (x : SetOrder) (o : SetOrder) (w : List Sent) (f : List Nat) (held : Option HeldCpl) (s : State),
      SetMsgGood s h gen i ∧
      s.pool.orders = [{ order := x, waiting := { member := i, tag := h.tag, order := o } :: w, refused := f, held := held }] ∧
      ¬{ member := i, tag := h.tag, order := o } ∈ w) := by
  refine ⟨⟨84, set2 { up with boot := { up.boot with poolReady := some 84 } }, ?_⟩,
    ⟨hm, 1, 0, 2, (slave).runDigest, slave, ?_⟩,
    ⟨hs 0x1001, 1, 1, m2 .absent, ?_⟩,
    ⟨hs 0x1001, 1, 1, 1, 3, cOk, m2 .absent, ?_⟩,
    ⟨20,
      { up with clk := { up.clk with now := (20 + up.cfgAt fFormEpochs) * 4096 }, pool := { up.pool with formEnded := false } },
      ?_⟩,
    ⟨hm, 1, 0, 5, 9, 3, slave, ?_⟩,
    ⟨hs 0x1001, 1, 1, .release 5 7, m2 .joined, ?_⟩,
    ⟨hs 0x1001, 1, 1, .release 5 7, .release 5 7,
      { m2 .joined with pool := { (m2 .joined).pool with orders := [⟨.release 5 7, [⟨1, 9, .release 5 7⟩], [], none⟩] } },
      ?_⟩,
    ⟨hs 0x1001, 1, 1, .release 5 7, .release 5 7, [⟨1, 10, .release 5 7⟩], [], some ⟨.rsl rc, 0x43, 0x46, 0, 0, [], []⟩,
      { m2 .joined with pool := { (m2 .joined).pool with orders := [⟨.release 5 7, [⟨1, 9, .release 5 7⟩, ⟨1, 10, .release 5 7⟩], [], some ⟨.rsl rc, 0x43, 0x46, 0, 0, [], []⟩⟩] } },
      ?_⟩,
    ⟨hs 0x1001, 1, 1, .release 5 7, .release 5 7, [⟨1, 10, .release 5 7⟩], [], some ⟨.rsl rc, 0x43, 0x46, 0, 0, [], []⟩,
      { m2 .joined with pool := { (m2 .joined).pool with orders := [⟨.release 5 7, [⟨1, 9, .release 5 7⟩, ⟨1, 10, .release 5 7⟩], [], some ⟨.rsl rc, 0x43, 0x46, 0, 0, [], []⟩⟩] } },
      ?_⟩,
    ⟨hs 0x1001, 1, 1, .release 5 7, .release 5 7, [⟨1, 10, .release 5 7⟩], [], some ⟨.rsl rc, 0x43, 0x46, 0, 0, [], []⟩,
      { m2 .joined with pool := { (m2 .joined).pool with orders := [⟨.release 5 7, [⟨1, 9, .release 5 7⟩, ⟨1, 10, .release 5 7⟩], [], some ⟨.rsl rc, 0x43, 0x46, 0, 0, [], []⟩⟩] } },
      ?_⟩⟩
  all_goals
    try unfold SetReqServed
    try unfold SetMsgGood
    try unfold ReqServed
    repeat' apply And.intro
  all_goals first
    | decide +kernel

theorem test_setFollowsDeltasAndLosses :
    (∃ (h : ReqHdr) (gen : Nat) (i : Nat) (epoch : Nat) (s : State), SetReqServed s h gen i ∧ i = s.pool.master ∧
      s.isMaster = false ∧ s.pool.lastDelta ≤ epoch ∧ h.opData.getLsbD 0 = true) ∧
    (∃ (h : ReqHdr) (gen : Nat) (i : Nat) (epoch : Nat) (x : LeaseRec) (s : State), SetReqServed s h gen i ∧
      i = s.pool.master ∧ s.isMaster = false ∧ s.pool.lastDelta ≤ epoch ∧ lstateOf x.lstate = LState.live) ∧
    (∃ (h : ReqHdr) (gen : Nat) (i : Nat) (_epoch : Nat) (s : State), SetMsgGood s h gen i ∧
      (s.member i).st = MemberState.joined ∧ s.pool.reclaimWait = []) ∧
    (∃ (n : Nat) (s : State), s.isMaster = true ∧ n ≠ s.setIndex ∧ (s.member n).st = MemberState.joined ∧
      (s.member n).lastAckAt + s.cfgAt fLossEpochs ≤ s.epoch ∧ s.pool.orders = [] ∧ s.pool.reclaimWait = [] ∧
      (∀ (e : Nat × Ext), e ∈ s.pool.exts → e.snd.mask.getLsbD n = false)) ∧
    (∃ (n : Nat) (e : Nat) (x : Ext) (s : State), s.isMaster = true ∧ n ≠ s.setIndex ∧
      (s.member n).st = MemberState.joined ∧ (s.member n).lastAckAt + s.cfgAt fLossEpochs ≤ s.epoch ∧
      s.pool.orders = [] ∧ s.pool.reclaimWait = [] ∧ s.pool.exts = [(e, x)] ∧ x.st ≠ ExtState.free ∧
      x.mask.getLsbD n = true) ∧
    (∃ (s : State), s.isMaster = false ∧ s.pool.ready = true ∧ s.pool.degraded = false ∧
      s.pool.lastDeltaAt + s.cfgAt fLossEpochs ≤ s.epoch) ∧
    (∃ (c : RslCmd) (m : Nat) (lost : BitVec 8) (s : State), RslServed s c 306 ∧ m ≤ 7 ∧ lost.getLsbD m = false ∧
      s.pool.masterPending = none) ∧
    (∃ (c : RslCmd) (m : Nat) (lost : BitVec 8) (gen : Nat) (s : State), RslServed s c 306 ∧ (7 < m ∨
      gen ≠ nextSetGen s.pool.setGen ∨ lost.getLsbD m = true)) := by
  refine ⟨⟨{ hm with opData := 1 }, 1, 0, 99, slave, ?_⟩,
    ⟨hm, 1, 0, 99, ⟨9, true, 1, 4, 300⟩, slave, ?_⟩,
    ⟨hs 0x1001, 1, 1, 99, m2 .joined, ?_⟩,
    ⟨1, { m2 .joined with clk := { up.clk with now := (90 + up.cfgAt fLossEpochs) * 4096 } }, ?_⟩,
    ⟨1, 5, { (up.ext 5) with mask := 3 },
      { m2 .joined with clk := { up.clk with now := (90 + up.cfgAt fLossEpochs) * 4096 }, pool := { (m2 .joined).pool with exts := [(5, { (up.ext 5) with mask := 3 })] } },
      ?_⟩,
    ⟨{ slave with clk := { up.clk with now := up.cfgAt fLossEpochs * 4096 }, pool := { slave.pool with ready := true } },
      ?_⟩,
    ⟨rc, 7, 1#8, up, ?_⟩,
    ⟨rc, 8, 1#8, 2, up, ?_⟩⟩
  all_goals
    try unfold SetReqServed
    try unfold SetMsgGood
    try unfold ReqServed
    try unfold RslServed
    repeat' apply And.intro
  all_goals first
    | decide +kernel

end C08

namespace C09

def a5 : Nat := 5 * 2 ^ 43
def okL (r : State) (h : ReqHdr) (addr need : Nat) (nv : Bool) : Nat := match r.accessSealed h.src h.sess addr need nv with | .ok _ l => l | _ => 0
def upM : State := { up with mem := { up.mem with cells := [(32000 * 65536, 7), (32000 * 65536 + 70, 8)], lines := [(32000 * 1024, ⟨true, false, 0⟩), (32000 * 1024 + 1, ⟨true, true, 0⟩)] } }

theorem test_unboundLinesAreReadAndQueued :
    (∃ (h : ReqHdr) (addr : Nat) (e : Nat) (line : Nat) (s : State), HomeReached s h 0 [2] 255 ∧ addr % 64 = 0 ∧
      (admitted s h 0).accessSealed h.src h.sess addr needR false = Access.ok e line ∧
      ((admitted s h 0).ext (addrExt addr)).domain = none ∧ e = addrExt addr ∧ (admitted s h 0).guarded addr = none ∧
      (admitted s h 0).obeys ((admitted s h 0).hubOfLine line) = true ∧
      (admitted s h 0).stackDown (stackOf ((admitted s h 0).phys (line / 1024))) = false ∧
      ((admitted s h 0).readsClosed ((admitted s h 0).phys (line / 1024)) (line % 1024) = true ∨
      ((admitted s h 0).lineMeta ((admitted s h 0).phys (line / 1024)) (line % 1024)).valid = false ∨
      ((admitted s h 0).lineMeta ((admitted s h 0).phys (line / 1024)) (line % 1024)).poison = false)) ∧
    (∃ (h : ReqHdr) (addr : Nat) (e : Nat) (line : Nat) (s : State), HomeReached s h 0 [2] 255 ∧ addr % 64 = 0 ∧
      (admitted s h 0).accessSealed h.src h.sess addr needR false = Access.ok e line ∧
      ((admitted s h 0).ext (addrExt addr)).domain = none ∧ e = addrExt addr ∧ (admitted s h 0).guarded addr = none ∧
      (admitted s h 0).obeys ((admitted s h 0).hubOfLine line) = true ∧
      (admitted s h 0).stackDown (stackOf ((admitted s h 0).phys (line / 1024))) = false ∧
      (admitted s h 0).readsClosed ((admitted s h 0).phys (line / 1024)) (line % 1024) = false ∧
      ((admitted s h 0).lineMeta ((admitted s h 0).phys (line / 1024)) (line % 1024)).valid = true ∧
      ((admitted s h 0).lineMeta ((admitted s h 0).phys (line / 1024)) (line % 1024)).poison = true) ∧
    (∃ (h : ReqHdr) (addr : Nat) (_err : Err) (e : Nat) (line : Nat) (s : State), HomeReached s h 0 [2] 255 ∧
      addr % 64 = 0 ∧ (admitted s h 0).accessSealed h.src h.sess addr needR false = Access.ok e line ∧
      ((admitted s h 0).ext (addrExt addr)).domain = none ∧ e = addrExt addr ∧ (admitted s h 0).guarded addr = none ∧
      (admitted s h 0).hubGone ((admitted s h 0).hubOfLine line) = false ∧
      (admitted s h 0).obeys ((admitted s h 0).hubOfLine line) = false) ∧
    (∃ (h : ReqHdr) (addr : Nat) (code : Nat) (check : Nat) (s : State), HomeReached s h 0 [2] 255 ∧ addr % 64 = 0 ∧
      (admitted s h 0).accessSealed h.src h.sess addr needR false = Access.fail code check ∧
      ((admitted s h 0).ext (addrExt addr)).domain = none) ∧
    (∃ (h : ReqHdr) (addr : Nat) (mask : BitVec 64) (_data : Line) (_err : Err) (e : Nat) (line : Nat) (s : State),
      HomeReached s h 1 [6] 255 ∧ addr % 64 = 0 ∧ mask ≠ 0 ∧
      (admitted s h 1).accessSealed h.src h.sess addr needW false = Access.ok e line ∧
      ((admitted s h 1).ext (addrExt addr)).domain = none ∧ e = addrExt addr ∧ (admitted s h 1).guarded addr = none) ∧
    (∃ (h : ReqHdr) (addr : Nat) (operand : BitVec 256) (_err : Err) (e : Nat) (line : Nat) (s : State),
      HomeReached s h 1 [4] 8191 ∧ atomicBad h addr 0 operand = false ∧
      (admitted s h 1).accessSealed h.src h.sess addr needA true = Access.ok e line ∧
      ((admitted s h 1).ext (addrExt addr)).domain = none ∧ e = addrExt addr ∧ (admitted s h 1).guarded addr = none) := by
  refine ⟨⟨rq 2, a5, 5, okL (admitted (upM) (rq 2) 0) (rq 2) a5 needR false, upM, ?_⟩,
    ⟨rq 2, a5 + 64, 5, okL (admitted (upM) (rq 2) 0) (rq 2) (a5 + 64) needR false, upM, ?_⟩,
    ⟨rq 2, a5, [], 5,
      okL (admitted ({ upM with tok := { upM.tok with dies := [(1, ⟨some 0, 1000, 100, some 99⟩), (2, ⟨some 0, 1000, 100, some 99⟩)] } }) (rq 2) 0) (rq 2) a5 needR false,
      { upM with tok := { upM.tok with dies := [(1, ⟨some 0, 1000, 100, some 99⟩), (2, ⟨some 0, 1000, 100, some 99⟩)] } },
      ?_⟩,
    ⟨rq 2, a5 + 2^30, 8, 6, up, ?_⟩,
    ⟨rq 6, a5 + 64, 1, 77, [], 5, okL (admitted (upM) (rq 6) 1) (rq 6) (a5 + 64) needW false, upM, ?_⟩,
    ⟨{ rq 4 with opData := 0x10 }, a5 + 72, 5, [], 5, okL (admitted (upM) (rq 4) 1) (rq 4) (a5 + 72) needA true, upM, ?_⟩⟩
  all_goals
    try unfold HomeReached
    try unfold Admitted
    try unfold ReqServed
    repeat' apply And.intro
  all_goals first
    | decide +kernel

theorem test_hubsCarryOutQueuedWrites :
    (∃ (hub : Nat) (h : ReqHdr) (e : Nat) (l : Nat) (mask : BitVec 64) (data : Line) (ws : List HubWrite) (s : State),
      hub ≤ 1 ∧ s.hubQueue hub = HubWrite.store h e l mask data [] :: ws ∧ s.obeys hub = true ∧ s.tok.silent = false ∧
      s.mayAccept hub (HubWrite.store h e l mask data []) = true ∧ s.stackDown (stackOf (s.phys (l / 1024))) = false ∧
      (s.readsClosed (s.phys (l / 1024)) (l % 1024) = true ∨
      (s.lineMeta (s.phys (l / 1024)) (l % 1024)).valid = false ∨
      (s.lineMeta (s.phys (l / 1024)) (l % 1024)).poison = false)) ∧
    (∃ (hub : Nat) (h : ReqHdr) (e : Nat) (l : Nat) (off : Nat) (operand : BitVec 256) (ws : List HubWrite) (s : State),
      hub ≤ 1 ∧ s.hubQueue hub = HubWrite.atomic h e l off operand [] :: ws ∧ s.obeys hub = true ∧
      s.tok.silent = false ∧ s.mayAccept hub (HubWrite.atomic h e l off operand []) = true ∧
      s.stackDown (stackOf (s.phys (l / 1024))) = false ∧ (s.readsClosed (s.phys (l / 1024)) (l % 1024) = true ∨
      (s.lineMeta (s.phys (l / 1024)) (l % 1024)).valid = false ∨
      (s.lineMeta (s.phys (l / 1024)) (l % 1024)).poison = false)) ∧
    (∃ (hub : Nat) (w : HubWrite) (ws : List HubWrite) (s : State), hub ≤ 1 ∧ s.hubQueue hub = w :: ws ∧
      s.hubGone hub = false ∧ s.obeys hub = false) ∧
    (∃ (hub : Nat) (h : ReqHdr) (e : Nat) (l : Nat) (mask : BitVec 64) (data : Line) (err : Err) (ws : List HubWrite) (s : State),
      hub ≤ 1 ∧ s.hubQueue hub = HubWrite.store h e l mask data err :: ws ∧ (s.hubGone hub = true ∨
      s.obeys hub = true) ∧ s.tok.silent = false ∧ s.mayAccept hub (HubWrite.store h e l mask data err) = true ∧
      s.stackDown (stackOf (s.phys (l / 1024))) = true) := by
  refine ⟨⟨0, rq 6, 5, 32000 * 1024, 3, 0x1234, [],
      { upM with mem := { upM.mem with hubQueue0 := [.store (rq 6) 5 (32000 * 1024) 3 0x1234 []] } }, ?_⟩,
    ⟨0, { rq 4 with opData := 0x10 }, 5, 32000 * 1024, 8, 5, [],
      { upM with mem := { upM.mem with hubQueue0 := [.atomic { rq 4 with opData := 0x10 } 5 (32000 * 1024) 8 5 []] } },
      ?_⟩,
    ⟨0, .store (rq 6) 5 (32000 * 1024) 3 0x1234 [], [],
      { upM with tok := { upM.tok with dies := [(1, ⟨some 0, 1000, 100, some 99⟩), (2, ⟨some 0, 1000, 100, some 99⟩)] }, mem := { upM.mem with hubQueue0 := [.store (rq 6) 5 (32000 * 1024) 3 0x1234 []] } },
      ?_⟩,
    ⟨0, rq 6, 5, 32000 * 1024, 3, 0x1234, [], [],
      { upM with mem := { upM.mem with stackTab := (List.range 12).map (fun n => (n, ⟨.failed, false, 0, 0, false, false, false, false⟩)), hubQueue0 := [.store (rq 6) 5 (32000 * 1024) 3 0x1234 []] } },
      ?_⟩⟩
  all_goals
    repeat' apply And.intro
  all_goals first
    | decide +kernel

end C09

namespace C10

def a5 : Nat := 5 * 2 ^ 43
def okL (r : State) (h : ReqHdr) (addr need : Nat) (nv : Bool) : Nat := match r.accessSealed h.src h.sess addr need nv with | .ok _ l => l | _ => 0
def upD : State := { up with pool := { up.pool with exts := [(5, { up.ext 5 with domain := some 1, key := 1025 })] }, coh := { up.coh with domains := [(1, ⟨.up, 3, 0, 4, [(0, some 7), (1, some 8)]⟩)] } }
def upT (xs : List Tracker) : State := { upD with coh := { upD.coh with trackers := xs, nextTracker := 5 }, mem := { upD.mem with cells := [(32000 * 65536, 7)], lines := [(32000 * 1024, ⟨true, false, dirOwned 1⟩)] } }
def tkk (k : HomeReq) (st : TrkState) : Tracker := { newTracker k (rq 2) a5 5 1 0 0 0 0 [] with id := 4, st := st }
def sn (a w : Bool) (m host tag : Nat) : Snoop := ⟨m, host, tag, false, a, w, some 99⟩
def ha (tag : Nat) : ReqHdr := { rq 1 with src := 8, tag := tag, jidx := 60 }

theorem test_sharedLineRequestsOpenTransactions :
    (∃ (h : ReqHdr) (addr : Nat) (e : Nat) (line : Nat) (d : Nat) (_err : Err) (s : State), HomeReached s h 0 [2] 255 ∧
      addr % 64 = 0 ∧ (admitted s h 0).accessSealed h.src h.sess addr needR false = Access.ok e line ∧
      e = addrExt addr ∧ ((admitted s h 0).ext e).domain = some d ∧ ((admitted s h 0).domain d).st = DomState.up ∧
      (admitted s h 0).guarded addr = none ∧ LineFree (admitted s h 0) (addr / 64)) ∧
    (∃ (h : ReqHdr) (addr : Nat) (e : Nat) (line : Nat) (d : Nat) (s : State), HomeReached s h 0 [2] 255 ∧ addr % 64 = 0 ∧
      (admitted s h 0).accessSealed h.src h.sess addr needR true = Access.ok e line ∧ e = addrExt addr ∧
      ((admitted s h 0).ext e).domain = some d ∧ ((admitted s h 0).domain d).st = DomState.up ∧
      (((admitted s h 0).domain d).slotOf h.src).isSome = true ∧ (admitted s h 0).guarded addr = none ∧
      LineFree (admitted s h 0) (addr / 64)) ∧
    (∃ (h : ReqHdr) (addr : Nat) (e : Nat) (line : Nat) (d : Nat) (s : State), HomeReached s h 0 [2] 255 ∧ addr % 64 = 0 ∧
      (admitted s h 0).accessSealed h.src h.sess addr (needR + needW) true = Access.ok e line ∧ e = addrExt addr ∧
      ((admitted s h 0).ext e).domain = some d ∧ ((admitted s h 0).domain d).st = DomState.up ∧
      (((admitted s h 0).domain d).slotOf h.src).isSome = true ∧ (admitted s h 0).guarded addr = none ∧
      LineFree (admitted s h 0) (addr / 64)) ∧
    (∃ (h : ReqHdr) (addr : Nat) (e : Nat) (line : Nat) (d : Nat) (s : State), HomeReached s h 0 [2] 255 ∧ addr % 64 = 0 ∧
      (admitted s h 0).accessSealed h.src h.sess addr (needR + needW) true = Access.ok e line ∧ e = addrExt addr ∧
      ((admitted s h 0).ext e).domain = some d ∧ ((admitted s h 0).domain d).st = DomState.up ∧
      (((admitted s h 0).domain d).slotOf h.src).isSome = true ∧ (admitted s h 0).guarded addr = none ∧
      (admitted s h 0).lineBusy (addr / 64) = true ∧ (admitted s h 0).starveEntry (addr / 64) = none ∧
      retryOf h < (admitted s h 0).cfgAt fStarveRetries) ∧
    (∃ (h : ReqHdr) (addr : Nat) (e : Nat) (line : Nat) (s : State), HomeReached s h 0 [2] 255 ∧ addr % 64 = 0 ∧
      (admitted s h 0).accessSealed h.src h.sess addr (needR + needW) true = Access.ok e line ∧ e = addrExt addr ∧
      ((admitted s h 0).ext e).domain = none) ∧
    (∃ (h : ReqHdr) (addr : Nat) (mask : BitVec 64) (_data : Line) (_err : Err) (e : Nat) (line : Nat) (d : Nat) (s : State),
      HomeReached s h 1 [6] 255 ∧ addr % 64 = 0 ∧ mask ≠ 0 ∧
      (admitted s h 1).accessSealed h.src h.sess addr needW false = Access.ok e line ∧ e = addrExt addr ∧
      ((admitted s h 1).ext e).domain = some d ∧ ((admitted s h 1).domain d).st = DomState.up ∧
      (admitted s h 1).guarded addr = none ∧ LineFree (admitted s h 1) (addr / 64)) ∧
    (∃ (h : ReqHdr) (addr : Nat) (operand : BitVec 256) (_err : Err) (e : Nat) (line : Nat) (d : Nat) (s : State),
      HomeReached s h 1 [4] 8191 ∧ atomicBad h addr 0 operand = false ∧
      (admitted s h 1).accessSealed h.src h.sess addr needA true = Access.ok e line ∧ e = addrExt addr ∧
      ((admitted s h 1).ext e).domain = some d ∧ ((admitted s h 1).domain d).st = DomState.up ∧
      (admitted s h 1).guarded addr = none ∧ LineFree (admitted s h 1) (addr / 64)) ∧
    (∃ (h : ReqHdr) (addr : Nat) (_data : Line) (e : Nat) (d : Nat) (s : State), AnswerReached s h [6] ∧ addr % 64 = 0 ∧
      (arrived s h).recorded h = none ∧ AnswerPasses (arrived s h) h addr e d ∧
      (arrived s h).awaiting (addr / 64) h.src = none ∧ (arrived s h).lineBusy (addr / 64) = false ∧
      (arrived s h).reserveUsed 2 < 256) ∧
    (∃ (h : ReqHdr) (addr : Nat) (e : Nat) (d : Nat) (s : State), AnswerReached s h [2] ∧ addr % 64 = 0 ∧
      AnswerPasses (arrived s h) h addr e d ∧ (arrived s h).lineBusy (addr / 64) = false ∧
      (arrived s h).reserveUsed 2 < 256) := by
  refine ⟨⟨rq 2, a5, 5, okL (admitted (upD) (rq 2) 0) (rq 2) a5 needR false, 1, [], upD, ?_⟩,
    ⟨rq 2, a5, 5, okL (admitted (upD) (rq 2) 0) (rq 2) a5 needR true, 1, upD, ?_⟩,
    ⟨rq 2, a5, 5, okL (admitted (upD) (rq 2) 0) (rq 2) a5 needR true, 1, upD, ?_⟩,
    ⟨rq 2, a5, 5, okL (admitted (upT [tkk .rdOwn .read]) (rq 2) 0) (rq 2) a5 needR true, 1, upT [tkk .rdOwn .read], ?_⟩,
    ⟨rq 2, a5, 5, okL (admitted (up) (rq 2) 0) (rq 2) a5 needR true, up, ?_⟩,
    ⟨rq 6, a5, 3, 5, [], 5, okL (admitted (upD) (rq 6) 1) (rq 6) a5 needW false, 1, upD, ?_⟩,
    ⟨rq 4, a5 + 16, 5, [], 5, okL (admitted (upD) (rq 4) 1) (rq 4) (a5 + 16) needA true, 1, upD, ?_⟩,
    ⟨rq 6, a5, 77, 5, 1, upD, ?_⟩,
    ⟨rq 2, a5, 5, 1, upD, ?_⟩⟩
  all_goals
    try unfold HomeReached
    try unfold AnswerReached
    try unfold AnswerPasses
    try unfold AnswerServed
    try unfold LineFree
    try unfold Admitted
    try unfold ReqServed
    repeat' apply And.intro
  all_goals first
    | decide +kernel

theorem test_transactionsSnoopAnswerAndEnd :
    (∃ (id : Nat) (x : Tracker) (s : State), s.tracker id = some x ∧ x.st = TrkState.read ∧ s.attended = true ∧
      s.obeys (s.hubOfLine (s.lineAt (x.line * 64))) = true ∧
      s.stackDown (stackOf (s.phys (s.lineAt (x.line * 64) / 1024))) = false ∧
      s.readsClosed (s.phys (s.lineAt (x.line * 64) / 1024)) (s.lineAt (x.line * 64) % 1024) = true ∧
      x.kind = HomeReq.rdOwn ∧ s.reqSlot x ≤ 64) ∧
    (∃ (id : Nat) (x : Tracker) (m : Nat) (host : Nat) (s : State), s.tracker id = some x ∧ x.st = TrkState.read ∧
      s.attended = true ∧ s.obeys (s.hubOfLine (s.lineAt (x.line * 64))) = true ∧
      s.stackDown (stackOf (s.phys (s.lineAt (x.line * 64) / 1024))) = false ∧
      s.readsClosed (s.phys (s.lineAt (x.line * 64) / 1024)) (s.lineAt (x.line * 64) % 1024) = false ∧
      s.lineMeta (s.phys (s.lineAt (x.line * 64) / 1024)) (s.lineAt (x.line * 64) % 1024) = { valid := true, poison := false, dir := dirOwned m } ∧
      m < 64 ∧ x.kind = HomeReq.wrNc ∧
      List.filter (fun (y : Nat × Nat) => decide (y.fst = m)) (s.domain x.domain).members = [(m, host)]) ∧
    (∃ (h : ReqHdr) (s : State), AnswerServed s h ∧ (answerIn s h).snooped h = none) ∧
    (∃ (h : ReqHdr) (x : Tracker) (s : State), AnswerServed s h ∧ (answerIn s h).snooped h = some x ∧
      formOk h [1] 3 = true ∧
      ((x.answer h (h.opData.getLsbD 1)).snoops.any fun (n : Snoop) => !n.answered || n.wbPending) = true) ∧
    (∃ (h : ReqHdr) (x : Tracker) (addr : Nat) (data : Line) (s : State), AnswerServed s h ∧
      (answerIn s h).snooped h = some x ∧ formOk h [6] 1 = true ∧ addr / 64 = x.line ∧ addr % 64 = 0 ∧ addr < 2 ^ 57 ∧
      (({ x.answer h false with cur := some data, fromMember := true } : Tracker).snoops.any fun (n : Snoop) => !n.answered || n.wbPending) = true) ∧
    (∃ (h : ReqHdr) (x : Tracker) (addr : Nat) (_data : Line) (s : State), AnswerServed s h ∧
      (answerIn s h).snooped h = some x ∧ formOk h [6] 1 = true ∧ addr / 64 = x.line ∧ addr % 64 = 0 ∧ addr < 2 ^ 57 ∧
      x.st = TrkState.snoop ∧ x.kind = HomeReq.rdOwn ∧
      ((x.answer h false).snoops.all fun (n : Snoop) => n.answered && !n.wbPending) = true) ∧
    (∃ (h : ReqHdr) (x : Tracker) (s : State), AnswerServed s h ∧
      List.find? (fun (y : Tracker) => decide (y.st = TrkState.waitAck ∧ y.hdr.src = h.src ∧
      y.hdr.tag = h.tag)) (answerIn s h).coh.trackers = some x ∧ formOk h [1] 0 = true) ∧
    (∃ (id : Nat) (x : Tracker) (e : Nat) (s : State), s.tracker id = some x ∧ x.st = TrkState.waitAck ∧
      x.ackBoundAt = some e ∧ e + s.cfgAt fResponse ≤ s.epoch ∧ (s.domain x.domain).st = DomState.up) := by
  refine ⟨⟨4, tkk .rdOwn .read, { upT [tkk .rdOwn .read] with mem := { up.mem with closed := [(0, allPages)] } }, ?_⟩,
    ⟨4, tkk .wrNc .read, 1, 8, upT [tkk .wrNc .read], ?_⟩,
    ⟨ha 99, upD, ?_⟩,
    ⟨{ ha 99 with opData := 1 }, { tkk .rdOwn .snoop with snoops := [sn false false 1 8 99, sn false false 2 7 100] },
      upT [{ tkk .rdOwn .snoop with snoops := [sn false false 1 8 99, sn false false 2 7 100] }], ?_⟩,
    ⟨{ ha 99 with msgLen := 6 }, { tkk .rdOwn .snoop with snoops := [sn false false 1 8 99, sn false false 2 7 100] }, a5,
      66, upT [{ tkk .rdOwn .snoop with snoops := [sn false false 1 8 99, sn false false 2 7 100] }], ?_⟩,
    ⟨{ ha 99 with msgLen := 6 }, { tkk .rdOwn .snoop with snoops := [sn false false 1 8 99] }, a5, 66,
      upT [{ tkk .rdOwn .snoop with snoops := [sn false false 1 8 99] }], ?_⟩,
    ⟨{ ha 9 with src := 7 }, tkk .rdOwn .waitAck, upT [tkk .rdOwn .waitAck], ?_⟩,
    ⟨4, { tkk .rdOwn .waitAck with ackBoundAt := some 1 }, 1,
      { upT [{ tkk .rdOwn .waitAck with ackBoundAt := some 1 }] with clk := { up.clk with now := (1 + up.cfgAt fResponse) * 4096 } },
      ?_⟩⟩
  all_goals
    try unfold AnswerReached
    try unfold AnswerPasses
    try unfold AnswerServed
    try unfold Admitted
    try unfold ReqServed
    repeat' apply And.intro
  all_goals first
    | decide +kernel

end C10

namespace C11

def upD : State := { up with pool := { up.pool with exts := [(5, { up.ext 5 with domain := some 1, key := 1025 })] }, coh := { up.coh with domains := [(1, ⟨.up, 3, 0, 4, [(0, some 7), (1, some 8)]⟩)] } }
def dn (s : State) : State := { s with coh := { s.coh with domains := s.coh.domains.map fun e => (e.1, { e.2 with st := .down, cause := 3 }) } }
def set2 (s : State) : State := { s with cfg := { s.cfg with vals := [(fSetSize, some 2), (fMemberId, some 0x1000), (fMemberId + 1, some 0x1001)] } }

theorem test_domainsAreManagedOverTheServiceLink :
    (∃ (c : RslCmd) (tenant : Nat) (s : State), RslServed s c 320 ∧ Mastered s ∧ s.joined = [] ∧ s.rootWaits = false ∧
      tenant ≤ 1023 ∧ lowestFree 0 (List.map (fun (x : Nat × Domain) => x.fst) s.coh.domains) ≤ 2047) ∧
    (∃ (c : RslCmd) (d : Nat) (index : Nat) (host : Nat) (s : State), RslServed s c 321 ∧ Mastered s ∧ s.joined = [] ∧
      d ≤ 2047 ∧ index ≤ 63 ∧ host ≤ 4095 ∧ Tab.get none (s.domain d).slots index = none ∧
      (s.domain d).slotOf host = none ∧ (s.domain d).st ≠ DomState.free ∧ s.tenantOf host = some (s.domain d).tenant) ∧
    (∃ (c : RslCmd) (d : Nat) (index : Nat) (s : State), RslServed s c 322 ∧ Mastered s ∧ s.joined = [] ∧ d ≤ 2047 ∧
      index ≤ 63 ∧ (s.domain d).st = DomState.down) ∧
    (∃ (c : RslCmd) (ext : Nat) (d : Nat) (s : State), RslServed s c 323 ∧ Mastered s ∧ s.joined = [] ∧ ext ≤ 16383 ∧
      d ≤ 2047 ∧ (s.ext ext).st = ExtState.active ∧ (s.ext ext).shared = true ∧ (s.ext ext).sealed = false ∧
      (s.ext ext).domain = none ∧ (s.ext ext).tenant = (s.domain d).tenant ∧ (s.domain d).st = DomState.up ∧
      s.holdCount ext = 0) ∧
    (∃ (c : RslCmd) (ext : Nat) (d : Nat) (s : State), RslServed s c 324 ∧ Mastered s ∧ s.joined = [] ∧ ext ≤ 16383 ∧
      (s.ext ext).st ≠ ExtState.free ∧ (s.ext ext).domain = some d ∧ (s.domain d).st = DomState.down) ∧
    (∃ (c : RslCmd) (d : Nat) (s : State), RslServed s c 325 ∧ Mastered s ∧ s.joined = [] ∧ d ≤ 2047 ∧
      (s.domain d).st = DomState.up) ∧
    (∃ (c : RslCmd) (d : Nat) (s : State), RslServed s c 326 ∧ Mastered s ∧ s.joined = [] ∧ s.rootWaits = false ∧
      d ≤ 2047 ∧ (s.domain d).st = DomState.down) ∧
    (∃ (c : RslCmd) (d : Nat) (s : State), RslServed s c 327 ∧ Mastered s ∧ s.joined = [] ∧ s.rootWaits = false ∧
      d ≤ 2047 ∧ (s.domain d).st = DomState.down ∧ (s.domain d).members = [] ∧ s.boundExts d = []) ∧
    (∃ (c : RslCmd) (d : Nat) (s : State), RslServed s c 328 ∧ d ≤ 2047) ∧
    (∃ (h : ReqHdr) (gen : Nat) (i : Nat) (d : Nat) (_cause : Nat) (s : State), SetReqServed s h gen i ∧
      s.isMaster = true ∧ (s.domain d).st = DomState.up) := by
  refine ⟨⟨rc, 3, up, ?_⟩,
    ⟨rc, 1, 63, 9, { upD with pool := { upD.pool with leases := upD.pool.leases ++ [(9, ⟨true, .none, 3, 0⟩)] } }, ?_⟩,
    ⟨rc, 1, 0, dn upD, ?_⟩,
    ⟨rc, 5, 1, { upD with pool := up.pool }, ?_⟩,
    ⟨rc, 5, 1, dn upD, ?_⟩,
    ⟨rc, 1, upD, ?_⟩,
    ⟨rc, 1, dn upD, ?_⟩,
    ⟨rc, 1, { dn upD with pool := up.pool, coh := { up.coh with domains := [(1, ⟨.down, 3, 1, 4, []⟩)] } }, ?_⟩,
    ⟨rc, 1, upD, ?_⟩,
    ⟨{ rq 1 with src := 0x1001 }, 1, 1, 1, 3, set2 upD, ?_⟩⟩
  all_goals
    try unfold SetReqServed
    try unfold Mastered
    try unfold ReqServed
    try unfold RslServed
    repeat' apply And.intro
  all_goals first
    | decide +kernel

end C11

namespace C12

def a5 : Nat := 5 * 2 ^ 43
def ra : RingArgs := ⟨a5, 0, 4, 0, 0, 64, 0⟩
def okL (r : State) (host addr need : Nat) : Nat := match r.access host addr need with | .ok _ l => l | _ => 0
def vf (n : Nat) : Via := .fabric (rq n)
def rg : Ring := { Ring.empty with st := .armed, base := a5 + 4096 * 16, owner := 7, tenant := 3, log2 := 4, maxEngines := 2 }
def ds (st : DescState) : Desc := ⟨2, 6, 1, 0, 0, 0, 64, a5, a5 + 4096, 0, 5, false, st, [], [], none, 0, none, 0, 0,
    [], 0, [], false⟩
def pgs : List PageEnt := [⟨32000, a5 / 64, 0, 1, false⟩, ⟨32000, a5 / 64 + 64, 0, 1, true⟩]
def upR (x : Ring) (dl : List Desc) : State := { up with coach := { up.coach with rings := [(2, x)], descs := dl } }
def frv (n : Nat) : FaultRec := { FaultRec.empty with valid := true, tenant := 3, gen := 4, kind := 2, stage := 1, page := 9, waiters := n, idleSince := some 10 }

theorem test_ringsAreArmedStoppedAndQueried :
    (∃ (v : Via) (a : RingArgs) (s : State) (line : Nat) (head : Nat), Reaches v 83 [5] 0 s ∧ ringArgsBad a = false ∧
      (reached v 83 s).viaHost v ≤ 4095 ∧ (reached v 83 s).decommissioned = false ∧
      (reached v 83 s).access ((reached v 83 s).viaHost v) a.base (needR + needW) = Access.ok (addrExt a.base) line ∧
      ((reached v 83 s).ext (addrExt a.base)).st = ExtState.active ∧
      ((reached v 83 s).ext (addrExt a.base)).sealed = false ∧ ((reached v 83 s).ext (addrExt a.base)).domain = none ∧
      (a.s1Enable = 0 ∨ a.s1Root % 4096 = 0 ∧
      accessCode ((reached v 83 s).access ((reached v 83 s).viaHost v) a.s1Root needR) = none) ∧
      (reached v 83 s).stackDown (stackOf ((reached v 83 s).pline ((reached v 83 s).lineAt a.base) / 1024)) = false ∧
      ((reached v 83 s).lineMeta ((reached v 83 s).pline ((reached v 83 s).lineAt a.base) / 1024) ((reached v 83 s).pline ((reached v 83 s).lineAt a.base) % 1024)).poison = false ∧
      (reached v 83 s).lineReads ((reached v 83 s).pline ((reached v 83 s).lineAt a.base) / 1024) ((reached v 83 s).pline ((reached v 83 s).lineAt a.base) % 1024) = BitVec.ofNat 512 head ∧
      head < two32 ∧ lowestFree 0 (List.map (fun (x : Nat × Ring) => x.fst) (reached v 83 s).coach.rings) ≤ 4095) ∧
    (∃ (v : Via) (ring : Nat) (mode : Nat) (s : State), Reaches v 84 [1] 8191 s ∧ ring ≤ 4095 ∧ mode ≤ 1 ∧
      (reached v 84 s).decommissioned = false ∧ (((reached v 84 s).ring ring).st = RingState.armed ∨
      ((reached v 84 s).ring ring).st = RingState.paused) ∧ (viaOperator v = true ∨
      ((reached v 84 s).ring ring).owner = (reached v 84 s).viaHost v) ∧ ((reached v 84 s).ring ring).launch = none ∧
      (reached v 84 s).coach.invals = [] ∧ (∃ (d : Desc), d ∈ (reached v 84 s).coach.descs ∧ d.ring = ring ∧
      (d.st = DescState.running ∨ mode = 0) ∧ ∀ (y : Desc), y ∈ (reached v 84 s).coach.descs → y.ring = ring →
      y.idx = d.idx → y = d)) ∧
    (∃ (v : Via) (ring : Nat) (mode : Nat) (s : State), Reaches v 84 [1] 8191 s ∧ ring ≤ 4095 ∧ mode ≤ 1 ∧
      (reached v 84 s).decommissioned = false ∧ (((reached v 84 s).ring ring).st = RingState.armed ∨
      ((reached v 84 s).ring ring).st = RingState.paused) ∧ (viaOperator v = true ∨
      ((reached v 84 s).ring ring).owner = (reached v 84 s).viaHost v) ∧ ((reached v 84 s).ring ring).launch = none ∧
      (reached v 84 s).coach.invals = [] ∧ (reached v 84 s).descsOf ring = [] ∧ (∀ (q : Nat),
      ((reached v 84 s).ring q).st ≠ RingState.stopping)) ∧
    (∃ (c : RslCmd) (ring : Nat) (s : State), RslServed s c 337 ∧ ring ≤ 4095) := by
  refine ⟨⟨vf 5, ra, { up with mem := { up.mem with closed := [(0, allPages)] } },
      okL (reached (vf 5) 0x53 ({ up with mem := { up.mem with closed := [(0, allPages)] } })) 7 a5 (needR + needW),
      0, ?_⟩,
    ⟨vf 1, 2, 1, upR rg [{ ds .running with pages := pgs, engine := some 3 }], ?_⟩,
    ⟨vf 1, 2, 1, upR rg [], ?_⟩,
    ⟨rc, 2, upR rg [], ?_⟩⟩
  all_goals
    try unfold Reaches
    try unfold Admitted
    try unfold ReqServed
    try unfold RslServed
    repeat' apply And.intro
  all_goals first
    | decide +kernel
    | exact rings _ (by decide +kernel)

theorem test_descriptorsAreWalkedAndDispatched :
    (∃ (q : Nat) (i : Nat) (_err : Err) (d : Desc) (room : Nat) (room' : Nat) (s : State), s.desc q i = some d ∧
      d.st = DescState.walking ∧ s.attended = true ∧ s.hubsObey = true ∧ d.op = opCopy ∧ d.fabric = false ∧
      (s.ring q).s1 = false ∧ 0 < d.len ∧ s.stage2 (s.ring q).owner d.src needR = Xlate.ok d.src room 0 ∧
      s.stage2 (s.ring q).owner d.dst needW = Xlate.ok d.dst room' 0 ∧ d.len ≤ room ∧ d.len ≤ room' ∧
      runsMeet { ppn := s.lineAt d.src / 1024, paLine := d.src / 64, tvaLine := 0, lines := (d.len + 63) / 64, dst := false } { ppn := s.lineAt d.dst / 1024, paLine := d.dst / 64, tvaLine := 0, lines := (d.len + 63) / 64, dst := true } = false ∧
      s.pantryDescs + 32 ≤ descPartition) ∧
    (∃ (q : Nat) (i : Nat) (_err : Err) (d : Desc) (k : Nat) (st : Nat) (p : Nat) (a : Nat) (n : Nat) (f : Nat) (s : State),
      s.desc q i = some d ∧ d.st = DescState.walking ∧ s.attended = true ∧ s.hubsObey = true ∧ d.op = opCopy ∧
      (s.ring q).s1 = false ∧ 0 < d.len ∧ (s.ring q).st = RingState.armed ∧ (s.ring q).onFault = false ∧
      s.pantryDescs ≤ descPartition ∧ s.stage2 (s.ring q).owner d.src needR = Xlate.fault k st p a n ∧
      s.faultSlot (s.ring q).tenant st (if st = 0 then (s.ring q).s1Root else 0) p = some (f, false)) ∧
    (∃ (q : Nat) (i : Nat) (_err : Err) (d : Desc) (c : Nat) (s : State), s.desc q i = some d ∧ d.st = DescState.walking ∧
      s.attended = true ∧ s.hubsObey = true ∧ d.op = opCopy ∧ (s.ring q).s1 = false ∧ 0 < d.len ∧
      s.stage2 (s.ring q).owner d.src needR = Xlate.fail c) ∧
    (∃ (e : Nat) (d : Desc) (s : State), e ≤ 63 ∧ (Tab.get Engine.empty s.coach.engines e).job = none ∧
      s.attended = true ∧ s.pickDesc (Tab.get Engine.empty s.coach.engines e).lastRing = some d ∧ d.fabric = false) := by
  refine ⟨⟨2, 6, [], ds .walking, 65536, 61440, upR rg [ds .walking], ?_⟩,
    ⟨2, 6, [], { ds .walking with src := a5 + 2 ^ 30 }, 3, 1, bitsOf (a5 + 2 ^ 30) 56 12, a5 + 2 ^ 30, 1, 48,
      upR rg [{ ds .walking with src := a5 + 2 ^ 30 }], ?_⟩,
    ⟨2, 6, [], ds .walking, cRights,
      { upR rg [ds .walking] with pool := { up.pool with exts := [(5, { up.ext 5 with sealed := true })] } }, ?_⟩,
    ⟨63, { ds .queued with pages := pgs }, upR rg [{ ds .queued with pages := pgs }], ?_⟩⟩
  all_goals
    repeat' apply And.intro
  all_goals first
    | decide +kernel

theorem test_descriptorsCompleteAndFaultsAreResolved :
    (∃ (q : Nat) (i : Nat) (d : Desc) (a : Nat) (k : Nat) (b : Nat) (k' : Nat) (s : State), s.desc q i = some d ∧
      d.st = DescState.running ∧ d.op = opCopy ∧ s.attended = true ∧ s.hubsObey = true ∧ d.fabric = false ∧
      (s.ring q).st = RingState.armed ∧ s.coach.invals = [] ∧ (∀ (j : Nat), (s.ring j).st ≠ RingState.stopping) ∧
      d.fault = none ∧ d.endCode = cOk ∧ d.lines = [] ∧ List.drop d.pos d.pairs = [(some (a, k), b, k')] ∧
      s.channelBusy k = false ∧ s.channelBusy k' = false ∧ s.guardedResult (a * 64) = none ∧
      s.guardedResult (b * 64) = none ∧ (s.ext (addrExt (a * 64))).domain = none ∧
      (s.ext (addrExt (b * 64))).domain = none ∧ s.openFull (s.pline k' / 1024) = false ∧
      s.stackDown (stackOf (s.pline k / 1024)) = false ∧ s.stackDown (stackOf (s.pline k' / 1024)) = false ∧
      (s.lineMeta (s.pline k / 1024) (s.pline k % 1024)).poison = false ∧
      s.pline k' ≠ s.pline (s.lineAt ((s.ring q).cplAddr d.idx)) ∧
      Tab.get none s.mem.moving (s.pline k' / 1024) = none ∧
      Tab.get none s.mem.moving (s.pline (s.lineAt ((s.ring q).cplAddr d.idx)) / 1024) = none) ∧
    (∃ (h : ReqHdr) (d : Desc) (w : OpenWr) (s : State), AnswerServed s h ∧ 32768 ≤ h.tag ∧ h.tag < 49152 ∧
      ((answerIn s h).journalOut h.jidx).engineDesc ((h.tag - 32768) / 256) = some d ∧
      List.find? (fun (y : OpenWr) => decide (y.tag = h.tag)) d.openWr = some w ∧ d.dstFid = h.src ∧
      ((answerIn s h).journalOut h.jidx).gone d.dstFid = false ∧ d.len ≤ d.pos * 64 ∧ h.opData.toNat % 256 = cOk ∧
      d.engine.isSome = true) ∧
    (∃ (h : ReqHdr) (s : State), AnswerServed s h ∧ 32768 ≤ h.tag ∧ h.tag < 49152 ∧
      ((answerIn s h).journalOut h.jidx).engineDesc ((h.tag - 32768) / 256) = none) ∧
    (∃ (h : ReqHdr) (s : State), AnswerServed s h ∧ (h.tag < 32768 ∨ 49152 ≤ h.tag)) ∧
    (∃ (v : Via) (fid : Nat) (gen : Nat) (s : State), Reaches v 85 [2] 0 s ∧ fid ≤ 16383 ∧ gen ≤ 65535 ∧
      (reached v 85 s).decommissioned = false ∧ (viaOperator v = true ∨
      (reached v 85 s).tenantOf ((reached v 85 s).viaHost v) = some (fid / 16)) ∧
      ((reached v 85 s).frec fid).valid = true ∧ ((reached v 85 s).frec fid).gen = gen ∧
      (reached v 85 s).coach.invals = [] ∧ (∀ (q : Nat), ((reached v 85 s).ring q).st ≠ RingState.stopping)) ∧
    (∃ (v : Via) (fid : Nat) (gen : Nat) (action : Nat) (s : State), Reaches v 85 [2] 0 s ∧ fid ≤ 16383 ∧ gen ≤ 65535 ∧
      action ≤ 1 ∧ (reached v 85 s).decommissioned = false ∧ (viaOperator v = true ∨
      (reached v 85 s).tenantOf ((reached v 85 s).viaHost v) = some (fid / 16)) ∧
      (((reached v 85 s).frec fid).valid = false ∨ ((reached v 85 s).frec fid).gen ≠ gen)) ∧
    (∃ (fid : Nat) (e : Nat) (s : State), (s.frec fid).valid = true ∧ (s.frec fid).waiters = 0 ∧
      (s.frec fid).idleSince = some e ∧ e + s.cfgAt fFaultHold ≤ s.epoch) ∧
    (∃ (c : RslCmd) (fid : Nat) (s : State), RslServed s c 338 ∧ fid ≤ 16383) ∧
    (∃ (c : RslCmd) (tenant : Nat) (scope : Nat) (src : Nat) (len : Nat) (_root : Nat) (s : State), RslServed s c 336 ∧
      tenant ≤ 1023 ∧ invalArgsOk scope src len = true ∧ s.decommissioned = false ∧
      s.invalRights tenant scope src len = true ∧ s.coach.descs = [] ∧ s.coach.invals = [] ∧ (∀ (q : Nat),
      (s.ring q).st ≠ RingState.stopping)) ∧
    (∃ (c : RslCmd) (tenant : Nat) (d : Desc) (s : State), RslServed s c 336 ∧ tenant ≤ 1023 ∧ s.decommissioned = false ∧
      s.coach.descs = [d] ∧ s.coach.invals = [] ∧ d.st = DescState.running ∧ d.op = opCopy ∧
      (s.ring d.ring).tenant = tenant ∧ d.pages ≠ [] ∧ (∀ (q : Nat), (s.ring q).st ≠ RingState.stopping)) := by
  refine ⟨⟨2, 6, { ds .running with pages := pgs, engine := some 3 }, a5 / 64, 32000 * 1024, a5 / 64 + 64, 32000 * 1024 + 64,
      { upR rg [{ ds .running with pages := pgs, engine := some 3 }] with mem := { up.mem with cells := [(32000 * 65536, 7)], lines := [(32000 * 1024, ⟨true, false, 0⟩)] } },
      ?_⟩,
    ⟨{ rq 1 with tag := 0x8300, src := 8, jidx := 60 },
      { ds .running with pages := pgs, engine := some 3, dstFid := 8, flags := 2, pos := 1, openWr := [⟨0x8300, 0, 1⟩, ⟨0x8301, 1, 1⟩] },
      ⟨0x8300, 0, 1⟩,
      { upR rg [{ ds .running with pages := pgs, engine := some 3, dstFid := 8, flags := 2, pos := 1, openWr := [⟨0x8300, 0, 1⟩, ⟨0x8301, 1, 1⟩] }] with coach := { (upR rg [{ ds .running with pages := pgs, engine := some 3, dstFid := 8, flags := 2, pos := 1, openWr := [⟨0x8300, 0, 1⟩, ⟨0x8301, 1, 1⟩] }]).coach with engines := [(3, ⟨2, some (2, 6)⟩)] } },
      ?_⟩,
    ⟨{ rq 1 with tag := 0x8300, src := 8, jidx := 60 }, up, ?_⟩,
    ⟨{ rq 1 with tag := 0x7fff, src := 8, jidx := 60 }, up, ?_⟩,
    ⟨vf 2, 48, 4,
      { upR rg [{ ds .paused with fault := some 48 }] with coach := { (upR { rg with st := .paused, pauseFault := 48 } [{ ds .paused with fault := some 48 }]).coach with frecs := [(48, frv 1)] } },
      ?_⟩,
    ⟨vf 2, 48, 5, 1, { up with coach := { up.coach with frecs := [(48, frv 0)] } }, ?_⟩,
    ⟨48, 10,
      { up with coach := { up.coach with frecs := [(48, frv 0)] }, clk := { up.clk with now := (10 + up.cfgAt fFaultHold) * 4096 } },
      ?_⟩,
    ⟨rc, 48, { up with coach := { up.coach with frecs := [(48, frv 0)] } }, ?_⟩,
    ⟨rc, 3, 2, 0, 0, 0, up, ?_⟩,
    ⟨rc, 3, { ds .running with pages := pgs, engine := some 3 },
      upR rg [{ ds .running with pages := pgs, engine := some 3 }], ?_⟩⟩
  all_goals
    try unfold AnswerReached
    try unfold AnswerPasses
    try unfold AnswerServed
    try unfold Reaches
    try unfold Admitted
    try unfold ReqServed
    try unfold RslServed
    repeat' apply And.intro
  all_goals first
    | decide +kernel
    | exact rings _ (by decide +kernel)

end C12

namespace C13

def a5 : Nat := 5 * 2 ^ 43
def vf (n : Nat) : Via := .fabric (rq n)
def ra : RedArgs := ⟨a5, a5 + 65536, 0, 256, 0, 5, 0xA, 0xA, 0xA, 0, 0, 0, 0, 2, 0⟩
def rb : Buf := { redRecord ra false 7 3 with storeBlocks := 4, storeBytes := 256 }
def upB (x : Buf) (st : Stock) : State := { up with stock := { st with bufs := [(2, x)] } }
def sk (x : Buf) : State := upB x up.stock
def ln : Line := BitVec.ofNat 512 12345
def jb : RedJob := ⟨{ rq 6 with jidx := 44 }, 2, 1, [(1, ln, [])], false, false⟩
def skj (x : Buf) (js : List RedJob) (bl : Tab Blk) : State := upB x { up.stock with jobs := js, blks := bl }

theorem test_reductionBuffersAreOpenedResetAndClosed :
    (∃ (v : Via) (a : RedArgs) (s : State), Reaches v 98 [5] 0 s ∧
      redArgsBad a (redRecord a ((reached v 98 s).redInMemory a) ((reached v 98 s).viaHost v) (((reached v 98 s).tenantOf ((reached v 98 s).viaHost v)).getD 0)) = false ∧
      (reached v 98 s).viaHost v ≤ 4095 ∧ redFormatsBad a = false ∧ (reached v 98 s).decommissioned = false ∧
      (reached v 98 s).mem.level ≠ 3 ∧
      (reached v 98 s).rangeCode ((reached v 98 s).viaHost v) (redRecord a ((reached v 98 s).redInMemory a) ((reached v 98 s).viaHost v) (((reached v 98 s).tenantOf ((reached v 98 s).viaHost v)).getD 0)).winBase a.winLen needA = none ∧
      (reached v 98 s).rangeCode ((reached v 98 s).viaHost v) (redRecord a ((reached v 98 s).redInMemory a) ((reached v 98 s).viaHost v) (((reached v 98 s).tenantOf ((reached v 98 s).viaHost v)).getD 0)).resBase (resLen (redRecord a ((reached v 98 s).redInMemory a) ((reached v 98 s).viaHost v) (((reached v 98 s).tenantOf ((reached v 98 s).viaHost v)).getD 0))) needW = none ∧
      ((redRecord a ((reached v 98 s).redInMemory a) ((reached v 98 s).viaHost v) (((reached v 98 s).tenantOf ((reached v 98 s).viaHost v)).getD 0)).memory = true →
      (reached v 98 s).rangeCode ((reached v 98 s).viaHost v) (redRecord a ((reached v 98 s).redInMemory a) ((reached v 98 s).viaHost v) (((reached v 98 s).tenantOf ((reached v 98 s).viaHost v)).getD 0)).accBase (accLen (redRecord a ((reached v 98 s).redInMemory a) ((reached v 98 s).viaHost v) (((reached v 98 s).tenantOf ((reached v 98 s).viaHost v)).getD 0))) needW = none) ∧
      (∀ (e : Nat),
      e ∈ (redRecord a ((reached v 98 s).redInMemory a) ((reached v 98 s).viaHost v) (((reached v 98 s).tenantOf ((reached v 98 s).viaHost v)).getD 0)).regionExts →
      ((reached v 98 s).ext e).sealed = false ∧ ((reached v 98 s).ext e).domain = none) ∧ (∀ (z : Nat × Buf),
      z ∈ (reached v 98 s).stock.bufs → z.snd.st ≠ BufState.free →
      redClash (redRecord a ((reached v 98 s).redInMemory a) ((reached v 98 s).viaHost v) (((reached v 98 s).tenantOf ((reached v 98 s).viaHost v)).getD 0)) z.snd = false) ∧
      redSelfClash (redRecord a ((reached v 98 s).redInMemory a) ((reached v 98 s).viaHost v) (((reached v 98 s).tenantOf ((reached v 98 s).viaHost v)).getD 0)) = false ∧
      lowestFree 0 (List.map (fun (x : Nat × Buf) => x.fst) (reached v 98 s).stock.bufs) ≤ 8191 ∧
      (reached v 98 s).spillUsed + ((reached v 98 s).settleHome (redRecord a ((reached v 98 s).redInMemory a) ((reached v 98 s).viaHost v) (((reached v 98 s).tenantOf ((reached v 98 s).viaHost v)).getD 0))).stageSlots * 80 + ((reached v 98 s).settleHome (redRecord a ((reached v 98 s).redInMemory a) ((reached v 98 s).viaHost v) (((reached v 98 s).tenantOf ((reached v 98 s).viaHost v)).getD 0))).pantryBytes ≤ spillTotal) ∧
    (∃ (v : Via) (buf : Nat) (seed : Nat) (s : State), Reaches v 99 [2] 0 s ∧ buf ≤ 8191 ∧ seed < two64 ∧
      (((reached v 99 s).buf buf).st = BufState.done ∨ ((reached v 99 s).buf buf).st = BufState.lost) ∧
      (viaOperator v = true ∨ ((reached v 99 s).buf buf).owner = (reached v 99 s).viaHost v) ∧
      ((reached v 99 s).buf buf).closing = [] ∧ (reached v 99 s).mem.level ≠ 3 ∧ (∀ (j : RedJob),
      j ∈ (reached v 99 s).stock.jobs → j.buf ≠ buf)) ∧
    (∃ (v : Via) (buf : Nat) (seed : Nat) (s : State), Reaches v 99 [2] 0 s ∧ buf ≤ 8191 ∧ seed < two64 ∧
      ((reached v 99 s).buf buf).st = BufState.opened ∧ (viaOperator v = true ∨
      ((reached v 99 s).buf buf).owner = (reached v 99 s).viaHost v)) ∧
    (∃ (v : Via) (buf : Nat) (s : State), Reaches v 100 [1] 8191 s ∧ buf ≤ 8191 ∧
      ((reached v 100 s).buf buf).st ≠ BufState.free ∧ (viaOperator v = true ∨
      ((reached v 100 s).buf buf).owner = (reached v 100 s).viaHost v) ∧ ((reached v 100 s).buf buf).closing = [] ∧
      (∀ (j : RedJob), j ∈ (reached v 100 s).stock.jobs → j.buf ≠ buf)) ∧
    (∃ (v : Via) (buf : Nat) (j : RedJob) (s : State), Reaches v 100 [1] 8191 s ∧ buf ≤ 8191 ∧
      ((reached v 100 s).buf buf).st ≠ BufState.free ∧ (viaOperator v = true ∨
      ((reached v 100 s).buf buf).owner = (reached v 100 s).viaHost v) ∧ j ∈ (reached v 100 s).stock.jobs ∧
      j.buf = buf) ∧
    (∃ (v : Via) (buf : Nat) (s : State), Reaches v 101 [1] 8191 s ∧ buf ≤ 8191 ∧
      ((reached v 101 s).buf buf).st ≠ BufState.free ∧ (viaOperator v = true ∨
      (reached v 101 s).tenantOf ((reached v 101 s).viaHost v) = some ((reached v 101 s).buf buf).tenant)) := by
  refine ⟨⟨vf 5, ra, up, ?_⟩,
    ⟨vf 2, 2, 0,
      upB { rb with st := .done, doneBlocks := 4 } { up.stock with blks := [(blkKey 2 0, ⟨.complete, 2, 0, [1]⟩), (blkKey 3 1, ⟨.filling, 2, 0, [1]⟩)] },
      ?_⟩,
    ⟨vf 2, 2, 0, sk rb, ?_⟩,
    ⟨vf 1, 2, sk rb, ?_⟩,
    ⟨vf 1, 2, jb, skj rb [jb] [], ?_⟩,
    ⟨vf 1, 2, sk rb, ?_⟩⟩
  all_goals
    try unfold Reaches
    try unfold Admitted
    try unfold ReqServed
    try unfold RslServed
    repeat' apply And.intro
  all_goals first
    | decide +kernel

theorem test_contributionsAreTakenAndCombined :
    (∃ (h : ReqHdr) (addr : Nat) (contrib : Nat) (scales : List Byte) (lines : List Line) (b : Nat) (sc : List (List Byte)) (s : State),
      ReqServed s h ∧ s.copyFull = false ∧ (arrived s h).recorded h = none ∧ ((arrived s h).police h 2).snd = false ∧
      1 ≤ lines.length ∧ lines.length ≤ 3 ∧ formOk h [4 * lines.length + 2] (BitVec.allOnes 32) = true ∧
      addr % 64 = 0 ∧ scales.length ≤ 4 ∧ addr < 2 ^ 57 ∧ (admitted s h 2).decommissioned = false ∧
      (admitted s h 2).redAccess h addr lines.length = none ∧ ((admitted s h 2).ext (addrExt addr)).domain = none ∧
      (admitted s h 2).windowOf addr (64 * lines.length) = some b ∧
      redScales ((admitted s h 2).buf b) (leBytes 4 h.opData.toNat ++ List.take 4 (scales ++
      zeros 4)) lines.length = some sc ∧
      (admitted s h 2).redCheck b contrib ((List.map (fun (i : Nat) => (addr - ((admitted s h 2).buf b).winBase) / 64 + i) (List.range lines.length)).zip lines) true = RedCheck.ok ∧
      (admitted s h 2).stageFull b contrib (List.map (fun (i : Nat) => (addr - ((admitted s h 2).buf b).winBase) / 64 + i) (List.range lines.length)) = false) ∧
    (∃ (h : ReqHdr) (addr : Nat) (_contrib : Nat) (scales : List Byte) (lines : List Line) (s : State), ReqServed s h ∧
      s.copyFull = false ∧ (arrived s h).recorded h = none ∧ ((arrived s h).police h 2).snd = false ∧
      1 ≤ lines.length ∧ lines.length ≤ 3 ∧ formOk h [4 * lines.length + 2] (BitVec.allOnes 32) = true ∧
      addr % 64 = 0 ∧ scales.length ≤ 4 ∧ addr < 2 ^ 57 ∧ (admitted s h 2).decommissioned = false ∧
      (admitted s h 2).redAccess h addr lines.length = none ∧ ((admitted s h 2).ext (addrExt addr)).domain = none ∧
      (admitted s h 2).windowOf addr (64 * lines.length) = none) ∧
    (∃ (jidx : Nat) (_err : Err) (j : RedJob) (k : Nat) (l : Line) (sc : List Byte) (s : State),
      List.find? (fun (y : RedJob) => decide (y.hdr.jidx = jidx)) s.stock.jobs = some j ∧ j.lines = [(k, l, sc)] ∧
      s.attended = true ∧ s.hubsObey = true ∧ j.bad = false ∧ ((s.blk j.buf k).st = BlkState.empty ∨
      (s.blk j.buf k).st = BlkState.filling) ∧ (s.buf j.buf).home k = Home.store ∧ (s.buf j.buf).mode = 0 ∧
      (s.buf j.buf).closing = [] ∧ (s.blk j.buf k).count + 1 ≠ (s.buf j.buf).n) ∧
    (∃ (jidx : Nat) (_err : Err) (j : RedJob) (k : Nat) (l : Line) (sc : List Byte) (rest : List (Nat × Line × List Byte)) (s : State),
      List.find? (fun (y : RedJob) => decide (y.hdr.jidx = jidx)) s.stock.jobs = some j ∧ j.lines = (k, l,
      sc) :: rest ∧ rest ≠ [] ∧ s.attended = true ∧ s.hubsObey = true ∧ s.combineWaits j.buf k = false ∧
      ((s.blk j.buf k).st = BlkState.failed ∨ (s.blk j.buf k).st = BlkState.lost)) ∧
    (∃ (jidx : Nat) (_err : Err) (j : RedJob) (k : Nat) (l : Line) (sc : List Byte) (s : State),
      List.find? (fun (y : RedJob) => decide (y.hdr.jidx = jidx)) s.stock.jobs = some j ∧ j.lines = [(k, l, sc)] ∧
      s.attended = true ∧ s.hubsObey = true ∧ s.combineWaits j.buf k = false ∧ j.bad = false ∧
      ((s.blk j.buf k).st = BlkState.empty ∨ (s.blk j.buf k).st = BlkState.filling) ∧
      (s.buf j.buf).home k = Home.store ∧ (s.buf j.buf).mode = 0 ∧ (s.buf j.buf).closing = [] ∧
      (s.blk j.buf k).count + 1 = (s.buf j.buf).n ∧ (s.buf j.buf).st = BufState.opened ∧
      (s.buf j.buf).resGone = false ∧ (s.buf j.buf).doneBlocks + 1 ≠ (s.buf j.buf).blocks) := by
  refine ⟨⟨rq 6, a5 + 64, 1, [], [ln], 2, [[]], sk rb, ?_⟩,
    ⟨rq 6, a5 + 256, 1, [], [ln], sk rb, ?_⟩,
    ⟨44, [], jb, 1, ln, [], skj rb [jb] [], ?_⟩,
    ⟨44, [], { jb with lines := [(1, ln, []), (2, ln, [])] }, 1, ln, [], [(2, ln, [])],
      skj rb [{ jb with lines := [(1, ln, []), (2, ln, [])] }] [(blkKey 2 1, ⟨.failed, 1, 0, []⟩)], ?_⟩,
    ⟨44, [], jb, 1, ln, [], skj rb [jb] [(blkKey 2 1, ⟨.filling, 1, 0, (List.replicate 16 1)⟩)], ?_⟩⟩
  all_goals
    try unfold ReqServed
    repeat' apply And.intro
  all_goals first
    | decide +kernel

end C13

namespace C14

def a5 : Nat := 5 * 2 ^ 43
def vf (n : Nat) : Via := .fabric (rq n)
def g8 : ReqHdr := { rq 2 with src := 8, jidx := 49 }
def bars (l : Tab Barrier) (s : State) : State := { s with repro := { s.repro with barriers := l } }
def rng (x : Ring) (s : State) : State := { s with coach := { s.coach with rings := [(9, x)] } }
def r9 : Ring := { Ring.empty with st := .armed, base := a5 + 4096 * 16, owner := 7, tenant := 3, log2 := 4, maxEngines := 2 }
def synced (s : State) : State := { s with twin := { s.twin with tender := .synced } }
def prd (x : Paired) (s : State) : State := { s with repro := { s.repro with paired := x } }
def e6 : Ext := { up.ext 5 with base := 33000 }
def ver (v e : Nat) (l : List Nat) : Version := ⟨v, e, l⟩
def r2 (vs : List Version) (v : Nat) : Region := { Region.empty with st := .live, tenant := 3, version := v, versions := vs, curExt := 5, lastEpoch := 40 }
def upG (x : Region) : State := { up with repro := { up.repro with regions := [(2, x)] }, pool := { up.pool with exts := [(5, { up.ext 5 with region := if x.versions = [] then none else some 2 }), (6, e6)], grants := [(6 * 4096 + 7, 7)] } }
def pubJ (x : Region) (exp : Nat) : State := { upG x with repro := { (upG x).repro with pubs := [⟨vf 5, 7, 2, exp, 6, 98⟩] }, pool := { (upG x).pool with grants := [] } }

theorem test_barriersAndLaunchesHoldTheirSenders :
    (∃ (v : Via) (bar : Nat) (count : Nat) (lead : Nat) (tenant : Nat) (s : State), Reaches v 104 [2] 0 s ∧ bar ≤ 255 ∧
      2 ≤ count ∧ count ≤ 4096 ∧ 2 ≤ lead ∧ lead ≤ 65536 ∧ (reached v 104 s).decommissioned = false ∧
      (reached v 104 s).timeless = false ∧ (reached v 104 s).tenantOf ((reached v 104 s).viaHost v) = some tenant ∧
      ((reached v 104 s).barrier bar).arrivals = []) ∧
    (∃ (h : ReqHdr) (g : ReqHdr) (bar : Nat) (lead : Nat) (tenant : Nat) (first : Nat) (s : State),
      Reaches (Via.fabric h) 104 [2] 0 s ∧ bar ≤ 255 ∧ 2 ≤ lead ∧ lead ≤ 65536 ∧
      (reached (Via.fabric h) 104 s).decommissioned = false ∧ (reached (Via.fabric h) 104 s).timeless = false ∧
      (reached (Via.fabric h) 104 s).tenantOf h.src = some tenant ∧
      (reached (Via.fabric h) 104 s).barrier bar = { count := 2, lead := lead, tenant := tenant, first := first, arrivals := [(g.src, Via.fabric g)] } ∧
      g.src ≠ h.src) ∧
    (∃ (bar : Nat) (x : Barrier) (g : ReqHdr) (s : State), s.barrier bar = x ∧ x.arrivals = [(g.src, Via.fabric g)] ∧
      x.first + 65536 ≤ s.epoch) ∧
    (∃ (v : Via) (ring : Nat) (e : Nat) (s : State), Reaches v 105 [2] 0 s ∧ ring ≤ 4095 ∧
      (reached v 105 s).decommissioned = false ∧ (((reached v 105 s).ring ring).st = RingState.armed ∨
      ((reached v 105 s).ring ring).st = RingState.paused) ∧ (viaOperator v = true ∨
      ((reached v 105 s).ring ring).owner = (reached v 105 s).viaHost v) ∧
      ((reached v 105 s).ring ring).launch = none ∧ (reached v 105 s).timeless = false ∧
      (reached v 105 s).viaEpoch v + 2 ≤ e ∧ e ≤ (reached v 105 s).viaEpoch v + 65536) ∧
    (∃ (ring : Nat) (v : Via) (s : State), (s.ring ring).st ≠ RingState.free ∧ (s.ring ring).launch = some (s.epoch, v) ∧
      s.timeless = false) ∧
    (∃ (ring : Nat) (e : Nat) (v : Via) (s : State), (s.ring ring).st ≠ RingState.free ∧ (s.ring ring).launch = some (e,
      v) ∧ (e < s.epoch ∨ e = s.epoch ∧ s.timeless = true)) := by
  refine ⟨⟨vf 2, 255, 2, 2, 3, up, ?_⟩,
    ⟨rq 2, g8, 1, 8, 3, 95, bars [(1, ⟨2, 8, 3, 95, [(8, .fabric g8)]⟩)] up, ?_⟩,
    ⟨1, ⟨2, 8, 3, 95, [(8, .fabric g8)]⟩, g8,
      { bars [(1, ⟨2, 8, 3, 95, [(8, .fabric g8)]⟩)] up with clk := { up.clk with now := 65631 * 4096 } }, ?_⟩,
    ⟨vf 2, 9, 102, rng r9 up, ?_⟩,
    ⟨9, vf 2, rng { r9 with launch := some (100, vf 2), held := true } up, ?_⟩,
    ⟨9, 99, vf 2, rng { r9 with launch := some (99, vf 2), held := true } up, ?_⟩⟩
  all_goals
    try unfold Reaches
    try unfold Admitted
    try unfold ReqServed
    try unfold RslServed
    repeat' apply And.intro
  all_goals first
    | decide +kernel

theorem test_pairedCheckIsEnteredAndLeft :
    (∃ (c : RslCmd) (s : State), RslServed s c 267 ∧ s.tok.active ≠ some dieCdB ∧ s.repro.paired = Paired.off ∧
      s.twin.tender = TenderState.synced ∧ s.boot.dieResetOf = none) ∧
    (∃ (c : RslCmd) (s : State), RslServed s c 267 ∧ s.tok.active ≠ some dieCdB ∧ s.repro.paired = Paired.off ∧
      s.twin.tender ≠ TenderState.synced) ∧
    (∃ (c : RslCmd) (s : State), RslServed s c 267 ∧ s.repro.paired = Paired.on) ∧
    (∃ (c : RslCmd) (s : State), RslServed s c 267 ∧ s.repro.paired = Paired.off) ∧
    (∃ (e : Nat) (c : RslCmd) (s : State), s.repro.paired = Paired.entryAt e [Via.rsl c] ∧ e ≤ s.epoch ∧
      s.openWork = false ∧ s.attended = true ∧ s.twin.tender = TenderState.synced) ∧
    (∃ (_unit : Nat) (s : State), s.pairedOn = true ∧ s.tok.fatal = none) ∧
    (∃ (_unit : Nat) (s : State), s.pairedOn = false) := by
  refine ⟨⟨rc, synced up, ?_⟩,
    ⟨rc, up, ?_⟩,
    ⟨rc, prd .on up, ?_⟩,
    ⟨rc, up, ?_⟩,
    ⟨100, rc, synced (prd (.entryAt 100 [.rsl rc]) up), ?_⟩,
    ⟨5, prd .on up, ?_⟩,
    ⟨5, up, ?_⟩⟩
  all_goals
    try unfold RslServed
    repeat' apply And.intro
  all_goals first
    | decide +kernel

theorem test_regionsArePublishedMappedAndDeleted :
    (∃ (v : Via) (sealed : Nat) (tenant : Nat) (s : State), Reaches v 112 [1, 5] (BitVec.allOnes 32) s ∧
      Mastered (reached v 112 s) ∧ (reached v 112 s).decommissioned = false ∧ sealed ≤ 1 ∧ (sealed = 1 →
      (reached v 112 s).boot.lc = 2) ∧ (reached v 112 s).tenantOf ((reached v 112 s).viaHost v) = some tenant ∧
      lowestFree 0 (List.map (fun (x : Nat × Region) => x.fst) (reached v 112 s).repro.regions) ≤ 4095) ∧
    (∃ (v : Via) (region : Nat) (expected : Nat) (src : Nat) (s : State), Reaches v 113 [1, 5] (BitVec.allOnes 32) s ∧
      Mastered (reached v 113 s) ∧ (reached v 113 s).decommissioned = false ∧ region ≤ 4095 ∧ src ≤ 16383 ∧
      expected < two64 ∧ ((reached v 113 s).region region).st = RegState.live ∧ (viaOperator v = true ∨
      (reached v 113 s).tenantOf ((reached v 113 s).viaHost v) = some ((reached v 113 s).region region).tenant ∧
      bitOf ((reached v 113 s).grant src ((reached v 113 s).viaHost v)) 1 = true) ∧
      ((reached v 113 s).ext src).st = ExtState.active ∧ ((reached v 113 s).ext src).shared = true ∧
      ((reached v 113 s).ext src).tenant = ((reached v 113 s).region region).tenant ∧
      ((reached v 113 s).ext src).domain = none ∧
      ((reached v 113 s).ext src).sealed = ((reached v 113 s).region region).sealed ∧
      (reached v 113 s).isVersion src = false ∧ (reached v 113 s).timeless = false ∧
      ((reached v 113 s).region region).sealed = false) ∧
    (∃ (p : PubHeld) (s : State), s.attended = true ∧ s.isMaster = true ∧ s.repro.pubs = [p] ∧ p.epoch < s.epoch ∧
      (s.region p.region).st = RegState.live ∧ (s.ext p.srcExt).st = ExtState.active ∧
      p.expected = (s.region p.region).version ∧ s.isVersion p.srcExt = false ∧ s.holdCount p.srcExt = 0 ∧
      (s.region p.region).versions.length < 8 ∧ s.grantees p.srcExt = [] ∧ s.joined = []) ∧
    (∃ (p : PubHeld) (s : State), s.attended = true ∧ s.isMaster = true ∧ s.repro.pubs = [p] ∧ p.epoch < s.epoch ∧
      (s.region p.region).st = RegState.live ∧ (s.ext p.srcExt).st = ExtState.active ∧
      p.expected ≠ (s.region p.region).version) ∧
    (∃ (v : Via) (region : Nat) (y : Version) (s : State), Reaches v 114 [1, 5] (BitVec.allOnes 32) s ∧
      Mastered (reached v 114 s) ∧ (reached v 114 s).joined = [] ∧ (reached v 114 s).decommissioned = false ∧
      region ≤ 4095 ∧ ((reached v 114 s).region region).st = RegState.live ∧
      ((reached v 114 s).region region).sealed = false ∧
      List.find? (fun (z : Version) => decide (z.version = ((reached v 114 s).region region).version)) ((reached v 114 s).region region).versions = some y ∧
      ¬(reached v 114 s).viaHost v ∈ y.readers ∧
      (reached v 114 s).tenantOf ((reached v 114 s).viaHost v) = some ((reached v 114 s).region region).tenant ∧
      (reached v 114 s).inReclaim ((reached v 114 s).viaHost v) = false ∧
      List.length (reached v 114 s).pool.grants < 65536) ∧
    (∃ (v : Via) (region : Nat) (y : Version) (s : State), Reaches v 115 [1, 5] (BitVec.allOnes 32) s ∧
      Mastered (reached v 115 s) ∧ (reached v 115 s).joined = [] ∧ (reached v 115 s).decommissioned = false ∧
      region ≤ 4095 ∧ ((reached v 115 s).region region).st = RegState.live ∧ (viaOperator v = true ∨
      (reached v 115 s).tenantOf ((reached v 115 s).viaHost v) = some ((reached v 115 s).region region).tenant) ∧
      ((reached v 115 s).region region).versions = [y] ∧ y.version = ((reached v 115 s).region region).version ∧
      y.version < two64 ∧ (reached v 115 s).viaHost v ∈ y.readers) ∧
    (∃ (v : Via) (region : Nat) (s : State), Reaches v 116 [1, 5] (BitVec.allOnes 32) s ∧ Mastered (reached v 116 s) ∧
      (reached v 116 s).decommissioned = false ∧ region ≤ 4095 ∧
      ((reached v 116 s).region region).st = RegState.live ∧ (viaOperator v = true ∨
      (reached v 116 s).tenantOf ((reached v 116 s).viaHost v) = some ((reached v 116 s).region region).tenant) ∧
      ((reached v 116 s).region region).versions = [] ∧ ((reached v 116 s).region region).deleteOwed = [] ∧
      (∀ (e : Nat × Ext), e ∈ (reached v 116 s).pool.exts → e.snd.region ≠ some region)) ∧
    (∃ (v : Via) (region : Nat) (y : Version) (s : State), Reaches v 116 [1, 5] (BitVec.allOnes 32) s ∧
      Mastered (reached v 116 s) ∧ (reached v 116 s).joined = [] ∧ (reached v 116 s).decommissioned = false ∧
      region ≤ 4095 ∧ ((reached v 116 s).region region).st = RegState.live ∧ (viaOperator v = true ∨
      (reached v 116 s).tenantOf ((reached v 116 s).viaHost v) = some ((reached v 116 s).region region).tenant) ∧
      ((reached v 116 s).region region).versions = [y] ∧ y.readers = [] ∧
      ((reached v 116 s).ext y.ext).st = ExtState.active ∧ ((reached v 116 s).ext y.ext).region = some region) ∧
    (∃ (v : Via) (region : Nat) (s : State), Reaches v 117 [1, 5] (BitVec.allOnes 32) s ∧ Mastered (reached v 117 s) ∧
      (reached v 117 s).decommissioned = false ∧ region ≤ 4095 ∧
      ((reached v 117 s).region region).st ≠ RegState.free ∧ (viaOperator v = true ∨
      (reached v 117 s).tenantOf ((reached v 117 s).viaHost v) = some ((reached v 117 s).region region).tenant)) := by
  refine ⟨⟨vf 5, 0, 3, up, ?_⟩,
    ⟨vf 5, 2, 0, 6, upG (r2 [] 0), ?_⟩,
    ⟨⟨vf 5, 7, 2, 0, 6, 98⟩, pubJ (r2 [] 0) 0, ?_⟩,
    ⟨⟨vf 5, 7, 2, 2, 6, 98⟩, pubJ (r2 [ver 3 5 []] 3) 2, ?_⟩,
    ⟨vf 5, 2, ver 3 5 [8], upG (r2 [ver 3 5 [8]] 3), ?_⟩,
    ⟨vf 5, 2, ver 3 5 [7, 8], upG (r2 [ver 3 5 [7, 8]] 3), ?_⟩,
    ⟨vf 5, 2, upG (r2 [] 0), ?_⟩,
    ⟨vf 5, 2, ver 3 5 [], upG (r2 [ver 3 5 []] 3), ?_⟩,
    ⟨vf 5, 2, upG (r2 [ver 3 5 []] 3), ?_⟩⟩
  all_goals
    try unfold Mastered
    try unfold Reaches
    try unfold Admitted
    try unfold ReqServed
    try unfold RslServed
    repeat' apply And.intro
  all_goals first
    | decide +kernel

end C14

namespace C15

def a5 : Nat := 5 * 2 ^ 43
def mm (f : Mem → Mem) (s : State) : State := { s with mem := f s.mem }
def closed0 (s : State) : State := mm (fun m => { m with closed := [(0, allPages)] }) s
def opn (s : State) : State := mm (fun m => { m with openPages := [(32000, [0, 5])], cells := [(32000 * 65536, 7)], lines := [(32000 * 1024, ⟨true, false, 0⟩), (32000 * 1024 + 5, ⟨true, true, 1⟩)] }) (closed0 s)
def dat (s : State) : State := mm (fun m => { m with cells := [(32000 * 65536, 7)], lines := [(32000 * 1024, ⟨true, false, 0⟩), (32000 * 1024 + 5, ⟨true, true, 1⟩)] }) s
def stk (st : StackState) (n : Nat) (s : State) : State := mm (fun m => { m with stackTab := [(n, { Stack.empty with st := st, ovf := 5 })] }) s
def chn (c : Channel) (n : Nat) (s : State) : State := mm (fun m => { m with channels := [(n, c), (n + 1, { Channel.empty with bucket := 4 })] }) s
def owed (n : Nat) (s : State) : State := chn { Channel.empty with needPass := true } n s
def err2 : Err := [(0, 1), (1, 1), (2, 1), (3, 1), (4, 1), (5, 1), (6, 1), (7, 1), (8, 9)]

theorem test_ladleKeepsWhatLinesRead :
    (∃ (s : State), s.epoch % s.cfgAt fCeLeak = 0) ∧
    (∃ (s : State), s.epoch % s.cfgAt fCeLeak ≠ 0) ∧
    (∃ (s : State), s.epoch % 65536 = 0) ∧
    (∃ (ppn : Nat) (s : State), Tab.get [] s.mem.openPages ppn ≠ [] ∧ (∀ (l : Nat), ¬l ∈ Tab.get [] s.mem.openPages ppn →
      (s.lineMeta ppn l).valid = false)) ∧
    (∃ (ppn : Nat) (s : State), s.pageValid ppn = false ∧ Tab.get [] s.mem.openPages ppn = [] ∧
      s.stackDown (stackOf ppn) = false) ∧
    (∃ (ppn : Nat) (line : Nat) (s : State), s.pageValid ppn = true ∧ s.overwriteDue = false ∧
      s.stackDown (stackOf ppn) = false ∧ line ≤ 1023 ∧
      (s.channelDue (stackOf ppn) = true → (s.channel (channelOf ppn line)).needPass = true)) ∧
    (∃ (ppn : Nat) (line : Nat) (err : Err) (s : State), s.pageValid ppn = true ∧ s.overwriteDue = false ∧
      s.stackDown (stackOf ppn) = false ∧ line ≤ 1023 ∧
      (s.channelDue (stackOf ppn) = true → (s.channel (channelOf ppn line)).needPass = true) ∧
      (decodeLine err).bad = true ∧
      s.extOfPage (s.logical ppn) = none ∧ isPantry (s.logical ppn) = false) ∧
    (∃ (ppn : Nat) (line : Nat) (s : State), s.pageValid ppn = true ∧ s.overwriteDue = false ∧
      s.stackDown (stackOf ppn) = false ∧ line ≤ 1023 ∧ (s.channel (channelOf ppn line)).needPass = true) ∧
    (∃ (ppn : Nat) (line : Nat) (s : State), s.pageValid ppn = true ∧ s.overwriteDue = false ∧
      s.stackDown (stackOf ppn) = false ∧ line ≤ 1023 ∧ s.channelDue (stackOf ppn) = false) ∧
    (∃ (_ppn : Nat) (_line : Nat) (_err : Err) (_ends : Bool) (s : State), s.overwriteDue = true) ∧
    (∃ (ppn : Nat) (line : Nat) (_err : Err) (_ends : Bool) (s : State), s.channelDue (stackOf ppn) = true ∧
      (s.channel (channelOf ppn line)).needPass = false) ∧
    (∃ (stack : Nat) (_row : Nat) (n : Nat) (s : State), stack ≤ 11 ∧ s.cfgAt fRdm ≤ n ∧ s.stackDown stack = false) ∧
    (∃ (ch : Nat) (s : State), ch ≤ 383 ∧ s.stackDown (ch / 32) = false) ∧
    (∃ (ch : Nat) (pin : Nat) (s : State), ch ≤ 383 ∧ s.stackDown (ch / 32) = false ∧
      (s.channel ch).repair = [pin]) := by
  refine ⟨⟨chn { Channel.empty with bucket := 1 } 0 { up with clk := { up.clk with now := 4096 * (up.cfgAt fCeLeak) * 16 } },
      ?_⟩,
    ⟨{ up with clk := { up.clk with now := 4096 * 101 } }, ?_⟩,
    ⟨stk .inUse 11 { up with clk := { up.clk with now := 4096 * 65536 } }, ?_⟩,
    ⟨32000, mm (fun m => { m with lines := [] }) (opn up), ?_⟩,
    ⟨32000, closed0 (dat up), ?_⟩,
    ⟨32000, 1023, dat up, ?_⟩,
    ⟨42000, 5, err2, dat up, ?_⟩,
    ⟨32000, 1023, owed (channelOf 32000 1023) (dat up), ?_⟩,
    ⟨32000, 0, dat up, ?_⟩,
    ⟨32000, 5, [], false, closed0 (dat up), ?_⟩,
    ⟨32000, 1023, [], true, owed (channelOf 32000 0) (dat up), ?_⟩,
    ⟨11, 5, up.cfgAt fRdm, up, ?_⟩,
    ⟨383, chn { Channel.empty with repair := [5, 6] } 383 up, ?_⟩,
    ⟨383, 5, chn { Channel.empty with repair := [5], spared := 1 } 383 up, ?_⟩⟩
  all_goals
    repeat' apply And.intro
  all_goals first
    | decide +kernel
    | exact fun _ _ => rfl

theorem test_pagesMoveAndStacksChangeState :
    (∃ (ppn : Nat) (mv : Move) (s : State), Tab.get none s.mem.moving ppn = some mv ∧ mv.copied = false ∧
      s.stackDown (stackOf ppn) = false ∧ mv.target ≠ ppn) ∧
    (∃ (n : Nat) (s : State), n ≤ 11 ∧ (s.stack n).st ≠ StackState.failed) ∧
    (∃ (n : Nat) (s : State), n ≤ 11 ∧ (s.stack n).st ≠ StackState.failed ∧ s.coh.trackers = [] ∧ (∀ (p : Nat × Port),
      p ∈ s.ports → p.snd.store = []) ∧ s.coach.descs = [] ∧ s.coach.frecs = [] ∧ s.stock.spill = [] ∧
      s.stock.staged = []) ∧
    (∃ (c : RslCmd) (n : Nat) (s : State), RslServed s c 352 ∧ n ≤ 11 ∧ (s.stack n).st = StackState.inUse) ∧
    (∃ (c : RslCmd) (n : Nat) (s : State), RslServed s c 352 ∧ n ≤ 11 ∧ (s.stack n).st ≠ StackState.inUse) ∧
    (∃ (c : RslCmd) (n : Nat) (s : State), RslServed s c 353 ∧ n ≤ 11 ∧ (s.stack n).st = StackState.out) ∧
    (∃ (c : RslCmd) (n : Nat) (s : State), RslServed s c 259 ∧ n ≤ 11 ∧ ((s.stack n).st = StackState.out ∨
      (s.stack n).st = StackState.failed) ∧ s.hubGone (hubOfStack n) = false ∧
      Tab.get [] s.boot.stackResetOwed n = []) ∧
    (∃ (n : Nat) (c : RslCmd) (s : State), Tab.get [] s.boot.stackResetOwed n = [Via.rsl c]) ∧
    (∃ (n : Nat) (c : RslCmd) (s : State), Tab.get [] s.boot.stackResetOwed n = [Via.rsl c]) := by
  refine ⟨⟨32000, ⟨50000, false, false⟩, mm (fun m => { m with moving := [(32000, some ⟨50000, false, false⟩)] }) (dat up), ?_⟩,
    ⟨0, dat up, ?_⟩,
    ⟨0, dat up, ?_⟩,
    ⟨rc, 11, up, ?_⟩,
    ⟨rc, 11, stk .failed 11 up, ?_⟩,
    ⟨rc, 0, stk .out 0 up, ?_⟩,
    ⟨rc, 0, stk .out 0 up, ?_⟩,
    ⟨stackOf 32000, rc,
      stk .failed (stackOf 32000) { dat up with boot := { up.boot with stackResetOwed := [(stackOf 32000, [.rsl rc])] }, pool := { up.pool with exts := [] } },
      ?_⟩,
    ⟨3, rc, stk .out 3 { dat up with boot := { up.boot with stackResetOwed := [(3, [.rsl rc])] } }, ?_⟩⟩
  all_goals
    try unfold RslServed
    repeat' apply And.intro
  all_goals first
    | decide +kernel

theorem test_wearIsReportedAndRepaired :
    (∃ (c : RslCmd) (ext : Nat) (first : Nat) (count : Nat) (s : State), Reaches (Via.rsl c) 79 [1,
      5] (BitVec.allOnes 32) s ∧ ext ≤ 16383 ∧ 1 ≤ count ∧ count ≤ 16384 ∧
      (reached (Via.rsl c) 79 s).decommissioned = false ∧
      first + count ≤ ((reached (Via.rsl c) 79 s).ext ext).localGran * 32) ∧
    (∃ (h : ReqHdr) (ext : Nat) (first : Nat) (count : Nat) (dst : Nat) (s : State), Reaches (Via.fabric h) 79 [1,
      5] (BitVec.allOnes 32) s ∧ ext ≤ 16383 ∧ 1 ≤ count ∧ count ≤ 16 ∧
      (reached (Via.fabric h) 79 s).decommissioned = false ∧
      ((reached (Via.fabric h) 79 s).ext ext).st ≠ ExtState.free ∧
      (reached (Via.fabric h) 79 s).tenantOf h.src = some ((reached (Via.fabric h) 79 s).ext ext).tenant ∧
      first + count ≤ ((reached (Via.fabric h) 79 s).ext ext).localGran * 32 ∧ dst % 64 = 0 ∧
      (reached (Via.fabric h) 79 s).argFail (Via.fabric h) dst (4 * count) needW = none) ∧
    (∃ (c : RslCmd) (s : State), RslServed s c 277) ∧
    (∃ (g : Nat) (s : State), g ≤ 135 ∧ Tab.get false s.groupBad g = false ∧ s.attended = true) ∧
    (∃ (die : Nat) (array : Nat) (row : Nat) (s : State), die ≤ 4 ∧ keyArray die array = false ∧
      ¬(die, array, row) ∈ s.mem.sparesWaiting ∧
      (∀ (e : Nat), e ∈ Tab.get [] s.mem.sramRows (rowKey die array row) → e + 65536 < s.epoch)) ∧
    (∃ (die : Nat) (array : Nat) (_row : Nat) (s : State), die ≤ 4 ∧ keyArray die array = true ∧
      s.mem.ceLog.length < 64) ∧
    (∃ (die : Nat) (array : Nat) (_row : Nat) (s : State), die ≤ 4 ∧ keyArray die array = true ∧
      64 ≤ s.mem.ceLog.length) ∧
    (∃ (die : Nat) (array : Nat) (row : Nat) (e : Nat) (s : State), die ≤ 4 ∧ keyArray die array = false ∧
      ¬(die, array, row) ∈ s.mem.sparesWaiting ∧
      e ∈ Tab.get [] s.mem.sramRows (rowKey die array row) ∧ s.epoch ≤ e + 65536) := by
  refine ⟨⟨rc, 5, 63, 1, up, ?_⟩,
    ⟨rq 5, 5, 0, 16, a5 + 65536, mm (fun m => { m with counts := [(32000, (5, 9))] }) (dat up), ?_⟩,
    ⟨rc, up, ?_⟩,
    ⟨135, up, ?_⟩,
    ⟨4, 3, 2, up, ?_⟩,
    ⟨3, 3, 4095, up, ?_⟩,
    ⟨0, 2, 7, mm (fun m => { m with ceLog := List.replicate 64 ⟨90, 7, 0, 5, 2, 2⟩ }) up, ?_⟩,
    ⟨0, 3, 2, 99, mm (fun m => { m with sramRows := [(rowKey 0 3 2, [99])] }) up, ?_⟩⟩
  all_goals
    try unfold Reaches
    try unfold Admitted
    try unfold ReqServed
    try unfold RslServed
    repeat' apply And.intro
  all_goals first
    | decide +kernel

end C15

namespace C16

def cuts3 : List (Nat × Tables) := [(97, State.reset.tables), (98, up.tables), (99, up.tables)]
def tw (f : Twin → Twin) (s : State) : State := { s with twin := f s.twin }
def tk' (f : Token → Token) (s : State) : State := { s with tok := f s.tok }
def syn (s : State) : State := tw (fun t => { t with tender := .synced }) s
def jn : List JEntry := [⟨3, 4, 32, some 50, 99⟩, ⟨0x13, 40, 32, some 40, 100⟩]
def at_ (n : Nat) (s : State) : State := { s with clk := { s.clk with now := 4096 * n } }

theorem test_tenderFollowsTheActiveDie :
    (∃ (e : Nat) (cut : Nat × Tables) (s : State), s.copying = true ∧
      List.find? (fun (c : Nat × Tables) => decide (c.fst = e)) s.twin.cuts = some cut ∧
      s.twin.tender = TenderState.synced) ∧
    (∃ (e : Nat) (cut : Nat × Tables) (r : Nat) (s : State), s.copying = true ∧
      List.find? (fun (c : Nat × Tables) => decide (c.fst = e)) s.twin.cuts = some cut ∧
      s.twin.tender = TenderState.resync ∧ s.twin.resyncFrom = some r ∧ r < e ∧ 4 ≤ s.twin.mirrorGood ∧
      s.twin.keyStoreSent = true) ∧
    (∃ (s : State), s.twin.tender = TenderState.synced ∧ (∃ (c : Nat × Tables), c ∈ s.twin.cuts ∧
      c.fst + s.cfgAt fLag ≤ s.epoch) ∧ s.sec.changes = [] ∧ s.repro.paired = Paired.off ∧ s.cfgAt fAutoReset = 1 ∧
      s.twin.autoResets < s.cfgAt fResetLimit) ∧
    (∃ (s : State), s.twin.tender = TenderState.resetting ∧ s.tok.active.isSome = true ∧ s.twin.resyncAt = none ∧
      s.dieIsReady s.tenderDie = true) ∧
    (∃ (e : Nat) (s : State), s.attended = true ∧ s.twin.tender = TenderState.resetting ∧ s.twin.resyncAt = some e ∧
      e ≤ s.epoch) ∧
    (∃ (r : Nat) (s : State), s.copying = true ∧ s.hubGone 0 = false ∧ s.twin.resyncFrom = some r ∧ r < s.epoch ∧
      Tab.get false s.twin.readThis 0 = false) ∧
    (∃ (hub : Nat) (r : Nat) (s : State), s.copying = true ∧ hub ≤ 1 ∧ s.hubGone hub = false ∧
      s.twin.resyncFrom = some r ∧ r < s.epoch ∧ Tab.get false s.twin.readThis hub = false ∧
      s.twin.tender = TenderState.synced) ∧
    (∃ (s : State), s.epoch % 256 = 0 ∧ Tab.get false s.tok.linkDown 8 = true ∧ s.attended = true ∧
      s.twin.tender ≠ TenderState.absent) := by
  refine ⟨⟨98, (98, up.tables), tw (fun t => { t with tender := .synced, cuts := cuts3, journal := jn }) up, ?_⟩,
    ⟨98, (98, up.tables), 90,
      tw (fun t => { t with tender := .resync, cuts := cuts3, journal := jn, resyncFrom := some 90, mirrorGood := 4, keyStoreSent := true }) up,
      ?_⟩,
    ⟨tw (fun t => { t with tender := .synced, cuts := [(1, up.tables), (99, up.tables)], journal := jn }) (at_ 2000 up),
      ?_⟩,
    ⟨tw (fun t => { t with tender := .resetting }) { up with boot := { up.boot with readyB := true } }, ?_⟩,
    ⟨100, tw (fun t => { t with tender := .resetting, resyncAt := some 100, journal := jn }) up, ?_⟩,
    ⟨90,
      tw (fun t => { t with tender := .resync, resyncFrom := some 90, mirror0 := [[], [], [], []], mirrorGood := 7 }) { up with mem := { up.mem with prev0 := [⟨49, 7, 9, 0, false, false, 0⟩] } },
      ?_⟩,
    ⟨1, 90, tw (fun t => { t with tender := .synced, resyncFrom := some 90, mirror0 := [[]], mirrorGood := 7 }) up, ?_⟩,
    ⟨tk' (fun t => { t with linkDown := [(8, true)] }) (syn (at_ 256 up)), ?_⟩⟩
  all_goals
    repeat' apply And.intro
  all_goals first
    | decide +kernel

theorem test_activeDieStopsOrIsJudgedLost :
    (∃ (d : Nat) (s : State), s.tok.active = some d ∧ s.twin.tender = TenderState.synced) ∧
    (∃ (d : Nat) (s : State), s.tok.active = some d ∧ s.twin.tender ≠ TenderState.synced ∧ s.tok.fatal = none) ∧
    (∃ (s : State), s.twin.tender = TenderState.synced ∧ s.tok.active.isSome = true ∧ s.twin.detectedAt = none ∧
      s.twin.failSent = true ∧ Tab.get false s.tok.linkDown 8 = false) ∧
    (∃ (_b : Bool) (s : State), Tab.get false s.tok.linkDown 8 = true) ∧
    (∃ (s : State), s.twin.tender = TenderState.synced ∧ s.tok.active.isSome = true ∧ s.twin.detectedAt = none ∧
      s.handingOver = false ∧ (∀ (od e : Nat), od ∈ s.odsAlive → (s.ob od).renewedAt = some e →
      e + 2 ≤ s.odEpoch od) ∧ s.twin.ackEpoch + 2 ≤ s.epoch) ∧
    (∃ (s : State), s.twin.tender = TenderState.synced ∧ s.tok.active.isSome = true ∧ s.twin.detectedAt = none ∧
      s.handingOver = false ∧ s.tok.expired ≠ []) ∧
    (∃ (d : Nat) (s : State), s.twin.detectedAt = some d ∧ d + 8 ≤ s.epoch ∧ s.tok.claimant.isSome = true ∧
      s.allGranted s.tok.claimGrants = false ∧ s.tok.fatal = none ∧ odPd ∈ s.tok.claimGrants) ∧
    (∃ (d : Nat) (s : State), s.twin.detectedAt = some d ∧ d + 8 ≤ s.epoch ∧ s.tok.claimant.isSome = true ∧
      s.allGranted s.tok.claimGrants = false ∧ s.tok.fatal = none ∧ ¬odPd ∈ s.tok.claimGrants) := by
  refine ⟨⟨0, syn up, ?_⟩,
    ⟨0, up, ?_⟩,
    ⟨tw (fun t => { t with failSent := true }) (syn up), ?_⟩,
    ⟨true, tk' (fun t => { t with linkDown := [(8, true)] }) (syn up), ?_⟩,
    ⟨tk' (fun t => { t with dies := [(0, ⟨some 0, 1000, 100, some 98⟩), (1, ⟨some 0, 1000, 100, some 98⟩), (2, ⟨some 0, 1000, 100, some 98⟩)] }) (tw (fun t => { t with ackEpoch := 98 }) (syn up)),
      ?_⟩,
    ⟨tk' (fun t => { t with expired := [1] }) (syn up), ?_⟩,
    ⟨92,
      tk' (fun t => { t with claimant := some 1, claimGrants := [2] }) (tw (fun t => { t with detectedAt := some 92 }) (syn up)),
      ?_⟩,
    ⟨92,
      tk' (fun t => { t with claimant := some 1, claimGrants := [0, 1] }) (tw (fun t => { t with detectedAt := some 92 }) (syn up)),
      ?_⟩⟩
  all_goals
    repeat' apply And.intro
  all_goals first
    | decide +kernel
    | exact renewals _ (by decide +kernel)

theorem test_handoverDieResetAndSramErrors :
    (∃ (c : RslCmd) (s : State), RslServed s c 266 ∧ s.repro.paired = Paired.off ∧ s.twin.tender = TenderState.synced ∧
      s.boot.dieResetOf = none ∧ s.twin.handoverAt = none) ∧
    (∃ (c : RslCmd) (s : State), RslServed s c 266 ∧ (s.repro.paired ≠ Paired.off ∨ s.twin.tender = TenderState.absent ∨
      s.twin.tender = TenderState.held)) ∧
    (∃ (s : State), s.handingOver = true ∧ s.attended = true ∧ s.twin.tender = TenderState.synced ∧ s.openWork = false) ∧
    (∃ (c : RslCmd) (s : State), RslServed s c 257 ∧ s.repro.paired = Paired.off ∧ s.boot.dieResetOf = none ∧
      s.tok.active = some dieCdA ∧ s.twin.tender ≠ TenderState.absent ∧ s.sec.changes = []) ∧
    (∃ (c : RslCmd) (s : State), RslServed s c 257 ∧ s.repro.paired = Paired.off ∧ s.boot.dieResetOf = none ∧
      s.tok.active = some dieCdA ∧ s.twin.tender = TenderState.synced ∧ s.twin.handoverAt = none) ∧
    (∃ (c : RslCmd) (s : State), s.tok.active = some dieCdA ∧ s.twin.tender = TenderState.resetting ∧
      s.dieIsReady dieCdB = false ∧ s.boot.dieResetOf = some dieCdB ∧ s.boot.dieResetOwed = [Via.rsl c]) ∧
    (∃ (s : State), s.tok.active = some dieCdA ∧ s.twin.tender = TenderState.resetting ∧ s.dieIsReady dieCdB = false ∧
      s.boot.dieResetOf = none) ∧
    (∃ (hub : Nat) (_index : Nat) (_s : State), hub ≤ 1) ∧
    (∃ (hub : Nat) (_index : Nat) (_s : State), hub ≤ 1) ∧
    (∃ (n : Nat) (_s : State), n < 66) := by
  refine ⟨⟨rc, syn up, ?_⟩,
    ⟨rc, up, ?_⟩,
    ⟨tw (fun t => { t with handoverAt := some 100, released := [4] }) { syn up with fab := { up.fab with unbound := [oneMsg] } },
      ?_⟩,
    ⟨rc, tw (fun t => { t with journal := jn, tender := .resync }) up, ?_⟩,
    ⟨rc, syn up, ?_⟩,
    ⟨rc,
      tw (fun t => { t with tender := .resetting }) { up with boot := { up.boot with dieResetOf := some 1, dieResetOwed := [.rsl rc], readyB := false } },
      ?_⟩,
    ⟨tw (fun t => { t with tender := .resetting }) { up with boot := { up.boot with readyB := false } }, ?_⟩,
    ⟨0, 32000, { up with mem := { up.mem with openPages := [(32000, [0, 5])] } }, ?_⟩,
    ⟨0, 5, { up with mem := { up.mem with counts := [(32000, (5, 9))] } }, ?_⟩,
    ⟨3, up, ?_⟩⟩
  all_goals
    try unfold RslServed
    repeat' apply And.intro
  all_goals first
    | decide +kernel

end C16

namespace C17

def cf (n : Nat) : CfgField := match fieldOf n with | some f => f | none => ⟨0, 0, 0, 0, 0, 0, 0, false⟩
def bt (f : Boot → Boot) : State := { up with boot := f up.boot }
def starting (st : Nat) (f : Boot → Boot) : State := { State.reset with
  power := up.power, clk := { State.reset.clk with running := true }
  boot := f { Boot.reset with por := true, stage := st, chosen := decide (st ≠ 2), flashA := imgG, flashB := imgG } }

theorem test_startChoosesAndChecksAnImage :
    (∃ (_osc : BitVec 3) (_idx : BitVec 3) (s : State), s.power.inputOn = true ∧ s.power.softStart = false ∧
      s.power.inReset = false ∧ s.boot.por = false ∧ s.power.railGroup = 4 ∧ s.railsSettled = true) ∧
    (∃ (xa : Nat) (xb : Nat) (s : State), s.clk.oscDelay = true ∧ s.boot.por = true ∧ 48128 ≤ 100 * xa ∧
      100 * xa ≤ 54272 ∧ 300800 ≤ 100 * xb ∧ 100 * xb ≤ 339200) ∧
    (∃ (_na : Nat) (xb : Nat) (s : State), s.clk.oscDelay = true ∧ s.boot.por = true ∧ 300800 ≤ 100 * xb ∧
      100 * xb ≤ 339200) ∧
    (∃ (s : State), s.boot.stage = 2 ∧ s.boot.chosen = false ∧ s.boot.recovery = false ∧ s.dieDead dieCdA = false ∧
      s.candidate false = true ∧ s.candidate true = false ∧ s.boot.aFailed = false ∧ s.boot.bFailed = false) ∧
    (∃ (_a : Bool) (_b : Bool) (s : State), s.boot.stage = 2 ∧ s.boot.chosen = false ∧ s.boot.recovery = false ∧
      s.dieDead dieCdA = false ∧ s.candidate false = false ∧ s.candidate true = false) ∧
    (∃ (s : State), s.boot.stage = 2 ∧ s.boot.chosen = true ∧ s.bootDies = [dieCdA, dieCdB] ∧ s.boot.fwA = false ∧
      digestOk s.runImage secRot = true ∧ digestOk s.runImage secSvc = true) ∧
    (∃ (s : State), s.boot.stage = 2 ∧ s.boot.chosen = true ∧ s.bootDies = [dieCdA, dieCdB] ∧ s.boot.fwA = false ∧
      digestOk s.runImage secRot = false) ∧
    (∃ (s : State), s.boot.stage = 3 ∧ s.bootDies = [dieCdA, dieCdB] ∧ s.boot.readyA = false ∧
      digestOk s.runImage secConfig = true ∧ configOk s.runImage = true) := by
  refine ⟨⟨4, 7, bt fun b => { b with por := false, stage := 0 }, ?_⟩,
    ⟨512, 3200, { starting 1 id with clk := { State.reset.clk with oscDelay := true } }, ?_⟩,
    ⟨0, 3392, { starting 1 id with clk := { State.reset.clk with oscDelay := true } }, ?_⟩,
    ⟨starting 2 fun b => { b with flashB := [] }, ?_⟩,
    ⟨true, true, starting 2 fun b => { b with flashB := imgG.drop 1, flashA := [] }, ?_⟩,
    ⟨starting 2 fun b => { b with chosen := true }, ?_⟩,
    ⟨starting 2 fun b => { b with chosen := true, flashA := imgBad }, ?_⟩,
    ⟨starting 3 fun b => { b with fwA := true, fwB := true }, ?_⟩⟩
  all_goals
    repeat' apply And.intro
  all_goals first
    | decide +kernel

theorem test_moduleLoadsCalibratesAndWipes :
    (∃ (s : State), s.boot.stage = 5 ∧ s.tok.active.isSome = true ∧ digestOk s.runImage secHub = true ∧
      digestOk s.runImage secPort = true ∧ digestOk s.runImage secTrain = true) ∧
    (∃ (d : Nat) (s : State), s.boot.stage = 5 ∧ s.tok.active = some d ∧ digestOk s.runImage secHub = false) ∧
    (∃ (n : Nat) (s : State), s.boot.stage = 6 ∧ n ≤ 11 ∧ Tab.get false s.boot.calDone n = false ∧ (∃ (m : Nat), m ≤ 11 ∧
      m ≠ n ∧ Tab.get false s.boot.calDone m = false ∧ (s.stack m).st ≠ StackState.failed)) ∧
    (∃ (n : Nat) (s : State), s.boot.stage = 6 ∧ n ≤ 11 ∧ Tab.get false s.boot.calDone n = false ∧ (∀ (m : Nat), m ≤ 11 →
      m ≠ n → Tab.get false s.boot.calDone m = true)) ∧
    (∃ (n : Nat) (s : State), s.boot.stage = 6 ∧ n ≤ 11 ∧ Tab.get false s.boot.calDone n = false ∧
      (s.stack n).st ≠ StackState.failed) ∧
    (∃ (s : State), s.boot.stage = 7 ∧ s.boot.wipeStart.isSome = true ∧ s.boot.wipeRange ≤ 2) := by
  refine ⟨⟨{ starting 5 id with tok := up.tok }, ?_⟩,
    ⟨0, { starting 5 (fun b => { b with flashA := imgG.take 12000 }) with tok := up.tok }, ?_⟩,
    ⟨11, { starting 6 id with tok := up.tok }, ?_⟩,
    ⟨11, { starting 6 (fun b => { b with calDone := (List.range 11).map fun i => (i, true) }) with tok := up.tok }, ?_⟩,
    ⟨0, { starting 6 id with tok := up.tok }, ?_⟩,
    ⟨{ starting 7 (fun b => { b with wipeStart := some 0 }) with tok := up.tok }, ?_⟩⟩
  all_goals
    repeat' apply And.intro
  all_goals first
    | decide +kernel

theorem test_lifeCycleAndConfigurationOverTheServiceLink :
    (∃ (c : RslCmd) (s : State), RslServed s c 260) ∧
    (∃ (c : RslCmd) (target : Nat) (s : State), RslServed s c 262 ∧ (target = 2 ∨ target = 3) ∧ s.boot.lc ≠ 0 ∧
      s.boot.lc < target ∧ s.lcRunning = false ∧ s.pool.exts = [] ∧ s.coh.domains = [] ∧ s.repro.regions = [] ∧
      s.sec.sessions = []) ∧
    (∃ (c : RslCmd) (target : Nat) (s : State), RslServed s c 262 ∧ (target = 2 ∨ target = 3) ∧ (s.boot.lc = 0 ∨
      target ≤ s.boot.lc)) ∧
    (∃ (c : RslCmd) (s : State), RslServed s c 263 ∧ s.boot.lc = 0) ∧
    (∃ (c : RslCmd) (_b : Bool) (s : State), RslServed s c 263 ∧ s.boot.lc ≠ 0) ∧
    (∃ (c : RslCmd) (s : State), RslServed s c 263 ∧ s.boot.lc = 0) ∧
    (∃ (c : RslCmd) (f : CfgField) (id : Nat) (v : Nat) (s : State), RslServed s c 272 ∧ fieldOf id = some f ∧
      v < 256 ^ f.len ∧ f.rw = true ∧ f.inRange v = true) ∧
    (∃ (c : RslCmd) (f : CfgField) (id : Nat) (v : Nat) (s : State), RslServed s c 272 ∧ fieldOf id = some f ∧
      v < 256 ^ f.len ∧ f.rw = false) ∧
    (∃ (c : RslCmd) (f : CfgField) (id : Nat) (v : Nat) (s : State), RslServed s c 272 ∧ fieldOf id = some f ∧
      v < 256 ^ f.len ∧ f.rw = true ∧ f.inRange v = false) ∧
    (∃ (c : RslCmd) (f : CfgField) (id : Nat) (s : State), RslServed s c 273 ∧ fieldOf id = some f) := by
  refine ⟨⟨rc, up, ?_⟩,
    ⟨rc, 3, { up with pool := { up.pool with exts := [] } }, ?_⟩,
    ⟨rc, 2, up, ?_⟩,
    ⟨rc, { up with boot := { up.boot with lc := 0 } }, ?_⟩,
    ⟨rc, true, up, ?_⟩,
    ⟨rc, { up with boot := { up.boot with lc := 0 } }, ?_⟩,
    ⟨rc, (cf fLadleShare), fLadleShare, 20, up, ?_⟩,
    ⟨rc, (cf fSetSize), fSetSize, 3, up, ?_⟩,
    ⟨rc, (cf fLimitW), fLimitW, 1005, up, ?_⟩,
    ⟨rc, (cf fCeLeak), fCeLeak, up, ?_⟩⟩
  all_goals
    try unfold RslServed
    repeat' apply And.intro
  all_goals first
    | decide +kernel

end C17

namespace C18

def a5 : Nat := 5 * 2 ^ 43
def vr : Via := .rsl rc
def at_ (n : Nat) (s : State) : State := { s with clk := { s.clk with now := 4096 * n } }
def ctb (s : State) : State := { s with ctrs := [(ctrKey 1 3 0, 5), (ctrKey 3 7 1, 2)] }
def evv : Ev := ⟨0, 0x0105, 2, 0, 0, 1, [1]⟩
def evf : Ev := ⟨0, 0x0401, 3, 0, 0, 1, [1]⟩
def ms (f : Sec → Sec) (s : State) : State := { s with sec := f s.sec }
def ev (f : Events → Events) (s : State) : State := { s with evs := f s.evs }
def full (s : State) : State := ev (fun e => { e with queue := (List.range 1024).map fun i => ⟨i + 1, 0x0105, 2, 0, 0, 1, []⟩ }) s

theorem test_serviceLinkReadsAndRepeats :
    (∃ (c : RslCmd) (word : Nat) (count : Nat) (index : Nat) (size : Nat) (n : Nat) (s : State), RslServed s c 274 ∧
      statusShape word = some (size, n) ∧ count ≠ 0 ∧ index + count ≤ n) ∧
    (∃ (c : RslCmd) (g : Nat) (count : Nat) (index : Nat) (n : Nat) (k : Nat) (s : State), Reaches (Via.rsl c) 136 [1,
      5] (4294902015#32) s ∧ ctrShape g = some (n, k) ∧ 1 ≤ count ∧ count ≤ 256 ∧ index + count ≤ n ∧
      count * k * 8 ≤ 65536) ∧
    (∃ (h : ReqHdr) (g : Nat) (count : Nat) (index : Nat) (dst : Nat) (n : Nat) (k : Nat) (s : State),
      Reaches (Via.fabric h) 136 [1, 5] (4294902015#32) s ∧ ctrShape g = some (n, k) ∧ 1 ≤ count ∧ count ≤ 256 ∧
      index + count ≤ n ∧ count * k * 8 ≤ 65536 ∧ (reached (Via.fabric h) 136 s).ctrMine h.src g index count = true ∧
      dst % 64 = 0 ∧
      (reached (Via.fabric h) 136 s).argFail (Via.fabric h) dst (List.flatMap (fun (i : Nat) => List.flatMap (fun (j : Nat) => leBytes 8 ((reached (Via.fabric h) 136 s).ctr g (index + i) j)) (List.range k)) (List.range count)).length needW = none) ∧
    (∃ (h : ReqHdr) (g : Nat) (count : Nat) (index : Nat) (_dst : Nat) (n : Nat) (k : Nat) (s : State),
      Reaches (Via.fabric h) 136 [1, 5] (4294902015#32) s ∧ ctrShape g = some (n, k) ∧ 1 ≤ count ∧ count ≤ 256 ∧
      index + count ≤ n ∧ count * k * 8 ≤ 65536 ∧ (reached (Via.fabric h) 136 s).ctrMine h.src g index count = false) ∧
    (∃ (c : RslCmd) (obj : Nat) (index : Nat) (bytes : List Byte) (tenant : Option Nat) (s : State),
      Reaches (Via.rsl c) 137 [1, 5] (BitVec.allOnes 32) s ∧
      (reached (Via.rsl c) 137 s).objRecord obj index = some (bytes, tenant)) ∧
    (∃ (h : ReqHdr) (obj : Nat) (index : Nat) (dst : Nat) (bytes : List Byte) (tenant : Nat) (s : State),
      Reaches (Via.fabric h) 137 [1, 5] (BitVec.allOnes 32) s ∧ (obj = 1 → Mastered (reached (Via.fabric h) 137 s)) ∧
      (reached (Via.fabric h) 137 s).objRecord obj index = some (bytes, some tenant) ∧
      (reached (Via.fabric h) 137 s).tenantOf h.src = some tenant ∧ dst % 64 = 0 ∧
      (reached (Via.fabric h) 137 s).argFail (Via.fabric h) dst bytes.length needW = none) ∧
    (∃ (c : RslCmd) (_e : Nat) (s : State), RslServed s c 278) ∧
    (∃ (p : Nat) (n : Nat) (s : State), p ≤ 1 ∧ s.portUp (64 + p) = true ∧ (n < 16 ∨ 65568 < n)) ∧
    (∃ (p : Nat) (n : Nat) (_s : State), p ≤ 1 ∧ 16 ≤ n ∧ n ≤ 65568) ∧
    (∃ (p : Nat) (tag : Nat) (cmd : Nat) (s : State), p ≤ 1 ∧ s.boot.por = true ∧ s.tagFound tag cmd = TagFound.opened) ∧
    (∃ (p : Nat) (tag : Nat) (cmd : Nat) (f : RslCpl) (s : State), p ≤ 1 ∧ s.boot.por = true ∧
      s.tagFound tag cmd = TagFound.keptSame f) := by
  refine ⟨⟨rc, 1, 1, 0, 4, 1, up, ?_⟩,
    ⟨rc, 1, 1, 3, 64, 33, ctb up, ?_⟩,
    ⟨rq 5, 3, 1, 7, a5 + 64, 4096, 8, ctb up, ?_⟩,
    ⟨rq 5, 1, 1, 3, a5 + 64, 64, 33, ctb up, ?_⟩,
    ⟨rc, 1, 5, leBytes 32 (extEntry up 5), some 3, up, ?_⟩,
    ⟨rq 5, 1, 5, a5 + 128, leBytes 32 (extEntry up 5), 3, up, ?_⟩,
    ⟨rc, 2 ^ 64 - 1, up, ?_⟩,
    ⟨0, 15, up, ?_⟩,
    ⟨0, 16, up, ?_⟩,
    ⟨1, 77, 0x100,
      { up with rsl := { up.rsl with opens := [⟨0x100, 77, 0, 30, 90, false, none⟩, ⟨0x41, 78, 0, 31, 90, false, none⟩] } },
      ?_⟩,
    ⟨1, 77, 0x100, ⟨0x100, 77, 0, 0, [1], 0⟩, { up with rsl := { up.rsl with kept := [⟨0x100, 77, 0, 0, [1], 0⟩] } }, ?_⟩⟩
  all_goals
    try unfold Mastered
    try unfold Reaches
    try unfold Admitted
    try unfold ReqServed
    try unfold RslServed
    repeat' apply And.intro
  all_goals first
    | decide +kernel

theorem test_eventsAreQueuedAcknowledgedAndLimited :
    (∃ (c : RslCmd) (_seq : Nat) (s : State), RslServed s c 276) ∧
    (∃ (s : State), s.clk.running = true ∧ s.epoch % s.cfgAt fEvRefill = 0 ∧ (∀ (code : Nat),
      Tab.get 0 s.evs.suppressed code = 0)) ∧
    (∃ (s : State), s.epoch % s.cfgAt fEvRefill ≠ 0) ∧
    (∃ (v : Ev) (s : State), v.severity ≠ sevFatal ∧ v.code ≠ evSuppressed ∧ s.evs.queue.length < 1024 ∧
      Tab.get 0 s.evs.spent v.code < s.cfgAt fEvBurst) ∧
    (∃ (v : Ev) (s : State), v.severity ≠ sevFatal ∧ v.code ≠ evSuppressed ∧ s.evs.queue.length < 1024 ∧
      Tab.get 0 s.evs.spent v.code < s.cfgAt fEvBurst) ∧
    (∃ (v : Ev) (s : State), v.severity ≠ sevFatal ∧ v.code ≠ evSuppressed ∧ s.evs.queue.length < 1024 ∧
      Tab.get 0 s.evs.spent v.code < s.cfgAt fEvBurst) ∧
    (∃ (v : Ev) (s : State), v.severity ≠ sevFatal ∧ v.code ≠ evSuppressed ∧ s.evs.queue.length < 1024 ∧
      Tab.get 0 s.evs.spent v.code < s.cfgAt fEvBurst) ∧
    (∃ (v : Ev) (s : State), v.severity ≠ sevFatal ∧ v.code ≠ evSuppressed ∧ s.evs.queue.length < 1024 ∧
      Tab.get 0 s.evs.spent v.code < s.cfgAt fEvBurst) ∧
    (∃ (v : Ev) (s : State), v.severity ≠ sevFatal ∧ v.code ≠ evSuppressed ∧ s.evs.queue.length < 1024 ∧
      Tab.get 0 s.evs.spent v.code < s.cfgAt fEvBurst) ∧
    (∃ (v : Ev) (s : State), v.severity ≠ sevFatal ∧ v.code ≠ evSuppressed ∧ s.evs.queue.length < 1024 ∧
      s.cfgAt fEvBurst ≤ Tab.get 0 s.evs.spent v.code) ∧
    (∃ (v : Ev) (s : State), v.severity ≠ sevFatal ∧ v.code ≠ evSuppressed ∧ s.evs.queue.length < 1024 ∧
      s.cfgAt fEvBurst ≤ Tab.get 0 s.evs.spent v.code) ∧
    (∃ (v : Ev) (s : State), v.severity ≠ sevFatal ∧ v.code ≠ evSuppressed ∧ s.evs.queue.length < 1024 ∧
      s.cfgAt fEvBurst ≤ Tab.get 0 s.evs.spent v.code) ∧
    (∃ (v : Ev) (s : State), v.severity ≠ sevFatal ∧ v.code ≠ evSuppressed ∧ s.evs.queue.length < 1024 ∧
      s.cfgAt fEvBurst ≤ Tab.get 0 s.evs.spent v.code) ∧
    (∃ (v : Ev) (s : State), v.severity ≠ sevFatal ∧ v.code ≠ evSuppressed ∧ s.evs.queue.length < 1024 ∧
      s.cfgAt fEvBurst ≤ Tab.get 0 s.evs.spent v.code) ∧
    (∃ (v : Ev) (s : State), v.severity ≠ sevFatal ∧ 1024 ≤ s.evs.queue.length) ∧
    (∃ (v : Ev) (s : State), v.severity ≠ sevFatal ∧ 1024 ≤ s.evs.queue.length) ∧
    (∃ (v : Ev) (s : State), v.severity ≠ sevFatal ∧ 1024 ≤ s.evs.queue.length) ∧
    (∃ (v : Ev) (s : State), v.severity ≠ sevFatal ∧ 1024 ≤ s.evs.queue.length) ∧
    (∃ (v : Ev) (s : State), v.severity ≠ sevFatal ∧ 1024 ≤ s.evs.queue.length) ∧
    (∃ (v : Ev) (s : State), v.severity = sevFatal ∧ s.evs.queue.length < 1024 ∧ s.rslBothUp = true) ∧
    (∃ (v : Ev) (s : State), v.severity = sevFatal ∧ s.evs.queue.length < 1024 ∧ s.rslBothUp = true) ∧
    (∃ (v : Ev) (s : State), v.severity = sevFatal ∧ s.evs.queue.length < 1024 ∧ s.rslBothUp = true) ∧
    (∃ (v : Ev) (s : State), v.severity = sevFatal ∧ s.evs.queue.length < 1024 ∧ s.rslBothUp = true) := by
  refine ⟨⟨rc, 1, ev (fun e => { e with queue := [⟨1, 0x0105, 2, 0, 0, 1, []⟩, ⟨2, 0x0105, 2, 0, 0, 1, []⟩] }) up, ?_⟩,
    ⟨ev (fun e => { e with spent := [(0x0105, 3), (0x0106, 1)] }) (at_ 2048 up), ?_⟩,
    ⟨up, ?_⟩,
    ⟨evv, ev (fun e => { e with nextSeq := 2 ^ 32 - 1, suppressed := [(0x0105, 3)], spent := [(0x0105, 7)] }) up, ?_⟩,
    ⟨evv, ev (fun e => { e with nextSeq := 2 ^ 32 - 1, suppressed := [(0x0105, 3)], spent := [(0x0105, 7)] }) up, ?_⟩,
    ⟨evv, ev (fun e => { e with nextSeq := 2 ^ 32 - 1, suppressed := [(0x0105, 3)], spent := [(0x0105, 7)] }) up, ?_⟩,
    ⟨evv, ev (fun e => { e with nextSeq := 2 ^ 32 - 1, suppressed := [(0x0105, 3)], spent := [(0x0105, 7)] }) up, ?_⟩,
    ⟨evv, ev (fun e => { e with nextSeq := 2 ^ 32 - 1, suppressed := [(0x0105, 3)], spent := [(0x0105, 7)] }) up, ?_⟩,
    ⟨evv, ev (fun e => { e with nextSeq := 2 ^ 32 - 1, suppressed := [(0x0105, 3)], spent := [(0x0105, 7)] }) up, ?_⟩,
    ⟨evv, ev (fun e => { e with spent := [(0x0105, 8)], suppressed := [(0x0105, 2 ^ 32 - 1)] }) up, ?_⟩,
    ⟨evv, ev (fun e => { e with spent := [(0x0105, 8)], suppressed := [(0x0105, 2 ^ 32 - 1)] }) up, ?_⟩,
    ⟨evv, ev (fun e => { e with spent := [(0x0105, 8)], suppressed := [(0x0105, 2 ^ 32 - 1)] }) up, ?_⟩,
    ⟨evv, ev (fun e => { e with spent := [(0x0105, 8)], suppressed := [(0x0105, 2 ^ 32 - 1)] }) up, ?_⟩,
    ⟨evv, ev (fun e => { e with spent := [(0x0105, 8)], suppressed := [(0x0105, 2 ^ 32 - 1)] }) up, ?_⟩,
    ⟨evv, full up, ?_⟩,
    ⟨evv, full up, ?_⟩,
    ⟨evv, full up, ?_⟩,
    ⟨evv, full up, ?_⟩,
    ⟨evv, full up, ?_⟩,
    ⟨evf, up, ?_⟩,
    ⟨evf, up, ?_⟩,
    ⟨evf, up, ?_⟩,
    ⟨evf, up, ?_⟩⟩
  all_goals
    try unfold RslServed
    repeat' apply And.intro
  all_goals first
    | decide +kernel
    | exact fun _ => rfl

theorem test_identityImagesAndKeysAreServed :
    (∃ (v : Via) (_nonce : Nat) (dst : Nat) (scope : Nat) (s : State), Reaches v 128 [5] 0 s ∧ scope ≤ 1 ∧ (scope = 0 →
      viaOperator v = true) ∧ (viaOperator v = false ∨ scope = 1 →
      ((reached v 128 s).tenantOf ((reached v 128 s).viaHost v)).isSome = true) ∧
      (reached v 128 s).dstBad v dst 1024 = none ∧ (reached v 128 s).boot.lc ≠ 0 ∧
      (reached v 128 s).boot.recovery = false ∧ (reached v 128 s).sec.attests.length < 64) ∧
    (∃ (c : RslCmd) (a : AttReq) (s : State), s.twin.paused = false ∧ s.tok.silent = false ∧ s.tok.active.isSome = true ∧
      s.sec.attests = [a] ∧ a.report = [] ∧ a.epoch < s.epoch ∧ a.owed = Via.rsl c ∧ a.dst = 0 ∧
      s.attestRetry a.epoch = none) ∧
    (∃ (c : RslCmd) (a : AttReq) (e : Nat) (s : State), s.twin.paused = false ∧ s.tok.silent = false ∧
      s.tok.active.isSome = true ∧ s.sec.attests = [a] ∧ a.report = [] ∧ a.epoch < s.epoch ∧ a.owed = Via.rsl c ∧
      s.attestRetry a.epoch = some e) ∧
    (∃ (c : RslCmd) (s : State), Reaches (Via.rsl c) 133 [5] 0 s) ∧
    (∃ (c : RslCmd) (flash : Nat) (len : Nat) (data : List Byte) (s : State), RslServed s c 261 ∧ flash ≤ 1 ∧ 2048 ≤ len ∧
      len ≤ 65536 ∧ data.length = len ∧ s.boot.lc ≠ 3 ∧ (s.boot.recovery = true ∨ flash ≠ b2n s.boot.runB) ∧
      s.sec.pend ≠ PendState.writing ∧ headerOk s.sec s.boot.lc data = true ∧ s.versionAbove data = true) ∧
    (∃ (c : RslCmd) (flash : Nat) (off : Nat) (len : Nat) (data : List Byte) (s : State), RslServed s c 261 ∧ flash ≤ 1 ∧
      off % 4096 = 0 ∧ 0 < len ∧ len ≤ 65536 ∧ data.length = len ∧ off + len ≤ flashBytes ∧ s.boot.lc ≠ 3 ∧
      (s.boot.recovery = true ∨ flash ≠ b2n s.boot.runB) ∧ s.sec.pend = PendState.writing ∧ flash = s.sec.pendFlash ∧
      off = s.sec.pendNext) ∧
    (∃ (c : RslCmd) (flash : Nat) (off : Nat) (len : Nat) (data : List Byte) (s : State), RslServed s c 261 ∧ flash ≤ 1 ∧
      off % 4096 = 0 ∧ 0 < len ∧ len ≤ 65536 ∧ data.length = len ∧ off + len ≤ flashBytes ∧ s.boot.lc ≠ 3 ∧
      (s.boot.recovery = true ∨ flash ≠ b2n s.boot.runB) ∧ s.sec.pend = PendState.writing ∧ flash = s.sec.pendFlash ∧
      off = s.sec.pendNext ∧ sectionsOk (s.flash (decide (flash = 1)) ++ data) = true) ∧
    (∃ (c : RslCmd) (flash : Nat) (len : Nat) (data : List Byte) (s : State), RslServed s c 261 ∧ flash ≤ 1 ∧ 0 < len ∧
      len ≤ 65536 ∧ data.length = len ∧ s.boot.recovery = false ∧ flash = b2n s.boot.runB) ∧
    (∃ (c : RslCmd) (s : State), RslServed s c 265 ∧ s.debugOpened = false ∧ s.lcRunning = false ∧ s.pool.exts = [] ∧
      s.coh.domains = [] ∧ s.repro.regions = [] ∧ s.sec.sessions = []) ∧
    (∃ (c : RslCmd) (s : State), RslServed s c 265) ∧
    (∃ (c : RslCmd) (cmd : Nat) (code : Nat) (value : Nat) (data : List Byte) (k : KeyStore) (rest : List (KeyStore × List HeldCpl)) (s : State),
      s.sec.changes = (k, [heldRsl c cmd code value data]) :: rest) := by
  refine ⟨⟨vr, 5, 0, 0, up, ?_⟩,
    ⟨rc, ⟨.rsl rc, 5, 0, 0, 0, 99, []⟩, ms (fun x => { x with attests := [⟨.rsl rc, 5, 0, 0, 0, 99, []⟩] }) up, ?_⟩,
    ⟨rc, ⟨.rsl rc, 5, 0, 0, 0, 99, []⟩, 116,
      ms (fun x => { x with attests := [⟨.rsl rc, 5, 0, 0, 0, 99, []⟩] }) { up with twin := { up.twin with tender := .resync } },
      ?_⟩,
    ⟨rc, up, ?_⟩,
    ⟨rc, 1, 4096, imgG.take 4096, { up with boot := { up.boot with flashA := zeros 2048 } }, ?_⟩,
    ⟨rc, 1, 4096, 20496, imgG.drop 4096,
      ms (fun x => { x with pend := .writing, pendNext := 4096, pendFlash := 1 }) { up with boot := { up.boot with flashB := imgG.take 4096 } },
      ?_⟩,
    ⟨rc, 1, 4096, 20496, imgG.drop 4096,
      ms (fun x => { x with pend := .writing, pendNext := 4096, pendFlash := 1 }) { up with boot := { up.boot with flashB := imgG.take 4096 } },
      ?_⟩,
    ⟨rc, 0, 3, [1, 2, 3], up, ?_⟩,
    ⟨rc, { up with pool := { up.pool with exts := [] } }, ?_⟩,
    ⟨rc, up, ?_⟩,
    ⟨rc, 0x83, cOk, 0, [], ⟨[], []⟩, [], ms (fun x => { x with changes := [(⟨[], []⟩, [heldRsl rc 0x83 cOk 0 []])] }) up,
      ?_⟩⟩
  all_goals
    try unfold Reaches
    try unfold Admitted
    try unfold ReqServed
    try unfold RslServed
    repeat' apply And.intro
  all_goals first
    | decide +kernel

end C18

namespace C19

def a5 : Nat := 5 * 2 ^ 43
def vf (n : Nat) : Via := .fabric (rq n)
def vr : Via := .rsl rc
def ms (f : Sec → Sec) (s : State) : State := { s with sec := f s.sec }
def synced (s : State) : State := { s with twin := { s.twin with tender := .synced } }
def rl (c : Nat) (v : Via) (a n : Nat) (s : State) : State := ((reached v c s).readLines a n).1
def putAt (l : Nat) (b : List Byte) (s : State) : State := { s with mem := { s.mem with cells := s.mem.cells ++ (List.range b.length).map (fun i => (l * 64 + i, b.getD i 0)), lines := s.mem.lines ++ (List.range ((b.length + 63) / 64)).map fun i => (l + i, ⟨true, false, 0⟩) } }
def pnd : Session := { sess1 with st := .pending, mask := [] }
def upP : State := ms (fun x => { x with sessions := [pnd], usedIds := [11] }) up
def hello0 : List Byte := List.replicate 32 9 ++ leBytes 48 baseX ++ leBytes 48 baseY ++ zeros 32
def upH : State := putAt 32768000 hello0 up
def evid1 : List Byte := [0x4fe0e86ebe0e64f85b96a9c75295df61000000000000000000000000000000000000000000000000000000000000000000000000000000000000000000000005,
    0xb275d875bc6cc43e904e505f256ab4255ffd43e94d39e22d61501e700a940e8008d999057ba3d2d969260045c55b97f089025959a6f434d651d207d19fb96e9e,
    0xcb9d3910202dcd06bea4f240d3566da6b408bbae5026580d02d7e5c70500c831000000000000000000000000000000018e80f1fa5b1b3cedb7bfe8dffd6dba74,
    0xc995f7ca0b0c42837d0bbe9602a9fc998520b41c85115aa5f7684c0edc111eacc24abd6be4b5d298b65f28600a2f1df1077a41d4606ffa1464793c7e5fdc7d98,
    0x2dd4333b34f95515a1fd22ffc2f29485a669c5563bd67eec678d29d6ef4fde864f372d90b79b9e88931d5c29291238cced8e85ab507bf91aa9cb2d13186658fb,
    0x2216f7291e6fd3bac6cb1ee285fb6e21c388528bfee2b9535c55e4461079118bbdd6b1c2d7be1bc9f0ed6bac965d4b3584a05c5ee3ec3db8ac9c879ad0df3723,
    0x591a6578d0a3b81cf1cbbbfd08be8ae2544b9b1ca0669b216742ea012641a1a264b468d7f3bc3b4ad0d99fe9a159677f8f0a39a4049bcb3ef1bf29b8b025b78f].flatMap (leBytes 64)
def evidBad : List Byte := evid1.take 352 ++ zeros 96
def ss (x : Session) (s : State) : State := ms (fun y => { y with sessions := [x, { sess1 with id := 14 }] }) s
def jr (s : State) : State := { s with twin := { s.twin with reqs := [⟨50, 3, 100, 7, 9, false, false, false, false⟩, ⟨40, 3, 98, 7, 9, false, false, false, false⟩] } }
def polS (r m : Nat) : List Byte := [1, 1] ++ zeros 14 ++ leBytes 48 r ++ zeros 144 ++ leBytes 48 m ++ zeros 336
def e6 : Ext := { up.ext 5 with base := 33000 }
def upS : State := { up with sec := { up.sec with sessions := [{ sess1 with id := 13, ch := true }] }, pool := { up.pool with exts := [(5, up.ext 5), (6, e6)], grants := [(5 * 4096 + 7, 7), (5 * 4096 + 8, 7), (6 * 4096 + 7, 7)] } }
/-- `upS` with `b` in store at the start of the staging extent. -/
def staged (b : List Byte) : State := putAt 33792000 b upS
theorem get_range (g : Nat → Byte) : ∀ n a k, k < n →
    Tab.get 0 ((List.range n).map fun i => (a + i, g i)) (a + k) = g k := by
  intro n
  induction n generalizing g with
  | zero => intro a k h; omega
  | succ n ih =>
    intro a k h
    rw [List.range_succ_eq_map, List.map_cons, List.map_map]
    unfold Tab.get
    cases k with
    | zero => simp
    | succ k =>
      have h2 := ih (fun i => g (i + 1)) (a + 1) k (by omega)
      rw [if_neg (by omega)]
      have h3 : ((fun i => (a + i, g i)) ∘ Nat.succ) = fun i => (a + 1 + i, g (i + 1)) := by
        funext i; simp only [Function.comp, Nat.succ_eq_add_one]; congr 1; omega
      rw [h3, ← h2]; congr 1; omega
theorem leBytes_ofLe (l : List Byte) : leBytes l.length (ofLe l) = l := by
  induction l with
  | nil => rfl
  | cons b t ih =>
    have hb := b.isLt
    have h : (b.toNat + 256 * ofLe t) / 256 = ofLe t := by omega
    simp only [List.length_cons, ofLe, leBytes, h, ih, List.cons.injEq, and_true]
    apply BitVec.eq_of_toNat_eq
    rw [BitVec.toNat_ofNat]
    omega
theorem ofLe_lt (l : List Byte) : ofLe l < 256 ^ l.length := by
  induction l with
  | nil => decide
  | cons b t ih =>
    have := b.isLt
    simp only [List.length_cons, ofLe, Nat.pow_succ]
    omega
set_option exponentiation.threshold 600 in
theorem lineBytes_lineOf (l : List Byte) (h : l.length = 64) : lineBytes (lineOf l) = l := by
  have h2 : l.take 64 = l := List.take_of_length_le (by omega)
  have h3 := ofLe_lt l
  rw [h, show 256 = 2 ^ 8 by decide, ← Nat.pow_mul] at h3
  have h4 := leBytes_ofLe l
  rw [h] at h4
  unfold lineBytes lineOf
  rw [h2, BitVec.toNat_ofNat, Nat.mod_eq_of_lt h3, h4]
/-- A line of `b`, read back from the staging extent. -/
theorem staged_line (b : List Byte) (hb : b.length = 1024) (i : Nat) (hi : i < 16) :
    (staged b).stageLine (6 * 2 ^ 43 + 64 * i) = some ((b.drop (64 * i)).take 64) := by
  have key : ∀ j, j < 16 → (let s := staged (zeros 1024); let addr := 6 * 2 ^ 43 + 64 * j
      granMember (s.ext (addrExt addr)) (addrExt addr) (addrOff addr / 2 ^ 21) = some s.setIndex ∧
      s.lineAt addr = 33792000 + j ∧ s.phys ((33792000 + j) / 1024) = 33000 ∧ (33792000 + j) % 1024 = j ∧
      (s.lineMeta 33000 j).valid = true ∧ (s.lineMeta 33000 j).poison = false ∧
      s.readsClosed 33000 j = false ∧ s.stackDown (stackOf 33000) = false) := by decide +kernel
  obtain ⟨h1, h2, h3, h4, h5, h6, h7, h8⟩ := key i hi
  have meta_ : ∀ p l, (staged b).lineMeta p l = (staged (zeros 1024)).lineMeta p l := by
    intro p l; simp only [State.lineMeta, staged, putAt, hb]; rfl
  have e1 : (staged b).lineAt = (staged (zeros 1024)).lineAt := rfl
  have e2 : (staged b).phys = (staged (zeros 1024)).phys := rfl
  have e3 : (staged b).readsClosed = (staged (zeros 1024)).readsClosed := rfl
  have e4 : (staged b).stackDown = (staged (zeros 1024)).stackDown := rfl
  have e5 : (staged b).ext = (staged (zeros 1024)).ext := rfl
  have f : ∀ m k, ({ upS with mem := m } : State).cfgAt k = upS.cfgAt k := fun _ _ => rfl
  have g : ∀ m, ({ upS with mem := m } : State).setIndex = upS.setIndex := by
    intro m
    simp only [State.setIndex, State.setSize, State.setMismatch, State.cfgIx, State.fabricId, f]
    congr
  have e6 : (staged b).setIndex = (staged (zeros 1024)).setIndex := (g _).trans (g _).symm
  unfold State.stageLine
  simp only [e1, e2, e3, e4, e5, e6, meta_, h1, h2, h3, h4, h5, h6, h7, h8]
  have h9 : storedLine (staged b).mem.cells 33000 i = lineOf ((b.drop (64 * i)).take 64) := by
    unfold storedLine readBytes
    congr 1
    apply List.ext_getElem
    · simp; omega
    · intro k hk _
      simp only [List.length_map, List.length_range] at hk
      simp only [List.getElem_map, List.getElem_range, List.getElem_take, List.getElem_drop]
      have := get_range (fun i => b.getD i 0) b.length (33792000 * 64) (64 * i + k) (by omega)
      have h10 : lineAddr 33000 i + k = 33792000 * 64 + (64 * i + k) := by unfold lineAddr; omega
      rw [h10]
      unfold readByte
      refine this.trans ?_
      simp [List.getD_eq_getElem?_getD, hb, show 64 * i + k < 1024 by omega]
  rw [h9, lineBytes_lineOf _ (by simp; omega)]
  simp
theorem lineChunks (b : List Byte) (n : Nat) : ((List.range n).flatMap fun i => (b.drop (64 * i)).take 64) = b.take (64 * n) := by
  induction n with
  | zero => rfl
  | succ n ih =>
    rw [List.range_succ, List.flatMap_append, ih, Nat.mul_succ, List.take_add]
    simp
theorem staged_bytes (b : List Byte) (hb : b.length = 1024) : (staged b).stageBytes (6 * 2 ^ 43) 1024 = some b := by
  have h : ((List.range ((6 * 2 ^ 43 + 1024 + 63) / 64 - 6 * 2 ^ 43 / 64)).map fun i =>
      (staged b).stageLine ((6 * 2 ^ 43 / 64 + i) * 64)) = (List.range 16).map fun i => some ((b.drop (64 * i)).take 64) := by
    apply List.map_congr_left
    intro i hi
    rw [show (6 * 2 ^ 43 / 64 + i) * 64 = 6 * 2 ^ 43 + 64 * i by omega]
    exact staged_line b hb i (by simpa using hi)
  unfold State.stageBytes
  simp only [h]
  rw [if_pos (by simp), List.flatMap_map]
  simp only [Option.getD_some, lineChunks]
  rw [show 6 * 2 ^ 43 % 64 = 0 by decide, List.drop_zero, List.take_take, List.take_of_length_le (by omega)]
def hdrRest : List Byte := leBytes 48 baseX ++ leBytes 48 baseY ++ zeros 96 ++ polS 6 5 ++ zeros 176
def hdrHead : List Byte := leBytes 4 0x4C414553 ++ leBytes 2 1 ++ leBytes 2 3 ++ leBytes 8 64
/-- The header of a bundle for a device whose IDK.E has the digest `d`. -/
def hdrFor (d : List Byte) : List Byte := hdrHead ++ (d ++ hdrRest)
theorem hdr_drop (d : List Byte) (hd : d.length = 48) (k : Nat) : (hdrFor d).drop (64 + k) = hdrRest.drop k := by
  have h : hdrHead.length = 16 := by decide
  unfold hdrFor
  rw [List.drop_append, List.drop_append, List.drop_of_length_le (by omega), List.drop_of_length_le (by omega)]
  simp [h, hd, show 64 + k - 16 - 48 = k by omega]
theorem bundle_ok (s : State) (d g : Ext) (hd : d.tenant = 3 ∧ d.lenGran = 2) (hg : g.lenGran = 2) (hl : (sha384 (idkE s)).length = 48) :
    bundleOk s (hdrFor (sha384 (idkE s))) d g 0 = true := by
  generalize hD : sha384 (idkE s) = D at *
  have h0 : ∀ off n, off + n ≤ 16 → bundleField (hdrFor D) off n = bundleField hdrHead off n := by
    intro off n h
    have h : hdrHead.length = 16 := by decide
    unfold bundleField hdrFor
    rw [List.drop_append_of_le_length (by omega), List.take_append_of_le_length (by simp; omega)]
  have h1 : ∀ off n, bundleField (hdrFor D) (64 + off) n = bundleField hdrRest off n := by
    intro off n
    unfold bundleField
    rw [hdr_drop D hl]
  have hp : payloadLen (hdrFor D) = 64 := (h0 8 8 (by omega)).trans (by decide)
  have hdg : ((hdrFor D).drop 16).take 48 = D := by
    have h : hdrHead.length = 16 := by decide
    unfold hdrFor
    rw [List.drop_append_of_le_length (by omega), List.drop_of_length_le (by omega), List.nil_append,
      List.take_append_of_le_length (by omega), List.take_of_length_le (by omega)]
  have hpol : policyOk (((hdrFor D).drop 256).take 592) = true := by
    rw [show 256 = 64 + 192 by decide, hdr_drop D hl]
    decide +kernel
  have hkey : (bundleKey s (hdrFor D)).isSome = true := by
    have hpt : (keyPoint (((hdrFor D).drop 64).take 96)).isSome = true := by
      rw [show 64 = 64 + 0 by decide, hdr_drop D hl]
      decide +kernel
    unfold bundleKey sharedSecret
    simpa using hpt
  unfold bundleOk
  rw [hpol, hkey, hp, h0 0 4 (by omega), h0 4 2 (by omega), h0 6 2 (by omega), show 168 = 64 + 104 by decide, h1,
    show 848 = 64 + 784 by decide, h1, hdg, hD, hd.1, hd.2, hg]
  simp only [Bool.and_true, decide_eq_true_eq]
  exact ⟨by decide, by decide, by decide, by decide, by decide +kernel, by decide +kernel, by decide, by decide, trivial⟩
theorem leBytes_length (n v : Nat) : (leBytes n v).length = n := by
  induction n generalizing v with
  | zero => rfl
  | succ n ih => simp [leBytes, ih]
def upB : State := staged (hdrFor (sha384 (idkE upS)))
theorem bundle_up :
    bundleOk (reached (.ch rc 13) 132 upB) (((reached (.ch rc 13) 132 upB).stageBytes (2 ^ 43 * 6 + 0) 1024).getD [])
      ((reached (.ch rc 13) 132 upB).ext 5) ((reached (.ch rc 13) 132 upB).ext 6) 0 = true := by
  have hr : reached (.ch rc 13) 132 upB = upB := rfl
  have hl : (sha384 (idkE upS)).length = 48 := by
    unfold sha384 Sha2.hash beBytes
    simp [leBytes_length]; decide
  have hb : (hdrFor (sha384 (idkE upS))).length = 1024 := by
    have h : hdrHead.length = 16 := by decide
    have h2 : hdrRest.length = 960 := by decide +kernel
    simp [hdrFor, hl, h, h2]
  rw [hr]
  unfold upB
  rw [show 2 ^ 43 * 6 + 0 = 6 * 2 ^ 43 by decide, staged_bytes _ hb]
  exact bundle_ok (staged _) _ _ ⟨by decide, by decide⟩ (by decide) hl
def key9 : List Byte := List.replicate 32 9
def seg0 : List Byte := leBytes 64 0x13955b75ebf427e4a6f252ec1ad8925b7bb46548c3676ae3bbc63ee1d0e0132cf17c75b280603786abaf303228864952ab2b8a7301ef10be8e383c242766c0e5
def tag0 : List Byte := leBytes 16 0xbdc78eefe03589a0d907c05e1ae47cbc
def impS (o : List Owed) : SealSlot := { SealSlot.empty with st := .importing, ext := 5, tenant := 3, header := zeros 8 ++ leBytes 8 64 ++ zeros 240 ++ polS 6 5 ++ zeros 176, key := key9, owed := o, stageExt := 6 }
def upI (o : List Owed) : State := putAt (33792000 + 16) (seg0 ++
    tag0) (ms (fun x => { x with slots := [(3, impS o)], sessions := [{ sess1 with proven := true, measure := 5, root := 6 }, { sess1 with id := 14, host := 8 }] }) { upS with pool := { upS.pool with exts := [(5, { up.ext 5 with sealed := true, key := 3075 }), (6, e6)] }, mem := { upS.mem with keys := [(3075, some 5)] } })
def sl2 (s : State) : State := ms (fun x => { x with slots := [(2, { impS [] with st := .sealed })] }) s
def badStage (s : State) : State := { s with mem := { s.mem with cells := [] } }

theorem test_sessionsAreOpenedProvenAndClosed :
    (∃ (v : Via) (hello : Nat) (out : Nat) (bytes : List Byte) (q : State) (s : State), Reaches v 129 [5] 0 s ∧
      direct v = true ∧ hello % 64 = 0 ∧ out % 64 = 0 ∧ (reached v 129 s).argFail v hello 160 needR = none ∧
      (reached v 129 s).argFail v out 256 needW = none ∧ (reached v 129 s).pendingSessions < 64 ∧
      (reached v 129 s).readLines hello 3 = (q, some bytes) ∧ helloOk (List.take 160 bytes) = true) ∧
    (∃ (v : Via) (hello : Nat) (out : Nat) (s : State), Reaches v 129 [5] 0 s ∧ hello % 64 = 0 ∧ out % 64 = 0 ∧
      (reached v 129 s).argFail v hello 160 needR = none ∧ (reached v 129 s).argFail v out 256 needW = none ∧
      64 ≤ (reached v 129 s).pendingSessions) ∧
    (∃ (v : Via) (sid : Nat) (x : Session) (s : State), Reaches v 130 [5] 0 s ∧ direct v = true ∧
      List.find? (fun (x : Session) => decide (x.id = sid ∧ x.host = (reached v 130 s).viaHost v ∧
      x.st = SessState.pending)) (reached v 130 s).sec.sessions = some x ∧
      (reached v 130 s).sec.sessions.any (standsFor ((reached v 130 s).viaHost v)) = false ∧
      (reached v 130 s).rootWaits = false) ∧
    (∃ (c : RslCmd) (sid : Nat) (x : Session) (s : State), Reaches (Via.rsl c) 130 [5] 0 s ∧
      List.find? (fun (x : Session) => decide (x.id = sid ∧ x.host = c.host ∧
      x.st = SessState.pending)) (reached (Via.rsl c) 130 s).sec.sessions = some x ∧
      (reached (Via.rsl c) 130 s).rootWaits = false) ∧
    (∃ (v : Via) (sid : Nat) (evid : Nat) (len : Nat) (x : Session) (e : List Byte) (q : State) (s : State),
      Reaches v 130 [5] 0 s ∧ direct v = true ∧ List.find? (fun (x : Session) => decide (x.id = sid ∧
      x.host = (reached v 130 s).viaHost v ∧ x.st = SessState.pending)) (reached v 130 s).sec.sessions = some x ∧
      evid % 64 = 0 ∧ (len = 448 ∨ len = 640 ∨ len = 832) ∧ (reached v 130 s).argFail v evid len needR = none ∧
      (reached v 130 s).readLines evid (len / 64) = (q, some e) ∧ evidenceForm e = true ∧
      evidenceVerifies x.th e = true ∧ q.sec.sessions.any (standsFor ((reached v 130 s).viaHost v)) = false ∧
      q.rootWaits = false) ∧
    (∃ (v : Via) (sid : Nat) (evid : Nat) (len : Nat) (x : Session) (e : List Byte) (q : State) (s : State),
      Reaches v 130 [5] 0 s ∧ direct v = true ∧ List.find? (fun (x : Session) => decide (x.id = sid ∧
      x.host = (reached v 130 s).viaHost v ∧ x.st = SessState.pending)) (reached v 130 s).sec.sessions = some x ∧
      evid % 64 = 0 ∧ (len = 448 ∨ len = 640 ∨ len = 832) ∧ (reached v 130 s).argFail v evid len needR = none ∧
      (reached v 130 s).readLines evid (len / 64) = (q, some e) ∧ evidenceForm e = true ∧
      evidenceVerifies x.th e = false) ∧
    (∃ (v : Via) (sid : Nat) (evid : Nat) (_len : Nat) (s : State), Reaches v 130 [5] 0 s ∧ evid % 64 = 0 ∧
      List.find? (fun (x : Session) => decide (x.id = sid ∧ x.host = (reached v 130 s).viaHost v ∧
      x.st = SessState.pending)) (reached v 130 s).sec.sessions = none) ∧
    (∃ (v : Via) (sid : Nat) (s : State), Reaches v 131 [1] (BitVec.allOnes 32) s ∧ direct v = true ∧
      ((reached v 131 s).sec.sessions.any fun (x : Session) => decide (x.id = sid ∧
      x.host = (reached v 131 s).viaHost v)) = true ∧ (reached v 131 s).rootWaits = false) ∧
    (∃ (v : Via) (sid : Nat) (s : State), Reaches v 131 [1] (BitVec.allOnes 32) s ∧ direct v = true ∧
      ((reached v 131 s).sec.sessions.any fun (x : Session) => decide (x.id = sid ∧
      x.host = (reached v 131 s).viaHost v)) = true ∧ (reached v 131 s).rootWaits = true) ∧
    (∃ (sid : Nat) (x : Session) (s : State), x ∈ s.sec.sessions ∧ x.id = sid ∧ x.st = SessState.pending ∧
      x.opened + 256 ≤ s.epoch) ∧
    (∃ (sid : Nat) (s : State), (∀ (x : Session), x ∈ s.sec.sessions → x.id = sid → x.st = SessState.pending →
      s.epoch < x.opened + 256)) ∧
    (∃ (s : State), s.sec.usedIds.length < two32 - 1) ∧
    (∃ (s : State), s.sec.usedIds.length < two32 - 1) ∧
    (∃ (s : State), s.sec.usedIds.length < two32 - 1) ∧
    (∃ (s : State), s.sec.usedIds.length < two32 - 1) := by
  refine ⟨⟨vf 5, a5, a5 + 256, hello0 ++ zeros 32, rl 0x81 (vf 5) a5 3 (upH), upH, ?_⟩,
    ⟨vf 5, a5, a5 + 256,
      ms (fun x => { x with sessions := (List.range 64).map fun i => { sess1 with id := i + 1, st := .pending } }) up,
      ?_⟩,
    ⟨vf 5, 11, pnd, upP, ?_⟩,
    ⟨rc, 11, pnd,
      ms (fun x => { x with sessions := [pnd, { sess1 with id := 14 }, { sess1 with id := 15, host := 8 }] }) up, ?_⟩,
    ⟨vf 5, 11, a5, 448, pnd, evid1, rl 0x82 (vf 5) a5 7 (putAt 32768000 evid1 (sl2 upP)), putAt 32768000 evid1 (sl2 upP),
      ?_⟩,
    ⟨vf 5, 11, a5, 448, pnd, evidBad, rl 0x82 (vf 5) a5 7 (putAt 32768000 evidBad upP), putAt 32768000 evidBad upP, ?_⟩,
    ⟨vf 5, 12, 0, 0, upP, ?_⟩,
    ⟨vf 1, 11, upP, ?_⟩,
    ⟨vf 1, 11, synced upP, ?_⟩,
    ⟨11, { pnd with opened := 0 },
      ms (fun x => { x with sessions := [{ pnd with opened := 0 }, { sess1 with id := 14 }] }) { up with clk := { up.clk with now := 4096 * 256 } },
      ?_⟩,
    ⟨11, upP, ?_⟩,
    ⟨upP, ?_⟩,
    ⟨upP, ?_⟩,
    ⟨upP, ?_⟩,
    ⟨upP, ?_⟩⟩
  all_goals
    try unfold Reaches
    try unfold Admitted
    try unfold ReqServed
    try unfold RslServed
    repeat' apply And.intro
  all_goals first
    | (with_reducible refine pairOf ?_ ?_) <;> first | (delta rl; with_reducible rfl) | decide +kernel
    | decide +kernel

theorem test_receiveWindowTakesEachMessageOnce :
    (∃ (h : ReqHdr) (op : Nat) (sid : Nat) (resv : Nat) (seq : Nat) (cipher : List Byte) (tag : List Byte) (plain : List Byte) (x : Session) (s : State),
      s.attended = true ∧ s.fabricSession sid h.src = some x ∧ x.passed.contains h.jidx = false ∧
      x.seen.contains seq = false ∧ x.high ≤ seq + 1024 ∧ gcmOpen x.keyHp (sessNonce x.id seq) (receivedHeader h op ++
      securityBlock sid resv seq) cipher tag = some plain) ∧
    (∃ (h : ReqHdr) (_op : Nat) (sid : Nat) (_resv : Nat) (seq : Nat) (_cipher : List Byte) (_tag : List Byte) (x : Session) (s : State),
      s.attended = true ∧ s.fabricSession sid h.src = some x ∧ x.passed.contains h.jidx = false ∧
      (x.seen.contains seq = true ∨ seq + 1024 < x.high)) ∧
    (∃ (h : ReqHdr) (op : Nat) (sid : Nat) (resv : Nat) (seq : Nat) (cipher : List Byte) (tag : List Byte) (x : Session) (s : State),
      s.attended = true ∧ s.fabricSession sid h.src = some x ∧ x.passed.contains h.jidx = false ∧
      x.seen.contains seq = false ∧ x.high ≤ seq + 1024 ∧ gcmOpen x.keyHp (sessNonce x.id seq) (receivedHeader h op ++
      securityBlock sid resv seq) cipher tag = none ∧ x.fails < 255) ∧
    (∃ (h : ReqHdr) (op : Nat) (sid : Nat) (resv : Nat) (seq : Nat) (cipher : List Byte) (tag : List Byte) (x : Session) (s : State),
      s.attended = true ∧ s.fabricSession sid h.src = some x ∧ x.passed.contains h.jidx = false ∧
      x.seen.contains seq = false ∧ x.high ≤ seq + 1024 ∧ gcmOpen x.keyHp (sessNonce x.id seq) (receivedHeader h op ++
      securityBlock sid resv seq) cipher tag = none ∧ 255 ≤ x.fails ∧ s.rootWaits = false) ∧
    (∃ (h : ReqHdr) (_op : Nat) (sid : Nat) (_resv : Nat) (_seq : Nat) (_cipher : List Byte) (_tag : List Byte) (s : State),
      s.attended = true ∧ s.fabricSession sid h.src = none) ∧
    (∃ (h : ReqHdr) (_op : Nat) (sid : Nat) (_resv : Nat) (_seq : Nat) (_cipher : List Byte) (_tag : List Byte) (x : Session) (s : State),
      (s.attended = false ∨ s.fabricSession sid h.src = some x ∧ x.passed.contains h.jidx = true)) := by
  refine ⟨⟨rq 5, 0x80, 11, 0, 5, leBytes 16 0x8a323ec22cf3c9c657a534806f13a12c, leBytes 16 0x6ed55f7d973152081719402e9e8d0342,
      zeros 16, sess1, ss sess1 up, ?_⟩,
    ⟨rq 5, 0x80, 11, 0, 5, [], [], { sess1 with seen := [5, 4999], high := 4999 },
      ss { sess1 with seen := [5, 4999], high := 4999 } up, ?_⟩,
    ⟨rq 5, 0x80, 11, 0, 5, leBytes 16 0x8a323ec22cf3c9c657a534806f13a12c, zeros 16, { sess1 with fails := 254 },
      jr (ss { sess1 with fails := 254 } up), ?_⟩,
    ⟨rq 5, 0x80, 11, 0, 5, leBytes 16 0x8a323ec22cf3c9c657a534806f13a12c, zeros 16, { sess1 with fails := 255 },
      jr (ss { sess1 with fails := 255 } { up with fab := { up.fab with unbound := [oneMsg, { oneMsg with sess := 0 }] } }),
      ?_⟩,
    ⟨rq 5, 0x80, 12, 0, 5, [], [], jr upP, ?_⟩,
    ⟨rq 5, 0x80, 11, 0, 5, [], [], { sess1 with passed := [50] }, jr (ss { sess1 with passed := [50] } up), ?_⟩⟩
  all_goals
    repeat' apply And.intro
  all_goals first
    | decide +kernel

theorem test_sealedBundlesAreImportedOrUndone :
    (∃ (v : Via) (dst : Nat) (stage : Nat) (offset : Nat) (n : Nat) (s : State), Reaches v 132 [5] 0 s ∧ dst ≤ 16383 ∧
      stage ≤ 16383 ∧ offset % 64 = 0 ∧ (reached v 132 s).boot.lc = 2 ∧ (reached v 132 s).sec.sealDead = false ∧
      (viaOperator v = true ∨ ((reached v 132 s).ext dst).ownedBy ((reached v 132 s).viaHost v) = true ∧
      (reached v 132 s).grant stage ((reached v 132 s).viaHost v) % 2 = 1) ∧
      ((reached v 132 s).ext dst).st = ExtState.active ∧ ((reached v 132 s).ext stage).st = ExtState.active ∧
      ((reached v 132 s).ext dst).shared = true ∧ ((reached v 132 s).ext dst).sealed = false ∧
      ((reached v 132 s).ext dst).domain = none ∧ (reached v 132 s).isVersion dst = false ∧
      ((reached v 132 s).ext stage).sealed = false ∧
      ((reached v 132 s).ext stage).tenant = ((reached v 132 s).ext dst).tenant ∧
      (reached v 132 s).holdCount dst = 0 ∧
      bundleOk (reached v 132 s) (((reached v 132 s).stageBytes (2 ^ 43 * stage + offset) 1024).getD []) ((reached v 132 s).ext dst) ((reached v 132 s).ext stage) offset = true ∧
      n ≤ 1023 ∧ ((reached v 132 s).slot n).st = SlotState.free ∧ (∀ (m : Nat), m < n →
      ((reached v 132 s).slot m).st ≠ SlotState.free)) ∧
    (∃ (v : Via) (dst : Nat) (stage : Nat) (offset : Nat) (s : State), Reaches v 132 [5] 0 s ∧ dst ≤ 16383 ∧
      stage ≤ 16383 ∧ offset % 64 = 0 ∧ ((reached v 132 s).boot.lc ≠ 2 ∨ (reached v 132 s).sec.sealDead = true)) ∧
    (∃ (n : Nat) (x : SealSlot) (plain : List Byte) (v : Via) (s : State), s.slot n = x ∧ n ≤ 1023 ∧
      x.st = SlotState.importing ∧ s.attended = true ∧ x.owed = [v] ∧
      s.openSegments x (segments (payloadLen x.header)) = Except.ok plain ∧ direct v = true ∧
      (s.putPool (2 ^ 43 * x.ext) plain).rootWaits = false) ∧
    (∃ (n : Nat) (x : SealSlot) (i : Nat) (c : RslCmd) (s : State), s.slot n = x ∧ n ≤ 1023 ∧ x.st = SlotState.importing ∧
      s.attended = true ∧ x.owed = [Via.rsl c] ∧ s.openSegments x (segments (payloadLen x.header)) = Except.error i ∧
      s.rootWaits = false) ∧
    (∃ (n : Nat) (s : State), (s.slot n).st ≠ SlotState.importing) ∧
    (∃ (c : RslCmd) (n : Nat) (s : State), Reaches (Via.rsl c) 135 [5] 0 s ∧ n ≤ 1023) ∧
    (∃ (h : ReqHdr) (n : Nat) (dst : Nat) (s : State), Reaches (Via.fabric h) 135 [5] 0 s ∧ n ≤ 1023 ∧
      ((reached (Via.fabric h) 135 s).slot n).st ≠ SlotState.free ∧
      (reached (Via.fabric h) 135 s).tenantOf h.src = some ((reached (Via.fabric h) 135 s).slot n).tenant ∧
      dst % 64 = 0 ∧
      (reached (Via.fabric h) 135 s).argFail (Via.fabric h) dst ((reached (Via.fabric h) 135 s).sealRecord n).length needW = none) ∧
    (∃ (h : ReqHdr) (n : Nat) (_dst : Nat) (s : State), Reaches (Via.fabric h) 135 [5] 0 s ∧ n ≤ 1023 ∧
      (reached (Via.fabric h) 135 s).tenantOf h.src ≠ some ((reached (Via.fabric h) 135 s).slot n).tenant) := by
  refine ⟨⟨.ch rc 13, 5, 6, 0, 0, upB, ?_⟩,
    ⟨vf 5, 5, 6, 0, { upS with boot := { up.boot with lc := 1 } }, ?_⟩,
    ⟨3, impS [vf 5], List.replicate 64 3, vf 5, upI [vf 5], ?_⟩,
    ⟨3, impS [vr], 0, rc, badStage (upI [vr]), ?_⟩,
    ⟨4, upI [vr], ?_⟩,
    ⟨rc, 3, upI [], ?_⟩,
    ⟨rq 5, 2, a5 + 64, sl2 up, ?_⟩,
    ⟨rq 5, 2, 0, up, ?_⟩⟩
  all_goals
    try unfold Reaches
    try unfold Admitted
    try unfold ReqServed
    try unfold RslServed
    repeat' apply And.intro
  all_goals first
    | with_reducible exact bundle_up
    | (with_reducible refine opens ?_ ?_) <;> decide +kernel
    | (with_reducible refine opensNot ?_ ?_) <;> decide +kernel
    | decide +kernel

end C19

namespace C20

def a5 : Nat := 5 * 2 ^ 43
def cs : Session := { sess1 with id := 13, ch := true }
def upC : State := { up with sec := { up.sec with sessions := [cs], usedIds := [13] } }
def hello0 : List Byte := List.replicate 32 9 ++ leBytes 48 baseX ++ leBytes 48 baseY ++ zeros 32
def c5 : List Byte := leBytes 16 0xd3117446b7338669bc393824f4568aa2
def t5 : List Byte := leBytes 16 0x3a16a23f4a1f8bec48a3c673788af3c0
theorem opened : gcmOpen cs.keyHp (sessNonce 13 5) (securityBlock 13 0 5) c5 t5 = some (zeros 16) := by decide +kernel
theorem received (s : State) (x : Session) (seq : Nat) (aad c t p : List Byte) (h1 : x.seen.contains seq = false)
    (h2 : ¬ seq + 1024 < x.high) (hg : gcmOpen x.keyHp (sessNonce x.id seq) aad c t = some p) :
    s.receiveSeq x seq aad c t = (s.setSession { x with
      seen := seq :: x.seen.filter (fun n => decide (max x.high seq ≤ n + 1024)), high := max x.high seq }, some p) := by
  unfold State.receiveSeq
  rw [if_neg (by simp only [h1]; simpa using h2)]
  simp only [hg]
def q0 (x : Session) (s : State) : State := (afterOpen s rc 0x171).setSession { x with seen := [5], high := 5 }
theorem taken (s : State) : (afterOpen s rc 0x171).receiveSeq cs 5 (securityBlock 13 0 5) c5 t5 = (q0 cs s, some (zeros 16)) :=
  received _ _ _ _ _ _ _ (by decide) (by decide) opened
def rd (a n : Nat) (s : State) : State × Option (List Byte) := ((q0 cs s).openMessage 13 s.twin.nextJidx).readLines a n
def by' (a n : Nat) (s : State) : List Byte := (rd a n s).2.getD []
def two (s : State) : State := { s with sec := { s.sec with sessions := s.sec.sessions ++ [{ sess1 with id := 15 }] } }
def cse (f : Session →
    Session) (s : State) : State := { s with sec := { s.sec with sessions := s.sec.sessions.map fun (x : Session) => if x.id = 13 then f x else x } }

theorem test_envelopesActAsTheirInnerRequests :
    (∃ (c : RslCmd) (host : Nat) (hello : List Byte) (s : State), RslServed s c 368 ∧ host ≤ 4095 ∧ helloOk hello = true ∧
      (List.filter (fun (x : Session) => x.ch) s.sec.sessions).length < 16 ∧
      (s.sec.sessions.any fun (y : Session) => decide (y.host = host ∧ y.ch = true)) = false ∧ s.rootWaits = false) ∧
    (∃ (c : RslCmd) (host : Nat) (hello : List Byte) (s : State), RslServed s c 368 ∧ host ≤ 4095 ∧ helloOk hello = true ∧
      (List.filter (fun (x : Session) => x.ch) s.sec.sessions).length < 16 ∧ s.rootWaits = false) ∧
    (∃ (c : RslCmd) (host : Nat) (hello : List Byte) (s : State), RslServed s c 368 ∧ host ≤ 4095 ∧ helloOk hello = true ∧
      16 ≤ (List.filter (fun (x : Session) => x.ch) s.sec.sessions).length) ∧
    (∃ (c : RslCmd) (host : Nat) (hello : List Byte) (s : State), RslServed s c 368 ∧ (4095 < host ∨
      helloOk hello = false)) ∧
    (∃ (c : RslCmd) (sid : Nat) (resv : Nat) (seq : Nat) (cipher : List Byte) (tag : List Byte) (plain : List Byte) (inner : ChInner) (i : Instr) (x : Session) (q : State) (s : State),
      RslServed s c 369 ∧ s.chSession sid = some x ∧ x.passed.contains s.twin.nextJidx = false ∧
      (afterOpen s c 369).receiveSeq x seq (securityBlock sid resv seq) cipher tag = (q, some plain) ∧
      q.tok.fatal = none ∧ innerCommand (Via.ch c sid) inner = some i) ∧
    (∃ (c : RslCmd) (sid : Nat) (resv : Nat) (seq : Nat) (cipher : List Byte) (tag : List Byte) (plain : List Byte) (_op : Nat) (x : Session) (q : State) (s : State),
      RslServed s c 369 ∧ s.chSession sid = some x ∧ x.passed.contains s.twin.nextJidx = false ∧
      (afterOpen s c 369).receiveSeq x seq (securityBlock sid resv seq) cipher tag = (q, some plain) ∧
      q.tok.fatal = none) ∧
    (∃ (c : RslCmd) (sid : Nat) (resv : Nat) (seq : Nat) (cipher : List Byte) (tag : List Byte) (plain : List Byte) (_inner : ChInner) (x : Session) (q : State) (s : State),
      RslServed s c 369 ∧ s.chSession sid = some x ∧ x.passed.contains s.twin.nextJidx = false ∧
      (afterOpen s c 369).receiveSeq x seq (securityBlock sid resv seq) cipher tag = (q, some plain) ∧
      q.tok.fatal.isSome = true) ∧
    (∃ (c : RslCmd) (sid : Nat) (resv : Nat) (seq : Nat) (cipher : List Byte) (tag : List Byte) (plain : List Byte) (addr : Nat) (len : Nat) (bytes : List Byte) (x : Session) (q : State) (w : State) (s : State),
      RslServed s c 369 ∧ s.chSession sid = some x ∧ x.passed.contains s.twin.nextJidx = false ∧
      (afterOpen s c 369).receiveSeq x seq (securityBlock sid resv seq) cipher tag = (q, some plain) ∧
      q.tok.fatal = none ∧ addr % 64 = 0 ∧ len % 64 = 0 ∧ 0 < len ∧ len ≤ 4096 ∧
      (q.openMessage sid s.twin.nextJidx).argFail (Via.ch c sid) addr len needR = none ∧
      (q.openMessage sid s.twin.nextJidx).readLines addr (len / 64) = (w, some bytes)) ∧
    (∃ (c : RslCmd) (sid : Nat) (resv : Nat) (seq : Nat) (cipher : List Byte) (tag : List Byte) (plain : List Byte) (addr : Nat) (len : Nat) (data : List Line) (x : Session) (q : State) (s : State),
      RslServed s c 369 ∧ s.chSession sid = some x ∧ x.passed.contains s.twin.nextJidx = false ∧
      (afterOpen s c 369).receiveSeq x seq (securityBlock sid resv seq) cipher tag = (q, some plain) ∧
      q.tok.fatal = none ∧ addr % 64 = 0 ∧ 0 < len ∧ len ≤ 4096 ∧ data.length * 64 = len ∧
      (q.openMessage sid s.twin.nextJidx).argFail (Via.ch c sid) addr len needW = none) ∧
    (∃ (c : RslCmd) (sid : Nat) (_resv : Nat) (_seq : Nat) (_cipher : List Byte) (_tag : List Byte) (_inner : ChInner) (s : State),
      RslServed s c 369 ∧ s.chSession sid = none) ∧
    (∃ (c : RslCmd) (sid : Nat) (_resv : Nat) (seq : Nat) (_cipher : List Byte) (_tag : List Byte) (_inner : ChInner) (x : Session) (s : State),
      RslServed s c 369 ∧ s.chSession sid = some x ∧ x.passed.contains s.twin.nextJidx = false ∧
      (x.seen.contains seq = true ∨ seq + 1024 < x.high)) ∧
    (∃ (c : RslCmd) (sid : Nat) (resv : Nat) (seq : Nat) (cipher : List Byte) (tag : List Byte) (_inner : ChInner) (x : Session) (s : State),
      RslServed s c 369 ∧ s.chSession sid = some x ∧ x.passed.contains s.twin.nextJidx = false ∧
      x.seen.contains seq = false ∧ x.high ≤ seq + 1024 ∧
      gcmOpen x.keyHp (sessNonce x.id seq) (securityBlock sid resv seq) cipher tag = none ∧ x.fails < 255) := by
  refine ⟨⟨rc, 9, hello0, upC, ?_⟩,
    ⟨rc, 7, hello0, two upC, ?_⟩,
    ⟨rc, 7, hello0,
      { up with sec := { up.sec with sessions := (List.range 16).map fun i => { cs with id := i + 1, host := i } } },
      ?_⟩,
    ⟨rc, 4096, hello0, upC, ?_⟩,
    ⟨rc, 13, 0, 5, c5, t5, zeros 16, .leaseRenew, (innerCommand (.ch rc 13) .leaseRenew).getD .silentDetect, cs,
      q0 cs (upC), upC, ?_⟩,
    ⟨rc, 13, 0, 5, c5, t5, zeros 16, 0x99, cs, q0 cs (upC), upC, ?_⟩,
    ⟨rc, 13, 0, 5, c5, t5, zeros 16, .leaseRenew, cs, q0 cs ({ upC with tok := { up.tok with fatal := some 1 } }),
      { upC with tok := { up.tok with fatal := some 1 } }, ?_⟩,
    ⟨rc, 13, 0, 5, c5, t5, zeros 16, a5, 128, by' a5 2 (upC), cs, q0 cs (upC), (rd a5 2 (upC)).1, upC, ?_⟩,
    ⟨rc, 13, 0, 5, c5, t5, zeros 16, a5, 128, [BitVec.ofNat 512 5, BitVec.ofNat 512 7], cs, q0 cs (upC), upC, ?_⟩,
    ⟨rc, 14, 0, 5, [], [], .leaseRenew, upC, ?_⟩,
    ⟨rc, 13, 0, 5, [], [], .leaseRenew, { cs with seen := [5] }, cse (fun x => { x with seen := [5] }) upC, ?_⟩,
    ⟨rc, 13, 0, 5, c5, zeros 16, .leaseRenew, { cs with fails := 254 }, cse (fun x => { x with fails := 254 }) upC, ?_⟩⟩
  all_goals
    try unfold RslServed
    repeat' apply And.intro
  all_goals first
    | with_reducible exact taken _
    | (with_reducible refine pairOf ?_ ?_) <;> first | (delta rd; with_reducible rfl) | decide +kernel
    | decide +kernel

end C20

namespace C21

def imgV (n : Nat) : List Byte := zeros 8 ++ leBytes 4 7 ++ leBytes 4 n ++ zeros 2032
def img5 : List Byte := imgV 5

theorem test_hubsTurnTheirListsAndHalveTheirCounters :
    ∃ (hub : Nat) (mark : Bool) (s : State), hub ≤ 1 ∧ s.hubGone hub = false ∧ s.clk.running = true ∧
      ((mark && !Tab.get false s.tok.linkDown (6 + hub)) = true → (s.ob hub).epoch < s.epoch) := by
  refine ⟨0, true,
    { up with clk := { up.clk with now := 101 * 4096 }, mem := { up.mem with commit0 := [⟨50, 7, 9, 0, false, false, 0⟩], counts := [(32000, (5, 9))] } },
    ?_⟩
  all_goals
    repeat' apply And.intro
  all_goals first
    | decide +kernel

theorem test_secMinRaiseMovesTheMinimumForwardOnly :
    (∃ (c : RslCmd) (v : Nat) (s : State), RslServed s c 264 ∧ 64 < v) ∧
    (∃ (c : RslCmd) (v : Nat) (s : State), RslServed s c 264 ∧ v ≤ 64 ∧ (v ≤ s.sec.minSec ∨
      imageSecVersion s.runImage < v)) ∧
    (∃ (c : RslCmd) (v : Nat) (s : State), RslServed s c 264 ∧ v ≤ 64 ∧ s.sec.minSec < v ∧ v ≤ imageSecVersion s.runImage) := by
  refine ⟨⟨rc, 65, up, ?_⟩,
    ⟨rc, 0, up, ?_⟩,
    ⟨rc, 1, { up with boot := { up.boot with flashA := img5 } }, ?_⟩⟩
  all_goals
    try unfold RslServed
    repeat' apply And.intro
  all_goals first
    | decide +kernel

theorem test_stepRunsTheFrontCommand :
    ∃ (s : State), s.pending = [] := by
  refine ⟨up, ?_⟩
  all_goals
    repeat' apply And.intro
  all_goals first
    | decide +kernel

end C21

/-! The invariants, the queue and the stored bytes. -/

theorem test_receiveWindowSecond :
    ∃ (s : State) (x y : Session) (seq : Nat) (aad cipher tag plain : List Byte), s.sec.sessions = [x] ∧
      x.seen.contains seq = false ∧ x.high ≤ seq + 1024 ∧
      gcmOpen x.keyHp (sessNonce x.id seq) aad cipher tag = some plain ∧
      (s.receiveSeq x seq aad cipher tag).1.sec.sessions = [y] := by
  refine ⟨{ up with sec := { up.sec with sessions := [C20.cs] } }, C20.cs, { C20.cs with seen := [5], high := 5 }, 5,
    securityBlock 13 0 5, C20.c5, C20.t5, zeros 16, ?_⟩
  decide +kernel

theorem test_stepRunsTheFrontCommand :
    (∃ (c : Instr) (rest : List Instr) (s : State), s.pending = c :: rest ∧ c = .tripInputOff) ∧ (∃ s : State, s.pending = []) :=
  ⟨⟨.tripInputOff, [.silentDetect], { up with pending := [.tripInputOff, .silentDetect] }, by decide, rfl⟩, State.reset, rfl⟩

theorem test_stepsKeepMemoryCanonical :
    ∃ s t, Memory.wf s.mem.cells = true ∧ s.mem.cells ≠ [] ∧ s.pending ≠ [] ∧ step s = .next t :=
  ⟨{ up with pending := [.messageBind], mem := { up.mem with cells := [(3, 9), (4, 1)] } }, _, by decide +kernel,
    by decide, by decide, rfl⟩

theorem test_stepsNeverTakeAFuseBack : ∃ s t, LifeLegal s ∧ s.pending ≠ [] ∧ step s = .next t :=
  ⟨{ up with pending := [.provision rc true] }, _, by unfold LifeLegal; decide +kernel, by decide, rfl⟩

theorem test_storedBytesAndCounters :
    (∃ p l q k : Nat, l < 1024 ∧ k < 1024 ∧ (q ≠ p ∨ k ≠ l)) ∧
    (∃ m n, Memory.wf m = true ∧ Memory.wf n = true ∧ m ≠ [] ∧ ∀ a, readByte m a = readByte n a) ∧
    (∃ g o c g' o' c' : Nat, o < 65536 ∧ o' < 65536 ∧ c < 64 ∧ c' < 64 ∧ (g, o, c) ≠ (g', o', c')) :=
  ⟨⟨7, 1023, 7, 0, by decide⟩, ⟨[(5, 1)], [(5, 1)], by decide, by decide, by decide, fun _ => rfl⟩,
    ⟨1, 65535, 63, 2, 0, 0, by decide⟩⟩

theorem test_resetLine : ∃ p _l : Nat, p < allPages := ⟨allPages - 1, 1023, by decide⟩

/-! Worked examples of the spec. -/

/-- "Example: locating one byte" (after R25): PA 0xF_4245_2A40. -/
theorem test_locatingOneByte :
    (stackOf 1000005, pwsOf 1000005, channelOf 1000005 169, hubOf 1000005) = (10, 83333, 10 * 32 + 15, 1) := by decide

/-- "Example: locating a byte in a set of three" (R176): the member, the page and the line. -/
theorem test_locatingInASetOfThree :
    let x : Ext := { Ext.empty with mask := 7, base := 1204224, lenGran := 8192 }
    addrExt 0x009C580123456780 = 5003 ∧ granMember x 5003 2330 = some 1 ∧
      lineOfOff x (addrOff 0x009C580123456780) / 1024 = 1229061 := by decide +kernel

/-- "Example: narrow and wide sums of three BF16 values" (R274, R285): the wide and both narrow sums. -/
theorem test_bf16Sums :
    (combFloat 0 fmtFp32 0 0 0 false 0x3F800000 (fdecode fmtBf16 0x3B80)).acc = 0x3F808000 ∧
    (combFloat 0 fmtFp32 0 0 0 false 0x3F808000 (fdecode fmtBf16 0x3B80)).acc = 0x3F810000 ∧
    (combFloat 0 fmtBf16 0 0 0 false 0x3F80 (fdecode fmtBf16 0x3B80)).acc = 0x3F80 ∧
    (combFloat 0 fmtBf16 2 0x3A1F0C77 0 false 0x3F80 (fdecode fmtBf16 0x3B80)).acc = 0x3F80 ∧
    (combFloat 0 fmtBf16 2 0xC4029D15 0 false 0x3F80 (fdecode fmtBf16 0x3B80)).acc = 0x3F81 := by decide +kernel

/-- "Example: one block, two modes" (R293): in FP32, 2^24 + 1 is a tie and goes to even. -/
theorem test_fp32Tie :
    (combFloat 0 fmtFp32 0 0 0 false 0x4B800000 (fdecode fmtFp32 0x3F800000)).acc = 0x4B800000 := by decide +kernel

/-- The example of R271: amax 100.0 gives the scale 125, and 100.0 the element 384, whose code in E4M3 is 0x7C. -/
theorem test_mxRescale :
    mxRescale fmtE4m3 0 [0] [fdecode fmtFp32 0x42C80000] = (125, [0x7C], 0) := by decide +kernel

/-- "Example: a NAK and its replay" (R138, R140): the replay of 0x2005 to 0x2193 has 399 flits. -/
theorem test_replayLength : seqDist 0x2194 0x2005 = 399 := by decide

/-- The example after R111: 1,200 is a value of PWR.LIMIT_W, 1,255 is none. -/
theorem test_powerLimit :
    (fieldOf 0x03001000).map (fun f => (f.inRange 1200, f.inRange 1255, f.reset)) = some (true, false, 1700) := by
  decide +kernel

/-- The example after R436: the DAT credits of port 40 are field 0x0400_7028. -/
theorem test_fieldId : (fieldOf 0x04007028).isSome = true := by decide +kernel

/-! The algorithms that the spec names, on the examples of their standards. -/

/-- FIPS 180-4: the SHA-256 and SHA-384 digests of "abc". -/
theorem test_sha2 :
    ofBe (sha256 (ascii "abc")) = 0xba7816bf8f01cfea414140de5dae2223b00361a396177a9cb410ff61f20015ad ∧
    ofBe (sha384 (ascii "abc")) =
      0xcb00753f45a35e8bb5a03d699ac65007272c32ab0eded1631a8b605a43ff5bed8086072ba1e7cc2358baeca134c825a7 := by
  decide +kernel

/-- FIPS 197, appendix C.3: AES-256. -/
theorem test_aes :
    ofBe (aes (beBytes 32 0x000102030405060708090a0b0c0d0e0f101112131415161718191a1b1c1d1e1f)
      (beBytes 16 0x00112233445566778899aabbccddeeff)) = 0x8ea2b7ca516745bfeafc49904b496089 := by decide +kernel

/-- The check value of CRC-32C (R129). -/
theorem test_crc32c : crc32c (ascii "123456789") = 0xE3069283 := by decide +kernel

/-- An image signed outside the model, with the private half 1, whose header, signature and digests check; with one section
changed, its digests do not (R100, R102). -/
theorem test_signedImage : headerOk Sec.reset 1 imgG = true ∧ sectionsOk imgG = true ∧ sectionsOk imgBad = false := by
  decide +kernel

end Sys2Proof.Tests
end

section
/-! The scope of a step (chapter 0): every command completes, none touches the queue of waiting commands, and an opcode
that the module does not have is answered MALFORMED or counted. -/

namespace Sys2Proof.Machine
open Sys2Proof

/-! ## The queue of waiting commands -/

/-- Every part of the state but the queue of waiting commands. -/
def nonQueue : List Area :=
  [.power, .clk, .boot, .cfg, .tok, .ports, .fab, .pool, .coh, .coach, .stock, .repro, .mem, .twin, .sec, .rsl, .evs,
    .ctrs, .fresh]

theorem KeepsBut.pending_eq {s t : State} (h : KeepsBut nonQueue s t) : t.pending = s.pending :=
  h .pending (by decide)

section Wipes
/-! The frame lemmas of Laws/ name the queue among the parts that a loss of the volatile state may change. It is
kept by all of them, since `State.wiped` carries it over. -/

variable {s0 s : State} (hK : KeepsBut nonQueue s0 s)
include hK

theorem State.moduleReset_keepsQueue {cause : Nat} : KeepsBut nonQueue s0 (s.moduleReset cause) :=
  upd_boot (State.wiped_keeps hK (by decide)) (by decide)

theorem State.turnOff_keepsQueue : KeepsBut nonQueue s0 s.turnOff :=
  State.wiped_keeps hK (by decide)

theorem KeepsBut.raiseUnless {muted : Prop} [Decidable muted] {code sev die : Nat} {detail : List Byte} :
    KeepsBut nonQueue s0 (if muted then s else s.raise code sev die detail) :=
  .ite (fun _ => hK) fun _ => State.raise_keeps hK (by decide)

theorem State.railLost_keepsQueue {r : Nat} : KeepsBut nonQueue s0 (s.railLost r) := by
  unfold State.railLost
  refine .ite (fun _ => hK) fun _ => .ite (fun _ => State.wiped_keeps hK (by decide)) fun _ => ?_
  have hOpen : ∀ x p, KeepsBut nonQueue s0 { s.setRail r x with power := p } :=
    fun _ _ => upd_power (State.setRail_keeps hK (by decide)) (by decide)
  exact .ite (fun _ => State.pdLoss_keeps (hOpen _ _) (by decide)) fun _ =>
    .ite (fun _ => State.dieLost_keeps (hOpen _ _).raiseUnless (by decide)) fun _ =>
    .ite (fun _ => State.hubLoss_keeps (hOpen _ _).raiseUnless (by decide)) fun _ =>
    .ite (fun _ => State.hubLoss_keeps (hOpen _ _).raiseUnless (by decide)) fun _ =>
    .ite (fun _ => State.portsLost_keeps (hOpen _ _).raiseUnless (by decide)) fun _ =>
    .ite (fun _ => State.portsLost_keeps (hOpen _ _).raiseUnless (by decide)) fun _ =>
    State.partFailed_keeps (hOpen _ _).raiseUnless (by decide)

theorem State.resetInput_keepsQueue {ns cause : Nat} : KeepsBut nonQueue s0 (s.resetInput ns cause) := by
  unfold State.resetInput
  have hPulse : KeepsBut nonQueue s0 (s.pulseTakes ns).1 := State.pulseTakes_keeps hK (by decide)
  generalize s.pulseTakes ns = q at hPulse ⊢
  obtain ⟨u, yes⟩ := q
  have hReset : ∀ p, KeepsBut nonQueue s0 { u.moduleReset cause with power := p } :=
    fun _ => upd_power (State.moduleReset_keepsQueue hPulse) (by decide)
  exact .ite (fun _ => hK) fun _ => .ite (fun _ => hPulse) fun _ =>
    .ite (fun _ => upd_power (hReset _) (by decide)) fun _ => hReset _

theorem execVinTurnOff_keepsQueue {dipUs : Nat} : KeepsOut nonQueue s0 (execVinTurnOff dipUs s) :=
  .next (.ite (fun _ => hK) fun _ => .ite (fun _ => State.turnOff_keepsQueue hK) fun _ => upd_power hK (by decide))

theorem execOvervoltageCutoff_keepsQueue {mv : Nat} : KeepsOut nonQueue s0 (execOvervoltageCutoff mv s) :=
  .next (.ite (fun _ => hK) fun _ => upd_power (State.turnOff_keepsQueue hK) (by decide))

theorem execInputReversal_keepsQueue {mv : Nat} : KeepsOut nonQueue s0 (execInputReversal mv s) :=
  .next (.ite (fun _ => hK) fun _ =>
    upd_power (.ite (fun _ => State.turnOff_keepsQueue hK) fun _ => hK) (by decide))

theorem execThermalComparator_keepsQueue {sensor : Nat} : KeepsOut nonQueue s0 (execThermalComparator sensor s) :=
  .next (.ite (fun _ => hK) fun _ => upd_power (State.turnOff_keepsQueue hK) (by decide))

theorem execTripInputOff_keepsQueue : KeepsOut nonQueue s0 (execTripInputOff s) :=
  .next (.ite (fun _ => hK) fun _ => upd_power (State.turnOff_keepsQueue hK) (by decide))

theorem execModRstN_keepsQueue {lowNs : Nat} : KeepsOut nonQueue s0 (execModRstN lowNs s) :=
  .next (State.resetInput_keepsQueue hK)

theorem execSvcRstN_keepsQueue {lowNs : Nat} : KeepsOut nonQueue s0 (execSvcRstN lowNs s) :=
  .next (State.resetInput_keepsQueue hK)

theorem execModuleResetBegin_keepsQueue : KeepsOut nonQueue s0 (execModuleResetBegin s) := by
  refine .next ?_
  cases s.boot.resetAt with
  | none => exact hK
  | some e => exact .ite (fun _ => hK) fun _ => upd_power (State.moduleReset_keepsQueue hK) (by decide)

theorem execEfuseOpen_keepsQueue {rail deciAmps mv : Nat} :
    KeepsOut nonQueue s0 (execEfuseOpen rail deciAmps mv s) :=
  .next (.ite (fun _ => hK) fun _ => .ite (fun _ => State.railLost_keepsQueue hK) fun _ => hK)

theorem execRailEnableTimeout_keepsQueue {rail : Nat} : KeepsOut nonQueue s0 (execRailEnableTimeout rail s) :=
  .next (.ite (fun _ => State.railLost_keepsQueue hK) fun _ => hK)

theorem execRailOutOfRange_keepsQueue {rail mv : Nat} : KeepsOut nonQueue s0 (execRailOutOfRange rail mv s) := by
  refine .next (.ite (fun _ => hK) fun _ => ?_)
  have hMon : ∀ m, KeepsBut nonQueue s0 (s.setMon (24 + rail) m) := fun _ => State.setMon_keeps hK (by decide)
  exact .ite (fun _ => State.railLost_keepsQueue (hMon _)) fun _ =>
    State.raise_keeps (upd_power (hMon _) (by decide)) (by decide)

end Wipes

/-- The frame lemma of each command, arm by arm as `exec` dispatches. -/
theorem exec_keepsQueue (s : State) : ∀ i, KeepsOut nonQueue s (exec i s)
  | .vinTurnOn .. => execVinTurnOn_keeps .rfl0 (by decide)
  | .vinTurnOff .. => execVinTurnOff_keepsQueue .rfl0
  | .inputLowEntry .. => execInputLowEntry_keeps .rfl0 (by decide)
  | .inputHighEntry .. => execInputHighEntry_keeps .rfl0 (by decide)
  | .overvoltageCutoff .. => execOvervoltageCutoff_keepsQueue .rfl0
  | .restartAfterCutoff .. => execRestartAfterCutoff_keeps .rfl0 (by decide)
  | .inputReversal .. => execInputReversal_keepsQueue .rfl0
  | .modRstN .. => execModRstN_keepsQueue .rfl0
  | .svcRstN .. => execSvcRstN_keepsQueue .rfl0
  | .moduleResetRelease => execModuleResetRelease_keeps .rfl0 (by decide)
  | .softStartDone => execSoftStartDone_keeps .rfl0 (by decide)
  | .railGroupEnable .. => execRailGroupEnable_keeps .rfl0 (by decide)
  | .railEnableTimeout .. => execRailEnableTimeout_keepsQueue .rfl0
  | .porRelease .. => execPorRelease_keeps .rfl0 (by decide)
  | .oscStartDelayEnd .. => execOscStartDelayEnd_keeps .rfl0 (by decide)
  | .imageChoiceDone .. => execImageChoiceDone_keeps .rfl0 (by decide)
  | .dieFirmwareDone .. => execDieFirmwareDone_keeps .rfl0 (by decide)
  | .configCheckDone .. => execConfigCheckDone_keeps .rfl0 (by decide)
  | .cdBClaimWaitEnd => execCdBClaimWaitEnd_keeps .rfl0 (by decide)
  | .loadStageDone => execLoadStageDone_keeps .rfl0 (by decide)
  | .stackCalDone .. => execStackCalDone_keeps .rfl0 (by decide)
  | .wipeRangeDone => execWipeRangeDone_keeps .rfl0 (by decide)
  | .efuseOpen .. => execEfuseOpen_keepsQueue .rfl0
  | .senseLineOpen .. => execSenseLineOpen_keeps .rfl0 (by decide)
  | .railOutOfRange .. => execRailOutOfRange_keepsQueue .rfl0
  | .cableFitted .. => execCableFitted_keeps .rfl0 (by decide)
  | .cableRemoved .. => execCableRemoved_keeps .rfl0 (by decide)
  | .cableFault .. => execCableFault_keeps .rfl0 (by decide)
  | .debugAccess .. => execDebugAccess_keeps .rfl0 (by decide)
  | .thermalStepUndo .. => execThermalStepUndo_keeps .rfl0 (by decide)
  | .tripInputOff => execTripInputOff_keepsQueue .rfl0
  | .thermalComparator .. => execThermalComparator_keepsQueue .rfl0
  | .powerAverageUpdate .. => execPowerAverageUpdate_keeps .rfl0 (by decide)
  | .powerClockStep => execPowerClockStep_keeps .rfl0 (by decide)
  | .powerStepUndo => execPowerStepUndo_keeps .rfl0 (by decide)
  | .crystalMissingEdge .. => execCrystalMissingEdge_keeps .rfl0 (by decide)
  | .crystalFrequencyFlag .. => execCrystalFrequencyFlag_keeps .rfl0 (by decide)
  | .crystalHoldEnd => execCrystalHoldEnd_keeps .rfl0 (by decide)
  | .loopLockLoss .. => execLoopLockLoss_keeps .rfl0 (by decide)
  | .monitorSample .. => execMonitorSample_keeps .rfl0 (by decide)
  | .epochBoundary .. => execEpochBoundary_keeps .rfl0 (by decide)
  | .hubEpochBoundary .. => execHubEpochBoundary_keeps .rfl0 (by decide)
  | .tokenClaim .. => execTokenClaim_keeps .rfl0 (by decide)
  | .tokenRenew .. => execTokenRenew_keeps .rfl0 (by decide)
  | .tokenRelease .. => execTokenRelease_keeps .rfl0 (by decide)
  | .tokenExpiry .. => execTokenExpiry_keeps .rfl0 (by decide)
  | .obeyingDieCommand .. => execObeyingDieCommand_keeps .rfl0 (by decide)
  | .tokenReply .. => execTokenReply_keeps .rfl0 (by decide)
  | .renewalSilence => execRenewalSilence_keeps .rfl0 (by decide)
  | .d2dCrcError .. => execD2dCrcError_keeps .rfl0 (by decide)
  | .d2dLinkFail .. => execD2dLinkFail_keeps .rfl0 (by decide)
  | .flitTx .. => execFlitTx_keeps .rfl0 (by decide)
  | .dataFlitRx .. => execDataFlitRx_keeps .rfl0 (by decide)
  | .idle .. => execIdle_keeps .rfl0 (by decide)
  | .nak .. => execNak_keeps .rfl0 (by decide)
  | .creditSync .. => execCreditSync_keeps .rfl0 (by decide)
  | .time .. => execTime_keeps .rfl0 (by decide)
  | .timeProbe .. => execTimeProbe_keeps .rfl0 (by decide)
  | .timeEcho .. => execTimeEcho_keeps .rfl0 (by decide)
  | .linkParam .. => execLinkParam_keeps .rfl0 (by decide)
  | .laneSwap .. => execLaneSwap_keeps .rfl0 (by decide)
  | .malformedControlFlit .. => execMalformedControlFlit_keeps .rfl0 (by decide)
  | .replayTimerExpiry .. => execReplayTimerExpiry_keeps .rfl0 (by decide)
  | .linkSilenceTimeout .. => execLinkSilenceTimeout_keeps .rfl0 (by decide)
  | .laneLockLoss .. => execLaneLockLoss_keeps .rfl0 (by decide)
  | .laneFecFault .. => execLaneFecFault_keeps .rfl0 (by decide)
  | .trainingStart .. => execTrainingStart_keeps .rfl0 (by decide)
  | .trainingDone .. => execTrainingDone_keeps .rfl0 (by decide)
  | .trainingTimeout .. => execTrainingTimeout_keeps .rfl0 (by decide)
  | .trainingRetry .. => execTrainingRetry_keeps .rfl0 (by decide)
  | .laneSwapDone .. => execLaneSwapDone_keeps .rfl0 (by decide)
  | .ingressSlotRelease .. => execIngressSlotRelease_keeps .rfl0 (by decide)
  | .messageBind => execMessageBind_keeps .rfl0 (by decide)
  | .gateBurstStart .. => execGateBurstStart_keeps .rfl0 (by decide)
  | .routeDrained .. => execRouteDrained_keeps .rfl0 (by decide)
  | .circuitActivate .. => execCircuitActivate_keeps .rfl0 (by decide)
  | .circuitRemove .. => execCircuitRemove_keeps .rfl0 (by decide)
  | .undefinedOpcode .. => execUndefinedOpcode_keeps .rfl0 (by decide)
  | .rdNc .. => execRdNc_keeps .rfl0 (by decide)
  | .rdShared .. => execRdShared_keeps .rfl0 (by decide)
  | .rdOwn .. => execRdOwn_keeps .rfl0 (by decide)
  | .wrNc .. => execWrNc_keeps .rfl0 (by decide)
  | .wbDirty .. => execWbDirty_keeps .rfl0 (by decide)
  | .evict .. => execEvict_keeps .rfl0 (by decide)
  | .atomic .. => execAtomic_keeps .rfl0 (by decide)
  | .snpAck .. => execSnpAck_keeps .rfl0 (by decide)
  | .snpData .. => execSnpData_keeps .rfl0 (by decide)
  | .grantAck .. => execGrantAck_keeps .rfl0 (by decide)
  | .homeLineReadDone .. => execHomeLineReadDone_keeps .rfl0 (by decide)
  | .hubWriteAccepted .. => execHubWriteAccepted_keeps .rfl0 (by decide)
  | .starvationEntryTimeout .. => execStarvationEntryTimeout_keeps .rfl0 (by decide)
  | .cohDeadlineExpiry .. => execCohDeadlineExpiry_keeps .rfl0 (by decide)
  | .cohDownReport .. => execCohDownReport_keeps .rfl0 (by decide)
  | .cohDomainCreate .. => execCohDomainCreate_keeps .rfl0 (by decide)
  | .cohMemberAdd .. => execCohMemberAdd_keeps .rfl0 (by decide)
  | .cohMemberRemove .. => execCohMemberRemove_keeps .rfl0 (by decide)
  | .cohExtBind .. => execCohExtBind_keeps .rfl0 (by decide)
  | .cohExtUnbind .. => execCohExtUnbind_keeps .rfl0 (by decide)
  | .cohDomainDown .. => execCohDomainDown_keeps .rfl0 (by decide)
  | .cohDomainReset .. => execCohDomainReset_keeps .rfl0 (by decide)
  | .cohDomainFree .. => execCohDomainFree_keeps .rfl0 (by decide)
  | .cohDomainQuery .. => execCohDomainQuery_keeps .rfl0 (by decide)
  | .leaseRenew .. => execLeaseRenew_keeps .rfl0 (by decide)
  | .extAlloc .. => execExtAlloc_keeps .rfl0 (by decide)
  | .extGrant .. => execExtGrant_keeps .rfl0 (by decide)
  | .extRelease .. => execExtRelease_keeps .rfl0 (by decide)
  | .extWithdraw .. => execExtWithdraw_keeps .rfl0 (by decide)
  | .setInfo .. => execSetInfo_keeps .rfl0 (by decide)
  | .hostAssign .. => execHostAssign_keeps .rfl0 (by decide)
  | .tenantSet .. => execTenantSet_keeps .rfl0 (by decide)
  | .extQuery .. => execExtQuery_keeps .rfl0 (by decide)
  | .leaseQuery .. => execLeaseQuery_keeps .rfl0 (by decide)
  | .setMaster .. => execSetMaster_keeps .rfl0 (by decide)
  | .leaseEnd .. => execLeaseEnd_keeps .rfl0 (by decide)
  | .graceEnd .. => execGraceEnd_keeps .rfl0 (by decide)
  | .reclaimDone .. => execReclaimDone_keeps .rfl0 (by decide)
  | .extentFree .. => execExtentFree_keeps .rfl0 (by decide)
  | .setDelta .. => execSetDelta_keeps .rfl0 (by decide)
  | .setAck .. => execSetAck_keeps .rfl0 (by decide)
  | .setCmd .. => execSetCmd_keeps .rfl0 (by decide)
  | .setDone .. => execSetDone_keeps .rfl0 (by decide)
  | .setJoin .. => execSetJoin_keeps .rfl0 (by decide)
  | .setJoinAck .. => execSetJoinAck_keeps .rfl0 (by decide)
  | .setJoinSend => execSetJoinSend_keeps .rfl0 (by decide)
  | .setFormationEnd => execSetFormationEnd_keeps .rfl0 (by decide)
  | .setMemberLoss .. => execSetMemberLoss_keeps .rfl0 (by decide)
  | .setMasterLoss => execSetMasterLoss_keeps .rfl0 (by decide)
  | .ringArm .. => execRingArm_keeps .rfl0 (by decide)
  | .ringStop .. => execRingStop_keeps .rfl0 (by decide)
  | .faultResolve .. => execFaultResolve_keeps .rfl0 (by decide)
  | .ringQuery .. => execRingQuery_keeps .rfl0 (by decide)
  | .faultQuery .. => execFaultQuery_keeps .rfl0 (by decide)
  | .invalidate .. => execInvalidate_keeps .rfl0 (by decide)
  | .walkDone .. => execWalkDone_keeps .rfl0 (by decide)
  | .engineDispatch .. => execEngineDispatch_keeps .rfl0 (by decide)
  | .coachAck .. => execCoachAck_keeps .rfl0 (by decide)
  | .descriptorComplete .. => execDescriptorComplete_keeps .rfl0 (by decide)
  | .faultRecordExpiry .. => execFaultRecordExpiry_keeps .rfl0 (by decide)
  | .redOpen .. => execRedOpen_keeps .rfl0 (by decide)
  | .redReset .. => execRedReset_keeps .rfl0 (by decide)
  | .redClose .. => execRedClose_keeps .rfl0 (by decide)
  | .redQuery .. => execRedQuery_keeps .rfl0 (by decide)
  | .redWr .. => execRedWr_keeps .rfl0 (by decide)
  | .redLineCombine .. => execRedLineCombine_keeps .rfl0 (by decide)
  | .laneGroupFault .. => execLaneGroupFault_keeps .rfl0 (by decide)
  | .barrier .. => execBarrier_keeps .rfl0 (by decide)
  | .barrierTimeout .. => execBarrierTimeout_keeps .rfl0 (by decide)
  | .launch .. => execLaunch_keeps .rfl0 (by decide)
  | .launchFire .. => execLaunchFire_keeps .rfl0 (by decide)
  | .pairedCheck .. => execPairedCheck_keeps .rfl0 (by decide)
  | .pairedEntryDone => execPairedEntryDone_keeps .rfl0 (by decide)
  | .pairedMismatch .. => execPairedMismatch_keeps .rfl0 (by decide)
  | .pubCreate .. => execPubCreate_keeps .rfl0 (by decide)
  | .publish .. => execPublish_keeps .rfl0 (by decide)
  | .publishJudge => execPublishJudge_keeps .rfl0 (by decide)
  | .pubMap .. => execPubMap_keeps .rfl0 (by decide)
  | .pubRelease .. => execPubRelease_keeps .rfl0 (by decide)
  | .pubDelete .. => execPubDelete_keeps .rfl0 (by decide)
  | .pubQuery .. => execPubQuery_keeps .rfl0 (by decide)
  | .ceBucketLeak => execCeBucketLeak_keeps .rfl0 (by decide)
  | .stackOvfHalve => execStackOvfHalve_keeps .rfl0 (by decide)
  | .openSweepDone .. => execOpenSweepDone_keeps .rfl0 (by decide)
  | .ladleOverwriteDone .. => execLadleOverwriteDone_keeps .rfl0 (by decide)
  | .ladleScrubRead .. => execLadleScrubRead_keeps .rfl0 (by decide)
  | .rdmRefresh _ row _ => execRdmRefresh_keeps (row := row) .rfl0 (by decide)
  | .calibrationSlot .. => execCalibrationSlot_keeps .rfl0 (by decide)
  | .pageMoveCopyDone .. => execPageMoveCopyDone_keeps .rfl0 (by decide)
  | .stackFail .. => execStackFail_keeps .rfl0 (by decide)
  | .stackRemove .. => execStackRemove_keeps .rfl0 (by decide)
  | .stackReturn .. => execStackReturn_keeps .rfl0 (by decide)
  | .stackReset .. => execStackReset_keeps .rfl0 (by decide)
  | .stackResetDone .. => execStackResetDone_keeps .rfl0 (by decide)
  | .accessDump .. => execAccessDump_keeps .rfl0 (by decide)
  | .sramCorrectable .. => execSramCorrectable_keeps .rfl0 (by decide)
  | .sramUncorrectable .. => execSramUncorrectable_keeps .rfl0 (by decide)
  | .ceLogRead .. => execCeLogRead_keeps .rfl0 (by decide)
  | .cutAck .. => execCutAck_keeps .rfl0 (by decide)
  | .cutLagTimeout => execCutLagTimeout_keeps .rfl0 (by decide)
  | .tenderReady => execTenderReady_keeps .rfl0 (by decide)
  | .resyncStart => execResyncStart_keeps .rfl0 (by decide)
  | .commitListRead .. => execCommitListRead_keeps .rfl0 (by decide)
  | .tenderLinkRetrain .. => execTenderLinkRetrain_keeps .rfl0 (by decide)
  | .failNotice .. => execFailNotice_keeps .rfl0 (by decide)
  | .activeSelfFault => execActiveSelfFault_keeps .rfl0 (by decide)
  | .silentDetect => execSilentDetect_keeps .rfl0 (by decide)
  | .tokenExpiryIndication => execTokenExpiryIndication_keeps .rfl0 (by decide)
  | .claimTimeout => execClaimTimeout_keeps .rfl0 (by decide)
  | .twinSwitch .. => execTwinSwitch_keeps .rfl0 (by decide)
  | .handover => execHandover_keeps .rfl0 (by decide)
  | .dieReset .. => execDieReset_keeps .rfl0 (by decide)
  | .dieReady .. => execDieReady_keeps .rfl0 (by decide)
  | .portReset .. => execPortReset_keeps .rfl0 (by decide)
  | .portResetIdleEnd .. => execPortResetIdleEnd_keeps .rfl0 (by decide)
  | .moduleReset .. => execModuleReset_keeps .rfl0 (by decide)
  | .bootStatus .. => execBootStatus_keeps .rfl0 (by decide)
  | .imageWrite .. => execImageWrite_keeps .rfl0 (by decide)
  | .lcAdvance .. => execLcAdvance_keeps .rfl0 (by decide)
  | .provision .. => execProvision_keeps .rfl0 (by decide)
  | .secMinRaise .. => execSecMinRaise_keeps .rfl0 (by decide)
  | .debugOpen .. => execDebugOpen_keeps .rfl0 (by decide)
  | .cfgWrite .. => execCfgWrite_keeps .rfl0 (by decide)
  | .cfgRead .. => execCfgRead_keeps .rfl0 (by decide)
  | .statusRead .. => execStatusRead_keeps .rfl0 (by decide)
  | .timeRelock .. => execTimeRelock_keeps .rfl0 (by decide)
  | .timeSourceIneligible .. => execTimeSourceIneligible_keeps .rfl0 (by decide)
  | .holdoverExpiry => execHoldoverExpiry_keeps .rfl0 (by decide)
  | .evAck .. => execEvAck_keeps .rfl0 (by decide)
  | .rslEcho .. => execRslEcho_keeps .rfl0 (by decide)
  | .routeLoad .. => execRouteLoad_keeps .rfl0 (by decide)
  | .routeCommit .. => execRouteCommit_keeps .rfl0 (by decide)
  | .policerSet .. => execPolicerSet_keeps .rfl0 (by decide)
  | .cktSetup .. => execCktSetup_keeps .rfl0 (by decide)
  | .cktTeardown .. => execCktTeardown_keeps .rfl0 (by decide)
  | .ctrRead .. => execCtrRead_keeps .rfl0 (by decide)
  | .objQuery .. => execObjQuery_keeps .rfl0 (by decide)
  | .rslFrameInvalid .. => execRslFrameInvalid_keeps .rfl0 (by decide)
  | .rslCommandRepeat .. => execRslCommandRepeat_keeps .rfl0 (by decide)
  | .evBucketRefill => execEvBucketRefill_keeps .rfl0 (by decide)
  | .attest .. => execAttest_keeps .rfl0 (by decide)
  | .attestSign => execAttestSign_keeps .rfl0 (by decide)
  | .certGet .. => execCertGet_keeps .rfl0 (by decide)
  | .sessOpen .. => execSessOpen_keeps .rfl0 (by decide)
  | .sessProve .. => execSessProve_keeps .rfl0 (by decide)
  | .sessClose .. => execSessClose_keeps .rfl0 (by decide)
  | .sessionPendingTimeout .. => execSessionPendingTimeout_keeps .rfl0 (by decide)
  | .encryptedMessageRx .. => execEncryptedMessageRx_keeps .rfl0 (by decide)
  | .sealImport .. => execSealImport_keeps .rfl0 (by decide)
  | .sealImportDone .. => execSealImportDone_keeps .rfl0 (by decide)
  | .sealQuery .. => execSealQuery_keeps .rfl0 (by decide)
  | .keystoreChangeAck => execKeystoreChangeAck_keeps .rfl0 (by decide)
  | .chOpen .. => execChOpen_keeps .rfl0 (by decide)
  | .chCmd .. => execChCmd_keeps .rfl0 (by decide)
  | .moduleResetBegin => execModuleResetBegin_keepsQueue .rfl0
  | .inputReversalEnd => execInputReversalEnd_keeps .rfl0 (by decide)

/-- Every command has a meaning, and every meaning answers a next state on every path. -/
theorem exec_completes (i : Instr) (s : State) : ∃ t, exec i s = .next t := by
  cases i <;> exact ⟨_, rfl⟩

theorem exec_next_pending (i : Instr) (s : State) : ∃ t, exec i s = .next t ∧ t.pending = s.pending := by
  obtain ⟨t, ht⟩ := exec_completes i s
  exact ⟨t, ht, (exec_keepsQueue s i t ht).pending_eq⟩

theorem step_of_empty {s : State} (h : s.pending = []) : step s = .next s := by
  simp only [step, h]

theorem step_of_cons {s : State} {i : Instr} {rest : List Instr} (h : s.pending = i :: rest) :
    step s = exec i { s with pending := rest } := by
  simp only [step, h]

/-- Settles O54: `exec` on its own by the frame lemmas, `step` by whether a command waits. -/
theorem everyStepTakesExactlyOneCommand : Obligations.EveryStepTakesExactlyOneCommand := by
  refine ⟨exec_next_pending, fun s => ?_⟩
  cases h : s.pending with
  | nil => exact ⟨s, step_of_empty h, h⟩
  | cons i rest =>
    rw [step_of_cons h]
    exact exec_next_pending i { s with pending := rest }

/-! ## Gates that answer without a handling table -/

/-- The link's gate judges a command that it takes once it has counted and opened it. -/
theorem rslGate_judges {s : State} {c : RslCmd} {cmd : Nat} {resv : Bool} {k : State → State} (h : RslServed s c cmd) :
    s.rslGate c cmd resv k = (afterOpen s c cmd).rslJudge c cmd resv k := by
  obtain ⟨hPor, -, hGo, hNew, hRoom, -⟩ := h
  have hFree : ¬ 1024 ≤ s.openCommands := by omega
  simp only [State.rslGate, hPor, hGo, hNew, hFree, afterOpen, not_true_eq_false, Bool.false_eq_true, if_false]

/-- A command the gate takes that is refused for its form is answered MALFORMED (R412). -/
theorem rslGate_malformed {s : State} {c : RslCmd} {cmd : Nat} {k : State → State} (h : RslServed s c cmd) :
    s.rslGate c cmd true k = (afterOpen s c cmd).rslAnswer c cmd cMalformed 0 [] := by
  rw [rslGate_judges h]
  obtain ⟨-, hHeld, -, -, -, hPaired, hRecovery, -⟩ := h
  have hHeld' : (afterOpen s c cmd).tokenHeld = true := hHeld
  have hPaired' : (afterOpen s c cmd).pairedEntry = none := hPaired
  have hServes : ¬ ((afterOpen s c cmd).boot.recovery = true ∧ ¬ recoveryCmd cmd = true) :=
    fun ⟨hIn, hNot⟩ => hNot (hRecovery hIn)
  simp only [State.rslJudge, State.rslAnswer, hHeld', hPaired', hServes, not_true_eq_false, Option.isSome_none,
    Bool.false_eq_true, true_or, if_false, if_true]

/-- A completion frame changes no part beside those of `cplParts` (R357, R414). -/
theorem rslAnswer_keepsBut_cplParts (s : State) (c : RslCmd) (cmd code value : Nat) (data : List Byte) :
    KeepsBut (cplParts cmd) s (s.rslAnswer c cmd code value data) := by
  unfold cplParts
  cases hRead : rslReadOnly cmd with
  | false => exact State.rslAnswer_keeps .rfl0 (by decide)
  | true =>
    simp only [State.rslAnswer, State.rslDone, hRead, if_true]
    exact .ite (fun _ => State.bump_keeps (upd_rsl .rfl0 (by decide)) (by decide)) fun _ => upd_rsl .rfl0 (by decide)

/-- A COH_CPL whose code carries no retry time and counts no poison is the answer alone. -/
theorem cohCpl_eq_send {s : State} {h : ReqHdr} {code value : Nat} (hPoison : code ≠ cPoison) (hBusy : code ≠ cBusy) :
    s.cohCpl h code value = s.send (answerOf h 0x1B clsRsp code []) := by
  simp only [State.cohCpl, State.countPoison, retryBody, hPoison, hBusy, false_and, if_false]

/-! ## Opcodes that the module does not have -/

/-- R438: past the colander, a request of no defined opcode is answered COH_CPL with MALFORMED. -/
theorem exec_undefinedOpcode_request {s : State} {h : ReqHdr} {op : Nat} (hOp : definedOpcode clsReq op = false)
    (hServed : ReqServed s h) (hGreen : ((arrived s h).police h 3).2 = false) :
    exec (.undefinedOpcode (.fabric h) clsReq op) s =
      .next ((admitted s h 3).send (answerOf h 0x1B clsRsp cMalformed [])) := by
  simp only [exec, execUndefinedOpcode, hOp, Bool.false_eq_true, if_false, if_true, arrive_served hServed,
    colander_green hGreen, admitted]
  rw [cohCpl_eq_send (by decide) (by decide)]

/-- R154: a message of another class is counted as a stale answer, and goes no further. -/
theorem exec_undefinedOpcode_stale {s : State} {h : ReqHdr} {cls op : Nat} (hOp : definedOpcode cls op = false)
    (hCls : cls ≠ clsReq) (hDst : h.dst = s.fabricId) (hSrc : s.srcAdmitted h.src = true) :
    exec (.undefinedOpcode (.fabric h) cls op) s = .next (s.bump 10 0 4 1) := by
  simp only [exec, execUndefinedOpcode, hOp, hCls, hDst, hSrc, Bool.false_eq_true, Bool.not_true, ne_eq,
    not_true_eq_false, if_false]

/-- R412: on the service link an undefined command is answered MALFORMED. -/
theorem exec_undefinedOpcode_rsl {s : State} {c : RslCmd} {op : Nat} (hOp : definedCmd op = false)
    (hServed : RslServed s c op) :
    exec (.undefinedOpcode (.rsl c) 0 op) s = .next ((afterOpen s c op).rslAnswer c op cMalformed 0 []) := by
  simp only [exec, execUndefinedOpcode, hOp, Bool.false_eq_true, if_false, rslGate_malformed hServed]

/-- Settles O17: each of the three gates leaves one answer or one count, by the equations above. -/
theorem undefinedOpcodesCompleteMalformed : Obligations.UndefinedOpcodesCompleteMalformed := by
  refine ⟨fun h op s hOp hServed hGreen => ?_, fun h cls op s hOp hCls hDst hSrc => ?_, fun c op s hOp hServed => ?_⟩
  · exact does_intro (exec_undefinedOpcode_request hOp hServed hGreen) ⟨rfl, State.send_keeps .rfl0 (by decide)⟩
  · exact does_intro (exec_undefinedOpcode_stale hOp hCls hDst hSrc) ⟨rfl, State.bump_keeps .rfl0 (by decide)⟩
  · exact does_intro (exec_undefinedOpcode_rsl hOp hServed) ⟨answered_done, rslAnswer_keepsBut_cplParts _ _ _ _ _ _⟩

end Sys2Proof.Machine
end


section
/-! What the loss of a part leaves: an event and the failure of the pool change little of the state, and a hub that is
lost takes its six stacks with it (R55, R345, R379). -/

namespace Sys2Proof.Machine
open Sys2Proof

/-! ## Raised events, and the pool's failure -/

/-- An event changes the events and the counters, and no other part. -/
theorem State.raise_frame (s : State) (code sev die : Nat) (detail : List Byte) :
    KeepsBut [.evs, .ctrs] s (s.raise code sev die detail) := State.raise_keeps .rfl0 (by decide)

@[simp] theorem State.raise_clk (s : State) (code sev die : Nat) (detail : List Byte) :
    (s.raise code sev die detail).clk = s.clk := s.raise_frame code sev die detail .clk (by decide)

@[simp] theorem State.raise_tok (s : State) (code sev die : Nat) (detail : List Byte) :
    (s.raise code sev die detail).tok = s.tok := s.raise_frame code sev die detail .tok (by decide)

@[simp] theorem State.raise_twin (s : State) (code sev die : Nat) (detail : List Byte) :
    (s.raise code sev die detail).twin = s.twin := s.raise_frame code sev die detail .twin (by decide)

@[simp] theorem State.raise_ports (s : State) (code sev die : Nat) (detail : List Byte) :
    (s.raise code sev die detail).ports = s.ports := s.raise_frame code sev die detail .ports (by decide)

@[simp] theorem State.raise_rsl (s : State) (code sev die : Nat) (detail : List Byte) :
    (s.raise code sev die detail).rsl = s.rsl := s.raise_frame code sev die detail .rsl (by decide)

theorem State.noticeAll_frame (s : State) (kind : Nat) : KeepsBut [.fab] s (s.noticeAll kind) :=
  State.noticeAll_keeps .rfl0 (by decide)

theorem State.poolFatal_frame (s : State) (cause : Nat) :
    KeepsBut [.tok, .fab, .evs, .ctrs] s (s.poolFatal cause) := State.poolFatal_keeps .rfl0 (by decide)

/-- A failure of the pool records its first cause, and nothing else of the token (R197). -/
theorem State.poolFatal_tok (s : State) (cause : Nat) :
    (s.poolFatal cause).tok = { s.tok with fatal := some (s.tok.fatal.getD cause) } := by
  unfold State.poolFatal
  cases hFatal : s.tok.fatal with
  | some c =>
    simp only [Option.isSome_some, if_true, Option.getD_some]
    rw [← hFatal]
  | none =>
    simp only [Option.isSome_none, Bool.false_eq_true, if_false, Option.getD_none]
    refine (State.noticeAll_frame _ _ .tok (by decide)).trans ?_
    split
    · rfl
    · exact State.raise_tok _ _ _ _ _

/-! ## Operations that change the state of no stack -/

/-- From `s0` to `t` the table of the stacks stands as it was. -/
def SameStacks (s0 t : State) : Prop := t.mem.stackTab = s0.mem.stackTab

namespace SameStacks
variable {s0 s t : State}

theorem rfl0 : SameStacks s s := rfl

theorem stack_eq (h : SameStacks s0 t) (n : Nat) : t.stack n = s0.stack n := by
  unfold State.stack
  rw [show t.mem.stackTab = s0.mem.stackTab from h]

theorem of_mem (h : SameStacks s0 s) (e : t.mem = s.mem) : SameStacks s0 t := by
  unfold SameStacks
  rw [e]
  exact h

theorem after {ps : List Area} (h : SameStacks s0 s) (k : KeepsBut ps s t) (hMem : Area.mem ∉ ps) :
    SameStacks s0 t := h.of_mem (k .mem hMem)

theorem ite {c : Prop} [Decidable c] {a b : State} (h1 : c → SameStacks s0 a) (h2 : ¬ c → SameStacks s0 b) :
    SameStacks s0 (if c then a else b) := by
  split
  · next h => exact h1 h
  · next h => exact h2 h

theorem ite_fst {α : Type} {c : Prop} [Decidable c] {a b : State × α} (h1 : c → SameStacks s0 a.1)
    (h2 : ¬ c → SameStacks s0 b.1) : SameStacks s0 (if c then a else b).1 := by
  split
  · next h => exact h1 h
  · next h => exact h2 h

theorem foldl {α : Type} {f : State → α → State} {l : List α} {s : State} (h : SameStacks s0 s)
    (hf : ∀ s x, SameStacks s0 s → SameStacks s0 (f s x)) : SameStacks s0 (l.foldl f s) := by
  induction l generalizing s with
  | nil => exact h
  | cons a l ih => exact ih (hf _ _ h)

end SameStacks

section Writes
/-! The hub writes that a coach makes carry no error pattern, so that no line is found uncorrectable on the way. -/

/-- A stored line without an error is read without a correction. -/
theorem decodeLine_clean : (decodeLine []).sym = none ∧ (decodeLine []).bad = false := by decide +kernel

variable {s0 s : State} (hS : SameStacks s0 s)
include hS

theorem State.hubRead_clean_sameStacks {ppn line : Nat} : SameStacks s0 (s.hubRead ppn line [] .front false).1 := by
  obtain ⟨hSym, hBad⟩ := decodeLine_clean
  unfold State.hubRead
  generalize decodeLine [] = d at hSym hBad
  simp only [hSym, hBad, Bool.false_eq_true, false_and, or_self, if_false, reduceCtorEq]
  exact .ite_fst (fun _ => hS) fun _ => .ite_fst (fun _ => hS) fun _ => .ite_fst (fun _ => hS) fun _ =>
    .ite_fst (fun _ => hS) fun _ => .ite_fst (fun _ => hS) fun _ => hS

theorem State.putLine_sameStacks {ppn line : Nat} {data : Line} {dir : BitVec 10} {poison : Bool} :
    SameStacks s0 (s.putLine ppn line data dir poison) := by
  have hOpen : SameStacks s0 (s.openLine ppn line) := by
    unfold State.openLine
    refine .ite (fun _ => hS) fun _ => ?_
    dsimp only
    split <;> exact hS
  exact hOpen

theorem State.putBoth_sameStacks {ppn line : Nat} {data : Line} {dir : BitVec 10} {poison : Bool} :
    SameStacks s0 (s.putBoth ppn line data dir poison) := by
  have hPut : SameStacks s0 (s.putLine ppn line data dir poison) := State.putLine_sameStacks hS
  unfold State.putBoth
  dsimp only
  split
  · exact State.putLine_sameStacks hPut
  · exact hPut

theorem State.hubWrite_clean_sameStacks {ppn line : Nat} {mask : BitVec 64} {data : Line}
    {dir : Option (BitVec 10)} : SameStacks s0 (s.hubWrite ppn line mask data dir []).1 := by
  have hRead := State.hubRead_clean_sameStacks hS (ppn := ppn) (line := line)
  have hCount : SameStacks s0 (s.countAccess ppn 0 1) := hS
  unfold State.hubWrite
  refine .ite_fst (fun _ => hS) fun _ => .ite_fst (fun _ => State.putBoth_sameStacks hCount) fun _ => ?_
  generalize s.hubRead ppn line [] .front false = r at hRead ⊢
  have hCounted : ∀ c, SameStacks s0 ({ r.1 with mem := { r.1.mem with counts := c } }.countAccess ppn 0 1) :=
    fun _ => hRead
  exact .ite_fst (fun _ => hRead) fun _ => State.putBoth_sameStacks (hCounted _)

theorem State.writePool_sameStacks {addr : Nat} {bytes : List Byte} : SameStacks s0 (s.writePool addr bytes) :=
  State.hubWrite_clean_sameStacks hS

theorem State.setRing_sameStacks {r : Nat} {x : Ring} : SameStacks s0 (s.setRing r x) :=
  hS.after (State.setRing_keeps (ps := [.coach, .twin]) .rfl0 (by decide)) (by decide)

theorem State.writeLine1_sameStacks {r : Nat} : SameStacks s0 (s.writeLine1 r) :=
  have hRing := State.setRing_sameStacks hS
  .ite (fun _ => hRing) fun _ => State.writePool_sameStacks hRing

theorem State.resumeRing_sameStacks {r : Nat} : SameStacks s0 (s.resumeRing r) := by
  unfold State.resumeRing
  refine .ite (fun _ => ?_) fun _ => hS
  split
  · exact State.writeLine1_sameStacks (State.setRing_sameStacks hS)
  · exact State.setRing_sameStacks hS

theorem State.bump_sameStacks {g o c n : Nat} : SameStacks s0 (s.bump g o c n) :=
  hS.of_mem (State.bump_mem s g o c n)

theorem State.descDone_sameStacks {d : Desc} {code done fid gen detail : Nat} {s2 : Bool} :
    SameStacks s0 (s.descDone d code done fid gen detail s2) := by
  have hLeft : SameStacks s0 (s.leaveFault d) :=
    hS.after (State.leaveFault_keeps (ps := [.coach, .twin]) .rfl0 (by decide)) (by decide)
  have hTaken : ∀ c, SameStacks s0 { s.leaveFault d with coach := c } := fun _ => hLeft.of_mem rfl
  unfold State.descDone
  refine State.resumeRing_sameStacks (.ite (fun _ => State.bump_sameStacks ?_) fun _ =>
    .ite (fun _ => State.bump_sameStacks ?_) fun _ => ?_)
  all_goals exact .ite (fun _ => State.bump_sameStacks (hTaken _)) fun _ =>
    State.setRing_sameStacks (State.writePool_sameStacks (hTaken _))

theorem State.settleInvals_sameStacks : SameStacks s0 s.settleInvals := by
  unfold State.settleInvals
  refine .foldl (.ite (fun _ => hS) fun _ => ?_) fun u v hU => ?_
  · exact hS.after (State.logInvals_keeps (ps := [.coach, .twin]) (upd_coach .rfl0 (by decide)) (by decide))
      (by decide)
  · dsimp only
    split
    case' h_1 =>
      refine SameStacks.after ?_ (State.rslDone_keeps (ps := [.twin, .rsl, .ctrs]) .rfl0 (by decide)) (by decide)
    all_goals
      split
      · split
        · exact State.descDone_sameStacks hU
        · exact hU
      · exact hU

theorem State.settleRing_sameStacks {r : Nat} : SameStacks s0 (s.settleRing r) := by
  unfold State.settleRing
  refine .ite (fun _ => .foldl ?_ fun u v hU => ?_) fun _ => hS
  · exact State.setRing_sameStacks (State.writeLine1_sameStacks (State.setRing_sameStacks hS))
  · exact hU.after (State.coachCpl_keeps (ps := [.fab, .twin, .sec, .rsl, .ctrs]) .rfl0 (by decide)) (by decide)

theorem State.settle_sameStacks : SameStacks s0 s.settle :=
  .foldl (State.settleInvals_sameStacks hS) fun _ _ hU => State.settleRing_sameStacks hU

/-! ### What the pantry's partitions lose -/

theorem State.loseReplay_sameStacks {bad : Nat → Bool} : SameStacks s0 (s.loseReplay bad) :=
  hS.after (State.loseReplay_keeps (ps := [.ports, .rsl, .evs, .ctrs, .fresh]) .rfl0 (by decide)) (by decide)

theorem State.loseDescs_sameStacks {bad : Nat → Bool} : SameStacks s0 (s.loseDescs bad) := by
  unfold State.loseDescs
  refine .ite (fun _ => hS) fun _ => State.settle_sameStacks (.foldl hS fun u d hU => .ite (fun _ => ?_) fun _ => ?_)
  · exact State.descDone_sameStacks hU
  · exact hU.after (State.setDesc_keeps (ps := [.coach]) .rfl0 (by decide)) (by decide)

theorem State.loseSpill_sameStacks {bad : Nat → Bool} : SameStacks s0 (s.loseSpill bad) :=
  hS.after (State.loseSpill_keeps (ps := [.fab, .stock, .twin]) .rfl0 (by decide)) (by decide)

theorem State.loseCounts_sameStacks {bad : Nat → Bool} : SameStacks s0 (s.loseCounts bad) := hS

theorem State.loseFaults_sameStacks {bad : Nat → Bool} : SameStacks s0 (s.loseFaults bad) := by
  unfold State.loseFaults
  refine .ite (fun _ => hS) fun _ => State.settle_sameStacks (.foldl hS fun u f hU => ?_)
  exact SameStacks.after (.foldl hU fun w d hW => State.descDone_sameStacks hW)
    (State.releaseFault_keeps (ps := [.coach, .twin]) .rfl0 (by decide)) (by decide)

/-- Nothing that the pantry loses changes the state of a stack. -/
theorem State.pantryLost_sameStacks {bad : Nat → Bool} : SameStacks s0 (s.pantryLost bad) :=
  State.loseFaults_sameStacks (State.loseCounts_sameStacks (State.loseSpill_sameStacks
    (State.loseDescs_sameStacks (State.loseReplay_sameStacks hS))))

/-! ### What else the failure of a part changes -/

theorem State.loseTrackers_sameStacks {ns : List Nat} : SameStacks s0 (s.loseTrackers ns) :=
  hS.after (State.loseTrackers_keeps (ps := [.fab, .pool, .coh, .coach, .twin, .sec, .rsl, .evs, .ctrs]) .rfl0
    (by decide)) (by decide)

theorem State.damage_sameStacks {e : Nat} : SameStacks s0 (s.damage e) :=
  hS.after (State.damage_keeps (ps := [.fab, .pool, .twin]) .rfl0 (by decide)) (by decide)

end Writes

/-! ## A hub's stacks fail with it (R55, R345) -/

/-- From `s0` to `t` no stack that had failed has come back. -/
def FailedStay (s0 t : State) : Prop := ∀ n, (s0.stack n).st = .failed → (t.stack n).st = .failed

namespace FailedStay
variable {s0 s t : State}

theorem rfl0 : FailedStay s s := fun _ h => h

theorem after {ps : List Area} (h : FailedStay s0 s) (k : KeepsBut ps s t) (hMem : Area.mem ∉ ps) :
    FailedStay s0 t := by
  intro n hn
  rw [SameStacks.rfl0.after k hMem |>.stack_eq]
  exact h n hn

theorem of_same (h : FailedStay s0 s) (k : SameStacks s t) : FailedStay s0 t := by
  intro n hn
  rw [k.stack_eq]
  exact h n hn

/-- A write to a stack's record that keeps its state, or finds it not failed. -/
theorem setStack (h : FailedStay s0 s) {m : Nat} {x : Stack} (hx : (s.stack m).st = .failed → x.st = .failed) :
    FailedStay s0 (s.setStack m x) := by
  intro n hn
  by_cases hnm : n = m
  · subst hnm
    rw [State.stack_setStack]
    exact hx (h n hn)
  · rw [State.stack_setStack_ne _ _ _ _ hnm]
    exact h n hn

theorem raise (h : FailedStay s0 s) {code sev die : Nat} {detail : List Byte} :
    FailedStay s0 (s.raise code sev die detail) := h.after (s.raise_frame code sev die detail) (by decide)

theorem degradeStack (h : FailedStay s0 s) {n : Nat} : FailedStay s0 (s.degradeStack n) := by
  unfold State.degradeStack
  split
  · next hUse =>
    have hMarked : FailedStay s0 (s.setStack n { s.stack n with degraded := true }) := h.setStack id
    dsimp only
    split
    · refine FailedStay.raise (hMarked.setStack fun hFailed => ?_)
      rw [State.stack_setStack, hUse] at hFailed
      cases hFailed
    · exact hMarked.raise
  · exact h

theorem takeSpare (h : FailedStay s0 s) {n : Nat} : FailedStay s0 (s.takeSpare n) := by
  have hUsed : FailedStay s0 (s.setStack n { s.stack n with spareUsed := (s.stack n).spareUsed + 1 }) := h.setStack id
  unfold State.takeSpare
  generalize s.setStack n _ = u at hUsed ⊢
  dsimp only
  split
  · refine degradeStack (raise (setStack hUsed ?_))
    exact id
  · exact hUsed

theorem markMoving (h : FailedStay s0 s) {ppn target : Nat} {retire : Bool} :
    FailedStay s0 (s.markMoving ppn target retire) := by
  refine h.of_same ?_
  show (State.logChange _ _ _ _ _).mem.stackTab = _
  rw [State.logChange_mem]

theorem retirePage (h : FailedStay s0 s) {ppn : Nat} : FailedStay s0 (s.retirePage ppn) := by
  unfold State.retirePage
  split
  · exact h
  · split
    · exact h
    · split
      · exact h
      · exact h.takeSpare.markMoving

/-- The pages that were to move to a failed stack are retired anew. -/
theorem retireAll (h : FailedStay s0 s) {moving : Tab (Option Move)} {pages : List Nat} :
    FailedStay s0 (pages.foldl State.retirePage { s with mem := { s.mem with moving := moving } }) := by
  have hFold : ∀ u, FailedStay s0 u → FailedStay s0 (pages.foldl State.retirePage u) := by
    induction pages with
    | nil => exact fun _ hU => hU
    | cons p ps ih => exact fun _ hU => ih _ hU.retirePage
  exact hFold _ h

end FailedStay

/-- A failed stack's record (R345). -/
def Stack.dead (x : Stack) : Stack := { x with st := .failed, queuedMigration := false }

/-- What follows the failure of a stack takes no failed stack back, this one included. -/
theorem State.stackDead_failedStay (s : State) (n : Nat) :
    FailedStay (s.setStack n (s.stack n).dead) (s.stackDead n) := by
  unfold State.stackDead
  dsimp only
  split
  · split
    · exact (FailedStay.retireAll .rfl0).setStack id
    · exact FailedStay.retireAll .rfl0
  · exact FailedStay.retireAll .rfl0

theorem State.stackDead_failed {s : State} {n m : Nat} (h : m = n ∨ (s.stack m).st = .failed) :
    ((s.stackDead n).stack m).st = .failed := by
  refine State.stackDead_failedStay s n m ?_
  by_cases hmn : m = n
  · subst hmn
    rw [State.stack_setStack]
    rfl
  · rw [State.stack_setStack_ne _ _ _ _ hmn]
    exact h.resolve_left hmn

theorem foldl_stackDead_failed {ns : List Nat} {s : State} {n : Nat} (h : n ∈ ns ∨ (s.stack n).st = .failed) :
    ((ns.foldl State.stackDead s).stack n).st = .failed := by
  induction ns generalizing s with
  | nil => exact h.resolve_left List.not_mem_nil
  | cons m ns ih =>
    refine ih ?_
    rcases h with hMem | hFailed
    · rcases List.mem_cons.mp hMem with hEq | hRest
      · exact .inr (State.stackDead_failed (.inl hEq))
      · exact .inl hRest
    · exact .inr (State.stackDead_failed (.inr hFailed))

/-- Stacks that fail together are FAILED (R345). -/
theorem State.partFailed_failed {s : State} {ns : List Nat} {n : Nat} (h : n ∈ ns) :
    ((s.partFailed ns).stack n).st = .failed := by
  have hDead : (((ns.filter fun n => decide ((s.stack n).st ≠ .failed)).foldl State.stackDead s).stack n).st =
      .failed := by
    refine foldl_stackDead_failed ?_
    by_cases hFailed : (s.stack n).st = .failed
    · exact .inr hFailed
    · exact .inl (List.mem_filter.mpr ⟨h, decide_eq_true hFailed⟩)
  refine Eq.trans (congrArg Stack.st (SameStacks.stack_eq ?_ n)) hDead
  exact .foldl (State.pantryLost_sameStacks (State.loseTrackers_sameStacks .rfl0)) fun _ _ hV =>
    State.damage_sameStacks hV

theorem State.partFailed_tok (s : State) (ns : List Nat) : (s.partFailed ns).tok = s.tok :=
  State.partFailed_keeps
    (ps := [.ports, .fab, .pool, .coh, .coach, .stock, .mem, .twin, .sec, .rsl, .evs, .ctrs, .fresh]) .rfl0 (by decide)
    .tok (by decide)

/-- The first part of `State.hubLoss`: the hub is marked as lost, and its six stacks fail. -/
def State.hubStacksLost (s : State) (hub : Nat) : State :=
  ({ s with tok := { s.tok with hubLost := Tab.set false s.tok.hubLost hub true } }).partFailed
    ((List.range 6).map (· + 6 * hub))

/-- With both hubs lost the pool fails too (R379). -/
theorem State.hubLoss_cases {s : State} {hub : Nat} (hHere : s.hubGone hub = false) :
    s.hubLoss hub = s.hubStacksLost hub ∨ s.hubLoss hub = (s.hubStacksLost hub).poolFatal 3 := by
  unfold State.hubLoss
  rw [if_neg (ne_true_of_eq_false hHere)]
  dsimp only
  split
  · exact .inr rfl
  · exact .inl rfl

/-- A lost hub is marked as lost (R30). -/
theorem State.hubLoss_hubGone {s : State} {hub : Nat} (hHere : s.hubGone hub = false) :
    (s.hubLoss hub).hubGone hub = true := by
  have hGone : (s.hubStacksLost hub).hubGone hub = true := by
    unfold State.hubGone State.hubStacksLost
    rw [State.partFailed_tok, Tab.get_set_self]
  rcases State.hubLoss_cases hHere with hEnd | hEnd
  · rw [hEnd, hGone]
  · unfold State.hubGone
    rw [hEnd, State.poolFatal_tok]
    exact hGone

theorem mem_stacks_of_hub {hub n : Nat} (hN : n < 12) (hOf : hubOfStack n = hub) :
    n ∈ (List.range 6).map (· + 6 * hub) := by
  refine List.mem_map.mpr ⟨n - 6 * hub, List.mem_range.mpr ?_, ?_⟩
  all_goals
    unfold hubOfStack at hOf
    split at hOf <;> omega

/-- Every stack of a lost hub is FAILED (R55). -/
theorem State.hubLoss_failed {s : State} {hub n : Nat} (hHere : s.hubGone hub = false) (hN : n < 12)
    (hOf : hubOfStack n = hub) : ((s.hubLoss hub).stack n).st = .failed := by
  have hFailed : ((s.hubStacksLost hub).stack n).st = .failed := State.partFailed_failed (mem_stacks_of_hub hN hOf)
  rcases State.hubLoss_cases hHere with hEnd | hEnd
  · rw [hEnd, hFailed]
  · rw [hEnd, (SameStacks.rfl0.after (State.poolFatal_frame _ 3) (by decide)).stack_eq, hFailed]

end Sys2Proof.Machine
end

section
/-! The crystals and the loops (R74 to R77): a flagged crystal, and what the port, the hub or the die behind a lost loop
comes to. -/

namespace Sys2Proof.Machine
open Sys2Proof

/-! ## Crystals (R74 to R76) -/

/-- The clocks once a crystal is flagged and the other has taken its loops (R75). -/
def Clocks.failedOver (c : Clocks) (xb : Bool) : Clocks :=
  if xb then { c with xbFlag := true, xbRefOnXa := true } else { c with xaFlag := true, xaRefOnXb := true }

/-- The clocks once both crystals are flagged: the outputs are held (R76). -/
def Clocks.bothFlagged (c : Clocks) : Clocks := { c with xaFlag := true, xbFlag := true, bothHold := true }

/-- The first crystal to be flagged: a warning, and the other takes its loops. -/
theorem flagCrystal_first {s : State} (xb : Bool) (hRun : s.clk.running = true) (hA : s.clk.xaFlag = false)
    (hB : s.clk.xbFlag = false) :
    s.flagCrystal xb = ({ s with clk := s.clk.failedOver xb }).raise 0x0109 sevWarning s.actDie
      (leBytes 1 (if xb then 2 else 1)) := by
  cases xb <;> simp [State.flagCrystal, Clocks.failedOver, State.actDie, hRun, hA, hB]

/-- The second crystal to be flagged: the whole module fails. -/
theorem flagCrystal_second {s : State} {xb : Bool} (hRun : s.clk.running = true)
    (hOwn : (if xb then s.clk.xbFlag else s.clk.xaFlag) = false)
    (hOther : (if xb then s.clk.xaFlag else s.clk.xbFlag) = true) :
    s.flagCrystal xb =
      (({ s with clk := s.clk.bothFlagged }).raise 0x0109 sevFatal s.actDie (leBytes 1 3)).poolFatal 0 := by
  cases xb <;> simp_all [State.flagCrystal, Clocks.bothFlagged, State.actDie]

theorem failedOver_now (c : Clocks) (xb : Bool) : (c.failedOver xb).now = c.now := by cases xb <;> rfl

/-- What the flag of a first crystal leaves: the other runs both sides, and a warning is raised (R75). -/
theorem flagCrystal_first_effect {s : State} (xb : Bool) (hRun : s.clk.running = true) (hA : s.clk.xaFlag = false)
    (hB : s.clk.xbFlag = false) :
    (s.flagCrystal xb).clk = s.clk.failedOver xb ∧
      Raised s (s.flagCrystal xb) 0x0109 sevWarning s.actDie (leBytes 1 (if xb then 2 else 1)) ∧
      KeepsBut [.clk, .evs, .ctrs] s (s.flagCrystal xb) := by
  rw [flagCrystal_first xb hRun hA hB]
  refine ⟨State.raise_clk _ _ _ _ _, raised_of rfl ?_ rfl rfl rfl,
    State.raise_keeps (upd_clk .rfl0 (by decide)) (by decide)⟩
  show (s.clk.failedOver xb).now / 4096 = s.clk.now / 4096
  rw [failedOver_now]

/-- What the flag of a second crystal leaves: the outputs are held, and the pool has failed (R76). -/
theorem flagCrystal_second_effect {s : State} {xb : Bool} (hRun : s.clk.running = true) (hFatal : s.tok.fatal = none)
    (hOwn : (if xb then s.clk.xbFlag else s.clk.xaFlag) = false)
    (hOther : (if xb then s.clk.xaFlag else s.clk.xbFlag) = true) :
    (s.flagCrystal xb).clk = s.clk.bothFlagged ∧ (s.flagCrystal xb).tok.fatal = some 0 := by
  rw [flagCrystal_second hRun hOwn hOther]
  refine ⟨(State.poolFatal_frame _ _ .clk (by decide)).trans (State.raise_clk _ _ _ _ _), ?_⟩
  rw [State.poolFatal_tok, State.raise_tok, hFatal, Option.getD_none]

/-- With the other crystal healthy, 0.5 % of 800 edges is 4 of them (R74). -/
theorem crystalOff_xb_iff (n : Nat) : crystalOff true true n = false ↔ 796 ≤ n ∧ n ≤ 804 := by
  simp only [crystalOff, crystalNominal, if_true, decide_eq_false_iff_not]
  omega

theorem exec_crystalFrequencyFlag {s : State} {xb : Bool} {n : Nat} (hA : s.clk.xaFlag = false)
    (hB : s.clk.xbFlag = false) :
    exec (.crystalFrequencyFlag xb n) s = .next (if crystalOff xb true n then s.flagCrystal xb else s) := by
  simp [exec, execCrystalFrequencyFlag, hA, hB]

theorem exec_crystalHoldEnd {s : State} (h : s.clk.bothHold = true) :
    exec .crystalHoldEnd s = .next { s with clk := { s.clk with bothHold := false, txIdle := true } } := by
  simp only [exec, execCrystalHoldEnd, h, if_true]

/-! ## Which loss a lost loop is handled as (R77) -/

/-- The loop of a control die is marked as faulted. -/
def State.markLoop (s : State) (die : Nat) : State :=
  { s with clk := { s.clk with loopFault := Tab.set false s.clk.loopFault die true } }

theorem State.markLoop_keeps {ps : List Area} {s0 s : State} {die : Nat} (hK : KeepsBut ps s0 s) (hS : [.clk] ⊆ ps) :
    KeepsBut ps s0 (s.markLoop die) := upd_clk hK hS

theorem State.markLoop_loopFault (s : State) (die : Nat) :
    Tab.get false (s.markLoop die).clk.loopFault die = true := by
  simp [State.markLoop]

section Loop
variable {s : State} {die : Nat} {ps : List Nat} (hRun : s.clk.running = true)
  (hRef : (s.clk.xaFlag && s.clk.xbFlag) = false)
include hRun hRef

theorem exec_loopLockLoss_ports (hDie : 4 ≤ die) :
    exec (.loopLockLoss die ps) s = .next (s.portsLost (ps.filter fun n => decide (n < 66))) := by
  simp [exec, execLoopLockLoss, hRun, hRef, show ¬ die ≤ 1 by omega, show ¬ die ≤ 3 by omega]

theorem exec_loopLockLoss_hub {hub : Nat} (hHub : hub < 2) :
    exec (.loopLockLoss (2 + hub) ps) s = .next (s.hubLoss hub) := by
  simp [exec, execLoopLockLoss, hRun, hRef, show ¬ 2 + hub ≤ 1 by omega, show 2 + hub ≤ 3 by omega]

theorem exec_loopLockLoss_die (hDie : die ≤ 1) :
    exec (.loopLockLoss die ps) s = .next ((s.markLoop die).dieLost die false) := by
  simp [exec, execLoopLockLoss, State.markLoop, hRun, hRef, hDie]

end Loop

/-! ## Ports that lose their clock -/

/-- Moving a failed RSL port's frames to the other port takes no port up or down (R413). -/
theorem State.moveFrames_st (s : State) (r m : Nat) : ((s.moveFrames r).port m).st = (s.port m).st := by
  unfold State.moveFrames
  dsimp only
  split
  · rfl
  · split
    · rfl
    · show ((State.setPort s (64 + r) _).port m).st = _
      by_cases hm : m = 64 + r
      · subst hm; rw [State.port_setPort]
      · rw [State.port_setPort_ne _ _ _ _ hm]

theorem State.port_of_ports {s t : State} (h : t.ports = s.ports) (m : Nat) : t.port m = s.port m := by
  unfold State.port
  rw [h]

/-- A port that loses its clock goes DOWN, and no other port changes its state (R150). -/
theorem State.linkDown_clockLost_st (s : State) (n m : Nat) :
    ((s.linkDown n 5).port m).st = if m = n then .down else (s.port m).st := by
  have hSet : ∀ (u : State) (x : Port), u.ports = s.ports → x.st = .down →
      ((u.setPort n x).port m).st = if m = n then .down else (s.port m).st := by
    intro u x hPorts hDown
    by_cases hm : m = n
    · subst hm; rw [State.port_setPort, if_pos rfl, hDown]
    · rw [State.port_setPort_ne _ _ _ _ hm, if_neg hm, State.port_of_ports hPorts]
  unfold State.linkDown
  simp only [true_or, if_true, show (5 : Nat) ≠ 8 by decide, if_false]
  split
  · split
    · rw [State.moveFrames_st, State.port_of_ports (State.raise_ports _ _ _ _ _)]
      exact hSet _ _ rfl rfl
    · rw [State.port_of_ports (State.raise_ports _ _ _ _ _)]
      exact hSet _ _ rfl rfl
  · exact hSet _ _ rfl rfl

theorem State.linkDown_clk (s : State) (n case : Nat) : (s.linkDown n case).clk = s.clk :=
  State.linkDown_keeps (ps := [.ports, .rsl, .evs, .ctrs, .fresh]) .rfl0 (by decide) .clk (by decide)

/-- One port loses its clock, and its loop is marked. -/
def State.portLost (s : State) (n : Nat) : State :=
  { s.linkDown n 5 with
    clk := { (s.linkDown n 5).clk with loopFault := Tab.set false (s.linkDown n 5).clk.loopFault (16 + n) true } }

theorem State.portsLost_cons (s : State) (n : Nat) (ns : List Nat) :
    s.portsLost (n :: ns) = (s.portLost n).portsLost ns := rfl

theorem State.portLost_clk (s : State) (n : Nat) :
    (s.portLost n).clk = { s.clk with loopFault := Tab.set false s.clk.loopFault (16 + n) true } := by
  unfold State.portLost
  rw [State.linkDown_clk]

theorem State.portLost_st (s : State) (n m : Nat) :
    ((s.portLost n).port m).st = if m = n then .down else (s.port m).st := State.linkDown_clockLost_st s n m

theorem State.portsLost_clk (s : State) (ns : List Nat) :
    (s.portsLost ns).clk = { s.clk with loopFault := (s.portsLost ns).clk.loopFault } := by
  induction ns generalizing s with
  | nil => rfl
  | cons n ns ih => rw [State.portsLost_cons, ih, State.portLost_clk]

/-- Every port that loses its clock ends DOWN. -/
theorem State.portsLost_st (s : State) (ns : List Nat) (m : Nat) :
    ((s.portsLost ns).port m).st = if m ∈ ns then .down else (s.port m).st := by
  induction ns generalizing s with
  | nil => rfl
  | cons n ns ih =>
    rw [State.portsLost_cons, ih, State.portLost_st]
    by_cases hRest : m ∈ ns <;> by_cases hHead : m = n <;> simp [hRest, hHead]

/-- Every port that loses its clock is marked, and no mark is taken away. -/
theorem State.portsLost_loopFault (s : State) (ns : List Nat) (m : Nat) :
    Tab.get false (s.portsLost ns).clk.loopFault (16 + m) =
      (decide (m ∈ ns) || Tab.get false s.clk.loopFault (16 + m)) := by
  induction ns generalizing s with
  | nil => rfl
  | cons n ns ih =>
    rw [State.portsLost_cons, ih, State.portLost_clk, Tab.get_set]
    by_cases hRest : m ∈ ns <;> by_cases hHead : m = n <;> simp [hRest, hHead]

theorem portsLost_down {s : State} {ps : List Nat} {n : Nat} (hMem : n ∈ ps) (hLt : n < 66) :
    let t := s.portsLost (ps.filter fun n => decide (n < 66))
    (t.port n).st ≠ .up ∧ (t.port n).st ≠ .swap ∧ Tab.get false t.clk.loopFault (16 + n) = true := by
  have hIn : n ∈ ps.filter fun n => decide (n < 66) := List.mem_filter.mpr ⟨hMem, decide_eq_true hLt⟩
  dsimp only
  rw [State.portsLost_st, State.portsLost_loopFault, if_pos hIn, decide_eq_true hIn]
  exact ⟨by decide, by decide, rfl⟩

/-! ## A control die that loses its loop -/

theorem State.sendTok_eq (s : State) (k : TokKind) (die od : Nat) :
    (s.sendTok k die od).tok = { s.tok with sent := (s.sendTok k die od).tok.sent } := by
  unfold State.sendTok
  split <;> rfl

/-- Token messages change nothing of the token state but what is on its way. -/
theorem State.sendToks_eq (s : State) (k : TokKind) (die : Nat) (ods : List Nat) :
    (s.sendToks k die ods).tok = { s.tok with sent := (s.sendToks k die ods).tok.sent } := by
  induction ods generalizing s with
  | nil => rfl
  | cons od ods ih =>
    have hTail : (s.sendToks k die (od :: ods)) = (s.sendTok k die od).sendToks k die ods := rfl
    rw [hTail, ih, State.sendTok_eq]

/-- The end of `State.activeStops`: without a tender that can take over, the pool has failed (R197). -/
theorem stopped_poolFatal {v : State} (fatal : Bool) (hSilent : v.tok.silent = true) (hPaused : v.twin.paused = true) :
    let t := if fatal then v.poolFatal 1 else v
    t.tok.silent = true ∧ t.twin.paused = true ∧ (fatal = true → t.tok.fatal.isSome = true) := by
  cases fatal with
  | false => exact ⟨hSilent, hPaused, fun hNot => absurd hNot Bool.false_ne_true⟩
  | true =>
    have hTwin : (v.poolFatal 1).twin = v.twin := v.poolFatal_frame 1 .twin (by decide)
    simp only [if_true, State.poolFatal_tok, hTwin]
    exact ⟨hSilent, hPaused, fun _ => rfl⟩

/-- The active die stops (R30, R368): it is silent, the outputs are held, and without a synchronised tender the pool has
failed (R197). -/
theorem State.activeStops_silent {s : State} {d : Nat} {speaks release : Bool} (hActive : s.tok.active = some d) :
    let t := s.activeStops speaks release
    t.tok.silent = true ∧ t.twin.paused = true ∧ (s.twin.tender ≠ .synced → t.tok.fatal.isSome = true) := by
  unfold State.activeStops
  simp only [hActive]
  refine (stopped_poolFatal (decide (s.twin.tender ≠ .synced)) ?_ ?_).imp_right
    (And.imp_right fun hFatal hTender => hFatal (decide_eq_true hTender))
  · split
    · rw [State.sendToks_eq]
    · rfl
  · split
    · exact congrArg Twin.paused (State.sendToks_keeps (ps := [.tok]) .rfl0 (by decide) .twin (by decide))
    · rfl

/-- A die that is restarted, or held, is no tender that takes the copy (R354). -/
theorem State.restartPolicy_tender (s : State) :
    (s.restartPolicy false).twin.tender = .resetting ∨ (s.restartPolicy false).twin.tender = .held := by
  unfold State.restartPolicy
  rw [if_neg Bool.false_ne_true]
  split
  · exact .inl rfl
  · rw [State.raise_twin]
    exact .inr rfl

theorem State.restartPolicy_active (s : State) (gone : Bool) : (s.restartPolicy gone).tok.active = s.tok.active := by
  unfold State.restartPolicy
  split
  · rfl
  · split
    · rfl
    · rw [State.raise_tok]

/-- A tender that is lost takes the copy no more and checks no pair (R307, R354). -/
theorem State.loseTender_tender (s : State) :
    (s.loseTender false).twin.tender ≠ .synced ∧ (s.loseTender false).twin.tender ≠ .paired ∧
      (s.loseTender false).twin.tender ≠ .resync := by
  have hRestart : ∀ u : State, (u.restartPolicy false).twin.tender ≠ .synced ∧
      (u.restartPolicy false).twin.tender ≠ .paired ∧ (u.restartPolicy false).twin.tender ≠ .resync := by
    intro u
    rcases u.restartPolicy_tender with h | h <;> simp [h]
  unfold State.loseTender
  split
  · exact hRestart _
  · exact hRestart _
  · exact hRestart _
  · next h => simp [h]
  · next h => simp [h]
  · next h => simp [h]

theorem State.endPaired_tok (s : State) (code value : Nat) : (s.endPaired code value).tok = s.tok :=
  State.endPaired_keeps (ps := [.repro, .twin, .rsl, .ctrs]) .rfl0 (by decide) .tok (by decide)

theorem State.dropCopy_tok (s : State) : s.dropCopy.tok = s.tok :=
  State.dropCopy_keeps (ps := [.fab, .twin, .sec, .rsl, .ctrs]) .rfl0 (by decide) .tok (by decide)

theorem State.loseTender_active (s : State) (gone : Bool) : (s.loseTender gone).tok.active = s.tok.active := by
  unfold State.loseTender
  split
  · rw [State.restartPolicy_active, State.endPaired_tok, State.dropCopy_tok, State.raise_tok]
  · rw [State.restartPolicy_active, State.endPaired_tok, State.dropCopy_tok, State.raise_tok]
  · rw [State.restartPolicy_active, State.endPaired_tok, State.raise_tok]
  · split <;> rfl
  · split <;> rfl
  · rfl

/-- The loss of the active die, its rails still up (R55). -/
theorem State.dieLost_active {s : State} {die : Nat} (hActive : s.tok.active = some die) :
    s.dieLost die false = s.activeStops true true := by
  simp [State.dieLost, hActive]

/-- The loss of the die that is not active, its rails still up (R55, R354). -/
theorem State.dieLost_tender {s : State} {die d : Nat} (hActive : s.tok.active = some d) (hOther : d ≠ die) :
    s.dieLost die false = s.loseTender false := by
  simp [State.dieLost, hActive, hOther]

/-- The loss of a die while neither is active (R55). -/
theorem State.dieLost_beforeActive {s : State} {die : Nat} (hNone : s.tok.active = none)
    (hLoop : Tab.get false s.clk.loopFault die = true) :
    let t := s.dieLost die false
    t.dieDead die = true ∧ (die = dieCdA → t.boot.readyA = false) ∧ (die = dieCdB → t.boot.readyB = false) ∧
      t.tok.claimant ≠ some die := by
  unfold State.dieLost
  simp only [hNone, reduceCtorEq, if_false, Option.isSome_none, Bool.false_eq_true]
  refine ⟨?_, ?_, ?_, ?_⟩
  · simp [State.dieDead, hLoop]
  · intro h; simp [h]
  · intro h; simp [h]
  · split
    · exact nofun
    · next h => exact h

theorem State.dieLost_beforeActive_keeps {ps : List Area} {s0 s : State} {die : Nat} (hNone : s.tok.active = none)
    (hK : KeepsBut ps s0 s) (hS : [.boot, .tok, .twin] ⊆ ps) : KeepsBut ps s0 (s.dieLost die false) := by
  unfold State.dieLost
  simp only [hNone, reduceCtorEq, if_false, Option.isSome_none, Bool.false_eq_true]
  exact upd_boot_tok_twin hK hS

/-! ## The statement -/

/-- Settles O6: the crystals by which of them is flagged already, a lost loop by the loss it is handled as. -/
theorem crystalsAndLoopsFailOverOrFail : Obligations.CrystalsAndLoopsFailOverOrFail := by
  refine ⟨fun xb s hRun hA hB => ?_, fun xb s hRun hFatal hOwn hOther => ?_, fun xb n s hRun hA hB => ⟨?_, ?_⟩,
    crystalOff_xb_iff, fun s hHold => ?_, fun die ps s hRun hRef => ⟨fun hDie => ?_, ?_, ?_, ?_, ?_⟩⟩
  · exact does_intro rfl (flagCrystal_first_effect xb hRun hA hB)
  · obtain ⟨hClk, hTok⟩ := flagCrystal_second_effect hRun hFatal hOwn hOther
    exact does_intro rfl ⟨hClk, hTok, State.flagCrystal_keeps .rfl0 (by decide)⟩
  · intro hOff
    obtain ⟨hClk, -, hKeeps⟩ := flagCrystal_first_effect xb hRun hA hB
    exact does_intro (exec_crystalFrequencyFlag hA hB) (by rw [if_pos hOff]; exact ⟨hClk, hKeeps⟩)
  · intro hOff
    exact does_intro (exec_crystalFrequencyFlag hA hB) (by rw [hOff]; rfl)
  · exact does_intro (exec_crystalHoldEnd hHold) ⟨rfl, upd_clk .rfl0 (by decide)⟩
  · exact does_intro (exec_loopLockLoss_ports hRun hRef hDie)
      ⟨fun n hMem hLt => portsLost_down hMem hLt, State.portsLost_clk _ _, State.portsLost_keeps .rfl0 (by decide)⟩
  · intro hub hHub hHere hDie
    subst hDie
    exact does_intro (exec_loopLockLoss_hub hRun hRef hHub)
      ⟨State.hubLoss_hubGone hHere, fun n hN hOf => State.hubLoss_failed hHere hN hOf,
        State.hubLoss_keeps .rfl0 (by decide)⟩
  · intro hDie hActive
    have hExec := exec_loopLockLoss_die (ps := ps) hRun hRef hDie
    rw [State.dieLost_active (s := s.markLoop die) hActive] at hExec
    obtain ⟨hSilent, hPaused, hFatal⟩ := State.activeStops_silent (s := s.markLoop die) (speaks := true)
      (release := true) hActive
    have hClk : ((s.markLoop die).activeStops true true).clk = (s.markLoop die).clk :=
      State.activeStops_keeps (ps := [.tok, .fab, .twin, .evs, .ctrs]) .rfl0 (by decide) .clk (by decide)
    exact does_intro hExec ⟨hClk, hSilent, hPaused, hFatal,
      State.activeStops_keeps (State.markLoop_keeps .rfl0 (by decide)) (by decide)⟩
  · intro hDie hActive
    have hExec := exec_loopLockLoss_die (ps := ps) hRun hRef hDie
    rw [State.dieLost_tender (s := s.markLoop die) hActive (by omega)] at hExec
    obtain ⟨hSynced, hPaired, hResync⟩ := State.loseTender_tender (s.markLoop die)
    exact does_intro hExec ⟨hSynced, hPaired, hResync, State.loseTender_active (s.markLoop die) false,
      State.loseTender_keeps (State.markLoop_keeps .rfl0 (by decide)) (by decide)⟩
  · intro hDie hNone
    obtain ⟨hDead, hA, hB, hClaim⟩ :=
      State.dieLost_beforeActive (s := s.markLoop die) hNone (s.markLoop_loopFault die)
    exact does_intro (exec_loopLockLoss_die hRun hRef hDie) ⟨hDead, hA, hB, hClaim,
      State.dieLost_beforeActive_keeps hNone (State.markLoop_keeps .rfl0 (by decide)) (by decide)⟩

end Sys2Proof.Machine
end

section
/-! Fabric time (chapter 3): what a time message does at its port, and how a source is taken, lost and found again. -/

namespace Sys2Proof.Machine
open Sys2Proof

/-! ## A control flit at a port that is UP (R130, R131, R135) -/

theorem headerTaken_keeps {ps : List Area} {s0 s : State} {n : Nat} {f : RawFlit} (hK : KeepsBut ps s0 s)
    (hS : [.ports, .fab, .ctrs] ⊆ ps) : KeepsBut ps s0 (headerTaken s n f) :=
  State.goodFlit_keeps (State.bumpPort_keeps hK (sub (by decide) hS)) hS

theorem headerTaken_frame (s : State) (n : Nat) (f : RawFlit) :
    KeepsBut [.ports, .fab, .ctrs] s (headerTaken s n f) := headerTaken_keeps .rfl0 (by decide)

theorem headerTaken_clk (s : State) (n : Nat) (f : RawFlit) : (headerTaken s n f).clk = s.clk :=
  headerTaken_frame s n f .clk (by decide)

theorem headerTaken_cfgAt (s : State) (n : Nat) (f : RawFlit) (id : Nat) :
    (headerTaken s n f).cfgAt id = s.cfgAt id := by
  have hCfg : (headerTaken s n f).cfg = s.cfg := headerTaken_frame s n f .cfg (by decide)
  unfold State.cfgAt
  rw [hCfg]

/-- A flit of the type looked for that passed its checks is taken, its header first. -/
theorem control_good {s : State} {n typ : Nat} {f : RawFlit} {k : State → State} (hUp : s.portUp n = true)
    (h : CtlGood n f typ) : s.control n f typ k = k (headerTaken s n f) := by
  obtain ⟨hOk, hFormed, hKind, hTyp, hAllowed, hSwap⟩ := h
  have hSwapOk : ¬ (typ = typLaneSwap ∧ rawSwapFormed f = false) := fun ⟨hIs, hNot⟩ =>
    Bool.false_ne_true (hNot.symm.trans (hSwap hIs))
  simp [State.control, State.onControl, headerTaken, hUp, hOk, hFormed, hKind, hTyp, hAllowed, hSwapOk]

/-- A bad flit is asked for again, and its content not looked at. -/
theorem control_bad {s : State} {n typ : Nat} {f : RawFlit} {k : State → State} (hUp : s.portUp n = true)
    (hBad : rawBad f = true) : s.control n f typ k = (s.bumpPort n 3 f.fecBad).badFlit n := by
  simp [State.control, State.onControl, hUp, hBad]

theorem bumpPort_module {n : Nat} (h : isRsl n = false) (s : State) (c k : Nat) :
    s.bumpPort n c k = s.bump 1 n c k := by
  have hLt : n < 64 := by simpa [isRsl] using h
  simp [State.bumpPort, portGroup, hLt]

/-! ## Choosing a source (R82 to R87) -/

theorem State.raiseTime_frame (s : State) (code sev : Nat) : KeepsBut [.evs, .ctrs] s (s.raiseTime code sev) :=
  State.raise_frame _ _ _ _ _

@[simp] theorem State.raiseTime_clk (s : State) (code sev : Nat) : (s.raiseTime code sev).clk = s.clk :=
  s.raiseTime_frame code sev .clk (by decide)

@[simp] theorem State.raiseTime_ports (s : State) (code sev : Nat) : (s.raiseTime code sev).ports = s.ports :=
  s.raiseTime_frame code sev .ports (by decide)

/-- A new source is recorded, and neither the time nor its state moves (R83). -/
theorem State.takeSource_clk (s : State) (n : Nat) :
    (s.takeSource n).clk = { s.clk with
      source := some n, lastSource := some n, hops := (s.port n).timeHops, okRun := 0, badRun := 0 } := by
  unfold State.takeSource
  dsimp only
  split
  · rw [State.raiseTime_clk]
  · rfl

/-- A step is ordered for a boundary to come: until then the time stands (R87). -/
theorem State.stepClock_clk (s : State) (n t : Nat) :
    ∃ e, (s.stepClock n t).clk = { s.clk with stepTo := some e, okRun := 0, badRun := 0 } := ⟨_, rfl⟩

theorem now_ite {c : Prop} [Decidable c] {a b : State} {x : Nat} (hA : a.clk.now = x) (hB : b.clk.now = x) :
    (if c then a else b).clk.now = x := by
  split
  · exact hA
  · exact hB

/-- Looking for a source moves no time: a step waits for its boundary (R87). -/
theorem State.reviewSource_now (s : State) (t : Nat) : (s.reviewSource t).clk.now = s.clk.now := by
  have hTake : ∀ n, (s.takeSource n).clk.now = s.clk.now := fun n => by rw [State.takeSource_clk]
  unfold State.reviewSource
  refine now_ite rfl ?_
  dsimp only
  split
  · split
    · exact now_ite (hTake _) (hTake _)
    · exact hTake _
    · exact hTake _
    · exact hTake _
  · exact now_ite rfl rfl

theorem State.reviewSource_ports (s : State) (t : Nat) : (s.reviewSource t).ports = s.ports :=
  State.reviewSource_keeps (ps := [.clk, .evs, .ctrs, .fresh]) .rfl0 (by decide) .ports (by decide)

/-- With no port usable there is no best source. -/
theorem State.bestSource_none {s : State} (near : Bool) (h : ∀ n, n < 64 → s.timeUsable n = false) :
    s.bestSource near = none := by
  have hNone : (List.range 64).filter
      (fun n => s.timeUsable n && (!near || within (s.port n).timeOffset 1000)) = [] := by
    refine List.filter_eq_nil_iff.mpr fun n hn => ?_
    simp [h n (List.mem_range.mp hn)]
  unfold State.bestSource
  dsimp only
  rw [hNone]
  rfl

/-- The chosen source is lost and no port can replace it: time that was locked is held over (R85). -/
theorem State.reviewSource_lost {s : State} {p : Nat} (t : Nat) (hSource : s.clk.source = some p)
    (hLost : s.timeUsable p = false) (hNone : ∀ n, n < 64 → s.timeUsable n = false) :
    s.reviewSource t = { s with clk :=
      if s.clk.tstate = .locked
      then { s.clk with source := none, okRun := 0, badRun := 0, tstate := .holdover, holdSince := s.epoch }
      else { s.clk with source := none, okRun := 0, badRun := 0 } } := by
  unfold State.reviewSource
  rw [hSource]
  dsimp only
  rw [if_neg (ne_true_of_eq_false hLost), State.bestSource_none _ hNone]
  dsimp only
  by_cases hLocked : s.clk.tstate = .locked
  · rw [if_pos hLocked, if_pos hLocked]
    rfl
  · rw [if_neg hLocked, if_neg hLocked]

/-! ## A time message (R81, R83, R84) -/

/-- Steering the counter moves no time by itself (R84). -/
theorem State.steer_now (s : State) (n : Nat) (o : Int) : (s.steer n o).clk.now = s.clk.now := by
  unfold State.steer
  refine now_ite rfl (now_ite ?_ rfl)
  dsimp only
  split
  · rfl
  · rw [State.raiseTime_clk]
  · rfl
  · rfl

/-- An offset of the source changes at its port at most whether it is rejected (R84). -/
theorem State.steer_port (s : State) (n : Nat) (o : Int) :
    ∃ r, (s.steer n o).port n = { s.port n with timeRejected := r } := by
  have hSame : ∀ t : State, t.ports = s.ports → ∃ r, t.port n = { s.port n with timeRejected := r } := fun t h =>
    ⟨_, State.port_of_ports h n⟩
  unfold State.steer
  refine iteInduction (motive := fun t : State => ∃ r, t.port n = { s.port n with timeRejected := r })
    (fun _ => ⟨true, State.port_setPort _ _ _⟩) fun _ =>
    iteInduction (motive := fun t : State => ∃ r, t.port n = { s.port n with timeRejected := r })
      (fun _ => ?_) fun _ => hSame _ rfl
  dsimp only
  split
  · exact hSame _ rfl
  · exact hSame _ (State.raiseTime_ports _ _ _)
  · exact hSame _ rfl
  · exact hSame _ rfl

/-- What a valid time message leaves at its port: HOPS, the offset `o` and, from a locked sender, the epoch (R83). -/
def Port.timed (p : Port) (o : Int) (hops flags epoch : Nat) : Port :=
  { p with
    timeHops := hops, timeOffset := o, timeRejected := p.timeRejected && !within o 1000,
    timeEpoch := if flags = 1 then some epoch else p.timeEpoch }

/-- The local count's offset against a message of time `stamp` that came at `arrival` (R83). -/
def Port.offsetOf (p : Port) (stamp arrival : Nat) : Int := (arrival : Int) - ((stamp : Int) + p.delay.getD 0)

section Message
variable {s : State} {port stamp domain hops flags resv arrival : Nat}

theorem State.takeTime_refused (h : domain ≠ s.cfgAt fTimeDomain ∨ flags % 2 ≠ 1 ∨ 4 ≤ flags ∨ resv ≠ 0) :
    s.takeTime port stamp domain hops flags resv arrival = s.bumpPort port 23 1 := if_pos h

theorem State.takeTime_valid (hDomain : domain = s.cfgAt fTimeDomain) (hFlags : flags = 1 ∨ flags = 3)
    (hResv : resv = 0) :
    let o := (s.port port).offsetOf stamp arrival
    let u := s.setPort port ((s.port port).timed o hops flags s.epoch)
    s.takeTime port stamp domain hops flags resv arrival =
      (if u.clk.source = some port then u.steer port o else u).reviewSource arrival := by
  have hValid : ¬ (domain ≠ s.cfgAt fTimeDomain ∨ flags % 2 ≠ 1 ∨ 4 ≤ flags ∨ resv ≠ 0) := by
    rcases hFlags with rfl | rfl <;> simp [hDomain, hResv]
  exact if_neg hValid

theorem State.takeTime_port (hDomain : domain = s.cfgAt fTimeDomain) (hFlags : flags = 1 ∨ flags = 3)
    (hResv : resv = 0) :
    ∃ r, (s.takeTime port stamp domain hops flags resv arrival).port port =
      { (s.port port).timed ((s.port port).offsetOf stamp arrival) hops flags s.epoch with timeRejected := r } := by
  rw [State.takeTime_valid hDomain hFlags hResv, State.port_of_ports (State.reviewSource_ports _ _)]
  split
  · obtain ⟨r, hPort⟩ := State.steer_port (s.setPort port ((s.port port).timed
      ((s.port port).offsetOf stamp arrival) hops flags s.epoch)) port ((s.port port).offsetOf stamp arrival)
    rw [State.port_setPort] at hPort
    exact ⟨r, hPort⟩
  · exact ⟨_, State.port_setPort _ _ _⟩

theorem State.takeTime_now : (s.takeTime port stamp domain hops flags resv arrival).clk.now = s.clk.now := by
  unfold State.takeTime
  refine now_ite rfl ((State.reviewSource_now _ _).trans (now_ite (State.steer_now _ _ _) rfl))

end Message

/-! ## Fabric time is lost, and found again (R85, R87, R88) -/

theorem State.rslDone_fab (s : State) (cmd tag port code value : Nat) (data : List Byte) :
    (s.rslDone cmd tag port code value data).fab = s.fab :=
  State.rslDone_keeps (ps := [.twin, .rsl, .ctrs]) .rfl0 (by decide) .fab (by decide)

/-- The completion of a class-3 command switches no gate. -/
theorem finish_gatesOff (s : State) (v : Via) (cmd rsp code value : Nat) (body extra : List Byte) :
    (s.finish v cmd rsp code value body extra).fab.gatesOff = s.fab.gatesOff := by
  have hSend : ∀ (u : State) (m : OutMsg), (u.send m).fab.gatesOff = u.fab.gatesOff := fun _ _ => rfl
  unfold State.finish
  dsimp only
  split
  · rw [hSend]
    split
    · rw [countPoison_fab]
    · dsimp only
      rw [State.logChange_fab, countPoison_fab]
  · rw [State.rslDone_fab, countPoison_fab]
  · split
    · rw [State.rslDone_fab]
      exact congrArg Fabric.gatesOff (countPoison_fab _ _ _)
    · rw [State.rslDone_fab, countPoison_fab]

theorem foldl_gatesOff {α : Type} {f : State → α → State} (hf : ∀ s x, (f s x).fab.gatesOff = s.fab.gatesOff)
    (l : List α) (s : State) : (l.foldl f s).fab.gatesOff = s.fab.gatesOff := by
  induction l generalizing s with
  | nil => rfl
  | cons a l ih => exact (ih _).trans (hf _ _)

theorem endBarrier_gatesOff (s : State) (b code value : Nat) :
    (s.endBarrier b code value).fab.gatesOff = s.fab.gatesOff := by
  refine (foldl_gatesOff (fun _ _ => finish_gatesOff _ _ _ _ _ _ _ _) _ _).trans ?_
  rw [State.logChange_fab]

theorem endBarriers_gatesOff (s : State) : s.endBarriers.fab.gatesOff = s.fab.gatesOff :=
  foldl_gatesOff (fun _ _ => endBarrier_gatesOff _ _ _ _) _ _

/-- Fabric time is lost: the state says so, and no gate opens until it is found again (R88). -/
theorem State.loseTime_lost (s : State) :
    s.loseTime.clk = { s.clk with tstate := .lost } ∧ s.loseTime.fab.gatesOff = true := by
  unfold State.loseTime
  refine ⟨?_, ?_⟩
  · exact (State.endBarriers_keeps (ps := [.fab, .repro, .twin, .sec, .rsl, .ctrs]) .rfl0 (by decide) .clk
      (by decide)).trans (State.raiseTime_clk _ _ _)
  · rw [endBarriers_gatesOff]
    exact congrArg Fabric.gatesOff (State.raiseTime_frame _ _ _ .fab (by decide))

/-- TIME_RELOCK as carried out: the port is taken as source and a step to its time is ordered (R85, R87). -/
def State.relock (s : State) (n : Nat) : State := (s.takeSource n).stepClock n s.clk.now

theorem State.takeSource_rsl (s : State) (n : Nat) : (s.takeSource n).rsl = s.rsl :=
  State.takeSource_keeps (ps := [.clk, .evs, .ctrs]) .rfl0 (by decide) .rsl (by decide)

theorem State.relock_clk (s : State) (n : Nat) :
    (s.relock n).clk.source = some n ∧ (s.relock n).clk.stepTo.isSome = true ∧ (s.relock n).clk.now = s.clk.now ∧
      (s.relock n).clk.tstate = s.clk.tstate := by
  obtain ⟨e, hStep⟩ := (s.takeSource n).stepClock_clk n s.clk.now
  rw [State.takeSource_clk] at hStep
  unfold State.relock
  rw [hStep]
  exact ⟨rfl, rfl, rfl, rfl⟩

/-! ## The commands -/

theorem exec_time_good {s : State} {port arr : Nat} {f : RawFlit} (hUp : s.portUp port = true)
    (hGood : CtlGood port f typTime) :
    exec (.time port f arr) s = .next ((headerTaken s port f).takeTime port (rawField f 0 8) (rawField f 8 2)
      (rawField f 10 1) (rawField f 11 1) (rawField f 12 4) arr) := by
  obtain ⟨hOk, -⟩ := id hGood
  simp only [exec, execTime, control_good hUp hGood, hOk, Bool.and_false, Bool.false_eq_true, if_false]

/-- A time message in a flit that fails its CRC is counted beside the bad flit (R81). -/
theorem exec_time_bad {s : State} {port arr : Nat} {f : RawFlit} (hModule : isRsl port = false)
    (hUp : s.portUp port = true) (hBad : rawBad f = true) :
    exec (.time port f arr) s = .next (((s.bumpPort port 3 f.fecBad).badFlit port).bump 1 port 23 1) := by
  simp only [exec, execTime, control_bad hUp hBad, hUp, hModule, hBad, Bool.not_false, Bool.and_self, if_true,
    bumpPort_module hModule]

theorem exec_timeSourceIneligible {s : State} {port : Nat} (hSource : s.clk.source = some port)
    (hLost : s.timeUsable port = false) :
    exec (.timeSourceIneligible port) s = .next (s.reviewSource s.clk.now) := by
  simp only [exec, execTimeSourceIneligible, hSource, hLost, Bool.not_false, and_self, if_true]

theorem exec_holdoverExpiry {s : State} (hHeld : s.clk.tstate = .holdover) (hEnd : s.clk.holdSince + 64 ≤ s.epoch) :
    exec .holdoverExpiry s = .next s.loseTime := by
  simp only [exec, execHoldoverExpiry, hHeld, hEnd, and_self, if_true]

theorem State.rslAnswer_clk (s : State) (c : RslCmd) (cmd code value : Nat) (data : List Byte) :
    (s.rslAnswer c cmd code value data).clk = s.clk :=
  State.rslAnswer_keeps (ps := [.twin, .rsl, .ctrs]) .rfl0 (by decide) .clk (by decide)

/-- How far the step that is ordered moves the epoch number (R87). -/
def State.stepDelta (s : State) : Int := (s.clk.stepTo.getD 0 : Int) - (s.epoch + 1 : Nat)

theorem exec_timeRelock {s : State} {c : RslCmd} {n : Nat} (hServed : RslServed s c 0x113)
    (hLost : s.clk.tstate = .lost) (hPort : s.relockPort = some n) :
    let r := (afterOpen s c 0x113).relock n
    exec (.timeRelock c) s =
      .next ((r.raise 0x0113 sevWarning diePd (sBytes 8 r.stepDelta)).rslAnswer c 0x113 cOk 0 []) := by
  have hPortOpen : (afterOpen s c 0x113).relockPort = some n := hPort
  have hLostOpen : ¬ (afterOpen s c 0x113).clk.tstate ≠ .lost := not_not_intro hLost
  simp only [exec, execTimeRelock]
  rw [rslGate_served hServed rfl]
  simp only [hPortOpen, hLostOpen, if_false]
  rfl

/-- Settles O7: each command by its equation, then by what the operation that it comes to leaves. -/
theorem fabricTimeFollowsItsSource : Obligations.FabricTimeFollowsItsSource := by
  refine ⟨fun port f arr s _ hUp hGood hDomain hFlags hResv => ?_,
    fun port f arr s hModule hUp hGood hRefused => ?_, fun port f arr s hModule hUp hBad => ?_,
    fun port s hSource hLost hNone => ?_, fun s hHeld hEnd => ?_, fun c n s hServed hLost hPort => ?_⟩
  · have hEpoch : (headerTaken s port f).epoch = s.epoch :=
      congrArg (fun c : Clocks => c.now / 4096) (headerTaken_clk s port f)
    obtain ⟨r, hAt⟩ := State.takeTime_port (s := headerTaken s port f) (port := port) (stamp := rawField f 0 8)
      (hops := rawField f 10 1) (arrival := arr) (hDomain.trans (headerTaken_cfgAt _ _ _ _).symm) hFlags hResv
    refine does_intro (exec_time_good hUp hGood) ⟨?_, ?_, fun hLocked => ?_, ?_, ?_⟩
    · rw [hAt]; rfl
    · rw [hAt]; rfl
    · rw [hAt, ← hEpoch]; exact if_pos hLocked
    · rw [State.takeTime_now, headerTaken_clk]
    · exact State.takeTime_keeps (headerTaken_keeps .rfl0 (by decide)) (by decide)
  · rw [← headerTaken_cfgAt s port f] at hRefused
    refine does_intro (exec_time_good hUp hGood) ?_
    rw [State.takeTime_refused hRefused, bumpPort_module hModule]
    exact ⟨rfl, headerTaken_clk _ _ _, State.bump_keeps (headerTaken_keeps .rfl0 (by decide)) (by decide)⟩
  · refine does_intro (exec_time_bad hModule hUp hBad) ⟨rfl, ?_, ?_⟩
    · exact State.port_setPort _ _ _
    · exact State.bump_keeps (State.badFlit_keeps (State.bumpPort_keeps .rfl0 (by decide)) (by decide)) (by decide)
  · refine does_intro (exec_timeSourceIneligible hSource hLost) ?_
    rw [State.reviewSource_lost _ hSource hLost hNone]
    refine ⟨?_, ?_, fun hLocked => ?_, upd_clk .rfl0 (by decide)⟩
    · dsimp only; split <;> rfl
    · dsimp only; split <;> rfl
    · rw [if_pos hLocked]
  · obtain ⟨hClk, hGates⟩ := s.loseTime_lost
    exact does_intro (exec_holdoverExpiry hHeld hEnd) ⟨hClk, hGates, State.loseTime_keeps .rfl0 (by decide)⟩
  · obtain ⟨hSource, hStep, hNow, hState⟩ := (afterOpen s c 0x113).relock_clk n
    refine does_intro (exec_timeRelock hServed hLost hPort) ⟨answered_of ?_, ?_, ?_⟩
    · rw [State.raise_rsl]; exact State.takeSource_rsl _ _
    · dsimp only
      rw [State.rslAnswer_clk, State.raise_clk]
      exact ⟨hSource, hStep, hNow, hState.trans hLost⟩
    · exact State.rslAnswer_keeps (State.raise_keeps (State.stepClock_keeps (State.takeSource_keeps .rfl0 (by decide))
        (by decide)) (by decide)) (by decide)

end Sys2Proof.Machine
end


section
/-! Route versions, policers and circuits (chapter 6): what each table reads after the write that a command makes to it,
and what a completion on the service link leaves of them. -/

namespace Sys2Proof.Machine
open Sys2Proof

/-! ## A completed command of the service link -/

theorem KeepsBut.mono {ps qs : List Area} {s t : State} (h : KeepsBut ps s t) (hS : ps ⊆ qs) : KeepsBut qs s t :=
  fun p hp => h p fun hq => hp (hS hq)

theorem State.rslAnswer_fab (s : State) (c : RslCmd) (cmd code value : Nat) (data : List Byte) :
    (s.rslAnswer c cmd code value data).fab = s.fab := State.rslDone_fab _ _ _ _ _ _ _

/-- A command that is answered OK in state `u`: what holds of the port die's tables in `u` holds of them after the
answer. -/
theorem rslRuns_of_answer {i : Instr} {s u : State} {c : RslCmd} {cmd value : Nat} {data : List Byte} {ps : List Area}
    {p : State → Prop} (hExec : exec i s = .next (u.rslAnswer c cmd cOk value data))
    (hKeeps : KeepsBut ps (afterOpen s c cmd) u) (hRsl : Area.rsl ∉ ps) (hp : ∀ t : State, t.fab = u.fab → p t) :
    RslRuns i s c cmd value data ps p :=
  does_intro hExec ⟨answered_of (hKeeps .rsl hRsl), hp _ (State.rslAnswer_fab _ _ _ _ _ _),
    (hKeeps.mono (List.subset_append_right _ _)).trans
      ((rslAnswer_keepsBut_cplParts _ _ _ _ _ _).mono (List.subset_append_left _ _))⟩

section Opened
/-! A command that is counted and open has changed nothing that its handling looks at. -/

variable (s : State) (c : RslCmd) (cmd : Nat)

@[simp] theorem afterOpen_fab : (afterOpen s c cmd).fab = s.fab := rfl
@[simp] theorem afterOpen_epoch : (afterOpen s c cmd).epoch = s.epoch := rfl
@[simp] theorem afterOpen_timeless : (afterOpen s c cmd).timeless = s.timeless := rfl
@[simp] theorem afterOpen_cfgIx (id i : Nat) : (afterOpen s c cmd).cfgIx id i = s.cfgIx id i := rfl
@[simp] theorem afterOpen_routes (v : Nat) : (afterOpen s c cmd).routes v = s.routes v := rfl
@[simp] theorem afterOpen_routeState (v : Nat) : (afterOpen s c cmd).routeState v = s.routeState v := rfl
@[simp] theorem afterOpen_currentVersion : (afterOpen s c cmd).currentVersion = s.currentVersion := rfl
@[simp] theorem afterOpen_circuit (k : Nat) : (afterOpen s c cmd).circuit k = s.circuit k := rfl
@[simp] theorem afterOpen_portWindows (n : Nat) : (afterOpen s c cmd).portWindows n = s.portWindows n := rfl

end Opened

/-! ## Route versions (R158) -/

section Routes
variable {s t : State}

theorem State.routes_of_fab (h : t.fab = s.fab) (v : Nat) : t.routes v = s.routes v := by
  unfold State.routes
  rw [h]

theorem State.routeState_of_fab (h : t.fab = s.fab) (v : Nat) : t.routeState v = s.routeState v := by
  unfold State.routeState
  rw [h]

@[simp] theorem State.routeState_setRouteState (s : State) (v : Nat) (x : RouteState) :
    (s.setRouteState v x).routeState v = x := by
  by_cases h : v = 0 <;> simp [State.setRouteState, State.routeState, h]

@[simp] theorem State.routes_setRoutes (s : State) (v : Nat) (r : Tab (BitVec 32)) :
    (s.setRoutes v r).routes v = r := by
  by_cases h : v = 0 <;> simp [State.setRoutes, State.routes, h]

theorem State.routeState_setRouteState_other {v : Nat} (hV : v ≤ 1) (s : State) (x : RouteState) :
    (s.setRouteState v x).routeState (1 - v) = s.routeState (1 - v) := by
  obtain rfl | rfl : v = 0 ∨ v = 1 := by omega
  · rfl
  · rfl

theorem State.routes_setRoutes_other {v : Nat} (hV : v ≤ 1) (s : State) (r : Tab (BitVec 32)) :
    (s.setRoutes v r).routes (1 - v) = s.routes (1 - v) := by
  obtain rfl | rfl : v = 0 ∨ v = 1 := by omega
  · rfl
  · rfl

@[simp] theorem State.routes_setRouteState (s : State) (v w : Nat) (x : RouteState) :
    (s.setRouteState v x).routes w = s.routes w := by
  unfold State.setRouteState; split <;> rfl

@[simp] theorem State.routeState_setRoutes (s : State) (v w : Nat) (r : Tab (BitVec 32)) :
    (s.setRoutes v r).routeState w = s.routeState w := by
  unfold State.setRoutes; split <;> rfl

@[simp] theorem State.setRoutes_unbound (s : State) (v : Nat) (r : Tab (BitVec 32)) :
    (s.setRoutes v r).fab.unbound = s.fab.unbound := by
  unfold State.setRoutes; split <;> rfl

@[simp] theorem State.setRoutes_policers (s : State) (v : Nat) (r : Tab (BitVec 32)) :
    (s.setRoutes v r).fab.policers = s.fab.policers := by
  unfold State.setRoutes; split <;> rfl

@[simp] theorem State.setRouteState_commitOwed (s : State) (v : Nat) (x : RouteState) :
    (s.setRouteState v x).fab.commitOwed = s.fab.commitOwed := by
  unfold State.setRouteState; split <;> rfl

end Routes

/-! ### ROUTE_LOAD, ROUTE_COMMIT and ROUTE_DRAINED (R158, R159) -/

section RouteLoad
variable {s : State} {c : RslCmd} {v first : Nat} {es : List (BitVec 32)} (hV : v ≤ 1) (hSome : es ≠ [])
  (hLen : es.length ≤ 256) (hEnd : first + es.length ≤ 4104) (hGood : es.any entryBad = false)
  (hServed : RslServed s c 0x120)
include hV hSome hLen hEnd hGood

/-- Operands within the bounds of R159, and entries that keep R156, are not MALFORMED. -/
theorem routeLoad_formed :
    ¬ (1 < v ∨ es.length = 0 ∨ 256 < es.length ∨ 4104 < first + es.length ∨ es.any entryBad = true) := by
  have hNone : es.length ≠ 0 := fun h => hSome (List.length_eq_zero_iff.mp h)
  simp only [hGood, Bool.false_eq_true, or_false]
  omega

include hServed

/-- Entries of a version that is LOADING are written into its table. -/
theorem exec_routeLoad_loading (hLoading : s.routeState v = .loading) :
    exec (.routeLoad c v first es) s =
      .next (((afterOpen s c 0x120).setRoutes v (writeRoutes (s.routes v) first es)).rslAnswer c 0x120 cOk 0 []) := by
  simp only [exec, execRouteLoad, rslGate_served hServed rfl, if_neg (routeLoad_formed hV hSome hLen hEnd hGood),
    afterOpen_routeState, afterOpen_routes, hLoading]

/-- Entries of a FREE version are written over a copy of the current table, and the version is LOADING. -/
theorem exec_routeLoad_free (hFree : s.routeState v = .free) :
    exec (.routeLoad c v first es) s =
      .next ((((afterOpen s c 0x120).setRoutes v (writeRoutes (s.routes s.currentVersion) first es)).setRouteState v
        .loading).rslAnswer c 0x120 cOk 0 []) := by
  simp only [exec, execRouteLoad, rslGate_served hServed rfl, if_neg (routeLoad_formed hV hSome hLen hEnd hGood),
    afterOpen_routeState, afterOpen_routes, afterOpen_currentVersion, hFree]

end RouteLoad

theorem exec_routeCommit_loading {s : State} {c : RslCmd} {v : Nat} (hServed : RslServed s c 0x121) (hV : v ≤ 1)
    (hLoading : s.routeState v = .loading) :
    let r := (afterOpen s c 0x121).setRouteState v .pending
    exec (.routeCommit c v) s = .next { r with fab := { r.fab with commitOwed := r.fab.commitOwed ++ [.rsl c] } } := by
  simp only [exec, execRouteCommit, rslGate_served hServed rfl, Nat.not_lt.mpr hV, if_false, afterOpen_routeState,
    hLoading]

theorem exec_routeDrained_empty {s : State} {v : Nat} (hV : v ≤ 1) (hDraining : s.routeState v = .draining)
    (hEmpty : s.inflight v = 0) :
    exec (.routeDrained v) s = .next ((s.setRouteState v .free).raise 0x0309 sevInfo diePd (leBytes 1 v)) := by
  simp only [exec, execRouteDrained, hDraining, hEmpty, hV, and_self, if_true]

theorem State.portUp_of_ports {s t : State} (h : t.ports = s.ports) (n : Nat) : t.portUp n = s.portUp n := by
  unfold State.portUp
  rw [State.port_of_ports h]

theorem State.raise_fab (s : State) (code sev die : Nat) (detail : List Byte) :
    (s.raise code sev die detail).fab = s.fab := s.raise_frame code sev die detail .fab (by decide)

/-- A change of the port die's tables alone, then an event. -/
theorem raised_of_fab {s t : State} (h : KeepsBut [.fab] s t) (code sev die : Nat) (detail : List Byte) :
    Raised s (t.raise code sev die detail) code sev die detail := by
  have hClk : t.clk = s.clk := h .clk (by decide)
  have hPorts : t.ports = s.ports := h .ports (by decide)
  have hCfg : t.cfg = s.cfg := h .cfg (by decide)
  refine raised_of (h .evs (by decide)) ?_ ?_ ?_ (h .ctrs (by decide))
  · simp only [State.epoch, hClk]
  · simp only [State.rslBothUp, State.portUp_of_ports hPorts]
  · simp only [State.cfgAt, hCfg]

/-! ## Policers (R162) -/

/-- The policer that POLICER_SET enables: its rates and sizes, and full buckets from now on. -/
def policerFull (cir pir cbs pbs now : Nat) : Policer := ⟨true, cir, pir, cbs, pbs, cbs * 1024, pbs * 1024, now⟩

/-- POLICER_SET as carried out: one policer is written, and its change goes into the state copy. -/
def State.putPolicer (s : State) (i : Nat) (x : Policer) : State :=
  ({ s with fab := { s.fab with policers := Tab.set Policer.empty s.fab.policers i x } }).logChange 0x000B i 32 none

theorem State.putPolicer_fab (s : State) (i : Nat) (x : Policer) :
    (s.putPolicer i x).fab = { s.fab with policers := Tab.set Policer.empty s.fab.policers i x } :=
  State.logChange_fab _ _ _ _ _

theorem State.putPolicer_policers (s : State) (i : Nat) (x : Policer) :
    (s.putPolicer i x).fab.policers = Tab.set Policer.empty s.fab.policers i x := by rw [State.putPolicer_fab]

theorem State.putPolicer_frame (s : State) (i : Nat) (x : Policer) : KeepsBut [.fab, .twin] s (s.putPolicer i x) :=
  State.logChange_keeps (upd_fab .rfl0 (by decide)) (by decide)

theorem exec_policerSet {s : State} {c : RslCmd} {host cls cir pir cbs pbs : Nat} (hServed : RslServed s c 0x122)
    (hHost : host ≤ 4095) (hCls : cls ≤ 3) (hCir : cir ≤ pir) (hPir : pir ≤ 6400000) (hCbs : 240 ≤ cbs)
    (hPbs : cbs ≤ pbs) (hMax : pbs ≤ 16777216) :
    exec (.policerSet c host cls 1 cir pir cbs pbs) s =
      .next (((afterOpen s c 0x122).putPolicer (host * 4 + cls) (policerFull cir pir cbs pbs s.clk.now)).rslAnswer c
        0x122 cOk 0 []) := by
  have hForm : ¬ (4095 < host ∨ 3 < cls ∨ 1 < 1 ∨ 6400000 < cir ∨ 6400000 < pir ∨ pir < cir ∨ cbs < 240 ∨
      16777216 < cbs ∨ pbs < cbs ∨ 16777216 < pbs) := by omega
  simp only [exec, execPolicerSet, rslGate_served hServed rfl, hForm, decide_false, Bool.false_eq_true, if_false,
    decide_true]
  rfl

/-- Settles O15: each command by its equation, then by what the table it writes reads as. -/
theorem routeVersionsAndPolicersAreLoaded : Obligations.RouteVersionsAndPolicersAreLoaded := by
  refine ⟨fun c v first es s hServed hV hSome hLen hEnd hGood hLoading => ?_,
    fun c v first es s hServed hV hSome hLen hEnd hGood hFree => ?_, fun c v s hServed hV hLoading => ?_,
    fun v s hV hDraining hEmpty => ?_,
    fun c host cls cir pir cbs pbs s hServed hHost hCls hCir hPir hCbs hPbs hMax => ?_⟩
  · refine rslRuns_of_answer (exec_routeLoad_loading hV hSome hLen hEnd hGood hServed hLoading)
      (State.setRoutes_keeps .rfl0 (by decide)) (by decide) fun t hFab => ⟨?_, ?_, ?_, ?_, ?_⟩
    · rw [State.routes_of_fab hFab, State.routes_setRoutes]
    · rw [State.routes_of_fab hFab, State.routes_setRoutes_other hV, afterOpen_routes]
    · rw [State.routeState_of_fab hFab, State.routeState_setRoutes, afterOpen_routeState, hLoading]
    · rw [hFab, State.setRoutes_unbound, afterOpen_fab]
    · rw [hFab, State.setRoutes_policers, afterOpen_fab]
  · refine rslRuns_of_answer (exec_routeLoad_free hV hSome hLen hEnd hGood hServed hFree)
      (State.setRouteState_keeps (State.setRoutes_keeps .rfl0 (by decide)) (by decide)) (by decide)
      fun t hFab => ⟨?_, ?_⟩
    · rw [State.routes_of_fab hFab, State.routes_setRouteState, State.routes_setRoutes]
    · rw [State.routeState_of_fab hFab, State.routeState_setRouteState]
  · refine does_intro (exec_routeCommit_loading hServed hV hLoading)
      ⟨State.routeState_setRouteState _ _ _, State.routeState_setRouteState_other hV _ _, ?_,
        upd_fab (State.setRouteState_keeps .rfl0 (by decide)) (by decide)⟩
    dsimp only
    rw [State.setRouteState_commitOwed, afterOpen_fab]
  · refine does_intro (exec_routeDrained_empty hV hDraining hEmpty) ⟨?_, ?_, ?_, ?_⟩
    · rw [State.routeState_of_fab (State.raise_fab _ _ _ _ _), State.routeState_setRouteState]
    · rw [State.routeState_of_fab (State.raise_fab _ _ _ _ _), State.routeState_setRouteState_other hV]
    · exact raised_of_fab (State.setRouteState_keeps .rfl0 (by decide)) _ _ _ _
    · exact State.raise_keeps (State.setRouteState_keeps .rfl0 (by decide)) (by decide)
  · refine rslRuns_of_answer (exec_policerSet hServed hHost hCls hCir hPir hCbs hPbs hMax)
      (State.putPolicer_frame _ _ _) (by decide) fun t hFab => ?_
    refine ⟨?_, fun i hi => ?_, ?_⟩
    · rw [hFab, State.putPolicer_policers, Tab.get_set_self]; rfl
    · rw [hFab, State.putPolicer_policers, Tab.get_set_ne _ _ _ hi, afterOpen_fab]
    · rw [hFab, State.putPolicer_fab, afterOpen_fab]

/-! ## Circuits (R164, R168, R169) -/

theorem State.circuit_of_fab {s t : State} (h : t.fab = s.fab) (k : Nat) : t.circuit k = s.circuit k := by
  unfold State.circuit
  rw [h]

theorem State.setCircuit_fab (s : State) (k : Nat) (x : Circuit) :
    (s.setCircuit k x).fab = { s.fab with circuits := Tab.set Circuit.empty s.fab.circuits k x } :=
  State.logChange_fab _ _ _ _ _

@[simp] theorem State.setCircuit_ports (s : State) (k : Nat) (x : Circuit) : (s.setCircuit k x).ports = s.ports :=
  State.logChange_ports _ _ _ _ _

theorem State.setCircuit_frame (s : State) (k : Nat) (x : Circuit) : KeepsBut [.fab, .twin] s (s.setCircuit k x) :=
  State.setCircuit_keeps .rfl0 (by decide)

@[simp] theorem State.circuit_setCircuit (s : State) (k : Nat) (x : Circuit) : (s.setCircuit k x).circuit k = x := by
  unfold State.circuit
  rw [State.setCircuit_fab]
  exact Tab.get_set_self _ _ _ _

theorem State.circuit_setCircuit_ne (s : State) (k : Nat) (x : Circuit) (i : Nat) (h : i ≠ k) :
    (s.setCircuit k x).circuit i = s.circuit i := by
  unfold State.circuit
  rw [State.setCircuit_fab]
  exact Tab.get_set_ne _ _ _ h

/-- A command that writes one circuit and is answered changes no other circuit, and no other table of the port die. -/
theorem circuit_written {r s t : State} {k : Nat} {x : Circuit} (hTables : r.fab = s.fab)
    (hFab : t.fab = (r.setCircuit k x).fab) :
    t.circuit k = x ∧ (∀ i, i ≠ k → t.circuit i = s.circuit i) ∧ t.fab = { s.fab with circuits := t.fab.circuits } := by
  refine ⟨?_, fun i hi => ?_, ?_⟩
  · rw [State.circuit_of_fab hFab, State.circuit_setCircuit]
  · rw [State.circuit_of_fab hFab, State.circuit_setCircuit_ne _ _ _ _ hi, State.circuit_of_fab hTables]
  · rw [hFab, State.setCircuit_fab, hTables]

/-- A circuit enters or leaves the gate list of its port: that port and that circuit are written, and no other. -/
theorem port_circuit_written (s : State) (n k : Nat) (p : Port) (x : Circuit) :
    let t := (s.setPort n p).setCircuit k x
    t.circuit k = x ∧ (∀ i, i ≠ k → t.circuit i = s.circuit i) ∧ t.port n = p ∧ (∀ q, q ≠ n → t.port q = s.port q) ∧
      KeepsBut [.ports, .fab, .twin] s t := by
  refine ⟨State.circuit_setCircuit _ _ _, fun i hi => State.circuit_setCircuit_ne _ _ _ _ hi, ?_, fun q hq => ?_,
    State.setCircuit_keeps (State.setPort_keeps .rfl0 (by decide)) (by decide)⟩
  · rw [State.port_of_ports (State.setCircuit_ports _ _ _), State.port_setPort]
  · rw [State.port_of_ports (State.setCircuit_ports _ _ _), State.port_setPort_ne _ _ _ _ hq]

theorem exec_cktSetup {s : State} {c : RslCmd} {host port dir start : Nat} {ws : List (Nat × Nat)}
    (hServed : RslServed s c 0x123) (hHost : host ≤ 4095) (hPort : port ≤ 63) (hDir : dir ≤ 2) (hSome : ws ≠ [])
    (hLen : ws.length ≤ 16) (hSoon : s.epoch + 2 ≤ start) (hLate : start ≤ s.epoch + 65536)
    (hFit : ∀ w, w ∈ ws → w.1 + w.2 ≤ 4096 ∧ s.cfgIx fGateBurst port * 5 ≤ w.2) (hTime : s.timeless = false)
    (hClash : windowsClash (s.portWindows port ++ ws) = false) (hAll : (s.portWindows port ++ ws).length ≤ 64)
    (hSum : sumOf ((s.portWindows port ++ ws).map (·.2)) ≤ 3072)
    (hId : lowestFree 0 (s.fab.circuits.map (·.1)) < 512) :
    let id := lowestFree 0 (s.fab.circuits.map (·.1))
    exec (.cktSetup c host port dir start ws) s =
      .next (((afterOpen s c 0x123).setCircuit id ⟨.armed, host, port, dir, start, 0, ws⟩).rslAnswer c 0x123 cOk id
        []) := by
  have hForm : ¬ (4095 < host ∨ 63 < port ∨ 2 < dir ∨ 16 < ws.length ∨ (ws.length = 0 ∧ dir ≠ 0) ∨
      start < s.epoch + 2 ∨ s.epoch + 65536 < start) := by
    have hNone : ws.length ≠ 0 := fun h => hSome (List.length_eq_zero_iff.mp h)
    omega
  have hWindows : (ws.any fun w =>
      decide (4096 < w.1 + w.2 ∨ w.2 < (afterOpen s c 0x123).cfgIx fGateBurst port * 5)) = false := by
    refine List.any_eq_false.mpr fun w hw => ?_
    obtain ⟨hIn, hLong⟩ := hFit w hw
    rw [afterOpen_cfgIx, decide_eq_true_iff]
    omega
  have hRoom : ¬ (windowsClash (s.portWindows port ++ ws) = true ∨ 64 < (s.portWindows port ++ ws).length ∨
      3072 < sumOf ((s.portWindows port ++ ws).map (·.2))) := by
    simp only [hClash, Bool.false_eq_true, false_or]
    omega
  simp only [exec, execCktSetup, rslGate_served hServed rfl, afterOpen_epoch, afterOpen_timeless, afterOpen_fab,
    afterOpen_portWindows, hForm, hWindows, hTime, decide_false, Bool.or_self, Bool.false_eq_true,
    if_false, Nat.not_le.mpr hId, hRoom]

theorem exec_cktTeardown {s : State} {c : RslCmd} {k e : Nat} (hServed : RslServed s c 0x124) (hK : k ≤ 511)
    (hSoon : s.epoch + 2 ≤ e) (hLate : e ≤ s.epoch + 65536)
    (hState : (s.circuit k).st = .armed ∨ (s.circuit k).st = .active) :
    exec (.cktTeardown c k e) s =
      .next (((afterOpen s c 0x124).setCircuit k { s.circuit k with st := .tearing, endEpoch := e }).rslAnswer c 0x124
        cOk 0 []) := by
  have hForm : ¬ (511 < k ∨ e < s.epoch + 2 ∨ s.epoch + 65536 < e) := by omega
  have hStands : ¬ ((s.circuit k).st = .free ∨ (s.circuit k).st = .tearing) := by
    rcases hState with h | h <;> simp [h]
  simp only [exec, execCktTeardown, rslGate_served hServed rfl, afterOpen_epoch, afterOpen_circuit, hForm, hStands,
    if_false]

theorem exec_circuitActivate_due {s : State} {k : Nat} (hArmed : (s.circuit k).st = .armed)
    (hDue : (s.circuit k).startEpoch ≤ s.epoch) :
    let x := s.circuit k
    exec (.circuitActivate k) s = .next ((s.setPort x.port { s.port x.port with
      windows := (s.port x.port).windows ++ x.windows.map fun w => ⟨k, w.1, w.2⟩ }).setCircuit k
        { x with st := .active }) := by
  simp only [exec, execCircuitActivate, State.activateCircuit, hArmed, hDue, and_self, if_true]

theorem exec_circuitRemove_due {s : State} {k : Nat} (hTearing : (s.circuit k).st = .tearing)
    (hDue : max (s.circuit k).endEpoch (s.circuit k).startEpoch ≤ s.epoch) :
    let x := s.circuit k
    exec (.circuitRemove k) s = .next ((s.setPort x.port ((s.port x.port).dropCircuit k)).setCircuit k
      Circuit.empty) := by
  simp only [exec, execCircuitRemove, State.removeCircuit, hTearing, hDue, and_self, if_true]

theorem Port.dropCircuit_windows (p : Port) (k : Nat) : ∀ w, w ∈ (p.dropCircuit k).windows → w.ckt ≠ k :=
  fun _ hw => of_decide_eq_true (List.mem_filter.mp hw).2

/-- Settles O16: each command by its equation, then by the one circuit, and the one gate list, that it writes. -/
theorem circuitsAreArmedActivatedAndRemoved : Obligations.CircuitsAreArmedActivatedAndRemoved := by
  refine ⟨fun c host port dir start ws s hServed hHost hPort hDir hSome hLen hSoon hLate hFit hTime hClash hAll hSum =>
      ?_,
    fun c k e s hServed hK hSoon hLate hState => ?_, fun k s hArmed hDue _ => ?_, fun k s hTearing hDue => ?_⟩
  · intro id hId
    exact rslRuns_of_answer (exec_cktSetup hServed hHost hPort hDir hSome hLen hSoon hLate hFit hTime hClash hAll hSum
      hId) (State.setCircuit_frame _ _ _) (by decide) fun t hFab => circuit_written (r := afterOpen s c _) rfl hFab
  · exact rslRuns_of_answer (exec_cktTeardown hServed hK hSoon hLate hState) (State.setCircuit_frame _ _ _) (by decide)
      fun t hFab => circuit_written (r := afterOpen s c _) rfl hFab
  · obtain ⟨hCircuit, hOthers, hPort, hPorts, hKeeps⟩ := port_circuit_written s _ k _ _
    exact does_intro (exec_circuitActivate_due hArmed hDue)
      ⟨hCircuit, hOthers, congrArg Port.windows hPort, hPorts, hKeeps⟩
  · obtain ⟨hCircuit, hOthers, hPort, hPorts, hKeeps⟩ :=
      port_circuit_written s (s.circuit k).port k ((s.port (s.circuit k).port).dropCircuit k) Circuit.empty
    refine does_intro (exec_circuitRemove_due hTearing hDue) ⟨hCircuit, hOthers, ?_, hPorts, hKeeps⟩
    rw [hPort]
    exact Port.dropCircuit_windows _ _

end Sys2Proof.Machine
end

section
/-! Binding and bursts (chapter 6): what a message that is bound leaves at its port, and which flits of a FIFO a burst
takes. -/

namespace Sys2Proof.Machine
open Sys2Proof

/-! ## Messages in flight (R158) -/

theorem State.inflight_of_fab {s t : State} (h : t.fab = s.fab) (v : Nat) : t.inflight v = s.inflight v := by
  unfold State.inflight
  rw [h]

@[simp] theorem State.inflight_setInflight (s : State) (v n : Nat) : (s.setInflight v n).inflight v = n := by
  by_cases h : v = 0 <;> simp [State.setInflight, State.inflight, h]

@[simp] theorem State.setInflight_unbound (s : State) (v n : Nat) :
    (s.setInflight v n).fab.unbound = s.fab.unbound := by
  unfold State.setInflight; split <;> rfl

theorem State.setInflight_ports (s : State) (v n : Nat) : (s.setInflight v n).ports = s.ports :=
  State.setInflight_keeps (ps := [.fab]) .rfl0 (by decide) .ports (by decide)

/-! ## The throttle (R171) -/

/-- Judging the throttle changes nothing of the port but whether it is throttled. -/
theorem State.judgeThrottle_port (s : State) (n : Nat) :
    ∃ a b, (s.judgeThrottle n).port n = { s.port n with throttled := a, throttledEpoch := b } := by
  unfold State.judgeThrottle
  dsimp only
  split
  · exact ⟨_, _, State.port_setPort _ _ _⟩
  · split
    · exact ⟨_, _, State.port_setPort _ _ _⟩
    · exact ⟨_, _, rfl⟩

theorem State.judgeThrottle_fifos (s : State) (n : Nat) :
    ((s.judgeThrottle n).port n).fifos = (s.port n).fifos := by
  obtain ⟨a, b, hPort⟩ := s.judgeThrottle_port n
  rw [hPort]

theorem State.judgeThrottle_sending (s : State) (n : Nat) :
    ((s.judgeThrottle n).port n).sending = (s.port n).sending := by
  obtain ⟨a, b, hPort⟩ := s.judgeThrottle_port n
  rw [hPort]

theorem State.judgeThrottle_overrunTo (s : State) (n : Nat) :
    ((s.judgeThrottle n).port n).overrunTo = (s.port n).overrunTo := by
  obtain ⟨a, b, hPort⟩ := s.judgeThrottle_port n
  rw [hPort]

theorem State.judgeThrottle_port_ne (s : State) {n m : Nat} (h : m ≠ n) : (s.judgeThrottle n).port m = s.port m := by
  unfold State.judgeThrottle
  dsimp only
  split
  · exact State.port_setPort_ne _ _ _ _ h
  · split
    · exact State.port_setPort_ne _ _ _ _ h
    · rfl

theorem State.judgeThrottle_fab (s : State) (n : Nat) : (s.judgeThrottle n).fab = s.fab :=
  State.judgeThrottle_keeps (ps := [.ports]) .rfl0 (by decide) .fab (by decide)

/-! ## Binding a message (R157, R399) -/

/-- How a message is sealed does not depend on what else waits unbound. -/
theorem State.sealMsg_snd_of_fab (s : State) (f : Fabric) (v kind : Nat) (m : OutMsg) :
    (({ s with fab := f } : State).sealMsg v kind m).2 = (s.sealMsg v kind m).2 := by
  have hSession : ({ s with fab := f } : State).session m.sess = s.session m.sess := rfl
  unfold State.sealMsg
  rw [hSession]
  split
  · rfl
  · split
    · rfl
    · split <;> rfl

/-- The part of `State.bindAt` that concerns the port: the message is sealed and put in its FIFO. -/
def State.putInPort (s : State) (p : Nat) (m : OutMsg) : State :=
  let kind := s.kindAt p m
  let v := s.currentVersion
  let r := s.sealMsg v kind m
  (r.1.setPort p ((r.1.port p).enqueue kind v r.2)).judgeThrottle p

theorem State.putInPort_frame (s : State) (p : Nat) (m : OutMsg) : KeepsBut [.ports, .sec] s (s.putInPort p m) :=
  State.judgeThrottle_keeps (State.setPort_keeps (State.sealMsg_keeps .rfl0 (by decide)) (by decide)) (by decide)

theorem State.sealMsg_ports (s : State) (v kind : Nat) (m : OutMsg) : (s.sealMsg v kind m).1.ports = s.ports :=
  State.sealMsg_keeps (ps := [.sec]) .rfl0 (by decide) .ports (by decide)

theorem State.putInPort_fifos (s : State) (p : Nat) (m : OutMsg) :
    ((s.putInPort p m).port p).fifos =
      ((s.port p).enqueue (s.kindAt p m) s.currentVersion (s.sealMsg s.currentVersion (s.kindAt p m) m).2).fifos := by
  unfold State.putInPort
  dsimp only
  rw [State.judgeThrottle_fifos, State.port_setPort, State.port_of_ports (State.sealMsg_ports _ _ _ _)]

theorem State.putInPort_port_ne (s : State) {p q : Nat} (m : OutMsg) (h : q ≠ p) :
    (s.putInPort p m).port q = s.port q := by
  unfold State.putInPort
  dsimp only
  rw [State.judgeThrottle_port_ne _ h, State.port_setPort_ne _ _ _ _ h,
    State.port_of_ports (State.sealMsg_ports _ _ _ _)]

/-- After the port, the message counts as in flight in its version; what else binding does is to the home agent's
deadlines and the request journal. -/
theorem State.bindAt_frame (s : State) (p : Nat) (m : OutMsg) :
    let u := s.putInPort p m
    KeepsBut [.coh, .twin] (u.setInflight s.currentVersion (u.inflight s.currentVersion + 1)) (s.bindAt p m) := by
  unfold State.bindAt State.putInPort
  dsimp only
  split
  · exact State.retire_keeps (State.startDeadline_keeps .rfl0 (by decide)) (by decide)
  · exact State.startDeadline_keeps .rfl0 (by decide)

/-- What binding leaves at the ports and in the port die's tables. -/
theorem State.bindAt_effect (s : State) (p : Nat) (m : OutMsg) :
    let t := s.bindAt p m
    t.fab.unbound = s.fab.unbound ∧
      (t.port p).fifos =
        ((s.port p).enqueue (s.kindAt p m) s.currentVersion (s.sealMsg s.currentVersion (s.kindAt p m) m).2).fifos ∧
      t.inflight s.currentVersion = s.inflight s.currentVersion + 1 ∧ ∀ q, q ≠ p → t.port q = s.port q := by
  have hFab := s.bindAt_frame p m .fab (by decide)
  have hPorts := s.bindAt_frame p m .ports (by decide)
  have hPut := s.putInPort_frame p m .fab (by decide)
  dsimp only [SameAt] at hFab hPorts hPut ⊢
  rw [State.setInflight_ports] at hPorts
  refine ⟨?_, ?_, ?_, fun q hq => ?_⟩
  · rw [hFab, State.setInflight_unbound, hPut]
  · rw [State.port_of_ports hPorts, State.putInPort_fifos]
  · rw [State.inflight_of_fab hFab, State.inflight_setInflight, State.inflight_of_fab hPut]
  · rw [State.port_of_ports hPorts, State.putInPort_port_ne _ _ hq]

section Bind
variable {s : State} {m : OutMsg} {ms : List OutMsg} (hRun : s.twin.paused = false) (hFirst : s.fab.unbound = m :: ms)
include hRun hFirst

theorem exec_messageBind_port {p : Nat} (hPort : s.chooseBind m = .port p) :
    exec .messageBind s = .next (({ s with fab := { s.fab with unbound := ms } } : State).bindAt p m) := by
  simp only [exec, execMessageBind, hRun, hFirst, State.bindFirst, hPort, Bool.false_and, Bool.false_eq_true, if_false,
    List.nil_append]

theorem exec_messageBind_dropped (hDropped : s.chooseBind m = .dropped) :
    exec .messageBind s = .next { s with fab := { s.fab with unbound := ms } } := by
  simp only [exec, execMessageBind, hRun, hFirst, State.bindFirst, hDropped, Bool.false_and, Bool.false_eq_true,
    if_false, List.nil_append]

end Bind

/-! ## Forming a burst (R165, R254) -/

/-- From `s` to `t` port `n` has at most other FIFOs and other formed bursts, and every other port is as it was. -/
def Requeued (n : Nat) (s t : State) : Prop :=
  (∃ fs fm, t.port n = { s.port n with fifos := fs, formed := fm }) ∧ ∀ m, m ≠ n → t.port m = s.port m

namespace Requeued
variable {n : Nat} {s t u : State}

theorem refl (n : Nat) (s : State) : Requeued n s s := ⟨⟨_, _, rfl⟩, fun _ _ => rfl⟩

theorem trans (h : Requeued n s t) (h' : Requeued n t u) : Requeued n s u := by
  obtain ⟨⟨_, _, hPort⟩, hOthers⟩ := h
  obtain ⟨⟨fs, fm, hPort'⟩, hOthers'⟩ := h'
  exact ⟨⟨fs, fm, by rw [hPort', hPort]⟩, fun m hm => (hOthers' m hm).trans (hOthers m hm)⟩

theorem setPort (s : State) (n : Nat) (fs : Tab (List TxFlit)) (fm : Tab (Nat × Bool)) :
    Requeued n s (s.setPort n { s.port n with fifos := fs, formed := fm }) :=
  ⟨⟨fs, fm, State.port_setPort _ _ _⟩, fun _ hm => State.port_setPort_ne _ _ _ _ hm⟩

theorem of_ports (h : Requeued n s t) (hPorts : u.ports = t.ports) : Requeued n s u := by
  obtain ⟨⟨fs, fm, hPort⟩, hOthers⟩ := h
  exact ⟨⟨fs, fm, (State.port_of_ports hPorts n).trans hPort⟩, fun m hm =>
    (State.port_of_ports hPorts m).trans (hOthers m hm)⟩

theorem port_ne (h : Requeued n s t) {m : Nat} (hm : m ≠ n) : t.port m = s.port m := h.2 m hm

theorem sending (h : Requeued n s t) : (t.port n).sending = (s.port n).sending := by
  obtain ⟨⟨fs, fm, hPort⟩, -⟩ := h
  rw [hPort]

theorem overrunTo (h : Requeued n s t) : (t.port n).overrunTo = (s.port n).overrunTo := by
  obtain ⟨⟨fs, fm, hPort⟩, -⟩ := h
  rw [hPort]

end Requeued

/-- Flits put at the end of their FIFOs change nothing of the port but the FIFOs. -/
theorem Port.foldl_append (g : TxFlit → TxFlit) (l : List TxFlit) (p : Port) :
    ∃ fs, l.foldl (fun (q : Port) f => q.append (g f)) p = { p with fifos := fs } := by
  induction l generalizing p with
  | nil => exact ⟨_, rfl⟩
  | cons f l ih =>
    obtain ⟨fs, h⟩ := ih (p.append (g f))
    exact ⟨fs, h⟩

theorem State.rechoose_requeued (s : State) (n kind cls : Nat) : Requeued n s (s.rechoose n kind cls) := by
  have hMoved : ∀ (fs : Tab (List TxFlit)) (l : List TxFlit),
      Requeued n s (s.setPort n (l.foldl (fun (q : Port) f => q.append { f with kind := s.kindNow n f })
        { s.port n with fifos := fs })) := fun fs l => by
    obtain ⟨fs', hPort⟩ := Port.foldl_append (fun f => { f with kind := s.kindNow n f }) l { s.port n with fifos := fs }
    rw [hPort]
    exact .setPort s n fs' _
  unfold State.rechoose
  dsimp only
  split
  · exact .refl n s
  · exact hMoved _ _

/-- Where every flit of a FIFO is of its kind now, none moves to another. -/
theorem State.rechoose_settled {s : State} {n kind cls : Nat}
    (h : ∀ f, f ∈ (s.port n).fifo (fifoKey kind cls) → s.kindNow n f = kind) : s.rechoose n kind cls = s := by
  have hNone : ((s.port n).fifo (fifoKey kind cls)).filter (fun f => decide (s.kindNow n f ≠ kind)) = [] :=
    List.filter_eq_nil_iff.mpr fun f hf => by simp [h f hf]
  unfold State.rechoose
  dsimp only
  rw [if_pos hNone]

/-- A FIFO's burst either is formed already, or is recorded once the coach output in the FIFO has been chosen anew. -/
theorem State.formBurst_cases (s : State) (n kind cls : Nat) :
    s.formBurst n kind cls = s ∨ ∃ fm, (s.formBurst n kind cls).ports =
      ((s.rechoose n kind cls).setPort n { (s.rechoose n kind cls).port n with formed := fm }).ports := by
  have hCount : ∀ (u : State) (lost : Nat), (if lost = 0 then u else u.bumpPort n 32 lost).ports = u.ports :=
    fun u lost => by split <;> rfl
  unfold State.formBurst
  dsimp only
  by_cases hFormed : (Tab.get (0, false) (s.port n).formed (fifoKey kind cls)).1 ≠ 0
  · exact .inl (if_pos hFormed)
  · rw [if_neg hFormed]
    exact .inr ⟨_, hCount _ _⟩

theorem State.formBurst_requeued (s : State) (n kind cls : Nat) : Requeued n s (s.formBurst n kind cls) := by
  rcases s.formBurst_cases n kind cls with hSame | ⟨fm, hPorts⟩
  · rw [hSame]
    exact .refl n s
  · exact ((s.rechoose_requeued n kind cls).trans (.setPort _ n _ fm)).of_ports hPorts

theorem State.formBurst_settled {s : State} {n kind cls : Nat}
    (h : ∀ f, f ∈ (s.port n).fifo (fifoKey kind cls) → s.kindNow n f = kind) :
    ((s.formBurst n kind cls).port n).fifos = (s.port n).fifos := by
  rcases s.formBurst_cases n kind cls with hSame | ⟨fm, hPorts⟩
  · rw [hSame]
  · rw [State.port_of_ports hPorts, State.port_setPort, State.rechoose_settled h]

theorem State.kindNow_of_fab {s t : State} (h : t.fab = s.fab) (n : Nat) (f : TxFlit) :
    t.kindNow n f = s.kindNow n f := by
  have hKind : ∀ m, t.kindAt n m = s.kindAt n m := fun m => by
    unfold State.kindAt
    rw [h]
  unfold State.kindNow
  simp only [hKind]

/-! ## Starting a burst (R165, R166) -/

/-- A burst that starts leaves its FIFO, and then the next one is formed. -/
theorem State.startBurst_takes (s : State) (n kind cls off stretch : Nat) :
    ∃ u : State, s.startBurst n kind cls off stretch = u.formBurst n kind cls ∧
      (u.port n).sending = ((s.port n).fifo (fifoKey kind cls)).take (s.burstLen n (fifoKey kind cls)) ∧
      (u.port n).fifo (fifoKey kind cls) =
        ((s.port n).fifo (fifoKey kind cls)).drop (s.burstLen n (fifoKey kind cls)) ∧
      (u.port n).overrunTo = 4096 * s.epoch + stretch ∧ (∀ m, m ≠ n → u.port m = s.port m) ∧ u.fab = s.fab := by
  unfold State.startBurst
  refine ⟨_, rfl, ?_, ?_, ?_, fun m hm => ?_, State.judgeThrottle_fab _ _⟩
  · rw [State.judgeThrottle_sending, State.port_setPort]
  · unfold Port.fifo
    rw [State.judgeThrottle_fifos, State.port_setPort]
    exact Tab.get_set_self _ _ _ _
  · rw [State.judgeThrottle_overrunTo, State.port_setPort]
  · rw [State.judgeThrottle_port_ne _ hm, State.port_setPort_ne _ _ _ _ hm]

/-- What a burst that starts leaves at the ports; flits behind it that are of their kind now stay where they are. -/
theorem State.startBurst_effect (s : State) (n kind cls off stretch : Nat) :
    let q := (s.port n).fifo (fifoKey kind cls)
    let k := s.burstLen n (fifoKey kind cls)
    let t := s.startBurst n kind cls off stretch
    (t.port n).sending = q.take k ∧
      ((∀ f, f ∈ q.drop k → s.kindNow n f = kind) → (t.port n).fifo (fifoKey kind cls) = q.drop k) ∧
      (t.port n).overrunTo = 4096 * s.epoch + stretch ∧ ∀ m, m ≠ n → t.port m = s.port m := by
  obtain ⟨u, hStart, hSending, hRest, hOverrun, hOthers, hFab⟩ := s.startBurst_takes n kind cls off stretch
  have hForm := u.formBurst_requeued n kind cls
  dsimp only
  rw [hStart]
  refine ⟨hForm.sending.trans hSending, fun hKind => ?_, hForm.overrunTo.trans hOverrun, fun m hm =>
    (hForm.port_ne hm).trans (hOthers m hm)⟩
  rw [← hRest] at hKind ⊢
  unfold Port.fifo
  rw [State.formBurst_settled fun f hf => (State.kindNow_of_fab hFab n f).trans (hKind f hf)]

/-- A burst that waits stays as it is formed: of its port, only whether the wait was counted changes. -/
theorem State.burstWaits_port (s : State) (n kind cls : Nat) (noTime : Bool) :
    ∃ fm, (s.burstWaits n kind cls noTime).port n = { s.port n with formed := fm } := by
  have hCount : ∀ (c : Bool) (k : Nat), (if c then s.bumpPort n 26 k else s).port n = s.port n := fun c k => by
    cases c <;> rfl
  unfold State.burstWaits
  dsimp only
  rw [State.port_setPort, hCount]
  exact ⟨_, rfl⟩

section Burst
variable {s : State} {n kind cls off : Nat} (hUp : s.portUp n = true) (hIdle : (s.port n).sending = [])
  (hQueued : (s.port n).fifo (fifoKey kind cls) ≠ []) (hCls : cls < 4)
include hUp hIdle hQueued hCls

/-- Port, FIFO and class are such that GATE_BURST_START looks for a burst. -/
theorem gateBurst_open :
    ¬ ((!s.portUp n) = true ∨ (s.port n).sending ≠ [] ∨ (s.port n).fifo (fifoKey kind cls) = [] ∨ 4 ≤ cls) := by
  simp [hUp, hIdle, hQueued, hCls]

theorem exec_gateBurstStart_starts {e : Nat} (hStarts : (s.formBurst n kind cls).judgeBurst n kind cls off = .starts e)
    (hTurn : kind = 0 → (s.formBurst n kind cls).nextClass n off = some cls) :
    exec (.gateBurstStart n kind cls off) s = .next ((s.formBurst n kind cls).startBurst n kind cls off e) := by
  have hNext : ¬ (kind = 0 ∧ (s.formBurst n kind cls).nextClass n off ≠ some cls) := fun ⟨hKind, hNot⟩ =>
    hNot (hTurn hKind)
  simp only [exec, execGateBurstStart, if_neg (gateBurst_open hUp hIdle hQueued hCls), hStarts, if_neg hNext]

theorem exec_gateBurstStart_noTime (hNoTime : (s.formBurst n kind cls).judgeBurst n kind cls off = .noTime) :
    exec (.gateBurstStart n kind cls off) s = .next ((s.formBurst n kind cls).burstWaits n kind cls true) := by
  simp only [exec, execGateBurstStart, if_neg (gateBurst_open hUp hIdle hQueued hCls), hNoTime]

end Burst

/-- Settles O14: a message by what binding it comes to, a burst by how it is judged once it is formed. -/
theorem messagesBindAndBurstsStart : Obligations.MessagesBindAndBurstsStart := by
  refine ⟨fun m ms p s hRun hFirst hPort => ?_, fun m ms s hRun hFirst hDropped => ?_,
    fun n kind cls off e s hUp hIdle hQueued hCls => ?_, fun n kind cls off s hUp hIdle hQueued hCls => ?_⟩
  · obtain ⟨hUnbound, hFifos, hInflight, hOthers⟩ :=
      ({ s with fab := { s.fab with unbound := ms } } : State).bindAt_effect p m
    rw [State.sealMsg_snd_of_fab] at hFifos
    have hKeeps : KeepsBut [.ports, .fab, .coh, .twin, .sec, .ctrs] s
        (({ s with fab := { s.fab with unbound := ms } } : State).bindAt p m) :=
      State.bindAt_keeps (upd_fab .rfl0 (by decide)) (by decide)
    exact does_intro (exec_messageBind_port hRun hFirst hPort) ⟨hUnbound, hFifos, hInflight, hOthers,
      same_bytes (congrArg Mem.cells (hKeeps .mem (by decide))), hKeeps⟩
  · exact does_intro (exec_messageBind_dropped hRun hFirst hDropped) ⟨rfl, upd_fab .rfl0 (by decide)⟩
  · intro r q k hStarts hTurn
    have hForm : Requeued n s r := s.formBurst_requeued n kind cls
    obtain ⟨hSending, hRest, hOverrun, hOthers⟩ := r.startBurst_effect n kind cls off e
    have hEpoch : r.epoch = s.epoch := congrArg (fun c : Clocks => c.now / 4096)
      (State.formBurst_keeps (ps := [.ports, .ctrs]) .rfl0 (by decide) .clk (by decide))
    rw [hEpoch] at hOverrun
    exact does_intro (exec_gateBurstStart_starts hUp hIdle hQueued hCls hStarts hTurn) ⟨hSending, hRest, hOverrun,
      fun m hm => (hOthers m hm).trans (hForm.port_ne hm),
      State.startBurst_keeps (State.formBurst_keeps .rfl0 (by decide)) (by decide)⟩
  · intro r hNoTime
    have hForm : Requeued n s r := s.formBurst_requeued n kind cls
    obtain ⟨fm, hPort⟩ := r.burstWaits_port n kind cls true
    refine does_intro (exec_gateBurstStart_noTime hUp hIdle hQueued hCls hNoTime) ⟨?_, ?_,
      State.burstWaits_keeps (State.formBurst_keeps .rfl0 (by decide)) (by decide)⟩
    · rw [hPort]; exact hForm.sending.trans hIdle
    · rw [hPort]

end Sys2Proof.Machine
end

section
/-! The pool's tables (chapter 7): what a lease, a grant and an extent read after each write, what a completion leaves
of them, and how a command of the pool meets its handling table. -/

namespace Sys2Proof.Machine
open Sys2Proof

/-! ## Configuration, epoch and links, by the parts they are read from -/

theorem State.epoch_of_clk {s t : State} (h : t.clk = s.clk) : t.epoch = s.epoch := by
  unfold State.epoch
  rw [h]

theorem State.cfgAt_of_cfg {s t : State} (h : t.cfg = s.cfg) (id : Nat) : t.cfgAt id = s.cfgAt id := by
  unfold State.cfgAt
  rw [h]

theorem State.rslBothUp_of_ports {s t : State} (h : t.ports = s.ports) : t.rslBothUp = s.rslBothUp := by
  simp only [State.rslBothUp, State.portUp_of_ports h]

/-- An event raised after changes that touch neither the events nor what their queueing looks at. -/
theorem raised_of_keeps {ps : List Area} {s t : State} (h : KeepsBut ps s t)
    (hFree : ps.all (fun a => decide (a ∉ [.clk, .cfg, .ports, .evs, .ctrs])) = true) (code sev die : Nat)
    (detail : List Byte) : Raised s (t.raise code sev die detail) code sev die detail := by
  have hKept : ∀ a, a ∈ [Area.clk, .cfg, .ports, .evs, .ctrs] → a ∉ ps := fun a hIn hMem =>
    of_decide_eq_true (List.all_eq_true.mp hFree a hMem) hIn
  exact raised_of (h .evs (hKept _ (by decide))) (State.epoch_of_clk (h .clk (hKept _ (by decide))))
    (State.rslBothUp_of_ports (h .ports (hKept _ (by decide)))) (State.cfgAt_of_cfg (h .cfg (hKept _ (by decide))) _)
    (h .ctrs (hKept _ (by decide)))

@[simp] theorem State.raise_pool (s : State) (code sev die : Nat) (detail : List Byte) :
    (s.raise code sev die detail).pool = s.pool := s.raise_frame code sev die detail .pool (by decide)

/-! ## The set -/

section SetOf
variable {s t : State} (hCfg : t.cfg = s.cfg) (hBoot : t.boot = s.boot)
include hCfg hBoot

theorem State.setSize_of : t.setSize = s.setSize := by
  cases s; cases t; cases hCfg; cases hBoot
  rfl

theorem State.setIndex_of : t.setIndex = s.setIndex := by
  simp only [State.setIndex, State.setSize_of hCfg hBoot, hBoot]

theorem State.memberId_of (i : Nat) : t.memberId i = s.memberId i := by
  simp only [State.memberId, State.setSize_of hCfg hBoot, State.fabricId, State.cfgIx, State.cfgAt_of_cfg hCfg]

theorem State.isMaster_of (hMaster : t.pool.master = s.pool.master) : t.isMaster = s.isMaster := by
  simp only [State.isMaster, State.setIndex_of hCfg hBoot, hMaster]

theorem State.joined_of (hMembers : t.pool.members = s.pool.members) : t.joined = s.joined := by
  simp only [State.joined, State.setSize_of hCfg hBoot, State.setIndex_of hCfg hBoot, hMembers]

end SetOf

/-! ## Leases (R183, R184) -/

theorem State.lease_of_leases {s t : State} (h : t.pool.leases = s.pool.leases) (i : Nat) : t.lease i = s.lease i := by
  unfold State.lease
  rw [h]

theorem State.lease_of_pool {s t : State} (h : t.pool = s.pool) (i : Nat) : t.lease i = s.lease i :=
  State.lease_of_leases (congrArg Pool.leases h) i

theorem State.setLease_frame (s : State) (h : Nat) (l : Lease) : KeepsBut [.pool, .twin] s (s.setLease h l) :=
  State.setLease_keeps .rfl0 (by decide)

/-- Writing a lease changes no table of the pool but the leases, and notes the host for the next SET_DELTA (R201). -/
theorem State.setLease_pool (s : State) (h : Nat) (l : Lease) :
    (s.setLease h l).pool = { s.pool with
      leases := Tab.set Lease.empty s.pool.leases h l
      changed := if h ∈ s.pool.changed then s.pool.changed else s.pool.changed ++ [h] } :=
  State.logChange_pool _ _ _ _ _

@[simp] theorem State.lease_setLease (s : State) (h : Nat) (l : Lease) : (s.setLease h l).lease h = l := by
  unfold State.lease
  rw [State.setLease_pool]
  exact Tab.get_set_self _ _ _ _

theorem State.lease_setLease_ne (s : State) {h i : Nat} (l : Lease) (hNe : i ≠ h) :
    (s.setLease h l).lease i = s.lease i := by
  unfold State.lease
  rw [State.setLease_pool]
  exact Tab.get_set_ne _ _ _ hNe

theorem State.tenantOf_of_lease {s : State} {h : Nat} {l : Lease} (hLease : s.lease h = l) :
    s.tenantOf h = if l.assigned then some l.tenant else none := by
  unfold State.tenantOf
  rw [hLease]

/-! ## Grants (R179) -/

/-- One entry of the grant table is written, and its change goes into the state copy. -/
def State.putGrant (s : State) (e h rights : Nat) : State :=
  ({ s with pool := { s.pool with grants := Tab.set 0 s.pool.grants (grantKey e h) rights } }).logChange 0x0003
    (grantKey e h) 32 none

theorem State.putGrant_frame (s : State) (e h rights : Nat) : KeepsBut [.pool, .twin] s (s.putGrant e h rights) :=
  State.logChange_keeps (upd_pool .rfl0 (by decide)) (by decide)

theorem State.putGrant_pool (s : State) (e h rights : Nat) :
    (s.putGrant e h rights).pool = { s.pool with grants := Tab.set 0 s.pool.grants (grantKey e h) rights } :=
  State.logChange_pool _ _ _ _ _

theorem State.grant_of_grants {s t : State} (h : t.pool.grants = s.pool.grants) (e i : Nat) :
    t.grant e i = s.grant e i := by
  unfold State.grant
  rw [h]

@[simp] theorem State.grant_putGrant (s : State) (e h rights : Nat) : (s.putGrant e h rights).grant e h = rights := by
  unfold State.grant
  rw [State.putGrant_pool]
  exact Tab.get_set_self _ _ _ _

@[simp] theorem State.lease_putGrant (s : State) (e h rights i : Nat) :
    (s.putGrant e h rights).lease i = s.lease i := State.lease_of_leases (by rw [State.putGrant_pool]) i

@[simp] theorem State.setLeaseGone_pool (s : State) (h : Nat) (b : Bool) : (s.setLeaseGone h b).pool = s.pool := rfl

/-- A grant is written, and a host without a lease gets one (R184). -/
theorem State.makeGrant_eq (s : State) (e h rights n : Nat) :
    s.makeGrant e h rights n =
      if (s.lease h).st = .none then
        ((s.putGrant e h rights).setLease h { s.lease h with st := .live, endEpoch := n + s.cfgAt fLeasePeriod
          }).setLeaseGone h false
      else s.putGrant e h rights := by
  have hCfg := State.cfgAt_of_cfg (s.putGrant_frame e h rights .cfg (by decide)) fLeasePeriod
  have hLease := State.lease_putGrant s e h rights h
  unfold State.makeGrant
  rw [← hCfg, ← hLease]
  rfl

/-- The pool after a grant: its own table written, and at most the one lease. -/
theorem State.makeGrant_effect (s : State) (e h rights n : Nat) :
    let t := s.makeGrant e h rights n
    t.pool.grants = Tab.set 0 s.pool.grants (grantKey e h) rights ∧ t.pool.exts = s.pool.exts ∧
      t.pool.members = s.pool.members ∧
      ((s.lease h).st = .none →
        t.lease h = { s.lease h with st := .live, endEpoch := n + s.cfgAt fLeasePeriod }) ∧
      ((s.lease h).st ≠ .none → t.lease h = s.lease h) ∧ t.fab.unbound = s.fab.unbound := by
  have hFab : (s.putGrant e h rights).fab = s.fab := s.putGrant_frame e h rights .fab (by decide)
  dsimp only
  rw [State.makeGrant_eq]
  by_cases hNone : (s.lease h).st = .none
  · rw [if_pos hNone]
    refine ⟨?_, ?_, ?_, fun _ => ?_, fun hNot => absurd hNone hNot, ?_⟩
    · rw [State.setLeaseGone_pool, State.setLease_pool, State.putGrant_pool]
    · rw [State.setLeaseGone_pool, State.setLease_pool, State.putGrant_pool]
    · rw [State.setLeaseGone_pool, State.setLease_pool, State.putGrant_pool]
    · exact State.lease_setLease _ _ _
    · show (((s.putGrant e h rights).setLease h _).fab).unbound = _
      rw [State.setLease_frame _ _ _ .fab (by decide), hFab]
  · rw [if_neg hNone]
    exact ⟨by rw [State.putGrant_pool], by rw [State.putGrant_pool], by rw [State.putGrant_pool],
      fun hIs => absurd hIs hNone, fun _ => State.lease_putGrant _ _ _ _ _, congrArg Fabric.unbound hFab⟩

/-- A grant that is removed; with the last one of a LIVE or GRACE lease the lease ends (R184). -/
theorem State.dropGrant_eq (s : State) (e h : Nat) :
    s.dropGrant e h =
      if (s.putGrant e h 0).grantsOf h = [] ∧ ((s.lease h).st = .live ∨ (s.lease h).st = .grace) then
        (s.putGrant e h 0).setLease h { s.lease h with st := .none, endEpoch := 0 }
      else s.putGrant e h 0 := by
  have hLease := State.lease_putGrant s e h 0 h
  unfold State.dropGrant
  rw [← hLease]
  rfl

theorem State.dropGrant_effect (s : State) (e h : Nat) :
    let t := s.dropGrant e h
    t.pool.grants = Tab.set 0 s.pool.grants (grantKey e h) 0 ∧ t.pool.exts = s.pool.exts ∧
      t.pool.members = s.pool.members := by
  dsimp only
  rw [State.dropGrant_eq]
  split
  · rw [State.setLease_pool, State.putGrant_pool]
    exact ⟨rfl, rfl, rfl⟩
  · rw [State.putGrant_pool]
    exact ⟨rfl, rfl, rfl⟩

/-- A lease in RECLAIM stays so when a grant goes, whichever host's (R184). -/
theorem State.dropGrant_reclaim {s : State} {e h i : Nat} (hReclaim : (s.lease i).st = .reclaim) :
    ((s.dropGrant e h).lease i).st = .reclaim := by
  rw [State.dropGrant_eq]
  split
  · next hEnds =>
    have hNe : i ≠ h := by
      rintro rfl
      rcases hEnds.2 with hLive | hGrace
      · rw [hReclaim] at hLive; cases hLive
      · rw [hReclaim] at hGrace; cases hGrace
    rw [State.lease_setLease_ne _ _ hNe, State.lease_putGrant, hReclaim]
  · rw [State.lease_putGrant, hReclaim]

/-! ## Extents (R174) -/

theorem State.ext_of_exts {s t : State} (h : t.pool.exts = s.pool.exts) (e : Nat) : t.ext e = s.ext e := by
  unfold State.ext
  rw [h]

theorem State.setExt_pool (s : State) (e : Nat) (x : Ext) :
    (s.setExt e x).pool = { s.pool with exts := Tab.set Ext.empty s.pool.exts e x } := State.logChange_pool _ _ _ _ _

/-! ## Completions -/

/-- Only POISON is counted (R352). -/
theorem State.countPoison_other {s : State} {host code : Nat} (h : code ≠ cPoison) : s.countPoison host code = s := by
  simp only [State.countPoison, h, false_and, if_false]

/-- Whether a completion was made can be read off what waits to be sent. -/
theorem Completes.congr {r r' t t' : State} {v : Via} {cmd rsp code value : Nat} {body extra : List Byte}
    (h : Completes r t v cmd rsp code value body extra) (hFrom : r'.fab.unbound = r.fab.unbound)
    (hOutFrom : r'.rsl.out = r.rsl.out) (hSec : r'.sec = r.sec) (hTo : t'.fab.unbound = t.fab.unbound)
    (hOutTo : t'.rsl.out = t.rsl.out) : Completes r' t' v cmd rsp code value body extra := by
  have hSession : ∀ sid, r'.session sid = r.session sid := fun sid => by
    unfold State.session
    rw [hSec]
  cases v with
  | fabric q => simpa only [Completes, hTo, hFrom] using h
  | rsl c => simpa only [Completes, RslAnswered, hOutTo, hOutFrom] using h
  | ch c sid => simpa only [Completes, RslAnswered, hOutTo, hOutFrom, hSession] using h

/-- A completion made after changes that left the messages and the frames on their way alone. -/
theorem completes_of {r u : State} {v : Via} {cmd rsp code value : Nat} {body extra : List Byte}
    (hUnbound : u.fab.unbound = r.fab.unbound) (hRsl : u.rsl = r.rsl) (hSec : u.sec = r.sec) :
    Completes r (u.finish v cmd rsp code value body extra) v cmd rsp code value body extra :=
  (finish_completes (r := u) (t := u) rfl rfl rfl).congr hUnbound.symm (congrArg Rsl.out hRsl.symm) hSec.symm rfl rfl

theorem State.finish_frame (s : State) (v : Via) (cmd rsp code value : Nat) (body extra : List Byte) :
    KeepsBut answerParts s (s.finish v cmd rsp code value body extra) := State.finish_keeps .rfl0 (by decide)

/-- Where no other member is joined, nobody is ordered, and the completion goes at once (R200). -/
theorem State.orderMask_alone {s : State} (h : s.joined = []) (mask : BitVec 8) (first : SetOrder)
    (more : List SetOrder) (held : Option HeldCpl) : s.orderMask mask first more held = s.releaseAll held.toList := by
  unfold State.orderMask
  rw [h]
  exact if_pos (.inl rfl)

/-! ## Withdrawal (R189, R191, R193) -/

/-- One more sender waits for the extent to be FREE. -/
def State.joinWithdrawers (s : State) (e : Nat) (who : Option (Owed × Nat)) : State :=
  match who with
  | some w => { s with pool := { s.pool with
      withdrawers := Tab.set [] s.pool.withdrawers e (Tab.get [] s.pool.withdrawers e ++ [w]) } }
  | none => s

/-- An ACTIVE extent, which stood as `x`, becomes WITHDRAWING. -/
def State.startWithdrawal (s : State) (e : Nat) (x : Ext) : State :=
  if decide (x.st = .active) = true then (s.setExt e { x with st := .withdrawing }).loseResults e else s

/-- FORCE 1 has been given for the extent. -/
def State.markForced (s : State) (e : Nat) : State :=
  { s with pool := { s.pool with forced := Tab.set false s.pool.forced e true } }

/-- FORCE 1 cancels holders, and is remembered. -/
def State.forceWithdrawal (s : State) (e : Nat) (force : Bool) : State :=
  if force = true then (s.cancelHolders e).markForced e else s

/-- Are the members to be ordered: is the withdrawal, or its FORCE 1, the first? -/
def State.withdrawIsNews (s : State) (e : Nat) (x : Ext) (force : Bool) : Bool :=
  decide (x.st = .active) || (force && !Tab.get false s.pool.forced e)

theorem State.cancelHolders_pool (s : State) (e : Nat) : (s.cancelHolders e).pool = s.pool :=
  State.cancelHolders_keeps (ps := [.fab, .coach, .stock, .mem, .twin, .sec, .rsl, .evs, .ctrs, .fresh]) .rfl0
    (by decide) .pool (by decide)

/-- A withdrawal, step by step. -/
theorem State.withdraw_eq (s : State) (e : Nat) (force : Bool) (who : Option (Owed × Nat)) :
    let u := (s.joinWithdrawers e who).startWithdrawal e (s.ext e)
    s.withdraw e force who =
      if u.withdrawIsNews e (s.ext e) force = true then
        (u.forceWithdrawal e force).orderMask (s.ext e).mask (.withdraw e (b2n force)) [] none
      else u.forceWithdrawal e force := by
  dsimp only
  cases who <;> cases force
  all_goals simp only [State.withdraw, State.withdrawIsNews, State.forceWithdrawal, State.startWithdrawal,
    State.joinWithdrawers, State.markForced, State.cancelHolders_pool, Bool.or_eq_true, Bool.false_eq_true,
    Bool.false_and, Bool.true_and, if_false, if_true]

/-! ## A command of the pool meets its table (R181, R205) -/

/-- A class-3 command that reaches its table, at the master of a set that is not degraded. -/
theorem classThree_mastered {s : State} {v : Via} {cmd : Nat} {lens : List Nat} {mask : BitVec 32}
    {no : State → Nat → Nat → State} {k : State → State} (h : Reaches v cmd lens mask s)
    (hMastered : Mastered (reached v cmd s)) :
    (s.classThree v cmd lens mask false no fun s => s.poolGuard no k) = k (reached v cmd s) := by
  obtain ⟨hWhole, hMaster⟩ := hMastered
  rw [classThree_reached h rfl]
  simp only [State.poolGuard, hWhole, hMaster, Bool.false_eq_true, if_false, not_true_eq_false]

end Sys2Proof.Machine
end

section
/-! What follows the end of a lease changes no lease but those that end with it, and no LEASE_GONE bit: answers, notices
and orders only add to the messages on their way (R184, R188, R195). -/

namespace Sys2Proof.Machine
open Sys2Proof

/-- From `s0` to `t` every lease and every LEASE_GONE bit stands as it was. -/
def SameLeases (s0 t : State) : Prop := t.fab.leaseGone = s0.fab.leaseGone ∧ t.pool.leases = s0.pool.leases

namespace SameLeases
variable {s0 s t : State}

theorem rfl0 : SameLeases s s := ⟨rfl, rfl⟩

theorem trans {u : State} (h : SameLeases s0 s) (k : SameLeases s u) : SameLeases s0 u :=
  ⟨k.1.trans h.1, k.2.trans h.2⟩

theorem after {ps : List Area} (h : SameLeases s0 s) (k : KeepsBut ps s t) (hFab : Area.fab ∉ ps)
    (hPool : Area.pool ∉ ps) : SameLeases s0 t :=
  h.trans ⟨congrArg Fabric.leaseGone (k .fab hFab), congrArg Pool.leases (k .pool hPool)⟩

/-- A part of the pool other than the leases was written. -/
theorem after_pool {ps : List Area} (h : SameLeases s0 s) (k : KeepsBut ps s t) (hFab : Area.fab ∉ ps)
    (hLeases : t.pool.leases = s.pool.leases) : SameLeases s0 t :=
  h.trans ⟨congrArg Fabric.leaseGone (k .fab hFab), hLeases⟩

theorem ite {c : Prop} [Decidable c] {a b : State} (h1 : c → SameLeases s0 a) (h2 : ¬ c → SameLeases s0 b) :
    SameLeases s0 (if c then a else b) := by
  split
  · next h => exact h1 h
  · next h => exact h2 h

theorem foldl {α : Type} {f : State → α → State} {l : List α} {s : State} (h : SameLeases s0 s)
    (hf : ∀ s x, SameLeases s0 s → SameLeases s0 (f s x)) : SameLeases s0 (l.foldl f s) := by
  induction l generalizing s with
  | nil => exact h
  | cons a l ih => exact ih (hf _ _ h)

theorem lease_eq (h : SameLeases s0 s) (i : Nat) : s.lease i = s0.lease i := State.lease_of_leases h.2 i

theorem gone_eq (h : SameLeases s0 s) (i : Nat) : s.gone i = s0.gone i := by
  unfold State.gone
  rw [h.1]

end SameLeases

section Leases
variable {s0 s : State} (hL : SameLeases s0 s)
include hL

/-! ## Answers and notices -/

theorem State.send_sameLeases {m : OutMsg} : SameLeases s0 (s.send m) := hL

theorem State.countPoison_sameLeases {host code : Nat} : SameLeases s0 (s.countPoison host code) :=
  hL.after (State.countPoison_keeps (ps := [.ctrs]) .rfl0 (by decide)) (by decide) (by decide)

theorem State.logChange_sameLeases {kind index len : Nat} {j : Option Nat} :
    SameLeases s0 (s.logChange kind index len j) :=
  hL.after (State.logChange_keeps (ps := [.twin]) .rfl0 (by decide)) (by decide) (by decide)

theorem State.rslDone_sameLeases {cmd tag port code value : Nat} {data : List Byte} :
    SameLeases s0 (s.rslDone cmd tag port code value data) :=
  hL.after (State.rslDone_keeps (ps := [.twin, .rsl, .ctrs]) .rfl0 (by decide)) (by decide) (by decide)

theorem State.raise_sameLeases {code sev die : Nat} {detail : List Byte} :
    SameLeases s0 (s.raise code sev die detail) := hL.after (s.raise_frame code sev die detail) (by decide) (by decide)

theorem State.finish_sameLeases {v : Via} {cmd rsp code value : Nat} {body extra : List Byte} :
    SameLeases s0 (s.finish v cmd rsp code value body extra) := by
  have hCounted : SameLeases s0 (s.countPoison (s.viaHost v) code) := State.countPoison_sameLeases hL
  have hJournaled : ∀ k i n j (t : Twin), SameLeases s0 { (s.countPoison (s.viaHost v) code).logChange k i n j with
      twin := t } := fun _ _ _ _ _ => State.logChange_sameLeases hCounted
  unfold State.finish
  cases v with
  | fabric h => exact State.send_sameLeases (.ite (fun _ => hCounted) fun _ => hJournaled _ _ _ _ _)
  | rsl c => exact State.rslDone_sameLeases hCounted
  | ch c sid =>
    dsimp only
    split
    · exact State.rslDone_sameLeases (hCounted.after (State.useSeq_keeps (ps := [.sec]) .rfl0 (by decide)) (by decide)
        (by decide))
    · exact State.rslDone_sameLeases hCounted

theorem State.releaseAll_sameLeases {hs : List HeldCpl} : SameLeases s0 (s.releaseAll hs) :=
  .foldl hL fun _ _ h => State.finish_sameLeases h

theorem State.homeCpl_sameLeases {kind : HomeReq} {h : ReqHdr} {code value : Nat} :
    SameLeases s0 (s.homeCpl kind h code value) :=
  have hCounted := State.countPoison_sameLeases hL
  .ite (fun _ => State.send_sameLeases hCounted) fun _ => State.send_sameLeases hCounted

theorem State.trkCpl_sameLeases {t : Tracker} {code value : Nat} : SameLeases s0 (s.trkCpl t code value) :=
  .ite (fun _ => hL.after (State.answerCoach_keeps (ps := [.coach]) .rfl0 (by decide)) (by decide) (by decide))
    fun _ => State.homeCpl_sameLeases hL

theorem State.redAck_sameLeases {h : ReqHdr} {code value : Nat} : SameLeases s0 (s.redAck h code value) := by
  unfold State.redAck
  exact State.send_sameLeases (State.countPoison_sameLeases hL)

/-! ## Orders to the members (R200) -/

theorem State.sendOrders_sameLeases (l : List (Nat × SetOrder)) : SameLeases s0 (s.sendOrders l).1 := by
  induction l generalizing s with
  | nil => exact hL
  | cons a l ih =>
    have hOne : SameLeases s0 (s.sendOrder a.1 a.2).1 := hL
    exact ih hOne

theorem State.orderMask_sameLeases {mask : BitVec 8} {first : SetOrder} {more : List SetOrder}
    {held : Option HeldCpl} : SameLeases s0 (s.orderMask mask first more held) := by
  have hSent := State.sendOrders_sameLeases hL
  have hNoted : ∀ (u : State) o, SameLeases s0 u → SameLeases s0 { u with pool := { u.pool with orders := o } } :=
    fun _ _ hU => hU
  unfold State.orderMask
  exact .ite (fun _ => State.releaseAll_sameLeases hL) fun _ => hNoted _ _ (hSent _)

theorem State.setExt_sameLeases {e : Nat} {x : Ext} : SameLeases s0 (s.setExt e x) :=
  hL.after_pool (State.setExt_keeps (ps := [.pool, .twin]) .rfl0 (by decide)) (by decide) (by rw [State.setExt_pool])

/-! ## Domains, barriers, buffers and sessions (R227, R301, R279, R401) -/

theorem State.domainNotices_sameLeases {d kind cause : Nat} : SameLeases s0 (s.domainNotices d kind cause) :=
  .foldl hL fun _ _ h => .ite (fun _ => h) fun _ => State.send_sameLeases h

/-- The transactions on a domain's lines end, and answer (R228). -/
theorem State.endTrackers_sameLeases (l : List Tracker) : SameLeases s0 (l.foldl (fun s t =>
    let s := s.retireAnswers t
    if t.st = .waitAck then s else s.trkCpl t cDomainDown 0) s) :=
  .foldl hL fun w t hW => by
    have hRetired : SameLeases s0 (w.retireAnswers t) :=
      hW.after (State.retireAnswers_keeps (ps := [.twin]) .rfl0 (by decide)) (by decide) (by decide)
    exact .ite (fun _ => hRetired) fun _ => State.trkCpl_sameLeases hRetired

theorem State.domainFalls_sameLeases {d cause : Nat} {report : Bool} {held : Option HeldCpl} :
    SameLeases s0 (s.domainFalls d cause report held) := by
  have hDown : ∀ x c, SameLeases s0 { (s.setDomain d x).bump 4 d 4 1 with coh := c } := fun _ _ =>
    hL.after (upd_coh (ps := [.coh, .twin, .ctrs]) (State.bump_keeps (State.setDomain_keeps .rfl0 (by decide))
      (by decide)) (by decide)) (by decide) (by decide)
  have hEnded : ∀ x c l, SameLeases s0 _ := fun x c l => State.endTrackers_sameLeases (hDown x c) l
  unfold State.domainFalls
  refine .ite (fun _ => hL) fun _ => State.raise_sameLeases (.ite (fun _ => ?_) fun _ => .ite (fun _ => ?_) fun _ => ?_)
  · exact State.orderMask_sameLeases (State.domainNotices_sameLeases (hEnded _ _ _))
  · exact hEnded _ _ _
  · exact State.send_sameLeases (hEnded _ _ _)

theorem State.endBarrier_sameLeases {b code value : Nat} : SameLeases s0 (s.endBarrier b code value) :=
  have hFree : ∀ r, SameLeases s0 { s with repro := r } := fun _ => hL
  .foldl (State.logChange_sameLeases (hFree _)) fun _ _ h => State.finish_sameLeases h

theorem State.forceClose_sameLeases {b : Nat} : SameLeases s0 (s.forceClose b) := by
  have hJobs : ∀ k, SameLeases s0 { s with stock := k } := fun _ => hL
  have hFreed : ∀ u, SameLeases s0 u → SameLeases s0 (u.freeBuf b) := fun u hU =>
    hU.after (State.freeBuf_keeps (ps := [.stock, .twin]) .rfl0 (by decide)) (by decide) (by decide)
  exact .ite (fun _ => hL) fun _ => .foldl (hFreed _ (.foldl (hJobs _) fun _ _ h => State.redAck_sameLeases h))
    fun _ _ h => State.finish_sameLeases h

theorem State.keyChange_sameLeases {hs : List HeldCpl} : SameLeases s0 (s.keyChange hs) :=
  .ite (fun _ => hL) fun _ => State.releaseAll_sameLeases hL

theorem State.endSessions_sameLeases {p : Session → Bool} : SameLeases s0 (s.endSessions p) := by
  refine .foldl hL fun u id hU => ?_
  have hClosed : ∀ (x : Sec) ms, SameLeases s0 { u with sec := x, fab := { u.fab with unbound := ms } } :=
    fun _ _ => hU
  unfold State.endSession State.closeSession
  split
  · exact hU
  · exact State.keyChange_sameLeases (hClosed _ _)

/-! ## Rings and descriptors (R191, R261) -/

theorem State.settle_sameLeases : SameLeases s0 s.settle := by
  have hInvals : SameLeases s0 s.settleInvals :=
    hL.after (State.settleInvals_keeps (ps := [.coach, .mem, .twin, .rsl, .evs, .ctrs, .fresh]) .rfl0 (by decide))
      (by decide) (by decide)
  refine .foldl hInvals fun u r hU => .ite (fun _ => .foldl ?_ fun _ _ h => State.finish_sameLeases h) fun _ => hU
  exact hU.after (State.setRing_keeps (ps := [.coach, .mem, .twin, .evs, .ctrs, .fresh]) (State.writeLine1_keeps
    (State.setRing_keeps .rfl0 (by decide)) (by decide)) (by decide)) (by decide) (by decide)

theorem State.cancelDescs_sameLeases {e : Nat} : SameLeases s0 (s.cancelDescs e) :=
  State.settle_sameLeases (hL.after
    (State.endUnstarted_keeps (ps := [.coach, .mem, .twin, .evs, .ctrs, .fresh]) .rfl0 (by decide)) (by decide)
    (by decide))

theorem State.cancelLaunch_sameLeases {r code value : Nat} : SameLeases s0 (s.cancelLaunch r code value) := by
  unfold State.cancelLaunch
  dsimp only
  split
  · exact State.finish_sameLeases (State.logChange_sameLeases (hL.after
      (State.setRing_keeps (ps := [.coach, .twin]) .rfl0 (by decide)) (by decide) (by decide)))
  · exact hL

theorem State.stopRing_sameLeases {r cause : Nat} {mode1 : Bool} : SameLeases s0 (s.stopRing r cause mode1) := by
  have hStopping : ∀ x, SameLeases s0 (((s.cancelLaunch r cRevoked 0).setRing r x).writeLine1 r) := fun _ =>
    (State.cancelLaunch_sameLeases hL).after (State.writeLine1_keeps (ps := [.coach, .mem, .twin, .evs, .ctrs, .fresh])
      (State.setRing_keeps .rfl0 (by decide)) (by decide)) (by decide) (by decide)
  exact .ite (fun _ => (hStopping _).after
    (State.endUnstarted_keeps (ps := [.coach, .mem, .twin, .evs, .ctrs, .fresh]) .rfl0 (by decide)) (by decide)
    (by decide)) fun _ => hStopping _

theorem State.stopRingsOf_sameLeases {h : Nat} : SameLeases s0 (s.stopRingsOf h) :=
  .foldl hL fun _ _ hU => .ite (fun _ => State.settle_sameLeases (State.raise_sameLeases (State.send_sameLeases
    (State.stopRing_sameLeases hU)))) fun _ => hU

/-! ## Withdrawals and region versions (R189, R308, R314) -/

theorem State.cancelHolders_sameLeases {e : Nat} : SameLeases s0 (s.cancelHolders e) :=
  .foldl (State.cancelDescs_sameLeases hL) fun _ _ h => State.forceClose_sameLeases h

theorem State.withdraw_sameLeases {e : Nat} {force : Bool} {who : Option (Owed × Nat)} :
    SameLeases s0 (s.withdraw e force who) := by
  have hJoined : SameLeases s0 (s.joinWithdrawers e who) := by cases who <;> exact hL
  have hStarted : SameLeases s0 ((s.joinWithdrawers e who).startWithdrawal e (s.ext e)) :=
    .ite (fun _ => (State.setExt_sameLeases hJoined).after (State.loseResults_keeps (ps := [.stock, .twin]) .rfl0
      (by decide)) (by decide) (by decide)) fun _ => hJoined
  have hForced : SameLeases s0 (((s.joinWithdrawers e who).startWithdrawal e (s.ext e)).forceWithdrawal e force) := by
    have hMarked : ∀ u : State, SameLeases s0 u → SameLeases s0 (u.markForced e) := fun _ hU => hU
    exact .ite (fun _ => hMarked _ (State.cancelHolders_sameLeases hStarted)) fun _ => hStarted
  rw [State.withdraw_eq]
  exact .ite (fun _ => State.orderMask_sameLeases hForced) fun _ => hForced

theorem State.trimRegion_sameLeases {r : Nat} : SameLeases s0 (s.trimRegion r) := by
  have hTrimmed : ∀ x, SameLeases s0 (s.setRegion r x) := fun _ =>
    hL.after (State.setRegion_keeps (ps := [.repro, .twin]) .rfl0 (by decide)) (by decide) (by decide)
  exact .ite (fun _ => hL) fun _ => .foldl (hTrimmed _) fun _ _ h => State.withdraw_sameLeases h

theorem State.disown_sameLeases {h : Nat} : SameLeases s0 (s.disown h) :=
  .foldl hL fun _ _ hU => State.setExt_sameLeases hU

end Leases

/-! ## A host in RECLAIM (R184, R188) -/

/-- Host `h` is in RECLAIM, and the port die's LEASE_GONE bit for it is set (R184). -/
def Reclaimed (h : Nat) (s : State) : Prop := (s.lease h).st = .reclaim ∧ s.gone h = true

namespace Reclaimed
variable {h : Nat} {s t : State}

theorem of_same (hR : Reclaimed h s) (k : SameLeases s t) : Reclaimed h t := by
  unfold Reclaimed
  rw [k.lease_eq, k.gone_eq]
  exact hR

theorem foldl {α : Type} {f : State → α → State} {l : List α} {s : State} (hR : Reclaimed h s)
    (hf : ∀ s x, Reclaimed h s → Reclaimed h (f s x)) : Reclaimed h (l.foldl f s) := by
  induction l generalizing s with
  | nil => exact hR
  | cons a l ih => exact ih (hf _ _ hR)

/-- Removing grants ends no lease in RECLAIM. -/
theorem ungrant (hR : Reclaimed h s) (e i : Nat) (held : Option HeldCpl) : Reclaimed h (s.ungrant e i held) := by
  obtain ⟨hLease, hGone⟩ := hR
  have hFab : (s.dropGrant e i).fab = s.fab :=
    State.dropGrant_keeps (ps := [.pool, .twin]) .rfl0 (by decide) .fab (by decide)
  have hDropped : Reclaimed h (s.dropGrant e i) :=
    ⟨State.dropGrant_reclaim hLease, (congrArg (fun f : Fabric => Tab.get false f.leaseGone h) hFab).trans hGone⟩
  unfold State.ungrant
  exact hDropped.of_same (State.orderMask_sameLeases .rfl0)

theorem unmap (hR : Reclaimed h s) (r version i : Nat) (held : Nat → Option HeldCpl) :
    Reclaimed h (s.unmap r version i held) := by
  unfold State.unmap
  dsimp only
  split
  · exact hR.of_same (State.releaseAll_sameLeases .rfl0)
  · exact (hR.ungrant _ _ _).of_same (State.trimRegion_sameLeases (SameLeases.rfl0.after
      (State.setRegion_keeps (ps := [.repro, .twin]) .rfl0 (by decide)) (by decide) (by decide)))

theorem reclaim (hR : Reclaimed h s) (i : Nat) : Reclaimed h (s.reclaim i) := by
  have hUnmapped : ∀ (u : State) (l : List (Nat × Nat)), Reclaimed h u →
      Reclaimed h (l.foldl (fun s m => s.unmap m.1 m.2 i fun _ => none) u) := fun _ _ hU =>
    hU.foldl fun _ m hV => hV.unmap m.1 m.2 i _
  have hReleased : ∀ (u : State) (l : List Nat), Reclaimed h u →
      Reclaimed h (l.foldl (fun s e => s.ungrant e i none) u) := fun _ _ hU =>
    hU.foldl fun _ e hV => hV.ungrant e i none
  have hWithdrawn : ∀ (u : State) (l : List Nat), Reclaimed h u →
      Reclaimed h (l.foldl (fun s e => s.withdraw e true none) u) := fun _ _ hU =>
    hU.foldl fun _ _ hV => hV.of_same (State.withdraw_sameLeases .rfl0)
  exact (hWithdrawn _ _ (hReleased _ _ (hUnmapped _ _ hR))).of_same
    (State.stopRingsOf_sameLeases (State.disown_sameLeases .rfl0))

end Reclaimed

/-- What a host that enters RECLAIM loses at once (R184): its domains, the barriers it waits at, its buffers and its
sessions. -/
def State.loseHost (s : State) (h : Nat) : State :=
  let doms := (s.coh.domains.filter fun d => decide (d.2.st = .up) && (d.2.slotOf h).isSome).map (·.1)
  let s := doms.foldl (fun s d => s.domainDown d 2) s
  let bars := (s.repro.barriers.filter fun b => b.2.arrivals.any fun a => decide (a.1 = h)).map (·.1)
  let s := bars.foldl (fun s b => s.endBarrier b cLeaseEnded 0) s
  let s := (s.bufsWhere fun b => decide (b.st ≠ .free ∧ b.owner = h)).foldl State.forceClose s
  let s := s.endSessions fun x => decide (x.host = h)
  s.raise 0x0401 sevNotice s.actDie (leBytes 2 h)

theorem State.loseHost_sameLeases (s : State) (h : Nat) : SameLeases s (s.loseHost h) := by
  have hDomains : ∀ l : List Nat, SameLeases s (l.foldl (fun s d => s.domainDown d 2) s) := fun _ =>
    .foldl .rfl0 fun _ _ hV => State.domainFalls_sameLeases hV
  have hBarriers : ∀ (u : State) (l : List Nat), SameLeases s u →
      SameLeases s (l.foldl (fun s b => s.endBarrier b cLeaseEnded 0) u) := fun _ _ hU =>
    .foldl hU fun _ _ hV => State.endBarrier_sameLeases hV
  have hBuffers : ∀ (u : State) (l : List Nat), SameLeases s u → SameLeases s (l.foldl State.forceClose u) :=
    fun _ _ hU => .foldl hU fun _ _ hV => State.forceClose_sameLeases hV
  unfold State.loseHost
  exact State.raise_sameLeases (State.endSessions_sameLeases (hBuffers _ _ (hBarriers _ _ (hDomains _))))

/-- The lease of host `h` enters RECLAIM, and is counted (R184). -/
def State.markReclaim (s : State) (h : Nat) : State :=
  ((s.setLease h { s.lease h with st := .reclaim }).setLeaseGone h true).bump 3 h 2 1

theorem State.markReclaim_reclaimed (s : State) (h : Nat) : Reclaimed h (s.markReclaim h) := by
  unfold State.markReclaim
  generalize hLease : s.setLease h { s.lease h with st := .reclaim } = u
  refine ⟨?_, Tab.get_set_self false u.fab.leaseGone h true⟩
  have hPool : ((u.setLeaseGone h true).bump 3 h 2 1).pool = u.pool := rfl
  rw [State.lease_of_pool hPool, ← hLease, State.lease_setLease]

/-- The reclaim of a host begins, or waits for the members of the set (R201). -/
def State.reclaimOrWait (s : State) (h : Nat) : State :=
  if s.isMaster ∧ s.joined ≠ [] then
    { s with pool := { s.pool with reclaimWait := s.pool.reclaimWait ++ [(h, s.epoch)] } }
  else s.reclaim h

theorem State.enterReclaim_eq (s : State) (h : Nat) :
    s.enterReclaim h = ((s.markReclaim h).loseHost h).reclaimOrWait h := by
  unfold State.enterReclaim State.reclaimOrWait State.loseHost State.markReclaim
  dsimp only

/-- A host that enters RECLAIM is in RECLAIM, with its LEASE_GONE bit set, whatever the reclaim takes from it. -/
theorem State.enterReclaim_reclaimed (s : State) (h : Nat) : Reclaimed h (s.enterReclaim h) := by
  have hLost : Reclaimed h ((s.markReclaim h).loseHost h) :=
    (s.markReclaim_reclaimed h).of_same ((s.markReclaim h).loseHost_sameLeases h)
  rw [State.enterReclaim_eq]
  generalize (s.markReclaim h).loseHost h = t at hLost
  unfold State.reclaimOrWait
  split
  · exact hLost
  · exact hLost.reclaim h

end Sys2Proof.Machine
end

section
/-! Leases (chapter 7): LEASE_RENEW, and the steps by which a lease ends and is reclaimed. -/

namespace Sys2Proof.Machine
open Sys2Proof

/-! ## LEASE_RENEW (R184, R187) -/

/-- A renewal that the grace period has saved is counted. -/
def State.countGrace (s : State) (v : Via) : State :=
  if (s.lease (s.viaHost v)).st = .grace ∧ (s.lease (s.viaHost v)).endEpoch ≤ s.viaEpoch v + 8 then
    s.bump 3 (s.viaHost v) 1 1
  else s

theorem State.countGrace_frame (s : State) (v : Via) : KeepsBut [.ctrs] s (s.countGrace v) :=
  .ite (fun _ => State.bump_keeps .rfl0 (by decide)) fun _ => .rfl0

/-- LEASE_RENEW as carried out: the renewals are counted, and the lease runs to epoch `n`. -/
def State.renewed (s : State) (v : Via) (n : Nat) : State :=
  ((s.countGrace v).setLease (s.viaHost v) { s.lease (s.viaHost v) with st := .live, endEpoch := n }).bump 3
    (s.viaHost v) 0 1

theorem State.renewed_frame (s : State) (v : Via) (n : Nat) : KeepsBut [.pool, .twin, .ctrs] s (s.renewed v n) :=
  State.bump_keeps (State.setLease_keeps ((s.countGrace_frame v).mono (by decide)) (by decide)) (by decide)

theorem State.renewed_lease (s : State) (v : Via) (n : Nat) :
    (s.renewed v n).lease (s.viaHost v) = { s.lease (s.viaHost v) with st := .live, endEpoch := n } ∧
      ∀ i, i ≠ s.viaHost v → (s.renewed v n).lease i = s.lease i := by
  have hPool : (s.renewed v n).pool = ((s.countGrace v).setLease (s.viaHost v)
      { s.lease (s.viaHost v) with st := .live, endEpoch := n }).pool := State.bump_pool _ _ _ _ _
  refine ⟨?_, fun i hi => ?_⟩
  · rw [State.lease_of_pool hPool, State.lease_setLease]
  · rw [State.lease_of_pool hPool, State.lease_setLease_ne _ _ hi,
      State.lease_of_pool (s.countGrace_frame v .pool (by decide))]

/-- The note of a renewal in the journals takes no message and no frame (R187). -/
theorem State.noteRenew_frame (s : State) (v : Via) : KeepsBut [.twin, .rsl] s (s.noteRenew v) := by
  cases v with
  | fabric h => exact upd_twin .rfl0 (by decide)
  | rsl c => exact upd_rsl .rfl0 (by decide)
  | ch c sid => exact .rfl0

theorem State.noteRenew_out (s : State) (v : Via) : (s.noteRenew v).rsl.out = s.rsl.out := by cases v <;> rfl

theorem Completes.noteRenew {r t : State} {v w : Via} {cmd rsp code value : Nat} {body extra : List Byte}
    (h : Completes r t v cmd rsp code value body extra) : Completes r (t.noteRenew w) v cmd rsp code value body extra :=
  h.congr rfl rfl rfl (congrArg Fabric.unbound (t.noteRenew_frame w .fab (by decide))) (t.noteRenew_out w)

section Renew
variable {v : Via} {s : State} (hReaches : Reaches v 0x40 [1] 0 s) (hMastered : Mastered (reached v 0x40 s))
  (hHost : (reached v 0x40 s).viaHost v < 4096)
include hReaches hMastered hHost

theorem exec_leaseRenew : exec (.leaseRenew v) s =
    .next ((leaseRenewAct v (reached v 0x40 s)).noteRenew v) := by
  have hForm : ¬ (4096 ≤ (reached v 0x40 s).viaHost v ∧ viaOperator v = true) := fun ⟨hHigh, _⟩ => by omega
  simp only [exec, execLeaseRenew, classThree_mastered hReaches hMastered, if_neg hForm]

end Renew

/-- A lease that is LIVE or GRACE runs on, for a lease period from the epoch at which the command is judged (R184). -/
theorem leaseRenewAct_held {v : Via} {r : State} (h : (r.lease (r.viaHost v)).st = .live ∨
    (r.lease (r.viaHost v)).st = .grace) :
    let n := r.viaEpoch v + r.cfgAt fLeasePeriod
    leaseRenewAct v r = (r.renewed v n).extCpl v 0x40 cOk 0 0 n := by
  have hCfg := State.cfgAt_of_cfg (r.countGrace_frame v .cfg (by decide)) fLeasePeriod
  unfold leaseRenewAct State.renewed
  rw [if_pos h, ← hCfg]
  rfl

theorem leaseRenewAct_ended {v : Via} {r : State} (h : (r.lease (r.viaHost v)).st = .none ∨
    (r.lease (r.viaHost v)).st = .reclaim) : leaseRenewAct v r = r.extCpl v 0x40 cLeaseEnded 0 0 0 := by
  refine if_neg fun hHeld => ?_
  rcases h with h | h <;> simp [h] at hHeld

/-! ## LEASE_END, GRACE_END, RECLAIM_DONE (R184, R187, R188) -/

theorem exec_leaseEnd_due {h : Nat} {s : State} (hLive : (s.lease h).st = .live)
    (hDue : (s.lease h).endEpoch ≤ s.epoch) :
    exec (.leaseEnd h) s =
      .next (s.setLease h { s.lease h with st := .grace, endEpoch := (s.lease h).endEpoch + 8 }) := by
  simp only [exec, execLeaseEnd, State.leaseEnd, hLive, hDue, and_self, if_true]

theorem exec_graceEnd_due {h : Nat} {s : State} (hGrace : (s.lease h).st = .grace)
    (hDue : (s.lease h).endEpoch ≤ s.epoch) : exec (.graceEnd h) s = .next (s.enterReclaim h) := by
  simp only [exec, execGraceEnd, State.graceEnd, hGrace, hDue, and_self, if_true]

theorem exec_reclaimDone_over {h : Nat} {s : State} (hReclaim : (s.lease h).st = .reclaim) (hGrants : s.grantsOf h = [])
    (hOwned : ∀ e, e ∈ s.pool.exts → e.2.ownedBy h = true → e.2.shared = true)
    (hWaits : ∀ w, w ∈ s.pool.reclaimWait → w.1 ≠ h) :
    exec (.reclaimDone h) s = .next ((s.setLease h { s.lease h with st := .none, endEpoch := 0 }).raise 0x0402 sevInfo
      s.actDie (leBytes 2 h)) := by
  have hNoneOwned : (s.pool.exts.any fun e => e.2.ownedBy h && !e.2.shared) = false := by
    refine List.any_eq_false.mpr fun e he hBoth => ?_
    obtain ⟨hOwns, hPrivate⟩ := Bool.and_eq_true_iff.mp hBoth
    rw [hOwned e he hOwns] at hPrivate
    cases hPrivate
  have hNoneWaits : (s.pool.reclaimWait.any fun w => decide (w.1 = h)) = false :=
    List.any_eq_false.mpr fun w hw => by simp [hWaits w hw]
  have hOver : (s.lease h).st = .reclaim ∧ s.grantsOf h = [] ∧
      ¬ ((s.pool.exts.any fun e => e.2.ownedBy h && !e.2.shared) = true) ∧
      ¬ ((s.pool.reclaimWait.any fun w => decide (w.1 = h)) = true) :=
    ⟨hReclaim, hGrants, by simp [hNoneOwned], by simp [hNoneWaits]⟩
  exact congrArg Host.Outcome.next (if_pos hOver)

/-- Settles O18: each command by its equation, then by the lease that it writes; what a reclaim takes from a host leaves
its lease in RECLAIM. -/
theorem leasesAreRenewedAndEnd : Obligations.LeasesAreRenewedAndEnd := by
  refine ⟨fun v s hReaches => ?_, fun v s hReaches => ?_, fun h s hLive hDue => ?_, fun h s hGrace hDue => ?_,
    fun h s hReclaim hGrants hOwned hWaits => ?_⟩
  · intro r h n hMastered hHost hHeld
    obtain ⟨hLease, hOthers⟩ := r.renewed_lease v n
    have hFrame := r.renewed_frame v n
    have hAnswered := State.finish_frame (r.renewed v n) v 0x40 0x46 cOk n (extCplBody cOk 0 0 n (zeros 16)) []
    have hExec := exec_leaseRenew hReaches hMastered hHost
    rw [leaseRenewAct_held hHeld] at hExec
    have hKeeps : KeepsBut (.pool :: answerParts) r (((r.renewed v n).extCpl v 0x40 cOk 0 0 n).noteRenew v) :=
      ((hFrame.mono (by decide)).trans (hAnswered.mono (by decide))).trans
        ((State.noteRenew_frame _ v).mono (by decide))
    have hPool : (((r.renewed v n).extCpl v 0x40 cOk 0 0 n).noteRenew v).pool = (r.renewed v n).pool :=
      ((State.noteRenew_frame _ v) .pool (by decide)).trans (hAnswered .pool (by decide))
    refine does_intro hExec ⟨(State.lease_of_pool hPool h).trans hLease,
      fun i hi => (State.lease_of_pool hPool i).trans (hOthers i hi), Completes.noteRenew (completes_of ?_ ?_ ?_),
      hKeeps⟩
    · rw [hFrame .fab (by decide)]
    · exact hFrame .rsl (by decide)
    · exact hFrame .sec (by decide)
  · intro r h hMastered hHost hEnded
    have hExec := exec_leaseRenew hReaches hMastered hHost
    rw [leaseRenewAct_ended hEnded] at hExec
    exact does_intro hExec ⟨Completes.noteRenew (completes_of rfl rfl rfl),
      (State.finish_frame _ _ _ _ _ _ _ _).trans ((State.noteRenew_frame _ v).mono (by decide))⟩
  · exact does_intro (exec_leaseEnd_due hLive hDue)
      ⟨State.lease_setLease _ _ _, fun i hi => State.lease_setLease_ne _ _ hi, State.setLease_frame _ _ _⟩
  · obtain ⟨hReclaim, hGone⟩ := s.enterReclaim_reclaimed h
    exact does_intro (exec_graceEnd_due hGrace hDue) ⟨hReclaim, hGone, State.enterReclaim_keeps .rfl0 (by decide)⟩
  · have hEnded := s.setLease_frame h { s.lease h with st := .none, endEpoch := 0 }
    refine does_intro (exec_reclaimDone_over hReclaim hGrants hOwned hWaits) ⟨?_, fun i hi => ?_,
      raised_of_keeps hEnded (by decide) _ _ _ _, State.raise_keeps (hEnded.mono (by decide)) (by decide)⟩
    · rw [State.lease_of_pool (State.raise_pool _ _ _ _ _), State.lease_setLease]
    · rw [State.lease_of_pool (State.raise_pool _ _ _ _ _), State.lease_setLease_ne _ _ hi]

end Sys2Proof.Machine
end

section
/-! Allocation, grants and releases (chapter 7), where no other member of the set has to be ordered. -/

namespace Sys2Proof.Machine
open Sys2Proof

/-! ## What the three commands share -/

/-- A release of one completion is that completion. -/
theorem State.releaseAll_one (s : State) (h : HeldCpl) :
    s.releaseAll (some h).toList = s.finish h.via h.cmd h.rsp h.code h.value h.body h.extra := rfl

/-- A command that reached its table as `r`, changed what `w` shows and is then completed: the pool stands as in `w`,
and the completion is made. -/
theorem finished_effect {ps : List Area} {r w : State} {v : Via} {cmd rsp code value : Nat} {body extra : List Byte}
    (hKeeps : KeepsBut ps r w) (hRsl : Area.rsl ∉ ps) (hSec : Area.sec ∉ ps)
    (hUnbound : w.fab.unbound = r.fab.unbound) :
    let t := w.finish v cmd rsp code value body extra
    t.pool = w.pool ∧ Completes r t v cmd rsp code value body extra ∧ KeepsBut (ps ++ answerParts) r t :=
  have hAnswered := w.finish_frame v cmd rsp code value body extra
  ⟨hAnswered .pool (by decide), completes_of hUnbound (hKeeps .rsl hRsl) (hKeeps .sec hSec),
    (hKeeps.mono (List.subset_append_left _ _)).trans (hAnswered.mono (List.subset_append_right _ _))⟩

theorem State.makeGrant_frame (s : State) (e h rights n : Nat) :
    KeepsBut [.fab, .pool, .twin] s (s.makeGrant e h rights n) := State.makeGrant_keeps .rfl0 (by decide)

theorem State.grant_of_set {s t : State} {e h w : Nat}
    (hGrants : t.pool.grants = Tab.set 0 s.pool.grants (grantKey e h) w) :
    t.grant e h = w ∧ ∀ i j, grantKey i j ≠ grantKey e h → t.grant i j = s.grant i j := by
  unfold State.grant
  rw [hGrants]
  exact ⟨Tab.get_set_self _ _ _ _, fun i j hNe => Tab.get_set_ne _ _ _ hNe⟩

/-- Changes that leave the configuration, the start and the members alone leave nobody joined who was not. -/
theorem State.joined_of_keeps {ps : List Area} {s t : State} (h : KeepsBut ps s t) (hCfg : Area.cfg ∉ ps)
    (hBoot : Area.boot ∉ ps) (hMembers : t.pool.members = s.pool.members) : t.joined = s.joined :=
  State.joined_of (h .cfg hCfg) (h .boot hBoot) hMembers

/-! ## EXT_ALLOC (R175, R185) -/

/-- The entry of a newly placed extent, its share of this module at page `base` (R174). -/
def State.placedExt (s : State) (e kind tenant owner len : Nat) (mask : BitVec 8) (base : Nat) : Ext :=
  { Ext.empty with
    st := .active, shared := decide (kind = 1), tenant := tenant, owner := owner, hasOwner := true, key := tenant
    mask := mask, base := base, localGran := s.localShare e len mask, lenGran := len }

/-- Placing an extent writes its entry, and no other table of the pool. -/
theorem State.place_pool {s u : State} {e kind tenant owner len : Nat} {mask : BitVec 8}
    (h : s.place e kind tenant owner len mask = some u) :
    ∃ base, u.pool = { s.pool with
      exts := Tab.set Ext.empty s.pool.exts e (s.placedExt e kind tenant owner len mask base) } := by
  unfold State.place at h
  obtain ⟨p, hShare, rfl⟩ := Option.map_eq_some_iff.mp h
  have hPool : p.1.pool = s.pool :=
    State.placeShare_keeps (ps := [.mem, .evs, .ctrs]) .rfl0 (by decide) _ hShare .pool (by decide)
  refine ⟨p.2, ?_⟩
  rw [State.setExt_pool, hPool]
  rfl

theorem State.place_frame {s u : State} {e kind tenant owner len : Nat} {mask : BitVec 8}
    (h : s.place e kind tenant owner len mask = some u) : KeepsBut [.pool, .mem, .twin, .evs, .ctrs] s u :=
  State.place_keeps .rfl0 (by decide) _ h

section Alloc
variable {r u : State} {v : Via} {kind rights len tenant : Nat}
  (hKind : kind ≤ 1) (hSome : 1 ≤ rights) (hRights : rights ≤ 7) (hLen : len ≠ 0) (hOwner : r.viaHost v ≤ 4095)
  (hTenant : r.tenantOf (r.viaHost v) = some tenant) (hTenants : tenant ≤ 1023)
  (hSender : ∀ c, v = .rsl c → c.tenant = tenant) (hLife : r.decommissioned = false)
  (hQuota : r.tenantGran tenant + len ≤ Tab.get 0 r.pool.quotas tenant) (hReady : r.boot.poolReady.isSome = true)
  (hAdvance : r.lcRunning = false) (hFormed : r.setSize = 1 ∨ r.pool.formEnded = true)
  (hLease : r.inReclaim (r.viaHost v) = false) (hFree : lowestFree 0 (r.pool.exts.map (·.1)) ≤ 16383)
  (hRoom : r.pool.grants.length < 65536)
  (hPlace : r.place (lowestFree 0 (r.pool.exts.map (·.1))) kind tenant (r.viaHost v) len r.allocMask = some u)
include hKind hSome hRights hLen hOwner hTenant hTenants hSender hLife hQuota hReady hAdvance hFormed hLease hFree hRoom
  hPlace

/-- Past every check of R185 the extent is placed, its owner granted, and the members ordered. -/
theorem extAllocAct_placed :
    let e := lowestFree 0 (r.pool.exts.map (·.1))
    extAllocAct v kind rights len 0 r =
      (u.makeGrant e (r.viaHost v) rights u.epoch).orderMask r.allocMask
        (.place e kind tenant (r.viaHost v) len rights r.allocMask.toNat) []
        (some ⟨v, 0x41, 0x46, cOk, 0, extCplBody cOk r.allocMask.toNat e 0 (zeros 16), []⟩) := by
  have hForm : ¬ (1 < kind ∨ rights = 0 ∨ 7 < rights ∨ len = 0 ∨ (0 : Nat) ≠ 0 ∨ 1023 < tenant ∨
      4095 < r.viaHost v) := by omega
  have hHeld : ¬ (some tenant = none ∨ some tenant ≠ some tenant) := by simp
  have hQuotas : ¬ Tab.get 0 r.pool.quotas tenant < r.tenantGran tenant + len := by omega
  have hWiped : ¬ r.boot.poolReady = none := fun hNone => by rw [hNone] at hReady; cases hReady
  have hForming : ¬ (r.lcRunning = true ∨ (1 < r.setSize ∧ ¬ r.pool.formEnded = true)) := by
    rw [hAdvance]
    rintro (hNot | ⟨hSet, hNot⟩)
    · cases hNot
    · rcases hFormed with hOne | hEnded
      · omega
      · exact hNot hEnded
  have hSpace : ¬ (16383 < lowestFree 0 (r.pool.exts.map (·.1)) ∨ 65536 ≤ r.pool.grants.length) := by omega
  cases v
  all_goals simp only [extAllocAct, hSender, hTenant, Option.getD_some, if_neg hForm, hLife, if_neg hHeld,
    if_neg hQuotas, if_neg hWiped, if_neg hForming, hLease, if_neg hSpace, hPlace, Bool.false_eq_true, if_false]

end Alloc

/-- An extent that is placed, granted to its owner and answered: what each table reads. -/
theorem placed_effect {r u : State} {v : Via} {e kind rights len tenant owner code value : Nat} {mask : BitVec 8}
    {body extra : List Byte} (hPlace : r.place e kind tenant owner len mask = some u) :
    let t := (u.makeGrant e owner rights u.epoch).finish v 0x41 0x46 code value body extra
    (∃ base, t.ext e = r.placedExt e kind tenant owner len mask base) ∧ t.ext e = u.ext e ∧
      (∀ i, i ≠ e → t.ext i = r.ext i) ∧ t.grant e owner = rights ∧
      (∀ i h, grantKey i h ≠ grantKey e owner → t.grant i h = r.grant i h) ∧
      ((r.lease owner).st = .none →
        t.lease owner = { r.lease owner with st := .live, endEpoch := r.epoch + r.cfgAt fLeasePeriod }) ∧
      ((r.lease owner).st ≠ .none → t.lease owner = r.lease owner) ∧
      Completes r t v 0x41 0x46 code value body extra ∧ SameBytes r t ∧
      KeepsBut ([.pool, .mem, .evs] ++ answerParts) r t := by
  obtain ⟨base, hPool⟩ := State.place_pool hPlace
  have hPlaced := State.place_frame hPlace
  have hGranted := u.makeGrant_frame e owner rights u.epoch
  obtain ⟨hGrants, hExts, -, hFirst, hMore, hUnbound⟩ := u.makeGrant_effect e owner rights u.epoch
  have hFrame : KeepsBut [.pool, .mem, .twin, .evs, .ctrs, .fab] r (u.makeGrant e owner rights u.epoch) :=
    (hPlaced.mono (by decide)).trans (hGranted.mono (by decide))
  obtain ⟨hEnd, hCompletes, hKeeps⟩ := finished_effect (v := v) (cmd := 0x41) (rsp := 0x46) (code := code)
    (value := value) (body := body) (extra := extra) hFrame (by decide) (by decide)
    (hUnbound.trans (congrArg Fabric.unbound (hPlaced .fab (by decide))))
  have hLease : u.lease owner = r.lease owner := State.lease_of_leases (by rw [hPool]) _
  have hCfg : u.cfgAt fLeasePeriod = r.cfgAt fLeasePeriod := State.cfgAt_of_cfg (hPlaced .cfg (by decide)) _
  have hEpoch : u.epoch = r.epoch := State.epoch_of_clk (hPlaced .clk (by decide))
  rw [hLease] at hFirst hMore
  have hCells : Cells r (u.makeGrant e owner rights u.epoch) := State.makeGrant_cells (State.place_cells .rfl0 _ hPlace)
  have hExtOf : ∀ i, ((u.makeGrant e owner rights u.epoch).finish v 0x41 0x46 code value body extra).ext i = u.ext i :=
    fun i => State.ext_of_exts ((congrArg Pool.exts hEnd).trans hExts) i
  have hExtAt : ∀ i, u.ext i = if i = e then r.placedExt e kind tenant owner len mask base else r.ext i := fun i => by
    unfold State.ext
    rw [hPool]
    dsimp only
    rw [Tab.get_set]
  have hGrantOf := State.grant_of_set (s := r) (t := (u.makeGrant e owner rights u.epoch).finish v 0x41 0x46 code value
    body extra) (e := e) (h := owner) (w := rights) (by rw [hEnd, hGrants, hPool])
  dsimp only
  refine ⟨⟨base, ?_⟩, hExtOf e, fun i hi => ?_, hGrantOf.1, hGrantOf.2, fun hNone => ?_, fun hSome => ?_, hCompletes,
    (hCells.after (State.finish_frame _ _ _ _ _ _ _ _) (by decide)).sameBytes, hKeeps.mono (by decide)⟩
  · rw [hExtOf, hExtAt, if_pos rfl]
  · rw [hExtOf, hExtAt, if_neg hi]
  · rw [State.lease_of_pool hEnd, hFirst hNone, hCfg, hEpoch]
  · rw [State.lease_of_pool hEnd, hMore hSome]

/-! ## EXT_GRANT and EXT_RELEASE (R186) -/

/-- Past every check of R186 the grant is made, and the members ordered. -/
theorem extGrantAct_made {r : State} {v : Via} {ext host rights : Nat} (hExt : ext ≤ 16383) (hHost : host ≤ 4095)
    (hSome : 1 ≤ rights) (hRights : rights ≤ 7) (hLife : r.decommissioned = false) (hAdvance : r.lcRunning = false)
    (hReady : r.boot.poolReady.isSome = true) (hActive : (r.ext ext).st = .active)
    (hOwner : r.notOwner v (r.ext ext) = false) (hShared : (r.ext ext).shared = true)
    (hVersion : r.isVersion ext = false) (hTenant : r.tenantOf host = some (r.ext ext).tenant)
    (hSealed : (r.ext ext).sealed = true → bitOf rights 2 = false) (hLease : r.inReclaim host = false)
    (hRoom : r.grant ext host ≠ 0 ∨ r.pool.grants.length < 65536) :
    extGrantAct v ext host rights 0 r =
      (r.makeGrant ext host rights r.epoch).orderMask (r.ext ext).mask (.grant ext host rights) []
        (some ⟨v, 0x42, 0x46, cOk, 0, extCplBody cOk (r.ext ext).mask.toNat ext 0 (zeros 16), []⟩) := by
  have hForm : ¬ (16383 < ext ∨ 4095 < host ∨ rights = 0 ∨ 7 < rights ∨ (0 : Nat) ≠ 0) := by omega
  have hWiped : ¬ r.boot.poolReady = none := fun hNone => by rw [hNone] at hReady; cases hReady
  have hMayShare : ¬ (r.tenantOf host ≠ some (r.ext ext).tenant ∨
      ((r.ext ext).sealed = true ∧ bitOf rights 2 = true)) := by
    rintro (hNot | ⟨hIs, hAtomic⟩)
    · exact hNot hTenant
    · rw [hSealed hIs] at hAtomic; cases hAtomic
  have hSpace : ¬ (r.grant ext host = 0 ∧ 65536 ≤ r.pool.grants.length) := fun ⟨hNew, hFull⟩ =>
    hRoom.elim (fun hOld => hOld hNew) fun hLow => by omega
  simp only [extGrantAct, if_neg hForm, hLife, hAdvance, if_neg hWiped, if_neg (not_not_intro hActive), hOwner, hShared,
    hVersion, if_neg hMayShare, hLease, if_neg hSpace, Bool.not_true, Bool.or_self, Bool.false_eq_true, if_false]

/-- A release that is well formed and rightful. -/
theorem extReleaseAct_formed {r : State} {v : Via} {ext host : Nat} (hExt : ext ≤ 16383) (hHost : host ≤ 4095)
    (hUsed : (r.ext ext).st ≠ .free) (hOwner : r.notOwner v (r.ext ext) = false ∨ r.viaHost v = host)
    (hVersion : r.isVersion ext = false) :
    extReleaseAct v ext host 0 r =
      if r.grant ext host = 0 then r.extCpl v 0x43 cOk 0 ext 0
      else if (!(r.ext ext).shared) = true then (r.ungrant ext host none).withdraw ext false (some (v, 0x43))
      else r.ungrant ext host (some ⟨v, 0x43, 0x46, cOk, 0, extCplBody cOk 0 ext 0 (zeros 16), []⟩) := by
  have hForm : ¬ (16383 < ext ∨ 4095 < host ∨ (0 : Nat) ≠ 0) := by omega
  have hMay : ¬ (r.notOwner v (r.ext ext) = true ∧ r.viaHost v ≠ host) := fun ⟨hNot, hOther⟩ =>
    hOwner.elim (fun hIs => by rw [hIs] at hNot; cases hNot) hOther
  have hNumber : ext < 16384 := by omega
  simp only [extReleaseAct, if_neg hForm, if_neg hUsed, if_neg hMay, hVersion, hNumber, if_true, Bool.false_eq_true,
    if_false]

/-- Settles O19: past the checks each command is one write of the grant table, a new extent's entry before it, and one
completion, since nobody has to be ordered. -/
theorem extentsAreAllocatedGrantedAndReleased : Obligations.ExtentsAreAllocatedGrantedAndReleased := by
  refine ⟨fun v kind rights len s hReaches => ?_, fun v ext host rights s hReaches => ?_,
    fun v ext host s hReaches => ?_,
    fun v ext host s hReaches => ?_⟩
  · intro r owner e tenant u hMastered hAlone hKind hSome hRights hLen hOwner hTenant hTenants hSender hLife hQuota
      hReady
      hAdvance hFormed hLease hFree hRoom hPlace
    obtain ⟨base, hPool⟩ := State.place_pool hPlace
    have hFrame := (State.place_frame hPlace).mono (qs := [.fab, .pool, .mem, .twin, .evs, .ctrs]) (by decide)
    have hJoined : (u.makeGrant e owner rights u.epoch).joined = [] := by
      rw [State.joined_of_keeps (hFrame.trans ((u.makeGrant_frame _ _ _ _).mono (by decide))) (by decide) (by decide)
        ((u.makeGrant_effect _ _ _ _).2.2.1.trans (by rw [hPool])), hAlone]
    have hAct : exec (.extAlloc v kind rights len 0) s = .next (extAllocAct v kind rights len 0 r) :=
      congrArg Host.Outcome.next (classThree_mastered hReaches hMastered)
    rw [extAllocAct_placed hKind hSome hRights hLen hOwner hTenant hTenants hSender hLife hQuota hReady hAdvance hFormed
      hLease hFree hRoom hPlace, State.orderMask_alone hJoined, State.releaseAll_one] at hAct
    obtain ⟨⟨base, hEntry⟩, hExt, hRest⟩ := placed_effect (v := v) (rights := rights) (code := cOk) (value := 0)
      (body := extCplBody cOk r.allocMask.toNat e 0 (zeros 16)) (extra := []) hPlace
    refine does_intro hAct ⟨hExt, ?_, ?_, ?_, ?_, ?_, ?_, hRest⟩
    all_goals rw [hEntry]; rfl
  · intro r x hMastered hAlone hExt hHost hSome hRights hLife hAdvance hReady hActive hOwner hShared hVersion hTenant
      hSealed hLease hRoom
    have hFrame := r.makeGrant_frame ext host rights r.epoch
    obtain ⟨hGrants, hExts, hMembers, hFirst, hMore, hUnbound⟩ := r.makeGrant_effect ext host rights r.epoch
    have hJoined : (r.makeGrant ext host rights r.epoch).joined = [] := by
      rw [State.joined_of_keeps hFrame (by decide) (by decide) hMembers, hAlone]
    have hAct : exec (.extGrant v ext host rights 0) s = .next (extGrantAct v ext host rights 0 r) :=
      congrArg Host.Outcome.next (classThree_mastered hReaches hMastered)
    rw [extGrantAct_made hExt hHost hSome hRights hLife hAdvance hReady hActive hOwner hShared hVersion hTenant hSealed
      hLease hRoom, State.orderMask_alone hJoined, State.releaseAll_one] at hAct
    obtain ⟨hPool, hCompletes, hKeeps⟩ := finished_effect (v := v) (cmd := 0x42) (rsp := 0x46) (code := cOk)
      (value := 0) (body := extCplBody cOk x.mask.toNat ext 0 (zeros 16)) (extra := []) hFrame (by decide) (by decide)
      hUnbound
    obtain ⟨hGrant, hOthers⟩ := State.grant_of_set (s := r) ((congrArg Pool.grants hPool).trans hGrants)
    exact does_intro hAct ⟨hGrant, hOthers, fun hNone => (State.lease_of_pool hPool _).trans (hFirst hNone),
      fun hHas => (State.lease_of_pool hPool _).trans (hMore hHas), (congrArg Pool.exts hPool).trans hExts, hCompletes,
      hKeeps.mono (by decide)⟩
  · intro r x hMastered hAlone hExt hHost hUsed hOwner hVersion hShared hHeld
    have hFrame : KeepsBut [.pool, .twin] r (r.dropGrant ext host) := State.dropGrant_keeps .rfl0 (by decide)
    obtain ⟨hGrants, hExts, hMembers⟩ := r.dropGrant_effect ext host
    have hJoined : (r.dropGrant ext host).joined = [] := by
      rw [State.joined_of_keeps hFrame (by decide) (by decide) hMembers, hAlone]
    have hAct : exec (.extRelease v ext host 0) s = .next (extReleaseAct v ext host 0 r) :=
      congrArg Host.Outcome.next (classThree_mastered hReaches hMastered)
    rw [extReleaseAct_formed hExt hHost hUsed hOwner hVersion, if_neg hHeld, if_neg (by rw [hShared]; decide),
      State.ungrant, State.orderMask_alone hJoined, State.releaseAll_one] at hAct
    obtain ⟨hPool, hCompletes, hKeeps⟩ := finished_effect (v := v) (cmd := 0x43) (rsp := 0x46) (code := cOk)
      (value := 0) (body := extCplBody cOk 0 ext 0 (zeros 16)) (extra := []) hFrame (by decide) (by decide)
      (congrArg Fabric.unbound (hFrame .fab (by decide)))
    obtain ⟨hGrant, hOthers⟩ := State.grant_of_set (s := r) ((congrArg Pool.grants hPool).trans hGrants)
    exact does_intro hAct ⟨hGrant, hOthers, (congrArg Pool.exts hPool).trans hExts, hCompletes, hKeeps.mono (by decide)⟩
  · intro r x hMastered hExt hHost hUsed hOwner hVersion hNone
    have hAct : exec (.extRelease v ext host 0) s = .next (extReleaseAct v ext host 0 r) :=
      congrArg Host.Outcome.next (classThree_mastered hReaches hMastered)
    rw [extReleaseAct_formed hExt hHost hUsed hOwner hVersion, if_pos hNone] at hAct
    exact does_intro hAct ⟨completes_of rfl rfl rfl, State.finish_frame _ _ _ _ _ _ _ _⟩

end Sys2Proof.Machine
end

section
/-! Withdrawal (chapter 7): what EXT_WITHDRAW leaves of the pool's tables with either FORCE, and what of them is cleared
when the extent becomes FREE. -/

namespace Sys2Proof.Machine
open Sys2Proof

/-! ## Orders write nothing of the pool but the list of orders (R200) -/

theorem State.sendOrders_pool (s : State) (l : List (Nat × SetOrder)) :
    (s.sendOrders l).1.pool = { s.pool with orderTag := (s.sendOrders l).1.pool.orderTag } := by
  induction l generalizing s with
  | nil => rfl
  | cons a l ih => exact ih (s.sendOrder a.1 a.2).1

theorem State.releaseAll_pool (s : State) (hs : List HeldCpl) : (s.releaseAll hs).pool = s.pool :=
  State.releaseAll_keeps (ps := answerParts) .rfl0 (by decide) .pool (by decide)

theorem State.orderMask_pool (s : State) (mask : BitVec 8) (first : SetOrder) (more : List SetOrder)
    (held : Option HeldCpl) :
    let t := s.orderMask mask first more held
    t.pool = { s.pool with orders := t.pool.orders, orderTag := t.pool.orderTag } := by
  have hSent := s.sendOrders_pool
    ((s.joined.filter fun i => mask.getLsbD i).flatMap fun i => (first :: more).map fun o => (i, o))
  unfold State.orderMask
  dsimp only
  split
  · rw [State.releaseAll_pool]
  · dsimp only
    rw [hSent]

/-! ## EXT_WITHDRAW (R189, R191, R193) -/

section Withdraw
variable {r : State} {v : Via} {ext force : Nat}

/-- A withdrawal that is well formed, rightful, and of an extent that neither a region nor an UP domain holds. -/
theorem extWithdrawAct_formed (hExt : ext ≤ 16383) (hForce : force ≤ 1) (hUsed : (r.ext ext).st ≠ .free)
    (hOwner : r.notOwner v (r.ext ext) = false) (hOperator : force = 1 → viaOperator v = true)
    (hVersion : r.isVersion ext = false) (hBound : r.boundUp (r.ext ext) = false) :
    extWithdrawAct v ext force 0 r = r.withdraw ext (decide (force = 1)) (some (v, 0x44)) := by
  have hForm : ¬ (16383 < ext ∨ 1 < force ∨ (0 : Nat) ≠ 0) := by omega
  have hMay : ¬ (r.notOwner v (r.ext ext) = true ∨ (force = 1 ∧ ¬ viaOperator v = true)) := by
    rw [hOwner]
    rintro (hNot | ⟨hIs, hNot⟩)
    · cases hNot
    · exact hNot (hOperator hIs)
  simp only [extWithdrawAct, if_neg hForm, if_neg hUsed, if_neg hMay, hVersion, hBound, Bool.false_eq_true, or_self,
    if_false]

theorem extWithdrawAct_free (hExt : ext ≤ 16383) (hForce : force ≤ 1) (hFree : (r.ext ext).st = .free) :
    extWithdrawAct v ext force 0 r = r.extCpl v 0x44 cRevoked 0 ext 0 := by
  have hForm : ¬ (16383 < ext ∨ 1 < force ∨ (0 : Nat) ≠ 0) := by omega
  have hNumber : ext < 16384 := by omega
  simp only [extWithdrawAct, if_neg hForm, hFree, hNumber, if_true]

end Withdraw

theorem exec_extWithdraw {v : Via} {ext force : Nat} {s : State}
    (hReaches : Reaches v 0x44 [1, 5] (BitVec.allOnes 32) s) (hMastered : Mastered (reached v 0x44 s)) :
    exec (.extWithdraw v ext force 0) s = .next (extWithdrawAct v ext force 0 (reached v 0x44 s)) :=
  congrArg Host.Outcome.next (classThree_mastered hReaches hMastered)

theorem State.loseResults_frame (s : State) (e : Nat) : KeepsBut [.stock, .twin] s (s.loseResults e) :=
  State.loseResults_keeps .rfl0 (by decide)

/-- An ACTIVE extent as its withdrawal begins: it is WITHDRAWING, and the sender waits for it to be FREE. -/
def State.withdrawing (s : State) (e : Nat) (w : Owed × Nat) : State :=
  (s.joinWithdrawers e (some w)).startWithdrawal e (s.ext e)

theorem State.withdrawing_eq {s : State} {e : Nat} (w : Owed × Nat) (hActive : (s.ext e).st = .active) :
    s.withdrawing e w =
      ((s.joinWithdrawers e (some w)).setExt e { s.ext e with st := .withdrawing }).loseResults e :=
  if_pos (decide_eq_true hActive)

theorem State.withdrawing_frame {s : State} {e : Nat} (w : Owed × Nat) (hActive : (s.ext e).st = .active) :
    KeepsBut [.pool, .stock, .twin] s (s.withdrawing e w) := by
  rw [State.withdrawing_eq w hActive]
  exact State.loseResults_keeps (State.setExt_keeps (upd_pool .rfl0 (by decide)) (by decide)) (by decide)

theorem State.withdrawing_pool {s : State} {e : Nat} (w : Owed × Nat) (hActive : (s.ext e).st = .active) :
    (s.withdrawing e w).pool = { s.pool with
      exts := Tab.set Ext.empty s.pool.exts e { s.ext e with st := .withdrawing }
      withdrawers := Tab.set [] s.pool.withdrawers e (Tab.get [] s.pool.withdrawers e ++ [w]) } := by
  rw [State.withdrawing_eq w hActive]
  exact ((State.loseResults_frame _ _) .pool (by decide)).trans (State.setExt_pool _ _ _)

/-- The first withdrawal of an ACTIVE extent: the members are ordered. -/
theorem State.withdraw_active {s : State} {e : Nat} (force : Bool) (w : Owed × Nat)
    (hActive : (s.ext e).st = .active) :
    s.withdraw e force (some w) =
      ((s.withdrawing e w).forceWithdrawal e force).orderMask (s.ext e).mask (.withdraw e (b2n force)) [] none := by
  rw [State.withdraw_eq]
  refine if_pos ?_
  unfold State.withdrawIsNews
  rw [hActive]
  rfl

theorem State.forceWithdrawal_pool (s : State) (e : Nat) :
    (s.forceWithdrawal e true).pool = { s.pool with forced := Tab.set false s.pool.forced e true } := by
  have hPool := s.cancelHolders_pool e
  unfold State.forceWithdrawal State.markForced
  simp only [if_true, hPool]

/-- A forced withdrawal leaves the extent WITHDRAWING, marked as forced, with its sender waiting; the orders touch none
of these tables. -/
theorem State.withdraw_forced_tables {s : State} {e : Nat} (w : Owed × Nat) (hActive : (s.ext e).st = .active) :
    let t := s.withdraw e true (some w)
    t.pool.exts = Tab.set Ext.empty s.pool.exts e { s.ext e with st := .withdrawing } ∧
    t.pool.forced = Tab.set false s.pool.forced e true ∧
    t.pool.withdrawers = Tab.set [] s.pool.withdrawers e (Tab.get [] s.pool.withdrawers e ++ [w]) := by
  have hPool := State.orderMask_pool ((s.withdrawing e w).forceWithdrawal e true) (s.ext e).mask
    (.withdraw e (b2n true)) [] none
  dsimp only at hPool ⊢
  rw [State.withdraw_active _ _ hActive]
  rw [State.forceWithdrawal_pool, State.withdrawing_pool w hActive] at hPool
  generalize State.pool _ = p at hPool ⊢
  rw [hPool]
  exact ⟨rfl, rfl, rfl⟩

/-! ## EXTENT_FREE (R189, R192, R193) -/

theorem State.wipePages_frame (s : State) (p n : Nat) : KeepsBut [.mem, .twin] s (s.wipePages p n) :=
  State.wipePages_keeps .rfl0 (by decide)

/-- Wiping an extent's pages writes nothing of the pool but the pages that the ladle has yet to overwrite (R192). -/
theorem State.freePages_pool (s : State) (x : Ext) :
    (s.freePages x).pool = { s.pool with freed := (s.freePages x).pool.freed } := by
  have hWiped : ∀ (l : List Nat) (u : State), (l.foldl (fun s p => s.wipePages p 1) u).pool = u.pool := fun l u =>
    KeepsBut.foldl (ps := [.mem, .twin]) .rfl0 (fun _ _ h => State.wipePages_keeps h (by decide)) .pool (by decide)
  have hRemaps : ∀ (u : State) (lo hi : Nat),
      (u.freeRemaps lo hi).pool = { u.pool with freed := (u.freeRemaps lo hi).pool.freed } := fun u lo hi => by
    unfold State.freeRemaps
    dsimp only
    rw [hWiped]
  have hPages := (s.wipePages_frame x.base (x.localGran * 32)) .pool (by decide)
  unfold State.freePages
  dsimp only
  rw [hRemaps]
  dsimp only
  rw [hPages]

theorem State.dropGrants_exts (s : State) (e : Nat) (hs : List Nat) :
    (hs.foldl (fun s h => s.dropGrant e h) s).pool.exts = s.pool.exts := by
  induction hs generalizing s with
  | nil => rfl
  | cons h hs ih =>
    obtain ⟨-, hExts, -⟩ := s.dropGrant_effect e h
    exact (ih _).trans hExts

/-- The grants on an extent go, its pages are wiped, its entry is cleared, and nobody waits for it any more. -/
def State.clearExt (s : State) (e : Nat) : State :=
  let s := (((s.grantees e).foldl (fun s h => s.dropGrant e h) s).freePages (s.ext e)).setExt e Ext.empty
  { s with pool := { s.pool with
    withdrawers := Tab.set [] s.pool.withdrawers e []
    masterTags := Tab.set [] s.pool.masterTags e []
    forced := Tab.set false s.pool.forced e false } }

theorem State.clearExt_exts (s : State) (e : Nat) :
    (s.clearExt e).pool.exts = Tab.set Ext.empty s.pool.exts e Ext.empty := by
  unfold State.clearExt
  dsimp only
  rw [State.setExt_pool, State.freePages_pool]
  dsimp only
  rw [State.dropGrants_exts]

theorem State.clearExt_withdrawers (s : State) (e : Nat) : Tab.get [] (s.clearExt e).pool.withdrawers e = [] := by
  unfold State.clearExt
  dsimp only
  exact Tab.get_set_self _ _ _ _

/-- What follows the clearing, the answers, the region and the life cycle, touches no table of the pool. -/
theorem State.extentFree_clearExt (s : State) (e : Nat) :
    KeepsBut [.boot, .fab, .repro, .mem, .twin, .sec, .rsl, .ctrs] (s.clearExt e) (s.extentFree e) := by
  unfold State.extentFree State.clearExt
  dsimp -proj only
  refine State.settleLc_keeps ?_ (by decide)
  have hAnswered : ∀ {t u : State} {l : List (Nat × Nat)},
      KeepsBut [.boot, .fab, .repro, .mem, .twin, .sec, .rsl, .ctrs] t u →
      KeepsBut [.boot, .fab, .repro, .mem, .twin, .sec, .rsl, .ctrs] t (l.foldl (fun (s : State) x =>
        s.setReply s.pool.master x.1 0x4B (some x.2) (leBytes 1 cOk)) u) := fun h =>
    KeepsBut.foldl h fun _ _ hStep => State.setReply_keeps hStep (by decide)
  split
  · refine State.settleRegion_keeps (hAnswered ?_) (by decide)
    split
    · exact State.freeSlot_keeps .rfl0 (by decide)
    · exact State.releaseAll_keeps .rfl0 (by decide)
  · refine hAnswered ?_
    split
    · exact State.freeSlot_keeps .rfl0 (by decide)
    · exact State.releaseAll_keeps .rfl0 (by decide)

/-! ## An extent after a write of the table -/

theorem ext_of_exts_set {s t : State} {e : Nat} {x : Ext} (h : t.pool.exts = Tab.set Ext.empty s.pool.exts e x) :
    t.ext e = x := by
  unfold State.ext; rw [h]; exact Tab.get_set_self _ _ _ _

theorem ext_of_exts_set_ne {s t : State} {e i : Nat} {x : Ext} (h : t.pool.exts = Tab.set Ext.empty s.pool.exts e x)
    (hi : i ≠ e) : t.ext i = s.ext i := by
  unfold State.ext; rw [h]; exact Tab.get_set_ne _ _ _ hi

/-- Settles O20: EXT_WITHDRAW by the steps of a withdrawal, EXTENT_FREE by the tables that it clears. -/
theorem withdrawnExtentsDrainAndBecomeFree : Obligations.WithdrawnExtentsDrainAndBecomeFree := by
  refine ⟨fun v ext s hReaches => ?_, fun v ext s hReaches => ?_, fun v ext force s hReaches => ?_,
    fun ext s hDrained => ?_, fun ext s hHeld => ?_⟩
  · intro r x hMastered hAlone hExt hActive hOwner hVersion hBound
    have hPool := State.withdrawing_pool (v, 0x44) hActive
    have hFrame := State.withdrawing_frame (v, 0x44) hActive
    have hJoined : (r.withdrawing ext (v, 0x44)).joined = [] := by
      rw [State.joined_of_keeps hFrame (by decide) (by decide) (by rw [hPool]), hAlone]
    have hExts : (r.withdrawing ext (v, 0x44)).pool.exts =
        Tab.set Ext.empty r.pool.exts ext { x with st := .withdrawing } := by rw [hPool]
    have hAct := exec_extWithdraw (ext := ext) (force := 0) hReaches hMastered
    rw [extWithdrawAct_formed hExt (by decide) (by rw [hActive]; decide) hOwner (fun h => absurd h (by decide)) hVersion
      hBound, State.withdraw_active _ _ hActive] at hAct
    have hEnd : ((r.withdrawing ext (v, 0x44)).forceWithdrawal ext false).orderMask x.mask (.withdraw ext 0) [] none =
        r.withdrawing ext (v, 0x44) := State.orderMask_alone hJoined _ _ _ _
    refine does_intro (hAct.trans (congrArg Host.Outcome.next hEnd)) ⟨?_, fun i hi => ?_, ?_, by rw [hPool],
      hFrame .fab (by decide), same_bytes (congrArg Mem.cells (hFrame .mem (by decide))), hFrame⟩
    · exact ext_of_exts_set hExts
    · exact ext_of_exts_set_ne hExts hi
    · rw [hPool]; exact Tab.get_set_self _ _ _ _
  · intro r x hMastered hExt hActive hOperator hVersion hBound
    have hOwner : r.notOwner v x = false := by simp [State.notOwner, hOperator]
    have hAct := exec_extWithdraw (ext := ext) (force := 1) hReaches hMastered
    rw [extWithdrawAct_formed hExt (by decide) (by rw [hActive]; decide) hOwner (fun _ => hOperator) hVersion hBound]
      at hAct
    obtain ⟨hExts, hForced, hWaiting⟩ := State.withdraw_forced_tables (v, 0x44) hActive
    refine does_intro hAct ⟨?_, ?_, ?_, State.withdraw_keeps .rfl0 (by decide)⟩
    · rw [show decide ((1 : Nat) = 1) = true from rfl, ext_of_exts_set hExts]
    · exact (congrArg (Tab.get false · ext) hForced).trans (Tab.get_set_self _ _ _ _)
    · exact (congrArg (Tab.get [] · ext) hWaiting).trans (Tab.get_set_self _ _ _ _)
  · intro r hMastered hExt hForce hFree
    have hAct := exec_extWithdraw (ext := ext) (force := force) hReaches hMastered
    rw [extWithdrawAct_free hExt hForce hFree] at hAct
    exact does_intro hAct ⟨completes_of rfl rfl rfl, State.finish_frame _ _ _ _ _ _ _ _⟩
  · have hExec : exec (.extentFree ext) s = .next (s.extentFree ext) := congrArg Host.Outcome.next (if_pos hDrained)
    have hPool : (s.extentFree ext).pool = (s.clearExt ext).pool := s.extentFree_clearExt ext .pool (by decide)
    have hExts : (s.extentFree ext).pool.exts = Tab.set Ext.empty s.pool.exts ext Ext.empty :=
      (congrArg Pool.exts hPool).trans (s.clearExt_exts ext)
    refine does_intro hExec ⟨?_, fun i hi => ?_, ?_, State.extentFree_keeps .rfl0 (by decide)⟩
    · exact ext_of_exts_set hExts
    · exact ext_of_exts_set_ne hExts hi
    · rw [hPool]; exact s.clearExt_withdrawers ext
  · exact does_intro (congrArg Host.Outcome.next (if_neg (by rw [hHeld]; decide))) rfl

end Sys2Proof.Machine
end

section
/-! Host assignment, quotas and the operator's queries (chapter 7): the sessions that an assignment ends, and what a
completion frame leaves as it was. -/

namespace Sys2Proof.Machine
open Sys2Proof

/-! ## Commands of the service link -/

/-- A command that is answered OK in state `u`: what holds of every state that its completion can leave. -/
theorem rslRuns_of_kept {i : Instr} {s u : State} {c : RslCmd} {cmd value : Nat} {data : List Byte} {ps : List Area}
    {p : State → Prop} (hExec : exec i s = .next (u.rslAnswer c cmd cOk value data))
    (hKeeps : KeepsBut ps (afterOpen s c cmd) u) (hRsl : Area.rsl ∉ ps)
    (hp : ∀ t, KeepsBut (cplParts cmd) u t → p t) : RslRuns i s c cmd value data ps p :=
  have hFrame := rslAnswer_keepsBut_cplParts u c cmd cOk value data
  does_intro hExec ⟨answered_of (hKeeps .rsl hRsl), hp _ hFrame,
    (hKeeps.mono (List.subset_append_right _ _)).trans (hFrame.mono (List.subset_append_left _ _))⟩

/-- The answer of a query is not kept for a copy (R414). -/
theorem State.rslAnswer_kept {s : State} {c : RslCmd} {cmd code value : Nat} {data : List Byte}
    (hRead : rslReadOnly cmd = true) : (s.rslAnswer c cmd code value data).rsl.kept = s.rsl.kept := by
  simp only [State.rslAnswer, State.rslDone, hRead, if_true]
  split <;> split <;> rfl

/-- The completion of a service-link command whose code is not POISON is its frame alone. -/
theorem State.releaseAll_heldRsl {s : State} {c : RslCmd} {cmd code value : Nat} {data : List Byte}
    (hCode : code ≠ cPoison) : s.releaseAll [heldRsl c cmd code value data] = s.rslAnswer c cmd code value data := by
  simp only [State.releaseAll, List.foldl_cons, List.foldl_nil, State.release, State.finish, heldRsl,
    State.countPoison_other hCode, State.rslAnswer, List.append_nil]

/-! ## Sessions that end (R395) -/

/-- A change of the key store on which no completion waits. -/
theorem State.keyChange_nil_sessions (s : State) : (s.keyChange []).sec.sessions = s.sec.sessions := by
  unfold State.keyChange
  split <;> rfl

theorem State.keyChange_nil_frame (s : State) : KeepsBut [.sec] s (s.keyChange []) := by
  unfold State.keyChange
  split
  · exact upd_sec .rfl0 (by decide)
  · exact .rfl0

/-- With nothing held, a session that ends is gone, and no other. -/
theorem State.endSession_sessions (s : State) (id : Nat) :
    (s.endSession id).sec.sessions = s.sec.sessions.filter fun x => decide (x.id ≠ id) := by
  unfold State.endSession State.closeSession
  split
  · next hNone =>
    refine (List.filter_eq_self.mpr fun x hx => ?_).symm
    have hNot := List.find?_eq_none.mp hNone x hx
    simpa using hNot
  · exact State.keyChange_nil_sessions _

theorem State.endSessions_mem {s : State} {ids : List Nat} {x : Session}
    (hx : x ∈ (ids.foldl State.endSession s).sec.sessions) : x ∈ s.sec.sessions ∧ x.id ∉ ids := by
  induction ids generalizing s with
  | nil => exact ⟨hx, List.not_mem_nil⟩
  | cons id ids ih =>
    obtain ⟨hIn, hNot⟩ := ih hx
    rw [State.endSession_sessions, List.mem_filter] at hIn
    obtain ⟨hIn, hNe⟩ := hIn
    have hNe : x.id ≠ id := by simpa using hNe
    exact ⟨hIn, fun hMem => (List.mem_cons.mp hMem).elim hNe hNot⟩

/-- No session of those that were to end is left. -/
theorem State.endSessions_none {s : State} {p : Session → Bool} {x : Session}
    (hx : x ∈ (s.endSessions p).sec.sessions) : p x = false := by
  obtain ⟨hIn, hNot⟩ := State.endSessions_mem hx
  refine Bool.eq_false_iff.mpr fun hp => hNot ?_
  exact List.mem_map_of_mem (List.mem_filter.mpr ⟨hIn, hp⟩)

/-- Closing a session hands nothing to anybody: the messages that wait for a port may become RIGHTS, the key store
shrinks, and its change may go to the tender's root. -/
theorem State.endSession_frame (s : State) (id : Nat) : KeepsBut [.fab, .sec] s (s.endSession id) := by
  unfold State.endSession State.closeSession
  split
  · exact .rfl0
  · have hClosed : ∀ sec fab, KeepsBut [.fab, .sec] s { s with sec := sec, fab := fab } := fun sec fab =>
      upd_fab (s := { s with sec := sec }) (upd_sec .rfl0 (by decide)) (by decide)
    exact (hClosed _ _).trans ((State.keyChange_nil_frame _).mono (by decide))

theorem State.endSessions_frame (s : State) (p : Session → Bool) : KeepsBut [.fab, .sec] s (s.endSessions p) :=
  KeepsBut.foldl .rfl0 fun _ _ h => h.trans (State.endSession_frame _ _)

/-! ## HOST_ASSIGN (R177) -/

/-- Host `h` has no session left, and its assignment is written. -/
def State.assignHost (s : State) (h : Nat) (on : Bool) (tenant : Nat) : State :=
  (s.endSessions fun x => decide (x.host = h)).setLease h { s.lease h with assigned := on, tenant := tenant }

section Assigning
variable (r : State) (host tenant : Nat) (on : Bool)

theorem State.assignHost_frame : KeepsBut [.pool, .twin, .fab, .sec] r (r.assignHost host on tenant) :=
  ((r.endSessions_frame _).mono (by decide)).trans ((State.setLease_frame _ _ _).mono (by decide))

theorem State.assignHost_lease : (r.assignHost host on tenant).lease host =
    { r.lease host with assigned := on, tenant := tenant } := State.lease_setLease _ _ _

theorem State.assignHost_lease_ne {i : Nat} (hi : i ≠ host) :
    (r.assignHost host on tenant).lease i = r.lease i :=
  (State.lease_setLease_ne _ _ hi).trans (State.lease_of_pool ((r.endSessions_frame _) .pool (by decide)) i)

theorem State.assignHost_joined : (r.assignHost host on tenant).joined = r.joined := by
  refine State.joined_of_keeps (r.assignHost_frame host tenant on) (by decide) (by decide) ?_
  unfold State.assignHost
  have hPool := (r.endSessions_frame fun x => decide (x.host = host)) .pool (by decide)
  rw [State.setLease_pool]
  dsimp only
  rw [hPool]

theorem State.assignHost_sessions {x : Session} (hx : x ∈ (r.assignHost host on tenant).sec.sessions) :
    x.host ≠ host := by
  unfold State.assignHost at hx
  rw [(State.setLease_frame _ _ _) .sec (by decide)] at hx
  exact of_decide_eq_false (State.endSessions_none hx)

end Assigning

/-- A HOST_ASSIGN that is well formed, changes an assignment, and finds the host without a lease. -/
theorem hostAssignAct_changes {c : RslCmd} {host tenant assign : Nat} {r : State} (hHost : host ≤ 4095)
    (hTenant : tenant ≤ 1023) (hAssign : assign ≤ 1) (hAlone : r.joined = []) (hNone : (r.lease host).st = .none)
    (hNews : if assign = 1 then r.tenantOf host ≠ some tenant else r.tenantOf host = some tenant) :
    hostAssignAct c host tenant assign r =
      (r.assignHost host (decide (assign = 1)) (if assign = 1 then tenant else 0)).rslAnswer c 0x130 cOk 0 [] := by
  have hForm : ¬ (4095 < host ∨ 1023 < tenant ∨ 1 < assign) := by omega
  have hSame : ¬ (assign = 1 ∧ r.tenantOf host = some tenant) := fun ⟨h1, h2⟩ => by
    rw [if_pos h1] at hNews; exact hNews h2
  have hOther : ¬ (assign = 0 ∧ r.tenantOf host ≠ some tenant) := fun ⟨h1, h2⟩ => by
    rw [if_neg (by omega)] at hNews; exact h2 hNews
  simp only [hostAssignAct, if_neg hForm, if_neg hSame, if_neg hOther, if_neg (not_not_intro hNone)]
  have hEnd := State.orderMask_alone ((r.assignHost_joined host (if assign = 1 then tenant else 0)
    (decide (assign = 1))).trans hAlone) allMembers (.assign host tenant assign) [] (some (heldRsl c 0x130 cOk 0 []))
  exact hEnd.trans (State.releaseAll_heldRsl (by decide))

/-- A HOST_ASSIGN that takes away an assignment that is not, or changes that of a host with a lease. -/
theorem hostAssignAct_refused {c : RslCmd} {host tenant assign : Nat} {r : State} (hHost : host ≤ 4095)
    (hTenant : tenant ≤ 1023) (hWhy : (assign = 0 ∧ r.tenantOf host ≠ some tenant) ∨
      (assign = 1 ∧ r.tenantOf host ≠ some tenant ∧ (r.lease host).st ≠ .none)) :
    hostAssignAct c host tenant assign r = r.rslAnswer c 0x130 cUnsupported 0 [] := by
  unfold hostAssignAct
  rcases hWhy with ⟨rfl, hOther⟩ | ⟨rfl, hOther, hLease⟩
  · rw [if_neg (by omega), if_neg (by rintro ⟨h, -⟩; cases h), if_pos ⟨rfl, hOther⟩]
  · rw [if_neg (by omega), if_neg (fun h => hOther h.2), if_neg (by rintro ⟨h, -⟩; cases h), if_pos hLease]

theorem exec_hostAssign {c : RslCmd} {host tenant assign : Nat} {s : State} (hServed : RslServed s c 0x130) :
    exec (.hostAssign c host tenant assign) s = .next (hostAssignAct c host tenant assign (afterOpen s c 0x130)) :=
  congrArg Host.Outcome.next (rslGate_served hServed rfl)

/-! ## TENANT_SET (R178) -/

/-- The quota of a tenant, in granules. -/
def State.setQuota (s : State) (tenant quota : Nat) : State :=
  ({ s with pool := { s.pool with quotas := Tab.set 0 s.pool.quotas tenant quota } }).logChange 0x0004 tenant 32 none

theorem State.setQuota_pool (s : State) (tenant quota : Nat) :
    (s.setQuota tenant quota).pool = { s.pool with quotas := Tab.set 0 s.pool.quotas tenant quota } :=
  State.logChange_pool _ _ _ _ _

theorem State.setQuota_frame (s : State) (tenant quota : Nat) : KeepsBut [.pool, .twin] s (s.setQuota tenant quota) :=
  State.logChange_keeps (upd_pool .rfl0 (by decide)) (by decide)

/-- Settles O21: each command by the gate that it passes and the one table that it writes or reads. -/
theorem poolTablesAreSetAndQueried : Obligations.PoolTablesAreSetAndQueried := by
  refine ⟨fun v s hReaches => ?_, fun c host tenant s hServed hHost hTenant hAlone hOther hNone => ?_,
    fun c host tenant s hServed hHost hTenant hAlone hIs hNone => ?_,
    fun c host tenant assign s hServed hHost hTenant hWhy => ?_, fun c tenant quota s hServed hTenant hQuota => ?_,
    fun c ext s hServed hExt => ?_, fun c host s hServed hHost => ?_⟩
  · intro r value
    exact does_intro (congrArg Host.Outcome.next (classThree_reached hReaches rfl))
      ⟨completes_of rfl rfl rfl, State.finish_frame _ _ _ _ _ _ _ _⟩
  · have hAct := exec_hostAssign (host := host) (tenant := tenant) (assign := 1) hServed
    rw [hostAssignAct_changes (r := afterOpen s c 0x130) hHost hTenant (by decide) hAlone hNone
      (by rw [if_pos rfl]; exact hOther)] at hAct
    refine rslRuns_of_kept hAct ((State.assignHost_frame _ _ _ _).mono (by decide)) (by decide) fun t hKept => ?_
    have hPool := hKept .pool (by decide)
    have hLease := (State.lease_of_pool hPool host).trans (State.assignHost_lease _ host tenant true)
    refine ⟨?_, ?_, fun i hi => ?_, fun x hx => ?_⟩
    · rw [State.tenantOf_of_lease hLease]; rfl
    · rw [hLease]; exact hNone
    · exact (State.lease_of_pool hPool i).trans (State.assignHost_lease_ne _ host tenant true hi)
    · rw [hKept .sec (by decide)] at hx
      exact State.assignHost_sessions _ _ _ _ hx
  · have hAct := exec_hostAssign (host := host) (tenant := tenant) (assign := 0) hServed
    rw [hostAssignAct_changes (r := afterOpen s c 0x130) hHost hTenant (by decide) hAlone hNone
      (by rw [if_neg (by decide)]; exact hIs)] at hAct
    refine rslRuns_of_kept hAct ((State.assignHost_frame _ _ _ _).mono (by decide)) (by decide) fun t hKept => ?_
    have hPool := hKept .pool (by decide)
    have hLease := (State.lease_of_pool hPool host).trans (State.assignHost_lease _ host 0 false)
    refine ⟨?_, fun i hi => ?_, fun x hx => ?_⟩
    · rw [State.tenantOf_of_lease hLease]; rfl
    · exact (State.lease_of_pool hPool i).trans (State.assignHost_lease_ne _ host 0 false hi)
    · rw [hKept .sec (by decide)] at hx
      exact State.assignHost_sessions _ _ _ _ hx
  · have hAct := exec_hostAssign (host := host) (tenant := tenant) (assign := assign) hServed
    rw [hostAssignAct_refused (r := afterOpen s c 0x130) hHost hTenant hWhy] at hAct
    exact does_intro hAct ⟨answered_done, rslAnswer_keepsBut_cplParts _ _ _ _ _ _⟩
  · have hForm : ¬ (1023 < tenant ∨ 3686400 < quota) := by omega
    refine rslRuns_of_kept (u := (afterOpen s c 0x131).setQuota tenant quota)
      (congrArg Host.Outcome.next ((rslGate_served hServed rfl).trans (if_neg hForm))) (State.setQuota_frame _ _ _)
      (by decide) fun t hKept => ?_
    have hPool := (hKept .pool (by decide)).trans (State.setQuota_pool _ _ _)
    rw [hPool]
    exact ⟨Tab.get_set_self _ _ _ _, fun i hi => Tab.get_set_ne _ _ _ hi, rfl⟩
  · have hForm : ¬ 16383 < ext := by omega
    have hExec : exec (.extQuery c ext) s =
        .next ((afterOpen s c 0x133).rslAnswer c 0x133 cOk 0 (leBytes 32 (extEntry s ext))) :=
      congrArg Host.Outcome.next ((rslGate_served hServed rfl).trans (if_neg hForm))
    exact does_intro hExec ⟨answered_done, State.rslAnswer_kept (by decide),
      (rslAnswer_keepsBut_cplParts _ _ _ _ _ _).mono (by decide)⟩
  · have hForm : ¬ 4095 < host := by omega
    have hExec : exec (.leaseQuery c host) s =
        .next ((afterOpen s c 0x134).rslAnswer c 0x134 cOk 0 (leBytes 16 (leaseRecord s host))) :=
      congrArg Host.Outcome.next ((rslGate_served hServed rfl).trans (if_neg hForm))
    exact does_intro hExec ⟨answered_done, State.rslAnswer_kept (by decide),
      (rslAnswer_keepsBut_cplParts _ _ _ _ _ _).mono (by decide)⟩

end Sys2Proof.Machine
end

section
/-! The failure of the pool (chapters 7, 11 and 13): whom it notifies and what it raises, paired check, and an active
die that stops, is judged lost, or whose successor's claim fails. -/

namespace Sys2Proof.Machine
open Sys2Proof

/-! ## Notices to the leaseholders (R197) -/

/-- From `s` to `t` one message for each leaseholder is handed to the port die, in their order. -/
def NoticesSent (s t : State) : Prop :=
  ∃ ms, t.fab.unbound = s.fab.unbound ++ ms ∧ ms.map (·.dst) = s.leaseholders

theorem poolNotices_unbound (s : State) (kind : Nat) (hosts : List Nat) :
    ∃ ms, (hosts.foldl (fun s h => s.poolNotice h kind 0) s).fab.unbound = s.fab.unbound ++ ms ∧
      ms.map (·.dst) = hosts := by
  induction hosts generalizing s with
  | nil => exact ⟨[], (List.append_nil _).symm, rfl⟩
  | cons h hosts ih =>
    obtain ⟨ms, hUnbound, hDst⟩ := ih (s.poolNotice h kind 0)
    exact ⟨_ :: ms, hUnbound.trans (List.append_assoc _ _ _), congrArg (h :: ·) hDst⟩

theorem State.noticeAll_sent (s : State) (kind : Nat) : NoticesSent s (s.noticeAll kind) :=
  poolNotices_unbound s kind s.leaseholders

theorem NoticesSent.of {s u t : State} (h : NoticesSent u t) (hFab : u.fab = s.fab)
    (hLeases : u.pool.leases = s.pool.leases) : NoticesSent s t := by
  unfold NoticesSent State.leaseholders at h ⊢
  rwa [hFab, hLeases] at h

/-! ## The pool's failure (R197) -/

theorem Raised.of_evs {s t u : State} {code sev die : Nat} {detail : List Byte} (h : Raised s t code sev die detail)
    (hEvs : u.evs = t.evs) : Raised s u code sev die detail := by
  unfold Raised at h ⊢
  rwa [hEvs]

/-- The first failure of the pool: its cause is recorded, reported where no other event reports it, and notified. -/
theorem State.poolFatal_first {s : State} {cause : Nat} (hFirst : s.tok.fatal = none) :
    let u := { s with tok := { s.tok with fatal := some cause } }
    s.poolFatal cause = (if cause = 0 then u else u.raise 0x0706 sevFatal s.actDie (leBytes 1 cause)).noticeAll 2 := by
  unfold State.poolFatal
  rw [hFirst]
  rfl

theorem State.poolFatal_tok_first {s : State} {cause : Nat} (hFirst : s.tok.fatal = none) :
    (s.poolFatal cause).tok = { s.tok with fatal := some cause } := by
  rw [State.poolFatal_tok, hFirst]
  rfl

theorem State.poolFatal_notices {s : State} {cause : Nat} (hFirst : s.tok.fatal = none) :
    NoticesSent s (s.poolFatal cause) := by
  rw [State.poolFatal_first hFirst]
  refine (State.noticeAll_sent _ 2).of ?_ ?_
  · split
    · rfl
    · exact State.raise_fab _ _ _ _ _
  · split
    · rfl
    · exact congrArg Pool.leases (State.raise_pool _ _ _ _ _)

/-- The event of a failure, from the state before the changes that led to it. -/
theorem State.poolFatal_raised {ps : List Area} {s v : State} {cause : Nat} (h : KeepsBut ps s v)
    (hFree : ps.all (fun a => decide (a ∉ [.clk, .cfg, .ports, .evs, .ctrs])) = true) (hFirst : v.tok.fatal = none)
    (hActive : v.tok.active = s.tok.active) (hCause : cause ≠ 0) :
    Raised s (v.poolFatal cause) 0x0706 sevFatal s.actDie (leBytes 1 cause) := by
  have hDie : v.actDie = s.actDie := congrArg (Option.getD · dieCdA) hActive
  have hKept : KeepsBut (.tok :: ps) s { v with tok := { v.tok with fatal := some cause } } :=
    upd_tok (h.mono (List.subset_cons_self _ _)) (List.cons_subset_cons _ (List.nil_subset _))
  rw [State.poolFatal_first hFirst, if_neg hCause, hDie]
  refine (raised_of_keeps hKept ?_ _ _ _ _).of_evs (State.noticeAll_frame _ _ .evs (by decide))
  rw [List.all_cons, hFree]
  rfl

/-- Where another event reports the failure, none is raised for it. -/
theorem State.poolFatal_unreported (s : State) : KeepsBut [.tok, .fab] s (s.poolFatal 0) := by
  unfold State.poolFatal
  split
  · exact .rfl0
  · exact State.noticeAll_keeps (upd_tok .rfl0 (by decide)) (by decide)

/-! ## Paired check (R305 to R307) -/

theorem exec_pairedCheck {c : RslCmd} {on : Nat} {s : State} (hServed : RslServed s c 0x10B) :
    exec (.pairedCheck c on) s = .next (pairedCheckAct c on (afterOpen s c 0x10B)) :=
  congrArg Host.Outcome.next (rslGate_served hServed rfl)

section PairedCheck
variable {c : RslCmd} {r : State}

theorem pairedCheckAct_entry (hDie : r.tok.active ≠ some dieCdB) (hOff : r.repro.paired = .off)
    (hTender : r.twin.tender = .synced) (hReset : r.boot.dieResetOf = none) :
    pairedCheckAct c 1 r = { r with repro := { r.repro with paired := .entryAt (r.epoch + 1) [.rsl c] } } := by
  have hHere : ¬ ((1 : Nat) = 1 ∧ r.tok.active = some dieCdB) := fun h => hDie h.2
  have hReady : ¬ (r.twin.tender ≠ .synced ∨ r.boot.dieResetOf.isSome = true) := by simp [hTender, hReset]
  unfold pairedCheckAct
  rw [if_neg (Nat.lt_irrefl 1), if_neg hHere]
  simp only [hOff, if_neg hReady, Nat.one_ne_zero, if_false]

theorem pairedCheckAct_busy (hDie : r.tok.active ≠ some dieCdB) (hOff : r.repro.paired = .off)
    (hTender : r.twin.tender ≠ .synced) :
    pairedCheckAct c 1 r = r.rslAnswer c 0x10B cBusy (r.epoch + 256) [] := by
  have hHere : ¬ ((1 : Nat) = 1 ∧ r.tok.active = some dieCdB) := fun h => hDie h.2
  have hNotReady : r.twin.tender ≠ .synced ∨ r.boot.dieResetOf.isSome = true := .inl hTender
  unfold pairedCheckAct
  rw [if_neg (Nat.lt_irrefl 1), if_neg hHere]
  simp only [hOff, if_pos hNotReady, Nat.one_ne_zero, if_false]

theorem pairedCheckAct_exit (hOn : r.repro.paired = .on) :
    pairedCheckAct c 0 r = { r with repro := { r.repro with paired := .exitAt (r.epoch + 1) [.rsl c] } } := by
  unfold pairedCheckAct
  simp only [hOn, Nat.not_lt_zero, Nat.zero_ne_one, false_and, if_false]

theorem pairedCheckAct_off (hOff : r.repro.paired = .off) :
    pairedCheckAct c 0 r = r.rslAnswer c 0x10B cOk 0 [] := by
  unfold pairedCheckAct
  simp only [hOff, Nat.not_lt_zero, Nat.zero_ne_one, false_and, if_false, if_true]

end PairedCheck

/-- The two dies run in lock-step from here on. -/
def State.lockStep (s : State) : State :=
  { s with repro := { s.repro with paired := .on }, twin := { s.twin with tender := .paired } }

theorem State.lockStep_frame (s : State) : KeepsBut [.repro, .twin] s s.lockStep :=
  upd_twin (s := { s with repro := { s.repro with paired := .on } })
    (upd_repro (ps := [.repro, .twin]) .rfl0 (by decide)) (by decide)

theorem exec_pairedEntryDone {s : State} {e : Nat} {owed : List Owed} (hEntry : s.repro.paired = .entryAt e owed)
    (hDue : e ≤ s.epoch) (hIdle : s.openWork = false) (hAttended : s.attended = true)
    (hTender : s.twin.tender = .synced) :
    exec .pairedEntryDone s = .next ((s.lockStep.raise 0x0503 sevInfo s.actDie []).pairedOwed owed) := by
  have hReady : ¬ (s.epoch < e ∨ s.openWork = true ∨ (!s.attended) = true ∨ s.twin.tender ≠ .synced) := by
    simp [hIdle, hAttended, hTender, hDue]
  show execPairedEntryDone s = _
  unfold execPairedEntryDone
  simp only [hEntry, if_neg hReady]
  rfl

/-- A completion while no tender takes the state copy leaves it as it was. -/
theorem State.rslAnswer_uncopied {s : State} {c : RslCmd} {cmd code value : Nat} {data : List Byte}
    (hCopy : s.copying = false) : KeepsBut [.rsl, .ctrs] s (s.rslAnswer c cmd code value data) := by
  have hLog : ∀ kind index len jidx, s.logChange kind index len jidx = s := fun _ _ _ _ =>
    if_neg (by rw [hCopy]; decide)
  unfold State.rslAnswer State.rslDone
  simp only [hLog, ite_self]
  exact .ite (fun _ => State.bump_keeps (upd_rsl .rfl0 (by decide)) (by decide)) fun _ => upd_rsl .rfl0 (by decide)

/-- Settles O35: PAIRED_CHECK by the state of paired check, its entry by the one completion that it owes, a mismatch by
the pool's failure. -/
theorem pairedCheckIsEnteredAndLeft : Obligations.PairedCheckIsEnteredAndLeft := by
  refine ⟨fun c s hServed hDie hOff hTender hReset => ?_, fun c s hServed hDie hOff hTender => ?_,
    fun c s hServed hOn => ?_, fun c s hServed hOff => ?_, fun e c s hEntry hDue hIdle hAttended hTender => ?_,
    fun unit s hOn hFirst => ?_, fun unit s hOff => ?_⟩
  · have hAct := pairedCheckAct_entry (c := c) (r := afterOpen s c 0x10B) hDie hOff hTender hReset
    exact does_intro ((exec_pairedCheck hServed).trans (congrArg _ hAct)) ⟨rfl, upd_repro .rfl0 (by decide)⟩
  · have hAct := pairedCheckAct_busy (c := c) (r := afterOpen s c 0x10B) hDie hOff hTender
    exact does_intro ((exec_pairedCheck hServed).trans (congrArg _ hAct))
      ⟨answered_done, rslAnswer_keepsBut_cplParts _ _ _ _ _ _⟩
  · have hAct := pairedCheckAct_exit (c := c) (r := afterOpen s c 0x10B) hOn
    exact does_intro ((exec_pairedCheck hServed).trans (congrArg _ hAct)) ⟨rfl, upd_repro .rfl0 (by decide)⟩
  · have hAct := pairedCheckAct_off (c := c) (r := afterOpen s c 0x10B) hOff
    exact rslRuns_of_kept ((exec_pairedCheck hServed).trans (congrArg _ hAct)) .rfl0 (by decide) fun _ _ => trivial
  · have hRaised := State.raise_frame s.lockStep 0x0503 sevInfo s.actDie []
    have hUncopied : (s.lockStep.raise 0x0503 sevInfo s.actDie []).copying = false := by
      unfold State.copying
      rw [State.raise_twin]
      rfl
    have hAnswer := State.rslAnswer_uncopied (c := c) (cmd := 0x10B) (code := cOk) (value := 0) (data := []) hUncopied
    refine does_intro (exec_pairedEntryDone hEntry hDue hIdle hAttended hTender) ⟨?_, ?_, ?_, ?_, ?_⟩
    · exact (hAnswer .repro (by decide)).trans (hRaised .repro (by decide))
    · exact (hAnswer .twin (by decide)).trans (hRaised .twin (by decide))
    · exact (raised_of_keeps s.lockStep_frame (by decide) _ _ _ _).of_evs (hAnswer .evs (by decide))
    · exact answered_of ((hRaised .rsl (by decide)).trans (s.lockStep_frame .rsl (by decide)))
    · exact ((s.lockStep_frame.mono (by decide)).trans (hRaised.mono (by decide))).trans (hAnswer.mono (by decide))
  · let u := s.raise 0x0505 sevFatal dieCdA (leBytes 2 unit ++ leBytes 8 s.epoch)
    have hRaised : KeepsBut [.evs, .ctrs] s u := State.raise_frame _ _ _ _ _
    have hTok : u.tok = s.tok := hRaised .tok (by decide)
    have hStill : u.tok.fatal = none := by rw [hTok, hFirst]
    refine does_intro (congrArg Host.Outcome.next (if_pos hOn)) ⟨?_, ?_, ?_, ?_⟩
    · exact (State.poolFatal_tok_first hStill).trans (by rw [hTok])
    · exact (raised_of_keeps (ps := []) .rfl0 (by decide) _ _ _ _).of_evs (u.poolFatal_unreported .evs (by decide))
    · exact (State.poolFatal_notices hStill).of (hRaised .fab (by decide))
        (congrArg Pool.leases (hRaised .pool (by decide)))
    · exact (hRaised.mono (by decide)).trans (u.poolFatal_unreported.mono (by decide))
  · exact does_intro (congrArg Host.Outcome.next (if_neg (by rw [hOff]; decide))) rfl

/-! ## The active die stops (R367, R368) -/

theorem State.sendTok_mono {s : State} {k : TokKind} {die od : Nat} {m : TokMsg} (h : m ∈ s.tok.sent) :
    m ∈ (s.sendTok k die od).tok.sent := by
  unfold State.sendTok
  split
  · exact h
  · exact List.mem_append_left _ h

theorem State.sendTok_mem {s : State} {k : TokKind} {die od : Nat}
    (hLink : Tab.get false s.tok.linkDown (tokLink die od) = false) : ⟨k, die, od⟩ ∈ (s.sendTok k die od).tok.sent := by
  unfold State.sendTok
  split
  · next hSkip => exact hSkip.resolve_right (by rw [hLink]; decide)
  · exact List.mem_append_right _ (List.mem_singleton_self _)

/-- The message of each obeying die whose link works is on its way. -/
theorem State.sendToks_mem {s : State} {k : TokKind} {die od : Nat} {ods : List Nat}
    (hSent : od ∈ ods ∨ ⟨k, die, od⟩ ∈ s.tok.sent) (hLink : Tab.get false s.tok.linkDown (tokLink die od) = false) :
    ⟨k, die, od⟩ ∈ (s.sendToks k die ods).tok.sent := by
  induction ods generalizing s with
  | nil => exact hSent.resolve_left List.not_mem_nil
  | cons i ods ih =>
    have hDown : (s.sendTok k die i).tok.linkDown = s.tok.linkDown := by rw [State.sendTok_eq]
    refine ih ?_ (by rw [hDown]; exact hLink)
    rcases hSent with hMem | hAlready
    · rcases List.mem_cons.mp hMem with rfl | hRest
      · exact .inr (State.sendTok_mem hLink)
      · exact .inl hRest
    · exact .inr (State.sendTok_mono hAlready)

/-- The active die `d` as it stops: silent, with the outputs held, the tender told if it can be, and the tokens
released. -/
def State.stopped (s : State) (d : Nat) : State :=
  ({ s with
    tok := { s.tok with silent := true, sent := s.tok.sent.filter fun m => decide (m.die ≠ d) }
    twin := { s.twin with paused := true, failSent := !Tab.get false s.tok.linkDown 8 } }).sendToks .release d
      s.odsAlive

theorem State.activeStops_eq {s : State} {d : Nat} (hActive : s.tok.active = some d) :
    s.activeStops true true =
      if s.twin.tender ≠ .synced then (s.stopped d).poolFatal 1 else s.stopped d := by
  unfold State.activeStops
  rw [hActive]
  simp only [Bool.and_self, if_true, Bool.true_and, decide_eq_true_eq]
  rfl

section Stopped
variable (s : State) (d : Nat)

theorem State.stopped_frame : KeepsBut [.tok, .twin] s (s.stopped d) :=
  have hSet : ∀ tok twin, KeepsBut [.tok, .twin] s { s with tok := tok, twin := twin } := fun tok _ =>
    upd_twin (s := { s with tok := tok }) (upd_tok .rfl0 (by decide)) (by decide)
  State.sendToks_keeps (hSet _ _) (by decide)

theorem State.stopped_tok : (s.stopped d).tok = { s.tok with silent := true, sent := (s.stopped d).tok.sent } :=
  State.sendToks_eq _ _ _ _

theorem State.stopped_twin :
    (s.stopped d).twin = { s.twin with paused := true, failSent := !Tab.get false s.tok.linkDown 8 } :=
  State.sendToks_keeps (ps := [.tok]) .rfl0 (by decide) .twin (by decide)

end Stopped

/-! ## The tender judges the active die lost (R367) -/

theorem State.judgeLost_eq {s : State} {cause : Nat} (hTender : s.twin.tender = .synced)
    (hActive : s.tok.active.isSome = true) (hFirst : s.twin.detectedAt = none) :
    s.judgeLost cause = { s with
      tok := { s.tok with silent := true, claimant := some s.tenderDie, claimGrants := [], claimSince := s.epoch,
                          claimCause := cause }
      twin := { s.twin with paused := true, detectedAt := some s.epoch, failSent := false } } := by
  have hJudges : ¬ (s.twin.tender ≠ .synced ∨ s.tok.active.isNone = true ∨ s.twin.detectedAt.isSome = true) := by
    simp [hTender, hFirst, Option.isSome_iff_ne_none.mp hActive]
  exact if_neg hJudges

theorem State.judgeLost_frame (s : State) (cause : Nat) : KeepsBut [.tok, .twin] s (s.judgeLost cause) :=
  State.judgeLost_keeps .rfl0 (by decide)

theorem exec_failNotice {s : State} (hLink : Tab.get false s.tok.linkDown 8 = false) (hSent : s.twin.failSent = true) :
    exec (.failNotice false) s =
      .next (({ s with twin := { s.twin with failSent := false } } : State).judgeLost 1) := by
  have hWorks : ¬ Tab.get false s.tok.linkDown 8 = true := by rw [hLink]; decide
  exact congrArg Host.Outcome.next
    ((if_neg hWorks).trans ((if_neg Bool.false_ne_true).trans (if_pos hSent)))

theorem exec_silentDetect {s : State} (hHanding : s.handingOver = false)
    (hQuiet : ∀ od e, od ∈ s.odsAlive → (s.ob od).renewedAt = some e → e + 2 ≤ s.odEpoch od)
    (hAck : s.twin.ackEpoch + 2 ≤ s.epoch) : exec .silentDetect s = .next (s.judgeLost 2) := by
  refine congrArg Host.Outcome.next (if_pos ⟨List.all_eq_true.mpr fun od hOd => ?_, hAck, by rw [hHanding]; rfl⟩)
  cases hRenewed : (s.ob od).renewedAt with
  | none => rfl
  | some e => exact decide_eq_true (hQuiet od e hOd hRenewed)

theorem exec_tokenExpiryIndication {s : State} (hHanding : s.handingOver = false) (hExpired : s.tok.expired ≠ []) :
    exec .tokenExpiryIndication s = .next (({ s with tok := { s.tok with expired := [] } } : State).judgeLost 3) := by
  have hStill : ¬ ({ s with tok := { s.tok with expired := [] } } : State).handingOver = true := by
    rw [show ({ s with tok := { s.tok with expired := [] } } : State).handingOver = s.handingOver from rfl, hHanding]
    decide
  exact congrArg Host.Outcome.next ((if_neg hExpired).trans (if_neg hStill))

/-! ## A claim that fails (R370) -/

theorem exec_claimTimeout {s : State} {d : Nat} (hAt : s.twin.detectedAt = some d) (hDue : d + 8 ≤ s.epoch)
    (hClaimant : s.tok.claimant.isSome = true) (hMissing : s.allGranted s.tok.claimGrants = false)
    (hFirst : s.tok.fatal = none) :
    exec .claimTimeout s = .next (if odPd ∈ s.tok.claimGrants then s.poolFatal 2 else
      ({ s with tok := { s.tok with fatal := some 2 } }).raise 0x0706 sevFatal s.tenderDie (leBytes 1 2)) := by
  have hFails : ¬ (s.epoch < d + 8 ∨ s.tok.claimant.isNone = true ∨ s.allGranted s.tok.claimGrants = true ∨
      s.tok.fatal.isSome = true) := by
    simp [hDue, Option.isSome_iff_ne_none.mp hClaimant, hMissing, hFirst]
  show execClaimTimeout s = _
  unfold execClaimTimeout
  rw [hAt]
  exact congrArg Host.Outcome.next (if_neg hFails)

/-- Settles O41: the active die's stop step by step, each judgement of its loss by the one function that makes it, the
failed claim by the pool's failure. -/
theorem activeDieStopsOrIsJudgedLost : Obligations.ActiveDieStopsOrIsJudgedLost := by
  refine ⟨fun d s hActive hTender => ?_, fun d s hActive hTender hFirst => ?_,
    fun s hTender hActive hNew hSent hLink => ?_, fun b s hLink => ?_,
    fun s hTender hActive hNew hHanding hQuiet hAck => ?_, fun s hTender hActive hNew hHanding hExpired => ?_,
    fun d s hAt hDue hClaimant hMissing hFirst hGranted => ?_, fun d s hAt hDue hClaimant hMissing hFirst hNot => ?_⟩
  · have hStops := (State.activeStops_eq hActive).trans (if_neg (not_not_intro hTender))
    refine does_intro (congrArg Host.Outcome.next hStops) ⟨s.stopped_tok d, fun od hOd hWorks => ?_, s.stopped_twin d,
      s.stopped_frame d⟩
    exact State.sendToks_mem (.inl hOd) hWorks
  · have hStops := (State.activeStops_eq hActive).trans (if_pos hTender)
    have hTok := s.stopped_tok d
    have hFrame := s.stopped_frame d
    have hFatal := (s.stopped d).poolFatal_frame 1
    have hStill : (s.stopped d).tok.fatal = none := by rw [hTok]; exact hFirst
    have hFailed := State.poolFatal_tok_first (cause := 1) hStill
    refine does_intro (congrArg Host.Outcome.next hStops) ⟨?_, ?_, ?_, ?_, ?_⟩
    · rw [hFailed, hTok]
    · exact (hFatal .twin (by decide)).trans (s.stopped_twin d)
    · exact State.poolFatal_raised hFrame (by decide) hStill (by rw [hTok]) (by decide)
    · exact (State.poolFatal_notices hStill).of (hFrame .fab (by decide))
        (congrArg Pool.leases (hFrame .pool (by decide)))
    · exact (hFrame.mono (by decide)).trans (hFatal.mono (by decide))
  · have hLost := State.judgeLost_eq (s := { s with twin := { s.twin with failSent := false } }) (cause := 1) hTender
      hActive hNew
    have hFrame : KeepsBut [.tok, .twin] s ({ s with twin := { s.twin with failSent := false } } : State) :=
      upd_twin .rfl0 (by decide)
    refine does_intro (exec_failNotice hLink hSent) ⟨?_, ?_, hFrame.trans (State.judgeLost_frame _ _)⟩
    · rw [hLost]; rfl
    · rw [hLost]; rfl
  · exact does_intro (congrArg Host.Outcome.next (if_pos hLink)) rfl
  · have hLost := State.judgeLost_eq (cause := 2) hTender hActive hNew
    refine does_intro (exec_silentDetect hHanding hQuiet hAck) ⟨?_, ?_, State.judgeLost_frame _ _⟩
    · rw [hLost]
    · rw [hLost]
  · have hLost := State.judgeLost_eq (s := { s with tok := { s.tok with expired := [] } }) (cause := 3) hTender hActive
      hNew
    have hFrame : KeepsBut [.tok, .twin] s ({ s with tok := { s.tok with expired := [] } } : State) :=
      upd_tok .rfl0 (by decide)
    refine does_intro (exec_tokenExpiryIndication hHanding hExpired) ⟨?_, ?_, hFrame.trans (State.judgeLost_frame _ _)⟩
    · rw [hLost]; rfl
    · rw [hLost]; rfl
  · have hExec := exec_claimTimeout hAt hDue hClaimant hMissing hFirst
    rw [if_pos hGranted] at hExec
    exact does_intro hExec ⟨State.poolFatal_tok_first hFirst,
      State.poolFatal_raised (ps := []) .rfl0 (by decide) hFirst rfl (by decide), State.poolFatal_notices hFirst,
      s.poolFatal_frame 2⟩
  · have hExec := exec_claimTimeout hAt hDue hClaimant hMissing hFirst
    rw [if_neg hNot] at hExec
    have hFrame : KeepsBut [.tok] s ({ s with tok := { s.tok with fatal := some 2 } } : State) :=
      upd_tok .rfl0 (by decide)
    exact does_intro hExec ⟨State.raise_tok _ _ _ _ _, raised_of_keeps hFrame (by decide) _ _ _ _,
      (hFrame.mono (by decide)).trans ((State.raise_frame _ _ _ _ _).mono (by decide))⟩

end Sys2Proof.Machine
end

section
/-! The pool set (chapter 7): its messages past admission, and how its orders are sent, answered and settled. -/

namespace Sys2Proof.Machine
open Sys2Proof

/-! ## Messages of the set past admission (R199, R206) -/

section SetMessages
variable {s : State} {h : ReqHdr} {gen i : Nat} {k : State → Nat → State}

theorem State.setCheck_good (hGood : SetMsgGood s h gen i) : s.setCheck h gen k = k s i := by
  obtain ⟨hDst, hSrc, hGen, -⟩ := hGood
  unfold State.setCheck
  rw [if_neg (not_not_intro hDst)]
  simp only [hSrc, if_neg (not_not_intro hGen)]

theorem SetMsgGood.attended (hGood : SetMsgGood s h gen i) : s.attended = true := by
  obtain ⟨-, -, -, hAttended⟩ := hGood
  exact hAttended

theorem State.setIn_good (hGood : SetMsgGood s h gen i) : s.setIn h gen k = k s i :=
  (State.setCheck_good hGood).trans (if_pos hGood.attended)

/-- A request on its way in changes its journal, and where its sender was heard. -/
theorem arrived_frame (s : State) (h : ReqHdr) : KeepsBut [.fab, .twin] s (arrived s h) := by
  have hJournalled : KeepsBut [.fab, .twin] s (journalled s h) := .ite (fun _ => .rfl0) fun _ =>
    State.journalIn_keeps .rfl0 (by decide)
  exact State.forward_keeps hJournalled (by decide)

theorem arrived_epoch (s : State) (h : ReqHdr) : (arrived s h).epoch = s.epoch :=
  State.epoch_of_clk (arrived_frame s h .clk (by decide))

theorem State.setReq_served (hServed : SetReqServed s h gen i) : s.setReq h gen k = k (arrived s h) i := by
  obtain ⟨hGood, hRoom, hHanding, hEntry, hTurn⟩ := hServed
  have hFits : ¬ ((!(s.journaled h.jidx).isSome) = true ∧ 262144 ≤ s.twin.reqs.length) := by
    rintro ⟨hNew, hFull⟩
    rcases hRoom with hKnown | hRoom
    · rw [hKnown] at hNew; cases hNew
    · omega
  have hHere : (journalled s h).attended = true ∧ (journalled s h).handingOver = false ∧
      (journalled s h).pairedEntry = none := by
    unfold journalled
    split <;> exact ⟨hGood.attended, hHanding, hEntry⟩
  obtain ⟨hAttended', hHanding', hEntry'⟩ := hHere
  have hGoes : ¬ (!(journalled s h).attended || (journalled s h).handingOver || (journalled s h).pairedEntry.isSome ||
      (journalled s h).serving && (journalled s h).mustWait h.jidx) = true := by
    rw [hAttended', hHanding', hEntry', hTurn, Bool.and_false]
    decide
  exact (State.setCheck_good hGood).trans ((if_neg hFits).trans (if_neg hGoes))

end SetMessages

/-! ## SET_JOIN_SEND (R202) -/

/-- SET_JOIN to one member. -/
def State.sendJoin (s : State) (i : Nat) : State :=
  s.setMsg i 0 0x4C clsReq 0 (leBytes 1 s.setSize ++ leBytes 48 s.runDigest)

/-- What SET_JOIN to member `i` carries. -/
def State.joinMsg (s : State) (i : Nat) : OutMsg :=
  messageTo (s.memberId i) 0 0x4C clsReq 0 (leBytes 4 s.pool.setGen ++ (leBytes 1 s.setSize ++ leBytes 48 s.runDigest))

theorem State.sendJoin_frame (s : State) (i : Nat) : KeepsBut [.fab] s (s.sendJoin i) :=
  State.setMsg_keeps .rfl0 (by decide)

theorem State.joinMsg_sendJoin (s : State) (i j : Nat) : (s.sendJoin i).joinMsg j = s.joinMsg j := by
  unfold State.joinMsg
  rfl

theorem State.sendJoins_unbound (s : State) (l : List Nat) :
    (l.foldl State.sendJoin s).fab.unbound = s.fab.unbound ++ l.map s.joinMsg := by
  induction l generalizing s with
  | nil => exact (List.append_nil _).symm
  | cons i l ih =>
    have hSame : l.map (s.sendJoin i).joinMsg = l.map s.joinMsg :=
      List.map_congr_left fun j _ => State.joinMsg_sendJoin s i j
    rw [List.foldl_cons, ih, hSame]
    exact List.append_assoc _ _ _

/-! ## Orders (R200) -/

section Orders
variable {s : State} {x o : SetOrder} {a : Sent} {w : List Sent} {f : List Nat} {held : Option HeldCpl}

/-- The answer `a` is taken off the one order that waits for it. -/
theorem State.answerOrder_only (hOrders : s.pool.orders = [⟨x, a :: w, f, held⟩]) (hOnce : a ∉ w) (more : List Sent)
    (who : List Nat) : s.answerOrder a more who =
      { s with pool := { s.pool with orders := [⟨x, w ++ more, f ++ who, held⟩] } } := by
  have hRest : (a :: w).filter (fun y => decide (y ≠ a)) = w := by
    rw [List.filter_cons_of_neg (by simp)]
    exact List.filter_eq_self.mpr fun y hy => decide_eq_true fun hEq => hOnce (hEq ▸ hy)
  have hWaits : (a :: w).contains a = true := List.contains_iff_mem.mpr List.mem_cons_self
  unfold State.answerOrder
  rw [hOrders]
  simp only [List.map_cons, List.map_nil, hWaits, if_true, hRest]

theorem State.settleOrders_waiting {r : SetOrderRec} (hOrders : s.pool.orders = [r]) (hWaits : r.waiting ≠ []) :
    s.settleOrders = s := by
  have hDone : s.pool.orders.filter (fun r => decide (r.waiting = [])) = [] := by
    rw [hOrders, List.filter_cons_of_neg (by simpa using hWaits), List.filter_nil]
  have hKept : s.pool.orders.filter (fun r => decide (r.waiting ≠ [])) = s.pool.orders := by
    rw [hOrders, List.filter_cons_of_pos (by simpa using hWaits), List.filter_nil]
  unfold State.settleOrders
  rw [hDone, hKept]
  rfl

theorem State.settleOrders_none (hOrders : s.pool.orders = []) : s.settleOrders = s := by
  have hDone : s.pool.orders.filter (fun r => decide (r.waiting = [])) = [] := by rw [hOrders]; rfl
  have hKept : s.pool.orders.filter (fun r => decide (r.waiting ≠ [])) = s.pool.orders := by rw [hOrders]; rfl
  unfold State.settleOrders
  rw [hDone, hKept]
  rfl

/-- An order that holds no completion and that nobody refused ends. -/
theorem State.orderEnd_unheld (s : State) (x : SetOrder) : s.orderEnd ⟨x, [], [], none⟩ = s := by
  cases x
  case bind e d => cases d <;> rfl
  all_goals rfl

theorem State.settleOrders_answered (hOrders : s.pool.orders = [⟨x, [], [], none⟩]) :
    s.settleOrders = { s with pool := { s.pool with orders := [] } } := by
  have hDone : s.pool.orders.filter (fun r => decide (r.waiting = [])) = s.pool.orders := by rw [hOrders]; rfl
  have hKept : s.pool.orders.filter (fun r => decide (r.waiting ≠ [])) = [] := by rw [hOrders]; rfl
  unfold State.settleOrders
  rw [hDone, hKept, hOrders]
  exact State.orderEnd_unheld _ x

/-- A SET_DONE that answers the first order awaited. -/
theorem exec_setDone {h : ReqHdr} {gen i code : Nat} (hGood : SetMsgGood s h gen i)
    (hOrders : s.pool.orders = [⟨x, ⟨i, h.tag, o⟩ :: w, f, held⟩]) :
    exec (.setDone h gen code) s = .next (
      if code = cOk then (s.answerOrder ⟨i, h.tag, o⟩ [] []).settleOrders
      else if orderRefusable o then (s.answerOrder ⟨i, h.tag, o⟩ [] [i]).settleOrders
      else (s.sendOrder i o).1.answerOrder ⟨i, h.tag, o⟩ [⟨i, s.pool.orderTag, o⟩] []) := by
  have hFound : (s.pool.orders.flatMap (·.waiting)).find? (fun w => decide (w.member = i ∧ w.tag = h.tag)) =
      some ⟨i, h.tag, o⟩ := by
    rw [hOrders]
    exact List.find?_cons_of_pos (by simp)
  refine congrArg Host.Outcome.next ((State.setIn_good hGood).trans ?_)
  simp only [hFound]
  rfl

end Orders

theorem State.answerOrder_frame {s : State} {a : Sent} {more : List Sent} {who : List Nat} :
    KeepsBut [.pool] s (s.answerOrder a more who) := upd_pool .rfl0 (by decide)

theorem State.sendOrder_frame (s : State) (i : Nat) (o : SetOrder) : KeepsBut [.fab, .pool] s (s.sendOrder i o).1 :=
  upd_pool (s := s.setMsg i s.pool.orderTag 0x4A clsReq 0 (orderBytes o)) (State.setMsg_keeps .rfl0 (by decide))
    (by decide)

/-! ## Members (R203) -/

theorem State.setMember_frame (s : State) (i : Nat) (m : Member) : KeepsBut [.pool, .twin] s (s.setMember i m) :=
  State.logChange_keeps (upd_pool .rfl0 (by decide)) (by decide)

theorem State.setMember_pool (s : State) (i : Nat) (m : Member) :
    (s.setMember i m).pool = { s.pool with members := Tab.set Member.empty s.pool.members i m } :=
  State.logChange_pool _ _ _ _ _

theorem State.setMember_members (s : State) (i : Nat) (m : Member) :
    (s.setMember i m).pool.members = Tab.set Member.empty s.pool.members i m := by rw [State.setMember_pool]

theorem State.member_of_set {s t : State} {i : Nat} {m : Member}
    (h : t.pool.members = Tab.set Member.empty s.pool.members i m) : t.member i = m := by
  unfold State.member; rw [h]; exact Tab.get_set_self _ _ _ _

theorem State.member_of_set_ne {s t : State} {i j : Nat} {m : Member}
    (h : t.pool.members = Tab.set Member.empty s.pool.members i m) (hj : j ≠ i) : t.member j = s.member j := by
  unfold State.member; rw [h]; exact Tab.get_set_ne _ _ _ hj

/-! ## SET_JOIN_ACK (R203) -/

/-- Member `i` has joined: it is sent the tables, and every lease goes into the next delta. -/
def State.memberJoins (s : State) (i : Nat) : State :=
  let s := s.setMember i ⟨.joined, 0, s.epoch⟩
  let s := (s.sendOrders (s.tableOrders.map fun o => (i, o))).1
  let all := s.pool.leases.map (·.1)
  { s with pool := { s.pool with changed := all } }

theorem State.memberJoins_pool (s : State) (i : Nat) :
    (s.memberJoins i).pool.members = Tab.set Member.empty s.pool.members i ⟨.joined, 0, s.epoch⟩ ∧
      (s.memberJoins i).pool.changed = s.pool.leases.map (·.1) := by
  unfold State.memberJoins
  dsimp only
  rw [State.sendOrders_pool, State.setMember_pool]
  exact ⟨rfl, rfl⟩

theorem State.memberJoins_frame (s : State) (i : Nat) : KeepsBut [.fab, .pool, .twin] s (s.memberJoins i) := by
  have hMember := (s.setMember_frame i ⟨.joined, 0, s.epoch⟩).mono (qs := [.fab, .pool, .twin]) (by decide)
  unfold State.memberJoins
  dsimp only
  exact upd_pool (State.sendOrders_keeps hMember (by decide)) (by decide)

/-- The end of formation touches no member and no list of what has changed. -/
theorem State.settleFormation_pool (s : State) :
    s.settleFormation.pool.members = s.pool.members ∧ s.settleFormation.pool.changed = s.pool.changed := by
  unfold State.settleFormation
  split <;> exact ⟨rfl, rfl⟩

theorem exec_setJoinAck {h : ReqHdr} {gen i index size code : Nat} {s : State} (hGood : SetMsgGood s h gen i)
    (hAbsent : (s.member i).st = .absent) :
    exec (.setJoinAck h gen index size code) s = .next (
      if code = cOk ∧ index = i ∧ size = s.setSize then (s.memberJoins i).settleFormation
      else s.raise 0x0403 sevWarning s.actDie (leBytes 2 h.src ++ leBytes 4 gen)) :=
  congrArg Host.Outcome.next ((State.setIn_good hGood).trans (if_neg (not_not_intro hAbsent)))

/-! ## SET_CMD (R199, R200, R206) -/

section SetCmd
variable {h : ReqHdr} {gen i : Nat} {s : State} (hServed : SetReqServed s h gen i)
include hServed

/-- A grant that the master orders is made, and answered OK. -/
theorem exec_setCmd_grant (hMaster : i = (arrived s h).pool.master) (e g w : Nat) :
    exec (.setCmd h gen (.grant e g w)) s = .next (((arrived s h).putGrant e g w).orderDone h cOk) :=
  congrArg Host.Outcome.next ((State.setReq_served hServed).trans (if_neg (not_not_intro hMaster)))

theorem exec_setCmd_other (hOther : i ≠ (arrived s h).pool.master) (o : SetOrder) :
    exec (.setCmd h gen o) s = .next ((arrived s h).journalOut h.jidx) :=
  congrArg Host.Outcome.next ((State.setReq_served hServed).trans (if_pos hOther))

end SetCmd

/-- Settles O22: the master's messages by induction over the members, each order and answer by the one record that it
changes. -/
theorem setFormsAndOrdersAreCarriedOut : Obligations.SetFormsAndOrdersAreCarriedOut := by
  refine ⟨fun e s hReady hMaster hSize hTime hServing => ?_, fun h gen i size digest s hServed hFrom => ?_,
    fun h gen i s hGood hAbsent => ?_, fun h gen i index size code s hGood hAbsent hWrong => ?_,
    fun e s hReady hMaster hPast => ?_, fun h gen i e g w s hServed hIs hRights => ?_,
    fun h gen i o s hServed hNot => ?_, fun h gen i x o s hGood hOrders => ?_,
    fun h gen i x o w f held s hGood hOrders hOnce => ⟨fun hMore => ?_, fun code hCode hMay hMore => ?_,
      fun code hCode hMust => ?_⟩⟩
  · have hSends : ¬ (¬ s.isMaster = true ∨ s.setSize = 1 ∨ (s.epoch - e) % 16 ≠ 0 ∨ ¬ s.serving = true) := by
      simp [hMaster, hSize, hTime, hServing]
    have hExec : exec .setJoinSend s = .next (((List.range s.setSize).filter fun i =>
        decide (i ≠ s.setIndex ∧ (s.member i).st = .absent)).foldl State.sendJoin s) := by
      show execSetJoinSend s = _
      unfold execSetJoinSend
      simp only [hReady, if_neg hSends]
      rfl
    exact does_intro hExec ⟨s.sendJoins_unbound _, KeepsBut.foldl .rfl0 fun _ _ hKept =>
      hKept.trans (State.sendJoin_frame _ _)⟩
  · intro r code
    have hSrc : ¬ h.src ≠ r.cfgIx fMemberId 0 := by
      refine not_not_intro (hFrom.trans ?_)
      unfold State.cfgIx
      exact (State.cfgAt_of_cfg (arrived_frame s h .cfg (by decide)) _).symm
    have hExec : exec (.setJoin h gen size digest) s = .next (r.setReply i h.tag 0x4D (some h.jidx)
        (leBytes 1 r.setIndex ++ leBytes 1 r.setSize ++ leBytes 1 code)) :=
      congrArg Host.Outcome.next ((State.setReq_served hServed).trans (if_neg hSrc))
    refine does_intro hExec ⟨?_, State.setReply_keeps .rfl0 (by decide)⟩
    unfold State.setReply
    rw [List.append_assoc]
    rfl
  · have hExec := (exec_setJoinAck (index := i) (size := s.setSize) (code := cOk) hGood hAbsent).trans
      (congrArg Host.Outcome.next (if_pos ⟨rfl, rfl, rfl⟩))
    obtain ⟨hMembers, hChanged⟩ := s.memberJoins_pool i
    obtain ⟨hSame, hStill⟩ := (s.memberJoins i).settleFormation_pool
    exact does_intro hExec ⟨State.member_of_set (hSame.trans hMembers), hStill.trans hChanged,
      State.settleFormation_keeps ((s.memberJoins_frame i).mono (by decide)) (by decide)⟩
  · have hNot : ¬ (code = cOk ∧ index = i ∧ size = s.setSize) := fun ⟨h1, h2, h3⟩ =>
      hWrong.elim (· h1) (·.elim (· h2) (· h3))
    have hExec := (exec_setJoinAck hGood hAbsent).trans (congrArg Host.Outcome.next (if_neg hNot))
    exact does_intro hExec ⟨raised_of_keeps (ps := []) .rfl0 (by decide) _ _ _ _, State.raise_frame _ _ _ _ _⟩
  · have hExec : exec .setFormationEnd s = .next { s with pool := { s.pool with formEnded := true } } := by
      show execSetFormationEnd s = _
      unfold execSetFormationEnd
      simp only [hReady, hMaster, hPast, and_self, if_true]
    exact does_intro hExec ⟨rfl, upd_pool .rfl0 (by decide)⟩
  · intro r
    have hMaster : i = r.pool.master := hIs.trans (congrArg Pool.master (arrived_frame s h .pool (by decide))).symm
    have hPool : ((r.putGrant e g w).orderDone h cOk).pool = (r.putGrant e g w).pool := rfl
    have hPut := r.putGrant_frame e g w
    refine does_intro (exec_setCmd_grant hServed hMaster e g w) ⟨?_, ?_, ?_, ?_⟩
    · exact (State.grant_of_grants (congrArg Pool.grants hPool) _ _).trans (State.grant_putGrant r e g w)
    · rw [hPool, State.putGrant_pool]
    · rw [← hPut .fab (by decide), show r.pool.setGen = (r.putGrant e g w).pool.setGen by rw [State.putGrant_pool]]
      rfl
    · exact State.orderDone_keeps (hPut.mono (by decide)) (by decide)
  · have hOther : i ≠ (arrived s h).pool.master := by
      rw [arrived_frame s h .pool (by decide)]
      exact hNot
    exact does_intro (exec_setCmd_other hServed hOther o) rfl
  · have hAnswered := State.answerOrder_only hOrders List.not_mem_nil [] []
    have hExec := (exec_setDone (code := cOk) hGood hOrders).trans (congrArg Host.Outcome.next (if_pos rfl))
    rw [State.settleOrders_answered (by rw [hAnswered]; rfl)] at hExec
    refine does_intro hExec ⟨?_, ?_⟩
    · rw [hAnswered]
    · exact upd_pool (s := s.answerOrder _ _ _) State.answerOrder_frame (by decide)
  · have hAnswered := State.answerOrder_only hOrders hOnce [] []
    have hExec := (exec_setDone (code := cOk) hGood hOrders).trans (congrArg Host.Outcome.next (if_pos rfl))
    rw [State.settleOrders_waiting (r := ⟨x, w, f, held⟩) (by rw [hAnswered]; simp) hMore] at hExec
    refine does_intro hExec ⟨?_, State.answerOrder_frame⟩
    rw [hAnswered]; simp
  · have hAnswered := State.answerOrder_only hOrders hOnce [] [i]
    have hExec := (exec_setDone (code := code) hGood hOrders).trans
      (congrArg Host.Outcome.next ((if_neg hCode).trans (if_pos hMay)))
    rw [State.settleOrders_waiting (r := ⟨x, w, f ++ [i], held⟩) (by rw [hAnswered]; simp) hMore] at hExec
    refine does_intro hExec ⟨?_, State.answerOrder_frame⟩
    rw [hAnswered]; simp
  · have hAnswered := State.answerOrder_only (s := (s.sendOrder i o).1) hOrders hOnce [⟨i, s.pool.orderTag, o⟩] []
    have hExec := (exec_setDone (code := code) hGood hOrders).trans
      (congrArg Host.Outcome.next ((if_neg hCode).trans (if_neg (by rw [hMust]; decide))))
    refine does_intro hExec ⟨?_, ?_, rfl, (s.sendOrder_frame i o).trans (State.answerOrder_frame.mono (by decide))⟩
    · rw [hAnswered]; simp
    · rw [hAnswered]; rfl

end Sys2Proof.Machine
end

section
/-! Deltas and losses in the pool set (chapter 7): a lease record applied, a member or the master lost, a new master. -/

namespace Sys2Proof.Machine
open Sys2Proof

/-! ## SET_DELTA (R201, R204) -/

/-- A delta's records are applied; the lease changes that this made are nobody else's to send. -/
def State.takeDelta (s : State) (recs : List LeaseRec) : State :=
  let s := recs.foldl State.applyRecord s
  { s with pool := { s.pool with changed := [], lastDeltaAt := s.epoch } }

/-- The last message of a delta closes its epoch, and is acknowledged. -/
def State.closeDelta (s : State) (h : ReqHdr) (i epoch : Nat) : State :=
  let s := ({ s with pool := { s.pool with lastDelta := epoch } }).logChange 0x0011 8 32 none
  s.setReply i 0 0x49 (some h.jidx) (leBytes 8 epoch)

theorem exec_setDelta {h : ReqHdr} {gen i epoch : Nat} {recs : List LeaseRec} {s : State}
    (hServed : SetReqServed s h gen i) (hIs : i = s.pool.master) (hMember : s.isMaster = false)
    (hNew : s.pool.lastDelta ≤ epoch) :
    exec (.setDelta h gen epoch recs) s = .next (
      if h.opData.getLsbD 0 then ((arrived s h).takeDelta recs).closeDelta h i epoch
      else ((arrived s h).takeDelta recs).journalOut h.jidx) := by
  have hFrame := arrived_frame s h
  have hPool : (arrived s h).pool = s.pool := hFrame .pool (by decide)
  have hRole : (arrived s h).isMaster = s.isMaster :=
    State.isMaster_of (hFrame .cfg (by decide)) (hFrame .boot (by decide)) (congrArg Pool.master hPool)
  have hTaken : ¬ (i ≠ (arrived s h).pool.master ∨ (arrived s h).isMaster = true ∨
      epoch < (arrived s h).pool.lastDelta) := by
    rw [hPool, hRole, hMember]
    simp [hIs, hNew]
  exact congrArg Host.Outcome.next ((State.setReq_served hServed).trans (if_neg hTaken))

theorem State.closeDelta_frame (s : State) (h : ReqHdr) (i epoch : Nat) :
    KeepsBut [.fab, .pool, .twin] s (s.closeDelta h i epoch) :=
  State.setReply_keeps (State.logChange_keeps (upd_pool .rfl0 (by decide)) (by decide)) (by decide)

theorem State.closeDelta_pool (s : State) (h : ReqHdr) (i epoch : Nat) :
    (s.closeDelta h i epoch).pool = { s.pool with lastDelta := epoch } := State.logChange_pool _ _ _ _ _

/-- The epoch is noted, and that goes into the state copy. -/
theorem noteDelta_frame (s : State) (epoch : Nat) : KeepsBut [.pool, .twin] s
    (({ s with pool := { s.pool with lastDelta := epoch } } : State).logChange 0x0011 8 32 none) :=
  State.logChange_keeps (upd_pool .rfl0 (by decide)) (by decide)

theorem State.closeDelta_unbound (s : State) (h : ReqHdr) (i epoch : Nat) :
    (s.closeDelta h i epoch).fab.unbound = s.fab.unbound ++ [{ messageTo (s.memberId i) 0 0x49 clsRsp 0
      (leBytes 4 s.pool.setGen ++ leBytes 8 epoch) with jidx := some h.jidx }] := by
  have hNoted := noteDelta_frame s epoch
  have hGen : (s.closeDelta h i epoch).pool.setGen = s.pool.setGen := by rw [State.closeDelta_pool]
  rw [← hNoted .fab (by decide), ← State.memberId_of (hNoted .cfg (by decide)) (hNoted .boot (by decide)) i, ← hGen]
  rfl

theorem State.closeDelta_leaseGone (s : State) (h : ReqHdr) (i epoch : Nat) :
    (s.closeDelta h i epoch).fab.leaseGone = s.fab.leaseGone := by
  rw [← noteDelta_frame s epoch .fab (by decide)]
  rfl

/-- The end of a delta's message, its last or not, touches neither the leases nor the LEASE_GONE bits. -/
theorem exec_setDelta_tables {h : ReqHdr} {gen i epoch : Nat} {recs : List LeaseRec} {s : State}
    (hServed : SetReqServed s h gen i) (hIs : i = s.pool.master) (hMember : s.isMaster = false)
    (hNew : s.pool.lastDelta ≤ epoch) :
    let u := (arrived s h).takeDelta recs
    ∃ t, exec (.setDelta h gen epoch recs) s = .next t ∧ t.pool.leases = u.pool.leases ∧
      t.fab.leaseGone = u.fab.leaseGone ∧ KeepsBut [.fab, .pool, .twin] u t := by
  intro u
  have hExec := exec_setDelta (recs := recs) hServed hIs hMember hNew
  by_cases hLast : h.opData.getLsbD 0 = true
  · refine ⟨u.closeDelta h i epoch, hExec.trans (congrArg Host.Outcome.next (if_pos hLast)), ?_, ?_,
      State.closeDelta_frame _ _ _ _⟩
    · rw [State.closeDelta_pool]
    · exact u.closeDelta_leaseGone h i epoch
  · exact ⟨u.journalOut h.jidx, hExec.trans (congrArg Host.Outcome.next (if_neg hLast)), rfl, rfl,
      State.journalOut_keeps .rfl0 (by decide)⟩

/-- A record of a LIVE lease writes that lease, and clears the host's LEASE_GONE bit. -/
theorem State.applyRecord_live {s : State} {x : LeaseRec} (hLive : lstateOf x.lstate = .live) :
    s.applyRecord x =
      (s.setLease x.host ⟨x.assigned, .live, x.tenant, x.endEpoch⟩).setLeaseGone x.host false := by
  unfold State.applyRecord
  simp only [hLive, reduceCtorEq, if_false, if_true, false_and]

theorem State.takeDelta_live {s : State} {x : LeaseRec} (hLive : lstateOf x.lstate = .live) :
    let t := s.takeDelta [x]
    t.pool.leases = Tab.set Lease.empty s.pool.leases x.host ⟨x.assigned, .live, x.tenant, x.endEpoch⟩ ∧
      t.fab.leaseGone = Tab.set false s.fab.leaseGone x.host false ∧ KeepsBut [.fab, .pool, .twin] s t := by
  have hLease := s.setLease_frame x.host ⟨x.assigned, .live, x.tenant, x.endEpoch⟩
  unfold State.takeDelta
  simp only [List.foldl_cons, List.foldl_nil, State.applyRecord_live hLive]
  refine ⟨?_, ?_, ?_⟩
  · rw [State.setLeaseGone_pool, State.setLease_pool]
  · unfold State.setLeaseGone
    rw [hLease .fab (by decide)]
  · exact upd_pool (State.setLeaseGone_keeps (hLease.mono (by decide)) (by decide)) (by decide)

/-! ## SET_ACK (R201, R203) -/

theorem State.startReclaims_none {s : State} (hNone : s.pool.reclaimWait = []) : s.startReclaims = s := by
  have hSame : ({ s with pool := { s.pool with reclaimWait := [] } } : State) = s := by rw [← hNone]
  unfold State.startReclaims
  simp only [hNone, List.filter_nil, List.foldl_nil]
  exact hSame

/-! ## SET_MEMBER_LOSS (R203) -/

/-- The extents that have a part at member `n`. -/
def State.extsAt (s : State) (n : Nat) : List Nat :=
  (s.pool.exts.filter fun e => decide (e.2.st ≠ .free) && e.2.mask.getLsbD n).map (·.1)

/-- Member `n` is lost, and with it every extent that has a part there (R196). -/
def State.memberLost (s : State) (n : Nat) : State :=
  let s := s.setMember n { s.member n with st := .lost }
  (s.extsAt n).foldl State.damage s

theorem State.extsAt_setMember (s : State) (i : Nat) (m : Member) (n : Nat) :
    (s.setMember i m).extsAt n = s.extsAt n := by
  unfold State.extsAt
  rw [State.setMember_pool]

theorem State.damage_frame (s : State) (e : Nat) : KeepsBut [.fab, .pool, .twin] s (s.damage e) :=
  State.damage_keeps .rfl0 (by decide)

/-- The notices of damage touch no table of the pool. -/
theorem State.damage_pool (s : State) (e : Nat) :
    (s.damage e).pool = { s.pool with exts := Tab.set Ext.empty s.pool.exts e { s.ext e with damaged := true } } := by
  have hNotices : ∀ u : State, ∀ l : List Nat, (l.foldl (fun (s : State) h =>
      if (s.lease h).st.alive then s.poolNotice h 1 e else s) u).pool = u.pool := fun u l =>
    KeepsBut.foldl (ps := [.fab]) .rfl0 (fun _ _ h => .ite (fun _ => State.poolNotice_keeps h (by decide)) fun _ => h)
      .pool (by decide)
  exact (hNotices _ _).trans (State.setExt_pool _ _ _)

/-- No order waits for member `n` any more. -/
def State.dropWaits (s : State) (n : Nat) : State :=
  { s with pool := { s.pool with orders := s.pool.orders.map fun (r : SetOrderRec) =>
    { r with waiting := r.waiting.filter fun w => decide (w.member ≠ n) } } }

theorem State.dropWaits_none {s : State} {n : Nat} (hNone : s.pool.orders = []) : s.dropWaits n = s := by
  have hSame : ({ s with pool := { s.pool with orders := [] } } : State) = s := by rw [← hNone]
  unfold State.dropWaits
  simp only [hNone, List.map_nil]
  exact hSame

theorem exec_setMemberLoss {s : State} {n : Nat} (hMaster : s.isMaster = true) (hOther : n ≠ s.setIndex)
    (hJoined : (s.member n).st = .joined) (hSilent : (s.member n).lastAckAt + s.cfgAt fLossEpochs ≤ s.epoch)
    (hOrders : (s.memberLost n).pool.orders = []) (hWaits : (s.memberLost n).pool.reclaimWait = []) :
    exec (.setMemberLoss n) s =
      .next ((s.memberLost n).raise 0x0404 sevWarning (s.memberLost n).actDie (leBytes 1 n)) := by
  let u := (s.memberLost n).raise 0x0404 sevWarning (s.memberLost n).actDie (leBytes 1 n)
  have hPool : u.pool = (s.memberLost n).pool := State.raise_pool _ _ _ _ _
  have hExec : exec (.setMemberLoss n) s = .next (u.dropWaits n).settleOrders.startReclaims :=
    congrArg Host.Outcome.next (if_pos ⟨hMaster, hOther, hJoined, hSilent⟩)
  rw [hExec, State.dropWaits_none (by rw [hPool, hOrders]), State.settleOrders_none (by rw [hPool, hOrders]),
    State.startReclaims_none (by rw [hPool, hWaits])]

/-- A loss that damages no extent. -/
theorem State.memberLost_whole {s : State} {n : Nat} (hNone : ∀ e, e ∈ s.pool.exts → e.2.mask.getLsbD n = false) :
    s.memberLost n = s.setMember n { s.member n with st := .lost } := by
  have hHit : s.extsAt n = [] :=
    List.map_eq_nil_iff.mpr (List.filter_eq_nil_iff.mpr fun e he => by simp [hNone e he])
  unfold State.memberLost
  dsimp only
  rw [State.extsAt_setMember, hHit]
  rfl

/-- A loss in a pool of one extent, part of which lies at the member that is lost. -/
theorem State.memberLost_one {s : State} {n e : Nat} {x : Ext} (hExts : s.pool.exts = [(e, x)]) (hUsed : x.st ≠ .free)
    (hPart : x.mask.getLsbD n = true) :
    s.memberLost n = (s.setMember n { s.member n with st := .lost }).damage e := by
  have hHit : s.extsAt n = [e] := by
    unfold State.extsAt
    rw [hExts, List.filter_cons_of_pos (by simp [hUsed, hPart]), List.filter_nil]
    rfl
  unfold State.memberLost
  dsimp only
  rw [State.extsAt_setMember, hHit]
  rfl

theorem State.actDie_of_tok {s t : State} (h : t.tok = s.tok) : t.actDie = s.actDie := by
  unfold State.actDie
  rw [h]

/-! ## SET_MASTER_LOSS (R205) -/

/-- The member is degraded: it has lost its master. -/
def State.degrade (s : State) : State :=
  ({ s with pool := { s.pool with degraded := true } }).logChange 0x0011 8 32 none

theorem State.degrade_frame (s : State) : KeepsBut [.pool, .twin] s s.degrade :=
  State.logChange_keeps (upd_pool .rfl0 (by decide)) (by decide)

theorem State.degrade_pool (s : State) : s.degrade.pool = { s.pool with degraded := true } :=
  State.logChange_pool _ _ _ _ _

theorem exec_setMasterLoss {s : State} (hMember : s.isMaster = false) (hReady : s.pool.ready = true)
    (hWhole : s.pool.degraded = false) (hSilent : s.pool.lastDeltaAt + s.cfgAt fLossEpochs ≤ s.epoch) :
    exec .setMasterLoss s = .next ((s.degrade.raise 0x0405 sevWarning s.actDie
      (leBytes 1 s.pool.master ++ leBytes 4 s.pool.setGen)).noticeAll 3) := by
  have hLost : ¬ s.isMaster = true ∧ s.pool.ready = true ∧ ¬ s.pool.degraded = true ∧
      s.pool.lastDeltaAt + s.cfgAt fLossEpochs ≤ s.epoch := by
    simp [hMember, hReady, hWhole, hSilent]
  have hDie : s.degrade.actDie = s.actDie := State.actDie_of_tok (s.degrade_frame .tok (by decide))
  have hExec : exec .setMasterLoss s = .next ((s.degrade.raise 0x0405 sevWarning s.degrade.actDie
      (leBytes 1 s.degrade.pool.master ++ leBytes 4 s.degrade.pool.setGen)).noticeAll 3) :=
    congrArg Host.Outcome.next (if_pos hLost)
  rw [hExec, hDie, State.degrade_pool]

/-! ## SET_MASTER (R206) -/

theorem exec_setMaster {c : RslCmd} {m gen : Nat} {lost : BitVec 8} {s : State} (hServed : RslServed s c 0x132)
    (hForm : ¬ (7 < m ∨ gen ≠ nextSetGen s.pool.setGen ∨ lost.getLsbD m = true))
    (hNone : s.pool.masterPending = none) :
    exec (.setMaster c m lost gen) s = .next (({ afterOpen s c 0x132 with
      pool := { s.pool with masterPending := some (m, lost, gen) } } : State).rslAnswer c 0x132 cOk 0 []) := by
  have hFirst : ¬ s.pool.masterPending.isSome = true := by rw [hNone]; decide
  exact congrArg Host.Outcome.next
    ((rslGate_served hServed rfl).trans ((if_neg hForm).trans (if_neg hFirst)))

/-- Settles O23: a delta by the records that it applies, each loss by the table that it writes and whom it tells. -/
theorem setFollowsDeltasAndLosses : Obligations.SetFollowsDeltasAndLosses := by
  refine ⟨fun h gen i epoch s hServed hIs hMember hNew hLast => ?_,
    fun h gen i epoch x s hServed hIs hMember hNew hLive => ?_, fun h gen i epoch s hGood hJoined hNone => ?_,
    fun n s hMaster hOther hJoined hSilent hOrders hWaits hNoPart => ?_,
    fun n e x s hMaster hOther hJoined hSilent hOrders hWaits hExts hUsed hPart => ?_,
    fun s hMember hReady hWhole hSilent => ?_, fun c m lost s hServed hMax hKept hNone => ?_,
    fun c m lost gen s hServed hWrong => ?_⟩
  · intro r
    have hExec := (exec_setDelta (recs := []) hServed hIs hMember hNew).trans
      (congrArg Host.Outcome.next (if_pos hLast))
    have hTaken : KeepsBut [.pool] r (r.takeDelta []) := upd_pool .rfl0 (by decide)
    refine does_intro hExec ⟨?_, State.closeDelta_unbound _ _ _ _,
      (hTaken.mono (by decide)).trans (State.closeDelta_frame _ _ _ _)⟩
    rw [State.closeDelta_pool, ← arrived_epoch s h]
    rfl
  · intro r
    obtain ⟨t, hExec, hLeases, hGone, hFrame⟩ := exec_setDelta_tables (recs := [x]) hServed hIs hMember hNew
    obtain ⟨hWritten, hCleared, hTaken⟩ := State.takeDelta_live (s := r) hLive
    refine does_intro hExec ⟨?_, fun g hg => ?_, ?_, hTaken.trans hFrame⟩
    · unfold State.lease
      rw [hLeases, hWritten]
      exact Tab.get_set_self _ _ _ _
    · unfold State.lease
      rw [hLeases, hWritten]
      exact Tab.get_set_ne _ _ _ hg
    · unfold State.gone
      rw [hGone, hCleared]
      exact Tab.get_set_self _ _ _ _
  · have hExec : exec (.setAck h gen epoch) s = .next (s.setMember i { s.member i with
        ackEpoch := epoch, lastAckAt := s.epoch }).startReclaims :=
      congrArg Host.Outcome.next ((State.setIn_good hGood).trans (if_pos hJoined))
    have hPool := s.setMember_pool i { s.member i with ackEpoch := epoch, lastAckAt := s.epoch }
    have hMembers := s.setMember_members i { s.member i with ackEpoch := epoch, lastAckAt := s.epoch }
    rw [State.startReclaims_none (by rw [hPool]; exact hNone)] at hExec
    refine does_intro hExec ⟨State.member_of_set hMembers, fun j hj => State.member_of_set_ne hMembers hj, ?_,
      s.setMember_frame i _⟩
    rw [hPool]
  · have hLost := State.memberLost_whole hNoPart
    have hPool := s.setMember_pool n { s.member n with st := .lost }
    have hMembers := s.setMember_members n { s.member n with st := .lost }
    have hFrame := s.setMember_frame n { s.member n with st := .lost }
    have hExec := exec_setMemberLoss hMaster hOther hJoined hSilent (by rw [hLost, hPool]; exact hOrders)
      (by rw [hLost, hPool]; exact hWaits)
    have hRaised := (s.memberLost n).raise_frame 0x0404 sevWarning (s.memberLost n).actDie (leBytes 1 n)
    rw [hLost] at hExec hRaised
    have hSame := congrArg Pool.members (hRaised .pool (by decide))
    refine does_intro hExec ⟨State.member_of_set (hSame.trans hMembers),
      fun j hj => State.member_of_set_ne (hSame.trans hMembers) hj, ?_,
      (hFrame.mono (by decide)).trans (hRaised.mono (by decide))⟩
    rw [State.actDie_of_tok (hFrame .tok (by decide))]
    exact raised_of_keeps hFrame (by decide) _ _ _ _
  · have hLost := State.memberLost_one hExts hUsed hPart
    let m := s.setMember n { s.member n with st := .lost }
    have hMember : m.pool = _ := s.setMember_pool n { s.member n with st := .lost }
    have hDamaged : (s.memberLost n).pool = _ := (congrArg State.pool hLost).trans (m.damage_pool e)
    have hFrame := (s.setMember_frame n { s.member n with st := .lost }).mono (qs := [.fab, .pool, .twin]) (by decide)
    have hLostFrame : KeepsBut [.fab, .pool, .twin] s (s.memberLost n) := by
      rw [hLost]; exact hFrame.trans (m.damage_frame e)
    have hExec := exec_setMemberLoss hMaster hOther hJoined hSilent (by rw [hDamaged, hMember]; exact hOrders)
      (by rw [hDamaged, hMember]; exact hWaits)
    have hRaised := (s.memberLost n).raise_frame 0x0404 sevWarning (s.memberLost n).actDie (leBytes 1 n)
    refine does_intro hExec ⟨?_, State.member_of_set (s := s) ?_,
      (hLostFrame.mono (by decide)).trans (hRaised.mono (by decide))⟩
    · rw [ext_of_exts_set (s := m) (by rw [hRaised .pool (by decide), hDamaged])]
    · rw [hRaised .pool (by decide), hDamaged]
      dsimp only
      rw [hMember]
  · have hRaised := s.degrade.raise_frame 0x0405 sevWarning s.actDie
      (leBytes 1 s.pool.master ++ leBytes 4 s.pool.setGen)
    have hFrame := s.degrade_frame
    have hNotices := State.noticeAll_frame (s.degrade.raise 0x0405 sevWarning s.actDie
      (leBytes 1 s.pool.master ++ leBytes 4 s.pool.setGen)) 3
    refine does_intro (exec_setMasterLoss hMember hReady hWhole hSilent) ⟨?_, ?_, ?_, ?_⟩
    · exact (hNotices .pool (by decide)).trans ((hRaised .pool (by decide)).trans s.degrade_pool)
    · exact (raised_of_keeps hFrame (by decide) _ _ _ _).of_evs (hNotices .evs (by decide))
    · refine (State.noticeAll_sent _ 3).of ((hRaised .fab (by decide)).trans (hFrame .fab (by decide))) ?_
      rw [hRaised .pool (by decide), State.degrade_pool]
    · exact ((hFrame.mono (by decide)).trans (hRaised.mono (by decide))).trans (hNotices.mono (by decide))
  · have hForm : ¬ (7 < m ∨ nextSetGen s.pool.setGen ≠ nextSetGen s.pool.setGen ∨ lost.getLsbD m = true) := by
      simp [hMax, hKept]
    refine rslRuns_of_kept (exec_setMaster hServed hForm hNone) (upd_pool .rfl0 (by decide)) (by decide)
      fun t hSame => ?_
    exact hSame .pool (by decide)
  · have hExec : exec (.setMaster c m lost gen) s = .next ((afterOpen s c 0x132).rslAnswer c 0x132 cMalformed 0 []) :=
      congrArg Host.Outcome.next ((rslGate_served hServed rfl).trans (if_pos hWrong))
    exact does_intro hExec ⟨answered_done, rslAnswer_keepsBut_cplParts _ _ _ _ _ _⟩

end Sys2Proof.Machine
end

section
/-! Requests for shared lines (chapter 8): how a load, store or atomic on a line of an UP domain comes past its checks,
and how the home agent admits it or turns it away. -/

namespace Sys2Proof.Machine
open Sys2Proof

/-! ## Past the checks (R37, R180, R213, R283, R438) -/

theorem State.police_frame (s : State) (h : ReqHdr) (cls : Nat) : KeepsBut [.fab, .ctrs] s (s.police h cls).1 :=
  State.police_keeps .rfl0 (by decide)

theorem admitted_frame (s : State) (h : ReqHdr) (cls : Nat) : KeepsBut [.fab, .twin, .ctrs] s (admitted s h cls) :=
  ((arrived_frame s h).mono (by decide)).trans (((arrived s h).police_frame h cls).mono (by decide))

section HomeRequest
variable {s : State} {kind : HomeReq} {h : ReqHdr} {cls : Nat} {lens : List Nat} {fields : BitVec 32} {bad : Bool}

theorem State.homeRequest_reached {k : State → State} (hReached : HomeReached s h cls lens fields)
    (hFormed : bad = false) : s.homeRequest kind h cls lens fields bad k = k (admitted s h cls) := by
  obtain ⟨⟨hServed, hGreen, hForm⟩, hNew, hIn⟩ := hReached
  have hIn' : (admitted s h cls).decommissioned = false := by
    unfold State.decommissioned at hIn ⊢
    rw [admitted_frame s h cls .boot (by decide), hIn]
  unfold State.homeRequest
  dsimp only
  rw [arrive_served hServed]
  simp only [hNew, colander_green hGreen, hForm, hFormed, Bool.not_true, Bool.or_self, Bool.false_eq_true, if_false]
  exact if_neg (by rw [show ((arrived s h).police h cls).1 = admitted s h cls from rfl, hIn']; decide)

/-- The access check passes a sender with rights to a line of an UP domain; a request that only members may send, if the
sender fills a slot. -/
theorem State.homeAccess_bound {r : State} {addr need e line d : Nat} {member : Bool} {k : State → Nat → Nat → State}
    (hAccess : r.accessSealed h.src h.sess addr need (decide (kind ≠ .rdNc ∧ kind ≠ .wrNc)) = .ok e line)
    (hExt : e = addrExt addr) (hBound : (r.ext e).domain = some d) (hUp : (r.domain d).st = .up)
    (hMember : member = true → ((r.domain d).slotOf h.src).isSome = true) :
    r.homeAccess kind h addr need member k = k r e line := by
  subst hExt
  have hFills : (member && ((r.domain d).slotOf h.src).isNone) = false := by
    cases member with
    | false => rfl
    | true => rw [Option.isNone_eq_false_iff.mpr (hMember rfl)]; rfl
  unfold State.homeAccess
  simp only [hAccess, hBound, hFills, State.boundUp, hUp, Option.isNone_some, Option.isSome_some, Bool.and_false,
    Bool.false_eq_true, decide_true, Bool.not_true, if_false]

theorem State.homeAccess_unbound {r : State} {addr need e line : Nat} {k : State → Nat → Nat → State}
    (hAccess : r.accessSealed h.src h.sess addr need (decide (kind ≠ .rdNc ∧ kind ≠ .wrNc)) = .ok e line)
    (hExt : e = addrExt addr) (hUnbound : (r.ext e).domain = none) :
    r.homeAccess kind h addr need true k = r.homeCpl kind h cUnsupported 0 := by
  subst hExt
  unfold State.homeAccess
  simp only [hAccess, hUnbound, Option.isNone_none, Bool.true_and, if_true]

theorem State.pastGuard_clear {r : State} {addr : Nat} {k : State → State} (hClear : r.guarded addr = none) :
    r.pastGuard kind h addr k = k r := by
  unfold State.pastGuard
  rw [hClear]

theorem State.domainOf_bound {r : State} {e d : Nat} (hBound : (r.ext e).domain = some d) : r.domainOf e = d := by
  unfold State.domainOf
  rw [hBound]
  rfl

/-- A well-formed request for an unguarded line of an UP domain meets the home agent's admission. `k` is what its
command does past the checks. -/
theorem State.homeRequest_admits {addr need e line d : Nat} {member : Bool} {k : State → Nat → Nat → State}
    {mask : BitVec 64} {data : Line} {operand : BitVec 256} (hReached : HomeReached s h cls lens fields)
    (hFormed : bad = false)
    (hAccess : (admitted s h cls).accessSealed h.src h.sess addr need (decide (kind ≠ .rdNc ∧ kind ≠ .wrNc)) =
      .ok e line)
    (hExt : e = addrExt addr) (hBound : ((admitted s h cls).ext e).domain = some d)
    (hUp : ((admitted s h cls).domain d).st = .up)
    (hMember : member = true → (((admitted s h cls).domain d).slotOf h.src).isSome = true)
    (hClear : (admitted s h cls).guarded addr = none)
    (hAdmits : k (admitted s h cls) e line = (admitted s h cls).admitHome kind h addr e
      ((admitted s h cls).domainOf e) mask data operand) :
    (s.homeRequest kind h cls lens fields bad fun s => s.homeAccess kind h addr need member fun s e line =>
      s.pastGuard kind h addr fun s => k s e line) =
      (admitted s h cls).admitHome kind h addr e d mask data operand := by
  rw [State.homeRequest_reached hReached hFormed, State.homeAccess_bound hAccess hExt hBound hUp hMember,
    State.pastGuard_clear hClear, hAdmits, State.domainOf_bound hBound]

end HomeRequest

/-! ## Admission (R214, R220, R221) -/

theorem State.openTracker_frame (s : State) (x : Tracker) : KeepsBut [.coh, .ctrs] s (s.openTracker x) :=
  State.openTracker_keeps .rfl0 (by decide)

/-- A transaction that is nobody's retry leaves the starvation entries alone. -/
theorem State.openTracker_opens {s : State} {x : Tracker} (hKeeps : ∀ e, e ∈ s.coh.starve → x.clears e = false) :
    Opens s (s.openTracker x) x := by
  have hStarve : (s.coh.starve.filter fun e => !x.clears e) = s.coh.starve :=
    List.filter_eq_self.mpr fun e he => by rw [hKeeps e he]; rfl
  unfold Opens State.openTracker
  dsimp only
  rw [State.bump_coh, hStarve]

/-- A transaction on a line without a starvation entry clears none. -/
theorem Tracker.clears_of_starveEntry {s : State} {x : Tracker} (hNone : s.starveEntry x.line = none) (e : Starve)
    (he : e ∈ s.coh.starve) : x.clears e = false := by
  have hOther : ¬ e.line = x.line := by simpa using List.find?_eq_none.mp hNone e he
  simp [Tracker.clears, hOther]

section Admission
variable {r : State} {kind : HomeReq} {h : ReqHdr} {addr e d : Nat} {mask : BitVec 64} {data : Line}
  {operand : BitVec 256}

theorem State.admitHome_free (hFree : LineFree r (addr / 64)) : r.admitHome kind h addr e d mask data operand =
    r.openTracker (newTracker kind h addr e d mask data operand 0 []) := by
  obtain ⟨hIdle, hEntry, hRoom⟩ := hFree
  unfold State.admitHome
  simp only [hIdle, hEntry, hRoom, Option.isSome_none, Bool.false_and, Bool.or_self, Bool.false_eq_true, false_and,
    if_false, if_true]

/-- A request for a busy line, not retried often enough for a starvation entry, is told to retry. -/
theorem State.admitHome_busy (hBusy : r.lineBusy (addr / 64) = true) (hEntry : r.starveEntry (addr / 64) = none)
    (hFew : retryOf h < r.cfgAt fStarveRetries) :
    r.admitHome kind h addr e d mask data operand = (r.bump 4 d 1 1).cohNak h 0 false := by
  have hEntry' : (r.bump 4 d 1 1).starveEntry (addr / 64) = none := hEntry
  have hFew' : retryOf h < (r.bump 4 d 1 1).cfgAt fStarveRetries := hFew
  unfold State.admitHome State.nakBusy
  simp only [hBusy, hEntry', hFew', Bool.true_or, if_true]

/-- The transaction is opened, and nothing else is done. -/
theorem does_open {i : Instr} {s : State} (hFree : LineFree r (addr / 64))
    (hExec : exec i s = .next (r.admitHome kind h addr e d mask data operand)) :
    Does i s fun t =>
      Opens r t (newTracker kind h addr e d mask data operand 0 []) ∧ KeepsBut [.coh, .ctrs] r t := by
  rw [State.admitHome_free hFree] at hExec
  obtain ⟨-, hEntry, -⟩ := hFree
  exact does_intro hExec ⟨State.openTracker_opens (Tracker.clears_of_starveEntry hEntry), State.openTracker_frame _ _⟩

end Admission

/-! ## Write-backs and evictions (R216) -/

section Answers
variable {s : State} {kind : HomeReq} {h : ReqHdr}

theorem State.answerRequest_reached {lens : List Nat} {bad : Bool} {k : State → State}
    (hReached : AnswerReached s h lens) (hFormed : bad = false) :
    s.answerRequest kind h lens bad k = k (arrived s h) := by
  obtain ⟨hServed, hForm⟩ := hReached
  unfold State.answerRequest
  dsimp only
  rw [arrive_served hServed, hForm, hFormed]
  rfl

theorem State.answerAccess_passes {r : State} {addr e d : Nat} {k : State → Nat → Nat → State}
    (hPasses : AnswerPasses r h addr e d) : r.answerAccess kind h addr k = k r e d := by
  obtain ⟨hAddr, rfl, hBound, hLen, hHere, hPool, hStack, hMember, hUp⟩ := hPasses
  have hAddr' : ¬ 2 ^ 57 ≤ addr := Nat.not_le.mpr hAddr
  have hFills : ((r.domain d).slotOf h.src).isNone = false :=
    Option.isNone_eq_false_iff.mpr hMember
  have hPlace : ¬ ((r.ext (addrExt addr)).lenGran ≤ addrOff addr / 2 ^ 21 ∨
      granMember (r.ext (addrExt addr)) (addrExt addr) (addrOff addr / 2 ^ 21) ≠ some r.setIndex) := by
    rintro (hShort | hNot)
    · omega
    · exact hNot hHere
  unfold State.answerAccess
  simp only [if_neg hAddr', hBound, hFills, if_neg hPlace, hPool, hStack, hUp, Bool.or_self, Bool.false_eq_true,
    not_true_eq_false, ne_eq, if_false]

/-- A write-back or eviction retries nobody's request. -/
theorem newTracker_answer_clears {addr e d : Nat} {mask : BitVec 64} {data : Line} {operand : BitVec 256} {n : Nat}
    {answers : List Nat} (hKind : kind = .wbDirty ∨ kind = .evict) (x : Starve) :
    (newTracker kind h addr e d mask data operand n answers).clears x = false := by
  rcases hKind with rfl | rfl <;> simp [Tracker.clears, newTracker]

/-- A write-back that no transaction waits for, of a line on which none is open, opens its own. -/
theorem exec_wbDirty_opens {addr e d : Nat} {data : Line} (hReached : AnswerReached s h [6]) (hAligned : addr % 64 = 0)
    (hNew : (arrived s h).recorded h = none) (hPasses : AnswerPasses (arrived s h) h addr e d)
    (hNobody : (arrived s h).awaiting (addr / 64) h.src = none) (hIdle : (arrived s h).lineBusy (addr / 64) = false)
    (hRoom : (arrived s h).reserveUsed 2 < 256) :
    exec (.wbDirty h addr fullMask data) s = .next (((arrived s h).markAnswer h.jidx).openTracker
      (newTracker .wbDirty h addr e d fullMask data 0 2 [h.jidx])) := by
  have hNobody' : ((arrived s h).markAnswer h.jidx).awaiting (addr / 64) h.src = none := hNobody
  have hIdle' : ((arrived s h).markAnswer h.jidx).lineBusy (addr / 64) = false := hIdle
  have hRoom' : ¬ 256 ≤ ((arrived s h).markAnswer h.jidx).reserveUsed 2 := Nat.not_le.mpr hRoom
  refine congrArg Host.Outcome.next ((State.answerRequest_reached hReached (by simp [hAligned])).trans ?_)
  simp only [hNew, State.answerAccess_passes hPasses, hNobody', hIdle', hRoom', Bool.false_eq_true, or_self, if_false]

theorem exec_evict_opens {addr e d : Nat} (hReached : AnswerReached s h [2]) (hAligned : addr % 64 = 0)
    (hPasses : AnswerPasses (arrived s h) h addr e d) (hIdle : (arrived s h).lineBusy (addr / 64) = false)
    (hRoom : (arrived s h).reserveUsed 2 < 256) :
    exec (.evict h addr 0) s =
      .next ((arrived s h).openTracker (newTracker .evict h addr e d 0 0 0 2 [])) := by
  have hRoom' : ¬ 256 ≤ (arrived s h).reserveUsed 2 := Nat.not_le.mpr hRoom
  refine congrArg Host.Outcome.next ((State.answerRequest_reached hReached (by simp [hAligned])).trans ?_)
  simp only [State.answerAccess_passes hPasses, hIdle, hRoom', Bool.false_eq_true, or_self, if_false]

end Answers

/-- Settles O26: a request by what the home agent does with it once it has come past its checks, a write-back or
eviction by the tracker of its own that it opens. -/
theorem sharedLineRequestsOpenTransactions : Obligations.SharedLineRequestsOpenTransactions := by
  refine ⟨fun h addr e line d err s hReached hAligned => ?_, fun h addr e line d s hReached hAligned => ?_,
    fun h addr e line d s hReached hAligned => ?_, fun h addr e line d s hReached hAligned => ?_,
    fun h addr e line s hReached hAligned => ?_, fun h addr mask data err e line d s hReached hAligned hMask => ?_,
    fun h addr operand err e line d s hReached hFormed => ?_, fun h addr data e d s hReached hAligned => ?_,
    fun h addr e d s hReached hAligned => ?_⟩
  · intro r hAccess hExt hBound hUp hClear hFree
    exact does_open hFree (congrArg Host.Outcome.next (State.homeRequest_admits hReached (by simp [hAligned]) hAccess
      hExt hBound hUp (fun hNo => absurd hNo (by decide)) hClear (if_pos (by rw [hBound]; rfl))))
  · intro r hAccess hExt hBound hUp hMember hClear hFree
    exact does_open hFree (congrArg Host.Outcome.next (State.homeRequest_admits hReached (by simp [hAligned]) hAccess
      hExt hBound hUp (fun _ => hMember) hClear rfl))
  · intro r hAccess hExt hBound hUp hMember hClear hFree
    exact does_open hFree (congrArg Host.Outcome.next (State.homeRequest_admits hReached (by simp [hAligned]) hAccess
      hExt hBound hUp (fun _ => hMember) hClear rfl))
  · intro r hAccess hExt hBound hUp hMember hClear hBusy hEntry hFew
    have hExec : exec (.rdOwn h addr 0) s = .next ((r.bump 4 d 1 1).cohNak h 0 false) :=
      congrArg Host.Outcome.next ((State.homeRequest_admits hReached (by simp [hAligned]) hAccess hExt hBound hUp
        (fun _ => hMember) hClear rfl).trans (State.admitHome_busy hBusy hEntry hFew))
    exact does_intro hExec ⟨⟨_, rfl, rfl, rfl, rfl, rfl, rfl⟩,
      State.cohNak_keeps (State.bump_keeps .rfl0 (by decide)) (by decide)⟩
  · intro r hAccess hExt hUnbound
    have hExec : exec (.rdOwn h addr 0) s = .next (r.send (answerOf h 0x1B clsRsp cUnsupported [])) :=
      congrArg Host.Outcome.next ((State.homeRequest_reached hReached (by simp [hAligned])).trans
        ((State.homeAccess_unbound hAccess hExt hUnbound).trans (cohCpl_eq_send (by decide) (by decide))))
    exact does_intro hExec ⟨⟨_, rfl, rfl, rfl, rfl, rfl, rfl⟩, State.send_keeps .rfl0 (by decide)⟩
  · intro r hAccess hExt hBound hUp hClear hFree
    exact does_open hFree (congrArg Host.Outcome.next (State.homeRequest_admits hReached
      (decide_eq_false fun hBad => hBad.elim (· hAligned) hMask) hAccess hExt hBound hUp
      (fun hNo => absurd hNo (by decide)) hClear (if_pos (by rw [hBound]; rfl))))
  · intro r hAccess hExt hBound hUp hClear hFree
    exact does_open hFree (congrArg Host.Outcome.next (State.homeRequest_admits hReached hFormed hAccess hExt hBound hUp
      (fun hNo => absurd hNo (by decide)) hClear (if_pos (by rw [hBound]; rfl))))
  · intro r hNew hPasses hNobody hIdle hRoom
    exact does_intro (exec_wbDirty_opens hReached hAligned hNew hPasses hNobody hIdle hRoom)
      ⟨State.openTracker_opens (s := r.markAnswer h.jidx) fun x _ => newTracker_answer_clears (.inl rfl) x,
        State.openTracker_keeps (State.markAnswer_keeps .rfl0 (by decide)) (by decide)⟩
  · intro r hPasses hIdle hRoom
    exact does_intro (exec_evict_opens hReached hAligned hPasses hIdle hRoom)
      ⟨State.openTracker_opens fun x _ => newTracker_answer_clears (.inr rfl) x, State.openTracker_frame _ _⟩

end Sys2Proof.Machine
end

section
/-! A coherence domain goes down (chapter 8): what is left of its transactions, and whom it tells. -/

namespace Sys2Proof.Machine
open Sys2Proof

/-! ## The domain table (R225) -/

theorem State.setDomain_frame (s : State) (d : Nat) (x : Domain) : KeepsBut [.coh, .twin] s (s.setDomain d x) :=
  State.setDomain_keeps .rfl0 (by decide)

theorem State.setDomain_coh (s : State) (d : Nat) (x : Domain) :
    (s.setDomain d x).coh = { s.coh with domains := Tab.set Domain.empty s.coh.domains d x } :=
  State.logChange_coh _ _ _ _ _

theorem State.setDomain_domains (s : State) (d : Nat) (x : Domain) :
    (s.setDomain d x).coh.domains = Tab.set Domain.empty s.coh.domains d x := by rw [State.setDomain_coh]

/-- Where one domain was written, it reads as written, and every other as before. -/
theorem domain_of_set {s t : State} {d : Nat} {x : Domain}
    (h : t.coh.domains = Tab.set Domain.empty s.coh.domains d x) :
    t.domain d = x ∧ ∀ i, i ≠ d → t.domain i = s.domain i := by
  unfold State.domain
  rw [h]
  exact ⟨Tab.get_set_self _ _ _ _, fun i hi => Tab.get_set_ne _ _ _ hi⟩

/-! ## The fall, step by step (R227, R228) -/

/-- The domain is DOWN, and its open transactions and starvation entries are gone. -/
def State.cutDomain (s : State) (d cause : Nat) : State :=
  let s := (s.setDomain d { s.domain d with st := .down, cause := cause }).bump 4 d 4 1
  { s with coh := { s.coh with
    trackers := s.coh.trackers.filter fun t => decide (t.domain ≠ d)
    starve := s.coh.starve.filter fun e => decide ((s.ext (addrExt (e.line * 64))).domain ≠ some d) } }

/-- The transactions that were open complete DOMAIN_DOWN, those that wait for a GRANT_ACK alone in silence. -/
def State.endTransactions (s : State) (ts : List Tracker) : State :=
  ts.foldl (fun s t =>
    let s := s.retireAnswers t
    if t.st = .waitAck then s else s.trkCpl t cDomainDown 0) s

/-- The master tells and orders the members; another member tells the master. -/
def State.spreadDown (s : State) (d cause : Nat) (report : Bool) (held : Option HeldCpl) : State :=
  if s.isMaster then
    let x := s.domain d
    (s.domainNotices d 1 cause).orderMask allMembers (.domain d 2 x.tenant cause x.dgen x.members) [] held
  else if !report then s
  else s.send (messageTo (s.memberId s.pool.master) 0 0x4E clsReq
    (d + (s.domain d).dgen * 2 ^ 11 + cause * 2 ^ 27) (leBytes 4 s.pool.setGen))

/-- The domain is DOWN and its transactions are over; nobody has been told yet. -/
def State.fallen (s : State) (d cause : Nat) : State :=
  (s.cutDomain d cause).endTransactions (s.coh.trackers.filter fun t => decide (t.domain = d))

section Fall
variable {s : State} {d cause : Nat} {report : Bool} {held : Option HeldCpl}

theorem State.cutDomain_coh : (s.cutDomain d cause).coh.domains =
      Tab.set Domain.empty s.coh.domains d { s.domain d with st := .down, cause := cause } ∧
    (s.cutDomain d cause).coh.trackers = s.coh.trackers.filter fun t => decide (t.domain ≠ d) := by
  unfold State.cutDomain
  dsimp only
  rw [State.bump_coh, State.setDomain_coh]
  exact ⟨rfl, rfl⟩

theorem State.cutDomain_frame : KeepsBut [.coh, .twin, .ctrs] s (s.cutDomain d cause) :=
  upd_coh (State.bump_keeps (State.setDomain_keeps .rfl0 (by decide)) (by decide)) (by decide)

theorem State.endTransactions_frame (s : State) (ts : List Tracker) :
    KeepsBut [.fab, .coach, .twin, .ctrs] s (s.endTransactions ts) :=
  KeepsBut.foldl .rfl0 fun _ _ h => .ite (fun _ => State.retireAnswers_keeps h (by decide)) fun _ =>
    State.trkCpl_keeps (State.retireAnswers_keeps h (by decide)) (by decide)

theorem State.fallen_frame : KeepsBut [.fab, .coh, .coach, .twin, .ctrs] s (s.fallen d cause) :=
  (State.cutDomain_frame.mono (by decide)).trans ((State.endTransactions_frame _ _).mono (by decide))

theorem State.fallen_coh : (s.fallen d cause).coh = (s.cutDomain d cause).coh :=
  State.endTransactions_frame _ _ .coh (by decide)

theorem State.spreadDown_frame :
    KeepsBut [.fab, .pool, .twin, .sec, .rsl, .ctrs] s (s.spreadDown d cause report held) :=
  .ite (fun _ => State.orderMask_keeps (State.domainNotices_keeps .rfl0 (by decide)) (by decide)) fun _ =>
    .ite (fun _ => .rfl0) fun _ => State.send_keeps .rfl0 (by decide)

theorem State.domainFalls_up (hUp : (s.domain d).st = .up) :
    let w := (s.fallen d cause).spreadDown d cause report held
    s.domainFalls d cause report held = w.raise 0x0501 sevNotice w.actDie (domainNotice w d 1 cause) := by
  have hTrackers : ((s.setDomain d { s.domain d with st := .down, cause := cause }).bump 4 d 4 1).coh.trackers =
      s.coh.trackers := by rw [State.bump_coh, State.setDomain_coh]
  unfold State.fallen
  rw [← hTrackers]
  exact if_neg (not_not_intro hUp)

/-- A domain that falls is DOWN with that cause, no other domain changes, and none of its transactions is left. -/
theorem State.domainFalls_effect (hUp : (s.domain d).st = .up) :
    let t := s.domainFalls d cause report held
    t.domain d = { s.domain d with st := .down, cause := cause } ∧ (∀ i, i ≠ d → t.domain i = s.domain i) ∧
      ∀ y, y ∈ t.coh.trackers → y.domain ≠ d := by
  intro t
  have hCoh : t.coh = (s.cutDomain d cause).coh := by
    show (s.domainFalls d cause report held).coh = _
    rw [State.domainFalls_up hUp, State.raise_frame _ _ _ _ _ .coh (by decide),
      State.spreadDown_frame .coh (by decide), State.fallen_coh]
  obtain ⟨hDomains, hTrackers⟩ := State.cutDomain_coh (s := s) (d := d) (cause := cause)
  obtain ⟨hDown, hOthers⟩ := domain_of_set ((congrArg Coh.domains hCoh).trans hDomains)
  refine ⟨hDown, hOthers, fun y hy => ?_⟩
  rw [hCoh, hTrackers, List.mem_filter] at hy
  exact of_decide_eq_true hy.2

theorem State.domainFalls_frame :
    KeepsBut [.fab, .pool, .coh, .coach, .twin, .sec, .rsl, .evs, .ctrs] s (s.domainFalls d cause report held) :=
  State.domainFalls_keeps .rfl0 (by decide)

end Fall

end Sys2Proof.Machine
end

section
/-! Transactions of the home agent (chapter 8): the line is read, members are snooped, answers come in, the line is
written, and the transaction ends or runs out of time. -/

namespace Sys2Proof.Machine
open Sys2Proof

/-! ## Answers to snoops and grants reach the active die (R155, R229) -/

theorem answerIn_reached {s : State} {h : ReqHdr} {k : State → State} (hServed : AnswerServed s h) :
    s.answerIn h k = k (answerIn s h) := by
  obtain ⟨hSess, hKnown, hAttended, hTurn⟩ := hServed
  have hHere : ¬ ((!(s.journaled h.jidx).isSome) = true ∧ h.dst ≠ s.fabricId) := by
    rintro ⟨hNew, hElse⟩
    rcases hKnown with hKnown | ⟨hDst, -⟩
    · rw [hKnown] at hNew; cases hNew
    · exact hElse hDst
  have hAdmitted : ¬ ((!(s.journaled h.jidx).isSome) = true ∧ (!s.srcAdmitted h.src) = true) := by
    rintro ⟨hNew, hElse⟩
    rcases hKnown with hKnown | ⟨-, hSrc⟩
    · rw [hKnown] at hNew; cases hNew
    · rw [hSrc] at hElse; cases hElse
  have hGoes : ¬ (!(answerKept s h).attended || (answerKept s h).mustWait h.jidx) = true := by
    rw [hAttended, hTurn]
    decide
  exact (if_neg (not_not_intro hSess)).trans ((if_neg hHere).trans ((if_neg hAdmitted).trans (if_neg hGoes)))

/-! ## Trackers (R214, R215) -/

theorem State.setTracker_frame (s : State) (x : Tracker) : KeepsBut [.coh] s (s.setTracker x) :=
  State.setTracker_keeps .rfl0 (by decide)

theorem State.tracker_id {s : State} {id : Nat} {x : Tracker} (h : s.tracker id = some x) : x.id = id := by
  simpa using List.find?_some h

theorem State.tracker_mem {s : State} {id : Nat} {x : Tracker} (h : s.tracker id = some x) : x ∈ s.coh.trackers :=
  List.mem_of_find?_eq_some h

/-- A tracker that is written in the place of one with its number is found under that number. -/
theorem State.tracker_setTracker {s : State} {x y : Tracker} (hMem : x ∈ s.coh.trackers) (hId : x.id = y.id) :
    (s.setTracker y).tracker y.id = some y := by
  unfold State.tracker State.setTracker
  dsimp only
  generalize s.coh.trackers = trackers at hMem
  induction trackers with
  | nil => cases hMem
  | cons z zs ih =>
    by_cases hz : z.id = y.id
    · simp [hz]
    · have hRest : x ∈ zs := (List.mem_cons.mp hMem).resolve_left (by rintro rfl; exact hz hId)
      simpa [hz] using ih hRest

theorem State.snooped_mem {s : State} {h : ReqHdr} {x : Tracker} (hSnooped : s.snooped h = some x) :
    x ∈ s.coh.trackers := List.mem_of_find?_eq_some hSnooped

/-! ## Writes that wait at a hub (R38, R323) -/

theorem State.hubQueue_setHubQueue {hub : Nat} (s : State) (ws : List HubWrite) :
    (s.setHubQueue hub ws).hubQueue hub = ws := by
  by_cases h : hub = 0 <;> simp [State.setHubQueue, State.hubQueue, h]

/-- A write goes to the end of its hub's queue. -/
theorem State.queueWrite_hubQueue (s : State) (l : Nat) (w : HubWrite) :
    (s.queueWrite l w).hubQueue (s.hubOfLine l) = s.hubQueue (s.hubOfLine l) ++ [w] := by
  unfold State.queueWrite
  dsimp only
  rw [State.hubQueue_setHubQueue]
  split <;> rfl

theorem State.queueWrite_frame (s : State) (l : Nat) (w : HubWrite) : KeepsBut [.mem, .ctrs] s (s.queueWrite l w) :=
  State.queueWrite_keeps .rfl0 (by decide)

/-! ## A request is applied to its line (R213, R215) -/

/-- From `r` to `t` the transaction `x` waits for its line's write, `data` with directory bits `dir`, at the hub. -/
def WritesHome (r t : State) (x : Tracker) (data : Line) (dir : BitVec 10) : Prop :=
  let l := r.lineAt (x.line * 64)
  t.hubQueue (r.hubOfLine l) = r.hubQueue (r.hubOfLine l) ++ [.home x.id l data dir] ∧
    t.coh = (r.setTracker { x with cur := some data, st := .write }).coh ∧ SameBytes r t ∧
    KeepsBut [.coh, .mem, .ctrs] r t

section Apply
variable {s : State} {x : Tracker}

/-- RD_OWN takes the line for its sender, and so writes the directory at least, unless the sender owns the line as it
stands and no member has given data. -/
theorem State.applyHome_rdOwn {cur : Line} {fromMember : Bool} (hKind : x.kind = .rdOwn)
    (hWrites : fromMember = true ∨ dirOwned (s.reqSlot x) ≠ x.dir) :
    WritesHome s (s.applyHome x cur fromMember) x cur (dirOwned (s.reqSlot x)) := by
  have hMust : writesLine { x with cur := some cur } fromMember (dirOwned (s.reqSlot x)) = true := by
    simp only [writesLine, hKind]
    rcases hWrites with rfl | hNew
    · rfl
    · rw [decide_eq_true hNew, Bool.or_true]
  have hApplied : s.applyHome x cur fromMember = (s.setTracker { x with cur := some cur, st := .write }).queueWrite
      (s.lineAt (x.line * 64)) (.home x.id (s.lineAt (x.line * 64)) cur (dirOwned (s.reqSlot x))) := by
    have hDir : dirAfter x.kind x.dir (s.reqSlot x) = dirOwned (s.reqSlot x) := by rw [hKind]; rfl
    have hResult : x.result cur = cur := by unfold Tracker.result; rw [hKind]
    unfold State.applyHome
    simp only [hDir, hResult]
    exact if_pos hMust
  rw [hApplied]
  exact ⟨State.queueWrite_hubQueue _ _ _, State.queueWrite_frame _ _ _ .coh (by decide),
    (State.queueWrite_cells .rfl0).sameBytes,
    ((s.setTracker_frame _).mono (by decide)).trans ((State.queueWrite_frame _ _ _).mono (by decide))⟩

/-- A transaction whose snoops are not all settled waits. -/
theorem State.snoopsDone_waits {y : Tracker} (hMem : x ∈ s.coh.trackers) (hId : x.id = y.id)
    (hOwed : (y.snoops.any fun n => !n.answered || n.wbPending) = true) :
    (s.setTracker y).snoopsDone y.id = s.setTracker y := by
  have hOpen : ¬ (y.st = .snoop ∧ (y.snoops.all fun n => n.answered && !n.wbPending) = true) := by
    rintro ⟨-, hAll⟩
    obtain ⟨n, hn, hOwes⟩ := List.any_eq_true.mp hOwed
    have hSettled := List.all_eq_true.mp hAll n hn
    rw [Bool.and_eq_true, Bool.not_eq_true'] at hSettled
    obtain ⟨hAnswered, hTaken⟩ := hSettled
    rw [hAnswered, hTaken] at hOwes
    cases hOwes
  unfold State.snoopsDone
  rw [State.tracker_setTracker hMem hId]
  exact if_neg hOpen

/-- One whose snoops are all settled is applied to the line. -/
theorem State.snoopsDone_applies {y : Tracker} (hMem : x ∈ s.coh.trackers) (hId : x.id = y.id) (hSnoop : y.st = .snoop)
    (hAll : (y.snoops.all fun n => n.answered && !n.wbPending) = true) :
    (s.setTracker y).snoopsDone y.id = (s.setTracker y).applyHome y (y.cur.getD 0) y.fromMember := by
  unfold State.snoopsDone
  rw [State.tracker_setTracker hMem hId]
  exact if_pos ⟨hSnoop, hAll⟩

end Apply

/-! ## The line of a transaction is read (R212, R213, R320, R321) -/

/-- A stored line without an error decodes to itself. -/
theorem decodeLine_nil : decodeLine [] = ⟨none, false, List.replicate 72 0⟩ := by decide +kernel

section Read
variable {s : State} {ppn line : Nat} (hServes : s.stackDown (stackOf ppn) = false)
include hServes

/-- A line that nothing was written to since its page's last wipe reads as zeros, without a stack access. -/
theorem State.hubRead_closed {err : Err} {dirRead : Bool} (hClosed : s.readsClosed ppn line = true) :
    s.hubRead ppn line err .front dirRead = (s.countAccess ppn 1 0, zeroAns) := by
  have hClosed' : (s.countAccess ppn 1 0).readsClosed ppn line = true := hClosed
  unfold State.hubRead
  simp only [hServes, hClosed', Bool.false_eq_true, reduceCtorEq, if_false, if_true]

/-- A line that was written reads as stored, with its directory bits; DIR STATE 3 would be an error. -/
theorem State.hubRead_written {dir : BitVec 10} (hOpen : s.readsClosed ppn line = false)
    (hMeta : s.lineMeta ppn line = ⟨true, false, dir⟩) (hDir : dir.toNat / 256 ≠ 3) :
    s.hubRead ppn line [] .front true = (s.countAccess ppn 1 0, ⟨false, false, s.lineReads ppn line, dir⟩) := by
  have hOpen' : (s.countAccess ppn 1 0).readsClosed ppn line = false := hOpen
  have hMeta' : (s.countAccess ppn 1 0).lineMeta ppn line = ⟨true, false, dir⟩ := hMeta
  have hReads : s.lineReads ppn line = storedLine s.mem.cells ppn line := by simp [State.lineReads, hOpen, hMeta]
  have hCells : (s.countAccess ppn 1 0).mem.cells = s.mem.cells := rfl
  unfold State.hubRead
  simp [hServes, hOpen', hMeta', hDir, hReads, hCells, decodeLine_nil, bitOf]

end Read

theorem State.countAccess_frame (s : State) (ppn r w : Nat) : KeepsBut [.mem] s (s.countAccess ppn r w) :=
  State.countAccess_keeps .rfl0 (by decide)

/-- What follows once the line of `x` is read, `data` with the directory bits in `x`: the request is applied, or the
members are snooped first. -/
def State.lineRead (s : State) (x : Tracker) (data : Line) : State :=
  match snoopsFor x.kind x.dir ((s.domain x.domain).slotOf x.hdr.src) (s.domain x.domain).members with
  | [] => s.applyHome x data false
  | ms =>
    let y := { x with st := .snoop, cur := some data }
    (s.setTracker y).snoopAll y (snoopShares x.kind) ms

theorem exec_homeLineReadDone {s u : State} {id : Nat} {x : Tracker} {err : Err} {a : ReadAns}
    (hTracker : s.tracker id = some x) (hRead : x.st = .read) (hAttended : s.attended = true)
    (hObeys : s.obeys (s.hubOfLine (s.lineAt (x.line * 64))) = true) (hKind : x.kind ≠ .wbDirty)
    (hAnswer : s.readLine (s.lineAt (x.line * 64)) err .front true = (u, a)) (hGood : a.poison = false) :
    exec (.homeLineReadDone id err) s = .next (u.lineRead { x with dir := a.dir } a.data) := by
  refine congrArg Host.Outcome.next ?_
  simp only [hTracker, hRead, hAttended, hObeys, hAnswer, hGood, ne_eq, not_true_eq_false, Bool.not_true,
    Bool.false_eq_true, or_self, Bool.and_false, if_false]
  split
  · next hIs _ => exact absurd hIs hKind
  · rfl

/-! ## Snoops (R208, R209) -/

theorem State.sendSnoop_frame (s : State) (x : Tracker) (share : Bool) (m : Nat × Nat) :
    KeepsBut [.fab, .coh, .ctrs] s (s.sendSnoop x share m).1 := State.sendSnoop_keeps .rfl0 (by decide)

/-- One snoop is handed to the port die. -/
theorem State.sendSnoop_unbound (s : State) (x : Tracker) (share : Bool) (m : Nat × Nat) :
    (s.sendSnoop x share m).1.fab.unbound = s.fab.unbound ++ [messageTo m.2 (s.sendSnoop x share m).2.tag
      (if share then 0x11 else 0x10) clsSnp 0 (snoopBody x.line x.domain (s.domain x.domain).dgen)] := rfl

/-- The snoops of a transaction that snoops one member. -/
theorem State.snoopAll_one (s : State) (x : Tracker) (share : Bool) (m : Nat × Nat) : s.snoopAll x share [m] =
    (s.sendSnoop x share m).1.setTracker { x with snoops := x.snoops ++ [(s.sendSnoop x share m).2] } := rfl

theorem dirOwned_toNat {m : Nat} (hm : m < 64) : (dirOwned m).toNat = 512 + m := by
  unfold dirOwned
  rw [BitVec.toNat_ofNat]
  omega

/-- No directory bits of an owner are those of a line that nobody caches. -/
theorem dirOwned_ne_zero {m : Nat} (hm : m ≤ 64) : dirOwned m ≠ 0 := by
  intro hZero
  have hNat := congrArg BitVec.toNat hZero
  unfold dirOwned at hNat
  rw [BitVec.toNat_ofNat] at hNat
  have hSmall : (512 + m) % 2 ^ 10 = 512 + m := Nat.mod_eq_of_lt (by omega)
  rw [hSmall] at hNat
  exact absurd (Nat.eq_zero_of_add_eq_zero_right hNat) (by decide)

/-- RD_OWN of a line that nobody caches snoops nobody, and writes the directory. -/
theorem State.lineRead_rdOwn_uncached {s : State} {x : Tracker} {data : Line} (hKind : x.kind = .rdOwn)
    (hDir : x.dir = 0) (hSlot : s.reqSlot x ≤ 64) :
    WritesHome s (s.lineRead x data) x data (dirOwned (s.reqSlot x)) := by
  have hApplies : s.lineRead x data = s.applyHome x data false := by
    unfold State.lineRead
    rw [hKind, hDir]
    rfl
  rw [hApplies]
  exact State.applyHome_rdOwn hKind (.inr (by rw [hDir]; exact dirOwned_ne_zero hSlot))

/-- WR_NC of a line that a member owns snoops its owner (R213). -/
theorem snoopsFor_wrNc_owned {m : Nat} (hm : m < 64) (r : Option Nat) (members : List (Nat × Nat)) :
    snoopsFor .wrNc (dirOwned m) r members = members.filter fun y => decide (y.1 = m) := by
  have hState : dirState (dirOwned m) = 2 := by unfold dirState; rw [dirOwned_toNat hm]; omega
  have hOwner : dirVec (dirOwned m) % 64 = m := by unfold dirVec; rw [dirOwned_toNat hm]; omega
  unfold snoopsFor
  simp only [hState, hOwner]

/-- What a transaction leaves that snoops one member for its line. -/
theorem State.lineRead_snoops {s : State} {x y : Tracker} {data : Line} {m : Nat × Nat}
    (hMem : y ∈ s.coh.trackers) (hId : y.id = x.id) (hShare : snoopShares x.kind = false)
    (hOne : snoopsFor x.kind x.dir ((s.domain x.domain).slotOf x.hdr.src) (s.domain x.domain).members = [m]) :
    let t := s.lineRead x data
    (∃ n, t.fab.unbound = s.fab.unbound ++ [n] ∧ n.dst = m.2 ∧ n.opcode = 0x10 ∧ n.cls = clsSnp ∧
      n.body = snoopBody x.line x.domain (s.domain x.domain).dgen) ∧
    (∃ n, t.tracker x.id = some { x with st := .snoop, cur := some data, snoops := x.snoops ++ [n] }) ∧
    KeepsBut [.fab, .coh, .ctrs] s t := by
  let z : Tracker := { x with st := .snoop, cur := some data }
  have hSnoops : s.lineRead x data = (s.setTracker z).snoopAll z false [m] := by
    unfold State.lineRead
    simp only [hOne, hShare]
    rfl
  have hFound : z ∈ (s.setTracker z).coh.trackers := State.tracker_mem (State.tracker_setTracker (y := z) hMem hId)
  dsimp only
  rw [hSnoops, State.snoopAll_one]
  exact ⟨⟨_, State.sendSnoop_unbound _ _ _ _, rfl, rfl, rfl, rfl⟩, ⟨_, State.tracker_setTracker hFound rfl⟩,
    State.setTracker_keeps ((State.setTracker_keeps .rfl0 (by decide)).trans (State.sendSnoop_frame _ _ _ _))
      (by decide)⟩

/-! ## The commands -/

section Commands
variable {s : State} {h : ReqHdr} {x : Tracker} (hServed : AnswerServed s h)
include hServed

theorem exec_snpAck_stale (hNone : (answerIn s h).snooped h = none) :
    exec (.snpAck h) s = .next ((answerIn s h).staleAnswer h) := by
  refine congrArg Host.Outcome.next ((answerIn_reached hServed).trans ?_)
  simp only [hNone]

theorem exec_snpAck (hSnooped : (answerIn s h).snooped h = some x) (hForm : formOk h [1] 0x3 = true) :
    exec (.snpAck h) s =
      .next (((answerIn s h).setTracker (x.answer h (h.opData.getLsbD 1))).snoopsDone x.id) := by
  refine congrArg Host.Outcome.next ((answerIn_reached hServed).trans ?_)
  simp only [hSnooped, answerBad, hForm, Bool.not_true, Bool.false_eq_true, if_false]

theorem exec_snpData {addr : Nat} {data : Line} (hSnooped : (answerIn s h).snooped h = some x)
    (hForm : formOk h [6] 0x1 = true) (hLine : addr / 64 = x.line) (hAligned : addr % 64 = 0) (hAddr : addr < 2 ^ 57) :
    exec (.snpData h addr x.domain ((answerIn s h).domain x.domain).dgen 0 data) s =
      .next (((answerIn s h).setTracker { x.answer h false with cur := some data, fromMember := true }).snoopsDone
        x.id) := by
  have hAddr' : ¬ 2 ^ 57 ≤ addr := Nat.not_le.mpr hAddr
  refine congrArg Host.Outcome.next ((answerIn_reached hServed).trans ?_)
  simp only [hSnooped, answerBad, hForm, hLine, hAligned, hAddr', ne_eq, not_true_eq_false, or_self, decide_false,
    Bool.not_true, Bool.or_self, Bool.false_eq_true, if_false]

theorem exec_grantAck (hOwed : ((answerIn s h).coh.trackers.find? fun y =>
      decide (y.st = .waitAck ∧ y.hdr.src = h.src ∧ y.hdr.tag = h.tag)) = some x) (hForm : formOk h [1] 0 = true) :
    exec (.grantAck h) s = .next (((answerIn s h).journalOut h.jidx).freeTracker x.id) := by
  refine congrArg Host.Outcome.next ((answerIn_reached hServed).trans ?_)
  simp only [hOwed, answerBad, hForm, Bool.not_true, Bool.false_eq_true, if_false]

end Commands

/-- A GRANT_ACK that is owed for COH.RESPONSE_EPOCHS epochs takes its domain down (R227). -/
theorem exec_cohDeadlineExpiry_grant {s : State} {id e : Nat} {x : Tracker} (hTracker : s.tracker id = some x)
    (hWaits : x.st = .waitAck) (hBound : x.ackBoundAt = some e) (hDue : e + s.cfgAt fResponse ≤ s.epoch) :
    exec (.cohDeadlineExpiry id) s = .next (s.domainDown x.domain 1) := by
  refine congrArg Host.Outcome.next ?_
  simp only [hTracker, hWaits, hBound, hDue, decide_true, Bool.and_self, Bool.or_true, if_true]

/-- Settles O27: a line's read by what it finds, an answer by the one tracker that it changes, the deadline by the fall
of the domain. -/
theorem transactionsSnoopAnswerAndEnd : Obligations.TransactionsSnoopAnswerAndEnd := by
  refine ⟨fun id x s hTracker hRead hAttended => ?_, fun id x m host s hTracker hRead hAttended => ?_,
    fun h s hServed => ?_, fun h x s hServed => ?_, fun h x addr data s hServed => ?_,
    fun h x addr data s hServed => ?_, fun h x s hServed => ?_, fun line s => ?_,
    fun id x e s hTracker hWaits hBound hDue hUp => ?_⟩
  · intro l ppn hObeys hServes hClosed hKind hSlot
    obtain rfl := State.tracker_id hTracker
    obtain ⟨hQueue, hCoh, hBytes, hFrame⟩ := State.lineRead_rdOwn_uncached (s := s.countAccess ppn 1 0)
      (x := { x with dir := 0 }) (data := 0) hKind rfl hSlot
    exact does_intro (exec_homeLineReadDone hTracker hRead hAttended hObeys (by rw [hKind]; decide)
        (State.hubRead_closed hServes hClosed) rfl)
      ⟨hQueue, congrArg Coh.trackers hCoh, hBytes, ((s.countAccess_frame ppn 1 0).mono (by decide)).trans hFrame⟩
  · intro l ppn hObeys hServes hOpen hMeta hMax hKind hOwner
    obtain rfl := State.tracker_id hTracker
    have hDir : (dirOwned m).toNat / 256 ≠ 3 := by rw [dirOwned_toNat hMax]; omega
    obtain ⟨hSent, ⟨n, hNow⟩, hFrame⟩ := State.lineRead_snoops (s := s.countAccess ppn 1 0)
      (x := { x with dir := dirOwned m }) (data := s.lineReads ppn (l % 1024)) (m := (m, host))
      (State.tracker_mem hTracker) rfl (by rw [hKind]; rfl) (by
        rw [hKind]
        exact (snoopsFor_wrNc_owned hMax _ _).trans hOwner)
    have hCounted := s.countAccess_frame ppn 1 0
    refine does_intro (exec_homeLineReadDone hTracker hRead hAttended hObeys (by rw [hKind]; decide)
        (State.hubRead_written hServes hOpen hMeta hDir) rfl) ⟨hSent, fun y hy => ?_, ?_,
        (hCounted.mono (by decide)).trans (hFrame.mono (by decide))⟩
    · obtain rfl := Option.some.inj (hNow.symm.trans hy)
      exact ⟨rfl, rfl, by rw [List.length_append]; rfl⟩
    · exact ((State.countAccess_cells .rfl0).after hFrame (by decide)).sameBytes
  · intro r hNone
    exact does_intro (exec_snpAck_stale hServed hNone)
      ⟨rfl, rfl, State.bump_keeps (State.journalOut_keeps .rfl0 (by decide)) (by decide)⟩
  · intro r hSnooped hForm y hOwed
    have hDone := State.snoopsDone_waits (s := r) (x := x) (y := y) (State.snooped_mem hSnooped) rfl hOwed
    exact does_intro ((exec_snpAck hServed hSnooped hForm).trans (congrArg Host.Outcome.next hDone))
      ⟨rfl, State.setTracker_frame _ _⟩
  · intro r hSnooped hForm hLine hAligned hAddr y hOwed
    have hDone := State.snoopsDone_waits (s := r) (x := x) (y := y) (State.snooped_mem hSnooped) rfl hOwed
    exact does_intro ((exec_snpData hServed hSnooped hForm hLine hAligned hAddr).trans
      (congrArg Host.Outcome.next hDone)) ⟨rfl, State.setTracker_frame _ _⟩
  · intro r hSnooped hForm hLine hAligned hAddr hSnoop hKind hAll
    let y : Tracker := { x.answer h false with cur := some data, fromMember := true }
    have hDone := State.snoopsDone_applies (s := r) (x := x) (y := y) (State.snooped_mem hSnooped) rfl hSnoop hAll
    obtain ⟨hQueue, -, hBytes, hFrame⟩ := State.applyHome_rdOwn (s := r.setTracker y) (x := y) (cur := data)
      (fromMember := true) hKind (.inl rfl)
    exact does_intro ((exec_snpData hServed hSnooped hForm hLine hAligned hAddr).trans
      (congrArg Host.Outcome.next hDone)) ⟨hQueue, hBytes, ((r.setTracker_frame y).mono (by decide)).trans hFrame⟩
  · intro r hOwed hForm
    exact does_intro (exec_grantAck hServed hOwed hForm)
      ⟨rfl, State.freeTracker_keeps (State.journalOut_keeps .rfl0 (by decide)) (by decide)⟩
  · refine does_intro rfl ⟨fun e => ?_, rfl, upd_coh .rfl0 (by decide)⟩
    simp only [List.mem_filter, Bool.not_eq_true', decide_eq_false_iff_not]
  · obtain ⟨hDown, -, hNone⟩ := State.domainFalls_effect (s := s) (cause := 1) (report := true) (held := none) hUp
    exact does_intro (exec_cohDeadlineExpiry_grant hTracker hWaits hBound hDue)
      ⟨hDown, hNone, State.domainFalls_frame⟩

end Sys2Proof.Machine
end

section
/-! Domain commands (chapter 8): what each writes of the domain table, the extent map, the memory keys and the
page-valid bits, where no other member of the set has to be ordered. -/

namespace Sys2Proof

/-! ## Page ranges -/

/-- Taking pages out of the ranges leaves every other page in. -/
theorem Ranges.has_remove {r : Ranges} {lo n p : Nat} (hIn : r.has p = true) (hOut : p < lo ∨ lo + n ≤ p) :
    (r.remove lo n).has p = true := by
  obtain ⟨⟨a, k⟩, hMem, hHas⟩ := List.any_eq_true.mp hIn
  obtain ⟨hFrom, hTo⟩ : a ≤ p ∧ p < a + k := of_decide_eq_true hHas
  refine List.any_eq_true.mpr ?_
  simp only [Ranges.remove, List.mem_flatMap]
  by_cases hApart : a + k ≤ lo ∨ lo + n ≤ a
  · exact ⟨(a, k), ⟨_, hMem, by simp [hApart]⟩, hHas⟩
  · rcases hOut with hBelow | hAbove
    · have hLeft : a < lo := by omega
      exact ⟨(a, min (a + k) lo - a), ⟨_, hMem, by simp [hApart, hLeft]⟩, decide_eq_true ⟨hFrom, by omega⟩⟩
    · have hRight : lo + n < a + k := by omega
      exact ⟨(max a (lo + n), a + k - max a (lo + n)), ⟨_, hMem, by simp [hApart, hRight]⟩,
        decide_eq_true ⟨by omega, by omega⟩⟩

theorem Ranges.has_add (r : Ranges) {lo n p : Nat} (h : (lo ≤ p ∧ p < lo + n) ∨ r.has p = true) :
    (r.add lo n).has p = true := by
  by_cases hNone : n = 0
  · subst hNone
    exact h.resolve_left (by omega)
  · unfold Ranges.add
    rw [if_neg hNone]
    by_cases hNew : lo ≤ p ∧ p < lo + n
    · exact List.any_eq_true.mpr ⟨(lo, n), List.mem_cons_self, decide_eq_true hNew⟩
    · have hKept := Ranges.has_remove (lo := lo) (n := n) (h.resolve_left hNew) (by omega)
      obtain ⟨x, hMem, hHas⟩ := List.any_eq_true.mp hKept
      exact List.any_eq_true.mpr ⟨x, List.mem_cons_of_mem _ hMem, hHas⟩

end Sys2Proof

namespace Sys2Proof.Machine
open Sys2Proof

/-! ## The tender's state, on which held completions depend (R384) -/

@[simp] theorem State.logChange_tender (s : State) (kind index len : Nat) (j : Option Nat) :
    (s.logChange kind index len j).twin.tender = s.twin.tender := by
  unfold State.logChange
  split <;> rfl

@[simp] theorem State.setDomain_tender (s : State) (d : Nat) (x : Domain) :
    (s.setDomain d x).twin.tender = s.twin.tender := State.logChange_tender _ _ _ _ _

@[simp] theorem State.wipePages_tender (s : State) (p n : Nat) : (s.wipePages p n).twin.tender = s.twin.tender :=
  State.logChange_tender _ _ _ _ _

theorem State.rootWaits_of_tender {s t : State} (h : t.twin.tender = s.twin.tender) : t.rootWaits = s.rootWaits := by
  unfold State.rootWaits
  rw [h]

/-! ## Clearing the page-valid bits of an extent (R226, R341) -/

/-- The page-valid bit of page `i` of the extent whose first page is `base` is cleared, and that of the page it is being
copied to. -/
def State.clearPage (base : Nat) (s : State) (i : Nat) : State :=
  let p := s.phys (base + i)
  let s := s.wipePages p 1
  match Tab.get none s.mem.moving p with
  | some mv => s.wipePages mv.target 1
  | none => s

theorem State.clearValid_eq (s : State) (e : Nat) : s.clearValid e =
    (List.range ((s.ext e).localGran * 32)).foldl (State.clearPage (s.ext e).base) s := rfl

theorem State.wipePages_closed (s : State) (p n : Nat) : (s.wipePages p n).mem.closed = s.mem.closed.add p n := by
  unfold State.wipePages
  rw [State.logChange_mem]

theorem State.wipePages_remap (s : State) (p n : Nat) : (s.wipePages p n).mem.remap = s.mem.remap := by
  unfold State.wipePages
  rw [State.logChange_mem]

theorem State.phys_of_remap {s t : State} (h : t.mem.remap = s.mem.remap) (p : Nat) : t.phys p = s.phys p := by
  unfold State.phys
  rw [h]

/-- One page: the remap table and the tender stand, and a page is closed that was, or that is this one. -/
theorem State.clearPage_effect (base : Nat) (s : State) (i : Nat) :
    let t := s.clearPage base i
    t.mem.remap = s.mem.remap ∧ t.twin.tender = s.twin.tender ∧
      ∀ p, p = s.phys (base + i) ∨ s.mem.closed.has p = true → t.mem.closed.has p = true := by
  have hWiped : ∀ p, p = s.phys (base + i) ∨ s.mem.closed.has p = true →
      (s.wipePages (s.phys (base + i)) 1).mem.closed.has p = true := fun p hp => by
    rw [State.wipePages_closed]
    exact Ranges.has_add _ (hp.imp_left fun hEq => by omega)
  unfold State.clearPage
  dsimp only
  split
  · refine ⟨?_, ?_, fun p hp => ?_⟩
    · rw [State.wipePages_remap, State.wipePages_remap]
    · rw [State.wipePages_tender, State.wipePages_tender]
    · rw [State.wipePages_closed]
      exact Ranges.has_add _ (.inr (hWiped p hp))
  · exact ⟨State.wipePages_remap _ _ _, State.wipePages_tender _ _ _, hWiped⟩

theorem State.clearPages_effect (base : Nat) (l : List Nat) (s : State) :
    let t := l.foldl (State.clearPage base) s
    t.twin.tender = s.twin.tender ∧
      ∀ p, (∃ i, i ∈ l ∧ p = s.phys (base + i)) ∨ s.mem.closed.has p = true → t.mem.closed.has p = true := by
  induction l generalizing s with
  | nil => exact ⟨rfl, fun p hp => hp.resolve_left fun ⟨i, hi, _⟩ => absurd hi List.not_mem_nil⟩
  | cons j l ih =>
    obtain ⟨hRemap, hTender, hClosed⟩ := s.clearPage_effect base j
    obtain ⟨hTender', hClosed'⟩ := ih (s.clearPage base j)
    refine ⟨hTender'.trans hTender, fun p hp => hClosed' p ?_⟩
    rcases hp with ⟨i, hi, hEq⟩ | hWas
    · rcases List.mem_cons.mp hi with rfl | hi
      · exact .inr (hClosed p (.inl hEq))
      · exact .inl ⟨i, hi, hEq.trans (State.phys_of_remap hRemap _).symm⟩
    · exact .inr (hClosed p (.inr hWas))

@[simp] theorem State.clearValid_tender (s : State) (e : Nat) : (s.clearValid e).twin.tender = s.twin.tender :=
  (State.clearPages_effect _ _ s).1

/-- Every page that this module holds of the extent reads as never written (R226). -/
theorem State.clearValid_pages (s : State) {e i : Nat} (hi : i < (s.ext e).localGran * 32) :
    (s.clearValid e).pageValid (s.phys ((s.ext e).base + i)) = false := by
  have hClosed := (State.clearPages_effect (s.ext e).base (List.range ((s.ext e).localGran * 32)) s).2 _
    (.inl ⟨i, List.mem_range.mpr hi, rfl⟩)
  unfold State.pageValid
  rw [State.clearValid_eq, hClosed]
  rfl

theorem State.clearValid_frame (s : State) (e : Nat) : KeepsBut [.mem, .twin] s (s.clearValid e) :=
  State.clearValid_keeps .rfl0 (by decide)

/-! ## A domain command is carried out (R205, R228) -/

theorem State.domainCmd_mastered {s : State} {c : RslCmd} {cmd : Nat} {k : State → State} (hServed : RslServed s c cmd)
    (hMastered : Mastered s) : s.domainCmd c cmd k = k (afterOpen s c cmd) := by
  obtain ⟨hWhole, hMaster⟩ := hMastered
  have hWhole' : ¬ (afterOpen s c cmd).pool.degraded = true := by
    rw [show (afterOpen s c cmd).pool.degraded = false from hWhole]
    decide
  have hMaster' : (afterOpen s c cmd).isMaster = true := hMaster
  exact (rslGate_served hServed rfl).trans ((if_neg hWhole').trans (if_neg (not_not_intro hMaster')))

/-- With nobody to order and no tender's root to wait for, the command is answered at once. -/
theorem State.domainOrder_alone {s : State} {c : RslCmd} {cmd v d : Nat} {keyed : Bool} (hAlone : s.joined = [])
    (hRoot : keyed = true → s.rootWaits = false) :
    s.domainOrder d keyed (heldRsl c cmd cOk v []) = s.rslAnswer c cmd cOk v [] := by
  have hAnswer := State.releaseAll_heldRsl (s := s) (c := c) (cmd := cmd) (value := v) (data := [])
    (show cOk ≠ cPoison by decide)
  refine (if_pos hAlone).trans ?_
  cases keyed with
  | false => exact hAnswer
  | true =>
    have hNow : ¬ s.rootWaits = true := by rw [hRoot rfl]; decide
    exact (if_neg hNow).trans hAnswer

theorem State.orderMask_alone_heldRsl {s : State} {c : RslCmd} {cmd v : Nat} {mask : BitVec 8} {first : SetOrder}
    {more : List SetOrder} (hAlone : s.joined = []) :
    s.orderMask mask first more (some (heldRsl c cmd cOk v [])) = s.rslAnswer c cmd cOk v [] :=
  (State.orderMask_alone hAlone _ _ _ _).trans (State.releaseAll_heldRsl (by decide))

/-! ## What each command writes (R225, R226, R386) -/

theorem State.loadKey_key (s : State) (k : Nat) : (Tab.get none (s.loadKey k).mem.keys k).isSome = true := by
  unfold State.loadKey
  dsimp only
  rw [Tab.get_set_self]
  rfl

theorem State.zeroKey_key (s : State) (k : Nat) : Tab.get none (s.zeroKey k).mem.keys k = none := by
  unfold State.zeroKey
  dsimp only
  rw [Tab.get_set_self]

/-- Changes that leave the configuration, the start and the pool alone leave nobody joined who was not. -/
theorem joined_nil_of_keeps {ps : List Area} {s t : State} (h : KeepsBut ps s t)
    (hFree : ps.all (fun a => decide (a ∉ [.cfg, .boot, .pool])) = true) (hAlone : s.joined = []) : t.joined = [] := by
  have hKept : ∀ a, a ∈ [Area.cfg, .boot, .pool] → a ∉ ps := fun a hIn hMem =>
    of_decide_eq_true (List.all_eq_true.mp hFree a hMem) hIn
  exact (State.joined_of_keeps h (hKept _ (by decide)) (hKept _ (by decide))
    (congrArg Pool.members (h .pool (hKept _ (by decide))))).trans hAlone

/-- A domain is UP under the next DGEN, with a fresh key. -/
def State.renewDomain (s : State) (d : Nat) (x : Domain) : State := (s.setDomain d x).loadKey (1024 + d)

theorem State.renewDomain_frame (s : State) (d : Nat) (x : Domain) :
    KeepsBut [.coh, .mem, .twin, .fresh] s (s.renewDomain d x) :=
  State.loadKey_keeps (State.setDomain_keeps .rfl0 (by decide)) (by decide)

theorem State.renewDomain_domains (s : State) (d : Nat) (x : Domain) :
    (s.renewDomain d x).coh.domains = Tab.set Domain.empty s.coh.domains d x := s.setDomain_domains d x

theorem State.renewDomain_tender (s : State) (d : Nat) (x : Domain) :
    (s.renewDomain d x).twin.tender = s.twin.tender := State.setDomain_tender s d x

theorem State.renewDomain_fresh (s : State) (d : Nat) (x : Domain) : (s.renewDomain d x).fresh = s.fresh + 1 :=
  congrArg (· + 1) (State.setDomain_fresh s d x)

/-- What a reset leaves: a new DGEN and key, the pages of the bound extents cleared, and the members told. -/
def State.resetDomain (s : State) (d : Nat) : State :=
  let s := s.renewDomain d { s.domain d with st := .up, dgen := nextDgen (s.domain d).dgen }
  let s := (s.boundExts d).foldl State.clearValid s
  s.domainNotices d 2 0

theorem State.clearValids_frame (s : State) (es : List Nat) : KeepsBut [.mem, .twin] s (es.foldl State.clearValid s) :=
  KeepsBut.foldl .rfl0 fun _ _ h => State.clearValid_keeps h (by decide)

theorem State.clearValids_tender (s : State) (es : List Nat) :
    (es.foldl State.clearValid s).twin.tender = s.twin.tender :=
  List.foldlRecOn (motive := fun t : State => t.twin.tender = s.twin.tender) es _ rfl fun t h e _ =>
    (t.clearValid_tender e).trans h

theorem State.domainNotices_frame (s : State) (d kind cause : Nat) : KeepsBut [.fab] s (s.domainNotices d kind cause) :=
  State.domainNotices_keeps .rfl0 (by decide)

theorem State.resetDomain_frame (s : State) (d : Nat) :
    KeepsBut [.fab, .coh, .mem, .twin, .fresh] s (s.resetDomain d) :=
  (((s.renewDomain_frame d _).mono (by decide)).trans ((State.clearValids_frame _ _).mono (by decide))).trans
    ((State.domainNotices_frame _ _ _ _).mono (by decide))

theorem State.resetDomain_domains (s : State) (d : Nat) : (s.resetDomain d).coh.domains =
    Tab.set Domain.empty s.coh.domains d { s.domain d with st := .up, dgen := nextDgen (s.domain d).dgen } := by
  unfold State.resetDomain
  rw [State.domainNotices_frame _ _ _ _ .coh (by decide), State.clearValids_frame _ _ .coh (by decide),
    State.renewDomain_domains]

theorem State.resetDomain_tender (s : State) (d : Nat) : (s.resetDomain d).twin.tender = s.twin.tender := by
  unfold State.resetDomain
  rw [State.domainNotices_frame _ _ _ _ .twin (by decide), State.clearValids_tender, State.renewDomain_tender]

/-- Extent `e` is bound to a domain, or freed from one, under the key `key`, and its pages are cleared. -/
def State.rebindExt (s : State) (e : Nat) (domain : Option Nat) (key : Nat) : State :=
  (s.setExt e { s.ext e with domain := domain, key := key }).clearValid e

section Rebind
variable (s : State) (e : Nat) (domain : Option Nat) (key : Nat)

theorem State.rebindExt_frame : KeepsBut [.pool, .mem, .twin] s (s.rebindExt e domain key) :=
  State.clearValid_keeps (State.setExt_keeps .rfl0 (by decide)) (by decide)

theorem State.rebindExt_pool : (s.rebindExt e domain key).pool = { s.pool with
    exts := Tab.set Ext.empty s.pool.exts e { s.ext e with domain := domain, key := key } } :=
  (State.clearValid_frame _ e .pool (by decide)).trans (State.setExt_pool _ _ _)

theorem State.rebindExt_joined : (s.rebindExt e domain key).joined = s.joined :=
  State.joined_of_keeps (s.rebindExt_frame e domain key) (by decide) (by decide) (by rw [State.rebindExt_pool])

theorem State.rebindExt_pages {i : Nat} (hi : i < (s.ext e).localGran * 32) :
    (s.rebindExt e domain key).pageValid (s.phys ((s.ext e).base + i)) = false := by
  have hWritten : (s.setExt e { s.ext e with domain := domain, key := key }).ext e =
      { s.ext e with domain := domain, key := key } := State.ext_setExt _ _ _
  have hPages := State.clearValid_pages (s.setExt e { s.ext e with domain := domain, key := key }) (e := e) (i := i)
    (by rw [hWritten]; exact hi)
  rw [hWritten] at hPages
  rwa [State.phys_of_remap (congrArg Mem.remap (State.setExt_mem s e _))] at hPages

end Rebind

/-- A command that wrote one domain, and is answered OK. -/
theorem rslRuns_domain {i : Instr} {s u : State} {c : RslCmd} {cmd value d : Nat} {x : Domain} {ps : List Area}
    {p : State → Prop} (hExec : exec i s = .next (u.rslAnswer c cmd cOk value []))
    (hKeeps : KeepsBut ps (afterOpen s c cmd) u) (hRsl : Area.rsl ∉ ps)
    (hDomains : u.coh.domains = Tab.set Domain.empty s.coh.domains d x) (hCmd : Area.coh ∉ cplParts cmd)
    (hp : ∀ t, KeepsBut (cplParts cmd) u t → t.domain d = x → (∀ i, i ≠ d → t.domain i = s.domain i) → p t) :
    RslRuns i s c cmd value [] ps p :=
  rslRuns_of_kept hExec hKeeps hRsl fun t hKept =>
    have hSet := domain_of_set ((congrArg Coh.domains (hKept .coh hCmd)).trans hDomains)
    hp t hKept hSet.1 hSet.2

/-- COH_MEMBER_ADD and COH_MEMBER_REMOVE: one slot of one domain is written, and the command answered OK. -/
theorem rslRuns_slot {i : Instr} {s : State} {c : RslCmd} {cmd d index : Nat} {slot : Option Nat}
    (hExec : exec i s = .next (((afterOpen s c cmd).setDomain d { s.domain d with
      slots := Tab.set none (s.domain d).slots index slot }).rslAnswer c cmd cOk 0 []))
    (hCmd : Area.coh ∉ cplParts cmd) : RslRuns i s c cmd 0 [] [.coh, .twin] fun t =>
      Tab.get none (t.domain d).slots index = slot ∧ t.domain d = { s.domain d with slots := (t.domain d).slots } ∧
      ∀ j, j ≠ d → t.domain j = s.domain j :=
  rslRuns_domain hExec (State.setDomain_frame _ _ _) (by decide) (State.setDomain_domains _ _ _) hCmd
    fun t _ hSet hOthers => by
      rw [hSet]
      exact ⟨Tab.get_set_self _ _ _ _, rfl, hOthers⟩

/-- COH_EXT_BIND and COH_EXT_UNBIND: one extent is bound or freed, and the command answered OK. -/
theorem rslRuns_rebind {i : Instr} {s : State} {c : RslCmd} {cmd ext key : Nat} {domain : Option Nat}
    {p : State → Prop}
    (hExec : exec i s = .next (((afterOpen s c cmd).rebindExt ext domain key).rslAnswer c cmd cOk 0 []))
    (hPool : Area.pool ∉ cplParts cmd)
    (hp : ∀ t, KeepsBut (cplParts cmd) ((afterOpen s c cmd).rebindExt ext domain key) t →
      t.ext ext = { s.ext ext with domain := domain, key := key } → (∀ j, j ≠ ext → t.ext j = s.ext j) → p t) :
    RslRuns i s c cmd 0 [] [.pool, .mem, .twin] p :=
  rslRuns_of_kept hExec (State.rebindExt_frame _ _ _ _) (by decide) fun t hKept =>
    have hExts := congrArg Pool.exts ((hKept .pool hPool).trans (State.rebindExt_pool _ _ _ _))
    hp t hKept (ext_of_exts_set (s := s) hExts) fun _ hj => ext_of_exts_set_ne (s := s) hExts hj

/-- A command on which a domain falls is answered at the master of a set that nobody else has joined. -/
theorem State.domainFalls_answers {s : State} {c : RslCmd} {cmd v d cause : Nat} {report : Bool}
    (hUp : (s.domain d).st = .up) (hMaster : s.isMaster = true) (hAlone : s.joined = []) :
    RslAnswered s (s.domainFalls d cause report (some (heldRsl c cmd cOk v []))) c cmd cOk v [] := by
  have hFallen : KeepsBut [.fab, .coh, .coach, .twin, .ctrs] s (s.fallen d cause) := State.fallen_frame
  have hTold := (s.fallen d cause).domainNotices_frame d 1 cause
  have hMaster' : (s.fallen d cause).isMaster = true :=
    (State.isMaster_of (hFallen .cfg (by decide)) (hFallen .boot (by decide))
      (congrArg Pool.master (hFallen .pool (by decide)))).trans hMaster
  have hSpread : (s.fallen d cause).spreadDown d cause report (some (heldRsl c cmd cOk v [])) =
      ((s.fallen d cause).domainNotices d 1 cause).rslAnswer c cmd cOk v [] :=
    (if_pos hMaster').trans (State.orderMask_alone_heldRsl
      (joined_nil_of_keeps hTold (by decide) (joined_nil_of_keeps hFallen (by decide) hAlone)))
  unfold RslAnswered
  rw [State.domainFalls_up hUp, hSpread, State.raise_rsl]
  exact answered_of ((hTold .rsl (by decide)).trans (hFallen .rsl (by decide)))

theorem exec_cohDownReport {s : State} {h : ReqHdr} {gen i d cause : Nat} (hServed : SetReqServed s h gen i)
    (hMaster : s.isMaster = true) : exec (.cohDownReport h gen d (s.domain d).dgen cause) s =
      .next (((arrived s h).journalOut h.jidx).domainDown d cause) := by
  have hFrame := arrived_frame s h
  have hMaster' : ((arrived s h).journalOut h.jidx).isMaster = true :=
    (State.isMaster_of (t := (arrived s h).journalOut h.jidx) (hFrame .cfg (by decide)) (hFrame .boot (by decide))
      (congrArg Pool.master (hFrame .pool (by decide)))).trans hMaster
  have hGen : (((arrived s h).journalOut h.jidx).domain d).dgen = (s.domain d).dgen :=
    congrArg (fun x : Coh => (Tab.get Domain.empty x.domains d).dgen) (hFrame .coh (by decide))
  exact congrArg Host.Outcome.next ((State.setReq_served hServed).trans (if_pos ⟨hMaster', hGen⟩))

/-- Settles O28: each command by the state that it leaves before its answer. -/
theorem domainsAreManagedOverTheServiceLink : Obligations.DomainsAreManagedOverTheServiceLink := by
  refine ⟨fun c tenant s hServed hMastered hAlone hRoot hTenant => ?_,
    fun c d index host s hServed hMastered hAlone hMax hIndex hHost => ?_,
    fun c d index s hServed hMastered hAlone hMax hIndex => ?_,
    fun c ext d s hServed hMastered hAlone hExt hMax => ?_, fun c ext d s hServed hMastered hAlone hExt => ?_,
    fun c d s hServed hMastered hAlone hMax hUp => ?_,
    fun c d s hServed hMastered hAlone hRoot hMax hDown => ?_,
    fun c d s hServed hMastered hAlone hRoot hMax hDown hNobody hUnbound => ?_, fun c d s hServed hMax => ?_,
    fun h gen i d cause s hServed hMaster hUp => ?_⟩
  · intro d hMax
    let r := afterOpen s c 0x140
    have hFrame := r.renewDomain_frame d { Domain.empty with st := .up, tenant := tenant, dgen := 1 }
    have hExec : exec (.cohDomainCreate c tenant) s = .next ((r.renewDomain d
        { Domain.empty with st := .up, tenant := tenant, dgen := 1 }).rslAnswer c 0x140 cOk d []) :=
      congrArg Host.Outcome.next ((State.domainCmd_mastered hServed hMastered).trans
        ((if_neg (Nat.not_lt.mpr hTenant)).trans ((if_neg (Nat.not_lt.mpr hMax)).trans
          (State.domainOrder_alone (joined_nil_of_keeps hFrame (by decide) hAlone) fun _ =>
            (State.rootWaits_of_tender (r.renewDomain_tender d _)).trans hRoot))))
    refine rslRuns_domain hExec (hFrame.mono (by decide)) (by decide) (r.renewDomain_domains d _)
      (by decide) fun t hKept hSet hOthers => ⟨hSet, hOthers, ?_, ?_, ?_⟩
    · rw [hKept .mem (by decide)]
      exact State.loadKey_key _ _
    · exact (hKept .fresh (by decide)).trans (r.renewDomain_fresh d _)
    · exact (Cells.after (State.loadKey_cells (State.setDomain_cells .rfl0)) hKept (by decide)).sameBytes
  · intro x hEmpty hAbsent hUsed hTenant
    have hForm : ¬ (2047 < d ∨ 63 < index ∨ 4095 < host) := by omega
    have hMay : ¬ (Tab.get none x.slots index ≠ none ∨ (x.slotOf host).isSome = true ∨ x.st = .free) := by
      simp [hEmpty, hAbsent, hUsed]
    exact rslRuns_slot (congrArg Host.Outcome.next ((State.domainCmd_mastered hServed hMastered).trans
      ((if_neg hForm).trans ((if_neg hMay).trans ((if_neg (not_not_intro hTenant)).trans (State.domainOrder_alone
        (joined_nil_of_keeps (State.setDomain_frame _ _ _) (by decide) hAlone) fun hNo => absurd hNo (by decide)))))))
      (by decide)
  · intro x hDown
    have hForm : ¬ (2047 < d ∨ 63 < index) := by omega
    exact rslRuns_slot (congrArg Host.Outcome.next ((State.domainCmd_mastered hServed hMastered).trans
      ((if_neg hForm).trans ((if_neg (not_not_intro hDown)).trans (State.domainOrder_alone
        (joined_nil_of_keeps (State.setDomain_frame _ _ _) (by decide) hAlone) fun hNo => absurd hNo (by decide))))))
      (by decide)
  · intro x hActive hShared hPlain hFree hTenant hUp hIdle
    have hForm : ¬ (16383 < ext ∨ 2047 < d) := by omega
    have hMay : ¬ (x.st ≠ .active ∨ x.shared = false ∨ x.sealed = true ∨ x.domain.isSome = true ∨
        x.tenant ≠ (s.domain d).tenant ∨ (s.domain d).st ≠ .up) := by
      simp [hActive, hShared, hPlain, hFree, hTenant, hUp]
    refine rslRuns_rebind (congrArg Host.Outcome.next ((State.domainCmd_mastered hServed hMastered).trans
      ((if_neg hForm).trans ((if_neg hMay).trans ((if_neg (not_not_intro hIdle)).trans
        (State.orderMask_alone_heldRsl ((State.rebindExt_joined _ _ _ _).trans hAlone)))))))
      (by decide) fun t hKept hSet hOthers => ⟨hSet, hOthers, fun i hi => ?_⟩
    have hCleared := (afterOpen s c 0x143).rebindExt_pages ext (some d) (1024 + d) hi
    unfold State.pageValid
    rw [hKept .mem (by decide)]
    exact hCleared
  · intro x hUsed hBound hDown
    have hForm : ¬ 16383 < ext := Nat.not_lt.mpr hExt
    have hMay : ¬ (x.st = .free ∨ (!(match x.domain with
        | some d => decide ((s.domain d).st = .down)
        | none => false)) = true) := by
      simp [hUsed, hBound, hDown]
    exact rslRuns_rebind (congrArg Host.Outcome.next ((State.domainCmd_mastered hServed hMastered).trans
      ((if_neg hForm).trans ((if_neg hMay).trans
        (State.orderMask_alone_heldRsl ((State.rebindExt_joined _ _ _ _).trans hAlone))))))
      (by decide) fun t _ hSet hOthers => ⟨hSet, hOthers⟩
  · have ⟨_, hMaster⟩ := hMastered
    have hExec : exec (.cohDomainDown c d) s =
        .next ((afterOpen s c 0x145).domainFalls d 5 true (some (heldRsl c 0x145 cOk 0 []))) :=
      congrArg Host.Outcome.next ((State.domainCmd_mastered hServed hMastered).trans
        ((if_neg (Nat.not_lt.mpr hMax)).trans (if_neg (not_not_intro hUp))))
    exact does_intro hExec ⟨State.domainFalls_answers hUp hMaster hAlone, State.domainFalls_effect hUp,
      State.domainFalls_frame.mono (by decide)⟩
  · let r := afterOpen s c 0x146
    have hExec : exec (.cohDomainReset c d) s = .next ((r.resetDomain d).rslAnswer c 0x146 cOk 0 []) :=
      congrArg Host.Outcome.next ((State.domainCmd_mastered hServed hMastered).trans
        ((if_neg (Nat.not_lt.mpr hMax)).trans ((if_neg (not_not_intro hDown)).trans
          (State.domainOrder_alone (joined_nil_of_keeps (r.resetDomain_frame d) (by decide) hAlone) fun _ =>
            (State.rootWaits_of_tender (r.resetDomain_tender d)).trans hRoot))))
    exact rslRuns_domain hExec ((r.resetDomain_frame d).mono (by decide)) (by decide)
      (r.resetDomain_domains d) (by decide) fun t _ hSet hOthers => ⟨hSet, hOthers⟩
  · let r := afterOpen s c 0x147
    let u := (r.setDomain d Domain.empty).zeroKey (1024 + d)
    have hFrame : KeepsBut [.coh, .mem, .twin] r u :=
      State.zeroKey_keeps (State.setDomain_keeps .rfl0 (by decide)) (by decide)
    have hMay : ¬ ((s.domain d).st ≠ .down ∨ (s.domain d).members ≠ [] ∨ s.boundExts d ≠ []) := by
      simp [hDown, hNobody, hUnbound]
    have hExec : exec (.cohDomainFree c d) s = .next (u.rslAnswer c 0x147 cOk 0 []) :=
      congrArg Host.Outcome.next ((State.domainCmd_mastered hServed hMastered).trans
        ((if_neg (Nat.not_lt.mpr hMax)).trans ((if_neg hMay).trans
          (State.domainOrder_alone (joined_nil_of_keeps hFrame (by decide) hAlone) fun _ =>
            (State.rootWaits_of_tender (r.setDomain_tender d Domain.empty)).trans hRoot))))
    refine rslRuns_domain hExec (hFrame.mono (by decide)) (by decide)
      (r.setDomain_domains d Domain.empty) (by decide) fun t hKept hSet hOthers =>
        ⟨hSet, hOthers, ?_, ?_⟩
    · rw [hKept .mem (by decide)]
      exact State.zeroKey_key _ _
    · exact (Cells.after (State.zeroKey_cells (State.setDomain_cells .rfl0)) hKept (by decide)).sameBytes
  · have hExec : exec (.cohDomainQuery c d) s = .next ((afterOpen s c 0x148).rslAnswer c 0x148 cOk 0
        (leBytes 8 (domainRecord s d) ++ memberList (s.domain d))) :=
      congrArg Host.Outcome.next ((rslGate_served hServed rfl).trans (if_neg (Nat.not_lt.mpr hMax)))
    exact does_intro hExec ⟨answered_done, State.rslAnswer_kept (by decide),
      (rslAnswer_keepsBut_cplParts _ _ _ _ _ _).mono (by decide)⟩
  · intro r
    have hUp' : ((r.journalOut h.jidx).domain d).st = .up :=
      (congrArg (fun x : Coh => (Tab.get Domain.empty x.domains d).st) (arrived_frame s h .coh (by decide))).trans hUp
    obtain ⟨hDown, hOthers, -⟩ := State.domainFalls_effect (cause := cause) (report := true) (held := none) hUp'
    exact does_intro (exec_cohDownReport hServed hMaster) ⟨hDown, hOthers,
      (State.journalOut_keeps .rfl0 (by decide)).trans State.domainFalls_frame⟩

end Sys2Proof.Machine
end
